-- ==== Sys2Proof/Word.lean ====
section
/-! DEFINITION. The bit-vector names used throughout, and the number types of the Q25's units (R2 to R5). -/

namespace Sys2Proof

/-- One byte. -/
abbrev Byte := BitVec 8
/-- A 32-bit instruction word, register or FP32 pattern. -/
abbrev W32 := BitVec 32
/-- A 64-bit scalar register or header. -/
abbrev W64 := BitVec 64
/-- A 128-bit slot, handle entry or accept window. -/
abbrev W128 := BitVec 128

/-- Core numbers C00 to C79 (R3). -/
abbrev CoreId := Fin 80
/-- Macro numbers M00 to M71 of one core (R5). -/
abbrev MacId := Fin 72
/-- Array dies AD0 to AD19 as 0 to 19, the hub die HB as 20 (R2, R273). -/
abbrev DieId := Fin 21
/-- Array dies alone. -/
abbrev ArrayDie := Fin 20
/-- Partitions P0 to P15 (R223). -/
abbrev PartId := Fin 16
/-- Host ports HP0 and HP1 (R330). -/
abbrev HPort := Fin 2
/-- Kraox ports XP, XM, YP, YM, ZP, ZM as 0 to 5 (R299). -/
abbrev KPort := Fin 6
/-- LPDDR6 channels DC00 to DC15 (R338). -/
abbrev Chan := Fin 16
/-- Power dies PD0 to PD3 (R250). -/
abbrev PowerDie := Fin 4

end Sys2Proof
end

