-- ==== Sys2Proof/Syntax.lean ====
section
/-! DEFINITION. The commands of the Q25: one constructor of Instr for each row of spec/opcode_table.json, with its operands,
and the operand structures the commands carry (frames, flits, images, host commands). -/

namespace Sys2Proof

/-- Who writes a macro's configuration block or row port (R24, R400). -/
inductive Writer where
  | loader | repair | rebind | arbiter | program
  deriving DecidableEq, Repr

/-- What a field repair replaces (R28, R29). -/
inductive RepairKind where
  | row (addr : BitVec 11)
  | column (seg : Fin 16) (pos : BitVec 9)
  | metaRow (r : Fin 16)
  deriving DecidableEq, Repr

/-- The engine classes of Table 5.18, numbered as ENG. -/
inductive Eng where
  | ve | aePass | aeDrain | aeRow | fe | le | se | su
  deriving DecidableEq, Repr

/-- A direction on the core grid (R4), numbered 1 to 4 as DIR in Table 5.11. -/
inductive Dir where
  | north | south | east | west
  deriving DecidableEq, Repr

/-- The tiles of an AE (R42). -/
inductive TileId where
  | ta | tb
  deriving DecidableEq, Repr

/-- Who makes a register write that has no row of its own (R131, R334). -/
inductive RegWriter where
  | engine (e : Eng) | hub
  deriving DecidableEq, Repr

/-- The address a REGISTER_WRITE names: a core's address space (Table 6.1) or a host port's BAR0 (Table 14.3). -/
inductive RegTarget where
  | core (c : CoreId) (addr : BitVec 30)
  | bar0 (p : HPort) (offset : BitVec 21)
  deriving DecidableEq, Repr

/-- A memory with an OWNER field (Table 9.2, R203). -/
inductive CtlMem where
  | streamTable | tenantTable | partitionTable | ringContexts | creditPools
  | commonsBank (k : Fin 64)
  deriving DecidableEq, Repr

/-- The requesters of R201, in their fixed order. -/
inductive HubAgent where
  | island | powerControl | scheduler | commandProcessor | mergeTree | loader | fabric (c : CoreId) | management
  deriving DecidableEq, Repr

/-- A 64-byte host command (Table 9.5). -/
structure HostCmd where
  opc    : Byte
  flags  : Byte
  tenant : BitVec 16
  tag    : W32
  ops    : List Byte
  deriving DecidableEq, Repr

/-- One entry of an image's section table (Table 8.2), with the CRC-32 the loader computes over the section's bytes. -/
structure SecEntry where
  type     : Byte
  lcore    : Byte
  reserved : BitVec 16
  offset   : Nat
  len      : Nat
  scrc     : W32
  crcFound : W32
  deriving DecidableEq, Repr

/-- One macro image of a WEIGHTS section (R186); rows not listed are 0. -/
structure MacroImage where
  lcore    : Nat
  lmac     : Byte
  byte1    : Byte
  mask     : BitVec 16
  mgsel    : W64
  mcoef    : List W64
  reserved0 : Bool
  rows     : List (Nat × BitVec 4096)
  deriving DecidableEq, Repr

/-- A handle initialiser (Table 8.3, R188). -/
structure HandleInit where
  lcore : Nat
  entry : Byte
  owner : Nat
  base  : Nat
  size  : Nat
  rd    : Bool
  wr    : Bool
  aliasGroup : Nat
  deriving DecidableEq, Repr

/-- A DATAINIT record: data, or a zero fill of a length (Table 8.3). -/
structure DataInit where
  lcore  : Nat
  handle : Byte
  offset : Nat
  data   : List Byte
  zeros  : Nat
  deriving DecidableEq, Repr

/-- A TABLES record: an address within the windows of Table 6.1 and the bytes written there (Table 8.3). -/
structure TableRec where
  lcore : Nat
  addr  : Nat
  data  : List Byte
  deriving DecidableEq, Repr

/-- A RES record of the manifest for one logical core (Table 8.5). -/
structure ResCore where
  macros  : Nat
  regions : Nat
  words   : Nat
  deriving DecidableEq, Repr

/-- A SYNC record of the manifest (Table 8.5). -/
structure SyncRec where
  lcore    : Nat
  flags    : W64
  counters : W32
  channels : W64
  acexp    : List (BitVec 24)
  flagInit : W64
  acInit   : List (BitVec 24)
  deriving DecidableEq, Repr

/-- A BAR record of the manifest: BID, scope and member logical cores (Table 8.5). -/
structure BarRec where
  bid     : BitVec 6
  torus   : Bool
  members : List Nat
  deriving DecidableEq, Repr

/-- An ARRV record: arrivals expected per step and counter, and the total consumed (R191). -/
structure ArrvRec where
  lcore   : Nat
  step    : Nat
  counter : Nat
  own     : Nat
  north   : Nat
  south   : Nat
  east    : Nat
  west    : Nat
  consumed : Nat
  deriving DecidableEq, Repr

/-- A REGB record: bounds of a register used in handle-plus-register fields (R192). -/
structure RegbRec where
  lcore : Nat
  reg   : BitVec 5
  lo    : Nat
  hi    : Nat
  deriving DecidableEq, Repr

/-- The resource manifest (Table 8.5). -/
structure Manifest where
  res       : List ResCore
  commons   : Nat
  lpddr     : Nat
  slots     : Nat
  mergeJobs : Nat
  sync      : List SyncRec
  bars      : List BarRec
  arrv      : List ArrvRec
  regb      : List RegbRec
  atomic    : Bool
  deriving DecidableEq, Repr

/-- A pad descriptor of the bucket table (Table 8.6); lcore 0xFF means all. -/
structure Pad where
  dim     : Byte
  lcore   : Byte
  handle  : Byte
  offset  : Nat
  elog    : Nat
  stride  : Nat
  value   : W32
  mask    : Bool
  maskH   : Byte
  maskOff : Nat
  deriving DecidableEq, Repr

/-- The bucket table (Table 8.6); entries is ENTRY by bucket pair NB1·c0 + c1, then logical core. -/
structure Buckets where
  ndim    : Nat
  nb0     : Nat
  nb1     : Nat
  npad    : Nat
  size0   : List Nat
  size1   : List Nat
  pads    : List Pad
  entries : List (List Nat)
  deriving DecidableEq, Repr

/-- One step of the STEPS section with its declared inputs (R193, R194). -/
structure StepRec where
  lcore  : Nat
  first  : Nat
  last   : Nat
  inputs : List (Nat × Nat × Nat)
  deriving DecidableEq, Repr

/-- The records of the sections whose byte layout the spec does not give (Tables 8.3, 8.5, 8.6), as the loader reads them: HANDLES, DATAINIT,
TABLES, MANIFEST, the pad descriptors of BUCKETS, and STEPS. The rest of an image is read from its bytes. -/
structure Listed where
  handles  : List HandleInit
  datainit : List DataInit
  tables   : List TableRec
  manifest : Manifest
  pads     : List Pad
  steps    : List StepRec
  deriving DecidableEq, Repr

/-- A .qxi image as the loader reads it: header bytes, section table and decoded sections (R185 to R197). -/
structure Image where
  header   : List Byte
  sections : List SecEntry
  words    : List (List W32)
  weights  : List MacroImage
  handles  : List HandleInit
  datainit : List DataInit
  tables   : List TableRec
  manifest : Manifest
  buckets  : Buckets
  nstep    : Nat
  est      : List Nat
  steps    : List StepRec
  deriving DecidableEq, Repr

/-- A dictionary frame as received (Table 15.2), with its Ethernet addresses; port true for the service port (R379). -/
structure Frame where
  service : Bool
  srcAddr : BitVec 48
  dstAddr : BitVec 48
  ver     : Byte
  op      : Byte
  seq     : BitVec 16
  session : BitVec 16
  status  : Byte
  flags   : Byte
  index   : BitVec 16
  sub     : Byte
  type    : Byte
  offset  : W32
  len     : BitVec 16
  rsvd    : BitVec 16
  ctr     : W32
  data    : List Byte
  tag     : List Byte
  deriving DecidableEq, Repr

/-- A Kraox flit as received (Table 13.3), with the outcomes of FEC decoding and of its CRC. -/
structure Flit where
  fecOk   : Bool
  crcOk   : Bool
  seq     : BitVec 12
  ack     : BitVec 12
  kind    : BitVec 4
  vc      : BitVec 2
  dcl     : Bool
  cbuf    : BitVec 3
  cred    : BitVec 6
  dst     : BitVec 13
  src     : BitVec 13
  job     : BitVec 16
  ordered : Bool
  detour  : Bool
  tree    : Bool
  op      : Byte
  msg     : W64
  payload : List Byte
  deriving DecidableEq, Repr

/-- What has come over a tree or from a sender when a collective completes (R313 to R315): the tree neighbour or member it is from, its
bytes, and for a child's partial INT32 sums the exact 64-bit sums with their lane states. -/
structure Arrived where
  dev   : Nat
  bytes : List Byte
  sums  : List (Int × Nat)
  deriving DecidableEq, Repr

/-- The command set: one constructor for each row of opcode_table.json, in the table's order. -/
inductive Instr where
  -- array macro
  | macroRowWrite (c : CoreId) (m : MacId) (by_ : Writer) (row : BitVec 12) (mask : BitVec 16) (data : BitVec 4096) (check : W128)
  | macroRowRead (c : CoreId) (m : MacId) (row : BitVec 12)
  | mcfgConfigWrite (c : CoreId) (m : MacId) (by_ : Writer) (v : W32)
  | mgselWrite (c : CoreId) (m : MacId) (by_ : Writer) (v : W64)
  | mcoefWrite (c : CoreId) (m : MacId) (by_ : Writer) (set : Fin 16) (v : W64)
  | stateToArmed (c : CoreId) (m : MacId) (by_ : Writer)
  | stateToLoading (c : CoreId) (m : MacId) (by_ : Writer)
  | stateToOffline (c : CoreId) (m : MacId) (by_ : Writer)
  | stateToRetired (c : CoreId) (m : MacId) (by_ : Writer)
  | recheckSweep (c : CoreId) (m : MacId)
  | fieldRepair (c : CoreId) (m : MacId) (what : RepairKind)
  | fieldRepairRewriteDone (c : CoreId) (m : MacId)
  -- array engine
  | apass (c : CoreId) (tag : BitVec 16) (slot : W128)
  | apred (c : CoreId) (tag : BitVec 16) (slot : W128)
  | arelease (c : CoreId) (tag : BitVec 16) (slot : W128)
  | passCmdAtHead (c : CoreId)
  | passRelease (c : CoreId)
  | planeComplete (c : CoreId)
  | tileFinish (c : CoreId)
  | retryRestart (c : CoreId)
  | macroSpareSwap (c : CoreId) (m : MacId)
  | ammapWrite (c : CoreId) (j : Fin 64) (v : Byte)
  | tileWindowWrite (c : CoreId) (e : Eng) (addr : BitVec 30) (data : List Byte)
  | markFull (c : CoreId) (t : TileId)
  | tdescWrite (c : CoreId) (t : TileId) (v : W32)
  | rmcfgWrite (c : CoreId) (ctx : Fin 16) (v : W32)
  | vsfWrite (c : CoreId) (i : Fin 64) (scale : W32)
  | ahcfgWrite (c : CoreId) (t : Fin 32) (v : W32)
  | rescaleTableWrite (c : CoreId) (i : Fin 16384) (v : W32)
  | outputTableWrite (c : CoreId) (addr : BitVec 30) (data : List Byte)
  | adrain (c : CoreId) (tag : BitVec 16) (slot : W128)
  | drainStart (c : CoreId)
  | drainComplete (c : CoreId)
  | amerge (c : CoreId)
  | hubMergeStart (p : PartId) (off : Nat)
  | hubMergeDone (p : PartId) (off : Nat)
  | satom (c : CoreId)
  | scatom (c : CoreId)
  -- control core
  | longWordIssue (c : CoreId)
  | nop (c : CoreId)
  | add (c : CoreId) (xd xa xb : BitVec 5)
  | sub (c : CoreId) (xd xa xb : BitVec 5)
  | and (c : CoreId) (xd xa xb : BitVec 5)
  | or (c : CoreId) (xd xa xb : BitVec 5)
  | xor (c : CoreId) (xd xa xb : BitVec 5)
  | shl (c : CoreId) (xd xa xb : BitVec 5)
  | shr (c : CoreId) (xd xa xb : BitVec 5)
  | sra (c : CoreId) (xd xa xb : BitVec 5)
  | mul (c : CoreId) (xd xa xb : BitVec 5)
  | min (c : CoreId) (xd xa xb : BitVec 5)
  | max (c : CoreId) (xd xa xb : BitVec 5)
  | addi (c : CoreId) (xd xa : BitVec 5) (imm : W32)
  | li (c : CoreId) (xd : BitVec 5) (imm : W32)
  | lih (c : CoreId) (xd : BitVec 5) (imm : W32)
  | beq (c : CoreId) (xa xb : BitVec 5) (target : BitVec 16)
  | bne (c : CoreId) (xa xb : BitVec 5) (target : BitVec 16)
  | blt (c : CoreId) (xa xb : BitVec 5) (target : BitVec 16)
  | bge (c : CoreId) (xa xb : BitVec 5) (target : BitVec 16)
  | jmp (c : CoreId) (target : BitVec 16)
  | loop (c : CoreId) (xa : BitVec 5) (target : BitVec 16)
  | csrr (c : CoreId) (xd : BitVec 5) (csr : BitVec 12)
  | csrw (c : CoreId) (csr : BitVec 12) (xa : BitVec 5)
  | fset (c : CoreId) (f : BitVec 6)
  | fclr (c : CoreId) (f : BitVec 6)
  | trap (c : CoreId) (tag : BitVec 16) (detail : BitVec 16)
  | done (c : CoreId) (tag : BitVec 16) (xa : BitVec 5)
  | syncNop (c : CoreId)
  | fence (c : CoreId) (emask : Byte)
  | wait (c : CoreId) (acidx : BitVec 5) (value : BitVec 24) (consume : Bool)
  | arrive (c : CoreId) (tag : BitVec 16) (dir : BitVec 3) (acidx : BitVec 5) (amount : BitVec 24)
  | neighbourArrival (owner : CoreId) (d : Dir)
  | arriveAck (c : CoreId) (d : Dir)
  | step (c : CoreId) (stepid : BitVec 16)
  | barrier (c : CoreId) (scope : BitVec 2) (bid : BitVec 6)
  | bprep (c : CoreId) (bid : BitVec 6) (lead : BitVec 16)
  | ophint (c : CoreId) (op : BitVec 3) (phase : BitVec 16)
  | ophintExpire (c : CoreId)
  | sigRaise (c : CoreId)
  | coreWaitTimeout (c : CoreId)
  | lcopy (c : CoreId)
  | lfill (c : CoreId)
  | scopy (c : CoreId)
  | aroww (c : CoreId)
  | arowr (c : CoreId)
  | commandComplete (c : CoreId) (e : Eng)
  | faultRecordTaken (c : CoreId)
  | gatherFlush (c : CoreId) (e : Eng)
  | coreStart (c : CoreId) (bank : Bool) (entry : BitVec 16) (x : List W64)
  | coreHold (c : CoreId)
  | coreRelease (c : CoreId)
  | coreStop (c : CoreId)
  | ibankLoad (c : CoreId) (bank : Bool) (at_ : BitVec 16) (words : List W32)
  | replayStart (c : CoreId)
  | replayRestore (c : CoreId)
  | rollbackApply (owner : CoreId) (d : Dir)
  | rollbackAck (c : CoreId)
  | patrolRead (c : CoreId) (bank : Fin 64)
  | spownWrite (c : CoreId) (r : Fin 48) (v : W32)
  | regionScrubDone (c : CoreId) (r : Fin 48)
  | hinvWrite (c : CoreId) (v : W32)
  | hinvDone (c : CoreId)
  | spareBankSwap (c : CoreId) (k : Fin 4) (bank : Fin 64)
  | spareBankCopyDone (c : CoreId) (k : Fin 4)
  | registerWrite (t : RegTarget) (w : RegWriter) (data : List Byte)
  -- vector and fine engines
  | vcopy (c : CoreId)
  | vadd (c : CoreId)
  | vsub (c : CoreId)
  | vmul (c : CoreId)
  | vmax (c : CoreId)
  | vmin (c : CoreId)
  | vfma (c : CoreId)
  | vlerp (c : CoreId)
  | vlerpsq (c : CoreId)
  | vdivsq (c : CoreId)
  | vexp (c : CoreId)
  | vrsqrt (c : CoreId)
  | vact (c : CoreId)
  | vdiv (c : CoreId)
  | vrsum (c : CoreId)
  | vrmax (c : CoreId)
  | vrssq (c : CoreId)
  | vpsum (c : CoreId)
  | vfsum (c : CoreId)
  | vsmx (c : CoreId)
  | vsmxc (c : CoreId)
  | viadd (c : CoreId)
  | visub (c : CoreId)
  | vimul (c : CoreId)
  | vimax (c : CoreId)
  | fmm (c : CoreId)
  -- hub commands and scheduler
  | install (ring : Fin 64) (recs : Listed)
  | installReplace (ring : Fin 64) (recs : Listed)
  | codeBankSwitch (prog : Nat)
  | uninstall (ring : Fin 64)
  | sqDoorbell (ring : Fin 64) (tail : W32)
  | commandFetch (ring : Fin 64) (cmd : HostCmd)
  | hostNop (ring : Fin 64)
  | streamOpen (ring : Fin 64)
  | streamReq (ring : Fin 64)
  | streamStop (ring : Fin 64)
  | streamClose (ring : Fin 64)
  | streamRelease (ring : Fin 64)
  | signal (ring : Fin 64)
  | budgetGrant (late : Bool)
  | epochBoundary
  | stepRecordReceived (c : CoreId)
  | invocationComplete (prog : Nat)
  | ctrlMemAdd (who : HubAgent) (mem : CtlMem) (addr : Nat) (wide : Bool) (v : W64)
  | ctrlMemSwap (who : HubAgent) (mem : CtlMem) (addr : Nat) (wide : Bool) (v : W64)
  | ownerWrite (who : HubAgent) (mem : CtlMem) (owner : Option Nat)
  -- partitions, rebinding, spares, safety island
  | partitionCreate (f : Frame)
  | partitionDelete (f : Frame)
  | partitionDeleteForce (f : Frame)
  | partitionCommit (f : Frame)
  | partitionDiscard (f : Frame)
  | partitionRebind (f : Frame)
  | partitionChangeComplete (p : PartId)
  | rebindStart (prog : Nat) (lcores : List Nat)
  | rebindHoldTimeout (prog : Nat)
  | rebindCopyDone (prog : Nat)
  | dieHeartbeat (d : ArrayDie)
  | dieHeartbeatTimeout (d : ArrayDie)
  | journalPersist
  | hubRuntimeWatchdog
  | islandWatchdog
  -- power delivery
  | auxStart
  | auxStop
  | islandBootDone (nid : BitVec 5)
  | mgmtClkSwitch
  | refclkLoss
  | onRequest
  | offRequest (trayStop : Bool)
  | busShortTestDone (short : Bool)
  | busInRegulation
  | dieStepComplete
  | softStartFail (d : DieId)
  | hiccupExpire (d : DieId)
  | graceEnd
  | diesIdle
  | dieStepOff
  | busDischarged
  | minOffExpire
  | busShort
  | regulatorLatchOff (d : DieId)
  | phaseFailOpen (d : DieId) (ph : Fin 24)
  | phaseSenseCheck (d : DieId) (currents : List Nat) (vout ibus : Nat) (ripple : BitVec 24)
  | powerDieFault (pd : PowerDie)
  | vinFail (vin : BitVec 16) (power : W32)
  | overvoltage (vin : BitVec 16) (power : W32)
  | lastGaspDone
  | coolantStop (history : W64)
  | thermalTrip (d : DieId) (sensor : BitVec 6)
  -- power estimation and control
  | estimationInterval (d : DieId) (counts : List Nat) (celsius : Int)
  | peakLoopTick
  | gcorrUpdate (measured valid total : Nat)
  | thermalLoop (d : DieId) (sensors : List Int)
  | thermalLimit (d : DieId) (sensor : BitVec 6)
  | pllStepDone (d : DieId)
  | voltageSettled (d : DieId)
  | rampUpdate (d : ArrayDie)
  | rampHoldExpire
  | paceReceived (src : BitVec 13) (lateness : BitVec 16)
  | paceCeilingExpire
  | tmcfgWrite (m : Fin 8) (by_ : HubAgent) (v : W32)
  | monitorSample (m : Fin 8) (value : BitVec 24) (ovr : Bool)
  -- Kraox
  | flitReceived (p : KPort) (half : Bool) (f : Flit)
  | retryRequest (p : KPort) (seq : BitVec 12)
  | laneSwap (p : KPort) (half : Bool) (lane : Fin 20)
  | halfLinkRetrained (p : KPort) (half : Bool) (goodLanes : Nat)
  | heartbeatSend (p : KPort)
  | portHeartbeatTimeout (p : KPort)
  | resettingSet (p : KPort)
  | drainingSet (p : KPort)
  | portTrained (p : KPort) (good0 good1 : Nat)
  | portTrainTimeout (p : KPort)
  | collectiveStart (p : PartId) (off : Nat)
  | collectiveDone (p : PartId) (off : Nat) (arrived : List Arrived)
  | keepaliveSend
  | keepaliveTimeout (member : BitVec 13)
  | leaseRenew (f : Frame)
  | leaseSend
  | leaseExpire
  | leaseLossFreeze
  | freezeRetentionExpire
  | resume (f : Frame)
  | discard (f : Frame)
  -- host ports and external memory
  | perstAssert (p : HPort)
  | perstDeassert (p : HPort)
  | hostLinkDown (p : HPort)
  | hostLaneReplace (p : HPort) (lane : Fin 16)
  | attnPulseEnd (p : HPort)
  | pauseBegin
  | pauseEnd
  | hdmRead (p : HPort) (addr : Nat)
  | hdmWrite (p : HPort) (addr : Nat) (data : List Byte)
  | identifyMemoryDevice (p : HPort)
  | getSupportedLogs (p : HPort)
  | getLog (p : HPort) (log : List Byte)
  | getEventRecords (p : HPort)
  | clearEventRecords (p : HPort) (handles : List Nat)
  | getPoisonList (p : HPort) (addr len : Nat)
  | getHealthInfo (p : HPort)
  | odRead (p : HPort) (index : BitVec 16) (sub : Byte) (offset : W32)
  | odWrite (p : HPort) (index : BitVec 16) (sub : Byte) (data : List Byte)
  | mailboxAuthChallenge (p : HPort)
  | mailboxAuthResponse (p : HPort) (tag : List Byte)
  | journalRead (p : HPort) (first : W32) (count : Nat)
  | mailboxSessionTimeout (p : HPort)
  | lpddrRetrainTick (ch : Chan) (ok : Bool)
  | lpddrRetraining (f : Frame)
  | lpddrRetrainDone (ch : Chan) (ok : Bool)
  | shadowRebuildDone (p : PartId) (copyB : Bool)
  -- object dictionary and management bus
  | read (f : Frame)
  | write (f : Frame)
  | authChallenge (f : Frame)
  | authResponse (f : Frame)
  | close (f : Frame)
  | discover (f : Frame)
  | announce
  | beaconTimeout
  | sessionIdleTimeout (slot : Fin 10)
  | snapshotExpire (slot : Fin 13)
  | stagingExpire (slot : Fin 13)
  | lockoutExpire (src : BitVec 48)
  | keyReplace (f : Frame)
  | safetyPowerOff (f : Frame)
  | safetyPowerOn (f : Frame)
  | clearLatched (f : Frame)
  | resetArrayDie (f : Frame)
  | resetHubDie (f : Frame)
  | resetPowerDie (f : Frame)
  | dieResetRelease (d : ArrayDie)
  | trayStateWrite (f : Frame)
  | journalAck (f : Frame)
  -- maintenance, test, firmware
  | marchRequest (f : Frame)
  | marchTestDone (d : DieId) (failures : List (Nat × Nat)) (repaired : Bool)
  | scrubCycle (d : ArrayDie)
  | phaseCalibration (f : Frame)
  | phaseCalibrationDone (d : DieId) (passed : BitVec 24)
  | imageDownload (f : Frame)
  | imageVerifyDone (component : Fin 5)
  | activate (f : Frame)
  | activationUnitDone (component : Fin 5)
  | confirm (f : Frame)
  | revert (f : Frame)
  | abortDownload (f : Frame)
  | trialExpire (component : Fin 5)
  | repairRecordsApplied
  | bootMarchDone (failures : List (Nat × Nat × Nat))
  | lpddrTrainingDone (density : List Nat)
  | runtimeInService
  -- package
  | idcode
  | bypass
  -- the rows added at the table's end
  | comparatorBackstop
  | leaveResetTimeout (d : ArrayDie)
  | unitStartTimeout (component : Fin 5)
  | beaconReceived
  | cqHeadWrite (ring : Fin 64) (head : W32)
  | installComplete (prog : Nat) (ok : Bool)
  deriving DecidableEq, Repr

end Sys2Proof
end

