-- ==== Sys2Proof/Machine/State.lean ====
section
/-! DEFINITION. The state of the Q25 as plain data: macros, cores, hub tables, power, Kraox, host ports, dictionary, maintenance,
and the queue of waiting commands. Every sparse map is a list of key and value pairs, keys strictly rising, in which no entry
equals what an unlisted key reads as (Machine/Mem.lean holds the operations). -/

namespace Sys2Proof.Machine

/-- A sparse map: entries for keys that differ from the map's default. -/
abbrev Sparse (α : Type) := List (Nat × α)
/-- A byte memory, keyed by address. -/
abbrev Memory := List Host.Cell

/-! ### Array macros (01_array_macro.md) -/

/-- MCFG.STATE (Table 1.9). -/
inductive MacroSt where
  | offline | loading | armed | retired
  deriving DecidableEq, Repr

/-- The contents of one macro row: 4,096 data columns and 128 check columns (R12). -/
structure Row where
  data  : BitVec 4096
  check : W128
  deriving DecidableEq, Repr

/-- The cells of one physical row: its data and check columns and its 64 spare columns, four per repair segment (Table 1.1). -/
structure Cells where
  main  : Row
  spare : W64
  deriving DecidableEq, Repr

/-- An operation that waits at a macro for a pass or a repair, or behind another (R26, R28): a row operation, a write of STATE, a row
command of the AE by its queue identifier (R125, R126), the second read of a row that the hub rewrote (R30, R375). -/
inductive HeldOp where
  | write (by_ : Writer) (row : BitVec 12) (mask : BitVec 16) (data : BitVec 4096) (check : W128)
  | read (row : BitVec 12)
  | state (by_ : Writer) (st : MacroSt)
  | aroww (id : Nat) (row : Nat) (mask : BitVec 16) (data : BitVec 4096)
  | arowr (id : Nat) (row : Nat) (core : Nat) (addr : Nat)
  | check (row : Nat)
  deriving DecidableEq, Repr

/-- One macro: its configuration block (Table 1.8), ROWS_WRITTEN (R27), the cells of its physical rows (0 to 2047 weight rows, 2048 to
2063 metadata rows, 2064 to 2095 the spare rows, 2096 the spare metadata row), and what waits at it. `failedRows` are the rows whose read
failed in the present scrub cycle, each with the columns at which it differed from the weight shadow (R30). -/
structure MacroState where
  st          : MacroSt
  rawWrite    : Bool
  wfmt        : BitVec 2
  sparse      : Bool
  mgsel       : W64
  mcoef       : Sparse W64
  lastRow     : BitVec 12
  lastGroup   : BitVec 4
  checkStale  : Bool
  recheckBusy : Bool
  cfgLockedErr : Bool
  metaErr     : Bool
  rowCheckErr : Bool
  repairBusy  : Bool
  passActive  : Bool
  passMismatch : BitVec 16
  rowMismatch  : BitVec 16
  mrepRow     : Sparse W32
  mrepMeta    : W32
  mrepCol     : Sparse W32
  rowsWritten : Bool
  rows        : Sparse Cells
  uGen        : Option Nat
  held        : List HeldOp
  failedRows  : List (Nat × List Nat)
  repairing   : Option RepairKind
  underTest   : Bool
  deriving DecidableEq, Repr

/-! ### Control core, engines and scratchpad (02 to 07) -/

/-- Lane states of a tile (Table 2.7). -/
inductive LaneSt where
  | normal | posInf | negInf | inv
  deriving DecidableEq, Repr

/-- Tile states (Table 2.8). -/
inductive TileSt where
  | empty | filling | full | draining
  deriving DecidableEq, Repr

/-- A tile's descriptor TDESC; its values and lane states are bytes of the window space. -/
structure Tile where
  st     : TileSt
  spec   : Bool
  tshift : Nat
  deriving DecidableEq, Repr

/-- Core states (Table 5.20). -/
inductive CoreSt where
  | idle | run | replay | held | faulted
  deriving DecidableEq, Repr

/-- How far a queued command has come: waiting, executing, or finished with its fault code and ESTAT. -/
inductive EntrySt where
  | waiting | executing | finished (fault : Byte) (estat : BitVec 16)
  deriving DecidableEq, Repr

/-- A command in an engine queue (R114), with what was read at issue: the register of each address field (R111, Table 5.13),
the parameter pair (R164, Table 7.7) and the handle copies (R145). -/
structure QEntry where
  id      : Nat
  eng     : Eng
  tag     : BitVec 16
  addr    : W32
  slot    : W128
  xr2     : W64
  xr1     : W64
  xr0     : W64
  par0    : W64
  par1    : W64
  handles : Sparse W128
  inStep  : Bool
  st      : EntrySt
  detail  : W64
  deriving DecidableEq, Repr

/-- A word's SIG waiting for the completion that SIGSRC names (R110). -/
structure SigWait where
  sig     : BitVec 8
  waits   : List Nat
  tag     : BitVec 16
  inStep  : Bool
  deriving DecidableEq, Repr

/-- A record of the core's fault queue (R127). `again` is the note of R56 beside an ARRAY_CHECK: its macro had reported in the same step
before. -/
structure FaultRec where
  code   : Byte
  tag    : BitVec 16
  addr   : W32
  stepno : W32
  detail : W64
  again  : Bool
  deriving DecidableEq, Repr

/-- Narrow writes merged in a port's gather buffer and not yet in their bank, with the command that merged last (R137, R138). -/
structure GatherEntry where
  word  : Nat
  owner : Nat
  bytes : Memory
  deriving DecidableEq, Repr

/-- The phases of a pass command after the checks of R33. -/
inductive PassPhase where
  | staged | running | retryDue
  deriving DecidableEq, Repr

/-- A pass command that holds its tile (R40 to R50): the tile as it was before, its macros, the staged activations, the base, and what
early exit decided. -/
structure PassRun where
  id       : Nat
  before   : Tile
  phase    : PassPhase
  macs     : List Nat
  wlog     : Nat
  sparse   : Bool
  attempt  : Nat
  staged   : Sparse Int
  sats     : Nat
  satAny   : Bool
  maskOff  : List Nat
  baseVal  : Sparse Int
  baseSt   : Sparse LaneSt
  decided  : Sparse Int
  planes   : Nat
  stopped  : List (Nat × Nat)
  ahsrc    : W32
  exitTab  : Sparse (Int × Int × Int × Int)
  deriving DecidableEq, Repr

/-- The AE's exit store: its tag (handle and generation) and the entries held, T_HI, T_LO, BPOS, BNEG (R45). -/
structure ExitStore where
  handle  : Nat
  gen     : Nat
  held    : Nat
  entries : Sparse (Int × Int × Int × Int)
  deriving DecidableEq, Repr

/-- A drain that runs: its queue entry, the record read and the scale factor F read when it started (R86, R95). -/
structure DrainRun where
  record : List Byte
  id    : Nat
  tile  : TileId
  scale : W32
  deriving DecidableEq, Repr

/-- The translation and the AHSRC read made once when a pass command first reached the head (R33, R77). -/
structure HeadXlat where
  id    : Nat
  macs  : List Nat
  ahsrc : W32
  deriving DecidableEq, Repr

/-- The step snapshot (R153). -/
structure Snapshot where
  x     : Sparse W64
  flags : W64
  acexp : Sparse (BitVec 24)
  deriving DecidableEq, Repr

/-- The contents of a scratchpad bank that no address reaches at present (R132, R158): a spare bank (64 to 67) not in service, or a bank
that a spare replaces. Bytes are keyed by 64 × index + byte of the word, failing lanes by 8 × index + lane. -/
structure BankCells where
  bytes : Memory
  lanes : Sparse Bool
  deriving DecidableEq, Repr

/-- One core (R5), all but its macros. `win` holds every register and window of Table 6.1 from 0x0400_0000 up except the macro
configuration blocks and TDESC, byte by byte at its core address. `pass` is the pass command that executes and `nextPass` the one staged
behind it (Table 5.9); `checked` lists the macros that reported ARRAY_CHECK in the present step (R56); `hidden` holds the banks out of
reach; `bankErrs` counts the parity errors each bank has reported (R236), `acts` holds the
activity counters 0 to 15 (R274); `holdAt` is a hub hold that takes effect at the next STEP mark (R56, R158, R232). -/
structure CoreState where
  owner    : Option Nat
  st       : CoreSt
  x        : Sparse W64
  bank     : Bool
  pc       : Nat
  ib0      : Sparse W32
  ib1      : Sparse W32
  stepno   : W32
  flags    : W64
  ac       : Sparse (BitVec 24)
  acexp    : Sparse (BitVec 24)
  rtok     : Sparse (BitVec 8)
  cto      : W32
  trccfg   : W32
  lastcr   : Sparse W64
  nextId   : Nat
  queue    : List QEntry
  sigs     : List SigWait
  faultQ   : List FaultRec
  doneReq  : Option (BitVec 16 × BitVec 16)
  stopReq  : Bool
  stepOr   : Sparse (BitVec 16)
  replayPc : Nat
  snap     : Snapshot
  outLedger  : Sparse Nat
  consLedger : Sparse Nat
  noReplay : Bool
  barsDone : List Nat
  barsLeft : List Nat
  replays  : Nat
  replayDue : Bool
  replaying : Bool
  restored  : Bool
  ackWait  : Nat
  sp       : Memory
  badLanes : Sparse Bool
  win      : Memory
  ta       : Tile
  tb       : Tile
  pass     : Option PassRun
  nextPass : Option PassRun
  checked  : List Nat
  drain    : Option DrainRun
  xlat     : Option HeadXlat
  exits    : Option ExitStore
  rmDone   : Sparse Nat
  ahHeld   : Sparse W32
  hcVe     : List (Nat × W128)
  hcAe     : List (Nat × W128)
  hcFe     : List (Nat × W128)
  hcLe     : List (Nat × W128)
  hcSe     : List (Nat × W128)
  scrubs   : Sparse Bool
  lastOwner : Sparse Nat
  marched  : Sparse Bool
  patrolAt : Sparse Nat
  gather   : Sparse (List GatherEntry)
  spareCopy : Sparse Nat
  hidden   : Sparse BankCells
  bankErrs : Sparse Nat
  acts     : Sparse Nat
  holdAt   : Bool
  hint     : Option (Nat × Nat)
  deriving DecidableEq, Repr

/-- What travels between neighbour cores besides memory accesses (R117, R150, R154). -/
inductive NbKind where
  | arrive | increment | rollback
  deriving DecidableEq, Repr

/-- A message on its way to a neighbour, or applied or refused there and not yet acknowledged. -/
structure NbMsg where
  src     : Nat
  dst     : Nat
  kind    : NbKind
  ac      : Nat
  amount  : Nat
  tag     : BitVec 16
  part    : Option Nat
  entry   : Nat
  inStep  : Bool
  arrived : Bool
  refused : Bool
  deriving DecidableEq, Repr

/-- A barrier of an installed program (R119, R317) and the BPREPs received for it (R291). -/
structure Barrier where
  prog    : Nat
  bid     : Nat
  torus   : Bool
  members : List Nat
  arrived : List Nat
  left    : List Nat
  sentUp  : Bool
  kids    : List Nat
  released : Bool
  bpreps  : List (Nat × Nat)
  deriving DecidableEq, Repr

/-- A 16-byte trace record (R127) with the partition and tenant it is collected for. -/
structure TraceRec where
  part  : Nat
  tenant : Nat
  time  : W32
  tag   : BitVec 16
  core  : Nat
  slot  : BitVec 3
  event : BitVec 5
  data  : W32
  stepno : W32
  deriving DecidableEq, Repr

/-! ### Hub (08 to 10) -/

/-- The life of an installed program. -/
inductive ProgSt where
  | installing | ready | codeReplacing | fullReplacing | held | rebinding
  deriving DecidableEq, Repr

/-- An installed program: its image (retained sections, R239), binding (R187) and replica slots (R209). -/
structure Program where
  handle  : Nat
  part    : Nat
  tenant  : Nat
  st      : ProgSt
  img     : Image
  lcores  : List Nat
  bank    : Bool
  newImg  : Option Image
  slots   : Nat
  slotUse : Sparse Nat
  seq     : Nat
  shadows : Nat
  order   : Nat
  ring    : Nat
  cmdId   : Nat
  deriving DecidableEq, Repr

/-- A running invocation (R214, R215). `dones` lists the DONEs its cores reported: core, tag and result code (R112). -/
structure Invocation where
  prog    : Nat
  seq     : Nat
  streams : List Nat
  est     : Nat
  start   : List (Nat × Int)
  busy    : List Nat
  dones   : List (Nat × BitVec 16 × BitVec 16)
  granted : Sparse Nat
  nsteps  : Nat
  code    : Nat
  fault   : Option Byte
  spec    : Bool
  deriving DecidableEq, Repr

/-- A stream-table entry (Table 9.9). `missed` and `wasHeld` say which conditions of R216 have failed since its last result: an epoch that
granted its partition less than the floor, a hold. -/
structure Stream where
  st       : Nat
  cls      : Nat
  part     : Nat
  each     : Bool
  late     : Bool
  kvLost   : Bool
  tenant   : Nat
  slot     : Nat
  prog     : Nat
  account  : Nat
  age      : Nat
  n0       : Nat
  n1       : Nat
  remain   : Nat
  inOff    : Nat
  outOff   : Nat
  energy   : Int
  results  : Nat
  tag      : W32
  sq       : Nat
  maxgap   : Nat
  holdDue  : Bool
  closeDue : Bool
  stopDue  : Bool
  closeTag : Option (W32 × Nat)
  outstanding : Bool
  queued   : List HostCmd
  missed   : Bool
  wasHeld  : Bool
  deriving DecidableEq, Repr

/-- A tenant-table entry (R210); its WEIGHT and quotas are dictionary objects (R367). -/
structure Tenant where
  deficit : Int
  busy    : Nat
  energy  : Nat
  deriving DecidableEq, Repr

/-- A ring context (Table 9.4), with the completions reserved on its completion ring (R207) and its PHASE (R208). -/
structure Ring where
  sqBase : W64
  cqBase : W64
  sqLog  : Byte
  cqLog  : Byte
  cqr    : Byte
  en     : Bool
  part   : Fin 16
  vec    : BitVec 16
  sqTail : W32
  sqHead : W32
  cqHead : W32
  cqTail : W32
  reserved : Nat
  phase  : Bool
  deriving DecidableEq, Repr

/-- A completion (Table 9.7) written to a completion ring. -/
structure Completion where
  tag    : W32
  status : Nat
  sq     : Nat
  phase  : Bool
  spec   : Bool
  more   : Bool
  stream : Nat
  retry  : Nat
  detail : W32
  result : W64
  time   : W32
  deriving DecidableEq, Repr

/-- What a completion says beyond its ring, tag and status. -/
structure Answer where
  status : Nat
  stream : Nat
  retry  : Nat
  detail : W32
  result : W64
  deriving DecidableEq, Repr

/-- A completion that waits for room on its completion ring (R208, Table 9.11); `fin` is the command it is the final completion of. -/
structure CqWait where
  ring : Nat
  tag  : W32
  fin  : Option Nat
  spec : Bool
  ans  : Answer
  deriving DecidableEq, Repr

/-- A fetched command whose final completion is not posted yet (R207). -/
structure OutCmd where
  id    : Nat
  ring  : Nat
  cmd   : HostCmd
  taken : Bool
  deriving DecidableEq, Repr

/-- A partition-table entry (Table 10.1) with the key of R226 and the dictionary's RESULT (Table 15.9). -/
structure Partition where
  st      : Nat
  rights  : Byte
  dlpol   : Nat
  lendp   : Nat
  tbase   : Nat
  tcount  : Nat
  cores   : BitVec 80
  cbanks  : W64
  lpbase  : Nat
  lpsize  : Nat
  squota  : Nat
  sused   : Nat
  pshare  : Nat
  pmin    : Nat
  kxshare : Nat
  resv    : Nat
  keygen  : Nat
  cgen    : W32
  result  : Nat
  pendShare : Option (Nat × Nat × Nat)
  deriving DecidableEq, Repr

/-- Staged dictionary fields of a partition (R366): the owning session and the staged values by object key. -/
structure StagedPart where
  session : Nat
  fields  : Sparse Nat
  deriving DecidableEq, Repr

/-- A partition change in progress (Table 10.2): the entry it will commit, or a delete. -/
structure PartChange where
  target   : Partition
  deleting : Bool
  deriving DecidableEq, Repr

/-- A rebinding in progress (R232). -/
structure Rebind where
  prog    : Nat
  part    : Nat
  moves   : List (Nat × Nat)
  holding : Bool
  recover : Bool
  result  : Bool
  deriving DecidableEq, Repr

/-- A journal record (Table 10.11). -/
structure JournalRec where
  time    : W32
  seq     : W32
  code    : Byte
  cls     : Nat
  persisted : Bool
  part    : Nat
  srcKind : Nat
  srcId   : Nat
  tag     : BitVec 16
  stepno  : W32
  addr    : W32
  detail  : W64
  deriving DecidableEq, Repr

/-- A hub job: a merge (Table 4.13) or a collective (Table 13.5), by partition and descriptor offset, with the tenant whose pool entry it
takes; `waits` marks a merge that waits for a rebinding to end (R234). -/
structure HubJob where
  part  : Nat
  off   : Nat
  coll  : Bool
  tenant : Nat
  waits : Bool
  fail  : Nat
  deriving DecidableEq, Repr

/-- The hub: programs, streams, tenants, rings, partitions, commons, scheduler and journal. `swapDue` lists the macros to be taken out of
service, `swapHeld` those whose core is held for the swap (R29, R56); `mergeSeen` the commons words that atomic adds have reached, by
partition and offset (R100, R232). `tenantMem` holds the bytes that atomics leave in the tenant table (R202); `turn` and `turnUsed` are the
ring whose turn it is and the commands it has taken (R207). -/
structure Hub where
  programs   : List Program
  nextProg   : Nat
  invs       : List Invocation
  streams    : Sparse Stream
  tenants    : Sparse Tenant
  tenantMem  : Memory
  accounts   : Sparse Nat
  rings      : Sparse Ring
  cqs        : Sparse (List Completion)
  cqWait     : List CqWait
  turn       : Nat
  turnUsed   : Nat
  cmds       : List OutCmd
  nextCmd    : Nat
  commons    : Memory
  arrayChecks : Nat
  arrayInfs  : Nat
  owners     : Sparse (Option Nat)
  credits    : Memory
  poolAsk    : List (Nat × Nat)
  poolPrev   : List (Nat × Nat)
  epoch      : Nat
  budget     : Nat
  granted    : Option Nat
  parts      : Sparse Partition
  staged     : Sparse StagedPart
  changes    : Sparse PartChange
  rebinds    : List Rebind
  steps      : List (Nat × List Byte)
  barriers   : List Barrier
  jobs       : List HubJob
  mergeSeen  : List (Nat × Nat)
  journal    : List JournalRec
  overwritten : Nat
  seq        : W32
  persistent : List JournalRec
  islandQ    : List JournalRec
  unwritten  : Nat
  acked      : W32
  unacked    : Nat
  checks     : Sparse Nat
  swapDue    : List Nat
  swapHeld   : List Nat
  trace      : List TraceRec
  traceDrops : Sparse Nat
  lateSet    : Nat
  paused     : Bool
  inService  : Bool
  admitting  : Bool
  deriving DecidableEq, Repr

/-! ### Power (11, 12) -/

/-- Package power states (Table 11.3); OFF is the auxiliary rail down. -/
inductive PkgState where
  | off | standby | up (k : Nat) | on | down (k : Nat) | minOff | latched
  deriving DecidableEq, Repr

/-- A die's regulator (R256, R259, R261). -/
inductive RegSt where
  | off | attempt | hiccup | on | latched
  deriving DecidableEq, Repr

/-- An operating-point move (R278, R279): the voltage the regulator ramps to and the point the PLL steps to. -/
structure Move where
  ramp : Option Nat
  pll  : Option Nat
  deriving DecidableEq, Repr

def Move.none : Move := { ramp := Option.none, pll := Option.none }

/-- One die: heartbeats, regulator and phases (R251, R259 to R265), its operating point, caps and move (R278 to R287), energy, ballast
and the start ramp (R275, R289 to R293), PACE (R294), and a SAFETY reset (R396). Energies are nJ per 2 µs. `grant` is the target of
R280; `idleFor` and `sinceUp` count 2 µs intervals; `recent` holds the last 50 energies, `work` the work level of R291; `recentMax` the
running macros of the last four ramp updates; `hottest` the hottest valid sensor of the last thermal loop (OD 2200.01); `oldParts` the partitions of the cores of a die in reset. -/
structure DieState where
  lost     : Bool
  inReset  : Bool
  missed   : Nat
  reg      : RegSt
  attempts : Nat
  inService : BitVec 24
  dropped  : BitVec 24
  mismatch : Nat
  phaseCap : Nat
  point    : Nat
  volt     : Nat
  request  : Nat
  grant    : Nat
  move     : Move
  peakCeil : Nat
  thermCap : Nat
  paceCeil : Nat
  sinceUp  : Nat
  idleFor  : Nat
  eDie     : Nat
  ballast  : Nat
  total    : Nat
  recent   : List Nat
  work     : Option Nat
  allowance : Nat
  recentMax : List Nat
  hottest  : Option Int
  invalid  : Nat
  throttled : Bool
  thrEver  : Bool
  lastPace : Nat
  sincePace : Nat
  resetHold : Bool
  retestDue : Bool
  oldParts : List (Nat × Nat)
  needMarch : Bool
  deriving DecidableEq, Repr

/-- A last-gasp area (R268): the records written to it and its first 1,036 bytes, records and trailer. -/
structure GaspArea where
  recs  : List JournalRec
  bytes : List Byte
  deriving DecidableEq, Repr

/-- Package power. `aux` is the auxiliary rail. Inputs as filtered: EN, TRAY_STOP_N, COOLANT_OK, VIN above start; the SAFETY hold; the bus; the stage of a power-down
(0 none, 1 grace, 2 coming to idle, 3 stepping off); an off request in UP; power dies in service; the caps of R266; the last gasp (R268);
THERMTRIP_N; GCORR; the 2 µs input energies of the last 2 ms; the 1 ms buckets of R283 with the one being filled and its ticks; the
energies of the epoch under way and of the last; OD 2000.07, 2000.08 and 2100.08; the slack of R295; each core's energy counter (R276). -/
structure Power where
  st        : PkgState
  aux       : Bool
  en        : Bool
  trayStopN : Bool
  coolantOk : Bool
  vinOk     : Bool
  hold      : Bool
  mgmtRef   : Bool
  busTested : Bool
  busOn     : Bool
  stage     : Nat
  offDue    : Bool
  pdOn      : BitVec 4
  susCap    : Option Nat
  peakCap   : Option Nat
  cause     : Nat
  powerUps  : Nat
  gaspBuf   : List JournalRec
  gaspDue   : Bool
  gaspTorn  : Bool
  gasp      : List GaspArea
  thermTrip : Bool
  gcorr     : Nat × Nat
  window    : List Nat
  stopGrow  : Bool
  buckets   : List Nat
  fillE     : Nat × Nat
  epochIn   : Nat
  epochCore : Nat
  lastIn    : Nat
  lastCore  : Nat
  budget    : Nat
  stepDowns : Nat
  breaches  : Nat
  slack     : Nat
  coreE     : Sparse Nat
  deriving DecidableEq, Repr

/-- A telemetry monitor: TMCFG, TMDATA, samples still invalid, last valid sample (R296, R297). -/
structure Monitor where
  cfg     : W32
  data    : W32
  skip    : Nat
  last    : W32
  deriving DecidableEq, Repr

/-! ### Kraox (13) -/

/-- Port states (Table 13.6). -/
inductive PortSt where
  | down | up | half | peerReset | draining
  deriving DecidableEq, Repr

/-- A half-link: good active lanes, spares, whether it is trained, retraining, error count, and whether its die is lost (R299 to
R303, R322). -/
structure HalfLink where
  good   : Nat
  spares : Nat
  up     : Bool
  training : Bool
  errors : Nat
  dieLost : Bool
  deriving DecidableEq, Repr

/-- A flit that waits for a credit or room in the retry buffer of its output port, with the input port and buffer it holds when it is
in transit (R304). -/
structure WaitFlit where
  flit : Flit
  from_ : Option (Nat × Nat)
  deriving DecidableEq, Repr

/-- A Kraox port: halves, last SEQ sent and received, retry buffer, retry requests of the last 1 ms, credits held by buffer, the
neighbour's device ID, flits waiting and flits sent (R302 to R321). -/
structure Port where
  st       : PortSt
  h0       : HalfLink
  h1       : HalfLink
  txSeq    : BitVec 12
  unacked  : List Flit
  rxSeq    : BitVec 12
  retries  : Nat
  credits  : Sparse Nat
  peerId   : Option (BitVec 13)
  waiting  : List WaitFlit
  tx       : List Flit
  deriving DecidableEq, Repr

/-- A bypass entry of OD 7100.03 (R309). -/
structure Bypass where
  trigger : Nat
  leaving : Nat
  detour  : Nat
  hops    : Nat
  dcl     : Bool
  deriving DecidableEq, Repr

/-- A group's tree on this member: parent and children (R313). -/
structure Tree where
  group    : Nat
  members  : List Nat
  parent   : Option Nat
  children : List Nat
  deriving DecidableEq, Repr

/-- The router and the job: ports, bypass table, discards (R310), SEND data received since the last acknowledgement by source (R315),
trees, lost neighbours and blocked groups (R323), anchor (OD 7200.03) and its lease, freeze, job state (OD 7200.0A), PACE log, and
whether the start ramp is held (R293). -/
structure Kraox where
  ports    : Sparse Port
  bypass   : List Bypass
  discards : Nat
  sendGot  : Sparse Nat
  trees    : List Tree
  lostNbr  : List Nat
  blocked  : List Nat
  anchor   : Option (BitVec 13)
  lease    : Bool
  frozen   : Bool
  jobState : Nat
  paceLog  : List (Nat × Nat)
  rampHold : Bool
  deriving DecidableEq, Repr

/-! ### Host ports and external memory (14) -/

/-- HRDYn states (Table 14.6). -/
inductive Hrdy where
  | reset | boot | ready | attn | pause | stop
  deriving DecidableEq, Repr

/-- A mailbox session (R336): whether it is OPERATOR, its outstanding nonce, and its failures (R358). -/
structure Mailbox where
  operator : Bool
  nonce    : Option (List Byte)
  fails    : Nat
  locked   : Bool
  deriving DecidableEq, Repr

/-- A host port: link, lanes, HRDY, DEVSTAT, mailbox, HDM space and events (R330 to R345). -/
structure HostPort where
  width    : Nat
  onSpare  : List Nat
  badLanes : List Nat
  perstN   : Bool
  hrdy     : Hrdy
  devstat  : BitVec 4
  latched  : Bool
  mbox     : Mailbox
  hdm      : Sparse (Option Byte)
  regs     : Memory
  events   : List (Nat × Nat)
  nextEvt  : Nat
  poison   : Sparse Bool
  poisonOvf : Bool
  msix     : Sparse Bool
  downs    : Nat
  deriving DecidableEq, Repr

/-- LPDDR6 channel states (R338, R344). -/
inductive ChanSt where
  | untrained | ok | failed | retraining
  deriving DecidableEq, Repr

/-- A channel: state, density in GiB, full retrainings made, and whether it has failed since power-up, so that each of its blocks is
poisoned until written. -/
structure ChanState where
  st       : ChanSt
  density  : Nat
  retrains : Nat
  hasFailed : Bool
  deriving DecidableEq, Repr

/-- External memory: channels, each partition's region, the weight shadow, the partitions whose shadow copies are incomplete, and the
key epoch of the device and port keys (R339 to R345). `bad` lists, by partition and 64-byte unit, where poison differs from what the
unit's channel implies. -/
structure ExtMem where
  chans    : Sparse ChanState
  region   : Sparse Memory
  bad      : Sparse (Sparse Bool)
  shadow   : Sparse (BitVec 4096)
  copyAOff : List Nat
  copyBOff : List Nat
  keyEpoch : Nat
  pasn     : Nat
  hsh      : Nat
  deriving DecidableEq, Repr

/-! ### Dictionary and management bus (15) -/

/-- A dictionary session: source, role 1 to 3, session number, key and counters (R355 to R357). -/
structure Session where
  src    : BitVec 48
  role   : Nat
  num    : BitVec 16
  key    : List Byte
  ctrIn  : W32
  ctrOut : W32
  deriving DecidableEq, Repr

/-- A challenge awaiting its response (R355). -/
structure Challenge where
  src    : BitVec 48
  role   : Nat
  nonce  : List Byte
  service : Bool
  deriving DecidableEq, Repr

/-- A frame the Q25 sends (replies, ANNOUNCE, EVENT): destination, operation, status, session number and data. -/
structure TxFrame where
  dst    : BitVec 48
  op     : Byte
  status : Byte
  seq    : BitVec 16
  index  : BitVec 16
  sub    : Byte
  type   : Byte
  offset : W32
  more   : Bool
  session : BitVec 16
  ctr    : W32
  data   : List Byte
  tag    : List Byte
  deriving DecidableEq, Repr

/-- The island's dictionary server; `strap` is NID[4:0] as read at island boot (R346). Slots 0 to 7 are bus sessions, 8 and 9 service-port sessions; slots 10 and 11 are the
mailboxes and 12 requests without a session, for snapshots and staging (R349, R350, R357, R379). -/
structure Mgmt where
  up        : Bool
  strap     : BitVec 5
  nodeId    : Nat
  csma      : Bool
  sessions  : Sparse Session
  nextNum   : BitVec 16
  challenges : List Challenge
  fails     : List (BitVec 48 × Nat)
  lockouts  : List (BitVec 48)
  snaps     : Sparse (Nat × List Byte)
  staging   : Sparse (Sparse (List Byte))
  od        : Sparse Nat
  dom       : Sparse (List Byte)
  keys      : Sparse (List Byte)
  authFails : Nat
  badTags   : Nat
  beaconLost : Nat
  tx        : List TxFrame
  deriving DecidableEq, Repr

/-! ### Maintenance and firmware (16) -/

/-- The operations of the maintenance arbiter (R376). -/
inductive MaintKind where
  | march | scrub | activation | rebinding | lpddr | phaseCal | kraoxLane
  deriving DecidableEq, Repr

/-- A running maintenance operation: kind and scope (die, core, partition, channel, port or component number). -/
structure MaintOp where
  kind  : MaintKind
  die   : Option Nat
  cores : List Nat
  part  : Option Nat
  chan  : Option Nat
  comp  : Option Nat
  units : List Nat
  mode  : Nat
  unitKind : Nat
  localising : Bool
  deriving DecidableEq, Repr

/-- A firmware slot (OD A000.01). -/
inductive SlotSt where
  | empty | receiving | valid | active | trial | partially
  deriving DecidableEq, Repr

/-- A firmware slot's contents: state, version, SVN and compatibility entries (Table 16.4). -/
structure FwSlot where
  st     : SlotSt
  ver    : Nat
  svn    : Nat
  compat : List (Nat × Nat × Nat)
  deriving DecidableEq, Repr

/-- A firmware component (R380 to R384): its slots, the one selected, minimum SVN, trial, activation and the units it has done, and the
image being received with whether its last segment has come, and whether the tray stops it after the unit under way (R381). `rtNew` are the
cores that already run the new core runtime and `batch` those being updated (R383). -/
structure Component where
  a        : FwSlot
  b        : FwSlot
  useB     : Bool
  minSvn   : Nat
  trial    : Bool
  activating : Bool
  done     : Nat
  image    : List Byte
  whole    : Bool
  stop     : Bool
  rtNew    : List Nat
  batch    : List Nat
  deriving DecidableEq, Repr

/-- Maintenance: running operations (R376), firmware, results, excluded cores (R236, R373), and what the persistent store keeps of
repairs: retired macros, repairs fitted, spare banks (R271, R385). `again` holds requests of the Q25's own that MAINT_BUSY refused and
that are raised again (R376). `download` names the component being received and its session slot. -/
structure Maint where
  ops       : List MaintOp
  comps     : Sparse Component
  lastBusy  : Option (MaintKind × MaintKind)
  lastFw    : Nat × Nat × Nat
  refused   : Nat
  marchRes  : List (Nat × Nat)
  excluded  : List Nat
  retired   : List Nat
  repairLog : List (Nat × RepairKind)
  banks     : List (Nat × Nat × W32)
  storeWrites : Nat
  storeVer  : Nat
  migrating : Bool
  trayTime  : W32
  again     : List MaintOp
  download  : Option (Nat × Nat)
  deriving DecidableEq, Repr

/-- The answer a read-like command returns to its requester: a status and data bytes (the model's own field). -/
structure Reply where
  status : Nat
  data   : List Byte
  deriving DecidableEq, Repr

/-- The whole device. `free` counts the free values drawn so far (the model's own field; no statement rests on it). -/
structure State where
  pending : List Instr
  cores   : Sparse CoreState
  macros  : Sparse MacroState
  nb      : List NbMsg
  hub     : Hub
  power   : Power
  dies    : Sparse DieState
  mons    : Sparse Monitor
  kraox   : Kraox
  hosts   : Sparse HostPort
  ext     : ExtMem
  mgmt    : Mgmt
  maint   : Maint
  tapId   : Bool
  reply   : Reply
  free    : Nat
  deriving DecidableEq, Repr

/-- Why the machine stops with a fault. -/
inductive Fault where
  /-- Raised by no command of this model: the type is kept for a stop of grounds (i). Safe. -/
  | undefinedBehaviour
  deriving DecidableEq, Repr

/-- Why a command is refused. -/
inductive Refusal where
  /-- Raised by an arm of exec that has no meaning yet. Safe. -/
  | notModelled (mnemonic : String)
  deriving DecidableEq, Repr

/-! ### Reset -/

/-- A macro's reset state (Table 1.9): LOADING for M00 to M63, OFFLINE for M64 to M71; WFMT CW4. -/
def MacroState.reset (m : Nat) : MacroState where
  st := if m < 64 then .loading else .offline
  rawWrite := false
  wfmt := 2#2
  sparse := false
  mgsel := 0
  mcoef := []
  lastRow := 0
  lastGroup := 0
  checkStale := false
  recheckBusy := false
  cfgLockedErr := false
  metaErr := false
  rowCheckErr := false
  repairBusy := false
  passActive := false
  passMismatch := 0
  rowMismatch := 0
  mrepRow := []
  mrepMeta := 0
  mrepCol := []
  rowsWritten := false
  rows := []
  uGen := none
  held := []
  failedRows := []
  repairing := none
  underTest := false

def Tile.reset : Tile := { st := .empty, spec := false, tshift := 0 }

/-- A core's reset state (Tables 5.7, 6.3 to 6.10, 2.8). -/
def CoreState.reset : CoreState where
  owner := none
  st := .idle
  x := []
  bank := false
  pc := 0
  ib0 := []
  ib1 := []
  stepno := 0
  flags := 0
  ac := []
  acexp := []
  rtok := []
  cto := 10000
  trccfg := 0
  lastcr := []
  nextId := 0
  queue := []
  sigs := []
  faultQ := []
  doneReq := none
  stopReq := false
  stepOr := []
  replayPc := 0
  snap := { x := [], flags := 0, acexp := [] }
  outLedger := []
  consLedger := []
  noReplay := false
  barsDone := []
  barsLeft := []
  replays := 0
  replayDue := false
  replaying := false
  restored := false
  ackWait := 0
  sp := []
  badLanes := []
  win := []
  ta := Tile.reset
  tb := Tile.reset
  pass := none
  nextPass := none
  checked := []
  drain := none
  xlat := none
  exits := none
  rmDone := []
  ahHeld := []
  hcVe := []
  hcAe := []
  hcFe := []
  hcLe := []
  hcSe := []
  scrubs := []
  lastOwner := []
  marched := []
  patrolAt := []
  gather := []
  spareCopy := []
  hidden := []
  bankErrs := []
  acts := []
  holdAt := false
  hint := none

def Stream.reset : Stream where
  st := 0
  cls := 0
  part := 0
  each := false
  late := false
  kvLost := false
  tenant := 0
  slot := 0
  prog := 0
  account := 0
  age := 0
  n0 := 0
  n1 := 0
  remain := 0
  inOff := 0
  outOff := 0
  energy := 0
  results := 0
  tag := 0
  sq := 0
  maxgap := 0
  holdDue := false
  closeDue := false
  stopDue := false
  closeTag := none
  outstanding := false
  queued := []
  missed := false
  wasHeld := false

def Tenant.reset : Tenant := { deficit := 0, busy := 0, energy := 0 }

def Ring.reset : Ring where
  sqBase := 0
  cqBase := 0
  sqLog := 0
  cqLog := 0
  cqr := 0
  en := false
  part := 0
  vec := 0
  sqTail := 0
  sqHead := 0
  cqHead := 0
  cqTail := 0
  reserved := 0
  phase := true

def Partition.reset : Partition where
  st := 0
  rights := 0
  dlpol := 0
  lendp := 0
  tbase := 0
  tcount := 0
  cores := 0
  cbanks := 0
  lpbase := 0
  lpsize := 0
  squota := 0
  sused := 0
  pshare := 0
  pmin := 0
  kxshare := 0
  resv := 0
  keygen := 0
  cgen := 0
  result := 0
  pendShare := none

def Hub.reset : Hub where
  programs := []
  nextProg := 1
  invs := []
  streams := []
  tenants := []
  tenantMem := []
  accounts := []
  rings := []
  cqs := []
  cqWait := []
  turn := 0
  turnUsed := 0
  cmds := []
  nextCmd := 0
  commons := []
  arrayChecks := 0
  arrayInfs := 0
  owners := []
  credits := []
  poolAsk := []
  poolPrev := []
  epoch := 0
  budget := 0
  granted := none
  parts := []
  staged := []
  changes := []
  rebinds := []
  steps := []
  barriers := []
  jobs := []
  mergeSeen := []
  journal := []
  overwritten := 0
  seq := 0
  persistent := []
  islandQ := []
  unwritten := 0
  acked := 0
  unacked := 0
  checks := []
  swapDue := []
  swapHeld := []
  trace := []
  traceDrops := []
  lateSet := 0
  paused := false
  inService := false
  admitting := false

/-- A die before its step: 22 of 24 phases in service (R251), OP0 (R256), ceilings and caps at OP7. -/
def DieState.reset : DieState where
  lost := false
  inReset := true
  missed := 0
  reg := .off
  attempts := 0
  inService := 0x3FFFFF#24
  dropped := 0
  mismatch := 0
  phaseCap := 7
  point := 0
  volt := 0
  request := 0
  grant := 0
  move := Move.none
  peakCeil := 7
  thermCap := 7
  paceCeil := 7
  sinceUp := 0
  idleFor := 0
  eDie := 0
  ballast := 0
  total := 0
  recent := []
  work := none
  allowance := 16
  recentMax := []
  hottest := none
  invalid := 0
  throttled := false
  thrEver := false
  lastPace := 0
  sincePace := 50
  resetHold := false
  retestDue := false
  oldParts := []
  needMarch := false

/-- Package power in STANDBY, the reset value of OD 2000.21 (Table 11.9), all power dies in service (OD 2000.20). -/
def Power.reset : Power where
  st := .standby
  aux := true
  en := false
  trayStopN := false
  coolantOk := false
  vinOk := false
  hold := false
  mgmtRef := false
  busTested := false
  busOn := false
  stage := 0
  offDue := false
  pdOn := 0xF#4
  susCap := none
  peakCap := none
  cause := 0
  powerUps := 0
  gaspBuf := []
  gaspDue := false
  gaspTorn := false
  gasp := []
  thermTrip := false
  gcorr := (1, 1)
  window := []
  stopGrow := false
  buckets := []
  fillE := (0, 0)
  epochIn := 0
  epochCore := 0
  lastIn := 0
  lastCore := 0
  budget := 0
  stepDowns := 0
  breaches := 0
  slack := 0
  coreE := []

/-- TMCFG resets to EN 1, OSR 0b010 (Table 12.6). -/
def Monitor.reset : Monitor := { cfg := 0x80080000#32, data := 0, skip := 0, last := 0 }

def HalfLink.reset : HalfLink :=
  { good := 16, spares := 4, up := false, training := false, errors := 0, dieLost := false }

def Port.reset : Port where
  st := .down
  h0 := HalfLink.reset
  h1 := HalfLink.reset
  txSeq := 0
  unacked := []
  rxSeq := 0
  retries := 0
  credits := []
  peerId := none
  waiting := []
  tx := []

def Kraox.reset : Kraox where
  ports := []
  bypass := []
  discards := 0
  sendGot := []
  trees := []
  lostNbr := []
  blocked := []
  anchor := none
  lease := false
  frozen := false
  jobState := 0
  paceLog := []
  rampHold := false

def HostPort.reset : HostPort where
  width := 16
  onSpare := []
  badLanes := []
  perstN := false
  hrdy := .reset
  devstat := 0
  latched := false
  mbox := { operator := false, nonce := none, fails := 0, locked := false }
  hdm := []
  regs := []
  events := []
  nextEvt := 0
  poison := []
  poisonOvf := false
  msix := []
  downs := 0

def ChanState.reset : ChanState :=
  { st := .untrained, density := 0, retrains := 0, hasFailed := false }

def ExtMem.reset : ExtMem where
  chans := []
  region := []
  bad := []
  shadow := []
  copyAOff := []
  copyBOff := []
  keyEpoch := 0
  pasn := 8
  hsh := 8

def Mgmt.reset : Mgmt where
  up := true
  strap := 0
  nodeId := 0
  csma := false
  sessions := []
  nextNum := 1
  challenges := []
  fails := []
  lockouts := []
  snaps := []
  staging := []
  od := []
  dom := []
  keys := []
  authFails := 0
  badTags := 0
  beaconLost := 0
  tx := []

/-- A component runs from slot A and holds no second image. -/
def Component.reset : Component where
  a := { st := .active, ver := 0, svn := 0, compat := [] }
  b := { st := .empty, ver := 0, svn := 0, compat := [] }
  useB := false
  minSvn := 0
  trial := false
  activating := false
  done := 0
  image := []
  whole := false
  stop := false
  rtNew := []
  batch := []

def Maint.reset : Maint where
  ops := []
  comps := []
  lastBusy := none
  lastFw := (0, 0, 0)
  refused := 0
  marchRes := []
  excluded := []
  retired := []
  repairLog := []
  banks := []
  storeWrites := 0
  storeVer := 0
  migrating := false
  trayTime := 0
  again := []
  download := none

/-- The device right after reset: island in STANDBY, every register at the value its table gives. -/
def State.reset : State where
  pending := []
  cores := []
  macros := []
  nb := []
  hub := Hub.reset
  power := Power.reset
  dies := []
  mons := []
  kraox := Kraox.reset
  hosts := []
  ext := ExtMem.reset
  mgmt := Mgmt.reset
  maint := Maint.reset
  tapId := true
  reply := { status := 0, data := [] }
  free := 0

end Sys2Proof.Machine
end

