-- ==== Sys2Proof/Machine/Mem.lean ====
section
/-! DEFINITION. Operations on sparse maps and byte memories, each keeping the canonical form: keys strictly rising, no entry equal
to what an unlisted key reads as. Byte order is little-endian and is decided here (R61, R302, R348). -/

namespace Sys2Proof.Machine

/-- The value listed for a key. -/
def Sparse.find? {α : Type} (m : Sparse α) (k : Nat) : Option α :=
  match m with
  | [] => none
  | (j, v) :: rest => if j = k then some v else Sparse.find? rest k

/-- The value at a key; `d` is what an unlisted key reads as. -/
def Sparse.get {α : Type} (m : Sparse α) (d : α) (k : Nat) : α := (Sparse.find? m k).getD d

/-- The map without a key. -/
def Sparse.erase {α : Type} (m : Sparse α) (k : Nat) : Sparse α :=
  match m with
  | [] => []
  | (j, v) :: rest => if j = k then Sparse.erase rest k else (j, v) :: Sparse.erase rest k

/-- The map with a value listed for a key, in rising order of keys. -/
def Sparse.insert {α : Type} (m : Sparse α) (k : Nat) (x : α) : Sparse α :=
  match m with
  | [] => [(k, x)]
  | (j, v) :: rest =>
    if j = k then (k, x) :: rest else if k < j then (k, x) :: (j, v) :: rest else (j, v) :: Sparse.insert rest k x

/-- Write a value; writing what an unlisted key reads as removes the entry. -/
def Sparse.set {α : Type} [DecidableEq α] (m : Sparse α) (d : α) (k : Nat) (x : α) : Sparse α :=
  if x = d then Sparse.erase m k else Sparse.insert m k x

/-- The canonical form: keys strictly rising from a bound, no listed value equal to the key's default. -/
def Sparse.wfFrom {α : Type} [DecidableEq α] (d : Nat → α) (lo : Nat) (m : Sparse α) : Bool :=
  match m with
  | [] => true
  | (j, v) :: rest => decide (lo ≤ j) && decide (v ≠ d j) && Sparse.wfFrom d (j + 1) rest

def Sparse.wf {α : Type} [DecidableEq α] (d : Nat → α) (m : Sparse α) : Bool := Sparse.wfFrom d 0 m

/-- What an unlisted byte of an ordinary memory reads as. -/
def memDefault (_ : Nat) : Byte := 0

/-- The canonical form of a byte memory. -/
def Memory.wf (m : Memory) : Bool := Sparse.wf memDefault m

def Memory.read (m : Memory) (a : Nat) : Byte := Sparse.get m 0 a
def Memory.write (m : Memory) (a : Nat) (b : Byte) : Memory := Sparse.set m 0 a b

/-- n bytes from address a. -/
def Memory.readN (m : Memory) (a : Nat) : Nat → List Byte
  | 0 => []
  | n + 1 => Memory.read m a :: Memory.readN m (a + 1) n

/-- Bytes written from address a upward. -/
def Memory.writeL (m : Memory) (a : Nat) : List Byte → Memory
  | [] => m
  | b :: bs => Memory.writeL (Memory.write m a b) (a + 1) bs

/-- Little-endian value of bytes. -/
def leNat : List Byte → Nat
  | [] => 0
  | b :: bs => b.toNat + 256 * leNat bs

/-- n bytes of a value, little-endian. -/
def leBytes : Nat → Nat → List Byte
  | 0, _ => []
  | n + 1, v => BitVec.ofNat 8 v :: leBytes n (v / 256)

/-- All keys from a, n of them, removed (a range cleared to its default). -/
def Sparse.clearRange {α : Type} (m : Sparse α) (a n : Nat) : Sparse α :=
  m.filter fun e => ¬(a ≤ e.1 ∧ e.1 < a + n)

/-- The listed entries of a range of keys. -/
def Sparse.inRange {α : Type} (m : Sparse α) (a n : Nat) : Sparse α :=
  m.filter fun e => a ≤ e.1 ∧ e.1 < a + n

/-- A range copied from one map into the same range of another. -/
def Sparse.copyRange {α : Type} (src dst : Sparse α) (a n : Nat) : Sparse α :=
  (Sparse.inRange src a n).foldl (fun m e => Sparse.insert m e.1 e.2) (Sparse.clearRange dst a n)

/-! ### The window space of a core: bytes with the reset values of its registers -/

/-- Byte k of a 32-bit reset value. -/
def byteOf (v k : Nat) : Byte := BitVec.ofNat 8 (v / 256 ^ k)

/-- What an unwritten byte of the window space reads as: the reset value of its register where the spec gives one, else 0.
RMCFG 0x0007_0140-form (Table 2.12), VSF 1.0 (Table 3.8), AHCFG and AHQMAX (Tables 3.10, 3.11), AMMAP entries valid and
identical (Table 2.1), SPCFG.PATROL 1 (Table 6.5). -/
def winDefault (a : Nat) : Byte :=
  if 0x04070000 ≤ a ∧ a < 0x04070800 then
    if a % 64 < 4 then byteOf 0x0F000200 (a % 4) else if 0x18 ≤ a % 64 ∧ a % 64 < 0x1C then byteOf 0x3F800000 (a % 4) else 0
  else if 0x04072000 ≤ a ∧ a < 0x04072200 then byteOf 0x3F800000 (a % 4)
  else if 0x040B0000 ≤ a ∧ a < 0x040B0004 then byteOf 0x00010000 (a % 4)
  else if 0x040C0000 ≤ a ∧ a < 0x040C0040 then BitVec.ofNat 8 (0x80 + (a - 0x040C0000))
  else if 0x040C0404 ≤ a ∧ a < 0x040C0440 then byteOf 0x00050040 (a % 4)
  else 0

def Win.read (m : Memory) (a : Nat) : Byte := Sparse.get m (winDefault a) a
def Win.write (m : Memory) (a : Nat) (b : Byte) : Memory := Sparse.set m (winDefault a) a b
def Win.wf (m : Memory) : Bool := Sparse.wf winDefault m

def Win.readN (m : Memory) (a : Nat) : Nat → List Byte
  | 0 => []
  | n + 1 => Win.read m a :: Win.readN m (a + 1) n

def Win.writeL (m : Memory) (a : Nat) : List Byte → Memory
  | [] => m
  | b :: bs => Win.writeL (Win.write m a b) (a + 1) bs

/-- A little-endian register of n bytes in the window space. -/
def Win.getN (m : Memory) (a n : Nat) : Nat := leNat (Win.readN m a n)
def Win.putN (m : Memory) (a n v : Nat) : Memory := Win.writeL m a (leBytes n v)

/-- Bits [hi:lo] of a number. -/
def bits (v hi lo : Nat) : Nat := v / 2 ^ lo % 2 ^ (hi + 1 - lo)
/-- Bit n of a number. -/
def bit (v n : Nat) : Bool := v / 2 ^ n % 2 = 1
/-- A field of a bit vector as a number. -/
def fld {w : Nat} (v : BitVec w) (hi lo : Nat) : Nat := bits v.toNat hi lo
def bitOf {w : Nat} (v : BitVec w) (n : Nat) : Bool := bit v.toNat n
/-- A number as a signed value of w bits. -/
def signed (w v : Nat) : Int := if v % 2 ^ w < 2 ^ (w - 1) then (v % 2 ^ w : Nat) else (v % 2 ^ w : Nat) - (2 ^ w : Nat)
/-- A Bool as a bit at position n. -/
def bitAt (b : Bool) (n : Nat) : Nat := if b then 2 ^ n else 0

end Sys2Proof.Machine
end

