-- ==== Sys2Proof/Machine/Flags.lean ====
section
/-! DEFINITION. Status words: the ESTAT bits of every engine (Tables 2.13, 4.9, 7.5, 7.8) and the completion record (Table 5.18). -/

namespace Sys2Proof.Machine

/-- AE pass status (Table 2.13). -/
def estatPass (check inf : Bool) (retries : Nat) (spec sat exited early : Bool) : BitVec 16 :=
  BitVec.ofNat 16 (bitAt check 15 + bitAt inf 14 + retries % 4 * 2 ^ 12 + bitAt spec 11 + bitAt sat 10 + bitAt exited 9 +
    bitAt early 8)

/-- ADRAIN status (Table 4.9). -/
def estatDrain (clip nonfin spec fclip : Bool) : BitVec 16 :=
  BitVec.ofNat 16 (bitAt clip 15 + bitAt nonfin 14 + bitAt spec 13 + bitAt fclip 12)

/-- VE status (Table 7.5). -/
def estatVe (clip nonfin rowempty sat : Bool) : BitVec 16 :=
  BitVec.ofNat 16 (bitAt clip 15 + bitAt nonfin 14 + bitAt rowempty 13 + bitAt sat 12)

/-- FE status (Table 7.8). -/
def estatFe (clip nonfin : Bool) : BitVec 16 := BitVec.ofNat 16 (bitAt clip 15 + bitAt nonfin 14)

/-- ENG numbers of Table 5.18. -/
def engNum : Eng → Nat
  | .ve => 0 | .aePass => 1 | .aeDrain => 2 | .aeRow => 3 | .fe => 4 | .le => 5 | .se => 6 | .su => 7

def engOf (n : Nat) : Eng :=
  match n % 8 with
  | 0 => .ve | 1 => .aePass | 2 => .aeDrain | 3 => .aeRow | 4 => .fe | 5 => .le | 6 => .se | _ => .su

def allEngs : List Eng := [.ve, .aePass, .aeDrain, .aeRow, .fe, .le, .se, .su]

/-- The completion record of Table 5.18. -/
def completionRecord (tag : BitVec 16) (fault : Byte) (e : Eng) (estat : BitVec 16) : W64 :=
  BitVec.ofNat 64 (tag.toNat * 2 ^ 48 + fault.toNat * 2 ^ 40 + engNum e * 2 ^ 37 + estat.toNat)

end Sys2Proof.Machine
end

