-- ==== Sys2Proof/Config.lean ====
section
/-! DEFINITION. What an implementation fixes and what the spec leaves open: opaque constants without a body, so that no proof
can see a value of theirs. Each is named in the assumption log. -/

namespace Sys2Proof.Config

/-- A free 32-bit value, drawn with the state's counter: times (TSTAMP, CYCLE) and values the spec leaves undefined. -/
opaque freeW32 : Nat → W32
/-- A free 64-bit value. -/
opaque freeW64 : Nat → W64
/-- A free byte: contents marked U in the spec. -/
opaque freeByte : Nat → Byte
/-- Data bits of a macro row that is U since the macro entered LOADING (R27), by draw and row. -/
opaque freeRow : Nat → Nat → BitVec 4096
/-- Check bits of such a row. -/
opaque freeRowCheck : Nat → Nat → W128
/-- The spare columns of such a row (Table 1.1). -/
opaque freeSpare : Nat → Nat → W64
/-- What a read of a register byte that the spec calls U returns, by draw and address (R82). -/
opaque uByte : Nat → Nat → Byte
/-- A free number below a bound is this value modulo the bound: choices the spec leaves open, such as completion order. -/
opaque freeNat : Nat → Nat
/-- The 32 bytes of a fresh nonce (R355). -/
opaque nonceWord : Nat → BitVec 256
/-- Which neighbour of the exact value VEXP returns (R168: within one unit in the last place, a fixed function). -/
opaque expUp : W32 → Bool
/-- Which neighbour of the exact value VRSQRT returns (R168). -/
opaque rsqrtUp : W32 → Bool
/-- Fused voltage code of a die's operating point (Table 12.2), confined by `vop` to the range and order the table gives. -/
opaque vopFuse : Nat → Nat → Nat
/-- Fused largest current of a die's operating point in A (Table 12.2). -/
opaque icurFuse : Nat → Nat → Nat
/-- Fused energy per event of a die's counter, in 0.1 pJ at 0.75 V (Table 12.2). -/
opaque wgtFuse : Nat → Nat → Nat
/-- Fused leakage of a die at 0.75 V and 85 °C, in 10 mW (Table 12.2). -/
opaque lk : Nat → Nat
/-- Fused two-stage efficiency of a die at a load point, in 0.5% (Table 12.2). -/
opaque eta : Nat → Nat → Nat
/-- The die and load point whose fused efficiency a package load takes (R275 says "at that load"). -/
opaque loadPoint : Nat → Nat × Nat
/-- Whether an inexact quotient is brought up to whole units, by numerator and denominator; else it is cut off (R275, R276 state no
rounding). -/
opaque roundUp : Nat → Nat → Bool
/-- HMAC-SHA-256 of a key and a message (R355, R356). -/
opaque hmacWord : List Byte → List Byte → BitVec 256
/-- The role keys provisioned at manufacture (R359). -/
opaque roleKey : Nat → List Byte
/-- AES key unwrap under RFC 3394; none when the integrity check fails (R359). -/
opaque aesUnwrap : List Byte → List Byte → Option (List Byte)
/-- SHA-384 (R380). -/
opaque sha384 : List Byte → List Byte
/-- ECDSA P-384 verification of a signature over a message under a public key (R380). -/
opaque ecdsaOk : List Byte → List Byte → List Byte → Bool
/-- The fused public-key hashes 0 to 3 (Table 16.4). -/
opaque keyHash : Nat → List Byte
/-- OD 1000.03, the 16-byte serial number. -/
opaque serialWord : BitVec 128
/-- OD 1100.01, the MAC address. -/
opaque macAddr : BitVec 48
/-- OD 1000.04, the silicon stepping. -/
opaque stepping : W32
/-- Bits 11 to 0 of IDCODE (R391 gives the others). -/
opaque idcodeLow : BitVec 12
/-- GCORR other than 1.0 as the binary32 that OD 2000.09 holds (the rounding is not stated), by numerator and denominator. -/
opaque gcorrBits : Nat → Nat → W32
/-- OD 1000.07, the highest .qxi minor version accepted. -/
opaque qxiMinor : Nat
/-- The bypass entries a value of OD 7100.03 holds: trigger, direction, detour, hops, class (R309 gives no byte layout). -/
opaque bypassDecode : List Byte → List (Nat × Nat × Nat × Nat × Bool)
/-- The groups a value of OD 7200.07 holds: group, members, parent, children (R313 gives no byte layout). -/
opaque treeDecode : List Byte → List (Nat × List Nat × Option Nat × List Nat)
/-- The MSG field of a flit: by OP it holds a group, a COLID, a chunk index, a lateness or a lease's remaining time (R302 names the
contents and gives no bits), by OP and the three numbers. -/
opaque msgWord : Nat → Nat → Nat → Nat → W64
/-- The group, the COLID and the lease time remaining that a received MSG holds. -/
opaque msgGroup : W64 → Nat
opaque msgColid : W64 → Nat
opaque msgLease : W64 → Nat
/-- A 64-bit partial sum and its lane state as a chunk carries them (R314 gives no layout). -/
opaque sumWord : Int → Nat → W64
/-- The code of a cause or history a journal record's DETAIL holds, by the model's number for it (the spec names causes without values). -/
opaque causeCode : Nat → W64
/-- DETAIL of a thermal record: the die and sensor it names (the layout is not given). -/
opaque sensorDetail : Nat → Nat → W64
/-- A die's regulator efficiency at a load, in thousandths (R263). -/
opaque regEff : Nat → Nat → Nat
/-- The bytes of a DOM object whose layout the spec does not give, by object key, the numbers the state holds of its contents, and a draw for
what no state holds of them (times, ages, error counts). -/
opaque domImage : Nat → List Nat → Nat → List Byte
/-- What a standard mailbox command answers (its payload is CXL's, not this spec's), by command and draw. -/
opaque mailboxAnswer : Nat → Nat → List Byte
/-- The hub's estimate for RETRY_US before it is confined to 25 to 65,535 (R222). -/
opaque retryHint : Nat → Nat
/-- The layout version of the island firmware's persistent store (R386). -/
opaque storeVersion : Nat
/-- Macro repair fuses are modelled as unblown; SPSPARE fuses of a core's spare bank (Table 6.8). -/
opaque spareFuse : Nat → Nat → W32

end Sys2Proof.Config
end

