-- ==== Sys2Proof/Machine/Float.lean ====
section
/-! DEFINITION. Floating point (R63 to R65): exact values, one rounding to nearest with ties to even, FP32 arithmetic of the VE,
the FE and the output pipe, exp and 1/sqrt (R168). -/

namespace Sys2Proof.Machine

/-- A floating-point value: NaN, an infinity, or (-1)^neg · m · 2^e, exactly. -/
inductive FV where
  | nan
  | inf (neg : Bool)
  | fin (neg : Bool) (m : Nat) (e : Int)
  deriving DecidableEq, Repr

/-- Number of significant bits. -/
def bitLen (n : Nat) : Nat := if n = 0 then 0 else Nat.log2 n + 1

/-- Round m · 2^e to a multiple of 2^q (ties to even): the multiplier. -/
def roundAt (m : Nat) (e q : Int) : Nat :=
  if q ≤ e then m * 2 ^ (e - q).toNat
  else
    let s := (q - e).toNat
    let d := m / 2 ^ s
    let r := m % 2 ^ s
    let h := 2 ^ (s - 1)
    if r > h ∨ (r = h ∧ d % 2 = 1) then d + 1 else d

/-- Round to `p` significant bits, no finer than 2^emin: multiplier and exponent. -/
def roundTo (p : Nat) (emin : Int) (m : Nat) (e : Int) : Nat × Int :=
  if m = 0 then (0, emin)
  else
    let q := max emin (e + bitLen m - p)
    (roundAt m e q, q)

/-- Parameters of a format (Table 3.2): exponent bits, mantissa bits, bias. -/
structure FFmt where
  eb   : Nat
  mb   : Nat
  bias : Nat
  deriving DecidableEq, Repr

def fmtE4M3 : FFmt := { eb := 4, mb := 3, bias := 7 }
def fmtE5M2 : FFmt := { eb := 5, mb := 2, bias := 15 }
def fmtBF16 : FFmt := { eb := 8, mb := 7, bias := 127 }
def fmtFP32 : FFmt := { eb := 8, mb := 23, bias := 127 }

/-- The exponent of the format's smallest subnormal. -/
def FFmt.emin (f : FFmt) : Int := 1 - (f.bias : Int) - f.mb

/-- Largest finite magnitude, m · 2^e (Table 3.2; E4M3 reaches 448 in its top exponent). -/
def FFmt.maxFin (f : FFmt) : Nat × Int :=
  if f.eb = 4 then (14, 5) else (2 ^ (f.mb + 1) - 1, (2 ^ f.eb - 2 : Int) - f.bias - f.mb)

/-- A bit pattern's value. -/
def FFmt.decode (f : FFmt) (b : Nat) : FV :=
  let neg := bit b (f.eb + f.mb)
  let ex := bits b (f.eb + f.mb - 1) f.mb
  let fr := b % 2 ^ f.mb
  if f.eb = 4 ∧ ex = 15 ∧ fr = 7 then .nan
  else if f.eb ≠ 4 ∧ ex = 2 ^ f.eb - 1 then (if fr = 0 then .inf neg else .nan)
  else if ex = 0 then .fin neg fr f.emin
  else .fin neg (2 ^ f.mb + fr) (f.emin + (ex - 1 : Nat))

/-- The NaN the Q25 writes (R64). -/
def FFmt.nanBits (f : FFmt) : Nat := if f.mb ≤ 3 then 0x7F else (2 ^ f.eb - 1) * 2 ^ f.mb + 2 ^ (f.mb - 1)

/-- The bits of a magnitude k · 2^q that the format represents, with a sign. -/
def FFmt.pack (f : FFmt) (neg : Bool) (k : Nat) (q : Int) : Nat :=
  let s := bitAt neg (f.eb + f.mb)
  if k = 0 then s
  else
    let l := bitLen k
    let top := q + l - 1
    if top < f.emin + f.mb then s + k * 2 ^ (q - f.emin).toNat
    else
      let ex := (top - (f.emin + f.mb) + 1).toNat
      s + ex * 2 ^ f.mb + (if l ≤ f.mb + 1 then k * 2 ^ (f.mb + 1 - l) else k / 2 ^ (l - f.mb - 1)) % 2 ^ f.mb

/-- m · 2^e ≤ n · 2^d. -/
def dyLe (m : Nat) (e : Int) (n : Nat) (d : Int) : Bool :=
  let b := min e d
  decide (m * 2 ^ (e - b).toNat ≤ n * 2 ^ (d - b).toNat)

/-- An FP32 result under R64: rounded once, to an infinity when beyond the largest finite value. -/
def FV.toFP32 (v : FV) : W32 :=
  match v with
  | .nan => 0x7FC00000
  | .inf neg => if neg then 0xFF800000 else 0x7F800000
  | .fin neg m e =>
    let r := roundTo 24 fmtFP32.emin m e
    if dyLe r.1 r.2 (2 ^ 24 - 1) 104 then BitVec.ofNat 32 (fmtFP32.pack neg r.1 r.2)
    else if neg then 0xFF800000 else 0x7F800000

def fp32 (b : W32) : FV := fmtFP32.decode b.toNat

/-- Signed multiplier over a common exponent. -/
def sgn (neg : Bool) (m : Nat) : Int := if neg then -(m : Int) else m

/-- The exact sum; a zero sum of opposite signs is +0, of equal signs keeps its sign (IEEE 754). -/
def FV.add (a b : FV) : FV :=
  match a, b with
  | .nan, _ => .nan
  | _, .nan => .nan
  | .inf x, .inf y => if x = y then .inf x else .nan
  | .inf x, _ => .inf x
  | _, .inf y => .inf y
  | .fin s m e, .fin t n d =>
    let b := min e d
    let v := sgn s (m * 2 ^ (e - b).toNat) + sgn t (n * 2 ^ (d - b).toNat)
    if v = 0 then .fin (s && t) 0 b else .fin (decide (v < 0)) v.natAbs b

def FV.neg (a : FV) : FV :=
  match a with
  | .nan => .nan
  | .inf s => .inf (!s)
  | .fin s m e => .fin (!s) m e

def FV.sub (a b : FV) : FV := a.add b.neg

/-- The exact product. -/
def FV.mul (a b : FV) : FV :=
  match a, b with
  | .nan, _ => .nan
  | _, .nan => .nan
  | .inf s, .inf t => .inf (s != t)
  | .inf s, .fin t n _ => if n = 0 then .nan else .inf (s != t)
  | .fin s m _, .inf t => if m = 0 then .nan else .inf (s != t)
  | .fin s m e, .fin t n d => .fin (s != t) (m * n) (e + d)

/-- The quotient with 66 bits below its leading bit and a sticky bit: enough for one correct rounding to FP32. -/
def FV.div (a b : FV) : FV :=
  match a, b with
  | .nan, _ => .nan
  | _, .nan => .nan
  | .inf _, .inf _ => .nan
  | .inf s, .fin t _ _ => .inf (s != t)
  | .fin s _ e, .inf t => .fin (s != t) 0 e
  | .fin s m e, .fin t n d =>
    if n = 0 then (if m = 0 then .nan else .inf (s != t))
    else
      let k := 66 + bitLen n
      let q := m * 2 ^ k / n
      let st := if m * 2 ^ k % n = 0 then 0 else 1
      .fin (s != t) (2 * q + st) (e - d - k - 1)

/-- Integer square root by bits, from bit n - 1 down. -/
def isqrtGo (v : Nat) : Nat → Nat → Nat
  | 0, r => r
  | n + 1, r => let t := r + 2 ^ n; if t * t ≤ v then isqrtGo v n t else isqrtGo v n r

def isqrt (v : Nat) : Nat := isqrtGo v (bitLen v / 2 + 1) 0

/-- The square root with a sticky bit, enough for one correct rounding to FP32. -/
def FV.sqrt (a : FV) : FV :=
  match a with
  | .nan => .nan
  | .inf neg => if neg then .nan else .inf false
  | .fin neg m e =>
    if m = 0 then .fin neg 0 e
    else if neg then .nan
    else
      let k : Int := if e % 2 = 0 then 64 else 65
      let v := m * 2 ^ k.toNat
      let r := isqrt v
      .fin false (2 * r + if r * r = v then 0 else 1) ((e - k) / 2 - 1)

def FV.isNan (a : FV) : Bool :=
  match a with
  | .nan => true
  | _ => false

def FV.isInf (a : FV) : Bool :=
  match a with
  | .inf _ => true
  | _ => false

def FV.isFin (a : FV) : Bool :=
  match a with
  | .fin _ _ _ => true
  | _ => false

def FV.isZero (a : FV) : Bool :=
  match a with
  | .fin _ m _ => m = 0
  | _ => false

def FV.abs (a : FV) : FV :=
  match a with
  | .nan => .nan
  | .inf _ => .inf false
  | .fin _ m e => .fin false m e

/-- a < b as values; false when either is NaN. -/
def FV.lt (a b : FV) : Bool :=
  match a, b with
  | .nan, _ => false
  | _, .nan => false
  | .inf s, .inf t => s && !t
  | .inf s, _ => s
  | _, .inf t => !t
  | .fin s m e, .fin t n d =>
    let b := min e d
    decide (sgn s (m * 2 ^ (e - b).toNat) < sgn t (n * 2 ^ (d - b).toNat))

def FV.le (a b : FV) : Bool := !a.isNan && !b.isNan && !b.lt a

/-- An integer as a value. -/
def FV.ofInt (v : Int) : FV := .fin (decide (v < 0)) v.natAbs 0

/-! ### FP32 operations, each with one rounding -/

def fAdd (a b : W32) : W32 := ((fp32 a).add (fp32 b)).toFP32
def fSub (a b : W32) : W32 := ((fp32 a).sub (fp32 b)).toFP32
def fMul (a b : W32) : W32 := ((fp32 a).mul (fp32 b)).toFP32
def fDiv (a b : W32) : W32 := ((fp32 a).div (fp32 b)).toFP32
def fSqrt (a : W32) : W32 := (fp32 a).sqrt.toFP32
/-- a · b + c with one rounding. -/
def fFma (a b c : W32) : W32 := (((fp32 a).mul (fp32 b)).add (fp32 c)).toFP32

/-- KEY32 of an FP32 pattern (R92). -/
def key32 (u : W32) : W32 := if bitOf u 31 then ~~~u else u ^^^ 0x80000000

def fIsNan (a : W32) : Bool := (fp32 a).isNan

/-- VMAX and VMIN: NaN when either is NaN; -0 orders below +0 (R167). -/
def fMax (a b : W32) : W32 :=
  if fIsNan a || fIsNan b then 0x7FC00000 else if (key32 a).toNat < (key32 b).toNat then b else a
def fMin (a b : W32) : W32 :=
  if fIsNan a || fIsNan b then 0x7FC00000 else if (key32 b).toNat < (key32 a).toNat then b else a

/-- A positive, normal, finite FP32 value (R75, R82). -/
def fPosNormal (a : W32) : Bool :=
  let ex := fld a 30 23
  !bitOf a 31 && decide (ex ≠ 0) && decide (ex ≠ 255)

def fFinite (a : W32) : Bool := decide (fld a 30 23 ≠ 255)

/-! ### exp and 1/sqrt (R168): the FP32 neighbours of the exact value, one of them taken by a fixed function of the input -/

/-- Round m · 2^e down to FP32, as bits. -/
def floorFP32 (m : Nat) (e : Int) : W32 :=
  if m = 0 then 0
  else
    let q := max fmtFP32.emin (e + bitLen m - 24)
    let k := if q ≤ e then m * 2 ^ (e - q).toNat else m / 2 ^ (q - e).toNat
    if dyLe k q (2 ^ 24 - 1) 104 then BitVec.ofNat 32 (fmtFP32.pack false k q) else 0x7F7FFFFF

/-- ln 2 in units of 2^-128, rounded down. -/
def ln2Fix : Nat := 0xB17217F7D1CF79ABC9E3B39803F2F6AF

/-- Sum of the Taylor terms of exp(r), r in units of 2^-128, from term n on. -/
def expTerms (r : Nat) : Nat → Nat → Nat → Nat
  | 0, _, _ => 0
  | fuel + 1, n, term => term + expTerms r fuel (n + 1) (term * r / 2 ^ 128 / n)

/-- exp(x) of a finite x = ±m·2^e as multiplier and exponent, to more than 100 bits and never above the exact value (x is taken in units
of 2^-128, rounded down); x is confined to (-110, 90). -/
def expFix (neg : Bool) (m : Nat) (e : Int) : Nat × Int :=
  let d := 2 ^ (-(e + 128)).toNat
  let mag : Nat := if e + 128 ≥ 0 then m * 2 ^ (e + 128).toNat else if neg then (m + d - 1) / d else m / d
  let x : Int := sgn neg mag
  let k := x / (ln2Fix : Int)
  let r := (x - k * ln2Fix).toNat
  (expTerms r 48 1 (2 ^ 128), k - 128)

/-- exp of an FP32 value. -/
def fExp (a : W32) : W32 :=
  match fp32 a with
  | .nan => 0x7FC00000
  | .inf neg => if neg then 0 else 0x7F800000
  | .fin neg m e =>
    if dyLe 90 0 m e then (if neg ∧ dyLe 110 0 m e then (if Config.expUp a then 1 else 0)
        else if neg then (let r := expFix neg m e; let lo := floorFP32 r.1 r.2; if Config.expUp a then lo + 1 else lo)
        else 0x7F800000)
    else
      let r := expFix neg m e
      if dyLe 1 128 r.1 r.2 then 0x7F800000
      else
        let lo := floorFP32 r.1 r.2
        if Config.expUp a then lo + 1 else lo

/-- 1/sqrt of an FP32 value: NaN for a negative value, +Infinity for ±0 read as 1/(+0), 0 for +Infinity. -/
def fRsqrt (a : W32) : W32 :=
  match fp32 a with
  | .nan => 0x7FC00000
  | .inf neg => if neg then 0x7FC00000 else 0
  | .fin neg m e =>
    if m = 0 then (if neg then 0xFF800000 else 0x7F800000)
    else if neg then 0x7FC00000
    else
      let k : Int := if e % 2 = 0 then 200 else 201
      let q := 2 ^ k.toNat / m
      let r := isqrt q
      let lo := floorFP32 r (-(e + k) / 2)
      if Config.rsqrtUp a then lo + 1 else lo

end Sys2Proof.Machine
end

