-- ==== Sys2Proof/Machine/Formats.lean ====
section
/-! DEFINITION. Element formats: decoding, conversion with clips, bell codes, column codes, stochastic rounding (R59 to R71, R91). -/

namespace Sys2Proof.Machine

/-- Width in bits of the formats of Tables 4.2 and 7.3, by code; 0 for NONE and reserved codes. -/
def fmtBits (f : Nat) : Nat :=
  match f with
  | 0 => 8 | 1 => 8 | 2 => 4 | 3 => 8 | 4 => 8 | 5 => 16 | 6 => 8 | 7 => 4
  | 8 => 1 | 9 => 2 | 10 => 4 | 11 => 8 | 13 => 32 | 14 => 32 | _ => 0

def isBN (f : Nat) : Bool := f = 6 || f = 7
def isCW (f : Nat) : Bool := decide (8 ≤ f) && decide (f ≤ 11)

/-- Bytes of n elements of a width in bits. -/
def elemBytes (w n : Nat) : Nat := (w * n + 7) / 8

/-- Elements of width w packed in bytes (R61, R91): element i at bits [w·i + w - 1 : w·i]. -/
def unpack (w n : Nat) (bs : List Byte) : List Nat :=
  let v := leNat bs
  (List.range n).map fun i => bits v (w * i + w - 1) (w * i)

/-- Elements packed into whole bytes; the last byte is filled with 0. -/
def pack (w : Nat) (es : List Nat) : List Byte :=
  let v := ((List.range es.length).map fun i => es.getD i 0 % 2 ^ w * 2 ^ (w * i)).sum
  leBytes (elemBytes w es.length) v

/-! ### Tables in the window space -/

/-- Levels of BN table k: 256 entries for BN8, 16 for BN4 (R69, Table 3.10). -/
def bnTable (win : Memory) (bn8 : Bool) (k : Nat) : List Int :=
  if bn8 then (List.range 256).map fun c => signed 16 (Win.getN win (0x04074000 + 0x200 * k + 2 * c) 2)
  else (List.range 16).map fun c => signed 16 (Win.getN win (0x04075000 + 0x20 * k + 2 * c) 2)

/-- Strictly ascending in code order (R69). -/
def ascending : List Int → Bool
  | [] => true
  | [_] => true
  | a :: b :: rest => decide (a < b) && ascending (b :: rest)

/-- Conversion coefficient set s (R88). -/
def acoef (win : Memory) (s : Nat) : W64 := BitVec.ofNat 64 (Win.getN win (0x04082000 + 8 * s) 8)

/-! ### Stochastic rounding (R71) -/

/-- The hash h of R71. -/
def hash71 (x0 : W32) : W32 :=
  let x1 := (x0 ^^^ (x0 >>> 16)) * 0x85EBCA6B
  let x2 := (x1 ^^^ (x1 >>> 13)) * 0xC2B2AE35
  x2 ^^^ (x2 >>> 16)

/-- r of R71 for a seed and an element index. -/
def rand71 (seed : W32) (e : Nat) : Nat := (hash71 (seed ^^^ (BitVec.ofNat 32 e * 0x9E3779B9))).toNat % 65536

/-- Multiplier of 2^q for ±m·2^e: to nearest even, or stochastically with r. -/
def quantAt (r : Option Nat) (neg : Bool) (m : Nat) (e q : Int) : Nat :=
  match r with
  | none => roundAt m e q
  | some x =>
    if q ≤ e then m * 2 ^ (e - q).toNat
    else
      let p := 2 ^ (q - e).toNat
      let d := m / p
      let f := m % p
      if f = 0 then d
      else if neg then (if x * p < 65536 * (p - f) then d else d + 1)
      else if x * p < 65536 * f then d + 1 else d

/-! ### Conversions: the raw bits and whether Table 3.3 counts a clip -/

/-- To an integer range (INT4, INT8, UINT8, INT32). -/
def convInt (lo hi : Int) (r : Option Nat) (v : FV) : Int × Bool :=
  match v with
  | .nan => (0, true)
  | .inf neg => (if neg then lo else hi, true)
  | .fin neg m e =>
    if r.isSome ∧ ((FV.ofInt hi).lt v ∨ v.lt (FV.ofInt lo)) then (if neg then lo else hi, true)
    else
      let k := sgn neg (quantAt r neg m e 0)
      if k < lo then (lo, true) else if hi < k then (hi, true) else (k, false)

/-- To E4M3, E5M2 or BF16. -/
def convFloat (f : FFmt) (r : Option Nat) (v : FV) : Nat × Bool :=
  let mx := f.maxFin
  match v with
  | .nan => (f.nanBits, decide (f.eb ≠ 8))
  | .inf neg =>
    if f.eb = 4 then (f.pack neg mx.1 mx.2, true)
    else (bitAt neg (f.eb + f.mb) + (2 ^ f.eb - 1) * 2 ^ f.mb, false)
  | .fin neg m e =>
    if r.isSome ∧ ¬dyLe m e mx.1 mx.2 then (f.pack neg mx.1 mx.2, true)
    else
      let q := max f.emin (e + bitLen m - (f.mb + 1))
      let k := quantAt r neg m e q
      if dyLe k q mx.1 mx.2 then (f.pack neg k q, false) else (f.pack neg mx.1 mx.2, true)

/-- A finite value over a common denominator with integers: numerator and denominator. -/
def overOne (neg : Bool) (m : Nat) (e : Int) : Int × Nat :=
  if 0 ≤ e then (sgn neg (m * 2 ^ e.toNat), 1) else (sgn neg m, 2 ^ (-e).toNat)

/-- The index of the level nearest a value num/den; of equally near ones the better under `tie` (candidate, best so far). -/
def nearestIdx (levels : List Int) (num : Int) (den : Nat) (tie : Int → Int → Bool) : Nat :=
  let go := fun (best : Option (Nat × Int)) (i : Nat) =>
    let l := levels.getD i 0
    match best with
    | none => some (i, l)
    | some (_, b) =>
      let dl := (num - l * den).natAbs
      let db := (num - b * den).natAbs
      if dl < db ∨ (dl = db ∧ tie l b) then some (i, l) else best
  match (List.range levels.length).foldl go none with
  | some (i, _) => i
  | none => 0

/-- The least index of a level. -/
def idxOfLevel (levels : List Int) (l : Int) : Nat := levels.idxOf l

/-- One of the two levels around num/den, chosen by R71. -/
def stochLevel (levels : List Int) (num : Int) (den r : Nat) : Int :=
  let below := levels.filter fun l => decide (l * den ≤ num)
  let above := levels.filter fun l => decide (num ≤ l * den)
  let lo := below.foldl max (below.headD 0)
  let hi := above.foldl min (above.headD 0)
  if lo = hi then lo else if (r : Int) * (hi - lo) * den < 65536 * (num - lo * den) then hi else lo

/-- The value of bit pattern b of width w under a set (R14). -/
def cwLevel (set : W64) (w b : Nat) : Int :=
  ((List.range w).map fun j => if bit b j then signed 8 (fld set (8 * j + 7) (8 * j)) else 0).sum

/-- To a CW format of width w under a coefficient set (R62). -/
def convCW (set : W64) (w : Nat) (r : Option Nat) (v : FV) : Nat × Bool :=
  let levels := (List.range (2 ^ w)).map (cwLevel set w)
  let mx := levels.foldl max 0
  let mn := levels.foldl min 0
  match v with
  | .nan => (0, true)
  | .inf neg => (idxOfLevel levels (if neg then mn else mx), true)
  | .fin neg m e =>
    let p := overOne neg m e
    if mx * p.2 < p.1 then (idxOfLevel levels mx, true)
    else if p.1 < mn * p.2 then (idxOfLevel levels mn, true)
    else
      match r with
      | some x => (idxOfLevel levels (stochLevel levels p.1 p.2 x), false)
      | none => (nearestIdx levels p.1 p.2 fun l b => decide (l.natAbs < b.natAbs), false)
/-- Largest block magnitude a, infinities included (R70). -/
def FV.maxMag (a b : FV) : FV := if a.abs.lt b.abs then b.abs else a.abs

/-- The block exponent: the least e in 0..254 with a ≤ M·2^(e - 141), 254 when none (R70). -/
def blockExp (mlev : Nat) (a : FV) : Nat :=
  match a with
  | .fin _ m e => if m = 0 then 0 else (List.find? (fun x : Nat => dyLe m e mlev ((x : Int) - 141)) (List.range 255)).getD 254
  | _ => 254

/-- One element of a block through a table: code and clip. -/
def bnCode (t : List Int) (e : Nat) (r : Option Nat) (v : FV) : Nat × Bool :=
  match v with
  | .nan => (0, false)
  | .inf neg => (if neg then 0 else t.length - 1, true)
  | .fin neg m ex =>
    let p := overOne neg m (ex + 141 - e)
    if p.1 < t.headD 0 * p.2 then (0, true)
    else if t.getLastD 0 * p.2 < p.1 then (t.length - 1, true)
    else match r with
      | some x => (idxOfLevel t (stochLevel t p.1 p.2 x), false)
      | none => (nearestIdx t p.1 p.2 fun _ _ => false, false)

/-- Encode a block (R70): exponent, codes (absent positions filled with the code nearest 0, R68), clips. -/
def bnBlock (t : List Int) (seed : Option W32) (e0 : Nat) (xs : List FV) : Nat × List Nat × Nat :=
  let code0 := nearestIdx t 0 1 fun _ _ => false
  let nans := (xs.filter FV.isNan).length
  let infs := (xs.filter FV.isInf).length
  if nans ≠ 0 then (255, List.replicate 32 code0, nans + infs)
  else
    let a := xs.foldl FV.maxMag (.fin false 0 0)
    let mlev := max (t.headD 0).natAbs (t.getLastD 0).natAbs
    let e := blockExp mlev a
    let cs := (List.range xs.length).map fun i =>
      bnCode t e (seed.map fun s => rand71 s (e0 + i)) (xs.getD i .nan)
    (e, cs.map (·.1) ++ List.replicate (32 - xs.length) code0, (cs.filter (·.2)).length)

/-- Elements in groups of 32. -/
def chunks {α : Type} (n : Nat) : Nat → List α → List (List α)
  | 0, _ => []
  | fuel + 1, xs => if xs.isEmpty then [] else xs.take n :: chunks n fuel (xs.drop n)

/-- A BN tensor encoded: codes, exponents, clips. -/
def bnEncode (t : List Int) (seed : Option W32) (xs : List FV) : List Nat × List Nat × Nat :=
  let bs := chunks 32 xs.length xs
  let r := (List.range bs.length).map fun b => bnBlock t seed (32 * b) (bs.getD b [])
  (r.flatMap (·.2.1), r.map (·.1), (r.map (·.2.2)).sum)

/-- The value of a bell code (R66, R67). -/
def bnDecode (t : List Int) (e c : Nat) : FV :=
  if e = 255 then .nan
  else let l := t.getD c 0; .fin (decide (l < 0)) l.natAbs ((e : Int) - 141)

/-- A raw element of a non-BN format as an exact value; `set` is the coefficient set of a CW format. -/
def decodeRaw (f : Nat) (set : W64) (x : Nat) : FV :=
  match f with
  | 0 => FV.ofInt (signed 8 x)
  | 1 => FV.ofInt (x % 256 : Nat)
  | 2 => FV.ofInt (signed 4 x)
  | 3 => fmtE4M3.decode x
  | 4 => fmtE5M2.decode x
  | 5 => fmtBF16.decode x
  | 8 => FV.ofInt (cwLevel set 1 x)
  | 9 => FV.ofInt (cwLevel set 2 x)
  | 10 => FV.ofInt (cwLevel set 4 x)
  | 11 => FV.ofInt (cwLevel set 8 x)
  | 13 => FV.ofInt (signed 32 x)
  | 14 => fmtFP32.decode x
  | _ => .nan

/-- A signed integer as raw bits of a width. -/
def intBits (w : Nat) (p : Int × Bool) : Nat × Bool := ((p.1 % 2 ^ w).toNat, p.2)

/-- Conversion of one value to a non-BN format: raw bits and clip (R62, R64, R65). -/
def convRaw (f : Nat) (set : W64) (r : Option Nat) (v : FV) : Nat × Bool :=
  match f with
  | 0 => intBits 8 (convInt (-128) 127 r v)
  | 1 => intBits 8 (convInt 0 255 r v)
  | 2 => intBits 4 (convInt (-8) 7 r v)
  | 3 => convFloat fmtE4M3 r v
  | 4 => convFloat fmtE5M2 r v
  | 5 => convFloat fmtBF16 r v
  | 8 => convCW set 1 r v
  | 9 => convCW set 2 r v
  | 10 => convCW set 4 r v
  | 11 => convCW set 8 r v
  | 13 => intBits 32 (convInt (-2147483648) 2147483647 r v)
  | _ => (v.toFP32.toNat, false)

end Sys2Proof.Machine
end

