-- ==== Sys2Proof/Machine/Geometry.lean ====
section
/-! DEFINITION. Die grid, core grid and neighbours (R2 to R5). -/

namespace Sys2Proof.Machine

/-- The core grid rows of Table 0.4: for a pair of rows y, y+1 (y even), the x positions that hold cores. -/
def gridRow (y : Nat) : List Nat :=
  if y / 2 = 0 ∨ y / 2 = 4 then [2, 3, 4, 5, 6, 7]
  else if y / 2 = 2 then [0, 1, 2, 3, 6, 7, 8, 9]
  else if y < 10 then [0, 1, 2, 3, 4, 5, 6, 7, 8, 9] else []

/-- First core number of row y (R3). -/
def rowBase (y : Nat) : Nat := ((List.range y).map fun k => (gridRow k).length).sum

/-- The number of the core in a cell, where the cell holds one (R3). -/
def coreAt (x y : Nat) : Option Nat :=
  if x ∈ gridRow y then some (rowBase y + (gridRow y).idxOf x) else none

/-- The cell of a core. -/
def coreXY (c : Nat) : Nat × Nat :=
  let y := if c < 6 then 0 else if c < 12 then 1 else if c < 22 then 2 else if c < 32 then 3 else if c < 40 then 4
    else if c < 48 then 5 else if c < 58 then 6 else if c < 68 then 7 else if c < 74 then 8 else 9
  ((gridRow y).getD (c - rowBase y) 0, y)

/-- DIR numbers of Table 5.11. -/
def dirNum : Dir → Nat
  | .north => 1 | .south => 2 | .east => 3 | .west => 4

def dirOf : Nat → Option Dir
  | 1 => some .north | 2 => some .south | 3 => some .east | 4 => some .west | _ => none

def dirBack : Dir → Dir
  | .north => .south | .south => .north | .east => .west | .west => .east

/-- The neighbour core in a direction (R4); none toward power dies, the hub and the grid's edge. -/
def neighbour (c : Nat) (d : Dir) : Option Nat :=
  let p := coreXY c
  match d with
  | .north => coreAt p.1 (p.2 + 1)
  | .south => if p.2 = 0 then none else coreAt p.1 (p.2 - 1)
  | .east => coreAt (p.1 + 1) p.2
  | .west => if p.1 = 0 then none else coreAt (p.1 - 1) p.2

/-- The direction in which a core sees another, when they are neighbours. -/
def dirTo (c o : Nat) : Option Dir := [Dir.north, .south, .east, .west].find? fun d => neighbour c d = some o

/-- The array die that holds a core (R3, Table 0.3). -/
def coreDie (c : Nat) : Nat :=
  let p := coreXY c
  let col := p.1 / 2
  match p.2 / 2 with
  | 0 => col - 1
  | 1 => 3 + col
  | 2 => if col < 2 then 8 + col else 7 + col
  | 3 => 12 + col
  | _ => 16 + col

/-- The cores of an array die (Table 0.5). -/
def dieCores (d : Nat) : List Nat := (List.range 80).filter fun c => coreDie c = d

end Sys2Proof.Machine
end

