-- ==== Sys2Proof/Machine/Objects.lean ====
section
/-! DEFINITION. The object dictionary's table: type, access, default, range, persistence and service of each object (Tables 10.7,
11.9, 12.4, 12.8, 13.9, 14.8, 15.5 to 15.11, 16.7), and the stored value of a numeric object. -/

namespace Sys2Proof.Machine

/-- Access codes (R353). -/
inductive Acc where
  | ro | rw | wo | const | rws
  deriving DecidableEq, Repr

/-- One object: subindex, type code (Table 15.5), fixed size in bytes (0 for STR and DOM), access, default, range. -/
structure Obj where
  sub  : Nat
  type : Nat
  size : Nat
  acc  : Acc
  dflt : Nat
  lo   : Nat
  hi   : Nat
  deriving DecidableEq, Repr

/-- An unsigned object of n bytes over its whole range. -/
def oU (sub n : Nat) (a : Acc) (d : Nat) : Obj :=
  { sub := sub, type := (if n = 1 then 2 else if n = 2 then 3 else if n = 4 then 4 else 5), size := n, acc := a, dflt := d, lo := 0,
    hi := 256 ^ n - 1 }
/-- The same with a stated range. -/
def oR (sub n : Nat) (a : Acc) (d lo hi : Nat) : Obj := { oU sub n a d with lo := lo, hi := hi }
def oB (sub : Nat) (a : Acc) (d : Nat) : Obj := { sub := sub, type := 1, size := 1, acc := a, dflt := d, lo := 0, hi := 1 }
def oOct (sub n : Nat) (a : Acc) (d : Nat) : Obj := { oU sub 8 a d with type := 9, size := n, hi := 256 ^ n - 1 }
def oI32 (sub : Nat) (a : Acc) (d : Nat) : Obj := { oU sub 4 a d with type := 6 }
def oF32 (sub : Nat) (a : Acc) (d : Nat) : Obj := { oU sub 4 a d with type := 7 }
def oStr (sub : Nat) : Obj := { oU sub 1 .const 0 with type := 8, size := 0 }
def oDom (sub : Nat) (a : Acc) : Obj := { oU sub 1 a 0 with type := 10, size := 0 }

/-- The objects of an index, subindex 0 apart (R364). Indices are as the spec writes them, in hexadecimal. -/
def objectsOf (idx : Nat) : List Obj :=
  if idx = 0x1000 then
    [oStr 1, oStr 2, oOct 3 16 .const 0, oU 4 4 .const 0, oU 5 4 .ro 0, oU 6 4 .ro 0, oU 7 2 .ro 0, oDom 8 .ro]
  else if idx = 0x1100 then
    [oOct 1 6 .const 0, oU 2 1 .rws 0xFF, oR 3 1 .rws 8 1 255, oR 4 1 .rws 32 20 255, oOct 5 6 .rw 0x010000000003,
     oR 6 2 .rw 100 10 1000, oR 7 2 .rw 600 10 3600, oU 8 1 .ro 0, oDom 9 .ro, oB 0x0A .rw 1]
  else if idx = 0x1200 then
    [oU 1 1 .ro 0, oOct 2 40 .wo 0, oOct 3 40 .wo 0, oOct 4 40 .wo 0, oDom 5 .ro, oU 6 4 .ro 0, oR 7 1 .rw 5 1 20, oDom 8 .ro]
  else if idx = 0x2000 then
    [oR 1 2 .rw 1400 500 1600, oU 2 2 .const 2000, oU 3 2 .const 2400, oOct 4 4 .ro 0, oU 5 2 .ro 0, oU 6 2 .ro 0, oU 7 4 .ro 0,
     oU 8 4 .ro 0, oF32 9 .ro 0x3F800000, oU 0x20 1 .ro 0x0F, oU 0x21 1 .ro 0, oDom 0x22 .ro, oU 0x23 4 .rws 0,
     oR 0x24 2 .rw 100 100 10000, oU 0x25 1 .ro 0, oU 0x26 4 .ro 0]
  else if idx = 0x2100 then
    [oR 1 1 .rw 7 0 7, oR 2 1 .rw 7 1 7, oR 3 1 .rw 1 0 7, oR 4 1 .rw 2 0 7, oR 5 1 .rw 5 0 7, oU 6 2 .rw 20, oR 7 1 .rw 0 0 2,
     oU 8 4 .ro 0, oDom 0x10 .ro]
  else if idx = 0x2200 then [oDom 1 .ro, oR 6 2 .rw 10 1 600]
  else if idx = 0x2300 then [oDom 1 .ro, oU 2 4 .rw 0x80080000, oU 3 4 .rw 0x80080000]
  else if 0x3000 ≤ idx ∧ idx < 0x3010 then
    [oU 1 1 .ro 0, oR 2 1 .wo 0 1 6, oU 3 1 .rw 0, oU 4 1 .rw 0, oU 5 1 .rw 0, oU 6 2 .rw 0, oR 7 2 .rw 0 0 1024, oU 8 2 .ro 0,
     oU 9 4 .ro 0, oU 0x0A 2 .ro 0]
  else if 0x3100 ≤ idx ∧ idx < 0x3110 then
    [oOct 1 10 .rw 0, oU 2 8 .rw 0, oU 3 8 .rw 0, oU 4 8 .rw 0, oR 5 2 .rw 0 0 8192, oU 6 2 .rw 0, oU 7 2 .rw 0, oU 8 1 .rw 0,
     oR 9 1 .rw 0 0 16, oU 0x0A 2 .ro 0]
  else if 0x4000 ≤ idx ∧ idx < 0x4400 then
    [oU 1 2 .rw 1, oI32 2 .ro 0, oU 3 2 .ro 0, oU 4 2 .ro 0, oU 5 4 .ro 0, oU 6 2 .rw 1024, oU 7 1 .rw 80, oU 8 4 .rw 0xFFFFFFFF,
     oU 9 8 .ro 0]
  else if idx = 0x5000 then [oDom 1 .ro, oDom 2 .ro, oU 3 4 .ro 0]
  else if idx = 0x6000 then [oDom 1 .ro, oU 2 4 .ro 0, oU 3 4 .ro 0]
  else if idx = 0x6100 then [oDom 1 .ro, oU 2 1 .rw 1]
  else if idx = 0x6200 then
    [oU 1 2 .ro 640, oU 2 2 .ro 320, oU 3 2 .ro 0, oU 4 4 .ro 0, oU 5 1 .ro 16, oDom 6 .ro, oDom 7 .ro]
  else if idx = 0x7000 then
    [oDom 1 .ro, oDom 2 .ro, oDom 3 .ro, oDom 4 .ro, oDom 5 .ro, oDom 6 .ro, oU 0x0A 1 .rw 128, oU 0x0B 4 .rw 1000]
  else if idx = 0x7100 then [oU 1 2 .rws 0, oU 2 2 .rws 0, oDom 3 .rw, oU 4 4 .ro 0]
  else if idx = 0x7200 then
    [oU 1 2 .rws 0, oR 2 2 .rws 0 0 15, oU 3 2 .rw 0, oU 4 4 .wo 0, oR 5 1 .rw 0 0 15, oR 6 2 .rw 60 1 3600, oDom 7 .rw,
     oR 8 1 .wo 0 1 2, oDom 9 .ro, oU 0x0A 1 .ro 0]
  else if idx = 0x7800 then
    [oDom 1 .ro, oDom 2 .ro, oU 3 8 .rws 0xFFFFFFFF00000000, oU 4 4 .rw 1000, oU 0x10 2 .ro 0, oR 0x11 1 .rws 8 1 15,
     oR 0x12 1 .rws 8 0 16, oU 0x13 1 .rw 64, oDom 0x14 .ro, oU 0x15 2 .ro 0, oDom 0x16 .ro]
  else if idx = 0x8000 then [oU 1 1 .ro 0, oR 2 1 .wo 0 1 3, oR 3 1 .wo 0 0 24, oU 4 2 .const 115, oOct 5 4 .const 0x0069005F]
  else if idx = 0x8010 then [oU 1 1 .rw 0, oU 2 4 .ro 0]
  else if idx = 0x9000 then
    [oR 1 1 .rw 1 0 2, oOct 2 16 .wo 0, oDom 3 .ro, oDom 4 .ro, oOct 5 16 .ro 0, oR 6 2 .rw 60 10 3600, oR 7 1 .wo 0 0 20,
     oR 8 1 .wo 0 0 15, oU 9 4 .ro 0, oU 0x0A 1 .ro 0, oDom 0x0B .ro]
  else if idx = 0xA000 then [oDom 1 .ro, oDom 2 .wo, oOct 3 2 .wo 0, oOct 4 8 .ro 0, oR 5 4 .rw 600 10 86400]
  else if idx = 0xA010 then [oB 1 .rw 0]
  else if idx = 0xB000 then
    [oU 1 4 .ro 0, oDom 2 .ro, oU 3 4 .wo 0, oU 4 4 .ro 0, oDom 5 .ro, oDom 6 .ro, oU 7 4 .ro 0]
  else []

/-- An object by index and subindex; subindex 0 is a CONST U8, the highest subindex defined (R364). -/
def findObj (idx sub : Nat) : Option Obj :=
  let os := objectsOf idx
  if os = [] then none
  else if sub = 0 then some (oU 0 1 .const ((os.map (·.sub)).foldl max 0))
  else os.find? fun o => o.sub = sub

/-- The key of an object. -/
def objKey (idx sub : Nat) : Nat := 256 * idx + sub

/-- What an object reads before any write: its default. -/
def objDefault (key : Nat) : Nat :=
  match findObj (key / 256) (key % 256) with
  | some o => o.dflt
  | none => 0

/-- The stored value of a writable numeric object. -/
def Mgmt.obj (m : Mgmt) (idx sub : Nat) : Nat := Sparse.get m.od (objDefault (objKey idx sub)) (objKey idx sub)
def Mgmt.setObj (m : Mgmt) (idx sub v : Nat) : Mgmt :=
  { m with od := Sparse.set m.od (objDefault (objKey idx sub)) (objKey idx sub) v }

/-- The objects that are persisted (R272, text below Table 15.8, Tables 15.10, 15.11, 16.7). -/
def isPersisted (idx sub : Nat) : Bool :=
  (idx = 0x1100 && sub ∉ [0, 1, 8, 9]) || (idx = 0x1200 && sub ∉ [0, 1, 5, 6, 8]) || (idx = 0x2000 && sub ∈ [0x23, 0x24]) ||
    (idx = 0x6100 && sub = 2) || (idx = 0x9000 && sub ∈ [1, 6]) || (idx = 0xA000 && sub = 5) || (idx = 0xA010 && sub = 1)

/-- A tenant's objects (Table 15.10). -/
def Mgmt.weight (m : Mgmt) (t : Nat) : Nat := m.obj (0x4000 + t) 1
def Mgmt.streamQuota (m : Mgmt) (t : Nat) : Nat := m.obj (0x4000 + t) 6
def Mgmt.coreQuota (m : Mgmt) (t : Nat) : Nat := m.obj (0x4000 + t) 7
def Mgmt.lpQuota (m : Mgmt) (t : Nat) : Nat := m.obj (0x4000 + t) 8

end Sys2Proof.Machine
end

