-- ==== Sys2Proof/Machine/Ops.lean ====
section
/-! DEFINITION. Named operations over the whole state: cores, macros, dies, free values, the hub's journal, fault queues,
flags, arrival counters and ledgers. -/

namespace Sys2Proof.Machine

/-- The outcome type of every meaning. -/
abbrev Out := Host.Outcome State Fault Refusal

/-! ### Fault codes (Table 10.10) -/
def fAeField : Byte := 0x01
def fAeMap : Byte := 0x02
def fAeMix : Byte := 0x03
def fAeTile : Byte := 0x04
def fAeRecord : Byte := 0x05
def fMacroState : Byte := 0x06
def fMacroAddr : Byte := 0x07
def fMergeOrder : Byte := 0x08
def fVeField : Byte := 0x10
def fVeTable : Byte := 0x11
def fFeField : Byte := 0x12
def fLeField : Byte := 0x13
def fSeField : Byte := 0x14
def fSpAddr : Byte := 0x18
def fSpPerm : Byte := 0x19
def fSpAlign : Byte := 0x1A
def fSpHandle : Byte := 0x1B
def fNbDenied : Byte := 0x1C
def fAtomicDenied : Byte := 0x1D
def fSpParity : Byte := 0x40
def fArrayCheck : Byte := 0x41
def fCoreDecode : Byte := 0x50
def fCoreOpcode : Byte := 0x51
def fCoreFetch : Byte := 0x52
def fCoreCounter : Byte := 0x53
def fCoreWaitTimeout : Byte := 0x54
def fProgramTrap : Byte := 0x55
def fReplayLimit : Byte := 0x56
def eArrayInf : Byte := 0x80
def eRangeDrift : Byte := 0x81
def eSpLatent : Byte := 0x82
def eDroppedGrant : Byte := 0x83
def eTraceDrop : Byte := 0x84

/-! ### Components of the state -/

def State.core (s : State) (c : Nat) : CoreState := Sparse.get s.cores CoreState.reset c
def State.setCore (s : State) (c : Nat) (v : CoreState) : State := { s with cores := Sparse.set s.cores CoreState.reset c v }
def State.updCore (s : State) (c : Nat) (f : CoreState → CoreState) : State := s.setCore c (f (s.core c))

/-- The key of macro m of core c. -/
def macKey (c m : Nat) : Nat := 72 * c + m
def State.mac (s : State) (c m : Nat) : MacroState := Sparse.get s.macros (MacroState.reset m) (macKey c m)
def State.setMac (s : State) (c m : Nat) (v : MacroState) : State :=
  { s with macros := Sparse.set s.macros (MacroState.reset m) (macKey c m) v }
def State.updMac (s : State) (c m : Nat) (f : MacroState → MacroState) : State := s.setMac c m (f (s.mac c m))

def State.die (s : State) (d : Nat) : DieState := Sparse.get s.dies DieState.reset d
def State.setDie (s : State) (d : Nat) (v : DieState) : State := { s with dies := Sparse.set s.dies DieState.reset d v }
def State.updDie (s : State) (d : Nat) (f : DieState → DieState) : State := s.setDie d (f (s.die d))

/-- A die that is lost or was lost and has not passed a march test since (R238), or is held in reset by SAFETY until its test passes (R396):
its cores, channels and lanes are not usable. -/
def DieState.gone (x : DieState) : Bool := x.lost || x.needMarch || x.resetHold || x.retestDue

/-! ### Fused power data (Table 12.2) -/

/-- The voltage code of a die's operating point: 0.52 V to 0.82 V, and not below that of a lower point. -/
def vop (d p : Nat) : Nat := ((List.range (p + 1)).map fun i => 8 + Config.vopFuse d i % 121).foldl max 8
def icur (d p : Nat) : Nat := Config.icurFuse d p % 256
def wgt (d k : Nat) : Nat := Config.wgtFuse d k % 65536

/-- A quotient in whole units, cut off or brought up (assumption log 87). -/
def roundQ (a b : Nat) : Nat := a / b + if a % b ≠ 0 ∧ Config.roundUp a b = true then 1 else 0

/-- A core's energy counter in nJ (R276). -/
def State.coreEnergy (s : State) (c : Nat) : Nat := Sparse.get s.power.coreE 0 c

/-- A core under a march test of its scratchpad or of its whole die (R372). -/
def State.coreTested (s : State) (c : Nat) : Bool :=
  s.maint.ops.any fun o => decide (o.kind = .march) && decide (o.unitKind ≠ 1) && decide (c ∈ o.cores)

/-- Macros of a die in a running pass (R292). -/
def State.runningMacros (s : State) (d : Nat) : Nat :=
  ((dieCores d).map fun c => match (s.core c).pass with
    | some r => if r.phase = .running then r.macs.length else 0
    | none => 0).sum

def State.setHub (s : State) (h : Hub) : State := { s with hub := h }
def State.updHub (s : State) (f : Hub → Hub) : State := { s with hub := f s.hub }
def State.updPower (s : State) (f : Power → Power) : State := { s with power := f s.power }
def State.updKraox (s : State) (f : Kraox → Kraox) : State := { s with kraox := f s.kraox }
def State.updExt (s : State) (f : ExtMem → ExtMem) : State := { s with ext := f s.ext }
def State.updMgmt (s : State) (f : Mgmt → Mgmt) : State := { s with mgmt := f s.mgmt }
def State.updMaint (s : State) (f : Maint → Maint) : State := { s with maint := f s.maint }

/-- The answer returned to the requester of a read-like command. -/
def State.answer (s : State) (status : Nat) (data : List Byte) : State := { s with reply := { status := status, data := data } }

/-! ### Free values: each draw takes the next value of an opaque function -/

def State.bump (s : State) : State := { s with free := s.free + 1 }
/-- A time stamp (TSTAMP, R127): the clock's value is the environment's, so it is free. -/
def State.now (s : State) : W32 := Config.freeW32 s.free
/-- n free bytes, each drawn apart. -/
def freeBytes (k : Nat) : Nat → List Byte
  | 0 => []
  | n + 1 => Config.freeByte k :: freeBytes (k + 1) n
/-- n draws taken. -/
def State.bumpN (s : State) (n : Nat) : State := { s with free := s.free + n }

/-! ### Host ports: DEVSTAT and attention (R331, R337, Tables 14.4 and 14.6) -/

def Hub.ring (h : Hub) (r : Nat) : Ring := Sparse.get h.rings Ring.reset r

/-- The host port that serves a ring (R331). -/
def State.portOfRing (s : State) (r : Nat) : Nat := if bit (s.mgmt.obj 0x7800 3) r then 1 else 0

def State.host (s : State) (p : Nat) : HostPort := Sparse.get s.hosts HostPort.reset p
def State.setHost (s : State) (p : Nat) (v : HostPort) : State := { s with hosts := Sparse.set s.hosts HostPort.reset p v }
def State.updHost (s : State) (p : Nat) (f : HostPort → HostPort) : State := s.setHost p (f (s.host p))

/-- An MSI-X vector of a port raised: its bit in the pending array. -/
def State.raiseVec (s : State) (p v : Nat) : State := s.updHost p fun h => { h with msix := Sparse.set h.msix false v true }

/-- Partitions that the enabled rings of a port name (R331, R336). -/
def State.portParts (s : State) (p : Nat) : List Nat :=
  ((List.range 64).filter fun r => (s.hub.ring r).en && decide (s.portOfRing r = p)).map fun r => (s.hub.ring r).part.val

/-- A DEVSTAT bit set; one that becomes 1 is an attention cause: READY pulses ATTN, PAUSE and RESET latch it (Table 14.6). -/
def State.attend (s : State) (p bitNo : Nat) : State :=
  let h := s.host p
  if bitOf h.devstat bitNo then s
  else
    let h1 := { h with devstat := h.devstat ||| BitVec.ofNat 4 (2 ^ bitNo) }
    let h2 := match h.hrdy with
      | .ready => { h1 with hrdy := .attn }
      | .pause => { h1 with latched := true }
      | .reset => { h1 with latched := true }
      | _ => h1
    (s.setHost p h2).raiseVec p 66

/-! ### Firmware components, by COMP 1 to 5 (R379 to R384) -/

def State.comp (s : State) (c : Nat) : Component := Sparse.get s.maint.comps Component.reset c
def State.setComp (s : State) (c : Nat) (v : Component) : State := s.updMaint fun m => { m with comps := Sparse.set m.comps Component.reset c v }
def Component.active (x : Component) : FwSlot := if x.useB then x.b else x.a
def Component.other (x : Component) : FwSlot := if x.useB then x.a else x.b
def Component.setActive (x : Component) (v : FwSlot) : Component := if x.useB then { x with b := v } else { x with a := v }
def Component.setOther (x : Component) (v : FwSlot) : Component := if x.useB then { x with a := v } else { x with b := v }
def FwSlot.empty : FwSlot := { st := .empty, ver := 0, svn := 0, compat := [] }

/-- A download under way ends, its slot EMPTY (R380). -/
def State.dropDownload (s : State) : State :=
  match s.maint.download with
  | none => s
  | some (c, _) => (s.setComp c { (s.comp c).setOther FwSlot.empty with image := [], whole := false }).updMaint fun m => { m with download := none }

/-! ### Frames the Q25 sends (R355, R362, R363) -/

/-- The group address, first octet first (OD 1100.05). -/
def Mgmt.group (m : Mgmt) : BitVec 48 := BitVec.ofNat 48 (leNat (leBytes 6 (m.obj 0x1100 5)).reverse)

def State.send (s : State) (t : TxFrame) : State := s.updMgmt fun m => { m with tx := m.tx ++ [t] }

/-- An EVENT to the group address when OD 1100.0A is 1 (R363). -/
def State.event (s : State) (code : Byte) (idx sub : Nat) (seq : W32) : State :=
  if s.mgmt.up ∧ s.mgmt.obj 0x1100 0x0A = 1 then
    (s.send { dst := s.mgmt.group, op := 0x11, status := 0, seq := 0, index := BitVec.ofNat 16 idx, sub := BitVec.ofNat 8 sub, type := 0,
              offset := 0, more := false, session := 0, ctr := 0, tag := [],
              data := [code] ++ leBytes 2 idx ++ leBytes 1 sub ++ leBytes 4 seq.toNat ++ leBytes 4 s.now.toNat }).bump
  else s

/-! ### The hub's journal (R243, Table 10.11) -/

/-- Classes of Table 10.11. -/
def clsOf (code : Nat) : Nat :=
  if code < 0x40 then 0 else if code < 0x50 then 1 else if code < 0x80 then 2 else if code < 0xB0 then 3
  else if code < 0xC0 then 4 else 5

/-- Records not yet persisted, oldest first: those of the device and safety classes that the island still has to write, which outlive the
ring, and the others of the ring (R243, R268). -/
def Hub.unpersisted (h : Hub) : List JournalRec := (h.islandQ.filter fun r => decide (r ∉ h.journal)) ++ h.journal.filter fun r => !r.persisted

/-- Device and safety records after a SEQ, persisted or still to be: the count of OD B000.04 (R244, R390). -/
def Hub.recordsAfter (h : Hub) (v : Nat) : Nat := ((h.persistent ++ h.islandQ).filter fun r => decide (v < r.seq.toNat) && decide (4 ≤ r.cls)).length

/-- The level of FAULT_N (R244, R369, R390): low while a record of the device or safety class is unacknowledged. -/
def State.faultN (s : State) : Bool := decide (s.hub.unacked = 0)

/-- One record appended; the oldest of 8,192 is overwritten and counted; ARRAY_CHECK and ARRAY_INF reports are counted (Table 15.10).
Records of the device and safety classes stay unacknowledged (R244), set DEVSTAT.JOURNAL of the ports whose rings name their
partition, are sent as EVENTs (R363), and wait for the island to write them (R243). -/
def State.journal (s : State) (code : Byte) (part srcKind srcId : Nat) (tag : BitVec 16) (stepno addr : W32) (detail : W64) :
    State :=
  let h := s.hub
  let cls := clsOf code.toNat
  let r : JournalRec := { time := s.now, seq := h.seq + 1, code := code, cls := cls, persisted := false, part := part,
                          srcKind := srcKind, srcId := srcId, tag := tag, stepno := stepno, addr := addr, detail := detail }
  let full := h.journal.length ≥ 8192
  let s1 := (s.setHub { h with journal := (if full then h.journal.drop 1 else h.journal) ++ [r], seq := h.seq + 1,
                               overwritten := h.overwritten + (if full then 1 else 0),
                               islandQ := if 4 ≤ cls then h.islandQ ++ [r] else h.islandQ,
                               unacked := h.unacked + (if 4 ≤ cls then 1 else 0),
                               arrayChecks := h.arrayChecks + (if code = fArrayCheck then 1 else 0),
                               arrayInfs := h.arrayInfs + (if code = eArrayInf then 1 else 0) }).bump
  if 4 ≤ cls then
    ((List.range 2).foldl (fun s p => if part ∈ s.portParts p then s.attend p 0 else s) s1).event code 0xB000 2 (h.seq + 1)
  else s1

/-- A record whose source is the device as a whole (part 0xFF). -/
def State.journalDev (s : State) (code : Byte) (srcKind srcId : Nat) (detail : W64) : State :=
  s.journal code 0xFF srcKind srcId 0 0 0 detail

/-- A device record for which the spec states no DETAIL: its detail is free. -/
def State.journalBare (s : State) (code : Byte) (srcKind srcId : Nat) : State := s.journalDev code srcKind srcId (Config.freeW64 s.free)

/-- A core that needs a spare it has not got: SPARE_EXHAUSTED, and the core leaves every resource set (R236). -/
def State.exhausted (s : State) (c detail : Nat) : State :=
  (s.journal 0xAD 0xFF 0 c 0 0 0 (BitVec.ofNat 64 detail)).updMaint fun m =>
    { m with excluded := if c ∈ m.excluded then m.excluded else m.excluded ++ [c] }

/-! ### Scalar registers, flags and counters -/

/-- One event of an activity counter of the core's own (R274, Table 12.1). -/
def CoreState.count (k : CoreState) (i : Nat) : CoreState := { k with acts := Sparse.set k.acts 0 i (Sparse.get k.acts 0 i + 1) }

/-- X[n]; X0 reads 0. -/
def CoreState.getX (k : CoreState) (n : Nat) : W64 := if n % 32 = 0 then 0 else Sparse.get k.x 0 (n % 32)
/-- A write of X[n]; writes to X0 are discarded. -/
def CoreState.putX (k : CoreState) (n : Nat) (v : W64) : CoreState :=
  if n % 32 = 0 then k else { k with x := Sparse.set k.x 0 (n % 32) v }

def CoreState.getAc (k : CoreState) (i : Nat) : Nat := (Sparse.get k.ac 0 i).toNat
def CoreState.putAc (k : CoreState) (i v : Nat) : CoreState := { k with ac := Sparse.set k.ac 0 i (BitVec.ofNat 24 v) }
def CoreState.getAcexp (k : CoreState) (i : Nat) : Nat := (Sparse.get k.acexp 1 i).toNat
def CoreState.putAcexp (k : CoreState) (i v : Nat) : CoreState :=
  { k with acexp := Sparse.set k.acexp 1 i (BitVec.ofNat 24 v) }
def CoreState.getTok (k : CoreState) (i : Nat) : Nat := (Sparse.get k.rtok 0 i).toNat
def CoreState.putTok (k : CoreState) (i v : Nat) : CoreState := { k with rtok := Sparse.set k.rtok 0 i (BitVec.ofNat 8 v) }
def CoreState.flag (k : CoreState) (i : Nat) : Bool := bitOf k.flags i
def CoreState.setFlag (k : CoreState) (i : Nat) : CoreState := { k with flags := k.flags ||| BitVec.ofNat 64 (2 ^ i) }
def CoreState.clrFlag (k : CoreState) (i : Nat) : CoreState := { k with flags := k.flags &&& ~~~BitVec.ofNat 64 (2 ^ i) }

/-- ACDEBTi, a register of the window space (Table 6.4). -/
def CoreState.getDebt (k : CoreState) (i : Nat) : Nat := Win.getN k.win (0x040B0400 + 4 * i) 3
def CoreState.putDebt (k : CoreState) (i v : Nat) : CoreState := { k with win := Win.putN k.win (0x040B0400 + 4 * i) 3 v }

/-! ### The core's fault queue and core faults (R127, R129) -/

def CoreState.pushFault (k : CoreState) (code : Byte) (tag : BitVec 16) (addr : W32) (detail : W64) : CoreState :=
  let r : FaultRec := { code := code, tag := tag, addr := addr, stepno := k.stepno, detail := detail, again := false }
  { k with faultQ := k.faultQ ++ [r] }

/-- A core fault (Table 5.20): RUN, REPLAY and HELD go to FAULTED; every core fault is recorded. -/
def CoreState.coreFault (k : CoreState) (code : Byte) (tag : BitVec 16) (addr : W32) (detail : W64) : CoreState :=
  let k1 := k.pushFault code tag addr detail
  match k.st with
  | .idle => k1
  | _ => { k1 with st := .faulted, hint := none }

/-- An increment of ACi (R109, R154): the debt is repaid first; past 2^24 - 1 the counter saturates and CORE_COUNTER is raised
with the counter's index, the tag of the word that caused it and, from a neighbour, the sending direction. -/
def CoreState.addAc (k : CoreState) (i n : Nat) (tag : BitVec 16) (dir : Nat) : CoreState :=
  let debt := k.getDebt i
  let pay := min debt n
  let k1 := if pay = 0 then k else k.putDebt i (debt - pay)
  let v := k.getAc i + (n - pay)
  if v < 2 ^ 24 then k1.putAc i v
  else (k1.putAc i (2 ^ 24 - 1)).coreFault fCoreCounter tag 0 (BitVec.ofNat 64 (i + 256 * dir))

/-- A rollback of amount n (R154). -/
def CoreState.rollback (k : CoreState) (i n : Nat) : CoreState :=
  let a := k.getAc i
  let m := min n a
  (k.putAc i (a - m)).putDebt i (k.getDebt i + (n - m))

/-- Out-ledger key of a target (0 own core, 1 to 4 by DIR) and counter; a total past 2^24 - 1 sets NOREPLAY (R154). -/
def CoreState.ledgerOut (k : CoreState) (target i n : Nat) : CoreState :=
  let t := Sparse.get k.outLedger 0 (32 * target + i) + n
  if t < 2 ^ 24 then { k with outLedger := Sparse.set k.outLedger 0 (32 * target + i) t }
  else { k with noReplay := true }

/-- Consumption ledger: counters at keys 0 to 31, release channels at 32 to 95. -/
def CoreState.ledgerCons (k : CoreState) (key n : Nat) : CoreState :=
  let t := Sparse.get k.consLedger 0 key + n
  if t < 2 ^ 24 then { k with consLedger := Sparse.set k.consLedger 0 key t } else { k with noReplay := true }

/-- The partition of a core (PART CSR): its owner, 0 when none. -/
def CoreState.part (k : CoreState) : Nat := k.owner.getD 0

/-! ### Partitions -/

def Hub.part (h : Hub) (p : Nat) : Partition := Sparse.get h.parts Partition.reset p
def Hub.setPart (h : Hub) (p : Nat) (v : Partition) : Hub := { h with parts := Sparse.set h.parts Partition.reset p v }

/-- Rights of a partition (R225, Table 10.1): 0 ATOMIC, 1 TORUS, 2 TRACE, 3 LENDER. -/
def Hub.right (h : Hub) (p n : Nat) : Bool := bitOf (h.part p).rights n

/-- Open streams that satisfy a condition. -/
def Hub.openStreams (h : Hub) (p : Stream → Bool) : List Nat :=
  (h.streams.filter fun e => decide (e.2.st ≠ 0) && p e.2).map (·.1)

def Hub.stream (h : Hub) (n : Nat) : Stream := Sparse.get h.streams Stream.reset n
def Hub.setStream (h : Hub) (n : Nat) (v : Stream) : Hub := { h with streams := Sparse.set h.streams Stream.reset n v }
def Hub.updStream (h : Hub) (n : Nat) (f : Stream → Stream) : Hub := h.setStream n (f (h.stream n))

/-- HOLD (Table 5.20). -/
def CoreState.hold (k : CoreState) : CoreState :=
  match k.st with
  | .run => { k with st := .held, hint := none }
  | .replay => { k with st := .held }
  | _ => k

/-- Hold a stream (Table 9.10): IDLE and READY at once, RUNNING after its completion. -/
def Stream.hold (x : Stream) : Stream :=
  if x.st = 1 ∨ x.st = 2 then { x with st := 4, wasHeld := true }
  else if x.st = 3 then { x with holdDue := true, wasHeld := true } else x

/-- Streams bound to a program held. -/
def State.holdProg (s : State) (prog : Nat) : State :=
  s.updHub fun h => (h.openStreams fun x => x.prog = prog).foldl (fun h n => h.updStream n Stream.hold) h

/-! ### Pools (R220, Table 9.13) -/

/-- Pools: 0 outstanding commands, 1 stream table, 2 install queue, 3 hub merge jobs, 4 trace records of 16 bytes. -/
def poolSize (k : Nat) : Nat := match k with | 0 => 16384 | 1 => 8192 | 2 => 4 | 3 => 64 | _ => 4194304
def poolShare (k : Nat) : Nat := match k with | 0 => 2048 | 1 => 1024 | 2 => 1 | 3 => 8 | _ => 524288

/-- Entries of a pool held, by one tenant or by all. -/
def Hub.held (h : Hub) (k : Nat) (t : Option Nat) : Nat :=
  let mine := fun x : Nat => match t with
    | none => true
    | some y => decide (x = y)
  match k with
  | 0 => (h.cmds.filter fun o => mine o.cmd.tenant.toNat).length
  | 1 => (h.openStreams fun x => mine x.tenant).length
  | 2 => (h.cmds.filter fun o => o.taken && decide (o.cmd.opc = 1 ∨ o.cmd.opc = 2) && mine o.cmd.tenant.toNat).length
  | 3 => (h.jobs.filter fun j => !j.coll && mine j.tenant).length
  | _ => (h.trace.filter fun r => mine r.tenant).length

/-- Whether another tenant waits for the pool, or was refused by it, in this epoch or the last. -/
def Hub.wanted (h : Hub) (k t : Nat) : Bool := (h.poolAsk ++ h.poolPrev).any fun x => decide (x.1 = k) && decide (x.2 ≠ t)

/-- Whether a tenant may take one more entry of a pool. -/
def Hub.poolOk (h : Hub) (k t : Nat) : Bool :=
  decide (h.held k none < poolSize k) && (!h.wanted k t || decide (h.held k (some t) < poolShare k))

/-- A tenant's request refused or left waiting at a pool, kept once. -/
def Hub.ask (h : Hub) (k t : Nat) : Hub := { h with poolAsk := if (k, t) ∈ h.poolAsk then h.poolAsk else h.poolAsk ++ [(k, t)] }

/-- The tenant of the program bound to a core; the first tenant of the core's partition where none is. -/
def Hub.tenantAt (h : Hub) (p c : Nat) : Nat :=
  match h.programs.find? fun g => decide (c ∈ g.lcores) with
  | some g => g.tenant
  | none => (h.part p).tbase

/-! ### Traces (R127, R225, Table 5.19) -/

/-- Without the TRACE right a partition's TRCCFG writes have no effect (R225). -/
def State.keepTrc (s : State) (c : Nat) (k : CoreState) : CoreState :=
  if s.hub.right k.part 2 then k else { k with trccfg := (s.core c).trccfg }

/-- A trace record into the hub's buffer when TRCCFG bit `en` is 1. One that the pool of R220 does not admit is dropped and counted, and
the first drop of a partition is reported as TRACE_DROP (assumption log 154); without the TRACE right records are discarded (R225). -/
def State.traceEv (s : State) (c : Nat) (en : Nat) (tag : BitVec 16) (slot event : Nat) (data : W32) : State :=
  let k := s.core c
  if bitOf k.trccfg en ∧ s.hub.right k.part 2 then
    let t := s.hub.tenantAt k.part c
    if s.hub.poolOk 4 t then
      let r : TraceRec := { part := k.part, tenant := t, time := s.now, tag := tag, core := c, slot := BitVec.ofNat 3 slot,
                            event := BitVec.ofNat 5 event, data := data, stepno := k.stepno }
      (s.updHub fun h => { h with trace := h.trace ++ [r] }).bump
    else
      let n := Sparse.get s.hub.traceDrops 0 k.part
      let s1 := s.updHub fun h => { h.ask 4 t with traceDrops := Sparse.set h.traceDrops 0 k.part (n + 1) }
      if n = 0 then s1.journal eTraceDrop k.part 0 c tag k.stepno 0 1 else s1
  else s

end Sys2Proof.Machine
end

