-- ==== Sys2Proof/Machine/Macro.lean ====
section
/-! DEFINITION. The array macro: column code, check lanes, row port, configuration block, states and repair (R11 to R30, R400). -/

namespace Sys2Proof.Machine

/-! ### Column code and checks -/

/-- The weight width W of MCFG.WFMT (Table 1.9). -/
def wfmtWidth (f : BitVec 2) : Nat := 2 ^ f.toNat

/-- Coefficient j of a coefficient set (Table 1.11). -/
def coefOf (set : W64) (j : Nat) : Int := signed 8 (fld set (8 * j + 7) (8 * j))

/-- The coefficient set number of lane group g (Table 1.10). -/
def selOf (mgsel : W64) (g : Nat) : Nat := fld mgsel (4 * g + 3) (4 * g)

/-- Coefficients of lane group g in force (R14). -/
def MacroState.groupSet (m : MacroState) (g : Nat) : W64 := Sparse.get m.mcoef 0 (selOf m.mgsel g)

/-- Sum of a lane group's weights in a row: its 256 data columns, column n weighing coefficient n mod W (R13, R21). -/
def groupSum (set : W64) (w : Nat) (data : Nat) (g : Nat) : Int :=
  ((List.range 256).map fun k => if bit data (256 * g + k) then coefOf set (k % w) else 0).sum

/-- The check value of a group: minus its weight sum modulo 256 (R21). -/
def MacroState.checkOf (m : MacroState) (data : Nat) (g : Nat) : Nat :=
  ((-groupSum (m.groupSet g) (wfmtWidth m.wfmt) data g) % 256).toNat

/-- One step of the CRC-8 with polynomial x^8 + x^2 + x + 1 over one bit. -/
def crc8Bit (crc : Nat) (b : Bool) : Nat :=
  let top := bit crc 7 != b
  let sh := crc * 2 % 256
  if top then Nat.xor sh 7 else sh

/-- The CRC-8 of one byte, most significant bit first. -/
def crc8Byte (crc byte : Nat) : Nat := ([7, 6, 5, 4, 3, 2, 1, 0]).foldl (fun c k => crc8Bit c (bit byte k)) crc

/-- CRC-8 over the row's data bits of check group c, bytes 32c to 32c + 31 in ascending order (R19). -/
def metaCrc (data : Nat) (c : Nat) : Nat :=
  (List.range 32).foldl (fun crc k => crc8Byte crc (bits data (256 * c + 8 * k + 7) (256 * c + 8 * k))) 0

/-- Rows 0x800 and above are metadata rows (R25). -/
def isMeta (row : Nat) : Bool := decide (0x800 ≤ row)

/-- The check byte the write path computes for group g of a row (R21, R19). -/
def MacroState.checkByte (m : MacroState) (row data g : Nat) : Nat :=
  if isMeta row then metaCrc data g else m.checkOf data g

/-- The physical row that serves a row address: a spare row or the spare metadata row where its repair register names the row (R25, R29). -/
def MacroState.physRow (m : MacroState) (r : Nat) : Nat :=
  if r < 2048 then
    let e := Sparse.get m.mrepRow 0 (r / 64)
    if bitOf e 31 ∧ fld e 5 0 = r % 64 then 2064 + r / 64 else r
  else if r < 2064 then (if bitOf m.mrepMeta 31 ∧ fld m.mrepMeta 3 0 = r - 2048 then 2096 else r)
  else r + 33

/-- The cells of a physical row; one not written since the macro entered LOADING from OFFLINE is U (R27) and reads free bits. -/
def MacroState.cells (m : MacroState) (p : Nat) : Cells :=
  match Sparse.find? m.rows p with
  | some x => x
  | none =>
    match m.uGen with
    | none => { main := { data := 0, check := 0 }, spare := 0 }
    | some n => { main := { data := Config.freeRow n p, check := Config.freeRowCheck n p }, spare := Config.freeSpare n p }

/-- The column that position pos of segment g names: data columns from 0, check columns from 4096 (R12). -/
def columnOf (g pos : Nat) : Nat := if pos < 256 then 256 * g + pos else 4096 + 8 * g + (pos - 256)

/-- The columns that spare columns replace in the weight rows, each with its spare (R25, R29); where two registers name one column the
later stands. -/
def MacroState.colRoutes (m : MacroState) : List (Nat × Nat) :=
  (List.range 64).filterMap fun i =>
    let e := Sparse.get m.mrepCol 0 i
    if bitOf e 31 ∧ fld e 8 0 < 264 then some (columnOf (i / 4) (fld e 8 0), i) else none

def Row.col (x : Row) (j : Nat) : Bool := if j < 4096 then x.data.getLsbD j else x.check.getLsbD (j - 4096)

/-- A bit vector with bit n set to b. -/
def setBit {w : Nat} (v : BitVec w) (n : Nat) (b : Bool) : BitVec w :=
  if b then v ||| BitVec.ofNat w (2 ^ n) else v &&& ~~~BitVec.ofNat w (2 ^ n)

def Row.setCol (x : Row) (j : Nat) (b : Bool) : Row :=
  if j < 4096 then { x with data := setBit x.data j b } else { x with check := setBit x.check (j - 4096) b }

/-- A row's contents as the row port and the passes see them, through the repair registers. Spare columns serve weight rows. -/
def MacroState.row (m : MacroState) (r : Nat) : Row :=
  let x := m.cells (m.physRow r)
  if r < 2048 then m.colRoutes.foldl (fun y e => y.setCol e.1 (x.spare.getLsbD e.2)) x.main else x.main

/-- A row written through the repair registers; cells that no route reaches keep their contents. -/
def MacroState.putRow (m : MacroState) (r : Nat) (x : Row) : MacroState :=
  let p := m.physRow r
  let old := m.cells p
  let routes := if r < 2048 then m.colRoutes else []
  let new : Cells := { main := routes.foldl (fun y e => y.setCol e.1 (old.main.col e.1)) x,
                       spare := routes.foldl (fun v e => setBit v e.2 (x.col e.1)) old.spare }
  { m with rows := Sparse.insert m.rows p new }

/-- Bits of `new` in the segments the mask selects, bits of `old` elsewhere; `per` bits to a segment. -/
def mergeSegs (per : Nat) (mask : BitVec 16) (old new : Nat) : Nat :=
  ((List.range 16).map fun g =>
    bits (if bitOf mask g then new else old) (per * g + per - 1) (per * g) * 2 ^ (per * g)).sum

/-- All sixteen check bytes of a row, as a number. -/
def MacroState.checkWord (m : MacroState) (row data : Nat) : Nat :=
  ((List.range 16).map fun g => m.checkByte row data g * 2 ^ (8 * g)).sum

/-- A row write that the macro accepts (R26, R400): data of the masked segments, with check bits computed over the merged row,
or under RAW_WRITE as given by the maintenance arbiter and 0 from any other source. -/
def MacroState.store (m : MacroState) (by_ : Writer) (row : Nat) (mask : BitVec 16) (data : BitVec 4096) (check : W128) :
    MacroState :=
  let old := m.row row
  let d := mergeSegs 256 mask old.data.toNat data.toNat
  let c := if m.rawWrite then (if by_ = .arbiter then check.toNat else 0) else m.checkWord row d
  let c2 := mergeSegs 8 mask old.check.toNat c
  let m1 := m.putRow row { data := BitVec.ofNat 4096 d, check := BitVec.ofNat 128 c2 }
  if m.st = .loading then { m1 with rowsWritten := true } else m1

/-- The groups that fail when a row is read: the sum of weights and check value not 0 modulo 256, or a CRC mismatch (R23). -/
def MacroState.failing (m : MacroState) (row : Nat) : List Nat :=
  let x := m.row row
  (List.range 16).filter fun g => fld x.check (8 * g + 7) (8 * g) ≠ m.checkByte row x.data.toNat g

/-- What a row read records in the status registers (R23). -/
def MacroState.noteRead (m : MacroState) (row : Nat) : MacroState :=
  match m.failing row with
  | [] => m
  | g :: _ =>
    let m1 := { m with lastRow := BitVec.ofNat 12 row, lastGroup := BitVec.ofNat 4 g }
    if isMeta row then { m1 with metaErr := true }
    else { m1 with rowCheckErr := true,
                   rowMismatch := if m.rowMismatch = 0xFFFF then 0xFFFF else m.rowMismatch + 1 }

/-- The 576-byte record of a row read (R126): data, check bits, R23 result, zeros. -/
def MacroState.readRecord (m : MacroState) (row : Nat) : List Byte :=
  let x := m.row row
  let res := ((m.failing row).map fun g => 2 ^ g).sum
  leBytes 512 x.data.toNat ++ leBytes 16 x.check.toNat ++ leBytes 2 res ++ List.replicate 46 0

/-- The fault that a row operation meets at the macro (R25, Table 1.14). -/
def MacroState.rowFault (m : MacroState) (row : Nat) : Byte :=
  if 0x810 ≤ row then fMacroAddr
  else match m.st with
    | .offline => fMacroState
    | .retired => fMacroState
    | _ => 0

/-! ### Configuration block (Table 1.8) -/

def stNum : MacroSt → Nat
  | .offline => 0 | .loading => 1 | .armed => 2 | .retired => 3

def stOf (n : Nat) : MacroSt :=
  match n with
  | 0 => .offline | 1 => .loading | 2 => .armed | _ => .retired

def MacroState.mcfg (m : MacroState) : Nat :=
  stNum m.st * 2 ^ 30 + bitAt m.rawWrite 18 + m.wfmt.toNat * 2 ^ 16 + bitAt m.sparse 15

def MacroState.mstat (m : MacroState) : Nat :=
  m.lastRow.toNat * 2 ^ 16 + m.lastGroup.toNat * 2 ^ 12 + bitAt m.checkStale 7 + bitAt m.recheckBusy 6 +
  bitAt m.cfgLockedErr 5 + bitAt m.metaErr 4 + bitAt m.rowCheckErr 3 + bitAt m.repairBusy 2 + bitAt m.passActive 1

def MacroState.merrcnt (m : MacroState) : Nat := m.passMismatch.toNat * 2 ^ 16 + m.rowMismatch.toNat

/-- The register at an aligned offset of the block and its width in bytes; reserved offsets read 0 (R9). -/
def MacroState.regAt (m : MacroState) (off : Nat) : Nat :=
  if off < 4 then m.mcfg
  else if 8 ≤ off ∧ off < 16 then m.mgsel.toNat
  else if 0x10 ≤ off ∧ off < 0x14 then m.mstat
  else if 0x18 ≤ off ∧ off < 0x1C then m.merrcnt
  else if 0x100 ≤ off ∧ off < 0x180 then (Sparse.get m.mcoef 0 ((off - 0x100) / 8)).toNat
  else if 0x200 ≤ off ∧ off < 0x280 then (Sparse.get m.mrepRow 0 ((off - 0x200) / 4)).toNat
  else if 0x280 ≤ off ∧ off < 0x284 then m.mrepMeta.toNat
  else if 0x300 ≤ off ∧ off < 0x400 then (Sparse.get m.mrepCol 0 ((off - 0x300) / 4)).toNat
  else 0

/-- Width in bytes of the register that holds an offset. -/
def macRegWidth (off : Nat) : Nat :=
  if (8 ≤ off ∧ off < 16) ∨ (0x100 ≤ off ∧ off < 0x180) then 8 else 4

/-- One byte of the configuration block. -/
def MacroState.byteAt (m : MacroState) (off : Nat) : Byte :=
  byteOf (m.regAt off) (off % macRegWidth off)

/-- Whether a configuration write is accepted in the macro's state (Table 1.14). -/
def MacroState.cfgOpen (m : MacroState) : Bool :=
  match m.st with
  | .offline => true
  | .loading => true
  | _ => false

/-- What an accepted configuration write does to CHECK_STALE (R27). -/
def MacroState.noteCfg (m : MacroState) : MacroState := if m.rowsWritten then { m with checkStale := true } else m

def MacroState.locked (m : MacroState) : MacroState := { m with cfgLockedErr := true }

/-- A write of MGSEL (R27, Table 1.14). -/
def MacroState.writeMgsel (m : MacroState) (v : W64) : MacroState :=
  if m.cfgOpen then { m.noteCfg with mgsel := v } else m.locked

/-- A write of MCOEFs (R27, Table 1.14). -/
def MacroState.writeMcoef (m : MacroState) (set : Nat) (v : W64) : MacroState :=
  if m.cfgOpen then { m.noteCfg with mcoef := Sparse.set m.mcoef 0 set v } else m.locked

/-- The pattern field of pair p, window w and lane group g (R19). -/
def MacroState.patternAt (m : MacroState) (w g p : Nat) : Nat :=
  bits (m.row (0x800 + w / 4)).data.toNat (1024 * (w % 4) + 64 * g + 4 * p + 3) (1024 * (w % 4) + 64 * g + 4 * p)

/-- A pattern field with bit 3 set or a reserved pattern (R20). -/
def badPattern (f : Nat) : Bool := decide (6 ≤ f)

/-- The first metadata row with an error of R20 and its first failing check group, where there is a CRC mismatch. -/
def MacroState.metaErrors (m : MacroState) : Bool × Option (Nat × Nat) :=
  let crc := (List.range 16).flatMap fun r => (m.failing (0x800 + r)).map fun g => (0x800 + r, g)
  let pat := (List.range 64).any fun w => (List.range 16).any fun g => (List.range 16).any fun p => badPattern (m.patternAt w g p)
  (!crc.isEmpty || pat, crc.getLast?)

/-- Steps 2 and 3 of arming (R27): verify the metadata of a sparse macro, then enter ARMED or stay in LOADING. -/
def MacroState.arm (m : MacroState) : MacroState :=
  if m.sparse then
    let r := m.metaErrors
    let m1 := match r.2 with
      | some (row, _) => { m with lastRow := BitVec.ofNat 12 row, lastGroup := BitVec.ofNat 4 ((m.failing row).headD 0) }
      | none => m
    if r.1 then { m1 with metaErr := true, cfgLockedErr := true } else { m1 with st := .armed }
  else { m with st := .armed }

/-- The recheck sweep (R27 step 1): every row's check bits recomputed from the stored data and the configuration in force. -/
def MacroState.recheck (m : MacroState) : MacroState :=
  { (List.range 2064).foldl (fun (k : MacroState) r =>
      let x := k.row r
      k.putRow r { x with check := BitVec.ofNat 128 (k.checkWord r x.data.toNat) }) m with checkStale := false, recheckBusy := false }

/-- Entering LOADING from OFFLINE: contents U, ROWS_WRITTEN and CHECK_STALE cleared (R27). -/
def MacroState.enterLoading (m : MacroState) (draw : Nat) : MacroState :=
  { m with st := .loading, rowsWritten := false, checkStale := false, rows := [], uGen := some draw }

/-- A transition of Table 1.14; one that leaves LOADING ends a recheck sweep under way. -/
def MacroState.stepState (m : MacroState) (by_ : Writer) (draw : Nat) (t : MacroSt) : MacroState :=
  match m.st, t with
  | .offline, .armed => m.locked
  | .offline, .loading => m.enterLoading draw
  | .offline, .offline => m
  | .offline, .retired => { m with st := .retired }
  | .loading, .armed => if m.checkStale then { m with recheckBusy := true } else m.arm
  | .loading, .loading => m
  | .loading, .offline => { m with st := .offline, recheckBusy := false }
  | .loading, .retired => { m with st := .retired, recheckBusy := false }
  | .armed, .armed => m
  | .armed, .loading => { m with st := .loading }
  | .armed, .offline => { m with st := .offline }
  | .armed, .retired => { m with st := .retired }
  | .retired, .armed => m.locked
  | .retired, .loading => m.locked
  | .retired, .offline => if by_ = .arbiter then { m with st := .offline } else m.locked
  | .retired, .retired => m

/-- A write of STATE: behind the operations that wait at the macro, and, when it leaves ARMED, behind the pass in progress (R26). -/
def MacroState.writeState (m : MacroState) (by_ : Writer) (draw : Nat) (t : MacroSt) : MacroState :=
  if m.held ≠ [] ∨ (m.passActive = true ∧ m.st = .armed ∧ t ≠ .armed) then { m with held := m.held ++ [.state by_ t] }
  else m.stepState by_ draw t

/-- A waiting write of STATE that takes the macro out of ARMED: passes that arrive later fault (Table 1.14). -/
def MacroState.leaving (m : MacroState) : Bool :=
  m.held.any fun h => match h with
    | .state _ t => decide (t ≠ .armed)
    | _ => false

/-- A write of MCFG (R27): one that changes WFMT or SPARSE is a configuration write judged in the state before the write; only the
maintenance arbiter sets RAW_WRITE (Table 1.9). -/
def MacroState.writeMcfg (m : MacroState) (by_ : Writer) (draw : Nat) (v : W32) : MacroState :=
  let wf := BitVec.ofNat 2 (fld v 17 16)
  let sp := bitOf v 15
  let changes := wf ≠ m.wfmt ∨ sp ≠ m.sparse
  if changes ∧ m.cfgOpen = false then m.locked
  else
    let m1 := if changes then { m.noteCfg with wfmt := wf, sparse := sp } else m
    let m2 := { m1 with rawWrite := if bitOf v 18 then (m1.rawWrite || decide (by_ = Writer.arbiter)) else false }
    m2.writeState by_ draw (stOf (fld v 31 30))

/-- A write of MSTAT (W1C bits) or MERRCNT (writing 0 clears). -/
def MacroState.writeMstat (m : MacroState) (v : Nat) : MacroState :=
  { m with cfgLockedErr := m.cfgLockedErr && !bit v 5, metaErr := m.metaErr && !bit v 4,
           rowCheckErr := m.rowCheckErr && !bit v 3 }

def MacroState.writeMerrcnt (m : MacroState) (v : Nat) (bytes : Nat → Bool) : MacroState :=
  { m with passMismatch := if (bytes 2 || bytes 3) && bits v 31 16 = 0 then 0 else m.passMismatch,
           rowMismatch := if (bytes 0 || bytes 1) && bits v 15 0 = 0 then 0 else m.rowMismatch }

/-- A write of one register of the block, already merged; `cov` says which of its bytes the write covers (R131). -/
def MacroState.writeReg (m : MacroState) (by_ : Writer) (draw : Nat) (off v : Nat) (cov : Nat → Bool) : MacroState :=
  if off = 0 then m.writeMcfg by_ draw (BitVec.ofNat 32 v)
  else if off = 8 then m.writeMgsel (BitVec.ofNat 64 v)
  else if off = 0x10 then m.writeMstat v
  else if off = 0x18 then m.writeMerrcnt v cov
  else if 0x100 ≤ off ∧ off < 0x180 then m.writeMcoef ((off - 0x100) / 8) (BitVec.ofNat 64 v)
  else if 0x200 ≤ off ∧ off < 0x280 then
    { m with mrepRow := Sparse.set m.mrepRow 0 ((off - 0x200) / 4) (BitVec.ofNat 32 (bits v 31 31 * 2 ^ 31 + bits v 5 0)) }
  else if off = 0x280 then { m with mrepMeta := BitVec.ofNat 32 (bits v 31 31 * 2 ^ 31 + bits v 3 0) }
  else if 0x300 ≤ off ∧ off < 0x400 then
    let old := (Sparse.get m.mrepCol 0 ((off - 0x300) / 4)).toNat
    let col := if bits v 8 0 < 264 then bits v 8 0 else bits old 8 0
    { m with mrepCol := Sparse.set m.mrepCol 0 ((off - 0x300) / 4) (BitVec.ofNat 32 (bits v 31 31 * 2 ^ 31 + col)) }
  else m

/-! ### Writes of the configuration block -/

/-- A configuration-block write by a writer: a core program's write is discarded and recorded as SP_PERM (R24, R131); the row names no
long word, so the record's tag and address are free. -/
def State.cfgWrite (s : State) (c m : Nat) (by_ : Writer) (f : MacroState → MacroState) : State :=
  if by_ = .program then
    (s.updCore c fun k => k.pushFault fSpPerm (BitVec.ofNat 16 (Config.freeNat s.free)) (Config.freeW32 s.free) (Config.freeW64 s.free)).bump.answer
      fSpPerm.toNat []
  else (s.updMac c m f).bump.answer 0 []

/-! ### The weight shadow (R28, R125): 512-byte images by core, macro and row -/

def shadowKey (c m row : Nat) : Nat := macKey c m * 4096 + row
def State.shadowRow (s : State) (c m row : Nat) : Option (BitVec 4096) := Sparse.find? s.ext.shadow (shadowKey c m row)
def State.putShadow (s : State) (c m row : Nat) (d : BitVec 4096) : State :=
  s.updExt fun e => { e with shadow := Sparse.insert e.shadow (shadowKey c m row) d }

/-! ### Meanings -/

/-- MCFG_CONFIG_WRITE (R27). -/
def execMcfgConfigWrite (c : CoreId) (m : MacId) (by_ : Writer) (v : W32) (s : State) : Out :=
  .next (s.cfgWrite c m by_ fun k => k.writeMcfg by_ s.free v)

/-- MGSEL_WRITE (R27). -/
def execMgselWrite (c : CoreId) (m : MacId) (by_ : Writer) (v : W64) (s : State) : Out :=
  .next (s.cfgWrite c m by_ fun k => k.writeMgsel v)

/-- MCOEF_WRITE (R27). -/
def execMcoefWrite (c : CoreId) (m : MacId) (by_ : Writer) (set : Fin 16) (v : W64) (s : State) : Out :=
  .next (s.cfgWrite c m by_ fun k => k.writeMcoef set v)

/-- STATE_TO_ARMED (R27, Table 1.14). -/
def execStateToArmed (c : CoreId) (m : MacId) (by_ : Writer) (s : State) : Out :=
  .next (s.cfgWrite c m by_ fun k => k.writeState by_ s.free .armed)

/-- STATE_TO_LOADING (R27, Table 1.14). -/
def execStateToLoading (c : CoreId) (m : MacId) (by_ : Writer) (s : State) : Out :=
  .next (s.cfgWrite c m by_ fun k => k.writeState by_ s.free .loading)

/-- STATE_TO_OFFLINE (R27, Table 1.14). -/
def execStateToOffline (c : CoreId) (m : MacId) (by_ : Writer) (s : State) : Out :=
  .next (s.cfgWrite c m by_ fun k => k.writeState by_ s.free .offline)

/-- STATE_TO_RETIRED (R29, Table 1.14). -/
def execStateToRetired (c : CoreId) (m : MacId) (by_ : Writer) (s : State) : Out :=
  .next (s.cfgWrite c m by_ fun k => k.writeState by_ s.free .retired)

/-- RECHECK_SWEEP (R27 steps 1 to 3): the running sweep ends and arming goes on. -/
def execRecheckSweep (c : CoreId) (m : MacId) (s : State) : Out :=
  .next (if (s.mac c m).recheckBusy then s.updMac c m fun k => k.recheck.arm else s)

/-- The repair register a field repair enables; none when the macro has no spare left for it (R28, R29). -/
def MacroState.fitSpare (k : MacroState) (what : RepairKind) : Option MacroState :=
  match what with
  | .row a =>
    let i := a.toNat / 64
    if bitOf (Sparse.get k.mrepRow 0 i) 31 then none
    else some { k with mrepRow := Sparse.set k.mrepRow 0 i (BitVec.ofNat 32 (2 ^ 31 + a.toNat % 64)) }
  | .column seg pos =>
    let e := fun t : Nat => Sparse.get k.mrepCol 0 (4 * seg.val + t)
    if (List.range 4).any fun t => bitOf (e t) 31 && decide (fld (e t) 8 0 = pos.toNat) then none
    else match (List.range 4).find? fun t => !bitOf (e t) 31 with
    | none => none
    | some t => some { k with mrepCol := Sparse.set k.mrepCol 0 (4 * seg.val + t) (BitVec.ofNat 32 (2 ^ 31 + pos.toNat)) }
  | .metaRow r =>
    if bitOf k.mrepMeta 31 then none else some { k with mrepMeta := BitVec.ofNat 32 (2 ^ 31 + r.val) }

/-- A repair that names a row or column there is: positions 264 to 511 of a segment are reserved (R12). -/
def repairNames (what : RepairKind) : Bool :=
  match what with
  | .column _ pos => decide (pos.toNat < 264)
  | _ => true

end Sys2Proof.Machine
end

