-- ==== Sys2Proof/Machine/Operands.lean ====
section
/-! DEFINITION. Operand forms: address fields, affine patterns, footprints, the checks of R144, and access to a core's address
space (R121 to R124, R130 to R132, R138, R141, R143 to R145, R149, R152). -/

namespace Sys2Proof.Machine

/-! ### Regions (Table 6.1) -/

/-- Who may write a region by an access of the core's engines. -/
inductive WriteBy where
  | engines | hub | rmcfg
  deriving DecidableEq, Repr

/-- The regions of Table 6.1: first address, one past the last, writer. -/
def regionsOf61 : List (Nat × Nat × WriteBy) :=
  [(0, 0x03000000, .engines), (0x04000000, 0x04022080, .engines), (0x04060000, 0x04070000, .engines),
   (0x04070000, 0x04075100, .engines), (0x04080000, 0x04082080, .engines), (0x04090000, 0x04091000, .engines),
   (0x040A0000, 0x040A1000, .hub), (0x040B0000, 0x040B0500, .hub), (0x040C0000, 0x040C0500, .rmcfg),
   (0x04100000, 0x04148000, .hub), (0x04200000, 0x04278000, .hub)]

/-- The region that holds a whole footprint [lo, hi). -/
def regionFor (lo hi : Int) : Option (Nat × Nat × WriteBy) :=
  regionsOf61.find? fun r => decide ((r.1 : Int) ≤ lo) && decide (hi ≤ r.2.1)

/-! ### Handle entries and accept windows (Tables 6.3, 6.10) -/

def htValid (h : W128) : Bool := bitOf h 127
def htGen (h : W128) : Nat := fld h 126 123
def htRd (h : W128) : Bool := bitOf h 122
def htWr (h : W128) : Bool := bitOf h 121
def htCore (h : W128) : Nat := fld h 118 112
def htSize (h : W128) : Nat := fld h 89 64
def htBase (h : W128) : Nat := fld h 25 0

/-- A handle-table entry. -/
def htPack (valid : Bool) (gen : Nat) (rd wr : Bool) (core size base : Nat) : W128 :=
  BitVec.ofNat 128 (bitAt valid 127 + gen % 16 * 2 ^ 123 + bitAt rd 122 + bitAt wr 121 + core % 128 * 2 ^ 112 +
    size % 2 ^ 26 * 2 ^ 64 + base % 2 ^ 26)

def CoreState.ht (k : CoreState) (h : Nat) : W128 := BitVec.ofNat 128 (Win.getN k.win (0x040A0000 + 16 * h) 16)
def CoreState.nbwin (k : CoreState) (d : Dir) : W128 := BitVec.ofNat 128 (Win.getN k.win (0x040B0100 + 16 * dirNum d) 16)
def CoreState.spown (k : CoreState) (r : Nat) : W32 := BitVec.ofNat 32 (Win.getN k.win (0x040B0200 + 4 * r) 4)

def nbEn (w : W128) : Bool := bitOf w 127
def nbRd (w : W128) : Bool := bitOf w 126
def nbWr (w : W128) : Bool := bitOf w 125
def nbArr (w : W128) : Bool := bitOf w 124
def nbPart (w : W128) : Nat := fld w 123 120
def nbMask (w : W128) (i : Nat) : Bool := bitOf w (64 + i)
def nbSize (w : W128) : Nat := fld w 63 32
def nbBase (w : W128) : Nat := fld w 31 0

/-- AMMAP entry j: the physical macro, when the entry is valid (Table 2.1). -/
def CoreState.ammap (k : CoreState) (j : Nat) : Option Nat :=
  let b := (Win.read k.win (0x040C0000 + j)).toNat
  if bit b 7 then some (b % 128) else none

/-- Whether an own-engine access may touch region r (R141, R142). -/
def CoreState.ownsRegion (k : CoreState) (r : Nat) : Bool :=
  let w := k.spown r
  bitOf w 31 && !bitOf w 30 && decide (fld w 3 0 = k.part)

/-! ### Address fields (R121, Table 5.13) -/

/-- A resolved operand: its handle entry (none for an absolute form), base address, footprint relative to 0, what it does,
and whether every element address is aligned. -/
structure Operand where
  ent  : Option W128
  base : Int
  lo   : Int
  hi   : Int
  rd   : Bool
  wr   : Bool
  aligned : Bool
  deriving DecidableEq, Repr

/-- The form bits of a field; form 3 is reserved. -/
def fieldForm (f : W32) : Nat := fld f 31 30

/-- The handle a field names. -/
def fieldHandle (f : W32) : Nat := fld f 29 22

/-- Handle entry and base address of a field; `xr` is the register of a handle-plus-register form, read at issue. -/
def resolveField (hs : Sparse W128) (f : W32) (xr : W64) : Option W128 × Int :=
  match fieldForm f with
  | 0 => (none, (fld f 29 0 : Nat))
  | 1 => let h := Sparse.get hs 0 (fieldHandle f); (some h, (htBase h + fld f 21 0 : Nat))
  | _ => let h := Sparse.get hs 0 (fieldHandle f); (some h, (htBase h + fld xr 31 0 + fld f 16 0 : Nat))

/-- Handle entry and base of an _H field. -/
def resolveHandle (hs : Sparse W128) (h : Nat) : Option W128 × Int :=
  let e := Sparse.get hs 0 h
  (some e, (htBase e : Nat))

/-- An operand of a fixed layout: n bytes from its base, with an alignment. -/
def fixedOperand (r : Option W128 × Int) (n : Nat) (rd wr : Bool) (al : Nat) : Operand :=
  { ent := r.1, base := r.2, lo := r.2, hi := r.2 + n, rd := rd, wr := wr, aligned := decide (r.2 % (al : Int) = 0) }

/-! ### Affine patterns (R122, Table 5.14) -/

/-- An affine pattern: element size 2^elog, and its levels in use, innermost first, as count and stride. -/
structure Pat where
  elog   : Nat
  levels : List (Nat × Int)
  deriving DecidableEq, Repr

/-- APT entry p; none where a field holds a reserved value (an entry never written is all 0 and so reserved). -/
def CoreState.pat (k : CoreState) (p : Nat) : Option Pat :=
  let a := 0x04090000 + 0x40 * p
  let elog := (Win.read k.win a).toNat % 8
  let nlev := (Win.read k.win (a + 1)).toNat
  let lv := (List.range nlev).map fun l => (Win.getN k.win (a + 4 + 8 * l) 2, signed 32 (Win.getN k.win (a + 8 + 8 * l) 4))
  if elog = 7 ∨ nlev = 0 ∨ 6 < nlev ∨ lv.any (fun x => x.1 = 0) then none else some { elog := elog, levels := lv }

/-- Offsets in visiting order, innermost level first in the list of levels. -/
def offsetsOf : List (Nat × Int) → List Int
  | [] => [0]
  | (n, st) :: rest => (offsetsOf rest).flatMap fun b => (List.range n).map fun i => b + i * st

def Pat.offsets (p : Pat) : List Int := offsetsOf p.levels
def Pat.count (p : Pat) : Nat := (p.levels.map (·.1)).foldl (· * ·) 1
def Pat.size (p : Pat) : Nat := 2 ^ p.elog

/-- Footprint relative to the base (R123). -/
def Pat.lo (p : Pat) : Int := (p.levels.map fun l => min 0 (((l.1 : Int) - 1) * l.2)).sum
def Pat.hi (p : Pat) : Int := (p.levels.map fun l => max 0 (((l.1 : Int) - 1) * l.2)).sum + p.size

/-- Every element address a multiple of the element size. -/
def Pat.aligned (p : Pat) (base : Int) : Bool :=
  decide (base % (p.size : Int) = 0) && p.levels.all fun l => decide (l.1 = 1) || decide (l.2 % (p.size : Int) = 0)

def walkOperand (r : Option W128 × Int) (p : Pat) (rd wr : Bool) : Operand :=
  { ent := r.1, base := r.2, lo := r.2 + p.lo, hi := r.2 + p.hi, rd := rd, wr := wr, aligned := p.aligned r.2 }

/-- Element addresses in visiting order. -/
def Pat.addrs (p : Pat) (base : Int) : List Nat := p.offsets.map fun o => (base + o).toNat

/-! ### The checks of R144 -/

/-- The core that holds an operand's buffer. -/
def Operand.core (o : Operand) (c : Nat) : Nat :=
  match o.ent with
  | none => c
  | some h => htCore h

/-- The regions of 1 MiB a footprint touches. -/
def regionsTouched (lo hi : Int) : List Nat :=
  let a := lo.toNat / 0x100000
  let b := (hi - 1).toNat / 0x100000
  (List.range (b + 1 - a)).map (· + a)

/-- Whether core o admits an access of its neighbour c to [lo, hi): its accept window toward c (R149, Table 6.10). -/
def State.nbAdmits (s : State) (c o : Nat) (lo hi : Int) (rd wr : Bool) : Bool :=
  match dirTo o c with
  | none => false
  | some d =>
    let w := (s.core o).nbwin d
    nbEn w && decide (nbPart w = (s.core c).part) && (!rd || nbRd w) && (!wr || nbWr w) && decide ((nbBase w : Int) ≤ lo) &&
      decide (hi ≤ nbBase w + nbSize w)

/-- The first step of R144 that an operand fails, with its fault; `win` is false for engines that reach the scratchpad alone. -/
def State.opFail (s : State) (c : Nat) (win : Bool) (o : Operand) : Option (Nat × Byte) :=
  let k := s.core c
  let own := o.core c = c
  match o.ent with
  | some h =>
    if htValid h = false then some (1, fSpHandle)
    else if own = false ∧ dirTo c (htCore h) = none then some (2, fSpHandle)
    else if (o.rd ∧ htRd h = false) ∨ (o.wr ∧ htWr h = false) then some (3, fSpPerm)
    else if o.lo < htBase h ∨ htBase h + htSize h < o.hi then some (4, fSpAddr)
    else if o.aligned = false then some (5, fSpAlign)
    else if own then
      (if (regionsTouched o.lo o.hi).all k.ownsRegion then none else some (6, fSpPerm))
    else if s.nbAdmits c (htCore h) o.lo o.hi o.rd o.wr then none else some (6, fNbDenied)
  | none =>
    match regionFor o.lo o.hi with
    | none => some (4, fSpAddr)
    | some r =>
      if r.1 = 0 then
        if o.aligned = false then some (5, fSpAlign)
        else if (regionsTouched o.lo o.hi).all k.ownsRegion then none else some (6, fSpPerm)
      else if win = false then some (4, fSpAddr)
      else if o.aligned = false then some (5, fSpAlign)
      else if o.wr then
        match r.2.2 with
        | .engines => none
        | .hub => some (6, fSpPerm)
        | .rmcfg => if 0x040C0404 ≤ o.lo ∧ o.hi ≤ 0x040C0440 then none else some (6, fSpPerm)
      else none

/-- The fault of the lowest-numbered step that any operand fails; 0 when every operand passes (R144). -/
def State.checkOps (s : State) (c : Nat) (win : Bool) (ops : List Operand) : Byte :=
  let fails := ops.filterMap (s.opFail c win)
  match [1, 2, 3, 4, 5, 6].findSome? fun n => fails.find? fun f => f.1 = n with
  | some f => f.2
  | none => 0

/-! ### Reading a core's address space -/

/-- Tile lane states and values in the windows of Table 2.7. -/
def tileVal (t : TileId) (i : Nat) : Nat := (match t with | .ta => 0x04000000 | .tb => 0x04010000) + 4 * i
def tileStAddr (t : TileId) (i : Nat) : Nat := (match t with | .ta => 0x04020000 | .tb => 0x04021000) + i / 4

def laneStNum : LaneSt → Nat
  | .normal => 0 | .posInf => 1 | .negInf => 2 | .inv => 3
def laneStOf (n : Nat) : LaneSt :=
  match n % 4 with
  | 0 => .normal | 1 => .posInf | 2 => .negInf | _ => .inv

def CoreState.lane (k : CoreState) (t : TileId) (i : Nat) : Int := signed 32 (Win.getN k.win (tileVal t i) 4)
def CoreState.laneSt (k : CoreState) (t : TileId) (i : Nat) : LaneSt :=
  laneStOf ((Win.read k.win (tileStAddr t i)).toNat / 4 ^ (i % 4))
def CoreState.putLaneSt (k : CoreState) (t : TileId) (i : Nat) (x : LaneSt) : CoreState :=
  let a := tileStAddr t i
  let old := (Win.read k.win a).toNat
  let p := 4 ^ (i % 4)
  { k with win := Win.write k.win a (BitVec.ofNat 8 (old - old / p % 4 * p + laneStNum x * p)) }
def CoreState.putLane (k : CoreState) (t : TileId) (i : Nat) (v : Int) (x : LaneSt) : CoreState :=
  { k with win := Win.putN k.win (tileVal t i) 4 (v % 2 ^ 32).toNat }.putLaneSt t i x

def CoreState.tile (k : CoreState) (t : TileId) : Tile :=
  match t with
  | .ta => k.ta
  | .tb => k.tb
def CoreState.setTile (k : CoreState) (t : TileId) (v : Tile) : CoreState :=
  match t with
  | .ta => { k with ta := v }
  | .tb => { k with tb := v }

def tileStNum : TileSt → Nat
  | .empty => 0 | .filling => 1 | .full => 2 | .draining => 3

/-- TDESC (Table 2.8). -/
def Tile.desc (t : Tile) : Nat := tileStNum t.st * 2 ^ 30 + bitAt t.spec 28 + t.tshift * 2 ^ 25

/-- What a value read of a lane returns (R43). -/
def CoreState.laneRead (k : CoreState) (t : TileId) (i : Nat) : Nat :=
  match k.laneSt t i with
  | .normal => Win.getN k.win (tileVal t i) 4
  | .posInf => 0x7FFFFFFF
  | .negInf => 0x80000000
  | .inv => 0x80000000

/-- Bytes of the amax unit that read as U (R82): AHMAX while FILL is 0, AHPEND while AHCNT is 0, AHHIST at FILL and above. -/
def ahU (win : Memory) (a : Nat) : Bool :=
  if 0x04070000 ≤ a ∧ a < 0x04070800 then
    let b := a / 64 * 64
    (decide (a % 64 / 4 = 5) && decide (fld (BitVec.ofNat 32 (Win.getN win (b + 4) 4)) 30 25 = 0)) ||
    (decide (a % 64 / 4 = 2) && decide (Win.getN win (b + 0xC) 4 = 0))
  else if 0x04071000 ≤ a ∧ a < 0x04072000 then
    let t := (a - 0x04071000) / 0x80
    decide (fld (BitVec.ofNat 32 (Win.getN win (0x04070004 + 0x40 * t) 4)) 30 25 ≤ a % 0x80 / 4)
  else false

/-- A byte of a core's address space as an engine of that core reads it. -/
def State.byteAt (s : State) (c a : Nat) : Byte :=
  let k := s.core c
  if a < 0x03000000 then Memory.read k.sp a
  else if 0x04000000 ≤ a ∧ a < 0x04010000 then byteOf (k.laneRead .ta ((a - 0x04000000) / 4)) (a % 4)
  else if 0x04010000 ≤ a ∧ a < 0x04020000 then byteOf (k.laneRead .tb ((a - 0x04010000) / 4)) (a % 4)
  else if 0x04022000 ≤ a ∧ a < 0x04022004 then byteOf k.ta.desc (a % 4)
  else if 0x04022040 ≤ a ∧ a < 0x04022044 then byteOf k.tb.desc (a % 4)
  else if 0x04100000 ≤ a ∧ a < 0x04148000 then (s.mac c ((a - 0x04100000) / 0x1000)).byteAt (a % 0x1000)
  else if ahU k.win a then Config.uByte s.free a
  else Win.read k.win a

def State.bytesAt (s : State) (c a : Nat) : Nat → List Byte
  | 0 => []
  | n + 1 => s.byteAt c a :: s.bytesAt c (a + 1) n

/-- Bytes of a port's gather buffer over the bank's (R137): what the port itself reads back. -/
def CoreState.gathered (k : CoreState) (port a : Nat) (b : Byte) : Byte :=
  match (Sparse.get k.gather [] port).find? fun g => g.word = a / 64 with
  | some g => match Sparse.find? g.bytes a with
    | some x => x
    | none => b
  | none => b

/-- The first word of a range that holds a lane of wrong parity (R151, R152), by its address. -/
def CoreState.badWord (k : CoreState) (a n : Nat) : Option Nat :=
  if a < 0x03000000 ∧ 0 < n then
    (Sparse.inRange k.badLanes (a / 64 * 8) (((a + n - 1) / 64 + 1 - a / 64) * 8)).head?.map fun e => e.1 / 8 * 64
  else none

/-- The failing lanes of a word, as SPERR.LANES. -/
def CoreState.lanesOf (k : CoreState) (w : Nat) : Nat :=
  ((List.range 8).map fun j => bitAt (Sparse.get k.badLanes false (8 * w + j)) j).sum

/-- The crossbar port on which an engine writes (R133, Table 6.9); the VE and the FE read their first operand on ports 2 and 4. -/
def portOf : Eng → Nat
  | .le => 0 | .se => 1 | .ve => 3 | .fe => 5 | _ => 6

/-- SPERR records an error (R152, R157). -/
def CoreState.noteParity (k : CoreState) (port a : Nat) (latent : Bool) : CoreState :=
  let w := a / 64
  let v := 2 ^ 63 + bitAt latent 62 + k.lanesOf w * 2 ^ 48 + port * 2 ^ 44 + w * 64
  { k with win := Win.putN k.win 0x040B0010 8 v,
           bankErrs := if port = 9 then k.bankErrs else Sparse.set k.bankErrs 0 (w % 64) (Sparse.get k.bankErrs 0 (w % 64) + 1) }

/-- Bytes read on a port of core c at core o (its own or a neighbour's), or the address of the first word of wrong parity. -/
def State.fetch (s : State) (c port o a n : Nat) : Except Nat (List Byte) :=
  match (s.core o).badWord a n with
  | some x => .error x
  | none =>
    if o = c then .ok ((List.range n).map fun i => (s.core c).gathered port (a + i) (s.byteAt c (a + i)))
    else .ok (Memory.readN (s.core o).sp a n)

/-- Elements read in order; on a parity error, those read before it and its address. -/
def State.fetchAll (s : State) (c port o n : Nat) : List Nat → List (List Byte) × Option Nat
  | [] => ([], none)
  | a :: rest =>
    match s.fetch c port o a n with
    | .error x => ([], some x)
    | .ok bs => let r := s.fetchAll c port o n rest; (bs :: r.1, r.2)

/-- The record of a parity error met on a port of core c at core o: SPERR of the owner, with PORT NB for a neighbour. -/
def State.parityAt (s : State) (c port o a : Nat) : State :=
  s.updCore o fun k => k.noteParity (if o = c then port else 7) a false

/-! ### Writing the scratchpad (R138): byte enables, partial lanes of wrong parity -/

/-- Whether a run of n bytes from a, within one word, partly covers a lane of wrong parity. -/
def CoreState.partlyBad (k : CoreState) (a n : Nat) : Bool :=
  (List.range 8).any fun j =>
    let lo := a / 64 * 64 + 8 * j
    Sparse.get k.badLanes false (lo / 8) && decide (lo < a + n ∧ a < lo + 8) && !decide (a ≤ lo ∧ lo + 8 ≤ a + n)

/-- The lanes that a run wholly covers have valid parity again. -/
def CoreState.cleanLanes (k : CoreState) (a n : Nat) : CoreState :=
  { k with badLanes := k.badLanes.filter fun e => !decide (a ≤ 8 * e.1 ∧ 8 * e.1 + 8 ≤ a + n) }

/-- A run of bytes into the scratchpad, word by word: a word with a partly covered lane of wrong parity is not written and ends the run
with its address; lanes wholly covered get valid parity. -/
def CoreState.spWrite (k : CoreState) : Nat → Nat → List Byte → CoreState × Option Nat
  | 0, _, _ => (k, none)
  | fuel + 1, a, bs =>
    if bs.isEmpty then (k, none)
    else
      let n := min bs.length (64 - a % 64)
      if k.partlyBad a n then (k, some (a / 64 * 64))
      else
        let k1 := { k with sp := Memory.writeL k.sp a (bs.take n) }.cleanLanes a n
        CoreState.spWrite k1 fuel (a + n) (bs.drop n)

/-- An entry of a port's gather buffer written to its bank under byte enables; a lane partly covered and of wrong parity keeps the whole
word from being written, which is answered and recorded (R137, R138). -/
def CoreState.drainEntry (k : CoreState) (port : Nat) (x : GatherEntry) : CoreState × Bool :=
  let has := fun j : Nat => (Sparse.inRange x.bytes (64 * x.word + 8 * j) 8).length
  let bad := fun j : Nat => Sparse.get k.badLanes false (8 * x.word + j)
  if (List.range 8).any fun j => bad j && decide (has j ≠ 0) && decide (has j ≠ 8) then (k.noteParity port (64 * x.word) false, true)
  else
    let k1 := { k with sp := x.bytes.foldl (fun m p => Memory.write m p.1 p.2) k.sp }
    ((List.range 8).foldl (fun k j => if has j = 8 then { k with badLanes := Sparse.erase k.badLanes (8 * x.word + j) } else k) k1, false)

/-- A command whose buffered write met a parity error completes with SP_PARITY (R138). -/
def CoreState.parityEntry (k : CoreState) (id a : Nat) : CoreState :=
  { k with queue := k.queue.map fun q =>
      if q.id = id then
        (match q.st with
          | .finished f e => if f = 0 then { q with st := .finished fSpParity e, detail := BitVec.ofNat 64 a } else q
          | _ => { q with st := .finished fSpParity 0, detail := BitVec.ofNat 64 a })
      else q }

/-- A byte merged into a port's gather buffer by a command. The buffer holds at most four words; an older entry goes to its bank when a
fifth is needed (R137), and the address of a parity error that this command's own entry meets there is answered. -/
def CoreState.gatherByte (k : CoreState) (port id a : Nat) (b : Byte) : CoreState × Option Nat :=
  let g := Sparse.get k.gather [] port
  let w := a / 64
  match g.find? fun x => x.word = w with
  | some _ =>
    let g1 := g.map fun x => if x.word = w then { x with owner := id, bytes := Sparse.insert x.bytes a b } else x
    ({ k with gather := Sparse.set k.gather [] port g1 }, none)
  | none =>
    let new : GatherEntry := { word := w, owner := id, bytes := [(a, b)] }
    if g.length < 4 then ({ k with gather := Sparse.set k.gather [] port (g ++ [new]) }, none)
    else
      match g with
      | [] => (k, none)
      | x :: rest =>
        let r := k.drainEntry port x
        if r.2 then
          let k1 := { r.1 with gather := Sparse.set r.1.gather [] port rest }
          if x.owner = id then (k1, some (64 * x.word))
          else ({ k1 with gather := Sparse.set k1.gather [] port (rest ++ [new]) }.parityEntry x.owner (64 * x.word), none)
        else ({ r.1 with gather := Sparse.set r.1.gather [] port (rest ++ [new]) }, none)

/-- Bytes merged one by one; a parity error ends the run. -/
def CoreState.gatherBytes (k : CoreState) (port id : Nat) : List (Nat × Byte) → CoreState × Option Nat
  | [] => (k, none)
  | p :: rest =>
    let r := k.gatherByte port id p.1 p.2
    match r.2 with
    | some x => (r.1, some x)
    | none => CoreState.gatherBytes r.1 port id rest

/-- The oldest entry of a port's gather buffer written to its bank. -/
def CoreState.flushOne (k : CoreState) (port : Nat) : CoreState :=
  match Sparse.get k.gather [] port with
  | [] => k
  | x :: rest =>
    let r := { k with gather := Sparse.set k.gather [] port rest }.drainEntry port x
    if r.2 then r.1.parityEntry x.owner (64 * x.word) else r.1

/-- Every entry of a port written: at a command's completion and at a FENCE that covers the engine (R137). -/
def CoreState.flushPort (k : CoreState) (port : Nat) : CoreState :=
  ((((k.flushOne port).flushOne port).flushOne port).flushOne port)

end Sys2Proof.Machine
end

