-- ==== Sys2Proof/Machine/Amax.lean ====
section
/-! DEFINITION. The VE scale file and the amax history unit (R75 to R82). -/

namespace Sys2Proof.Machine

/-- Registers of 32 bits in the window space. -/
def CoreState.w32 (k : CoreState) (a : Nat) : W32 := BitVec.ofNat 32 (Win.getN k.win a 4)
def CoreState.putW32 (k : CoreState) (a : Nat) (v : W32) : CoreState := { k with win := Win.putN k.win a 4 v.toNat }

def vsfAddr (i : Nat) : Nat := 0x04072000 + 8 * i
def CoreState.vsfScale (k : CoreState) (i : Nat) : W32 := k.w32 (vsfAddr i)
def CoreState.vsfInv (k : CoreState) (i : Nat) : W32 := k.w32 (vsfAddr i + 4)

/-- A write of SCALE sets INV to its reciprocal; a value that is not positive, normal and finite is refused (R75). -/
def CoreState.writeVsf (k : CoreState) (i : Nat) (v : W32) : CoreState :=
  if fPosNormal v then (k.putW32 (vsfAddr i) v).putW32 (vsfAddr i + 4) (fDiv 0x3F800000 v) else k

def ahAddr (t : Nat) : Nat := 0x04070000 + 0x40 * t
def ahHist (t i : Nat) : Nat := 0x04071000 + 0x80 * t + 4 * i
def CoreState.ahCfg (k : CoreState) (t : Nat) : W32 := k.w32 (ahAddr t)
def CoreState.ahStat (k : CoreState) (t : Nat) : W32 := k.w32 (ahAddr t + 4)
def CoreState.ahPend (k : CoreState) (t : Nat) : W32 := k.w32 (ahAddr t + 8)
def CoreState.ahCnt (k : CoreState) (t : Nat) : Nat := (k.w32 (ahAddr t + 0xC)).toNat
def CoreState.ahClip (k : CoreState) (t : Nat) : Nat := (k.w32 (ahAddr t + 0x10)).toNat
def CoreState.ahQmax (k : CoreState) (t : Nat) : W32 := k.w32 (ahAddr t + 0x18)
def ahEn (cfg : W32) : Bool := bitOf cfg 31
def ahFill (stat : W32) : Nat := fld stat 30 25

/-- Saturating sum at 2^32 - 1. -/
def satAdd32 (a b : Nat) : W32 := BitVec.ofNat 32 (min (a + b) (2 ^ 32 - 1))

/-- An observation (R76): a magnitude, or none, with its counts; NaN and infinite elements have no magnitude. -/
def CoreState.observe (k : CoreState) (t : Nat) (mag : Option FV) (count clips : Nat) : CoreState :=
  if ahEn (k.ahCfg t) then
    let m : W32 := match mag with
      | some v => v.abs.toFP32
      | none => 0
    let old := if k.ahCnt t = 0 then 0 else k.ahPend t
    let k1 := k.putW32 (ahAddr t + 8) (if old.toNat < m.toNat then m else old)
    (k1.putW32 (ahAddr t + 0xC) (satAdd32 (k.ahCnt t) count)).putW32 (ahAddr t + 0x10) (satAdd32 (k.ahClip t) clips)
  else k

/-- The largest finite magnitude among values, and how many are infinite or NaN (R76). -/
def finMax (vs : List FV) : FV := vs.foldl (fun a v => if v.isFin then FV.maxMag a v else a) (.fin false 0 0)
def nonFin (vs : List FV) : Nat := (vs.filter fun v => !v.isFin).length

/-- QMAX by QFMT (Table 3.11). -/
def CoreState.qmaxOf (k : CoreState) (t : Nat) (cfg : W32) : W32 :=
  match fld cfg 23 21 with
  | 0 => 0x42FE0000
  | 1 => 0x437F0000
  | 2 => 0x40E00000
  | 3 => 0x43E00000
  | 4 => 0x47600000
  | _ => k.ahQmax t

/-- The least power of two that is an FP32 value and not below a positive quotient num/den of FP32 patterns; +Infinity beyond them. -/
def pow2Quot (num den : W32) : W32 :=
  match fp32 num, fp32 den with
  | .fin _ m e, .fin _ n d =>
    if n = 0 then 0x7F800000
    else
      let fits := fun x : Int => dyLe m e n (d + x)
      match (List.range 277).find? fun i : Nat => fits ((i : Int) - 149) with
      | some i => (FV.fin false 1 ((i : Int) - 149)).toFP32
      | none => 0x7F800000
  | _, _ => 0x7F800000

/-- The scale of a commit (R78): h/qmax rounded once, to nearest, or up to a power of two when P2 is 1. -/
def newScale (p2 : Bool) (h qmax : W32) : W32 := if p2 then pow2Quot h qmax else fDiv h qmax

/-- The larger of two non-negative FP32 patterns. -/
def posMax (a b : W32) : W32 := if a.toNat < b.toNat then b else a

/-- Pending values cleared: the count is 0, so AHPEND is U (R82). -/
def CoreState.ahClear (k : CoreState) (t : Nat) : CoreState :=
  ((k.putW32 (ahAddr t + 8) 0).putW32 (ahAddr t + 0xC) 0).putW32 (ahAddr t + 0x10) 0

/-- One track's commit with the bound read in the first phase (R78). -/
def CoreState.commitTrack (k : CoreState) (t : Nat) (bound : W32) : CoreState :=
  let cfg := k.ahCfg t
  let exceeds := decide (fld cfg 14 7 * k.ahCnt t < k.ahClip t * 4096)
  let entry := if exceeds then posMax (k.ahPend t) (fAdd bound bound) else k.ahPend t
  let n := fld cfg 28 24 + 1
  let fill := ahFill (k.ahStat t)
  let hist := (entry :: (List.range (min fill (n - 1))).map fun i => k.w32 (ahHist t i))
  let k1 := (List.range hist.length).foldl (fun k i => k.putW32 (ahHist t i) (hist.getD i 0)) k
  let h := hist.foldl posMax 0
  let k2 := k1.putW32 (ahAddr t + 0x14) h
  let k3 := k2.putW32 (ahAddr t + 4) (BitVec.ofNat 32 (bitAt exceeds 31 + hist.length * 2 ^ 25))
  let k4 := if bitOf cfg 30 = false ∧ h ≠ 0 then
      k3.writeVsf (fld cfg 20 15) (newScale (bitOf cfg 29) h (k.qmaxOf t cfg))
    else k3
  k4.ahClear t

/-- Empty history (R80, R82). -/
def CoreState.ahEmpty (k : CoreState) (t : Nat) : CoreState :=
  k.putW32 (ahAddr t + 4) (BitVec.ofNat 32 (bitAt (bitOf (k.ahStat t) 31) 31))

/-- A configuration taking effect: EN from 0 to 1 empties the history (R80). -/
def CoreState.setAhcfg (k : CoreState) (t : Nat) (v : W32) : CoreState :=
  let old := k.ahCfg t
  let k1 := k.putW32 (ahAddr t) v
  if ahEn v ∧ ahEn old = false then k1.ahEmpty t else k1

/-- Reserved bits dropped and a reserved QFMT keeping the field's value (R9, Table 3.11). -/
def CoreState.maskAhcfg (k : CoreState) (t : Nat) (v : W32) : W32 :=
  let q := if 6 ≤ fld v 23 21 then fld (k.ahCfg t) 23 21 else fld v 23 21
  BitVec.ofNat 32 (fld v 31 24 * 2 ^ 24 + q * 2 ^ 21 + fld v 20 7 * 2 ^ 7)

/-- A write of AHCFGt: at once when nothing is pending, else at the next commit (R82). Until then AHCFGt reads the old configuration, a
partial or second write merges with it, and the later of two held writes replaces the earlier (assumption log 147). -/
def CoreState.writeAhcfg (k : CoreState) (t : Nat) (v : W32) : CoreState :=
  let w := k.maskAhcfg t v
  if k.ahCnt t = 0 then k.setAhcfg t w else { k with ahHeld := Sparse.insert k.ahHeld t w }

/-- Held configurations take effect at the commit; one with EN 0 discards the pending values. -/
def CoreState.applyHeld (k : CoreState) : CoreState :=
  let k1 := k.ahHeld.foldl (fun k p => let k1 := k.setAhcfg p.1 p.2
                                       if ahEn p.2 then k1 else k1.ahClear p.1) k
  { k1 with ahHeld := [] }

/-- The commit at a STEP mark, in its two phases (R78). -/
def CoreState.commitAmax (k : CoreState) : CoreState :=
  let k0 := k.applyHeld
  let ts := (List.range 32).filter fun t => ahEn (k0.ahCfg t) && decide (k0.ahCnt t ≠ 0)
  let bounds := ts.map fun t => (t, fMul (k0.vsfScale (fld (k0.ahCfg t) 20 15)) (k0.qmaxOf t (k0.ahCfg t)))
  bounds.foldl (fun k p => k.commitTrack p.1 p.2) k0

/-- A replay discards the pending values (R79). -/
def CoreState.discardAmax (k : CoreState) : CoreState := (List.range 32).foldl CoreState.ahClear k

/-- The loader clears every track (R80). -/
def CoreState.clearTracks (k : CoreState) : CoreState :=
  let k1 := (List.range 32).foldl (fun k t =>
    ((k.putW32 (ahAddr t) (k.ahCfg t &&& 0x7FFFFFFF)).putW32 (ahAddr t + 4) 0).ahClear t) k
  { k1 with ahHeld := [] }

/-- AHSRC (Table 3.13). -/
def ahsrcAddr : Nat := 0x04070800

end Sys2Proof.Machine
end

