-- ==== Sys2Proof/Machine/Window.lean ====
section
/-! DEFINITION. Writes of registers and windows: the merge of R131 and the effect of each register (R42, R43, R52, R69, R74, R75,
R82, R88 to R90, R122, R142, R146, R154, Tables 2.8, 2.12, 6.4 to 6.10). -/

namespace Sys2Proof.Machine

/-- First address and width in bytes of the register or entry that holds an address. -/
def regSpan (a : Nat) : Nat × Nat :=
  let al := fun w : Nat => (a / w * w, w)
  if a < 0x04020000 then al 4
  else if a < 0x04022000 then (a, 1)
  else if a < 0x04070000 then al 4
  else if a < 0x04072000 then al 4
  else if a < 0x04072200 then al 8
  else if 0x04074000 ≤ a ∧ a < 0x04075100 then al 2
  else if 0x04080000 ≤ a ∧ a < 0x04082000 then
    if a % 0x400 < 0x200 then al 8 else al 4
  else if 0x04082000 ≤ a ∧ a < 0x04082080 then al 8
  else if 0x04090000 ≤ a ∧ a < 0x04091000 then (a, 1)
  else if 0x040A0000 ≤ a ∧ a < 0x040A1000 then al 16
  else if 0x040B0010 ≤ a ∧ a < 0x040B0018 then al 8
  else if 0x040B0100 ≤ a ∧ a < 0x040B0150 then al 16
  else if 0x040C0000 ≤ a ∧ a < 0x040C0040 then (a, 1)
  else if 0x04100000 ≤ a ∧ a < 0x04148000 then
    let w := macRegWidth (a % 0x1000)
    al w
  else al 4

/-- Whether a pattern-table byte is a field (Table 5.14), and the mask of its defined bits. -/
def aptMask (off : Nat) : Nat :=
  if off = 0 then 7
  else if off = 1 then 0xFF
  else if off < 4 ∨ 0x34 ≤ off then 0
  else if (off - 4) % 8 = 2 ∨ (off - 4) % 8 = 3 then 0 else 0xFF

/-- A write of TDESC (Table 2.8): only in EMPTY or FULL; reserved TSHIFT values keep the field. -/
def Tile.write (t : Tile) (v : Nat) (cov3 : Bool) : Tile :=
  if cov3 ∧ (t.st = .empty ∨ t.st = .full) then
    { st := if bit v 29 ∧ t.st = .empty then .full else t.st,
      spec := bit v 28,
      tshift := if bits v 27 25 ≤ 5 then bits v 27 25 else t.tshift }
  else t

/-- RMCFGc (Table 2.12). -/
def rmAddr (c : Nat) : Nat := 0x040C0400 + 4 * c
def rmRec (c ch : Nat) : Nat := 0x04200000 + 0x8000 * (c - 1) + 32 * ch

/-- A write of RMCFGc: LEARNING is read only, DRIFT clears by 1, EN from 0 to 1 clears the records and starts learning (R52). -/
def CoreState.writeRmcfg (k : CoreState) (c : Nat) (v : W32) (cov3 : Bool) : CoreState :=
  if c = 0 then k
  else
    let old := k.w32 (rmAddr c)
    let learn := bitOf old 30
    let drift := bitOf old 29 && !(cov3 && bitOf v 29)
    let start := bitOf v 31 && !bitOf old 31
    let k1 := k.putW32 (rmAddr c)
      (BitVec.ofNat 32 (bitAt (bitOf v 31) 31 + bitAt (start || learn) 30 + bitAt drift 29 + fld v 28 2 * 4))
    if start then { k1 with win := Sparse.clearRange k1.win (rmRec c 0) 0x8000, rmDone := Sparse.erase k1.rmDone c } else k1

/-- Drop handles from the five caches and the exit store's tag (R146); none drops all. -/
def CoreState.dropHandles (k : CoreState) (h : Option Nat) : CoreState :=
  match h with
  | none => { k with hcVe := [], hcAe := [], hcFe := [], hcLe := [], hcSe := [], exits := none }
  | some i =>
    { k with hcVe := k.hcVe.filter (fun e => e.1 ≠ i), hcAe := k.hcAe.filter (fun e => e.1 ≠ i),
             hcFe := k.hcFe.filter (fun e => e.1 ≠ i), hcLe := k.hcLe.filter (fun e => e.1 ≠ i),
             hcSe := k.hcSe.filter (fun e => e.1 ≠ i),
             exits := match k.exits with
               | some x => if x.handle = i then none else some x
               | none => none }

/-- A write of HINV (R146, Table 6.6): BUSY rises and the handles are dropped. -/
def CoreState.writeHinv (k : CoreState) (v : W32) : CoreState :=
  (k.dropHandles (if bitOf v 30 then none else some (fld v 7 0))).putW32 0x040B0008 0x80000000

/-- HINV.BUSY falls (R146). -/
def CoreState.hinvDone (k : CoreState) : CoreState := k.putW32 0x040B0008 0

/-- Accept windows that overlap region r are disabled (R142). -/
def CoreState.closeWindows (k : CoreState) (r : Nat) : CoreState :=
  [1, 2, 3, 4].foldl (fun k d =>
    let a := 0x040B0100 + 16 * d
    let w := BitVec.ofNat 128 (Win.getN k.win a 16)
    if nbBase w < (r + 1) * 0x100000 ∧ r * 0x100000 < nbBase w + nbSize w then
      { k with win := Win.putN k.win a 16 (w.toNat % 2 ^ 127) }
    else k) k

/-- A hub write of SPOWNr (R141, R142): only while the core is IDLE or HELD with no command in flight. Passing to another
partition than the recorded one starts a scrub; a region nobody owned since reset is given without one, unless it was
march-tested. A scrub under way goes on. -/
def CoreState.writeSpown (k : CoreState) (r : Nat) (v : W32) : CoreState :=
  if (k.st = .idle ∨ k.st = .held) ∧ k.queue = [] then
    let en := bitOf v 31
    let p := fld v 3 0
    let a := 0x040B0200 + 4 * r
    if en then
      let last := Sparse.find? k.lastOwner r
      let marched := Sparse.get k.marched false r
      let scrub := marched || (decide (last ≠ none) && decide (last ≠ some p))
      let k1 := k.putW32 a (BitVec.ofNat 32 (2 ^ 31 + bitAt (scrub || Sparse.get k.scrubs false r) 30 + p))
      let k2 := { k1 with lastOwner := Sparse.insert k1.lastOwner r p }
      if scrub then ({ k2 with scrubs := Sparse.insert k2.scrubs r true }.closeWindows r).dropHandles none else k2
    else k.putW32 a (BitVec.ofNat 32 (bitAt (bitOf (k.spown r) 30) 30 + p))
  else k

/-- A region scrub ends: every word zero with valid parity, SCRUB_BUSY clear (R142). -/
def CoreState.scrubDone (k : CoreState) (r : Nat) : CoreState :=
  if Sparse.get k.scrubs false r then
    let k1 := { k with sp := Sparse.clearRange k.sp (r * 0x100000) 0x100000,
                       badLanes := Sparse.clearRange k.badLanes (r * 0x20000) 0x20000,
                       scrubs := Sparse.erase k.scrubs r, marched := Sparse.erase k.marched r }
    k1.putW32 (0x040B0200 + 4 * r) (k1.spown r &&& 0xBFFFFFFF)
  else k

/-! ### Spare banks (R132, R158, Table 6.8) -/

/-- SPSPAREk (Table 6.8). -/
def CoreState.spspare (k : CoreState) (i : Nat) : W32 := k.w32 (0x040B0300 + 4 * i)

/-- The bank that serves the addresses of bank b: the spare (64 to 67) that replaces it, else itself. -/
def CoreState.servedBy (k : CoreState) (b : Nat) : Nat :=
  match (List.range 4).find? fun i => bitOf (k.spspare i) 31 && decide (fld (k.spspare i) 5 0 = b) with
  | some i => 64 + i
  | none => b

/-- The contents that the addresses of bank b reach: words 64·i + b. -/
def CoreState.bankCells (k : CoreState) (b : Nat) : BankCells :=
  { bytes := (k.sp.filter fun e => decide (e.1 / 64 % 64 = b)).map fun e => (e.1 / 4096 * 64 + e.1 % 64, e.2),
    lanes := (k.badLanes.filter fun e => decide (e.1 / 8 % 64 = b)).map fun e => (e.1 / 512 * 8 + e.1 % 8, e.2) }

def BankCells.empty : BankCells := { bytes := [], lanes := [] }

/-- Contents placed at the addresses of bank b. -/
def CoreState.putBank (k : CoreState) (b : Nat) (x : BankCells) : CoreState :=
  let sp0 := k.sp.filter fun e => decide (e.1 / 64 % 64 ≠ b)
  let bl0 := k.badLanes.filter fun e => decide (e.1 / 8 % 64 ≠ b)
  { k with sp := x.bytes.foldl (fun m e => Memory.write m (4096 * (e.1 / 64) + 64 * b + e.1 % 64) e.2) sp0,
           badLanes := x.lanes.foldl (fun m e => Sparse.insert m (512 * (e.1 / 8) + 8 * b + e.1 % 8) e.2) bl0 }

/-- The contents of a bank that no address reaches. -/
def CoreState.hiddenOf (k : CoreState) (b : Nat) : BankCells := Sparse.get k.hidden BankCells.empty b

/-- A bank's addresses served by bank y in place of bank x: what x held goes out of reach, what y holds comes in. -/
def CoreState.exchange (k : CoreState) (b x y : Nat) : CoreState :=
  if x = y then k
  else
    let k1 := { k with hidden := Sparse.set k.hidden BankCells.empty x (k.bankCells b) }
    { k1.putBank b (k1.hiddenOf y) with hidden := Sparse.set k1.hidden BankCells.empty y BankCells.empty }

/-- A write of SPSPAREi: the banks it named and names are served as the registers now say (R132). -/
def CoreState.writeSpare (k : CoreState) (i : Nat) (v : W32) : CoreState :=
  let old := fld (k.spspare i) 5 0
  let new := fld v 5 0
  let k1 := k.putW32 (0x040B0300 + 4 * i) (v &&& 0x8000003F)
  let k2 := k1.exchange old (k.servedBy old) (k1.servedBy old)
  if new = old then k2 else k2.exchange new (k.servedBy new) (k1.servedBy new)

/-- The effect of one register write, merged, on the core (all but the macro blocks). `cov` says which bytes it covers. -/
def CoreState.regEffect (k : CoreState) (hub : Bool) (a v : Nat) (cov : Nat → Bool) : CoreState :=
  let raw := fun n : Nat => { k with win := Win.putN k.win a n v }
  if a < 0x04010000 then
    { raw 4 with win := (raw 4).win }.putLaneSt .ta ((a - 0x04000000) / 4) .normal
  else if a < 0x04020000 then (raw 4).putLaneSt .tb ((a - 0x04010000) / 4) .normal
  else if a < 0x04022000 then raw 1
  else if a = 0x04022000 then { k with ta := k.ta.write v (cov 3) }
  else if a = 0x04022040 then { k with tb := k.tb.write v (cov 3) }
  else if a < 0x04060000 then k
  else if a < 0x04070000 then k.putW32 a (BitVec.ofNat 32 (v % 2 ^ 30))
  else if a < 0x04070800 then
    if a % 64 = 0 then k.writeAhcfg ((a - 0x04070000) / 64) (BitVec.ofNat 32 v)
    else if a % 64 = 0x18 then (if fPosNormal (BitVec.ofNat 32 v) then raw 4 else k)
    else k
  else if a = 0x04070800 then k.putW32 a (BitVec.ofNat 32 v &&& 0x00009F9F)
  else if a < 0x04072000 then k
  else if a < 0x04072200 then
    if cov 0 || cov 1 || cov 2 || cov 3 then k.writeVsf ((a - 0x04072000) / 8) (BitVec.ofNat 32 (v % 2 ^ 32)) else k
  else if a < 0x04074000 then k
  else if a < 0x04075100 then (if v = 0x8000 then k else raw 2)
  else if a < 0x04080000 then k
  else if a < 0x04082000 then
    if a % 0x400 < 0x200 then raw 8
    else if a % 0x400 = 0x200 then (if fFinite (BitVec.ofNat 32 v) then raw 4 else k)
    else if a % 0x400 = 0x204 then k.putW32 a (BitVec.ofNat 32 (v % 256))
    else k
  else if a < 0x04082080 then raw 8
  else if a < 0x04090000 then k
  else if a < 0x04091000 then
    { k with win := Win.write k.win a (BitVec.ofNat 8 v &&& BitVec.ofNat 8 (aptMask (a % 64))) }
  else if 0x040C0400 ≤ a ∧ a < 0x040C0440 then k.writeRmcfg ((a - 0x040C0400) / 4) (BitVec.ofNat 32 v) (cov 3)
  else if hub = false then k
  else if 0x040A0000 ≤ a ∧ a < 0x040A1000 then
    let h := BitVec.ofNat 128 v
    let core := if htCore h < 80 then htCore h else htCore (k.ht ((a - 0x040A0000) / 16))
    { k with win := Win.putN k.win a 16 (htPack (htValid h) (htGen h) (htRd h) (htWr h) core (htSize h) (htBase h)).toNat }
  else if a = 0x040B0000 then k.putW32 a (BitVec.ofNat 32 v &&& 0x80FF0000)
  else if a = 0x040B0008 then k.writeHinv (BitVec.ofNat 32 v)
  else if a = 0x040B0010 then
    let old := Win.getN k.win a 8
    { k with win := Win.putN k.win a 8 (old - bitAt (bit old 63 && bit v 63) 63 - bitAt (bit old 62 && bit v 62) 62) }
  else if 0x040B0110 ≤ a ∧ a < 0x040B0150 then
    { k with win := Win.putN k.win a 16 (v - bits v 119 96 * 2 ^ 96) }
  else if 0x040B0200 ≤ a ∧ a < 0x040B02C0 then k.writeSpown ((a - 0x040B0200) / 4) (BitVec.ofNat 32 v)
  else if 0x040B0300 ≤ a ∧ a < 0x040B0310 then k.writeSpare ((a - 0x040B0300) / 4) (BitVec.ofNat 32 v)
  else if 0x040B0400 ≤ a ∧ a < 0x040B0480 then k.putW32 a (BitVec.ofNat 32 (v % 2 ^ 24))
  else if 0x040C0000 ≤ a ∧ a < 0x040C0040 then
    let phys := if v % 128 < 72 then v % 128 else (Win.read k.win a).toNat % 128
    { k with win := Win.write k.win a (BitVec.ofNat 8 (bitAt (bit v 7) 7 + phys)) }
  else k

/-- One byte of the merged value: written where covered; kept elsewhere, with W1C and WO bits taken as 0 (R131). -/
def State.mergeByte (s : State) (c base j a : Nat) (bs : List Byte) : Nat :=
  let x := base + j
  if a ≤ x ∧ x < a + bs.length then (bs.getD (x - a) 0).toNat
  else if base = 0x040B0010 ∧ j = 7 then 0
  else if base = 0x040B0008 then 0
  else (s.byteAt c x).toNat

/-- A core that is IDLE or HELD with no command in flight. -/
def CoreState.quiet (k : CoreState) : Bool := (decide (k.st = .idle) || decide (k.st = .held)) && k.queue.isEmpty

/-- Whether an accept window of core c, by its address, may be written: both cores quiet (R148). -/
def State.nbwinOpen (s : State) (c a : Nat) : Bool :=
  (s.core c).quiet &&
    match (dirOf ((a - 0x040B0100) / 16)).bind fun d => neighbour c d with
    | some o => (s.core o).quiet
    | none => true

/-- A write of bytes into the window space of a core, register by register. `by_` is the writer of a macro block. -/
def State.winWriteGo (s : State) (c : Nat) (hub : Bool) (by_ : Writer) : Nat → Nat → List Byte → State
  | 0, _, _ => s
  | fuel + 1, a, bs =>
    if bs.isEmpty then s
    else
      let sp := regSpan a
      let n := min bs.length (sp.1 + sp.2 - a)
      let here := bs.take n
      let v := ((List.range sp.2).map fun j => s.mergeByte c sp.1 j a here * 256 ^ j).sum
      let cov := fun j => decide (a ≤ sp.1 + j) && decide (sp.1 + j < a + n)
      let s1 :=
        if 0x04100000 ≤ sp.1 ∧ sp.1 < 0x04148000 then
          (s.updMac c ((sp.1 - 0x04100000) / 0x1000) fun m =>
            m.writeReg by_ s.free (sp.1 % 0x1000) (if sp.1 % 0x1000 = 0x10 ∧ ¬cov 0 then 0 else v) cov).bump
        else if 0x040B0110 ≤ sp.1 ∧ sp.1 < 0x040B0150 ∧ s.nbwinOpen c sp.1 = false then s
        else s.updCore c fun k => k.regEffect hub sp.1 v cov
      State.winWriteGo s1 c hub by_ fuel (a + n) (bs.drop n)

def State.winWrite (s : State) (c : Nat) (hub : Bool) (by_ : Writer) (a : Nat) (bs : List Byte) : State :=
  s.winWriteGo c hub by_ bs.length a bs

/-- Whether a VE command reads a table among the bytes from a: BN tables by its formats, its ACOEF set, its activation table (R176). -/
def veReadsTable (q : QEntry) (a n : Nat) : Bool :=
  let w := q.slot
  let hit := fun lo len : Nat => decide (a < lo + len) && decide (lo < a + n)
  let bn := fun f t : Nat => (decide (f = 6) && hit (0x04074000 + 0x200 * t) 0x200) || (decide (f = 7) && hit (0x04075000 + 0x20 * t) 0x20)
  let fa := fld w 113 110
  let fb := fld w 109 106
  let fd := fld w 105 102
  if fld w 127 120 = 0x18 then false
  else
    bn fa (fld q.par0 31 29) || bn fb (fld q.par0 28 26) || bn fd (fld q.par0 25 23) ||
      ((isCW fa || isCW fb || isCW fd) && hit (0x04082000 + 8 * fld q.par0 15 12) 8) ||
      (decide (fld w 127 120 = 0x0C) && hit (0x04080000 + 0x400 * fld q.par0 11 9) 0x400)

/-- Whether the bytes from a meet [lo, hi). -/
def touches (a n lo hi : Nat) : Bool := decide (a < hi) && decide (lo < a + n)

/-- Whether an access to n bytes from a meets the value or state window of a tile that is FILLING or DRAINING (Table 2.6). -/
def CoreState.tileWaits (k : CoreState) (a n : Nat) : Bool :=
  let busy := fun t : Tile => decide (t.st = .filling) || decide (t.st = .draining)
  (busy k.ta && (touches a n 0x04000000 0x04010000 || touches a n 0x04020000 0x04021000)) ||
    (busy k.tb && (touches a n 0x04010000 0x04020000 || touches a n 0x04021000 0x04022000))

/-- A write of n bytes from a that must wait: the tile windows for FULL or EMPTY (Table 2.6), the rescale, activation, ACOEF and BN tables
while a tile is DRAINING (R74, R90), and the tables that a VE command started and not complete reads (R176). -/
def CoreState.writeWaits (k : CoreState) (a n : Nat) : Bool :=
  let draining := decide (k.ta.st = .draining) || decide (k.tb.st = .draining)
  let tables := touches a n 0x04074000 0x04075100 || touches a n 0x04080000 0x04082080
  k.tileWaits a n || (draining && (touches a n 0x04060000 0x04070000 || tables)) ||
    (tables && k.queue.any fun q => decide (q.eng = .ve) && decide (q.st ≠ .waiting) && veReadsTable q a n)

/-- A read that must wait: a tile window while its tile is FILLING or DRAINING (Table 2.6). -/
def CoreState.readWaits (k : CoreState) (a n : Nat) : Bool := k.tileWaits a n

end Sys2Proof.Machine
end

