-- ==== Sys2Proof/Machine/Queue.lean ====
section
/-! DEFINITION. Engine queues: entering, starting, finishing and completing a command; handle copies; SIG; the sync unit's
queued commands (R108 to R118, R127, R145). -/

namespace Sys2Proof.Machine

/-! ### Entering a queue -/

/-- Opcode of a V, M, L or T slot. -/
def slotOpc (slot : W128) : Nat := fld slot 127 120

/-- The engine class of a matrix opcode (R113); none for opcodes of no engine. -/
def matrixEng (opc : Nat) : Option Eng :=
  if opc = 0x40 ∨ opc = 0x41 then some .aePass
  else if 0x42 ≤ opc ∧ opc ≤ 0x44 then some .aeDrain
  else if opc = 0x45 ∨ opc = 0x46 then some .aeRow
  else if 0x60 ≤ opc ∧ opc ≤ 0x6F then some .fe
  else none

/-- A handle-form address field's handle. -/
def namedIn (f : W32) : List Nat := if fieldForm f = 1 ∨ fieldForm f = 2 then [fieldHandle f] else []

def slotHi (slot : W128) : W32 := BitVec.ofNat 32 (fld slot 95 64)
def slotMid (slot : W128) : W32 := BitVec.ofNat 32 (fld slot 63 32)
def slotLo (slot : W128) : W32 := BitVec.ofNat 32 (fld slot 31 0)

/-- Handles a command names (R145): only those its other fields make it use. -/
def namedHandles (e : Eng) (slot : W128) (par0 : W64) : List Nat :=
  let f := fun hi lo => fld slot hi lo
  match e with
  | .ve =>
    if slotOpc slot = 0x18 then namedIn (slotHi slot) ++ namedIn (slotLo slot)
    else
      (if f 113 110 = 12 then [] else namedIn (slotHi slot)) ++ (if f 109 106 = 12 then [] else namedIn (slotMid slot)) ++
      (if f 105 102 = 12 then [] else namedIn (slotLo slot)) ++
      (if isBN (f 105 102) then [fld par0 63 56] else []) ++ (if isBN (f 113 110) then [fld par0 55 48] else []) ++
      (if isBN (f 109 106) then [fld par0 47 40] else [])
  | .aePass =>
    if slotOpc slot = 0x40 then
      (if f 97 96 = 0 then [] else [f 79 72]) ++ (if f 89 89 = 0 then [] else [f 71 64]) ++ namedIn (slotMid slot) ++
      (if f 106 105 = 1 then namedIn (slotLo slot) else [])
    else [f 79 72, f 71 64] ++ namedIn (slotMid slot)
  | .aeDrain =>
    if slotOpc slot = 0x43 then
      (if f 87 87 = 0 then [] else [f 63 56]) ++ (if isBN (f 102 99) then [f 55 48] else []) ++
      (if f 76 75 = 0 then [] else [f 47 40]) ++ (if f 102 99 = 12 then [] else namedIn (slotLo slot))
    else if slotOpc slot = 0x44 then [f 47 40] else []
  | .aeRow => namedIn (slotLo slot)
  | .fe => namedIn (slotHi slot) ++ namedIn (slotMid slot) ++ namedIn (slotLo slot)
  | .le =>
    (if slotOpc slot = 0x10 ∧ f 119 118 = 0 then namedIn (slotHi slot) else []) ++ namedIn (slotMid slot)
  | .se =>
    if slotOpc slot = 0x20 then
      namedIn (slotHi slot) ++ (if f 119 118 = 0 then namedIn (slotMid slot) else [])
    else if slotOpc slot = 0x21 then namedIn (slotMid slot) else []
  | .su => []

def CoreState.cache (k : CoreState) (e : Eng) : List (Nat × W128) :=
  match e with
  | .ve => k.hcVe
  | .fe => k.hcFe
  | .le => k.hcLe
  | .se => k.hcSe
  | _ => k.hcAe

def CoreState.setCache (k : CoreState) (e : Eng) (l : List (Nat × W128)) : CoreState :=
  match e with
  | .ve => { k with hcVe := l }
  | .fe => { k with hcFe := l }
  | .le => { k with hcLe := l }
  | .se => { k with hcSe := l }
  | _ => { k with hcAe := l }

/-- A copy of entry h from the engine's cache of 16, least recently used first, or from the table on a miss (R145). -/
def CoreState.copyHandle (k : CoreState) (e : Eng) (h : Nat) : CoreState × W128 :=
  let l := k.cache e
  match l.find? fun x => x.1 = h with
  | some x => (k.setCache e (l.filter (fun y => y.1 ≠ h) ++ [x]), x.2)
  | none =>
    let v := k.ht h
    (k.setCache e ((if 16 ≤ l.length then l.drop 1 else l) ++ [(h, v)]), v)

/-- The scalar register that an address field of form 2 names. -/
def CoreState.fieldReg (k : CoreState) (f : W32) : W64 := if fieldForm f = 2 then k.getX (fld f 21 17) else 0

/-- Parameter pair registers of a VE or FE command. -/
def paramReg (e : Eng) (slot : W128) : Nat :=
  match e with
  | .ve => fld slot 101 97
  | .fe => fld slot 110 106
  | _ => 0

/-- Entries in the queue of an engine; the three AE classes share one (R114). -/
def sameQueue (a b : Eng) : Bool :=
  let ae := fun e : Eng => decide (e = .aePass) || decide (e = .aeDrain) || decide (e = .aeRow)
  (ae a && ae b) || decide (a = b)

def CoreState.inQueue (k : CoreState) (e : Eng) : Nat := (k.queue.filter fun q => sameQueue q.eng e).length
def CoreState.room (k : CoreState) (e : Eng) (n : Nat) : Bool := decide (k.inQueue e + n ≤ 32)

/-- A command enters its engine's queue: registers and handle entries are copied (R111, R145). -/
def CoreState.enqueue (k : CoreState) (e : Eng) (tag : BitVec 16) (addr : W32) (slot : W128) (inStep : Bool) : CoreState :=
  let p := paramReg e slot
  let par0 := if p = 0 then 0 else k.getX p
  let par1 := if p = 0 then 0 else k.getX (p + 1)
  let r := (namedHandles e slot par0).foldl (fun (a : CoreState × Sparse W128) h =>
    let c := a.1.copyHandle e h
    (c.1, Sparse.insert a.2 h c.2)) (k, [])
  let k1 := r.1
  let q : QEntry := { id := k1.nextId, eng := e, tag := tag, addr := addr, slot := slot,
                      xr2 := k.fieldReg (slotHi slot), xr1 := k.fieldReg (slotMid slot), xr0 := k.fieldReg (slotLo slot),
                      par0 := par0, par1 := par1, handles := r.2, inStep := inStep, st := .waiting, detail := 0 }
  { k1 with queue := k1.queue ++ [q], nextId := k1.nextId + 1 }

/-! ### Starting and finishing -/

/-- Whether the next waiting command of a class may start beside those started (Table 5.9): four LE or SE commands hold the engine until
they complete; a pass command is staged beside the one that runs; a row command is alone at the macro, with up to sixteen that await the
shadow; the others are alone. -/
def startRoom (e : Eng) (qs : List QEntry) : Bool :=
  let busy := (qs.filter fun q => decide (q.st = .executing)).length
  let started := (qs.filter fun q => decide (q.st ≠ .waiting)).length
  match e with
  | .le => decide (started < 4)
  | .se => decide (started < 4)
  | .aePass => decide (busy < 2)
  | .aeRow => decide (busy = 0 ∧ started ≤ 16)
  | _ => decide (started = 0)

/-- The oldest waiting command of a class, when it may start (Table 5.9). -/
def CoreState.nextStart (k : CoreState) (e : Eng) : Option QEntry :=
  let qs := k.queue.filter fun q => q.eng = e
  if startRoom e qs then qs.find? fun q => q.st = .waiting else none

/-- Atomic adds apply in issue order among themselves (Table 5.9). -/
def isAtomic (q : QEntry) : Bool := decide (slotOpc q.slot = 0x21) || decide (slotOpc q.slot = 0x22)

/-- The waiting commands of a class whose effects may come next: the four oldest LE or SE commands execute at once, and nothing orders
their effects but that atomic adds apply in issue order (Table 5.9, R160); elsewhere the one that starts next. -/
def CoreState.startable (k : CoreState) (e : Eng) : List QEntry :=
  if e = .le ∨ e = .se then
    let w := ((k.queue.filter fun q => decide (q.eng = e)).take 4).filter fun q => decide (q.st = .waiting)
    w.filter fun q => !isAtomic q || decide ((w.find? isAtomic).map (·.id) = some q.id)
  else (k.nextStart e).toList

def CoreState.updEntry (k : CoreState) (id : Nat) (f : QEntry → QEntry) : CoreState :=
  { k with queue := k.queue.map fun q => if q.id = id then f q else q }

/-- A command has run: its fault (0 for none), status and fault detail, reported when it completes. -/
def CoreState.finish (k : CoreState) (id : Nat) (fault : Byte) (estat : BitVec 16) (detail : W64) : CoreState :=
  k.updEntry id fun q => { q with st := .finished fault estat, detail := detail }

/-- What running a command yields. -/
structure RunResult where
  s      : State
  fault  : Byte
  estat  : BitVec 16
  detail : W64

def RunResult.fail (s : State) (f : Byte) : RunResult := { s := s, fault := f, estat := 0, detail := 0 }
def RunResult.ok (s : State) (e : BitVec 16) : RunResult := { s := s, fault := 0, estat := e, detail := 0 }

/-- A command that ended on a parity error met on a port of core c at core o. -/
def RunResult.parity (s : State) (c port o a : Nat) : RunResult :=
  { s := s.parityAt c port o a, fault := fSpParity, estat := 0, detail := BitVec.ofNat 64 a }

/-- A command that has run: its entry is finished with the fault, status and detail of the run (R110, R114). -/
def RunResult.ended (r : RunResult) (c : Nat) (q : QEntry) : State :=
  r.s.updCore c fun k => k.finish q.id r.fault r.estat r.detail

/-- Slot numbers of trace records, as SIGSRC numbers them. -/
def slotNum : Eng → Nat
  | .ve => 1 | .le => 3 | .se => 4 | .su => 5 | _ => 2

/-- The commands of an engine with an opcode that may come next and need not wait. -/
def CoreState.ready (k : CoreState) (e : Eng) (opc : Nat) (holds : QEntry → Bool) : List QEntry :=
  (k.startable e).filter fun q => decide (slotOpc q.slot = opc) && !holds q

/-- One of the commands that may come next, by a free choice where there are several, and the state after the draw. -/
def State.pickReady (s : State) (c : Nat) (e : Eng) (opc : Nat) (holds : QEntry → Bool) : Option (QEntry × State) :=
  match (s.core c).ready e opc holds with
  | [] => none
  | [q] => some (q, s)
  | x :: y :: rest => some ((x :: y :: rest).getD (Config.freeNat s.free % (rest.length + 2)) x, s.bump)

/-- A command that starts and runs: its trace, its run, and the entry finished with what the run yields. -/
def State.runEntry (s : State) (c : Nat) (e : Eng) (q : QEntry) (run : State → QEntry → RunResult) : State :=
  (run (s.traceEv c 1 q.tag (slotNum e) 1 0) q).ended c q

/-- Start a command of an engine with the opcode asked for, and run it. `holds` says which must wait. -/
def State.runNext (s : State) (c : Nat) (e : Eng) (opc : Nat) (holds : QEntry → Bool) (run : State → QEntry → RunResult) :
    State :=
  match s.pickReady c e opc holds with
  | some x => x.2.runEntry c e x.1 run
  | none => s

/-- Whether the control core issues: RUN, no DONE issued, no stop or replay due, room in the fault queue (R107, R112, R127, R129). -/
def CoreState.mayIssue (k : CoreState) : Bool :=
  decide (k.st = .run) && k.doneReq.isNone && !k.stopReq && !k.replayDue && decide (k.faultQ.length < 16)

/-! ### Arrivals, SIG and completion -/

/-- Release tokens: a channel holds at most 255; those lost are answered (R105 text, R155). -/
def CoreState.addTok (k : CoreState) (ch n : Nat) : CoreState × Nat :=
  let v := k.getTok ch + n
  (k.putTok ch (min v 255), v - 255)

/-- An increment of an own counter caused by a command, entered in the out ledger when in the step (R154). -/
def CoreState.ownIncrement (k : CoreState) (i n : Nat) (tag : BitVec 16) (inStep : Bool) : CoreState :=
  let k1 := k.addAc i n tag 0
  if inStep then k1.ledgerOut 0 i n else k1

/-- A SIG applied: set a flag or increment a counter (Table 5.2). -/
def CoreState.applySig (k : CoreState) (w : SigWait) : CoreState :=
  match fld w.sig 7 6 with
  | 1 => k.setFlag (fld w.sig 5 0)
  | 2 => k.ownIncrement (fld w.sig 5 0) 1 w.tag w.inStep
  | _ => k

/-- A core's DONE reaches the hub: its tag and result code are kept, and the core is no longer busy in the invocation. The
invocation's code is that of logical core 0 (Table 9.7; assumption log 31). -/
def Hub.coreReports (h : Hub) (c : Nat) (tag code : BitVec 16) : Hub :=
  { h with invs := h.invs.map fun i =>
      if c ∈ i.busy then
        let first := (h.programs.find? fun p => p.handle = i.prog).any fun p => p.lcores.head? = some c
        { i with busy := i.busy.filter (· ≠ c), dones := i.dones ++ [(c, tag, code)], code := if first then code.toNat else i.code }
      else i }

/-- A drained core that issued DONE or was stopped becomes IDLE; DONE reports to the hub (R112, Table 5.20). A replay that fell due
while the commands in flight completed comes first (R55, R129), and a core in FAULTED waits for STOP. -/
def State.settle (s : State) (c : Nat) : State :=
  let k := s.core c
  if k.queue = [] ∧ k.sigs = [] then
    match k.doneReq with
    | some (tag, code) =>
      if (k.st = .run ∨ k.st = .held) ∧ k.replayDue = false then
        (s.setCore c { k with st := .idle, doneReq := none, stopReq := false }).updHub fun h => h.coreReports c tag code
      else s
    | none => if k.stopReq then s.setCore c { k with st := .idle, stopReq := false, replayDue := false, replaying := false } else s
  else s

/-- Replay faults (R129). -/
def isReplayFault (f : Byte) : Bool := f = fSpParity || f = fArrayCheck

/-- A replay fault is counted, and a replay falls due, except in FAULTED and IDLE (Table 5.20). -/
def CoreState.noteReplay (k : CoreState) (f : Byte) : CoreState :=
  if isReplayFault f then
    match k.st with
    | .faulted => k
    | .idle => k
    | _ => { k with replayDue := true, replays := k.replays + 1 }
  else k

/-- An ARRAY_CHECK record's note: whether its macro had reported in this step before, and the step's list of such macros (R56). -/
def CoreState.noteCheck (k : CoreState) (fault : Byte) (detail : W64) : CoreState :=
  if fault = fArrayCheck then
    let m := fld detail 7 0
    { k with checked := if m ∈ k.checked then k.checked else k.checked ++ [m],
             faultQ := match k.faultQ.getLast? with
               | some r => k.faultQ.dropLast ++ [{ r with again := decide (m ∈ k.checked) }]
               | none => k.faultQ }
  else k

/-- A command completes (R110, R127): LASTCR, the step's status words, the fault queue, SIG. -/
def State.retire (s : State) (c : Nat) (q : QEntry) (fault : Byte) (estat : BitVec 16) : State :=
  let e := q.eng
  let k := s.core c
  let n := engNum e
  let k1 := { k with queue := k.queue.filter (fun x => x.id ≠ q.id),
                     lastcr := Sparse.set k.lastcr 0 n (completionRecord q.tag fault e estat),
                     stepOr := Sparse.set k.stepOr 0 n (Sparse.get k.stepOr 0 n ||| estat),
                     sigs := k.sigs.map (fun w : SigWait => { w with waits := w.waits.filter (fun x => decide (x ≠ q.id)) }) }
  let k2 := if fault = 0 then k1 else (k1.pushFault fault q.tag q.addr q.detail).noteCheck fault q.detail
  let s1 := s.setCore c (k2.noteReplay fault)
  let s2 := s1.traceEv c 2 q.tag (slotNum e) 2 0
  (if fault = 0 then s2 else s2.traceEv c 5 q.tag (slotNum e) 3 (BitVec.ofNat 32 fault.toNat)).settle c

/-- A finished command completes once every entry of its port's gather buffer is written (R137); a parity error met there is its
outcome (R138). -/
def State.completeEntry (s : State) (c : Nat) (q : QEntry) : State :=
  let s1 := s.updCore c fun k => k.flushPort (portOf q.eng)
  match (s1.core c).queue.find? fun x => x.id = q.id with
  | some x =>
    match x.st with
    | .finished f e => s1.retire c x f e
    | _ => s1
  | none => s1

/-! ### Neighbour messages -/

/-- Amount an accept window admits from core `src` at core `o` for counter i (R150). -/
def State.admitsArrival (s : State) (o src : Nat) (part : Option Nat) (i : Nat) : Bool :=
  match dirTo o src with
  | none => false
  | some d => let w := (s.core o).nbwin d
              nbEn w && nbArr w && decide (some (nbPart w) = part) && nbMask w i

/-! ### The sync unit's queue -/

/-- The sync slot kept in a queue entry's slot field. -/
def suSlot (y : W64) : W128 := BitVec.ofNat 128 (y.toNat * 2 ^ 64)
def suOp (q : QEntry) : W64 := BitVec.ofNat 64 (fld q.slot 127 64)

/-- Requests to power control for a core's die (R281, R291). -/
def State.bprepHint (s : State) (c bid lead : Nat) : State :=
  s.updHub fun h => { h with barriers := h.barriers.map fun b =>
    if b.bid = bid ∧ c ∈ b.members ∧ b.torus = false then
      { b with bpreps := b.bpreps.filter (fun x => x.1 ≠ c) ++ [(c, lead)] } else b }

/-- Whether every SE command toward a neighbour issued before a command has completed (R117). -/
def CoreState.seDone (k : CoreState) (c o id : Nat) : Bool :=
  k.queue.all fun q => decide (q.eng ≠ .se) || decide (id < q.id) ||
    !(q.handles.any fun h => htValid h.2 && decide (htCore h.2 = o) && decide (o ≠ c))

/-- A queued sync command that starts: NOP, ARRIVE, BPREP or OPHINT (Table 5.12). -/
def State.suRun (s : State) (c : Nat) (q : QEntry) : State :=
  let k := s.core c
  let y := suOp q
  let opc := fld y 63 56
  if opc = 3 then
    let i := fld y 52 48
    let n := fld y 47 24
    match dirOf (fld y 55 53) with
    | none => s.setCore c ((k.ownIncrement i n q.tag q.inStep).finish q.id 0 0 0)
    | some d =>
      match neighbour c d with
      | none => s.setCore c (k.finish q.id fCoreDecode 0 0)
      | some o =>
        let m : NbMsg := { src := c, dst := o, kind := .arrive, ac := i, amount := n, tag := q.tag, part := some k.part,
                           entry := q.id, inStep := q.inStep, arrived := false, refused := false }
        { s.setCore c (k.updEntry q.id fun x => { x with st := .executing }) with nb := s.nb ++ [m] }
  else if opc = 6 then (s.bprepHint c (fld y 53 48) (fld y 47 32)).updCore c fun k => k.finish q.id 0 0 0
  else if opc = 7 then s.setCore c ({ k with hint := some (fld y 50 48, fld y 47 32) }.finish q.id 0 0 0)
  else s.setCore c (k.finish q.id 0 0 0)

/-- Whether an ARRIVE toward a neighbour still waits for SE commands toward it (R117). -/
def CoreState.suWaits (k : CoreState) (c : Nat) (q : QEntry) : Bool :=
  let y := suOp q
  match dirOf (fld y 55 53) with
  | none => false
  | some d => decide (fld y 63 56 = 3) && (neighbour c d).any fun o => !k.seDone c o q.id

/-- The sync unit starts its oldest waiting command when it is idle (Table 5.9, R117, R127). -/
def State.suStart (s : State) (c : Nat) : State :=
  match (s.core c).nextStart .su with
  | none => s
  | some q => if (s.core c).suWaits c q then s else (s.traceEv c 1 q.tag (slotNum .su) 1 0).suRun c q

end Sys2Proof.Machine
end

