-- ==== Sys2Proof/Machine/RowPort.lean ====
section
/-! DEFINITION. The row port and repair: the order of row operations, writes of STATE and passes at a macro, AROWW and AROWR, field repair
(R23, R25 to R30, R125, R126, Table 1.14). -/

namespace Sys2Proof.Machine

/-! ### Repair (R28, R29) -/

/-- The persistent record of a retired macro. -/
def State.retireRecord (s : State) (key : Nat) (on : Bool) : State :=
  s.updMaint fun m =>
    { m with retired := if on then (if key ∈ m.retired then m.retired else m.retired ++ [key]) else m.retired.filter fun k => decide (k ≠ key),
             storeWrites := m.storeWrites + 1 }

/-- A macro is to be taken out of service (R29, R56). -/
def State.wantSwap (s : State) (key : Nat) : State :=
  s.updHub fun h => { h with swapDue := if key ∈ h.swapDue then h.swapDue else h.swapDue ++ [key] }

/-- Steps 1 and 2 of R28 on an ARMED or LOADING macro. A pass in progress completes before the register is written. Without a spare the
macro is unrepairable: it is retired and a spare macro is to be brought in (R29). -/
def State.fieldRepair (s : State) (c m : Nat) (what : RepairKind) : State :=
  let k := s.mac c m
  if (k.st = .armed ∨ k.st = .loading) ∧ k.repairBusy = false ∧ repairNames what = true then
    match k.fitSpare what with
    | some k1 => s.setMac c m { (if k.passActive then k else k1) with repairBusy := true, repairing := some what }
    | none => (((s.setMac c m (k.writeState .repair s.free .retired)).retireRecord (macKey c m) true).wantSwap (macKey c m)).journal
        0xAC 0xFF 0 c 0 0 0 (BitVec.ofNat 64 m)
  else s

/-- A row rewritten from the weight shadow through the mapping in force; a row that the shadow does not hold is left as it is. -/
def State.rewriteRow (s : State) (c m row : Nat) (mask : BitVec 16) : State :=
  match s.shadowRow c m row with
  | some d => s.updMac c m fun k => k.store .repair row mask d 0
  | none => s

/-- Step 3 of R28: the replaced content taken from the shadow. A spare column receives its segment of every weight row; its bits in the
metadata rows keep their contents (assumption log 141). -/
def State.rewriteRepair (s : State) (c m : Nat) (what : RepairKind) : State :=
  match what with
  | .row a => s.rewriteRow c m a.toNat 0xFFFF
  | .column seg _ =>
    (Sparse.inRange s.ext.shadow (shadowKey c m 0) 2048).foldl
      (fun t e => t.rewriteRow c m (e.1 - shadowKey c m 0) (BitVec.ofNat 16 (2 ^ seg.val))) s
  | .metaRow r => s.rewriteRow c m (0x800 + r.val) 0xFFFF

/-! ### Failing rows (R30, R375) -/

/-- Columns at which a row differs from what its weight shadow gives: data columns from 0, check columns from 4096. -/
def State.rowDiffs (s : State) (c m row : Nat) : List Nat :=
  match s.shadowRow c m row with
  | none => []
  | some d =>
    let k := s.mac c m
    let x := k.row row
    let dd := x.data ^^^ d
    let dc := x.check ^^^ BitVec.ofNat 128 (k.checkWord row d.toNat)
    if dd = 0 ∧ dc = 0 then []
    else ((List.range 4096).filter fun j => bitOf dd j) ++ ((List.range 128).filter fun j => bitOf dc j).map fun j => 4096 + j

/-- The repair of a column, by its number. -/
def columnRepair (j : Nat) : RepairKind :=
  if j < 4096 then .column (Fin.ofNat 16 (j / 256)) (BitVec.ofNat 9 (j % 256))
  else .column (Fin.ofNat 16 ((j - 4096) / 8)) (BitVec.ofNat 9 (256 + (j - 4096) % 8))

def rowRepair (row : Nat) : RepairKind := if isMeta row then .metaRow (Fin.ofNat 16 row) else .row (BitVec.ofNat 11 row)

/-- The repair that a further failing row calls for: a spare row when the row failed before in this scrub cycle; a spare column when
another weight row failed at the same column. -/
def MacroState.repairFor (k : MacroState) (row : Nat) (ds : List Nat) : Option RepairKind :=
  if k.failedRows.any fun e => decide (e.1 = row) then some (rowRepair row)
  else if isMeta row then none
  else (ds.find? fun j => k.failedRows.any fun e => !isMeta e.1 && decide (j ∈ e.2)).map columnRepair

/-! ### The order of operations at a macro (R26) -/

/-- Whether an operation that arrives must wait: under a repair, behind held operations, and, unless it is a read, behind a pass. -/
def MacroState.mustHold (k : MacroState) (op : HeldOp) : Bool :=
  let isRead := match op with
    | .read _ => true
    | .arowr _ _ _ _ => true
    | _ => false
  k.repairBusy || !k.held.isEmpty || (!isRead && k.passActive)

/-- The hub's answer to a row that a read found failing (R30): rewritten from the shadow at first, then a spare. The rewrite takes its
place behind what waits at the macro. -/
def State.readFailed (s : State) (c m row : Nat) : State :=
  let k := s.mac c m
  let ds := s.rowDiffs c m row
  match k.repairFor row ds with
  | some what => s.fieldRepair c m what
  | none =>
    let s1 := s.updMac c m fun k => { k with failedRows := k.failedRows ++ [(row, ds)] }
    match s1.shadowRow c m row with
    | none => s1
    | some d =>
      if k.mustHold (.write .repair (BitVec.ofNat 12 row) 0xFFFF d 0) then
        s1.updMac c m fun k => { k with held := k.held ++ [.write .repair (BitVec.ofNat 12 row) 0xFFFF d 0] }
      else if k.rowFault row = 0 then s1.updMac c m fun k => k.store .repair row 0xFFFF d 0
      else s1

/-- One operation at the macro: it takes effect, or meets the fault of Table 1.14. -/
def State.rowOp (s : State) (c m : Nat) (op : HeldOp) : State :=
  let k := s.mac c m
  match op with
  | .write by_ row mask data check =>
    let f := k.rowFault row.toNat
    if f = 0 then (s.setMac c m (k.store by_ row.toNat mask data check)).answer 0 []
    else s.answer f.toNat []
  | .read row =>
    let f := k.rowFault row.toNat
    if f = 0 then
      let s1 := (s.setMac c m (k.noteRead row.toNat)).answer 0 (k.readRecord row.toNat)
      if k.failing row.toNat = [] then s1 else s1.readFailed c m row.toNat
    else s.answer f.toNat []
  | .state by_ t => (s.setMac c m (k.stepState by_ s.free t)).bump
  | .aroww id row mask data =>
    let f := k.rowFault row
    if f = 0 then
      let old := (s.shadowRow c m row).getD (k.row row).data
      ((s.setMac c m (k.store .program row mask data 0)).putShadow c m row
        (BitVec.ofNat 4096 (mergeSegs 256 mask old.toNat data.toNat))).updCore c fun k => (k.finish id 0 0 0).count 2
    else s.updCore c fun k => k.finish id f 0 0
  | .arowr id row o a =>
    let f := k.rowFault row
    if f = 0 then
      let s1 := (s.setMac c m (k.noteRead row)).updCore c fun k => k.count 2
      let s2 := if k.failing row = [] then s1 else s1.readFailed c m row
      if o ≠ c ∧ s2.nbAdmits c o a (a + 576) false true = false then s2.updCore c fun k => k.finish id fNbDenied 0 (BitVec.ofNat 64 a)
      else
        let r := (s2.core o).spWrite 576 a (k.readRecord row)
        match r.2 with
        | some x => ((s2.setCore o r.1).parityAt c (portOf .aeRow) o x).updCore c fun k => k.finish id fSpParity 0 (BitVec.ofNat 64 x)
        | none => (s2.setCore o r.1).updCore c fun k => k.finish id 0 0 0
    else s.updCore c fun k => k.finish id f 0 0
  | .check row =>
    let s1 := s.setMac c m (k.noteRead row)
    if k.rowFault row = 0 ∧ (k.failing row ≠ [] ∨ s.rowDiffs c m row ≠ []) then s1.fieldRepair c m (rowRepair row) else s1

/-- What waits at a macro proceeds in its arrival order until something holds it again. -/
def State.flushGo (s : State) (c m : Nat) : Nat → State
  | 0 => s
  | fuel + 1 =>
    let k := s.mac c m
    if k.repairBusy ∨ k.passActive then s
    else
      match k.held with
      | [] => s
      | op :: rest => ((s.setMac c m { k with held := rest }).rowOp c m op).flushGo c m fuel

/-- Each operation that waits can add one more, a rewrite behind a failing read. -/
def State.flushHeld (s : State) (c m : Nat) : State := s.flushGo c m (2 * (s.mac c m).held.length)

/-- A pass leaves the macro's pipeline. A repair that waits for it writes its register (R28 step 2); else what the pass held proceeds. -/
def State.passEnds (s : State) (c m : Nat) : State :=
  let k := { s.mac c m with passActive := false }
  match k.repairing with
  | some what => s.setMac c m ((k.fitSpare what).getD k)
  | none => (s.setMac c m k).flushHeld c m

/-- An operation that arrives at a macro (R26, R28). -/
def State.arriveRow (s : State) (c m : Nat) (op : HeldOp) : State :=
  if (s.mac c m).mustHold op then s.updMac c m fun k => { k with held := k.held ++ [op] } else s.rowOp c m op

/-! ### Meanings -/

/-- MACRO_ROW_WRITE (R25, R26, R400, Table 1.14). A write that arrives while a recheck sweep runs does not wait for it (assumption log 142). -/
def execMacroRowWrite (c : CoreId) (m : MacId) (by_ : Writer) (row : BitVec 12) (mask : BitVec 16) (data : BitVec 4096)
    (check : W128) (s : State) : Out :=
  .next (s.arriveRow c m (.write by_ row mask data check))

/-- MACRO_ROW_READ (R23, R26, R30). -/
def execMacroRowRead (c : CoreId) (m : MacId) (row : BitVec 12) (s : State) : Out :=
  .next (s.arriveRow c m (.read row))

/-- FIELD_REPAIR (R28, R29). -/
def execFieldRepair (c : CoreId) (m : MacId) (what : RepairKind) (s : State) : Out := .next (s.fieldRepair c m what)

/-- A repair recorded in the persistent store and the journal (R28 step 5). -/
def State.recordRepair (s : State) (c m : Nat) (what : RepairKind) : State :=
  let s1 := s.updMaint fun t => { t with repairLog := t.repairLog ++ [(macKey c m, what)], storeWrites := t.storeWrites + 1 }
  let code : Byte := match what with
    | .column _ _ => 0xA9
    | _ => 0xA8
  s1.journal code 0xFF 0 c 0 0 0 (BitVec.ofNat 64 m)

/-- FIELD_REPAIR_REWRITE_DONE (R28 steps 3 to 5): waits for a pass in progress. -/
def execFieldRepairRewriteDone (c : CoreId) (m : MacId) (s : State) : Out :=
  let k := s.mac c m
  .next (match k.repairing with
    | some what =>
      if k.passActive then s
      else
        let s1 := s.rewriteRepair c m what
        let s2 := s1.updMac c m fun k => { k with repairBusy := false, repairing := none }
        (s2.flushHeld c m).recordRepair c m what
    | none => s)

/-! ### Row commands (R125, R126) -/

/-- The checks of an AROWW before the macro, in the order of R125, and what arrives at the macro. -/
def State.arowwOp (s : State) (c : Nat) (q : QEntry) : Except RunResult (Nat × HeldOp) :=
  let w := q.slot
  if fld w 85 32 ≠ 0 ∨ fieldForm (slotLo w) = 3 then .error (.fail s fAeField)
  else match (s.core c).ammap (fld w 119 114) with
    | none => .error (.fail s fAeMap)
    | some m =>
      let src := fixedOperand (resolveField q.handles (slotLo w) q.xr0) 512 true false 64
      let f := s.checkOps c false [src]
      if f ≠ 0 then .error (.fail s f)
      else match s.fetch c (portOf .aeRow) (src.core c) src.lo.toNat 512 with
        | .error a => .error { s := s.parityAt c (portOf .aeRow) (src.core c) a, fault := fSpParity, estat := 0, detail := BitVec.ofNat 64 a }
        | .ok bs => .ok (m, .aroww q.id (fld w 113 102) (BitVec.ofNat 16 (fld w 101 86)) (BitVec.ofNat 4096 (leNat bs)))

/-- The checks of an AROWR, in the same order, with DST in place of SRC. -/
def State.arowrOp (s : State) (c : Nat) (q : QEntry) : Except RunResult (Nat × HeldOp) :=
  let w := q.slot
  if fld w 101 32 ≠ 0 ∨ fieldForm (slotLo w) = 3 then .error (.fail s fAeField)
  else match (s.core c).ammap (fld w 119 114) with
    | none => .error (.fail s fAeMap)
    | some m =>
      let dst := fixedOperand (resolveField q.handles (slotLo w) q.xr0) 576 false true 64
      let f := s.checkOps c false [dst]
      if f ≠ 0 then .error (.fail s f) else .ok (m, .arowr q.id (fld w 113 102) (dst.core c) dst.lo.toNat)

/-- The next row command starts when its opcode is the one asked for: a fault completes it, else it arrives at its macro, where it may
wait (R26). -/
def State.startRow (s : State) (c opc : Nat) (op : State → QEntry → Except RunResult (Nat × HeldOp)) : State :=
  match (s.core c).nextStart .aeRow with
  | none => s
  | some q =>
    if slotOpc q.slot = opc then
      let s1 := s.traceEv c 1 q.tag (slotNum .aeRow) 1 0
      match op s1 q with
      | .error r => r.ended c q
      | .ok x => (s1.updCore c fun k => k.updEntry q.id fun e => { e with st := .executing }).arriveRow c x.1 x.2
    else s

/-- AROWW (R125): it has run when the macro row and the shadow row are written. -/
def execAroww (c : CoreId) (s : State) : Out := .next (s.startRow c 0x45 fun s q => s.arowwOp c q)

/-- AROWR (R126). -/
def execArowr (c : CoreId) (s : State) : Out := .next (s.startRow c 0x46 fun s q => s.arowrOp c q)

end Sys2Proof.Machine
end

