-- ==== Sys2Proof/Machine/ArrayEngine.lean ====
section
/-! DEFINITION. The array engine's passes: blocks, staging, planes, early exit, predictor, overflow and retry, range monitors,
check failures (R31 to R58, R401). -/

namespace Sys2Proof.Machine

/-! ### Fields of a pass command (Tables 2.2, 2.3) -/

def pcMb (q : W128) : Nat := fld q 119 114
def pcK (q : W128) : Nat := 2 ^ fld q 113 111
def pcN (q : W128) : Nat := 2 ^ fld q 110 108
def pcTile (q : W128) : TileId := if bitOf q 107 then .tb else .ta
def pcPred (q : W128) : Bool := decide (slotOpc q = 0x41)
/-- ACC: 0 FRESH, 1 PRELOAD, 2 ADD; an APRED is FRESH (R35). -/
def pcAcc (q : W128) : Nat := if pcPred q then 0 else fld q 106 105
def pcA (q : W128) : Nat := fld q 104 102 + 1
def pcSigned (q : W128) : Bool := bitOf q 101
def pcMsbf (q : W128) : Bool := bitOf q 100
def pcZskip (q : W128) : Nat := fld q 99 98
def pcExit (q : W128) : Nat := if pcPred q then 0 else fld q 97 96
def pcRetry (q : W128) : Bool := !pcPred q && bitOf q 95
def pcPsh (q : W128) : Nat := if pcPred q then 0 else fld q 94 92
def pcPreShift (q : W128) : Nat := fld q 91 90
def pcMask (q : W128) : Bool := !pcPred q && bitOf q 89
def pcMon (q : W128) : Nat := if pcPred q then 0 else fld q 88 85
def pcExtH (q : W128) : Nat := fld q 79 72
def pcMskH (q : W128) : Nat := fld q 71 64
def pcPcset (q : W128) : Nat := fld q 95 92
/-- The predictor's tolerance TOL_M · 2^TOL_E. -/
def pcTol (q : W128) : Int := (fld q 31 24 * 2 ^ fld q 88 85 : Nat)
/-- Planes the command runs: A, or the top two of an APRED (R48). -/
def pcPlanes (q : W128) : Nat := if pcPred q then 2 else pcA q

/-- The field checks of R36, with reserved address forms (R121). -/
def passFieldBad (q : W128) : Bool :=
  let bad := fld q 113 111 = 7 ∨ 6 ≤ fld q 110 108 ∨ pcZskip q = 3 ∨ 64 < pcK q * pcN q ∨ 64 < pcMb q + pcK q * pcN q ∨
    fieldForm (slotMid q) = 3
  let apass := fld q 106 105 = 3 ∨ fld q 84 80 ≠ 0 ∨ (pcExit q ≠ 0 ∧ pcMsbf q = false) ∨ (pcRetry q = true ∧ pcAcc q = 2) ∨
    (pcAcc q = 1 ∧ fieldForm (slotLo q) = 3)
  let apred := fld q 106 105 ≠ 0 ∨ fld q 97 96 ≠ 0 ∨ fld q 91 89 ≠ 0 ∨ fld q 84 80 ≠ 0 ∨ fld q 23 0 ≠ 0 ∨ pcMsbf q = false ∨
    pcA q = 1
  decide (bad ∨ (if pcPred q then apred else apass))

/-! ### Block and staging -/

/-- The physical macros of a block, in logical order; none when an entry is invalid (R32). -/
def CoreState.translate (k : CoreState) (mb n : Nat) : Option (List Nat) :=
  (List.range n).mapM fun j => k.ammap (mb + j)

/-- The block checks of R33 on translated macros: MACRO_STATE, then AE_MIX; 0 when they pass. -/
def State.blockFault (s : State) (c : Nat) (macs : List Nat) (n : Nat) : Byte :=
  let ms := macs.map fun m => s.mac c m
  if ms.any fun m => decide (m.st ≠ .armed) || m.leaving then fMacroState
  else
    match ms with
    | [] => 0
    | m0 :: _ =>
      if ms.any fun m => decide (m.wfmt ≠ m0.wfmt) || decide (m.sparse ≠ m0.sparse) then fAeMix
      else if 16384 < n * (4096 / wfmtWidth m0.wfmt) then fAeMix else 0

/-- Tile lanes in use L = N·4096/W (R31). -/
def lanesInUse (q : W128) (wlog : Nat) : Nat := pcN q * (4096 / 2 ^ wlog)
/-- Elements per segment S (R37). -/
def segLen (sparse : Bool) : Nat := if sparse then 4096 else 2048

/-- The operands of a pass command in the order of R144. -/
def passOperands (q : QEntry) (wlog : Nat) (sparse : Bool) : List Operand :=
  let w := q.slot
  let l := lanesInUse w wlog
  let ks := pcK w * segLen sparse
  let ext := fixedOperand (resolveHandle q.handles (pcExtH w)) (16 * l) true false 1
  let act := fixedOperand (resolveField q.handles (slotMid w) q.xr1) ks true false 1
  if pcPred w then
    [ext, fixedOperand (resolveHandle q.handles (pcMskH w)) (l / 8) false true 1, act]
  else
    (if pcExit w = 0 then [] else [ext]) ++
    (if pcMask w then [fixedOperand (resolveHandle q.handles (pcMskH w)) (ks / 8) true false 1] else []) ++ [act] ++
    (if pcAcc w = 1 then [fixedOperand (resolveField q.handles (slotLo w) q.xr0) (4 * l + l / 4) true false 64] else [])

/-- The prescale of R37 with s = PSH + TSHIFT. -/
def prescale (s : Nat) (x : Int) : Int := if s = 0 then x else (x + 2 ^ (s - 1)) / 2 ^ s

/-- Saturation to an A-bit activation; true when it saturated (R37). -/
def satAct (signed_ : Bool) (a : Nat) (x : Int) : Int × Bool :=
  let lo : Int := if signed_ then -(2 ^ (a - 1)) else 0
  let hi : Int := if signed_ then 2 ^ (a - 1) - 1 else 2 ^ a - 1
  if x < lo then (lo, true) else if hi < x then (hi, true) else (x, false)

/-- Staged activations from the raw bytes: values that are not 0, and the number of saturations. -/
def stage (q : W128) (tshift : Nat) (raw : List Byte) : Sparse Int × Nat :=
  let sg := pcSigned q
  let xs := raw.map fun b => satAct sg (pcA q) (prescale (pcPsh q + tshift) (if sg then signed 8 b.toNat else b.toNat))
  (((List.range xs.length).zip xs).filterMap fun p => if p.2.1 = 0 then none else some (p.1, p.2.1),
   (xs.filter (·.2)).length)

/-- Windows disabled by a window mask: those whose mask bits are all 0 (R39); windows hold 32 elements, or 64 when sparse. -/
def maskedOff (sparse : Bool) (bytes : List Byte) : List Nat :=
  let per := if sparse then 8 else 4
  (List.range (bytes.length / per)).filter fun w => ((bytes.drop (per * w)).take per).all fun b => b = 0

/-- A preload image of L lanes: values and states (R44). -/
def preloadImage (l : Nat) (bytes : List Byte) : List Int × List LaneSt :=
  ((List.range l).map (fun i => signed 32 (leNat ((bytes.drop (4 * i)).take 4))),
   (List.range l).map (fun i => laneStOf ((bytes.getD (4 * l + i / 4) 0).toNat / 4 ^ (i % 4))))

/-- Exit-table entries T_HI, T_LO, BPOS, BNEG (R45). -/
def exitEntry (bytes : List Byte) (i : Nat) : Int × Int × Int × Int :=
  let w := fun k => signed 32 (leNat ((bytes.drop (16 * i + 4 * k)).take 4))
  (w 3, w 2, w 1, w 0)

/-- A read of an AE operand that fails: SP_PARITY or NB_DENIED, the core that holds the operand, the address, and whether activations
of the attempt had saturated before (R401, R149). -/
structure ReadFail where
  fault : Byte
  core  : Nat
  addr  : Nat
  sat   : Bool

/-- One operand of the AE read whole. A neighbour checks each access as it arrives (R149). -/
def State.readOperand (s : State) (c : Nat) (o : Operand) : Except ReadFail (List Byte) :=
  let own := o.core c
  if own ≠ c ∧ s.nbAdmits c own o.lo o.hi true false = false then .error { fault := fNbDenied, core := own, addr := o.lo.toNat, sat := false }
  else
    match s.fetch c (portOf .aePass) own o.lo.toNat (o.hi - o.lo).toNat with
    | .ok bs => .ok bs
    | .error a => .error { fault := fSpParity, core := own, addr := a, sat := false }

/-- The exit store for a command: kept when tag and length allow, else reloaded (R45). -/
def State.exitStoreFor (s : State) (c : Nat) (q : QEntry) (l : Nat) : Except ReadFail ExitStore :=
  let h := pcExtH q.slot
  let g := htGen (Sparse.get q.handles 0 h)
  let o := fixedOperand (resolveHandle q.handles h) (16 * l) true false 1
  match (s.core c).exits.filter fun x => decide (x.handle = h) && decide (x.gen = g) && decide (l ≤ x.held) with
  | some x => .ok x
  | none =>
    match s.readOperand c o with
    | .error a => .error a
    | .ok bs => .ok { handle := h, gen := g, held := l, entries := (List.range l).map fun i => (i, exitEntry bs i) }

/-- A preload or residual shifted right with rounding as in R37 (R50). -/
def shiftBase (s : Nat) (v : Int) : Int := if s = 0 then v else (v + 2 ^ (s - 1)) / 2 ^ s

/-- Everything one attempt reads: activations, mask, exit store and base. The base of ADD is the tile's contents. -/
structure Staging where
  xs    : Sparse Int
  sats  : Nat
  off   : List Nat
  exits : Option ExitStore
  val   : Sparse Int
  st    : Sparse LaneSt

/-- The base of an attempt: the preload shifted for the tile's TSHIFT, the tile's contents under ADD, else 0 (R41, R44, R50). -/
def State.stageBase (s : State) (c : Nat) (q : QEntry) (l tshift : Nat) : Except ReadFail (Sparse Int × Sparse LaneSt) :=
  let w := q.slot
  let k := s.core c
  if pcAcc w = 1 then
    match s.readOperand c (fixedOperand (resolveField q.handles (slotLo w) q.xr0) (4 * l + l / 4) true false 64) with
    | .error a => .error a
    | .ok bs =>
      let im := preloadImage l bs
      .ok ((List.range l).zip (im.1.map (shiftBase (tshift - pcPreShift w))), (List.range l).zip im.2)
  else if pcAcc w = 2 then
    .ok ((List.range l).map (fun i => (i, k.lane (pcTile w) i)), (List.range l).map (fun i => (i, k.laneSt (pcTile w) i)))
  else .ok ([], [])

/-- The exit store of an attempt, where the command uses one. -/
def State.stageExits (s : State) (c : Nat) (q : QEntry) (l : Nat) : Except ReadFail (Option ExitStore) :=
  if pcPred q.slot ∨ pcExit q.slot ≠ 0 then
    match s.exitStoreFor c q l with
    | .error a => .error a
    | .ok y => .ok (some y)
  else .ok none

/-- Reads for one attempt with the tile's TSHIFT (R37 to R39, R44, R45, R50). -/
def State.stageAll (s : State) (c : Nat) (q : QEntry) (wlog : Nat) (sparse : Bool) (tshift : Nat) : Except ReadFail Staging :=
  let w := q.slot
  let l := lanesInUse w wlog
  let ks := pcK w * segLen sparse
  match s.readOperand c (fixedOperand (resolveField q.handles (slotMid w) q.xr1) ks true false 1) with
  | .error a => .error a
  | .ok raw =>
    let x := stage w tshift raw
    let late : ReadFail → ReadFail := fun f => { f with sat := decide (x.2 ≠ 0) }
    match (if pcMask w then s.readOperand c (fixedOperand (resolveHandle q.handles (pcMskH w)) (ks / 8) true false 1)
        else .ok []) with
    | .error a => .error (late a)
    | .ok mb =>
      match s.stageExits c q l with
      | .error a => .error (late a)
      | .ok es =>
        match s.stageBase c q l tshift with
        | .error a => .error (late a)
        | .ok b => .ok { xs := x.1, sats := x.2, off := if pcMask w then maskedOff sparse mb else [], exits := es,
                         val := b.1, st := b.2 }

/-- What an operand read that fails leaves (R401): the tile FULL, every lane in use INV, lanes at L and above as under R41; the command
ends with the fault, its attempts, SPEC and SAT in its status (Table 2.13). A refusal at a neighbour during the re-read of a retry is
taken in the same way (assumption log 146). -/
def State.passFail (s : State) (c : Nat) (q : QEntry) (wlog attempt : Nat) (satBefore : Bool) (f : ReadFail) : State :=
  let t := pcTile q.slot
  let l := lanesInUse q.slot wlog
  let s0 := if f.fault = fSpParity then s.parityAt c (portOf .aePass) f.core f.addr else s
  s0.updCore c fun k =>
    let k1 := (List.range l).foldl (fun k i => k.putLane t i (-2147483648) .inv) k
    let k2 := if pcAcc q.slot = 2 then k1
      else (List.range (16384 - l)).foldl (fun k i => k.putLane t (l + i) 0 .normal) k1
    (k2.setTile t { (k2.tile t) with st := .full }).finish q.id f.fault
      (estatPass false false attempt (pcMask q.slot) (satBefore || f.sat) false false) (BitVec.ofNat 64 f.addr)

/-! ### Lane sums (R15 to R20) -/

/-- Rows of a macro that can contribute: those written and those that a spare row serves, or all when the unwritten ones are U. -/
def MacroState.weightRows (m : MacroState) : List Nat :=
  match m.uGen with
  | none =>
    ((m.rows.filter fun r => r.1 < 2048).map (·.1)) ++ (List.range 32).filterMap fun i =>
      let e := Sparse.get m.mrepRow 0 i
      let r := 64 * i + fld e 5 0
      if bitOf e 31 ∧ (Sparse.find? m.rows r).isNone then some r else none
  | some _ => List.range 2048

/-- The two inputs a pattern selects (Table 1.6). -/
def patPick (f : Nat) : Nat × Nat :=
  match f with
  | 0 => (0, 1) | 1 => (0, 2) | 2 => (0, 3) | 3 => (1, 2) | 4 => (1, 3) | _ => (2, 3)

/-- Whether the CRC covering a window's patterns for a lane group fails (R20). -/
def MacroState.crcBad (m : MacroState) (w g : Nat) : Bool := decide (4 * (w % 4) + g / 4 ∈ m.failing (0x800 + w / 4))

/-- The activation driven into lane group g of a row, from its segment's inputs (R18 to R20). -/
def MacroState.input (m : MacroState) (x : Nat → Int) (row g : Nat) : Int :=
  if m.sparse then
    let w := row / 32
    let f := m.patternAt w g (row % 32 / 2)
    if m.crcBad w g || badPattern f then 0
    else let p := patPick f; x (4 * (row / 2) + if row % 2 = 0 then p.1 else p.2)
  else x row

/-- The lane accumulator of lane l at the end of a pass (R16); an APRED uses coefficient set PCSET for every group (R48). -/
def MacroState.laneAcc (m : MacroState) (pc : Option Nat) (x : Nat → Int) (l : Nat) : Int :=
  let w := wfmtWidth m.wfmt
  let g := w * l / 256
  let set := match pc with
    | some n => Sparse.get m.mcoef 0 n
    | none => m.groupSet g
  (m.weightRows.map fun r =>
    let v := m.input x r g
    if v = 0 then 0 else v * cwLevel set w (bits (m.row r).data.toNat (w * l + w - 1) (w * l))).sum

/-- The sum of R22 for a lane group modulo 256: lanes and check lane together. -/
def MacroState.groupResidue (m : MacroState) (x : Nat → Int) (g : Nat) : Int :=
  (m.weightRows.map fun r =>
    let v := m.input x r g
    let row := m.row r
    if v = 0 then 0
    else v * (groupSum (m.groupSet g) (wfmtWidth m.wfmt) row.data.toNat g + signed 8 (fld row.check (8 * g + 7) (8 * g)))).sum % 256

/-- An activation with only the planes from p up: those a column has run (R15). -/
def highPlanes (p : Nat) (x : Int) : Int := x / 2 ^ p * 2 ^ p

/-- The inputs of segment k as the macros see them: 0 in windows that the mask disables. -/
def PassRun.input (r : PassRun) (k : Nat) (e : Nat) : Int :=
  let i := k * segLen r.sparse + e
  let per := if r.sparse then 64 else 32
  if i / per ∈ r.maskOff then 0 else Sparse.get r.staged 0 i

/-- Whether a window of segment k is driven in a plane from p up (R38, R39). -/
def PassRun.driven (r : PassRun) (q : W128) (p k w : Nat) : Bool :=
  let per := if r.sparse then 64 else 32
  let i := k * segLen r.sparse + per * w
  if i / per ∈ r.maskOff then false
  else
    match pcZskip q with
    | 0 => true
    | 1 => (List.range per).any fun e => decide (Sparse.get r.staged 0 (i + e) ≠ 0)
    | _ => (List.range per).any fun e => decide (Sparse.get r.staged 0 (i + e) % 2 ^ 8 / 2 ^ p ≠ 0)

def PassRun.lanesPer (r : PassRun) : Nat := 4096 / 2 ^ r.wlog

/-- The physical macro of column n and segment k (R31). -/
def PassRun.mac (r : PassRun) (q : W128) (n k : Nat) : Nat := r.macs.getD (pcK q * n + k) 0

/-- Sum over the K macros of a column of the lane's accumulators over planes p and up. -/
def State.colSum (s : State) (c : Nat) (r : PassRun) (q : W128) (p n l : Nat) : Int :=
  ((List.range (pcK q)).map fun k =>
    (s.mac c (r.mac q n k)).laneAcc (if pcPred q then some (pcPcset q) else none)
      (fun e => highPlanes p (r.input k e)) l).sum

/-! ### Early exit (R46) -/

/-- Ceiling of a / 2^s. -/
def ceilShift (a : Int) (s : Nat) : Int := -((-a) / 2 ^ s)

/-- The evaluation of one lane after plane p. -/
def exitDecide (ex : Nat) (t : Int × Int × Int × Int) (tshift p : Nat) (part : Int) : Option Int :=
  let rem : Int := 2 ^ p - 1
  let hi := ceilShift t.1 tshift
  let lo := ceilShift t.2.1 tshift
  if (ex = 1 ∨ ex = 3) ∧ part + rem * t.2.2.1 < lo then some (lo - 1)
  else if (ex = 2 ∨ ex = 3) ∧ part + rem * t.2.2.2 ≥ hi then some hi
  else none

/-- The plane that completes now: planes run most significant first or least significant first. -/
def planeNow (q : W128) (done : Nat) : Nat := if pcMsbf q then pcA q - 1 - done else done

/-- The evaluation of every undecided lane of the columns still running, after a plane. -/
def State.evalExit (s : State) (c : Nat) (r : PassRun) (q : W128) (tshift p : Nat) : PassRun :=
  let lp := r.lanesPer
  let cols := (List.range (pcN q)).filter fun n => !(r.stopped.any fun x => x.1 = n)
  let dec := cols.foldl (fun (d : Sparse Int) n => (List.range lp).foldl (fun d l =>
      let i := n * lp + l
      if (Sparse.find? d i).isSome ∨ Sparse.get r.baseSt .normal i ≠ .normal then d
      else
        match exitDecide (pcExit q) (Sparse.get r.exitTab (0, 0, 0, 0) i) tshift p
            (Sparse.get r.baseVal 0 i + s.colSum c r q p n l) with
        | some v => Sparse.insert d i v
        | none => d) d) r.decided
  let stop := cols.filter fun n => (List.range lp).all fun l => (Sparse.find? dec (n * lp + l)).isSome
  { r with decided := dec, stopped := r.stopped ++ stop.map fun n => (n, r.planes) }

/-! ### Tile finish (R41, R50, R51, R55) -/

/-- State and value of a lane at the finish: Table 2.5, with whether the overflow is new. -/
def finishLane (base : LaneSt) (v : Int) : Int × LaneSt × Bool :=
  match base with
  | .posInf => (2147483647, .posInf, false)
  | .negInf => (-2147483648, .negInf, false)
  | .inv => (-2147483648, .inv, false)
  | .normal =>
    if 2147483647 < v then (2147483647, .posInf, true)
    else if v < -2147483648 then (-2147483648, .negInf, true) else (v, .normal, false)

/-- Groups of a macro affected, each with whether the cause is META: by a pattern error under R20, and by R22 (tested only where no lane
of the group was gated, and never on an APRED). A group with a pattern error is META, whether or not it also fails R22. -/
def State.badGroups (s : State) (c : Nat) (r : PassRun) (q : W128) (n k : Nat) : List (Nat × Bool) :=
  let m := s.mac c (r.mac q n k)
  let lp := r.lanesPer
  let per := lp / 16
  let p := match r.stopped.find? fun x => x.1 = n with
    | some x => pcA q - x.2
    | none => pcA q - pcPlanes q
  (List.range 16).filterMap fun g =>
    let gated := (List.range per).any fun l => (Sparse.find? r.decided (n * lp + g * per + l)).isSome
    let pass := !pcPred q && !gated && decide (m.groupResidue (r.input k) g ≠ 0)
    let pat := m.sparse && (List.range 64).any fun w => r.driven q p k w &&
      (m.crcBad w g || (List.range 16).any fun i => badPattern (m.patternAt w g i))
    if pass || pat then some (g, pat) else none

/-- The range-monitor bin of a lane (R53). -/
def rmBin (st : LaneSt) (v : Int) (base : Nat) : Nat :=
  match st with
  | .normal => min 15 (bitLen v.natAbs - base)
  | _ => 15

/-- One observation of a monitored channel (R53, R54): counters, envelope while learning, out count; true when the out count has
reached OUT_LIMIT. A channel whose counters are all 0 has no envelope yet. -/
def CoreState.rmObserve (k : CoreState) (ctx ch bin : Nat) (learning : Bool) (margin limit : Nat) : CoreState × Bool :=
  let a := rmRec ctx ch
  let cnt := (List.range 16).map fun b => (Win.read k.win (a + b)).toNat
  let fresh := cnt.all fun v => v = 0
  let halved := if cnt.getD bin 0 = 255 then cnt.map (· / 2) else cnt
  let cnt2 := (List.range 16).map fun b => halved.getD b 0 + if b = bin then 1 else 0
  let env := (Win.read k.win (a + 16)).toNat
  let lo := env % 16
  let hi := env / 16
  let w1 := (List.range 16).foldl (fun w b => Win.write w (a + b) (BitVec.ofNat 8 (cnt2.getD b 0))) k.win
  if learning then
    let lo2 := if fresh then bin else min lo bin
    let hi2 := if fresh then bin else max hi bin
    ({ k with win := Win.write w1 (a + 16) (BitVec.ofNat 8 (lo2 + 16 * hi2)) }, false)
  else if bin + margin < lo ∨ hi + margin < bin then
    let out := min 255 ((Win.read k.win (a + 17)).toNat + 1)
    ({ k with win := Win.write w1 (a + 17) (BitVec.ofNat 8 out) }, decide (limit ≠ 0) && decide (limit ≤ out))
  else ({ k with win := w1 }, false)

/-- A monitored finish (R53): each watched lane in use that is neither decided nor INV; DRIFT and RANGE_DRIFT once. -/
def State.monitor (s : State) (c ctx l : Nat) (decided : Sparse Int) (t : TileId) : State :=
  let k := s.core c
  let cfg := k.w32 (rmAddr ctx)
  if ctx = 0 ∨ bitOf cfg 31 = false then s
  else
    let blk := fld cfg 28 25
    let learning := bitOf cfg 30
    let r := (List.range 1024).foldl (fun (a : CoreState × Option Nat) ch =>
      let i := 1024 * blk + ch
      let st := k.laneSt t i
      if l ≤ i ∨ (Sparse.find? decided i).isSome ∨ st = .inv then a
      else
        let o := a.1.rmObserve ctx ch (rmBin st (k.lane t i) (fld cfg 24 20)) learning (fld cfg 19 18) (fld cfg 9 2)
        (o.1, match a.2 with
          | some x => some x
          | none => if o.2 then some ch else none)) (k, none)
    let n := Sparse.get r.1.rmDone 0 ctx + 1
    let need := if fld cfg 17 10 = 0 then 256 else fld cfg 17 10
    let still := learning && decide (n < need)
    let cfg2 := fld cfg 31 31 * 2 ^ 31 + bitAt still 30 + bitAt (bitOf cfg 29 || r.2.isSome) 29 + fld cfg 28 0
    let k2 := { r.1 with rmDone := if learning then Sparse.insert r.1.rmDone ctx n else r.1.rmDone }
    let s2 := s.setCore c (k2.putW32 (rmAddr ctx) (BitVec.ofNat 32 cfg2))
    match r.2 with
    | some ch =>
      if bitOf cfg 29 then s2
      else s2.journal eRangeDrift k.part 0 c 0 k.stepno 0 (BitVec.ofNat 64 (ctx * 1024 + ch))
    | none => s2

/-- A mask of an APRED, one bit per tile lane (R48). -/
def predMask (k : CoreState) (t : TileId) (tab : Sparse (Int × Int × Int × Int)) (tol : Int) (l : Nat) : List Byte :=
  pack 1 ((List.range l).map fun i =>
    let st := k.laneSt t i
    let lo := (Sparse.get tab (0, 0, 0, 0) i).2.1
    if st = .posInf ∨ st = .inv ∨ (st = .normal ∧ lo ≤ k.lane t i + tol) then 1 else 0)

/-- Bytes written by an AE command at a core; a partial lane of wrong parity stops the write (R138). -/
def State.aeWrite (s : State) (o a : Nat) (bs : List Byte) : State × Option Nat :=
  let r := (s.core o).spWrite bs.length a bs
  (s.setCore o r.1, r.2)

/-- Amax reports of a command's final attempt (R50, R76): input saturations and lanes left INF. -/
def CoreState.passReports (k : CoreState) (r : PassRun) (q : W128) (l infs : Nat) : CoreState :=
  let k1 := if bitOf r.ahsrc 15 then k.observe (fld r.ahsrc 12 8) none (pcK q * segLen r.sparse) r.sats else k
  if bitOf r.ahsrc 7 then k1.observe (fld r.ahsrc 4 0) none l infs else k1

/-- The tile's lanes after the finish: sums or decided values through the range test, affected groups INV, lanes at L and above
cleared under FRESH and PRELOAD. The number of new overflows is answered, one in a lane that turns INV counted too (assumption log 144). -/
def State.finishTile (s : State) (c : Nat) (r : PassRun) (q : W128) (inv : Nat → Bool) : CoreState × Nat :=
  let t := pcTile q
  let lp := r.lanesPer
  let l := pcN q * lp
  let p := pcA q - pcPlanes q
  let res := (List.range l).foldl (fun (a : CoreState × Nat) i =>
    let v := match Sparse.find? r.decided i with
      | some d => d
      | none => Sparse.get r.baseVal 0 i + s.colSum c r q p (i / lp) (i % lp)
    let f := finishLane (Sparse.get r.baseSt .normal i) v
    if inv i then (a.1.putLane t i (-2147483648) .inv, a.2 + if f.2.2 then 1 else 0)
    else (a.1.putLane t i f.1 f.2.1, a.2 + if f.2.2 then 1 else 0)) (s.core c, 0)
  let k2 := if pcAcc q = 2 then res.1 else (List.range (16384 - l)).foldl (fun k i => k.putLane t (l + i) 0 .normal) res.1
  (k2, res.2)

/-- Whether all planes have run or every column has stopped. -/
def PassRun.planesOver (r : PassRun) (q : W128) : Bool :=
  decide (r.planes = pcPlanes q) || (List.range (pcN q)).all fun n => r.stopped.any fun x => x.1 = n

/-- The running pass command leaves the engine; the one staged behind it takes its place (Table 5.9). -/
def CoreState.passOver (k : CoreState) : CoreState := { k with pass := k.nextPass, nextPass := none }

/-- The mask of an APRED written at MSK_H (R48). A parity error in a partial lane, or a refusal at a neighbour as the write arrives
(R149), ends the command with SP_PARITY or NB_DENIED, whatever its passes reported (assumption log 145); the bytes not written are U. -/
def State.maskWrite (s : State) (c : Nat) (q : QEntry) (o : Operand) (bytes : List Byte) (ok : Byte) (es : BitVec 16) (det : W64) :
    State :=
  let own := o.core c
  if own ≠ c ∧ s.nbAdmits c own o.lo o.hi false true = false then
    let s1 := s.updCore own fun k => { k with sp := Memory.writeL k.sp o.lo.toNat (freeBytes s.free bytes.length) }
    (s1.bumpN bytes.length).updCore c fun k => k.finish q.id fNbDenied es (BitVec.ofNat 64 o.lo.toNat)
  else
    let wr := s.aeWrite own o.lo.toNat bytes
    match wr.2 with
    | none => wr.1.updCore c fun k => k.finish q.id ok es det
    | some a =>
      let rest := (o.hi.toNat - max a o.lo.toNat)
      let s5 := wr.1.updCore own fun k => { k with sp := Memory.writeL k.sp (max a o.lo.toNat) (freeBytes s.free rest) }
      (s5.parityAt c (portOf .aePass) own a).bumpN rest |>.updCore c fun k => k.finish q.id fSpParity es (BitVec.ofNat 64 a)

/-- The end of a command that does not retry: tile FULL, macros free of the pass, reports, monitors, mask, completion. The DETAIL of an
ARRAY_INF record, which no table gives, is the number of new INF lanes (assumption log 143). A mismatched check group sets META_ERR
and leaves LAST_ROW and LAST_GROUP (assumption log 140). -/
def State.passDone (s : State) (c : Nat) (q : QEntry) (r : PassRun) (bad : List (Nat × Nat × Bool)) (newInf : Nat)
    (kf : CoreState) : State :=
  let w := q.slot
  let t := pcTile w
  let l := lanesInUse w r.wlog
  let infs := ((List.range l).filter fun i => decide (kf.laneSt t i = .posInf) || decide (kf.laneSt t i = .negInf)).length
  let k1 := ((kf.setTile t { (kf.tile t) with st := .full }).passReports r w l infs).passOver
  let s1 := r.macs.foldl (fun s m => s.passEnds c m) (s.setCore c k1)
  let s2 := bad.foldl (fun s b => s.updMac c b.1 fun m =>
      { m with passMismatch := if m.passMismatch = 0xFFFF then 0xFFFF else m.passMismatch + 1,
               metaErr := m.metaErr || b.2.2 }) s1
  let s3 := if bad = [] ∧ newInf ≠ 0 then s2.journal eArrayInf kf.part 0 c q.tag kf.stepno q.addr (BitVec.ofNat 64 newInf) else s2
  let s4 := s3.monitor c (pcMon w) l r.decided t
  let es := estatPass (!bad.isEmpty) (decide (newInf ≠ 0)) r.attempt (pcMask w) r.satAny (!r.decided.isEmpty) (!r.stopped.isEmpty)
  let det : W64 := match bad with
    | [] => 0
    | b :: _ => BitVec.ofNat 64 (b.1 + b.2.1 * 256 + bitAt b.2.2 12)
  let ok := if bad = [] then 0 else fArrayCheck
  if pcPred w then
    s4.maskWrite c q (fixedOperand (resolveHandle q.handles (pcMskH w)) (l / 8) false true 1)
      (predMask (s4.core c) t r.exitTab (pcTol w) l) ok es det
  else s4.updCore c fun k => k.finish q.id ok es det

/-! ### Meanings -/

/-- A command that issues into an AE queue, when the core issues and the queue has room (R107, R114). -/
def State.enterQueue (s : State) (c : Nat) (e : Eng) (tag : BitVec 16) (slot : W128) : State :=
  if (s.core c).mayIssue ∧ (s.core c).room e 1 then s.updCore c fun k => k.enqueue e tag 0 slot true else s

/-- APASS (R34). -/
def execApass (c : CoreId) (tag : BitVec 16) (slot : W128) (s : State) : Out := .next (s.enterQueue c .aePass tag slot)

/-- APRED (R48). -/
def execApred (c : CoreId) (tag : BitVec 16) (slot : W128) (s : State) : Out := .next (s.enterQueue c .aePass tag slot)

/-- ARELEASE (R42). -/
def execArelease (c : CoreId) (tag : BitVec 16) (slot : W128) (s : State) : Out := .next (s.enterQueue c .aeDrain tag slot)

/-- A pending drain or ARELEASE of a tile issued before a command. -/
def CoreState.earlierDrain (k : CoreState) (t : TileId) (id : Nat) : Bool :=
  k.queue.any fun d => decide (d.eng = .aeDrain) && decide (d.id < id) &&
    (decide (slotOpc d.slot = 0x42) || decide (slotOpc d.slot = 0x43)) && decide ((if bitOf d.slot (if slotOpc d.slot = 0x42 then 107 else 119) then TileId.tb else .ta) = t)

/-- A pending pass command to a tile issued before a command. -/
def CoreState.earlierPass (k : CoreState) (t : TileId) (id : Nat) : Bool :=
  k.queue.any fun d => decide (d.eng = .aePass) && decide (d.id < id) && decide (pcTile d.slot = t)

/-- The tile check of Table 2.6 for a pass command: go, wait or AE_TILE. -/
def CoreState.tileGate (k : CoreState) (q : QEntry) : Option Bool :=
  let t := pcTile q.slot
  match (k.tile t).st, decide (pcAcc q.slot = 2) with
  | .empty, false => some true
  | .empty, true => none
  | .full, true => some true
  | .full, false => if k.earlierDrain t q.id then some false else none
  | _, _ => some false

/-- A staged command executes, or waits staged behind the one that does (Table 5.9). -/
def CoreState.addPass (k : CoreState) (r : PassRun) : CoreState :=
  match k.pass with
  | none => { k with pass := some r }
  | some _ => { k with nextPass := some r }

/-- The command takes its tile and is staged (R37 to R45). -/
def State.takeTile (s : State) (c : Nat) (q : QEntry) (x : HeadXlat) : State :=
  let w := q.slot
  let t := pcTile w
  let m0 := s.mac c (x.macs.headD 0)
  let wlog := m0.wfmt.toNat
  let ts := match pcAcc w with
    | 0 => 0
    | 1 => pcPreShift w
    | _ => ((s.core c).tile t).tshift
  let k := s.core c
  let tile2 : Tile := { st := .filling, spec := pcMask w || (decide (pcAcc w = 2) && (k.tile t).spec), tshift := ts }
  let s0 := s.setCore c ({ k.setTile t tile2 with xlat := none }.updEntry q.id fun e => { e with st := .executing })
  let s1 := s0.traceEv c 1 q.tag (slotNum .aePass) 1 0
  match s1.stageAll c q wlog m0.sparse ts with
  | .error f => s1.passFail c q wlog 0 false f
  | .ok g =>
    let r : PassRun := { id := q.id, before := k.tile t, phase := .staged, macs := x.macs, wlog := wlog, sparse := m0.sparse,
                         attempt := 0, staged := g.xs, sats := g.sats, satAny := decide (g.sats ≠ 0), maskOff := g.off,
                         baseVal := g.val, baseSt := g.st, decided := [], planes := 0, stopped := [], ahsrc := x.ahsrc,
                         exitTab := match g.exits with
                           | some e => e.entries
                           | none => [] }
    s1.updCore c fun k => { k.addPass r with exits := match g.exits with
                              | some e => some e
                              | none => k.exits }

/-- PASS_CMD_AT_HEAD (R33): fields, map, block, operands, then the tile. -/
def execPassCmdAtHead (c : CoreId) (s : State) : Out :=
  let k := s.core c
  .next (match k.nextStart .aePass with
    | none => s
    | some q =>
      let fail := fun f : Byte => s.updCore c fun k => { k with xlat := none }.finish q.id f 0 0
      let judged : Except Byte HeadXlat :=
        match k.xlat.filter fun x => x.id = q.id with
        | some x => .ok x
        | none =>
          if passFieldBad q.slot then .error fAeField
          else match k.translate (pcMb q.slot) (pcK q.slot * pcN q.slot) with
            | none => .error fAeMap
            | some ms =>
              let bf := s.blockFault c ms (pcN q.slot)
              if bf ≠ 0 then .error bf
              else
                let m0 := s.mac c (ms.headD 0)
                let op := s.checkOps c false (passOperands q m0.wfmt.toNat m0.sparse)
                if op ≠ 0 then .error op else .ok { id := q.id, macs := ms, ahsrc := k.w32 ahsrcAddr }
      match judged with
      | .error f => fail f
      | .ok x =>
        match k.tileGate q with
        | none => fail fAeTile
        | some false => s.setCore c { k with xlat := some x }
        | some true => s.takeTile c q x)

/-- The queue entry of the pass command that runs. -/
def CoreState.passEntry (k : CoreState) : Option (PassRun × QEntry) :=
  match k.pass with
  | none => none
  | some r =>
    match k.queue.find? fun q => q.id = r.id with
    | none => none
    | some q => some (r, q)

/-- PASS_RELEASE (R40, R292): the block's macros start together once they fit within the die's allowance, unless a repair or an
earlier row write holds one (R26, R28). A macro that has left ARMED, or that a waiting write of STATE takes out of it, faults the command
with MACRO_STATE, and its tile is as it was (Table 1.14, R33). That the rise in power stays within the envelope is the event's own
condition. -/
def execPassRelease (c : CoreId) (s : State) : Out :=
  .next (match (s.core c).passEntry with
    | some (r, q) =>
      let held := r.macs.any fun m => let x := s.mac c m; x.repairBusy || !x.held.isEmpty || x.passActive
      let d := coreDie c
      if r.phase ≠ .staged then s
      else if r.macs.any fun m => decide ((s.mac c m).st ≠ .armed) || (s.mac c m).leaving then
        s.updCore c fun k => ((k.setTile (pcTile q.slot) r.before).passOver).finish q.id fMacroState 0 0
      else if held = false ∧ s.runningMacros d + r.macs.length ≤ (s.die d).allowance then
        let s1 := r.macs.foldl (fun s m => s.updMac c m fun x => { x with passActive := true }) s
        s1.updCore c fun k => { k with pass := some { r with phase := .running } }
      else s
    | none => s)

/-- PLANE_COMPLETE (R46). -/
def execPlaneComplete (c : CoreId) (s : State) : Out :=
  .next (match (s.core c).passEntry with
    | some (r, q) =>
      if r.phase = .running ∧ r.planesOver q.slot = false then
        let p := planeNow q.slot r.planes
        let r1 := { r with planes := r.planes + 1 }
        let r2 := if pcExit q.slot ≠ 0 ∧ p ≠ 0 then
            s.evalExit c r1 q.slot ((s.core c).tile (pcTile q.slot)).tshift p
          else r1
        s.updCore c fun k => { k with pass := some r2 }
      else s
    | none => s)

/-- TILE_FINISH (R41, R50, R51, R53, R55, Table 2.10). -/
def execTileFinish (c : CoreId) (s : State) : Out :=
  .next (match (s.core c).passEntry with
    | some (r, q) =>
      if r.phase = .running ∧ r.planesOver q.slot then
        let w := q.slot
        let lp := r.lanesPer
        let per := lp / 16
        let bad := (List.range (pcN w)).flatMap fun n => (List.range (pcK w)).flatMap fun k =>
          (s.badGroups c r w n k).map fun g => (n, r.mac w n k, g.1, g.2)
        let inv := fun i => bad.any fun b => decide (b.1 = i / lp) && decide (b.2.2.1 = i % lp / per)
        let f := s.finishTile c r w inv
        if bad = [] ∧ f.2 ≠ 0 ∧ pcRetry w ∧ r.attempt < 2 then
          s.updCore c fun k => { k with pass := some { r with phase := .retryDue } }
        else s.passDone c q r (bad.map fun b => (b.2.1, b.2.2.1, b.2.2.2)) f.2 f.1
      else s
    | none => s)

/-- RETRY_RESTART (R50): TSHIFT one higher, the base restored, every pass of the block run again. EXITED and EARLY_END tell of the last
attempt, SAT of any (assumption log 146). -/
def execRetryRestart (c : CoreId) (s : State) : Out :=
  .next (match (s.core c).passEntry with
    | some (r, q) =>
      if r.phase = .retryDue then
        let t := pcTile q.slot
        let ts := ((s.core c).tile t).tshift + 1
        let s1 := s.updCore c fun k => k.setTile t { (k.tile t) with tshift := ts }
        match s1.stageAll c q r.wlog r.sparse ts with
        | .error f => r.macs.foldl (fun s m => s.passEnds c m)
            ((s1.updCore c CoreState.passOver).passFail c q r.wlog (r.attempt + 1) r.satAny f)
        | .ok g =>
          let r1 := { r with phase := .running, attempt := r.attempt + 1, staged := g.xs, sats := g.sats,
                             satAny := r.satAny || decide (g.sats ≠ 0), maskOff := g.off, baseVal := g.val, baseSt := g.st,
                             decided := [], planes := 0, stopped := [] }
          s1.updCore c fun k => { k with pass := some r1 }
      else s
    | none => s)

/-- A spare macro of a core: OFFLINE, not under test, mapped by no AMMAP entry (R56). -/
def State.spareMacro (s : State) (c : Nat) : Option Nat :=
  let mapped := (List.range 64).filterMap fun j => (s.core c).ammap j
  (List.range 72).find? fun m => decide ((s.mac c m).st = .offline) && !(s.mac c m).underTest && !mapped.contains m

/-- A spare loaded from the weight shadow with the failed macro's configuration and armed (R56 step 2). -/
def State.loadSpare (s : State) (c failed spare : Nat) : State :=
  let f := s.mac c failed
  let s1 := (s.updMac c spare fun m =>
    { (m.writeState .repair s.free .loading) with wfmt := f.wfmt, sparse := f.sparse, mgsel := f.mgsel, mcoef := f.mcoef }).bump
  let keys := Sparse.inRange s1.ext.shadow (shadowKey c failed 0) 4096
  let s2 := keys.foldl (fun s e =>
    let row := e.1 - shadowKey c failed 0
    (s.updMac c spare fun m => m.store .loader row 0xFFFF e.2 0).putShadow c spare row e.2) s1
  s2.updMac c spare fun m => m.writeState .repair s.free .armed

/-- AMMAP_WRITE (R32, Table 2.1): by the hub; a reserved PHYS keeps the field. -/
def execAmmapWrite (c : CoreId) (j : Fin 64) (v : Byte) (s : State) : Out :=
  .next (s.winWrite c true .loader (0x040C0000 + j.val) [v])

/-- TILE_WINDOW_WRITE (R43, Table 2.6): LE, SE and VE alone; it waits in FILLING and DRAINING. -/
def execTileWindowWrite (c : CoreId) (e : Eng) (addr : BitVec 30) (data : List Byte) (s : State) : Out :=
  let a := addr.toNat
  .next (if (e = .le ∨ e = .se ∨ e = .ve) ∧ 0x04000000 ≤ a ∧ a + data.length ≤ 0x04022000 then
      (if (s.core c).writeWaits a data.length then s else s.winWrite c false .program a data)
    else s.answer fSpAddr.toNat [])

/-- MARK_FULL (R42, Table 2.8): a TDESC write of MARK_FULL beside the descriptor's present SPEC and TSHIFT. -/
def execMarkFull (c : CoreId) (t : TileId) (s : State) : Out :=
  .next (s.updCore c fun k =>
    let x := k.tile t
    k.setTile t (x.write (x.desc % 2 ^ 30 + 2 ^ 29) true))

/-- TDESC_WRITE (R42, Table 2.8). -/
def execTdescWrite (c : CoreId) (t : TileId) (v : W32) (s : State) : Out :=
  .next (s.updCore c fun k => k.setTile t ((k.tile t).write v.toNat true))

/-- RMCFG_WRITE (R52). -/
def execRmcfgWrite (c : CoreId) (ctx : Fin 16) (v : W32) (s : State) : Out :=
  .next (s.updCore c fun k => k.writeRmcfg ctx v true)

/-- VSF_WRITE (R75). -/
def execVsfWrite (c : CoreId) (i : Fin 64) (scale : W32) (s : State) : Out := .next (s.updCore c fun k => k.writeVsf i scale)

/-- AHCFG_WRITE (R82). -/
def execAhcfgWrite (c : CoreId) (t : Fin 32) (v : W32) (s : State) : Out := .next (s.updCore c fun k => k.writeAhcfg t v)

/-- RESCALE_TABLE_WRITE (R74): waits while either tile is DRAINING. -/
def execRescaleTableWrite (c : CoreId) (i : Fin 16384) (v : W32) (s : State) : Out :=
  .next (if (s.core c).writeWaits (0x04060000 + 4 * i.val) 4 then s
    else s.winWrite c false .program (0x04060000 + 4 * i.val) (leBytes 4 v.toNat))

/-- OUTPUT_TABLE_WRITE (R90, R176): activation tables, ACOEF sets and BN tables. -/
def execOutputTableWrite (c : CoreId) (addr : BitVec 30) (data : List Byte) (s : State) : Out :=
  let a := addr.toNat
  let ok := (0x04074000 ≤ a ∧ a + data.length ≤ 0x04075100) ∨ (0x04080000 ≤ a ∧ a + data.length ≤ 0x04082080)
  .next (if ok then (if (s.core c).writeWaits a data.length then s else s.winWrite c false .program a data) else s.answer fSpAddr.toNat [])

end Sys2Proof.Machine
end

