-- ==== Sys2Proof/Machine/Commons.lean ====
section
/-! DEFINITION. The hub's memories: owners, the commons regions of partitions, byte access (R200 to R204), and the partition's
LPDDR6 region. -/

namespace Sys2Proof.Machine

/-- Numbers of the requesters of R201, in their fixed order. -/
def agentNum : HubAgent → Nat
  | .island => 0 | .powerControl => 1 | .scheduler => 2 | .commandProcessor => 3 | .mergeTree => 4 | .loader => 5
  | .fabric _ => 6 | .management => 7

/-- Key of a memory with an OWNER field (Table 9.2). -/
def memKey : CtlMem → Nat
  | .streamTable => 0 | .tenantTable => 1 | .partitionTable => 2 | .ringContexts => 3 | .creditPools => 4
  | .commonsBank k => 5 + k.val

/-- Owner after reset (Table 9.2): an agent number for a control memory, none for a commons bank. -/
def ownerReset (key : Nat) : Option Nat :=
  match key with
  | 0 => some 3 | 1 => some 2 | 2 => some 0 | 3 => some 3 | 4 => some 2 | _ => none

def Hub.owner (h : Hub) (key : Nat) : Option Nat := Sparse.get h.owners (ownerReset key) key
def Hub.setOwner (h : Hub) (key : Nat) (v : Option Nat) : Hub :=
  { h with owners := Sparse.set h.owners (ownerReset key) key v }

/-- The commons banks a partition owns, ascending (R204). -/
def Hub.banks (h : Hub) (p : Nat) : List Nat := (List.range 64).filter fun k => h.owner (5 + k) = some p

/-- Bytes of a partition's commons region. -/
def Hub.commonsSize (h : Hub) (p : Nat) : Nat := (h.banks p).length * 0x400000

/-- The commons address of a byte offset of a region (R204). -/
def Hub.commonsAddr (h : Hub) (p o : Nat) : Nat :=
  let bs := h.banks p
  let w := o / 64
  bs.getD (w % bs.length) 0 * 0x400000 + w / bs.length * 64 + o % 64

def Hub.commonsGet (h : Hub) (p o : Nat) : Nat → List Byte
  | 0 => []
  | n + 1 => Memory.read h.commons (h.commonsAddr p o) :: h.commonsGet p (o + 1) n

def Hub.commonsPut (h : Hub) (p o : Nat) : List Byte → Hub
  | [] => h
  | b :: bs => Hub.commonsPut { h with commons := Memory.write h.commons (h.commonsAddr p o) b } p (o + 1) bs

/-- A little-endian value of the region. -/
def Hub.commonsNum (h : Hub) (p o n : Nat) : Nat := leNat (h.commonsGet p o n)

/-- A partition's LPDDR6 region as bytes. -/
def ExtMem.regionOf (e : ExtMem) (p : Nat) : Memory := Sparse.get e.region [] p
def ExtMem.setRegion (e : ExtMem) (p : Nat) (m : Memory) : ExtMem := { e with region := Sparse.set e.region [] p m }

/-! ### Poison (R338, R340, R343, R344) -/

/-- The channel of a byte offset of a region or an HDM space: 256-byte blocks in turn (R340; every base is a multiple of 4 KiB). -/
def chanOf (a : Nat) : Nat := a / 256 % 16
def ExtMem.chan (e : ExtMem) (c : Nat) : ChanState := Sparse.get e.chans ChanState.reset c
def ExtMem.setChan (e : ExtMem) (c : Nat) (v : ChanState) : ExtMem := { e with chans := Sparse.set e.chans ChanState.reset c v }

/-- Whether the 64-byte unit of an offset is poisoned; `listed` holds the units that differ from their channel's state. -/
def ExtMem.unitBad (e : ExtMem) (listed : Sparse Bool) (a : Nat) : Bool :=
  let c := e.chan (chanOf a)
  decide (c.st = .failed) || Sparse.get listed c.hasFailed (a / 64)

/-- The units of a write are poisoned no longer. -/
def ExtMem.cleanUnits (e : ExtMem) (listed : Sparse Bool) (a n : Nat) : Sparse Bool :=
  if n = 0 then listed
  else (List.range ((a + n - 1) / 64 + 1 - a / 64)).foldl (fun l i =>
    let u := a / 64 + i
    Sparse.set l (e.chan (chanOf (64 * u))).hasFailed u false) listed

def ExtMem.badOf (e : ExtMem) (p : Nat) : Sparse Bool := Sparse.get e.bad [] p

/-- Bytes written to a partition's region. -/
def ExtMem.putRegion (e : ExtMem) (p a : Nat) (bs : List Byte) : ExtMem :=
  { e.setRegion p (Memory.writeL (e.regionOf p) a bs) with bad := Sparse.set e.bad [] p (e.cleanUnits (e.badOf p) a bs.length) }

/-- Whether a read of a region meets a poisoned unit. -/
def ExtMem.readBad (e : ExtMem) (p a n : Nat) : Bool :=
  decide (0 < n) && (List.range ((a + n - 1) / 64 + 1 - a / 64)).any fun i => e.unitBad (e.badOf p) (64 * (a / 64 + i))

end Sys2Proof.Machine
end

