-- ==== Sys2Proof/Machine/Route.lean ====
section
/-! DEFINITION. The Kraox router: device IDs, credits, retry, dimension-ordered routes, bypasses and tree messages (R302 to R311, R317,
R318). -/

namespace Sys2Proof.Machine

/-! ### Device IDs and extents (R6, OD 7100.01, OD 7100.02) -/

/-- The low 13 bits of OD 7100.01, which holds any value written (assumption log 139). -/
def State.devId (s : State) : Nat := s.mgmt.obj 0x7100 1 % 8192
/-- A coordinate of an ID: X, Y, Z for dimensions 0, 1, 2. -/
def devCoord (d dim : Nat) : Nat := match dim with | 0 => d / 256 % 32 | 1 => d / 16 % 16 | _ => d % 16
/-- The extent of a dimension, as written: Y and Z extents above 16 are not refused (assumption log 139). -/
def State.extent (s : State) (dim : Nat) : Nat :=
  let v := s.mgmt.obj 0x7100 2
  (match dim with | 0 => bits v 14 10 | 1 => bits v 9 5 | _ => bits v 4 0) + 1
def State.inExtent (s : State) (d : Nat) : Bool := (List.range 3).all fun m => decide (devCoord d m < s.extent m)

/-! ### Ports -/

def State.port (s : State) (p : Nat) : Port := Sparse.get s.kraox.ports Port.reset p
def State.setPort (s : State) (p : Nat) (v : Port) : State := s.updKraox fun k => { k with ports := Sparse.set k.ports Port.reset p v }
def State.updPort (s : State) (p : Nat) (f : Port → Port) : State := s.setPort p (f (s.port p))

def Port.half (x : Port) (h : Bool) : HalfLink := if h then x.h1 else x.h0
def Port.setHalf (x : Port) (h : Bool) (v : HalfLink) : Port := if h then { x with h1 := v } else { x with h0 := v }
/-- A port whose next hop is not down: UP or HALF (R321). -/
def Port.live (x : Port) : Bool := decide (x.st = .up) || decide (x.st = .half)
/-- A half that carries flits: trained and not retraining (R301). -/
def HalfLink.carries (h : HalfLink) : Bool := h.up && !h.training
def Port.carries (x : Port) : Bool := x.live && (x.h0.carries || x.h1.carries)
/-- Width of a half-link by its good active lanes (Table 13.2). -/
def halfWidth (good : Nat) : Nat := if 16 ≤ good then 16 else if 8 ≤ good then 8 else 0

/-- The die of a half-link (Table 13.1). -/
def kxDie (p : Nat) (half : Bool) : Nat :=
  match p, half with
  | 0, false => 11 | 0, true => 16 | 1, false => 3 | 1, true => 8 | 2, false => 18 | 2, true => 19
  | 3, false => 0 | 3, true => 1 | 4, false => 2 | 4, true => 7 | _, false => 12 | _, true => 17

/-! ### Credits and transmission (R303, R304, R311) -/

/-- Flits an input buffer holds: VC × 2 + class. -/
def bufSize (b : Nat) : Nat := match b / 2 with | 0 => 256 | 1 => 256 | 2 => 128 | _ => 16
def flitBuf (f : Flit) : Nat := 2 * f.vc.toNat + bitAt f.dcl 0
def Port.credit (x : Port) (b : Nat) : Nat := Sparse.get x.credits (bufSize b) b
def Port.addCredit (x : Port) (b n : Nat) : Port :=
  { x with credits := Sparse.set x.credits (bufSize b) b (min (bufSize b) (x.credit b + n)) }

/-- A link flit of a kind, with the last SEQ received intact. -/
def Port.linkFlit (x : Port) (kind : Nat) (src : Nat) : Flit where
  fecOk := true
  crcOk := true
  seq := x.txSeq
  ack := x.rxSeq
  kind := BitVec.ofNat 4 kind
  vc := 0
  dcl := false
  cbuf := 0
  cred := 0
  dst := 0
  src := BitVec.ofNat 13 src
  job := 0
  ordered := false
  detour := false
  tree := false
  op := 0
  msg := 0
  payload := []

/-- One credit returned for an input buffer, in a flit of its own. -/
def Port.giveCredit (x : Port) (b : Nat) : Port :=
  if x.carries then { x with tx := x.tx ++ [{ x.linkFlit 2 0 with cbuf := BitVec.ofNat 3 b, cred := 1 }] } else x

/-- Whether a waiting flit may be sent: a credit for its buffer at the next hop, and room in the retry buffer. -/
def Port.maySend (x : Port) (f : Flit) : Bool := x.carries && decide (0 < x.credit (flitBuf f)) && decide (x.unacked.length < 2048)

/-- A data flit sent: the next SEQ, into the retry buffer. -/
def Port.sendOne (x : Port) (f : Flit) : Port :=
  let q := x.txSeq + 1
  let g : Flit := { f with seq := q, ack := x.rxSeq }
  { x with txSeq := q, unacked := x.unacked ++ [g], tx := x.tx ++ [g],
           credits := Sparse.set x.credits (bufSize (flitBuf f)) (flitBuf f) (x.credit (flitBuf f) - 1) }

/-- Waiting flits sent in order, each as soon as it may be; a transit flit that leaves returns the credit of the buffer it held. -/
def State.pumpGo (s : State) (p : Nat) : List WaitFlit → State
  | [] => s
  | w :: rest =>
    let x := s.port p
    if x.maySend w.flit then
      let s1 := s.setPort p { x.sendOne w.flit with waiting := x.waiting.erase w }
      (match w.from_ with
        | some (q, b) => s1.updPort q fun y => y.giveCredit b
        | none => s1).pumpGo p rest
    else s.pumpGo p rest

/-- What waits at a port goes out, management flits first (R311). -/
def State.pump (s : State) (p : Nat) : State :=
  let w := (s.port p).waiting
  s.pumpGo p ((w.filter fun x => x.flit.vc = 3) ++ w.filter fun x => x.flit.vc ≠ 3)

/-! ### Routes (R305, R307, R309, R310) -/

def portDim (p : Nat) : Nat := p / 2
/-- Port of a direction: the plus port of a dimension is even. -/
def dirPort (dim : Nat) (plus : Bool) : Nat := 2 * dim + if plus then 0 else 1

/-- The dimension-ordered next port toward a device, none when it is this one. -/
def State.nextPort (s : State) (f : Flit) : Option Nat :=
  let me := s.devId
  let dst := f.dst.toNat
  match (List.range 3).find? fun m => devCoord dst m ≠ devCoord me m with
  | none => none
  | some m =>
    let n := s.extent m
    let up := (devCoord dst m + n - devCoord me m) % n
    let down := n - up
    let plus :=
      if up < down then true
      else if down < up then false
      else if f.ordered then true
      else
        let c := fun p : Nat => (s.port p).credit (2 * f.vc.toNat) + (s.port p).credit (2 * f.vc.toNat + 1)
        decide (c (dirPort m false) ≤ c (dirPort m true))
    some (dirPort m plus)

/-- Whether the hop out of a port is the wrap link of its ring. -/
def State.wraps (s : State) (p : Nat) : Bool :=
  let m := portDim p
  if p % 2 = 0 then decide (devCoord s.devId m + 1 = s.extent m) else decide (devCoord s.devId m = 0)

/-- The dateline class on a hop: 0 on injection and on a turn, 1 from the wrap link on (R305). -/
def State.classOf (s : State) (f : Flit) (from_ : Option Nat) (out : Nat) : Bool :=
  let keep := match from_ with
    | some q => f.dcl && decide (portDim q = portDim out)
    | none => false
  keep || s.wraps out

/-- Where a flit goes: a port with its class and DETOUR, or nowhere. A flit that came in with DETOUR set goes straight on or resumes
dimension order: it does not carry the hops left, so which of the two is free. -/
def State.hop (s : State) (f : Flit) (from_ : Option Nat) : Option (Nat × Bool × Bool) :=
  let straight := match from_ with
    | some q => if f.detour ∧ Config.freeNat s.free % 2 = 1 then some (if q % 2 = 0 then q + 1 else q - 1) else none
    | none => none
  match straight with
  | some p => if (s.port p).live then some (p, s.classOf f from_ p, true) else none
  | none => match s.nextPort f with
    | none => none
    | some p =>
      if (s.port p).live then some (p, s.classOf f from_ p, f.detour)
      else if f.detour then none
      else match s.kraox.bypass.find? fun b => decide (b.trigger = p) && decide (b.leaving = p) with
        | none => none
        | some b => if (s.port b.detour).live then some (b.detour, b.dcl, true) else none

/-- A flit queued at its next hop; false when it has none. -/
def State.queueFlit (s : State) (f : Flit) (from_ : Option (Nat × Nat)) : State × Bool :=
  if s.inExtent f.dst.toNat = false then (s, false)
  else match s.hop f (from_.map (·.1)) with
    | none => (s.bump, false)
    | some (p, cls, det) =>
      let w : WaitFlit := { flit := { f with dcl := cls, detour := det }, from_ := from_ }
      ((s.bump.updPort p fun x => { x with waiting := x.waiting ++ [w] }).pump p, true)

def State.countDiscard (s : State) : State := s.updKraox fun k => { k with discards := k.discards + 1 }

/-- The UNREACHABLE that answers a discarded SEND data flit or collective chunk. -/
def unreachable (f : Flit) (me : Nat) : Flit :=
  { f with dst := f.src, src := BitVec.ofNat 13 me, vc := 1, ordered := false, detour := false, tree := false, op := 0x09, payload := [] }

/-- A flit injected or forwarded; one without a next hop is discarded, and counted or answered (R310). The buffer of a discarded
transit flit is free at once. -/
def State.dispatchFlit (s : State) (f : Flit) (from_ : Option (Nat × Nat)) : State :=
  match s.queueFlit f from_ with
  | (s1, true) => s1
  | (s1, false) =>
    let s2 := match from_ with
      | some (q, b) => s1.updPort q fun y => y.giveCredit b
      | none => s1
    if (f.op = 1 ∨ f.op = 3) ∧ s.inExtent f.dst.toNat ∧ f.src.toNat ≠ s.devId then
      match s2.queueFlit (unreachable f s.devId) none with
      | (s3, true) => s3
      | (s3, false) => s3.countDiscard
    else s2.countDiscard

/-! ### Tree messages (R313, R317, R318, R324) -/

/-- The job state of OD 7200.0A; each change is an EVENT (R363). -/
def State.setJobState (s : State) (v : Nat) : State :=
  if s.kraox.jobState = v then s else (s.updKraox fun k => { k with jobState := v }).event (BitVec.ofNat 8 v) 0x7200 0x0A 0

def State.job (s : State) : Nat := s.mgmt.obj 0x7200 1
def Kraox.tree (k : Kraox) (g : Nat) : Option Tree := k.trees.find? fun t => t.group = g
/-- Tree neighbours of a group: parent and children. -/
def Tree.nbrs (t : Tree) : List Nat := t.parent.toList ++ t.children
def Kraox.nbrs (k : Kraox) (g : Nat) : List Nat := ((k.tree g).map Tree.nbrs).getD []

/-- A message of this device's job to a tree neighbour. -/
def State.treeFlit (s : State) (vc : BitVec 2) (op : Byte) (to_ : Nat) (msg : W64) (payload : List Byte) : Flit :=
  { Port.reset.linkFlit 1 s.devId with
    vc := vc, op := op, dst := BitVec.ofNat 13 to_, job := BitVec.ofNat 16 s.job, ordered := decide (vc = 3), tree := true, msg := msg,
    payload := payload }

def State.sendTree (s : State) (vc : BitVec 2) (op : Byte) (tos : List Nat) (msg : W64) (payload : List Byte) : State :=
  tos.foldl (fun s d => s.dispatchFlit (s.treeFlit vc op d msg payload) none) s

/-! ### Torus barriers (R317, R293) -/

/-- A torus barrier completes on this device: the start ramp is held when RPHASE is not 0 (R293), pace ceilings end (R295). -/
def State.barrierOver (s : State) : State :=
  let s1 := s.updKraox fun k => { k with rampHold := k.rampHold || decide (s.mgmt.obj 0x7200 5 ≠ 0) }
  (List.range 21).foldl (fun s d => s.updDie d fun x => { x with paceCeil := 7 }) s1

/-- A release of group g comes down: the barrier's members may complete, and the children get it. -/
def State.torusRelease (s : State) (g : Nat) : State :=
  let s1 := s.updHub fun h => { h with barriers := h.barriers.map fun b => if b.torus ∧ b.bid = g ∧ b.sentUp then { b with released := true } else b }
  let kids := ((s.kraox.tree g).map (·.children)).getD []
  (s1.sendTree 2 0x05 kids (Config.msgWord 5 g 0 0) []).barrierOver

/-- Whether a torus barrier's arrival may go up: every member core and every child has arrived. -/
def Barrier.allHere (b : Barrier) (t : Tree) : Bool :=
  b.torus && !b.sentUp && (b.members.all fun m => decide (m ∈ b.arrived)) && t.children.all fun c => decide (c ∈ b.kids)

/-- Whether a barrier's partition holds TORUS (R225); one without the right takes no part in the job's barriers (assumption log 161). -/
def Hub.torusRight (h : Hub) (b : Barrier) : Bool := h.programs.any fun g => decide (g.handle = b.prog) && h.right g.part 1

/-- The arrival of group g sent to the parent once complete; the root sends the release. -/
def State.torusUp (s : State) (g : Nat) : State :=
  match s.kraox.tree g with
  | none => s
  | some t =>
    if s.hub.barriers.any fun b => decide (b.bid = g) && b.allHere t && s.hub.torusRight b then
      let s1 := s.updHub fun h => { h with barriers := h.barriers.map fun b =>
        if b.bid = g ∧ (b.allHere t = true) ∧ (h.torusRight b = true) then { b with sentUp := true } else b }
      match t.parent with
      | some p => s1.sendTree 2 0x04 [p] (Config.msgWord 4 g 0 0) []
      | none => s1.torusRelease g
    else s

/-- A child's arrival. -/
def State.torusKid (s : State) (g child : Nat) : State :=
  (s.updHub fun h => { h with barriers := h.barriers.map fun b =>
    if b.torus ∧ b.bid = g ∧ child ∉ b.kids then { b with kids := b.kids ++ [child] } else b }).torusUp g

end Sys2Proof.Machine
end

