-- ==== Sys2Proof/Machine/Scalar.lean ====
section
/-! DEFINITION. The scalar slot (R108, R111, R112, Tables 5.5 to 5.7). A scalar command acts while the control core issues (R107, R127,
R129). -/

namespace Sys2Proof.Machine

/-- A scalar instruction of the S slot: opcode, registers, immediate. -/
structure ScalarOp where
  opc : Nat
  xd  : Nat
  xa  : Nat
  xb  : Nat
  imm : W32
  deriving DecidableEq, Repr

/-- Sign extension of a 32-bit immediate. -/
def sext32 (v : W32) : W64 := v.signExtend 64

/-- The result of a three-register operation (Table 5.6). -/
def aluResult (opc : Nat) (a b : W64) : W64 :=
  match opc with
  | 0x01 => a + b
  | 0x02 => a - b
  | 0x03 => a &&& b
  | 0x04 => a ||| b
  | 0x05 => a ^^^ b
  | 0x06 => a <<< (b.toNat % 64)
  | 0x07 => a >>> (b.toNat % 64)
  | 0x08 => a.sshiftRight (b.toNat % 64)
  | 0x09 => a * b
  | 0x0A => if a.slt b then a else b
  | _ => if a.slt b then b else a

/-- Whether a branch is taken. -/
def branchTaken (opc : Nat) (a b : W64) : Bool :=
  match opc with
  | 0x20 => a == b
  | 0x21 => a != b
  | 0x22 => a.slt b
  | 0x23 => !(a.slt b)
  | _ => true

/-- A control and status register as CSRR reads it (Table 5.7); numbers not listed read 0. CYCLE and TSTAMP are times and so free. -/
def CoreState.csr (k : CoreState) (c : Nat) (n : Nat) (draw : Nat) : W64 :=
  if n = 0 then BitVec.ofNat 64 c
  else if n = 1 then BitVec.ofNat 64 k.part
  else if n = 2 then k.stepno.setWidth 64
  else if n = 4 then Config.freeW64 draw
  else if n = 5 then (Config.freeW32 draw).setWidth 64
  else if n = 8 then k.flags
  else if 0x10 ≤ n ∧ n < 0x30 then BitVec.ofNat 64 (k.getAc (n - 0x10))
  else if 0x30 ≤ n ∧ n < 0x50 then BitVec.ofNat 64 (k.getAcexp (n - 0x30))
  else if 0x50 ≤ n ∧ n < 0x90 then BitVec.ofNat 64 (k.getTok (n - 0x50))
  else if n = 0x90 then k.cto.setWidth 64
  else if n = 0x91 then k.trccfg.setWidth 64
  else if 0xA0 ≤ n ∧ n < 0xA8 then Sparse.get k.lastcr 0 (n - 0xA0)
  else 0

/-- CSRW (Table 5.7): read-only and unlisted numbers ignore it; a write of ACi clears its debt and sets NOREPLAY (R154). -/
def CoreState.csrWrite (k : CoreState) (n : Nat) (v : W64) : CoreState :=
  if n = 8 then { k with flags := v }
  else if 0x10 ≤ n ∧ n < 0x30 then { (k.putAc (n - 0x10) (fld v 23 0)).putDebt (n - 0x10) 0 with noReplay := true }
  else if 0x30 ≤ n ∧ n < 0x50 then k.putAcexp (n - 0x30) (fld v 23 0)
  else if n = 0x90 then { k with cto := v.setWidth 32 }
  else if n = 0x91 then { k with trccfg := v.setWidth 32 &&& 0x3F }
  else k

/-- DONE (R112): fetching stops; the result code and tag wait for the drain. -/
def CoreState.doneIssue (k : CoreState) (tag : BitVec 16) (code : W64) : CoreState :=
  { k with doneReq := some (tag, code.setWidth 16) }

/-- A branch taken: the next word's address, or CORE_FETCH for a target outside the bank of 65,536 words (R111). -/
def CoreState.branch (k : CoreState) (o : ScalarOp) (tag : BitVec 16) (addr : W32) : CoreState :=
  if fld o.imm 31 16 = 0 then { k with pc := fld o.imm 15 0 } else k.coreFault fCoreFetch tag addr 0

/-- The scalar slot's effect on the core. `tag` and `addr` are the word's; a branch sets the next word's address. -/
def CoreState.runScalar (k : CoreState) (c : Nat) (o : ScalarOp) (tag : BitVec 16) (addr : W32) (draw : Nat) : CoreState :=
  let a := k.getX o.xa
  let b := k.getX o.xb
  if o.opc = 0 then k
  else if o.opc ≤ 0x0B then k.putX o.xd (aluResult o.opc a b)
  else if o.opc = 0x10 then k.putX o.xd (a + sext32 o.imm)
  else if o.opc = 0x11 then k.putX o.xd (sext32 o.imm)
  else if o.opc = 0x12 then k.putX o.xd (BitVec.ofNat 64 (o.imm.toNat * 2 ^ 32 + fld (k.getX o.xd) 31 0))
  else if o.opc ≤ 0x24 then (if branchTaken o.opc a b then k.branch o tag addr else k)
  else if o.opc = 0x25 then
    let v := a - 1
    let k1 := k.putX o.xa v
    if v ≠ 0 then k1.branch o tag addr else k1
  else if o.opc = 0x30 then k.putX o.xd (k.csr c (fld o.imm 11 0) draw)
  else if o.opc = 0x31 then k.csrWrite (fld o.imm 11 0) a
  else if o.opc = 0x32 then k.setFlag (fld o.imm 5 0)
  else if o.opc = 0x33 then k.clrFlag (fld o.imm 5 0)
  else if o.opc = 0x3D then k.coreFault fProgramTrap tag addr (BitVec.ofNat 64 (fld o.imm 15 0))
  else if o.opc = 0x3E then k.doneIssue tag a
  else k

/-- Whether CSRR draws a free value: CYCLE and TSTAMP. -/
def drawsFree (o : ScalarOp) : Bool := decide (o.opc = 0x30) && (decide (fld o.imm 11 0 = 4) || decide (fld o.imm 11 0 = 5))

/-- A scalar instruction executing on a core that issues; a drained core that issued DONE becomes IDLE. -/
def State.scalar (s : State) (c : Nat) (o : ScalarOp) (tag : BitVec 16) : State :=
  let k := s.core c
  if k.mayIssue then
    let s1 := s.setCore c (s.keepTrc c (k.runScalar c o tag (BitVec.ofNat 32 k.pc) s.free))
    (if drawsFree o then s1.bump else s1).settle c
  else s

def r3 (opc : Nat) (xd xa xb : BitVec 5) : ScalarOp := { opc := opc, xd := xd.toNat, xa := xa.toNat, xb := xb.toNat, imm := 0 }
def brOp (opc : Nat) (xa xb : BitVec 5) (t : BitVec 16) : ScalarOp :=
  { opc := opc, xd := 0, xa := xa.toNat, xb := xb.toNat, imm := t.setWidth 32 }

/-! ### Meanings (Table 5.6) -/

def execNop (c : CoreId) (s : State) : Out := .next (s.scalar c (r3 0 0 0 0) 0)
def execAdd (c : CoreId) (xd xa xb : BitVec 5) (s : State) : Out := .next (s.scalar c (r3 0x01 xd xa xb) 0)
def execSub (c : CoreId) (xd xa xb : BitVec 5) (s : State) : Out := .next (s.scalar c (r3 0x02 xd xa xb) 0)
def execAnd (c : CoreId) (xd xa xb : BitVec 5) (s : State) : Out := .next (s.scalar c (r3 0x03 xd xa xb) 0)
def execOr (c : CoreId) (xd xa xb : BitVec 5) (s : State) : Out := .next (s.scalar c (r3 0x04 xd xa xb) 0)
def execXor (c : CoreId) (xd xa xb : BitVec 5) (s : State) : Out := .next (s.scalar c (r3 0x05 xd xa xb) 0)
def execShl (c : CoreId) (xd xa xb : BitVec 5) (s : State) : Out := .next (s.scalar c (r3 0x06 xd xa xb) 0)
def execShr (c : CoreId) (xd xa xb : BitVec 5) (s : State) : Out := .next (s.scalar c (r3 0x07 xd xa xb) 0)
def execSra (c : CoreId) (xd xa xb : BitVec 5) (s : State) : Out := .next (s.scalar c (r3 0x08 xd xa xb) 0)
def execMul (c : CoreId) (xd xa xb : BitVec 5) (s : State) : Out := .next (s.scalar c (r3 0x09 xd xa xb) 0)
def execMin (c : CoreId) (xd xa xb : BitVec 5) (s : State) : Out := .next (s.scalar c (r3 0x0A xd xa xb) 0)
def execMax (c : CoreId) (xd xa xb : BitVec 5) (s : State) : Out := .next (s.scalar c (r3 0x0B xd xa xb) 0)
def execAddi (c : CoreId) (xd xa : BitVec 5) (imm : W32) (s : State) : Out :=
  .next (s.scalar c { r3 0x10 xd xa 0 with imm := imm } 0)
def execLi (c : CoreId) (xd : BitVec 5) (imm : W32) (s : State) : Out :=
  .next (s.scalar c { r3 0x11 xd 0 0 with imm := imm } 0)
def execLih (c : CoreId) (xd : BitVec 5) (imm : W32) (s : State) : Out :=
  .next (s.scalar c { r3 0x12 xd 0 0 with imm := imm } 0)
def execBeq (c : CoreId) (xa xb : BitVec 5) (target : BitVec 16) (s : State) : Out := .next (s.scalar c (brOp 0x20 xa xb target) 0)
def execBne (c : CoreId) (xa xb : BitVec 5) (target : BitVec 16) (s : State) : Out := .next (s.scalar c (brOp 0x21 xa xb target) 0)
def execBlt (c : CoreId) (xa xb : BitVec 5) (target : BitVec 16) (s : State) : Out := .next (s.scalar c (brOp 0x22 xa xb target) 0)
def execBge (c : CoreId) (xa xb : BitVec 5) (target : BitVec 16) (s : State) : Out := .next (s.scalar c (brOp 0x23 xa xb target) 0)
def execJmp (c : CoreId) (target : BitVec 16) (s : State) : Out := .next (s.scalar c (brOp 0x24 0 0 target) 0)
def execLoop (c : CoreId) (xa : BitVec 5) (target : BitVec 16) (s : State) : Out :=
  .next (s.scalar c { brOp 0x25 xa 0 target with xd := xa.toNat } 0)
def execCsrr (c : CoreId) (xd : BitVec 5) (csr : BitVec 12) (s : State) : Out :=
  .next (s.scalar c { r3 0x30 xd 0 0 with imm := csr.setWidth 32 } 0)
def execCsrw (c : CoreId) (csr : BitVec 12) (xa : BitVec 5) (s : State) : Out :=
  .next (s.scalar c { r3 0x31 0 xa 0 with imm := csr.setWidth 32 } 0)
def execFset (c : CoreId) (f : BitVec 6) (s : State) : Out := .next (s.scalar c { r3 0x32 0 0 0 with imm := f.setWidth 32 } 0)
def execFclr (c : CoreId) (f : BitVec 6) (s : State) : Out := .next (s.scalar c { r3 0x33 0 0 0 with imm := f.setWidth 32 } 0)
def execTrap (c : CoreId) (tag : BitVec 16) (detail : BitVec 16) (s : State) : Out :=
  .next (s.scalar c { r3 0x3D 0 0 0 with imm := detail.setWidth 32 } tag)
def execDone (c : CoreId) (tag : BitVec 16) (xa : BitVec 5) (s : State) : Out := .next (s.scalar c (r3 0x3E 0 xa 0) tag)

end Sys2Proof.Machine
end

