-- ==== Sys2Proof/Machine/Sync.lean ====
section
/-! DEFINITION. The sync slot: FENCE, WAIT, STEP, BARRIER and the queued ARRIVE, BPREP, OPHINT, NOP; neighbour arrivals (R116 to
R120, R150, R153, R281, R291). -/

namespace Sys2Proof.Machine

/-- Engines a FENCE mask names; 0 means all (Table 5.11). -/
def fenceEngs (mask : Nat) : List Eng := if mask % 256 = 0 then allEngs else allEngs.filter fun e => bit mask (engNum e)

/-- Every earlier command of the fenced engines has completed (Table 5.12). -/
def CoreState.fenceOpen (k : CoreState) (mask : Nat) : Bool := k.queue.all fun q => q.eng ∉ fenceEngs mask

/-- A FENCE that issues empties the gather buffers of the engines it covers (R137). -/
def CoreState.fenceFlush (k : CoreState) (mask : Nat) : CoreState := (fenceEngs mask).foldl (fun k e => k.flushPort (portOf e)) k

/-- A step may be marked when every earlier command has completed and its signals are raised. -/
def CoreState.stepOpen (k : CoreState) : Bool := k.queue.isEmpty && k.sigs.isEmpty

/-- The snapshot and the cleared ledgers of R153, taken after the word's own effects. A hub hold that waits for the mark takes effect
(R56, R158). -/
def CoreState.markStep (k : CoreState) (replay : Nat) : CoreState :=
  { k with snap := { x := k.x, flags := k.flags, acexp := k.acexp }, replayPc := replay, outLedger := [], consLedger := [],
           noReplay := false, barsDone := [], barsLeft := [], replays := 0, stepOr := [], checked := [],
           st := if k.holdAt ∧ k.st = .run then .held else k.st, hint := if k.holdAt then none else k.hint, holdAt := false }

/-- The step record's fields: STEPNO, STEPID and the per-class ORs (R118). -/
def CoreState.stepRecord (k : CoreState) (stepid : BitVec 16) : List Byte :=
  leBytes 4 k.stepno.toNat ++ leBytes 2 stepid.toNat ++ [0, 0] ++
    (List.range 8).flatMap fun e => leBytes 2 (Sparse.get k.stepOr 0 e).toNat

/-- Actions of a STEP before the word's scalar slot: the amax commit, STEPNO, the step record to the hub (R118). -/
def State.stepAct (s : State) (c : Nat) (tag stepid : BitVec 16) : State :=
  let k := (s.core c).commitAmax
  let k1 := { k with stepno := k.stepno + 1 }
  let s1 := (s.setCore c k1).updHub fun h => { h with steps := h.steps ++ [(c, k1.stepRecord stepid)] }
  s1.traceEv c 4 tag 5 6 (stepid.setWidth 32)

/-- The barrier of a core's program with number bid in a scope: package group or torus job. -/
def Hub.barrierOf (h : Hub) (c bid : Nat) (torus : Bool) : Option Barrier :=
  h.barriers.find? fun b => decide (b.bid = bid) && decide (c ∈ b.members) && (b.torus == torus)

/-- A core's arrival at a barrier (R119). -/
def State.barArrive (s : State) (c bid : Nat) (torus : Bool) : State :=
  let s1 := s.updHub fun h => { h with barriers := h.barriers.map fun b =>
    if b.bid = bid ∧ c ∈ b.members ∧ b.torus = torus ∧ c ∉ b.arrived then
      { b with arrived := b.arrived ++ [c], bpreps := b.bpreps.filter fun x => decide (x.1 ≠ c) } else b }
  if torus then s1.torusUp bid else s1

/-- Whether every member has arrived and, in torus scope, the release has come down. -/
def Barrier.open_ (b : Barrier) : Bool := if b.torus then b.released else b.members.all fun m => m ∈ b.arrived

/-- A member leaves an open barrier; the last one out clears it for its next use. -/
def Barrier.leave (b : Barrier) (c : Nat) : Barrier :=
  let l := b.left ++ [c]
  if b.members.all fun m => m ∈ l then { b with arrived := [], left := [], sentUp := false, kids := [], released := false }
  else { b with left := l }

/-- A core that comes to wait at a torus barrier of a blocked group is held like those that waited when it was blocked, and so are its
program's streams (R323). -/
def State.holdBlocked (s : State) (c : Nat) : State :=
  (s.hub.programs.filter fun g => decide (c ∈ g.lcores)).foldl (fun s g => s.holdProg g.handle) (s.updCore c CoreState.hold)

/-- The condition of a BARRIER, arriving first: already completed in the attempt being replayed, or every member has arrived. -/
def State.barrierTry (s : State) (c bid : Nat) (torus : Bool) : State × Bool :=
  let k := s.core c
  if bid ∈ k.barsLeft then (s.updCore c fun k => { k with barsLeft := k.barsLeft.erase bid }, true)
  else
    match s.hub.barrierOf c bid torus with
    | none => (s, false)
    | some b0 =>
      let waiting := decide (c ∈ b0.arrived) && !decide (c ∈ b0.left)
      let s1 := if waiting || decide (c ∈ b0.left) then s else s.barArrive c bid torus
      match s1.hub.barrierOf c bid torus with
      | none => (s1, false)
      | some b =>
        if b.open_ && !decide (c ∈ b.left) then
          let s2 := s1.updHub fun h => { h with barriers := h.barriers.map fun x => if x = b then b.leave c else x }
          (s2.updCore c fun k => { k with barsDone := k.barsDone ++ [bid] }, true)
        else if torus ∧ bid ∈ s1.kraox.blocked then (s1.holdBlocked c, false)
        else (s1, false)

/-! ### Meanings -/

/-- A queued sync command entering the SU queue and starting when the unit is idle. -/
def State.suEnter (s : State) (c : Nat) (tag : BitVec 16) (y : W64) : State :=
  if (s.core c).mayIssue ∧ (s.core c).room .su 1 then
    (s.updCore c fun k => k.enqueue .su tag (BitVec.ofNat 32 k.pc) (suSlot y) true).suStart c
  else s

def syncWord (opc rest : Nat) : W64 := BitVec.ofNat 64 (opc * 2 ^ 56 + rest)

/-- SYNC_NOP (Table 5.12). -/
def execSyncNop (c : CoreId) (s : State) : Out := .next (s.suEnter c 0 (syncWord 0 0))

/-- FENCE (Table 5.12): when its condition holds it only empties the gather buffers it covers; else the word waits. -/
def execFence (c : CoreId) (emask : Byte) (s : State) : Out :=
  .next (if (s.core c).mayIssue ∧ (s.core c).fenceOpen emask.toNat then s.updCore c fun k => k.fenceFlush emask.toNat else s)

/-- WAIT (Table 5.11): satisfied when the counter has come to VALUE; CONSUME subtracts it and enters the ledger. -/
def execWait (c : CoreId) (acidx : BitVec 5) (value : BitVec 24) (consume : Bool) (s : State) : Out :=
  let k := s.core c
  let i := acidx.toNat
  .next (if k.mayIssue ∧ value.toNat ≤ k.getAc i ∧ consume then
      s.setCore c ((k.putAc i (k.getAc i - value.toNat)).ledgerCons i value.toNat)
    else s)

/-- ARRIVE (R117). A reserved DIR, AMOUNT 0, or a direction without a neighbour core raises CORE_DECODE (R116, R117). -/
def execArrive (c : CoreId) (tag : BitVec 16) (dir : BitVec 3) (acidx : BitVec 5) (amount : BitVec 24) (s : State) : Out :=
  let d := dir.toNat
  let noNb := match dirOf d with
    | some x => decide (neighbour c x = none)
    | none => decide (d ≠ 0)
  .next (if (s.core c).mayIssue = false then s
    else if noNb = true ∨ amount = 0 then s.updCore c fun k => k.coreFault fCoreDecode tag (BitVec.ofNat 32 k.pc) 0
    else s.suEnter c tag (syncWord 3 (d * 2 ^ 53 + acidx.toNat * 2 ^ 48 + amount.toNat * 2 ^ 24)))

/-- STEP (R118, R153) of a word of its own. -/
def execStep (c : CoreId) (stepid : BitVec 16) (s : State) : Out :=
  .next (if (s.core c).mayIssue ∧ (s.core c).stepOpen then
      (s.stepAct c 0 stepid).updCore c fun k => k.markStep k.pc
    else s)

/-- BARRIER (R119). -/
def execBarrier (c : CoreId) (scope : BitVec 2) (bid : BitVec 6) (s : State) : Out :=
  .next (if (s.core c).mayIssue = false then s
    else if 2 ≤ scope.toNat then s.updCore c fun k => k.coreFault fCoreDecode 0 (BitVec.ofNat 32 k.pc) 0
    else (s.barrierTry c bid.toNat (decide (scope = 1))).1)

/-- BPREP (R291). -/
def execBprep (c : CoreId) (bid : BitVec 6) (lead : BitVec 16) (s : State) : Out :=
  .next (s.suEnter c 0 (syncWord 6 (bid.toNat * 2 ^ 48 + lead.toNat * 2 ^ 32)))

/-- OPHINT (R281). -/
def execOphint (c : CoreId) (op : BitVec 3) (phase : BitVec 16) (s : State) : Out :=
  .next (s.suEnter c 0 (syncWord 7 (op.toNat * 2 ^ 48 + phase.toNat * 2 ^ 32)))

/-- NEIGHBOUR_ARRIVAL (R117, R150): the oldest arrival or increment on its way to the owner from that side. -/
def execNeighbourArrival (owner : CoreId) (d : Dir) (s : State) : Out :=
  let o := owner.val
  .next (match s.nb.find? fun m => decide (m.dst = o) && decide (some m.src = neighbour o d) && decide (m.kind ≠ .rollback) &&
      !m.arrived && !m.refused with
    | none => s
    | some m =>
      let ok := s.admitsArrival o m.src m.part m.ac
      let s1 := { s with nb := s.nb.map fun x =>
        if x = m then { x with arrived := ok, refused := !ok } else x }
      if ok then
        let s2 := s1.updCore o fun k => k.addAc m.ac m.amount m.tag (dirNum d)
        if m.inStep then s2.updCore m.src fun k => k.ledgerOut (dirNum (dirBack d)) m.ac m.amount else s2
      else s1.updCore o fun k => k.pushFault fNbDenied m.tag 0 (BitVec.ofNat 64 (dirNum d)))

/-- ARRIVE_ACK (R117): the acknowledgement of the oldest delivered arrival toward that side; its command has run. -/
def execArriveAck (c : CoreId) (d : Dir) (s : State) : Out :=
  .next (match s.nb.find? fun m => decide (m.src = c.val) && decide (some m.dst = neighbour c d) &&
      decide (m.kind ≠ .rollback) && (m.arrived || m.refused) with
    | none => s
    | some m =>
      let s1 := { s with nb := s.nb.erase m }
      s1.updCore c fun k => k.updEntry m.entry fun q =>
        match q.st with
        | .finished _ e => { q with st := .finished (if m.refused then fNbDenied else 0) e }
        | _ => { q with st := .finished (if m.refused then fNbDenied else 0) 0 })

end Sys2Proof.Machine
end

