-- ==== Sys2Proof/Machine/Issue.lean ====
section
/-! DEFINITION. The long word: fetch, decode, waits and issue as one act (R105 to R110, R113, R116, R128). -/

namespace Sys2Proof.Machine

/-- A decoded long word: header fields and the slots present. -/
structure LongWord where
  pc     : Nat
  len    : Nat
  tag    : BitVec 16
  wait0  : Nat
  wait1  : Nat
  sig    : Nat
  sigsrc : Nat
  sSlot  : Option W64
  vSlot  : Option W128
  mSlot  : Option W128
  lSlot  : Option W128
  tSlot  : Option W128
  ySlot  : Option W64
  deriving DecidableEq, Repr

/-- The active bank (R128). -/
def CoreState.activeBank (k : CoreState) : Sparse W32 := if k.bank then k.ib1 else k.ib0
def CoreState.iword (k : CoreState) (a : Nat) : Nat := (Sparse.get k.activeBank 0 a).toNat

/-- n instruction words from an address, least significant first. -/
def CoreState.iwords (k : CoreState) (a : Nat) : Nat → Nat
  | 0 => 0
  | n + 1 => k.iword a + 2 ^ 32 * k.iwords (a + 1) n

/-- Length of a long word in 32-bit words by its SLOTS bits S, V, M, L, T, Y (R105). -/
def slotsLen (slots : Nat) : Nat :=
  2 + 2 * bitAt (bit slots 0) 0 + 4 * (bitAt (bit slots 1) 0 + bitAt (bit slots 2) 0 + bitAt (bit slots 3) 0 + bitAt (bit slots 4) 0) +
    2 * bitAt (bit slots 5) 0

/-- A wait encoding that is malformed: a type-none wait with an index, a counter above 31 (Table 5.3). -/
def waitBad (w : Nat) : Bool :=
  match w / 64 with
  | 0 => decide (w % 64 ≠ 0)
  | 2 => decide (32 ≤ w % 64)
  | _ => false

/-- The header checks of R106; `slots` are the SLOTS bits. -/
def headerBad (h : Nat) : Bool :=
  let slots := bits h 63 58
  let w0 := bits h 57 50
  let w1 := bits h 49 42
  let sg := bits h 41 34
  let src := bits h 33 31
  let absent := match src with
    | 0 => !bit slots 0 | 1 => !bit slots 1 | 2 => !bit slots 2 | 3 => !bit slots 3 | 4 => !bit slots 4 | 5 => !bit slots 5
    | 6 => false | _ => true
  decide (bits h 30 25 ≠ slotsLen slots) || decide (bits h 24 16 ≠ 0) || waitBad w0 || waitBad w1 ||
    (decide (w0 = w1) && decide (w0 / 64 ≠ 0)) || decide (sg / 64 = 3) || (decide (sg / 64 = 2) && decide (32 ≤ sg % 64)) ||
    (decide (sg / 64 ≠ 0) && absent)

/-- Where each present slot starts, counted in words from the header's end, in the order S, V, M, L, T, Y. -/
def slotStart (slots n : Nat) : Nat :=
  ((List.range n).map fun i => if bit slots i then (if i = 0 ∨ i = 5 then 2 else 4) else 0).sum

/-- A scalar slot's fields (Table 5.5). -/
def scalarOf (s : W64) : ScalarOp :=
  { opc := fld s 63 56, xd := fld s 55 51, xa := fld s 50 46, xb := fld s 45 41, imm := BitVec.ofNat 32 (fld s 31 0) }

/-- Scalar opcodes that are assigned (Table 5.6). -/
def scalarKnown (opc : Nat) : Bool :=
  decide (opc ≤ 0x0B) || decide (0x10 ≤ opc ∧ opc ≤ 0x12) || decide (0x20 ≤ opc ∧ opc ≤ 0x25) || decide (0x30 ≤ opc ∧ opc ≤ 0x33) ||
    decide (opc = 0x3D ∨ opc = 0x3E)

/-- Reserved bits of a scalar slot; LOOP with XD other than XA. A branch target past the bank is no decode fault: it raises CORE_FETCH
when the branch is taken (R111). -/
def scalarBad (s : W64) : Bool :=
  let o := scalarOf s
  decide (fld s 40 32 ≠ 0) || (decide (o.opc = 0x25) && decide (o.xd ≠ o.xa))

/-- Bits of a sync slot that its opcode uses (Table 5.11). -/
def syncUsed (opc : Nat) : Nat :=
  match opc with
  | 1 => 0xFF * 2 ^ 48
  | 2 => 0x1F * 2 ^ 48 + 0xFFFFFF * 2 ^ 24 + 2 ^ 23
  | 3 => 0xFF * 2 ^ 48 + 0xFFFFFF * 2 ^ 24
  | 4 => 0xFFFF * 2 ^ 32
  | 5 => 0xFF * 2 ^ 48
  | 6 => 0x3F * 2 ^ 48 + 0xFFFF * 2 ^ 32
  | 7 => 0x7 * 2 ^ 48 + 0xFFFF * 2 ^ 32
  | _ => 0

/-- Sync operands that raise CORE_DECODE (R116, R117). -/
def syncBad (c : Nat) (y : W64) : Bool :=
  let opc := fld y 63 56
  let body := fld y 55 0
  let d := fld y 55 53
  let noNb := match dirOf d with
    | some x => decide (neighbour c x = none)
    | none => decide (d ≠ 0)
  decide (Nat.land body (syncUsed opc) ≠ body) || (decide (opc = 3) && (noNb || decide (fld y 47 24 = 0))) ||
    (decide (opc = 5) && decide (2 ≤ fld y 55 54))

/-- Whether every slot's opcode is assigned to it (R113, Table 5.8). -/
def LongWord.opcodesOk (w : LongWord) : Bool :=
  let all := fun (o : Option W128) (p : Nat → Bool) => match o with
    | some x => p (slotOpc x)
    | none => true
  all w.vSlot (fun o => decide (o ≤ 0x3F)) &&
  all w.mSlot (fun o => decide (0x40 ≤ o ∧ o ≤ 0x46) || decide (0x60 ≤ o ∧ o ≤ 0x6F)) &&
  all w.lSlot (fun o => decide (o = 0x10 ∨ o = 0x11)) && all w.tSlot (fun o => decide (0x20 ≤ o ∧ o ≤ 0x22)) &&
  (match w.sSlot with
    | some s => scalarKnown (fld s 63 56)
    | none => true) &&
  (match w.ySlot with
    | some y => decide (fld y 63 56 ≤ 7)
    | none => true)

/-- The word at the pc: decoded, or the core fault it raises with its tag (R106, R111, R113, R116). -/
def CoreState.decodeWord (k : CoreState) (c : Nat) : Except (Byte × BitVec 16) LongWord :=
  if 65536 < k.pc + 2 then .error (fCoreFetch, 0)
  else
    let h := k.iwords k.pc 2
    let tag := BitVec.ofNat 16 h
    if headerBad h then .error (fCoreDecode, tag)
    else
      let slots := bits h 63 58
      let len := slotsLen slots
      if 65536 < k.pc + len then .error (fCoreFetch, tag)
      else
        let at_ := fun i => k.pc + 2 + slotStart slots i
        let s64 := fun i => if bit slots i then some (BitVec.ofNat 64 (k.iwords (at_ i) 2)) else none
        let s128 := fun i => if bit slots i then some (BitVec.ofNat 128 (k.iwords (at_ i) 4)) else none
        let w : LongWord := { pc := k.pc, len := len, tag := tag, wait0 := bits h 57 50, wait1 := bits h 49 42, sig := bits h 41 34,
                              sigsrc := bits h 33 31, sSlot := s64 0, vSlot := s128 1, mSlot := s128 2, lSlot := s128 3,
                              tSlot := s128 4, ySlot := s64 5 }
        if w.opcodesOk = false then .error (fCoreOpcode, tag)
        else if w.sSlot.any scalarBad || w.ySlot.any (syncBad c) then .error (fCoreDecode, tag)
        else .ok w

/-! ### Waits (Table 5.3) -/

def CoreState.waitOpen (k : CoreState) (w : Nat) : Bool :=
  match w / 64 with
  | 0 => true
  | 1 => k.flag (w % 64)
  | 2 => decide (k.getAcexp (w % 64) ≤ k.getAc (w % 64))
  | _ => decide (1 ≤ k.getTok (w % 64))

/-- What a satisfied wait consumes, entered in the consumption ledger (R154). -/
def CoreState.waitTake (k : CoreState) (w : Nat) : CoreState :=
  let i := w % 64
  match w / 64 with
  | 0 => k
  | 1 => k.clrFlag i
  | 2 => (k.putAc i (k.getAc i - k.getAcexp i)).ledgerCons i (k.getAcexp i)
  | _ => (k.putTok i (k.getTok i - 1)).ledgerCons (32 + i) 1

/-- The word's engine slots with the queues they feed, in slot order. -/
def LongWord.feeds (w : LongWord) : List (Nat × Eng × W128) :=
  let one := fun (n : Nat) (o : Option W128) (e : W128 → Eng) => match o with
    | some x => [(n, e x, x)]
    | none => []
  one 1 w.vSlot (fun _ => .ve) ++ one 2 w.mSlot (fun x => (matrixEng (slotOpc x)).getD .fe) ++ one 3 w.lSlot (fun _ => .le) ++
    one 4 w.tSlot (fun _ => .se)

def LongWord.syncOpc (w : LongWord) : Option Nat := w.ySlot.map fun y => fld y 63 56
/-- The word's queued sync command, when its Y slot holds one (NOP, ARRIVE, BPREP, OPHINT). -/
def LongWord.queuedSync (w : LongWord) : Option W64 :=
  w.ySlot.filter fun y => let o := fld y 63 56; decide (o = 0 ∨ o = 3 ∨ 6 ≤ o)

/-- Each engine queue the word feeds has a free entry (R107). -/
def CoreState.queuesOpen (k : CoreState) (w : LongWord) : Bool :=
  (w.feeds.all fun f => k.room f.2.1 1) && (w.queuedSync.isNone || k.room .su 1)

/-- The header waits, both satisfied (R107). -/
def CoreState.wordWaits (k : CoreState) (w : LongWord) : Bool :=
  k.waitOpen w.wait0 && k.waitOpen w.wait1

/-- What the header's counter waits take from counter i. -/
def CoreState.headerTakes (k : CoreState) (w : LongWord) (i : Nat) : Nat :=
  (if w.wait0 = 128 + i then k.getAcexp i else 0) + if w.wait1 = 128 + i then k.getAcexp i else 0

/-- The condition of a blocking FENCE, WAIT or STEP, judged before anything is consumed (R107); others are open here. A WAIT that consumes
needs the counter to hold what the header waits take from it as well. -/
def CoreState.syncOpen (k : CoreState) (w : LongWord) : Bool :=
  match w.ySlot with
  | none => true
  | some y =>
    match fld y 63 56 with
    | 1 => k.fenceOpen (fld y 55 48)
    | 2 => decide (fld y 47 24 + (if bitOf y 23 then k.headerTakes w (fld y 52 48) else 0) ≤ k.getAc (fld y 52 48))
    | 4 => k.stepOpen
    | _ => true

/-- The identifiers of the commands that SIGSRC names. -/
def sigWaits (sigsrc : Nat) (ids : List (Nat × Nat)) : List Nat :=
  (ids.filter fun x => decide (sigsrc = 6) || decide (x.1 = sigsrc)).map (·.2)

/-- The issue of a word whose conditions hold: waits consume, the sync command acts, every command enters its queue, the scalar
slot executes, the SIG is armed (R107, R110, R111, R116, R118, R153). -/
def State.issue (s : State) (c : Nat) (w : LongWord) : State :=
  let addr := BitVec.ofNat 32 w.pc
  let k0 := ((s.core c).waitTake w.wait0).waitTake w.wait1
  let s1 := (s.setCore c (k0.count 13)).traceEv c 0 w.tag 0 0 0
  let isStep := decide (w.syncOpc = some 4)
  let y := w.ySlot.getD 0
  let s2 := match w.syncOpc with
    | some 1 => s1.updCore c fun k => k.fenceFlush (fld y 55 48)
    | some 2 =>
      let i := fld y 52 48
      let v := fld y 47 24
      if bitOf y 23 then s1.updCore c fun k => (k.putAc i (k.getAc i - v)).ledgerCons i v else s1
    | some 4 => s1.stepAct c w.tag (BitVec.ofNat 16 (fld y 47 32))
    | _ => s1
  let r := w.feeds.foldl (fun (a : CoreState × List (Nat × Nat)) f =>
    (a.1.enqueue f.2.1 w.tag addr f.2.2 (!isStep), a.2 ++ [(f.1, a.1.nextId)])) (s2.core c, [])
  let q := match w.queuedSync with
    | some y => (r.1.enqueue .su w.tag addr (suSlot y) (!isStep), r.2 ++ [(5, r.1.nextId)])
    | none => r
  let sg : List SigWait := if w.sig / 64 = 0 then []
    else [{ sig := BitVec.ofNat 8 w.sig, waits := sigWaits w.sigsrc q.2, tag := w.tag, inStep := !isStep }]
  let k1 := { q.1 with pc := w.pc + w.len, sigs := q.1.sigs ++ sg }
  let k2 := match w.sSlot with
    | some o => s2.keepTrc c (k1.runScalar c (scalarOf o) w.tag addr s2.free)
    | none => k1
  let k3 := if isStep then k2.markStep k2.pc else k2
  let s3 := s2.setCore c k3
  let s4 := match w.sSlot with
    | some o => if drawsFree (scalarOf o) then s3.bump else s3
    | none => s3
  (s4.suStart c).settle c

/-- LONG_WORD_ISSUE (R107): the word at the head issues whole when the core is in RUN with no replay due and room in the fault
queue, and its waits, queues and sync condition allow; a word that cannot be decoded raises its core fault. -/
def execLongWordIssue (c : CoreId) (s : State) : Out :=
  let k := s.core c
  .next (if k.mayIssue then
      match k.decodeWord c with
      | .error f => s.updCore c fun k => k.coreFault f.1 f.2 (BitVec.ofNat 32 k.pc) 0
      | .ok w =>
        if k.wordWaits w = false ∨ k.queuesOpen w = false ∨ k.syncOpen w = false then s
        else if w.syncOpc = some 5 then
          let y := w.ySlot.getD 0
          let b := s.barrierTry c (fld y 53 48) (decide (fld y 55 54 = 1))
          if b.2 then (b.1.issue c w).traceEv c 4 w.tag 5 7 0 else b.1
        else s.issue c w
    else s)

/-- What the word at the head waits for: 0 nothing, 1 WAIT0, 2 WAIT1, 3 the sync condition; a word held by a full queue, a full
fault queue or a BARRIER is not counted (R120). -/
def CoreState.headWait (k : CoreState) (w : LongWord) : Nat :=
  if k.waitOpen w.wait0 = false then 1
  else if k.waitOpen w.wait1 = false then 2
  else if k.syncOpen w = false then 3 else 0

/-- CORE_WAIT_TIMEOUT (R120): CTO 0 disables it; after DONE, or with a stop due, no word waits at issue. -/
def execCoreWaitTimeout (c : CoreId) (s : State) : Out :=
  let k := s.core c
  .next (if k.st = .run ∧ k.doneReq = none ∧ k.stopReq = false ∧ k.cto ≠ 0 ∧ k.replayDue = false then
      match k.decodeWord c with
      | .ok w => if k.headWait w = 0 then s
        else s.updCore c fun k => k.coreFault fCoreWaitTimeout w.tag (BitVec.ofNat 32 k.pc) (BitVec.ofNat 64 (k.headWait w))
      | .error _ => s
    else s)

/-- SIG_RAISE (R110): the oldest SIG whose commands have completed. -/
def execSigRaise (c : CoreId) (s : State) : Out :=
  let k := s.core c
  .next (match k.sigs.find? fun w => w.waits.isEmpty with
    | some w => (s.setCore c ({ k with sigs := k.sigs.erase w }.applySig w)).settle c
    | none => s)

/-- A waiting VE or FE command with a reserved opcode completes with its field fault (R113, R178, R180). -/
def State.reapReserved (s : State) (c : Nat) (e : Eng) : State :=
  let known := fun o : Nat => match e with
    | .ve => decide (o ≤ 0x0D) || decide (0x10 ≤ o ∧ o ≤ 0x12) || decide (0x18 ≤ o ∧ o ≤ 0x19) || decide (0x20 ≤ o ∧ o ≤ 0x21) ||
        decide (0x28 ≤ o ∧ o ≤ 0x2B)
    | .fe => decide (o = 0x60)
    | _ => true
  match (s.core c).nextStart e with
  | some q =>
    if known (slotOpc q.slot) then s
    else s.updCore c fun k => k.finish q.id (if e = .ve then fVeField else fFeField) 0 0
  | none => s

/-- The finished commands of a class that may complete now, oldest first: in issue order, so only the class's oldest; of the four LE or SE
commands that execute, any (Table 5.9). -/
def CoreState.finished (k : CoreState) (e : Eng) : List QEntry :=
  let qs := k.queue.filter fun q => q.eng = e
  (if e = .le ∨ e = .se then qs.take 4 else qs.take 1).filter fun q =>
    match q.st with
    | .finished _ _ => true
    | _ => false

/-- COMMAND_COMPLETE (R110, R114, R127): a finished command of the class; where several may come next a free value chooses (Table 5.9). -/
def execCommandComplete (c : CoreId) (e : Eng) (s : State) : Out :=
  let s0 := (s.reapReserved c e).suStart c
  .next (match (s0.core c).finished e with
    | [] => s0
    | [x] => (s0.completeEntry c x).suStart c
    | x :: y :: rest =>
      (s0.bump.completeEntry c ((x :: y :: rest).getD (Config.freeNat s0.free % (rest.length + 2)) x)).suStart c)

/-- GATHER_FLUSH (R137). -/
def execGatherFlush (c : CoreId) (e : Eng) (s : State) : Out := .next (s.updCore c fun k => k.flushOne (portOf e))

/-- Writes of the inactive bank by the hub's DMA (R128). -/
def CoreState.loadBank (k : CoreState) (bank : Bool) (a : Nat) (ws : List W32) : CoreState :=
  let put := fun m : Sparse W32 => (ws.zipIdx).foldl (fun m p => if a + p.2 < 65536 then Sparse.set m 0 (a + p.2) p.1 else m) m
  if bank then { k with ib1 := put k.ib1 } else { k with ib0 := put k.ib0 }

/-- IBANK_LOAD (R128): refused (status 1) for the active bank of a core that runs. -/
def execIbankLoad (c : CoreId) (bank : Bool) (at_ : BitVec 16) (words : List W32) (s : State) : Out :=
  let k := s.core c
  .next (if k.st ≠ .idle ∧ k.bank = bank then s.answer 1 []
    else (s.setCore c (k.loadBank bank at_.toNat words)).answer 0 [])

end Sys2Proof.Machine
end

