-- ==== Sys2Proof/Machine/Copy.lean ====
section
/-! DEFINITION. Load and store engine commands and row commands (R115, R124 to R126, R131, R137 to R140). -/

namespace Sys2Proof.Machine

/-! ### Element writes -/

/-- One element written on a port of core c at core o by a command: windows by register, own scratchpad through the port's gather buffer
when narrower than a word, a partial lane of wrong parity refused (R137, R138). -/
def State.storeElem (s : State) (c port id o a : Nat) (bs : List Byte) : State × Option Nat :=
  if 0x04000000 ≤ a then (s.winWrite o false .program a bs, none)
  else if o = c ∧ bs.length < 64 then
    let r := (s.core c).gatherBytes port id (bs.zipIdx.map fun p => (a + p.2, p.1))
    (s.setCore c r.1, r.2)
  else
    let r := (s.core o).spWrite bs.length a bs
    (s.setCore o r.1, r.2)

/-- Elements written in visiting order until one meets a partial lane of wrong parity. -/
def State.storeAll (s : State) (c port id o : Nat) : List (Nat × List Byte) → State × Option Nat
  | [] => (s, none)
  | (a, bs) :: rest =>
    let r := s.storeElem c port id o a bs
    match r.2 with
    | some x => (r.1, some x)
    | none => State.storeAll r.1 c port id o rest

/-! ### LCOPY, LFILL, SCOPY -/

/-- The transposed words of source words (R139): each run of 64 words as a block of e-byte columns. -/
def transposeBlocks (e : Nat) (words : List (List Byte)) : List (List Byte) :=
  let blocks := words.length / 64
  (List.range blocks).flatMap fun b =>
    let run := (words.drop (64 * b)).take 64
    (List.range (64 / e)).flatMap fun col =>
      let bytes := run.flatMap fun w => (w.drop (e * col)).take e
      (List.range e).map fun j => (bytes.drop (64 * j)).take 64

/-- Patterns of a copy that agree: present, equal element sizes and counts (R124). -/
def copyPats (k : CoreState) (sp dp : Nat) : Option (Pat × Pat) :=
  match k.pat sp, k.pat dp with
  | some a, some b => if a.elog = b.elog ∧ a.count = b.count then some (a, b) else none
  | _, _ => none

/-- Whether every visited element of a pattern lies in a region of a size, aligned. -/
def regionOk (p : Pat) (base size : Nat) : Bool :=
  decide (0 ≤ (base : Int) + p.lo) && decide ((base : Int) + p.hi ≤ size)

/-- The words of an LPDDR6 or commons source read element by element. -/
def State.remoteRead (s : State) (p space : Nat) (n : Nat) (addrs : List Nat) : List (List Byte) :=
  addrs.map fun a => if space = 1 then s.hub.commonsGet p a n else Memory.readN (s.ext.regionOf p) a n

def State.remoteWrite (s : State) (p space : Nat) (ws : List (Nat × List Byte)) : State :=
  ws.foldl (fun s w => if space = 1 then s.updHub fun h => h.commonsPut p w.1 w.2
    else s.updExt fun e => e.putRegion p w.1 w.2) s

/-- Destination words filled from poisoned blocks: every parity lane fails (R343). -/
def State.poisonWords (s : State) (o n : Nat) (ws : List (Nat × Bool)) : State :=
  ws.foldl (fun s w =>
    if w.2 ∧ w.1 < 0x03000000 then
      s.updCore o fun k => { k with badLanes :=
        (List.range (((w.1 + n - 1) / 64 + 1 - w.1 / 64) * 8)).foldl (fun l i => Sparse.insert l (w.1 / 64 * 8 + i) true) k.badLanes }
    else s) s

/-- Which destination elements of a copy take poisoned data: under XPOSE every word of a block of 64. -/
def poisonFlags (xp : Nat) (fs : List Bool) : List Bool :=
  if xp = 0 then fs
  else (List.range fs.length).map fun i => ((fs.drop (i / 64 * 64)).take 64).any id

/-- Bytes of a partition's region in a space: 1 commons, 2 LPDDR6. -/
def State.spaceSize (s : State) (p space : Nat) : Nat :=
  if space = 1 then s.hub.commonsSize p else (s.hub.part p).lpsize

/-- Byte base of an offset field: bytes in the commons, 64-byte units in LPDDR6 (Table 5.16). -/
def spaceBase (space f : Nat) : Nat := if space = 2 then 64 * f else f

/-- LCOPY's reserved bits and encodings (Table 5.16, R124, R139). -/
def lcopyBad (q : W128) : Bool :=
  let xp := fld q 104 102
  decide (fld q 119 118 = 3 ∨ 4 ≤ xp ∨ (xp ≠ 0 ∧ fld q 119 118 ≠ 0) ∨ bitOf q 117 = true ∨ fld q 101 96 ≠ 0 ∨
    fld q 31 0 ≠ 0 ∨ (fld q 119 118 = 0 ∧ fieldForm (slotHi q) = 3) ∨ fieldForm (slotMid q) = 3)

/-- LCOPY (R115, R124, R139). -/
def State.runLcopy (s : State) (c : Nat) (q : QEntry) : RunResult :=
  let w := q.slot
  let k := s.core c
  let ssp := fld w 119 118
  let xp := fld w 104 102
  if lcopyBad w then .fail s fLeField
  else match copyPats k (fld w 116 111) (fld w 110 105) with
    | none => .fail s fLeField
    | some (sp, dp) =>
      if xp ≠ 0 ∧ (sp.elog ≠ 6 ∨ sp.count % 64 ≠ 0) then .fail s fLeField
      else
        let src := walkOperand (resolveField q.handles (slotHi w) q.xr2) sp true false
        let dst := walkOperand (resolveField q.handles (slotMid w) q.xr1) dp false true
        let f := s.checkOps c true (if ssp = 0 then [src, dst] else [dst])
        let sb := spaceBase ssp (fld w 95 64)
        if f ≠ 0 then .fail s f
        else if ssp ≠ 0 ∧ regionOk sp sb (s.spaceSize k.part ssp) = false then .fail s fSpAddr
        else if ssp ≠ 0 ∧ sp.aligned sb = false then .fail s fSpAlign
        else
          let rd := if ssp = 0 then s.fetchAll c 0 (src.core c) sp.size (sp.addrs src.base)
            else (s.remoteRead k.part ssp sp.size (sp.addrs sb), none)
          let data := if xp = 0 then rd.1 else transposeBlocks (2 ^ (xp - 1)) rd.1
          let wr0 := s.storeAll c 0 q.id (dst.core c) ((dp.addrs dst.base).zip data)
          let fs := if ssp = 2 then (sp.addrs sb).map fun a => s.ext.readBad k.part a sp.size else []
          let wr := if fs.any id then (wr0.1.poisonWords (dst.core c) dp.size ((dp.addrs dst.base).zip (poisonFlags xp fs)), wr0.2) else wr0
          match wr.2, rd.2 with
          | some a, _ => .parity wr.1 c 0 (dst.core c) a
          | none, some a => .parity wr.1 c 0 (src.core c) a
          | none, none => .ok wr.1 0

/-- One fill element (Table 5.16): VALUE repeated, or its low bytes. -/
def fillElem (n : Nat) (v : Nat) : List Byte := (List.range n).map fun i => byteOf v (i % 4)

/-- LFILL (Table 5.16). -/
def State.runLfill (s : State) (c : Nat) (q : QEntry) : RunResult :=
  let w := q.slot
  if fld w 119 111 ≠ 0 ∨ fld w 104 64 ≠ 0 ∨ fieldForm (slotMid w) = 3 then .fail s fLeField
  else match (s.core c).pat (fld w 110 105) with
    | none => .fail s fLeField
    | some dp =>
      let dst := walkOperand (resolveField q.handles (slotMid w) q.xr1) dp false true
      let f := s.checkOps c true [dst]
      if f ≠ 0 then .fail s f
      else
        let wr := s.storeAll c 0 q.id (dst.core c) ((dp.addrs dst.base).map fun a => (a, fillElem dp.size (fld w 31 0)))
        match wr.2 with
        | some a => .parity wr.1 c 0 (dst.core c) a
        | none => .ok wr.1 0

/-- SCOPY's reserved bits and encodings (Table 5.16, R124). -/
def scopyBad (q : W128) : Bool :=
  decide (fld q 119 118 = 3 ∨ (bitOf q 105 = true ∧ fld q 119 118 ≠ 0) ∨ fld q 99 96 ≠ 0 ∨ fld q 31 0 ≠ 0 ∨
    fieldForm (slotHi q) = 3 ∨ (fld q 119 118 = 0 ∧ fieldForm (slotMid q) = 3))

/-- A source in the own core: its handle names no neighbour. -/
def ownOnly (c : Nat) (o : Operand) : Bool := decide (o.core c = c)

/-- SCOPY moves its data; the increment of ACEN follows the writes (R115). The result says whether an increment is owed and to
which core. -/
def State.runScopy (s : State) (c : Nat) (q : QEntry) : RunResult × Option Nat :=
  let w := q.slot
  let k := s.core c
  let dsp := fld w 119 118
  let no := fun r : RunResult => (r, (none : Option Nat))
  if scopyBad w then no (.fail s fSeField)
  else match copyPats k (fld w 117 112) (fld w 111 106) with
    | none => no (.fail s fSeField)
    | some (sp, dp) =>
      let src := walkOperand (resolveField q.handles (slotHi w) q.xr2) sp true false
      let dst := walkOperand (resolveField q.handles (slotMid w) q.xr1) dp false true
      let f := s.checkOps c true (if dsp = 0 then [src, dst] else [src])
      let db := spaceBase dsp (fld w 63 32)
      if ownOnly c src = false then no (.fail s fSpHandle)
      else if f ≠ 0 then no (.fail s f)
      else if dsp ≠ 0 ∧ regionOk dp db (s.spaceSize k.part dsp) = false then no (.fail s fSpAddr)
      else if dsp ≠ 0 ∧ dp.aligned db = false then no (.fail s fSpAlign)
      else
        let rd := s.fetchAll c 1 c sp.size (sp.addrs src.base)
        if dsp ≠ 0 then
          let s1 := s.remoteWrite k.part dsp ((dp.addrs db).zip rd.1)
          match rd.2 with
          | some a => no (.parity s1 c 1 c a)
          | none => no (.ok s1 0)
        else
          let wr := s.storeAll c 1 q.id (dst.core c) ((dp.addrs dst.base).zip rd.1)
          match wr.2, rd.2 with
          | some a, _ => no (.parity wr.1 c 1 (dst.core c) a)
          | none, some a => no (.parity wr.1 c 1 c a)
          | none, none => (.ok wr.1 0, if bitOf w 105 then some (dst.core c) else none)

/-- Whether an operand that a pattern walks must wait for a tile window or a table (Table 2.6, R74, R90, R176): judged on the whole
footprint of an absolute form. A pattern with a reserved field never holds: the command faults. -/
def CoreState.walkHolds (k : CoreState) (rd : Bool) (f : W32) (p : Nat) : Bool :=
  if fieldForm f = 0 then
    match k.pat p with
    | none => false
    | some x =>
      let lo := ((fld f 29 0 : Nat) : Int) + x.lo
      let n := (x.hi - x.lo).toNat
      if lo < 0 then false else if rd then k.readWaits lo.toNat n else k.writeWaits lo.toNat n
  else false

/-- LCOPY's waits. -/
def CoreState.lcopyHolds (k : CoreState) (w : W128) : Bool :=
  (decide (fld w 119 118 = 0) && k.walkHolds true (slotHi w) (fld w 116 111)) || k.walkHolds false (slotMid w) (fld w 110 105)

/-- SCOPY's waits. -/
def CoreState.scopyHolds (k : CoreState) (w : W128) : Bool :=
  k.walkHolds true (slotHi w) (fld w 117 112) || (decide (fld w 119 118 = 0) && k.walkHolds false (slotMid w) (fld w 111 106))

/-- LCOPY (R124). -/
def execLcopy (c : CoreId) (s : State) : Out :=
  .next (s.runNext c .le 0x10 (fun q => (s.core c).lcopyHolds q.slot) fun s q => s.runLcopy c q)

/-- LFILL (R124). -/
def execLfill (c : CoreId) (s : State) : Out :=
  .next (s.runNext c .le 0x11 (fun q => (s.core c).walkHolds false (slotMid q.slot) (fld q.slot 110 105)) fun s q => s.runLfill c q)

/-- The end of an SCOPY whose data moved: an own-core increment applies once its writes have left the gather buffer for their banks
(R115, R137, R160); one toward a neighbour travels, and the command completes when it has been applied (R154). -/
def State.scopyEnds (s : State) (c : Nat) (q : QEntry) (o : Nat) : State :=
  let i := fld q.slot 104 100
  let s1 := s.updCore c fun k => k.updEntry q.id fun x => { x with st := .executing }
  if o = c then
    let s2 := s1.updCore c fun k => k.flushPort (portOf .se)
    let failed := (s2.core c).queue.any fun x => decide (x.id = q.id) && decide (x.st ≠ .executing)
    if failed then s2 else s2.updCore c fun k => (k.ownIncrement i 1 q.tag q.inStep).finish q.id 0 0 0
  else
    { s1 with nb := s1.nb ++ [{ src := c, dst := o, kind := .increment, ac := i, amount := 1, tag := q.tag,
                                part := some (s.core c).part, entry := q.id, inStep := q.inStep, arrived := false, refused := false }] }

/-- SCOPY (R115, R124, R154). -/
def execScopy (c : CoreId) (s : State) : Out :=
  .next (match s.pickReady c .se 0x20 (fun q => (s.core c).scopyHolds q.slot) with
    | none => s
    | some x =>
      let q := x.1
      let r := (x.2.traceEv c 1 q.tag (slotNum .se) 1 0).runScopy c q
      match r.2 with
      | none => r.1.ended c q
      | some o => r.1.s.scopyEnds c q o)

end Sys2Proof.Machine
end

