-- ==== Sys2Proof/Machine/OutputPath.lean ====
section
/-! DEFINITION. The output path: drain command, pipe, inline reducer and compressor (R72, R73, R84 to R97). -/

namespace Sys2Proof.Machine

/-! ### Fields of ADRAIN (Table 4.1) -/

def adTile (q : W128) : TileId := if bitOf q 119 then .tb else .ta
def adBlk0 (q : W128) : Nat := fld q 118 111
def adNb (q : W128) : Nat := fld q 110 103 + 1
def adFmt (q : W128) : Nat := fld q 102 99
def adCode (q : W128) : Nat := fld q 98 95
def adActsel (q : W128) : Nat := fld q 86 83
def adRed (q : W128) : Nat := fld q 76 75
def adCmp (q : W128) : Bool := bitOf q 74
def adAccum (q : W128) : Bool := bitOf q 73
def adSmall (q : W128) : Bool := bitOf q 72
def adKpar (q : W128) : Nat := fld q 71 66
def adCount (q : W128) : Nat := 64 * adNb q

/-- The field checks of R85 and Table 4.1's reserved encodings. -/
def drainFieldBad (q : W128) : Bool :=
  let f := adFmt q
  decide (13 ≤ f ∨ (isBN f = true ∧ 8 ≤ adCode q) ∨ 9 ≤ adActsel q ∨ adRed q = 3 ∨ fld q 65 64 ≠ 0 ∨ fld q 39 32 ≠ 0 ∨
    255 < adBlk0 q + adNb q - 1 ∨ (f = 12 ∧ adRed q = 0) ∨ (adCmp q = true ∧ (isBN f = true ∨ isCW f = true ∨ f = 12)) ∨
    (adSmall q = true ∧ adRed q ≠ 1) ∨ (adAccum q = true ∧ adRed q = 0) ∨ fieldForm (slotLo q) = 3)

/-- ARELEASE: every bit but OPC and TILE is reserved (R36). -/
def releaseFieldBad (q : W128) : Bool := decide (fld q 119 108 ≠ 0 ∨ fld q 106 0 ≠ 0)

/-- Bytes of the reducer record. -/
def recSize (q : W128) : Nat := if adRed q = 1 then 576 else 64

/-- The bytes reserved at DST (R91, R96). -/
def dstSize (q : W128) : Nat :=
  let w := fmtBits (adFmt q)
  if adCmp q then 64 + adNb q * (8 + 8 * w) else elemBytes w (adCount q)

def adBias (q : QEntry) : Operand :=
  let r := resolveHandle q.handles (fld q.slot 63 56)
  let lo := r.2 + (128 * adBlk0 q.slot : Nat)
  { ent := r.1, base := r.2, lo := lo, hi := lo + (128 * adNb q.slot : Nat), rd := true, wr := false, aligned := true }
def adAux (q : QEntry) : Operand := fixedOperand (resolveHandle q.handles (fld q.slot 55 48)) (2 * adNb q.slot) false true 1
def adRec (q : QEntry) : Operand :=
  fixedOperand (resolveHandle q.handles (fld q.slot 47 40)) (recSize q.slot) (adAccum q.slot || decide (adRed q.slot = 1)) true 64
def adDst (q : QEntry) : Operand :=
  fixedOperand (resolveField q.handles (slotLo q.slot) q.xr0) (dstSize q.slot) false true (if adCmp q.slot then 64 else 1)

/-- The operands in the order of R144. -/
def drainOperands (q : QEntry) : List Operand :=
  let w := q.slot
  (if bitOf w 87 then [adBias q] else []) ++ (if isBN (adFmt w) then [adAux q] else []) ++
  (if adRed w = 0 then [] else [adRec q]) ++ (if adFmt w = 12 then [] else [adDst q])

/-! ### The pipe -/

/-- Rescale (R73, R87). -/
def CoreState.rescale (k : CoreState) (t : TileId) (scale : W32) (i : Nat) : W32 :=
  match k.laneSt t i with
  | .posInf => 0x7F800000
  | .negInf => 0xFF800000
  | .inv => 0x7FC00000
  | .normal =>
    let e := k.w32 (0x04060000 + 4 * i)
    let acc := k.lane t i
    let ex : Int := ((k.tile t).tshift : Int) - (fld e 29 24 : Nat) - 23
    let y1 := (FV.fin (decide (acc < 0)) (acc.natAbs * fld e 23 0) ex).toFP32
    fMul y1 scale

/-- The activation table evaluated (R89). While XMIN holds a non-finite value the output is U. -/
def CoreState.activate (k : CoreState) (t : Nat) (y : W32) (draw : Nat) : W32 :=
  let a := 0x04080000 + 0x400 * t
  let xmin := k.w32 (a + 0x200)
  let wexp := signed 8 (fld (k.w32 (a + 0x204)) 7 0)
  if fFinite xmin = false then Config.freeW32 draw
  else
    let yv := fp32 y
    if yv.isNan then 0x7FC00000
    else
      let edge := fun n : Nat => (fp32 xmin).add (FV.fin false n wexp)
      let seg := if yv.lt (edge 1) then 0 else if (edge 63).le yv then 63
        else ((List.range 63).find? fun n => (edge n).le yv && yv.lt (edge (n + 1))).getD 0
      let slope := k.w32 (a + 8 * seg + 4)
      let off := k.w32 (a + 8 * seg)
      if yv.isInf && (fp32 slope).isZero then off else fFma slope y off

/-- z of one drain element (Table 4.3), from its bias. -/
def CoreState.pipeZ (k : CoreState) (q : W128) (scale : W32) (bias : Nat) (e draw : Nat) : W32 :=
  let i := 64 * adBlk0 q + e
  let y := k.rescale (adTile q) scale i
  let b : W32 := if bitOf q 87 then BitVec.ofNat 32 (bias * 65536) else 0
  let y2 := fAdd y b
  if adActsel q = 0 then y2 else k.activate (adActsel q - 1) y2 draw

/-! ### The reducer (R92 to R95) -/

/-- A TOPK candidate: key, position, whether it is new. -/
structure Cand where
  key : Nat
  pos : Nat
  new : Bool
  deriving DecidableEq, Repr

/-- Whether a comes before b: larger key (smaller when SMALL), then lower position, then an existing entry. -/
def candBefore (small : Bool) (a b : Cand) : Bool :=
  if a.key ≠ b.key then (if small then decide (a.key < b.key) else decide (b.key < a.key))
  else if a.pos ≠ b.pos then decide (a.pos < b.pos) else !a.new && b.new

def candInsert (small : Bool) (x : Cand) : List Cand → List Cand
  | [] => [x]
  | y :: ys => if candBefore small x y then x :: y :: ys else y :: candInsert small x ys

def recCount (bs : List Byte) : Nat := leNat ((bs.drop 4).take 2)
def recKm1 (bs : List Byte) : Nat := (bs.getD 6 0).toNat
def recEntry (bs : List Byte) (j : Nat) : Cand :=
  { pos := leNat ((bs.drop (0x40 + 8 * j)).take 4), key := leNat ((bs.drop (0x44 + 8 * j)).take 4), new := false }

/-- Whether an ACCUM record disagrees with its drain (R95). -/
def recordBad (q : W128) (bs : List Byte) : Bool :=
  if adRed q = 1 then
    decide (recKm1 bs ≠ adKpar q) || decide (bit (bs.getD 7 0).toNat 0 ≠ adSmall q) || decide (adKpar q + 1 < recCount bs)
  else decide (signed 8 (bs.getD 0x30 0).toNat ≠ signed 6 (adKpar q))

/-- The TOPK record after a drain (R93, R97). -/
def topkRecord (q : W128) (old : List Byte) (spec : Bool) (zs : List W32) : List Byte :=
  let pbase := leNat (old.take 4)
  let fresh := ((List.range zs.length).zip zs).filterMap fun p =>
    if fIsNan p.2 then none else some { key := (key32 p.2).toNat, pos := (pbase + p.1) % 2 ^ 32, new := true : Cand }
  let kept := if adAccum q then (List.range (recCount old)).map (recEntry old) else []
  let best := ((kept ++ fresh).foldl (fun l x => candInsert (adSmall q) x l) []).take (adKpar q + 1)
  let flags := bitAt (adSmall q) 0 + bitAt (spec || (adAccum q && bit (old.getD 7 0).toNat 1)) 1
  leBytes 4 (pbase + adCount q) ++ leBytes 2 best.length ++ leBytes 1 (adKpar q) ++ leBytes 1 flags ++ List.replicate 56 0 ++
    best.flatMap (fun x => leBytes 4 x.pos ++ leBytes 4 x.key) ++ List.replicate (8 * (64 - best.length)) 0

/-- m of a finite z: z · 2^FXS to the nearest integer, ties to even, saturated (R94); with whether it saturated. -/
def momentM (fxs : Int) (z : W32) : Int × Bool :=
  match fp32 z with
  | .fin neg m e => convInt (-2147483648) 2147483647 none (.fin neg m (e + fxs))
  | _ => (0, false)

/-- The MOMENTS record after a drain, and whether an m saturated (R94, R97). -/
def momentsRecord (q : W128) (old : List Byte) (spec : Bool) (zs : List W32) : List Byte × Bool :=
  let fxs := signed 6 (adKpar q)
  let fin := zs.filter fFinite
  let ms := fin.map (momentM fxs)
  let acc := adAccum q
  let n32 := fun o => if acc then leNat ((old.drop o).take 4) else 0
  let c := if acc then signed 32 (n32 0) else (ms.headD (0, false)).1
  let s1 : Int := (if acc then signed 128 (leNat ((old.drop 8).take 16)) else 0) + (ms.map fun m => m.1 - c).sum
  let s2 : Int := (if acc then (leNat ((old.drop 0x18).take 16) : Nat) else 0) + (ms.map fun m => (m.1 - c) * (m.1 - c)).sum
  let clips := (ms.filter (·.2)).length
  let flags := bitAt (spec || (acc && bit (old.getD 0x31 0).toNat 1)) 1
  (leBytes 4 (c % 2 ^ 32).toNat ++ leBytes 4 (satAdd32 (n32 4) ms.length).toNat ++ leBytes 16 (s1 % 2 ^ 128).toNat ++
     leBytes 16 (s2 % 2 ^ 128).toNat ++ leBytes 4 (satAdd32 (n32 0x28) (zs.length - fin.length)).toNat ++
     leBytes 4 (satAdd32 (n32 0x2C) clips).toNat ++ leBytes 1 (fxs % 256).toNat ++ leBytes 1 flags ++ List.replicate 14 0,
   decide (clips ≠ 0))

/-! ### Conversion of a drain's elements and the compressor (R91, R96) -/

/-- Raw elements, exponent bytes, and which elements clipped (for BN the number of clips). -/
structure Conv where
  raw   : List Nat
  exps  : List Nat
  clips : Nat
  rep   : Nat   -- represented non-finite elements, which the amax unit also counts (R65)

/-- Conversion to a format through a BN table or CW set; `seed` selects stochastic rounding (R71). -/
def convAll (win : Memory) (f tbl set : Nat) (seed : Option W32) (vs : List FV) : Conv :=
  if isBN f then
    let r := bnEncode (bnTable win (f = 6) tbl) seed vs
    { raw := r.1, exps := r.2.1, clips := r.2.2, rep := 0 }
  else
    let cs := (List.range vs.length).map fun i =>
      (convRaw f (acoef win set) (seed.map fun s => rand71 s i) (vs.getD i .nan), !(vs.getD i .nan).isFin)
    { raw := cs.map (·.1.1), exps := [], clips := (cs.filter (·.1.2)).length, rep := (cs.filter fun c => !c.1.2 && c.2).length }

/-- An element is zero when its value is 0 (R96): the sign bit of a floating format is ignored. -/
def elemZero (f x : Nat) : Bool :=
  if f = 3 ∨ f = 4 then decide (x % 128 = 0) else if f = 5 then decide (x % 32768 = 0) else decide (x = 0)

/-- One block of 64 elements: mask, non-zero elements packed, padding to 8 bytes. -/
def cmpBlock (f : Nat) (xs : List Nat) : List Byte :=
  let w := fmtBits f
  let mask := ((List.range xs.length).map fun i => bitAt (!elemZero f (xs.getD i 0)) i).sum
  let nz := xs.filter fun x => !elemZero f x
  let body := pack w nz
  leBytes 8 mask ++ body ++ List.replicate ((8 - body.length % 8) % 8) 0

def cmpStream (f : Nat) (xs : List Nat) : List Byte := (chunks 64 xs.length xs).flatMap (cmpBlock f)

/-- The stream header (Table 4.8). -/
def cmpHeader (f len nnz : Nat) : List Byte := leBytes 4 len ++ leBytes 4 nnz ++ leBytes 1 f ++ List.replicate 55 0

/-! ### Start and completion -/

/-- The drain-class command at the head, when the class is idle. -/
def CoreState.drainHead (k : CoreState) : Option QEntry := k.nextStart .aeDrain

/-- Table 2.6 for a drain or ARELEASE: go, wait, or AE_TILE. -/
def CoreState.drainGate (k : CoreState) (t : TileId) (id : Nat) : Option Bool :=
  match (k.tile t).st with
  | .full => some true
  | .empty => if k.earlierPass t id then some false else none
  | _ => some false

/-- Record bytes of a drain that reads them: the record under ACCUM, its PBASE alone for another TOPK drain (R93, R95). -/
def State.readRecordFor (s : State) (c : Nat) (q : QEntry) : Except ReadFail (List Byte) :=
  if adRed q.slot = 0 then .ok []
  else if adAccum q.slot then s.readOperand c (adRec q)
  else if adRed q.slot = 1 then s.readOperand c { adRec q with hi := (adRec q).lo + 4 }
  else .ok []

/-- SPERR records a failed access that met wrong parity; a refusal at a neighbour records nothing (R149, R152). -/
def State.noteFail (s : State) (c : Nat) (f : ReadFail) : State :=
  if f.fault = fSpParity then s.parityAt c (portOf .aeDrain) f.core f.addr else s

/-- A drain that starts on a FULL tile: operands, the BN table, the record, then DRAINING with F read once (R86, R91, R95). -/
def State.startDrain (s : State) (c : Nat) (q : QEntry) : State :=
  let w := q.slot
  let k := s.core c
  let fail := fun (s : State) (f : Byte) (d : W64) => s.updCore c fun k => k.finish q.id f 0 d
  let op := s.checkOps c false (drainOperands q)
  if op ≠ 0 then fail s op 0
  else if isBN (adFmt w) ∧ ascending (bnTable k.win (adFmt w = 6) (adCode w)) = false then fail s fVeTable 0
  else match s.readRecordFor c q with
    | .error x => fail (s.noteFail c x) x.fault (BitVec.ofNat 64 x.addr)
    | .ok rec =>
      if adAccum w ∧ recordBad w rec then fail s fAeRecord 0
      else
        let f : W32 := if bitOf w 94 then k.vsfScale (fld w 93 88) else 0x3F800000
        let t := adTile w
        let s1 := s.traceEv c 1 q.tag (slotNum .aeDrain) 1 0
        s1.updCore c fun k => { k.setTile t { (k.tile t) with st := .draining } with
          drain := some { id := q.id, tile := t, scale := f, record := rec } }.updEntry q.id fun e => { e with st := .executing }

/-- DRAIN_START (R42, R86): the drain or ARELEASE at the head of the class. -/
def execDrainStart (c : CoreId) (s : State) : Out :=
  let k := s.core c
  .next (match k.drainHead with
    | none => s
    | some q =>
      let w := q.slot
      let fail := fun f : Byte => s.updCore c fun k => k.finish q.id f 0 0
      if slotOpc w = 0x42 then
        if releaseFieldBad w then fail fAeField
        else match k.drainGate (pcTile w) q.id with
          | none => fail fAeTile
          | some false => s
          | some true => (s.traceEv c 1 q.tag (slotNum .aeDrain) 1 0).updCore c fun k =>
              (k.setTile (pcTile w) { (k.tile (pcTile w)) with st := .empty }).finish q.id 0 0 0
      else if slotOpc w = 0x43 then
        if drainFieldBad w then fail fAeField
        else match k.drainGate (adTile w) q.id with
          | none => fail fAeTile
          | some false => s
          | some true => s.startDrain c q
      else s)

/-- ADRAIN (R84). -/
def execAdrain (c : CoreId) (tag : BitVec 16) (slot : W128) (s : State) : Out := .next (s.enterQueue c .aeDrain tag slot)

/-- A piece of an operand to be written: the core that holds it, its address and its bytes. -/
structure Run where
  core  : Nat
  addr  : Nat
  bytes : List Byte

/-- One piece written. The neighbour that holds it checks the access as it arrives (R149); a partial lane of wrong parity ends the
write (R138). Whether a byte was written before the failure is answered with it. -/
def State.putRun (s : State) (c : Nat) (r : Run) : State × Option (ReadFail × Bool) :=
  if r.core ≠ c ∧ s.nbAdmits c r.core r.addr (r.addr + r.bytes.length : Nat) false true = false then
    (s, some ({ fault := fNbDenied, core := r.core, addr := r.addr, sat := false }, false))
  else
    let x := s.aeWrite r.core r.addr r.bytes
    (x.1, x.2.map fun a => ({ fault := fSpParity, core := r.core, addr := a, sat := false }, decide (r.addr < a)))

/-- Pieces written in order until an access fails: the failure, and whether anything was written before it. -/
def State.writeRuns (s : State) (c : Nat) (done : Bool) : List Run → State × Option ReadFail × Bool
  | [] => (s, none, done)
  | r :: rest =>
    let x := s.putRun c r
    match x.2 with
    | none => State.writeRuns x.1 c (done || !r.bytes.isEmpty) rest
    | some f => (x.1, some f.1, done || f.2)

/-- Bias values of the drained lanes up to the first block of 64 whose bias cannot be read, with that failure (R86, R149, R152). -/
def State.biasRead (s : State) (c : Nat) (q : QEntry) : List Nat × Option ReadFail :=
  if bitOf q.slot 87 then
    let o := adBias q
    let own := o.core c
    if own ≠ c ∧ s.nbAdmits c own o.lo o.hi true false = false then
      ([], some { fault := fNbDenied, core := own, addr := o.lo.toNat, sat := false })
    else
      let r := s.fetchAll c (portOf .aeDrain) own 128 ((List.range (adNb q.slot)).map fun b => o.lo.toNat + 128 * b)
      (r.1.flatMap (unpack 16 64), r.2.map fun a => { fault := fSpParity, core := own, addr := a, sat := false })
  else (List.replicate (adCount q.slot) 0, none)

/-- What a drain writes for each block of 64 elements, in block order: its elements or its compressed block, then for a BN format its two
exponent bytes (R86, R91, R96). -/
def drainRuns (c : Nat) (q : QEntry) (cv : Conv) : List Run :=
  let w := q.slot
  let f := adFmt w
  let o := adDst q
  let x := adAux q
  let parts := (chunks 64 cv.raw.length cv.raw).map fun b => if adCmp w then cmpBlock f b else pack (fmtBits f) b
  let start := o.lo.toNat + (if adCmp w then 64 else 0)
  if f = 12 then []
  else parts.zipIdx.flatMap fun p =>
    { core := o.core c, addr := start + ((parts.take p.2).map List.length).sum, bytes := p.1 } ::
      (if isBN f then
        [{ core := x.core c, addr := x.lo.toNat + 2 * p.2, bytes := ((cv.exps.drop (2 * p.2)).take 2).map (BitVec.ofNat 8) }]
      else [])

/-- DRAIN_COMPLETE (R86): elements and exponents block by block, then record and header; the amax track told; the tile EMPTY. On an access
failure before the first byte the tile stays FULL; after it, what is written stands and the tile becomes EMPTY. -/
def execDrainComplete (c : CoreId) (s : State) : Out :=
  let k := s.core c
  .next (match k.drain with
    | none => s
    | some d =>
      match k.queue.find? fun q => q.id = d.id with
      | none => s
      | some q =>
        let w := q.slot
        let t := adTile w
        let f := adFmt w
        let b := s.biasRead c q
        let n := b.1.length
        let zs := (List.range n).map fun e => k.pipeZ w d.scale (b.1.getD e 0) e (s.free + e)
        let vs := zs.map fp32
        let cv := convAll k.win f (adCode w) (adCode w) none vs
        let spec := (k.tile t).spec
        let mo := momentsRecord w d.record spec zs
        let o := adDst q
        let body := drainRuns c q cv
        let record : List Run :=
          if adRed w = 1 then [{ core := (adRec q).core c, addr := (adRec q).lo.toNat, bytes := topkRecord w d.record spec zs }]
          else if adRed w = 2 then [{ core := (adRec q).core c, addr := (adRec q).lo.toNat, bytes := mo.1 }] else []
        let nnz := (cv.raw.filter fun x => !elemZero f x).length
        let len := (body.map fun r => r.bytes.length).sum
        let header : List Run :=
          if adCmp w then [{ core := o.core c, addr := o.lo.toNat, bytes := cmpHeader f len nnz }] else []
        let endTile := fun (s : State) (st : TileSt) => s.updCore c fun k =>
          { k.setTile t { (k.tile t) with st := st } with drain := none }
        let fail := fun (s : State) (wrote : Bool) (x : ReadFail) =>
          ((endTile s (if wrote then .empty else .full)).noteFail c x).updCore c
            fun k => k.finish q.id x.fault 0 (BitVec.ofNat 64 x.addr)
        match b.2 with
        | some x =>
          let r := s.writeRuns c false body
          fail r.1 r.2.2 (r.2.1.getD x)
        | none =>
          let r := s.writeRuns c false (body ++ record ++ header)
          match r.2.1 with
          | some x => fail r.1 r.2.2 x
          | none =>
            let nonfin := (List.range n).any fun e => decide (k.laneSt t (64 * adBlk0 w + e) ≠ .normal)
            let clips := if f = 12 then nonFin vs else cv.clips + cv.rep
            let s2 := endTile r.1 .empty
            let s3 := if bitOf w 82 then s2.updCore c fun k => k.observe (fld w 81 77) (some (finMax vs)) n clips else s2
            (s3.updCore c fun k => k.finish q.id 0
              (estatDrain (decide (f ≠ 12) && decide (cv.clips ≠ 0)) nonfin spec (decide (adRed w = 2) && mo.2)) 0).bumpN n)

end Sys2Proof.Machine
end

