-- ==== Sys2Proof/Machine/Merge.lean ====
section
/-! DEFINITION. Merge trees: the core's AMERGE and the hub's merge jobs with dispatch (R98 to R101); the atomic adds (R104, R124). -/

namespace Sys2Proof.Machine

/-- Whether pair a comes before pair b in an order: 0 index ascending, 1 value descending, 2 value ascending (Table 4.11), equal
values putting the lower index first (R99). -/
def pairBefore (order : Nat) (a b : Nat × Nat) : Bool :=
  match order with
  | 0 => decide (a.1 < b.1)
  | 1 => if a.2 = b.2 then decide (a.1 < b.1) else decide (b.2 < a.2)
  | _ => if a.2 = b.2 then decide (a.1 < b.1) else decide (a.2 < b.2)

/-- Whether b after a in one run is out of the run's order. -/
def outOfOrder (order : Nat) (a b : Nat × Nat) : Bool :=
  match order with
  | 0 => decide (b.1 < a.1)
  | 1 => decide (a.2 < b.2)
  | _ => decide (b.2 < a.2)

/-- The run whose head comes first; of equal heads the lower run number. -/
def bestRun (order : Nat) (runs : List (List (Nat × Nat))) : Option (Nat × (Nat × Nat)) :=
  (List.range runs.length).foldl (fun best i =>
    match (runs.getD i []).head?, best with
    | none, _ => best
    | some h, none => some (i, h)
    | some h, some b => if pairBefore order h b.2 then some (i, h) else best) none

/-- Saturating int32 sum of two 32-bit patterns (R99). -/
def satSum32 (a b : Nat) : Nat × Bool :=
  let v := signed 32 a + signed 32 b
  if 2147483647 < v then (0x7FFFFFFF, true) else if v < -2147483648 then (0x80000000, true) else ((v % 2 ^ 32).toNat, false)

/-- What a merge yields: pairs in order, whether they came to the capacity, a SUM saturated, a run found out of order. -/
structure Merged where
  out   : List (Nat × Nat)
  trunc : Bool
  sat   : Bool
  bad   : Bool
  deriving DecidableEq, Repr

/-- Pairs emitted, last first, when the tree stops: TRUNC is capacity reached, whether or not pairs are left (Table 4.12). -/
def Merged.of (cap : Nat) (rev : List (Nat × Nat)) (sat : Bool) : Merged :=
  { out := rev.reverse, trunc := decide (cap ≤ rev.length), sat := sat, bad := false }

/-- The merge (R99); `rev` is the output so far, last pair first. LIM 0 means no limit. A run's order is checked between the pair taken
and the next one; pairs after the one at which the tree stops are not looked at (assumption log 149). -/
def mergeGo (order comb lim cap : Nat) : Nat → List (List (Nat × Nat)) → List (Nat × Nat) → Bool → Merged
  | 0, _, rev, sat => .of cap rev sat
  | fuel + 1, runs, rev, sat =>
    match bestRun order runs with
    | none => .of cap rev sat
    | some (i, p) =>
      let run := runs.getD i []
      let next := runs.set i (run.drop 1)
      let bad := match run with
        | a :: b :: _ => outOfOrder order a b
        | _ => false
      let joins := comb ≠ 0 ∧ order = 0 ∧ rev.head?.any (fun x => x.1 = p.1)
      if joins then
        let last := rev.headD (0, 0)
        let r := if comb = 1 then satSum32 last.2 p.2 else (max last.2 p.2, false)
        if bad then { out := [], trunc := false, sat := sat, bad := true }
        else mergeGo order comb lim cap fuel next ((p.1, r.1) :: rev.drop 1) (sat || r.2)
      else if (lim ≠ 0 ∧ rev.length = lim) ∨ rev.length = cap then .of cap rev sat
      else if bad then { out := [], trunc := false, sat := sat, bad := true }
      else mergeGo order comb lim cap fuel next (p :: rev) sat

def mergeRuns (order comb lim cap : Nat) (runs : List (List (Nat × Nat))) : Merged :=
  mergeGo order comb lim cap ((runs.map List.length).sum + 1) runs [] false

/-- Pairs as bytes, and bytes as pairs (R98). -/
def pairBytes (ps : List (Nat × Nat)) : List Byte := ps.flatMap fun p => leBytes 4 p.1 ++ leBytes 4 p.2
def bytePairs (n : Nat) (bs : List Byte) : List (Nat × Nat) :=
  (List.range n).map fun i => (leNat ((bs.drop (8 * i)).take 4), leNat ((bs.drop (8 * i + 4)).take 4))

/-! ### AMERGE -/

def amRuns (q : W128) : Nat := fld q 119 117 + 1
def amOrder (q : W128) : Nat := fld q 116 115
def amComb (q : W128) : Nat := fld q 114 113
def amLim (q : W128) : Nat := fld q 112 97

/-- Field checks of AMERGE (Table 4.11, R99). -/
def mergeFieldBad (q : W128) : Bool :=
  decide (amOrder q = 3 ∨ amComb q = 3 ∨ fld q 96 48 ≠ 0 ∨ fld q 39 0 ≠ 0 ∨ (amComb q ≠ 0 ∧ amOrder q ≠ 0))

/-- The address and count words of a descriptor. -/
def descWord (bs : List Byte) (o : Nat) : Nat := leNat ((bs.drop o).take 4)

/-- A command of the drain class that ended on a failed access. -/
def RunResult.readFail (s : State) (c : Nat) (x : ReadFail) : RunResult :=
  { s := s.noteFail c x, fault := x.fault, estat := 0, detail := BitVec.ofNat 64 x.addr }

/-- A run or output operand named by a descriptor: an absolute address of the core's space. -/
def descOperand (addr n : Nat) (rd wr : Bool) (al : Nat) : Operand := fixedOperand (none, (addr : Int)) n rd wr al

/-- AMERGE run on the core's merge tree (R98, R99). A run of count 0, or an OUT of capacity 0, has no footprint and takes no part in the
checks of R144 (assumption log 150). -/
def State.runMerge (s : State) (c : Nat) (q : QEntry) : RunResult :=
  let w := q.slot
  if mergeFieldBad w then .fail s fAeField
  else
    let desc := fixedOperand (resolveHandle q.handles (fld w 47 40)) 144 true true 64
    let f0 := s.checkOps c false [desc]
    if f0 ≠ 0 then .fail s f0
    else match s.readOperand c desc with
      | .error x => .readFail s c x
      | .ok bs =>
        let ins := (List.range (amRuns w)).map fun r =>
          descOperand (descWord bs (16 * r)) (8 * descWord bs (16 * r + 4)) true false 8
        let cap := descWord bs 0x84
        let out := descOperand (descWord bs 0x80) (8 * cap) false true 1
        let f1 := s.checkOps c false ((ins ++ [out]).filter fun o => o.lo ≠ o.hi)
        if f1 ≠ 0 then .fail s f1
        else
          let rd := ins.map fun o => s.readOperand c o
          match rd.findSome? fun r => match r with
              | .error x => some x
              | .ok _ => none with
          | some x => .readFail s c x
          | none =>
            let runs := (rd.zip ins).map fun p => match p.1 with
              | .ok b => bytePairs ((p.2.hi - p.2.lo).toNat / 8) b
              | .error _ => []
            let m := mergeRuns (amOrder w) (amComb w) (amLim w) cap runs
            let o := desc.core c
            let da := desc.lo.toNat
            if m.bad then
              let s1 := (s.aeWrite c out.lo.toNat (freeBytes s.free (8 * cap))).1.bumpN (8 * cap)
              .fail (s1.putRun c { core := o, addr := da + 0x88, bytes := leBytes 4 0 }).1 fMergeOrder
            else
              let r := s.writeRuns c false [{ core := c, addr := out.lo.toNat, bytes := pairBytes m.out },
                { core := o, addr := da + 0x88, bytes := leBytes 4 m.out.length ++ leBytes 4 (bitAt m.trunc 0 + bitAt m.sat 1) }]
              match r.2.1 with
              | some x => .readFail r.1 c x
              | none => .ok r.1 0

/-- AMERGE (R98, R99). -/
def execAmerge (c : CoreId) (s : State) : Out :=
  .next (s.runNext c .aeDrain 0x44 (fun _ => false) fun s q => s.runMerge c q)

/-! ### Hub merge jobs (R100, R101, Table 4.13) -/

/-- Fields of a descriptor at byte offset `off` of partition p's commons region. -/
def Hub.mj (h : Hub) (p off o n : Nat) : Nat := h.commonsNum p (off + o) n

def mjRuns (h : Hub) (p off : Nat) : Nat := h.mj p off 4 1
def mjMode (h : Hub) (p off : Nat) : Nat := h.mj p off 5 1
def mjDests (h : Hub) (p off : Nat) : Nat := let n := h.mj p off 9 1; if n = 0 then 256 else n

/-- A DESTd: core, counter, address, capacity. -/
def mjDest (h : Hub) (p off d : Nat) : Nat × Nat × Nat × Nat :=
  let a := 0x440 + 16 * d
  (h.mj p off a 1, h.mj p off (a + 1) 1, h.mj p off (a + 4) 4, h.mj p off (a + 8) 4)

/-- Whether a destination passes R101: a core of the partition, within one region it owns, counter at most 31. -/
def State.destOk (s : State) (p : Nat) (d : Nat × Nat × Nat × Nat) : Bool :=
  let k := s.core d.1
  let r := d.2.2.1 / 0x100000
  let w := k.spown r
  decide (d.1 < 80) && decide (k.owner = some p) && decide (d.2.1 ≤ 31) && decide (r < 48) &&
    decide (d.2.2.1 + 8 * d.2.2.2 ≤ (r + 1) * 0x100000) && bitOf w 31 && decide (fld w 3 0 = p)

/-- A MODE with a reserved ORDER or COMB, a COMB other than KEEP under value order, or DISPATCH without index order (R99, R101,
Table 4.11). -/
def mjModeBad (mode : Nat) : Bool :=
  decide (mode % 4 = 3 ∨ mode / 4 % 4 = 3 ∨ (mode / 4 % 4 ≠ 0 ∧ mode % 4 ≠ 0) ∨ (bit mode 4 ∧ mode % 4 ≠ 0))

/-- The status a job is bound to end with before it writes anything: 4 FULL, 5 DENIED, else 0. A job whose MODE is reserved is
rejected (R9) with a STATUS that the spec does not name: a free one of 2 to 6 (assumption log 148). -/
def State.mergeCheck (s : State) (p off : Nat) : Nat :=
  let h := s.hub
  let total := ((List.range (mjRuns h p off)).map fun r => h.mj p off (0x44 + 8 * r) 4).sum
  if mjModeBad (mjMode h p off) then 2 + Config.freeNat s.free % 5
  else if h.mj p off 0x14 4 < total then 4
  else if bit (mjMode h p off) 4 ∧ ¬(List.range (mjDests h p off)).all fun d => s.destOk p (mjDest h p off d) then 5
  else 0

/-- The tenant whose pool entry a merge job takes: that of the partition's first program that runs, else its first tenant
(assumption log 138). -/
def Hub.mergeTenant (h : Hub) (p : Nat) : Nat :=
  match h.programs.find? fun g => decide (g.part = p) && h.invs.any fun v => decide (v.prog = g.handle) with
  | some g => g.tenant
  | none => (h.part p).tbase

/-- Whether a job names a core that a rebinding moves (R234). -/
def Hub.mergeWaits (h : Hub) (p off : Nat) : Bool :=
  bit (mjMode h p off) 4 && h.rebinds.any fun r => decide (r.part = p) &&
    (List.range (mjDests h p off)).any fun d => r.moves.any fun m => decide (m.1 = (mjDest h p off d).1)

/-- HUB_MERGE_START (R100, R101, R220, R234): STATUS is 0 and ARRIVED has come to NRUN, which is 1 to 128. A job that the pool does not
admit does not start, and its tenant is noted as waiting for the pool; one that names a core which a rebinding moves waits. -/
def execHubMergeStart (p : PartId) (off : Nat) (s : State) : Out :=
  let h := s.hub
  let n := mjRuns h p off
  let t := h.mergeTenant p.val
  .next (if off % 64 = 0 ∧ off + 0x440 ≤ h.commonsSize p ∧ h.mj p off 0xC 4 = 0 ∧ n ≠ 0 ∧ n ≤ 128 ∧ n ≤ h.mj p off 0 4 ∧
      !(h.jobs.any fun j => decide (j.part = p.val) && decide (j.off = off)) then
    (if h.poolOk 3 t then
      (s.setHub { h with jobs := h.jobs ++ [{ part := p.val, off := off, coll := false, tenant := t, waits := h.mergeWaits p.val off,
                                              fail := s.mergeCheck p off }] }).bump
    else s.setHub (h.ask 3 t))
  else s)

/-- The jobs of a partition that waited for a rebinding start once none moves a core they name (R234). -/
def State.startWaiting (s : State) (p : Nat) : State :=
  s.updHub fun h => { h with jobs := h.jobs.map fun j =>
    if j.part = p ∧ j.waits ∧ h.mergeWaits p j.off = false then { j with waits := false, fail := s.mergeCheck p j.off } else j }

/-- Merge descriptors of a partition that the hub knows to be pending (R100, R232): an atomic add has reached ARRIVED, STATUS is 0, NRUN
is 1 to 128, and no job has started for it (assumption log 155). -/
def Hub.pendingMerges (h : Hub) (p : Nat) : List Nat :=
  (h.mergeSeen.filter fun x => decide (x.1 = p ∧ x.2 % 64 = 0 ∧ x.2 + 0x440 ≤ h.commonsSize p) && decide (h.mj p x.2 0xC 4 = 0) &&
    decide (1 ≤ mjRuns h p x.2 ∧ mjRuns h p x.2 ≤ 128) &&
    !(h.jobs.any fun j => decide (j.part = p ∧ j.off = x.2) && !j.waits)).map (·.2)

/-- The core field of each destination of a pending descriptor that names a moved core rewritten (R232 step 6). -/
def Hub.rewriteMerges (h : Hub) (p : Nat) (moves : List (Nat × Nat)) : Hub :=
  (h.pendingMerges p).foldl (fun h off =>
    if bit (mjMode h p off) 4 then
      (List.range (mjDests h p off)).foldl (fun h d =>
        match moves.find? fun m => m.1 = (mjDest h p off d).1 with
        | some m => h.commonsPut p (off + 0x440 + 16 * d) (leBytes 1 m.2)
        | none => h) h
    else h) h

/-- An atomic add has reached a word of a commons region. -/
def Hub.noteAdd (h : Hub) (p o : Nat) : Hub :=
  if o % 64 = 0 ∧ (p, o) ∉ h.mergeSeen then { h with mergeSeen := h.mergeSeen ++ [(p, o)] } else h

/-- Deliver the pairs of one destination: up to its capacity into its scratchpad, the count, then the arrival. -/
def State.deliver (s : State) (p off d : Nat) (pairs : List (Nat × Nat)) : State :=
  let x := mjDest s.hub p off d
  let take := pairs.take x.2.2.2
  let s1 := (s.aeWrite x.1 x.2.2.1 (pairBytes take)).1
  let s2 := s1.updHub fun h => h.commonsPut p (off + 0x440 + 16 * d + 12) (leBytes 4 take.length)
  s2.updCore x.1 fun k => k.addAc x.2.1 1 0 0

/-- HUB_MERGE_DONE (R100, R101): outputs, counts and arrivals, STATUS last. -/
def execHubMergeDone (p : PartId) (off : Nat) (s : State) : Out :=
  let h := s.hub
  .next (match h.jobs.find? fun j => decide (j.part = p.val) && decide (j.off = off) && !j.coll && !j.waits with
    | none => s
    | some j =>
      let s0 := s.updHub fun h => { h with jobs := h.jobs.filter fun x => decide (x ≠ j), mergeSeen := h.mergeSeen.filter fun x => decide (x ≠ (p.val, off)) }
      let status := fun (s : State) (v : Nat) => s.updHub fun h => h.commonsPut p (off + 0xC) (leBytes 4 v)
      if j.fail ≠ 0 then status s0 j.fail
      else
        let mode := mjMode h p off
        let runs := (List.range (mjRuns h p off)).map fun r =>
          let cnt := h.mj p off (0x44 + 8 * r) 4
          bytePairs cnt (h.commonsGet p (h.mj p off (0x40 + 8 * r) 4) (8 * cnt))
        let outA := h.mj p off 0x10 4
        let cap := h.mj p off 0x14 4
        let m := mergeRuns (mode % 4) (mode / 4 % 4) (h.mj p off 6 2) (2 ^ 32) runs
        let excess := decide (mjRuns h p off < h.mj p off 0 4)
        let done := if excess then 6 else 1
        let putOut := fun (s : State) (ps : List (Nat × Nat)) => s.updHub fun h =>
          (h.commonsPut p outA (pairBytes ps)).commonsPut p (off + 0x18) (leBytes 4 ps.length)
        if m.bad then
          let free := freeBytes s.free (8 * cap)
          let s1 := (s0.updHub fun h => h.commonsPut p outA free).bumpN (8 * cap)
          let s2 := if bit mode 4 then (List.range (mjDests h p off)).foldl (fun s d =>
              let x := mjDest h p off d
              (s.aeWrite x.1 x.2.2.1 (freeBytes s.free (8 * x.2.2.2))).1.bumpN (8 * x.2.2.2)) s1 else s1
          status s2 3
        else if bit mode 4 then
          let dsh := h.mj p off 8 1
          let nd := mjDests h p off
          let dest := fun x : Nat × Nat => x.1 / 2 ^ dsh
          let s1 := (List.range nd).foldl (fun s d => s.deliver p off d (m.out.filter fun x => dest x = d)) s0
          let rest := m.out.zipIdx.filterMap fun x =>
            let d := dest x.1
            let before := ((m.out.take x.2).filter fun y => dest y = d).length
            if nd ≤ d ∨ (mjDest h p off d).2.2.2 ≤ before then some x.1 else none
          status (putOut s1 rest) (if rest = [] then done else 2)
        else status (putOut s0 m.out) done)

/-! ### Atomic adds -/

/-- SATOM (R104): ATOMIC right, fields, operand; an int32 added modulo 2^32 at the bank, not undone by a replay. -/
def State.runSatom (s : State) (c : Nat) (q : QEntry) : RunResult :=
  let w := q.slot
  if fld w 119 64 ≠ 0 ∨ fieldForm (slotMid w) = 3 then .fail s fSeField
  else if s.hub.right (s.core c).part 0 = false then .fail s fAtomicDenied
  else
    let o := fixedOperand (resolveField q.handles (slotMid w) q.xr1) 4 false true 4
    let f := s.checkOps c false [o]
    if f ≠ 0 then .fail s f
    else
      let d := o.core c
      let a := o.lo.toNat
      let old := leNat (Memory.readN (s.core d).sp a 4)
      let r := (s.core d).spWrite 4 a (leBytes 4 ((old + fld w 31 0) % 2 ^ 32))
      match r.2 with
      | some x => .parity s c (portOf .se) d x
      | none => .ok (s.setCore d r.1) 0

/-- SATOM (R104). -/
def execSatom (c : CoreId) (s : State) : Out :=
  .next (s.runNext c .se 0x21 (fun _ => false) fun s q => s.runSatom c q)

/-- SCATOM (R124, R202): the commons word at OFFSET of the partition's region; no ATOMIC right is needed. -/
def State.runScatom (s : State) (c : Nat) (q : QEntry) : RunResult :=
  let w := q.slot
  let p := (s.core c).part
  let o := fld w 63 32
  if fld w 119 64 ≠ 0 then .fail s fSeField
  else if o % 4 ≠ 0 ∨ s.hub.commonsSize p < o + 4 then .fail s fSpAddr
  else
    let old := s.hub.commonsNum p o 4
    .ok (s.updHub fun h => (h.commonsPut p o (leBytes 4 ((old + fld w 31 0) % 2 ^ 32))).noteAdd p o) 0

/-- SCATOM (R124). -/
def execScatom (c : CoreId) (s : State) : Out :=
  .next (s.runNext c .se 0x22 (fun _ => false) fun s q => s.runScatom c q)

end Sys2Proof.Machine
end

