-- ==== Sys2Proof/Machine/Vector.lean ====
section
/-! DEFINITION. The vector engine (R102, R103, R163 to R178): command fields, element streams, operations, reductions, partial
sums, softmax, conversion, overlap and status. -/

namespace Sys2Proof.Machine

/-! ### Command and parameter fields (Tables 7.1 and 7.2) -/

def veAfmt (w : W128) : Nat := fld w 113 110
def veBfmt (w : W128) : Nat := fld w 109 106
def veDfmt (w : W128) : Nat := fld w 105 102
def vePat (w : W128) : Nat := fld w 119 114
def veSclm (p : W64) : Nat := fld p 33 32
def veRnd (p : W64) : Bool := bitOf p 22
def veCausal (p : W64) : Bool := bitOf p 8
def veK (p1 : W64) : W32 := BitVec.ofNat 32 (fld p1 63 32)
def veNpart (p1 : W64) : Nat := fld p1 63 48
/-- L of VPSUM is 64 times this field. -/
def veLanes (p1 : W64) : Nat := 64 * fld p1 47 32
def vePstride (p1 : W64) : Nat := fld p1 31 0

/-- Opcodes of the integer class (R169). -/
def veInt (opc : Nat) : Bool := decide (0x28 ≤ opc) && decide (opc ≤ 0x2B)
/-- Reductions of R170. -/
def veReduces (opc : Nat) : Bool := decide (0x10 ≤ opc) && decide (opc ≤ 0x12)
/-- Operations whose result uses b. -/
def veUsesB (opc : Nat) : Bool :=
  veInt opc || opc = 0x21 || (decide (1 ≤ opc) && decide (opc ≤ 9)) || opc = 0x0D

/-- Formats of the integer class's sources and destinations (R169). -/
def intFmt (f : Nat) : Bool := f = 0 || f = 1 || f = 2 || f = 13
def intDst (f : Nat) : Bool := intFmt f || f = 3 || f = 4 || f = 5 || f = 14

/-- Opcodes of Table 7.4. -/
def veKnown (opc : Nat) : Bool :=
  decide (opc ≤ 0x0D) || veReduces opc || opc = 0x18 || opc = 0x19 || opc = 0x20 || opc = 0x21 || veInt opc

/-- Reserved encodings and formats of the command itself that R178 refuses. -/
def veSlotBad (w : W128) : Bool :=
  let opc := slotOpc w
  let ps := opc = 0x18
  decide (veKnown opc = false ∨ fld w 101 97 = 31 ∨ bitOf w 96 = true ∨ fieldForm (slotHi w) = 3 ∨ fieldForm (slotLo w) = 3 ∨
    (¬ps ∧ (62 ≤ vePat w ∨ veAfmt w = 12 ∨ veAfmt w = 15 ∨ veBfmt w = 15 ∨ veDfmt w = 12 ∨ veDfmt w = 15 ∨
      (veBfmt w ≠ 12 ∧ fieldForm (slotMid w) = 3) ∨ (veUsesB opc = true ∧ veBfmt w = 12))) ∨
    (opc = 0x19 ∧ veAfmt w ≠ 5 ∧ veAfmt w ≠ 14) ∨ (opc = 0x21 ∧ veBfmt w ≠ 14) ∨
    (veInt opc = true ∧ (intFmt (veAfmt w) = false ∨ intFmt (veBfmt w) = false ∨ intDst (veDfmt w) = false)))

/-- Parameters that R178 refuses. -/
def veParamBad (opc : Nat) (p p1 : W64) : Bool :=
  decide (veSclm p = 3 ∨ fld p 7 0 ≠ 0 ∨ (veCausal p = true ∧ opc ≠ 0x20 ∧ opc ≠ 0x21) ∨ (veRnd p = true ∧ opc = 0x20) ∨
    ((opc = 0x18 ∨ opc = 0x19) ∧ (veNpart p1 < 2 ∨ 64 < veNpart p1)) ∨
    (opc = 0x18 ∧ (veLanes p1 < 64 ∨ 16384 < veLanes p1)) ∨ (veInt opc = true ∧ veSclm p ≠ 0))

/-! ### Element streams (R165) -/

/-- Elements of a format that one pattern element supplies; 0 when it holds none. -/
def Pat.per (p : Pat) (f : Nat) : Nat := if fmtBits f = 0 then 0 else 8 * p.size / fmtBits f
/-- Elements of a format that a whole walk supplies. -/
def Pat.elems (p : Pat) (f : Nat) : Nat := p.count * p.per f

/-- The patterns of a command that agree in length under R165, R170 and R174: A, B (when walked) and D. -/
def vePats (k : CoreState) (w : W128) : Option (Pat × Option Pat × Pat) :=
  let opc := slotOpc w
  match k.pat (vePat w), k.pat (vePat w + 2) with
  | some a, some d =>
    let na := a.elems (veAfmt w)
    let group := (a.levels.headD (1, 0)).1 * a.per (veAfmt w)
    let rows := if group = 0 then 0 else na / group
    let want := if veReduces opc then rows else na
    if na = 0 ∨ d.elems (veDfmt w) ≠ want ∨ (opc = 0x20 ∧ 16384 < group) then none
    else if veBfmt w = 12 then some (a, none, d)
    else match k.pat (vePat w + 1) with
      | none => none
      | some b =>
        if opc = 0x21 then (if b.elog = 4 ∧ b.count = rows then some (a, some b, d) else none)
        else if b.elems (veBfmt w) = na then some (a, some b, d) else none
  | _, _ => none

/-- Bytes of the exponent array of n elements (R68). -/
def expBytes (n : Nat) : Nat := (n + 31) / 32

/-- Operand of the exponent array named by handle h (R175). -/
def expOperand (q : QEntry) (h n : Nat) (rd wr : Bool) : Operand := fixedOperand (resolveHandle q.handles h) (expBytes n) rd wr 1

def veAxh (p : W64) : Nat := fld p 55 48
def veBxh (p : W64) : Nat := fld p 47 40
def veDxh (p : W64) : Nat := fld p 63 56

/-- Bytes of the absent positions of a partial last block of a BN destination, which follow its last element (R68). -/
def absentBytes (f n : Nat) : Nat := if isBN f then (32 * expBytes n - n) * fmtBits f / 8 else 0

/-- The address after the last element that a walk visits. -/
def Pat.endAt (p : Pat) (base : Int) : Int := base + p.offsets.getLastD 0 + p.size

/-- A: partial i of VFSUM, or the whole operand (R165, R172). -/
def veOpA (q : QEntry) (a : Pat) (i : Nat) : Operand :=
  let r := resolveField q.handles (slotHi q.slot) q.xr2
  walkOperand (r.1, r.2 + (i * vePstride q.par1 : Nat)) a true false
/-- B, which VSMXC also rewrites (R174). -/
def veOpB (q : QEntry) (b : Pat) : Operand :=
  walkOperand (resolveField q.handles (slotMid q.slot) q.xr1) b true (decide (slotOpc q.slot = 0x21))
/-- D, with the absent positions of a partial BN block. -/
def veOpD (q : QEntry) (d : Pat) : Operand :=
  let o := walkOperand (resolveField q.handles (slotLo q.slot) q.xr0) d false true
  let f := veDfmt q.slot
  let x := absentBytes f (d.elems f)
  if x = 0 then o else { o with hi := max o.hi (d.endAt o.base + x) }

/-- Partials that A names. -/
def veParts (q : QEntry) : Nat := if slotOpc q.slot = 0x19 then veNpart q.par1 else 1

/-- The operands of a command that walks patterns in the order of R144: A, B and D, then those reached through parameters: the exponent
arrays as Table 7.2 lists them, D's, A's and B's, and the further partials of VFSUM. -/
def veOperands (q : QEntry) (a : Pat) (b : Option Pat) (d : Pat) : List Operand :=
  let w := q.slot
  let p := q.par0
  [veOpA q a 0] ++ (b.map (veOpB q)).toList ++ [veOpD q d] ++
  (if isBN (veDfmt w) then [expOperand q (veDxh p) (d.elems (veDfmt w)) false true] else []) ++
  (if isBN (veAfmt w) then [expOperand q (veAxh p) (a.elems (veAfmt w)) true false] else []) ++
  (match b with
    | some x => if isBN (veBfmt w) then [expOperand q (veBxh p) (x.elems (veBfmt w)) true false] else []
    | none => []) ++
  (List.range (veParts q - 1)).map fun i => veOpA q a (i + 1)

/-- The exact values of one operand: raw elements in order, with the block exponents of a bell-coded one. -/
def CoreState.decodeAll (k : CoreState) (f tbl set n : Nat) (bs ex : List Byte) : List FV :=
  let raw := unpack (fmtBits f) n bs
  if isBN f then
    let t := bnTable k.win (f = 6) tbl
    (List.range n).map fun i => bnDecode t (ex.getD (i / 32) 0).toNat (raw.getD i 0)
  else raw.map (decodeRaw f (acoef k.win set))

/-- What reading an operand gives: its values, or the core and address of a parity error. -/
abbrev Fetched := Except (Nat × Nat) (List FV)

/-- The ports on which the VE reads A, and reads B and writes D (R179, Table 6.9). -/
def portVeA : Nat := 2
def portVeB : Nat := portOf .ve

/-- Read a walked operand of n elements on a port, with its exponent array. -/
def State.veRead (s : State) (c port : Nat) (q : QEntry) (o : Operand) (p : Pat) (f tbl xh : Nat) : Fetched :=
  let n := p.elems f
  let r := s.fetchAll c port (o.core c) p.size (p.addrs o.base)
  match r.2 with
  | some a => .error (o.core c, a)
  | none =>
    if isBN f then
      let x := expOperand q xh n true false
      match s.fetch c port (x.core c) x.lo.toNat (expBytes n) with
      | .error a => .error (x.core c, a)
      | .ok ex => .ok ((s.core c).decodeAll f tbl (fld q.par0 15 12) n r.1.flatten ex)
    else .ok ((s.core c).decodeAll f tbl (fld q.par0 15 12) n r.1.flatten [])

/-! ### Operations (R167 to R170) -/

/-- The 128 partial sums of R170. A square is rounded before it is added (R64, R167: only Table 7.4's fused operations are not). -/
def partialSums (sq : Bool) (xs : List W32) : List W32 :=
  (List.range 128).map fun p =>
    ((List.range xs.length).filter fun j => j % 128 = p).foldl
      (fun acc j => let x := xs.getD j 0; fAdd acc (if sq then fMul x x else x)) 0

/-- Pairwise combination: partial 2i + 1 added to partial 2i. -/
def pairSum : List W32 → List W32
  | a :: b :: rest => fAdd a b :: pairSum rest
  | l => l

/-- The sum of R170. -/
def sum170 (sq : Bool) (xs : List W32) : W32 :=
  (pairSum (pairSum (pairSum (pairSum (pairSum (pairSum (pairSum (partialSums sq xs)))))))).headD 0

/-- The maximum of a group under the rules of VMAX. -/
def maxOf (xs : List W32) : W32 := xs.tail.foldl fMax (xs.headD 0)

/-- One result of an element-wise operation (Table 7.4). -/
def CoreState.veOp (k : CoreState) (opc actt : Nat) (kc a b : W32) (draw : Nat) : W32 :=
  match opc with
  | 0x00 => a
  | 0x01 => fAdd a b
  | 0x02 => fSub a b
  | 0x03 => fMul a b
  | 0x04 => fMax a b
  | 0x05 => fMin a b
  | 0x06 => fFma a kc b
  | 0x07 => fFma kc (fSub b a) a
  | 0x08 => fFma kc (fSub (fMul b b) a) a
  | 0x09 => fDiv a (fAdd (fSqrt b) kc)
  | 0x0A => fExp (fMul kc a)
  | 0x0B => fRsqrt (fAdd a kc)
  | 0x0C => k.activate actt a draw
  | _ => fDiv a b

/-- One exact result of the integer class (R169). -/
def intOp (opc : Nat) (a b : Int) : Int :=
  match opc with
  | 0x28 => a + b
  | 0x29 => a - b
  | 0x2A => a * b
  | _ => max a b

/-- An exactly decoded integer. -/
def FV.toInt (v : FV) : Int :=
  match v with
  | .fin neg m e => sgn neg (m * 2 ^ e.toNat)
  | _ => 0

/-- The scores of a softmax row: K·a + b, masked beyond i + DIAG under CAUSAL (R173). -/
def scores (kc : W32) (causal : Bool) (diag : Int) (i : Nat) (as bs : List W32) : List W32 :=
  (List.range as.length).map fun j : Nat =>
    if causal ∧ (i : Int) + diag < (j : Nat) then 0xFF800000 else fAdd (fMul kc (as.getD j 0)) (bs.getD j 0)

/-- One row of VSMX and whether it was empty (R173). -/
def softmaxRow (rs : List W32) : List W32 × Bool :=
  if rs.all fun r => r = 0xFF800000 then (rs.map fun _ => 0, true)
  else if rs.any fIsNan then (rs.map fun _ => 0x7FC00000, false)
  else
    let m := maxOf rs
    let es := rs.map fun r => fExp (fSub r m)
    let t := sum170 false es
    (es.map fun e => fDiv e t, false)

/-- One row of VSMXC from its record m, l: the new m, l, c and the p_j (R174). -/
def softmaxChunk (m l : W32) (rs : List W32) : W32 × W32 × W32 × List W32 :=
  let mn := fMax m (maxOf rs)
  let c : W32 := if mn = 0xFF800000 then 0x3F800000 else fExp (fSub m mn)
  let ps := rs.map fun r => if mn = 0xFF800000 then 0 else fExp (fSub r mn)
  (mn, fAdd (fMul l c) (sum170 false ps), c, ps)

/-! ### Conversion and the writes to D -/

/-- Seed of a conversion: only into formats narrower than FP32 (R71). VFSUM and VSMXC take their seed's bits for another
parameter, so a stochastic conversion there uses a free seed (assumption log 24). -/
def veSeed (q : QEntry) (draw : Nat) : Option W32 :=
  if veRnd q.par0 ∧ fmtBits (veDfmt q.slot) < 32 then
    some (if slotOpc q.slot = 0x19 ∨ slotOpc q.slot = 0x21 then Config.freeW32 draw else BitVec.ofNat 32 (fld q.par1 31 0))
  else none

/-- Whether two byte ranges of one core meet. -/
def meets (o a n : Nat) (r : Nat × Nat × Nat) : Bool :=
  decide (o = r.1) && decide (a < r.2.1 + r.2.2) && decide (r.2.1 < a + n)

/-- The elements of a run of e-byte elements that overlap a source become free bytes (R177). -/
def freeOverlap (src : List (Nat × Nat × Nat)) (e draw : Nat) (r : Run) : Run :=
  { r with bytes := (List.range r.bytes.length).map fun i =>
      if src.any (meets r.core (r.addr + i / e * e) e) then Config.freeByte (draw + i) else r.bytes.getD i 0 }

/-- Byte ranges a walk visits. -/
def visited (o : Operand) (c : Nat) (p : Pat) : List (Nat × Nat × Nat) := (p.addrs o.base).map fun a => (o.core c, a, p.size)

/-- Pieces of a VE destination written in order until one meets a partial lane of wrong parity: its core and address. -/
def State.veStore (s : State) (c id : Nat) : List Run → State × Option (Nat × Nat)
  | [] => (s, none)
  | r :: rest =>
    let x := s.storeElem c portVeB id r.core r.addr r.bytes
    match x.2 with
    | some a => (x.1, some (r.core, a))
    | none => State.veStore x.1 c id rest

/-- Slices of a byte list by pattern element. -/
def slices (n cnt : Nat) (bs : List Byte) : List (List Byte) := (List.range cnt).map fun i => (bs.drop (n * i)).take n

/-- Whether two walked operands coincide: same core, base, pattern and format (R177). -/
def coincide (c : Nat) (x y : Operand) (p r : Pat) (f g : Nat) : Bool :=
  decide (x.core c = y.core c) && decide (x.base = y.base) && decide (p = r) && decide (f = g)

/-- The byte ranges of the sources that D may not overlap: all but an operand that coincides with D, whose exponent array then
coincides too where D's is the same (R177). -/
def veSources (c : Nat) (q : QEntry) (a : Pat) (b : Option Pat) (d : Pat) : List (Nat × Nat × Nat) :=
  let w := q.slot
  let p := q.par0
  let f := veDfmt w
  let od := walkOperand (resolveField q.handles (slotLo w) q.xr0) d false true
  let ox := expOperand q (veDxh p) (d.elems f) false true
  let oa := veOpA q a 0
  let sameA := coincide c oa od a d (veAfmt w) f
  let sameB := b.any fun x => coincide c (veOpB q x) od x d (veBfmt w) f
  let n := a.elems (veAfmt w)
  let exps := fun (yes same : Bool) (x : Operand) =>
    if yes && !(same && decide (x.core c = ox.core c) && decide (x.base = ox.base)) then [(x.core c, x.lo.toNat, expBytes n)] else []
  ((List.range (veParts q)).flatMap fun i =>
      let o := veOpA q a i
      if sameA && decide (o.base = oa.base) then [] else visited o c a) ++
    (match b with
      | some x => if sameB then [] else visited (veOpB q x) c x
      | none => []) ++
    exps (isBN (veAfmt w)) sameA (expOperand q (veAxh p) n true false) ++
    exps (b.isSome && isBN (veBfmt w)) sameB (expOperand q (veBxh p) n true false)

/-- What a command writes to D: its elements along the walk, the absent positions of a partial BN block after the last of them (R68), and
the exponent array; elements that overlap a source are free (R177). -/
def veRuns (c : Nat) (q : QEntry) (a : Pat) (b : Option Pat) (d : Pat) (cv : Conv) (draw : Nat) : List Run :=
  let f := veDfmt q.slot
  let n := d.elems f
  let od := walkOperand (resolveField q.handles (slotLo q.slot) q.xr0) d false true
  let ox := expOperand q (veDxh q.par0) n false true
  let src := veSources c q a b d
  let eb := max 1 (fmtBits f / 8)
  let at_ := d.size * d.count
  (((d.addrs od.base).zip (slices d.size d.count (pack (fmtBits f) (cv.raw.take n)))).zipIdx.map fun x =>
    freeOverlap src eb (draw + d.size * x.2) { core := od.core c, addr := x.1.1, bytes := x.1.2 }) ++
  (if absentBytes f n = 0 then []
    else [freeOverlap src 1 (draw + at_)
      { core := od.core c, addr := (d.endAt od.base).toNat, bytes := pack (fmtBits f) (cv.raw.drop n) }]) ++
  (if isBN f then [freeOverlap src 1 (draw + at_ + absentBytes f n)
      { core := ox.core c, addr := ox.lo.toNat, bytes := cv.exps.map (BitVec.ofNat 8) }] else [])

/-- Convert results to D and write them with their exponents; the track is told; status under Table 7.5. `vs` are the values converted,
`seen` the results before a quantising multiplication, which the track measures (R76, Table 3.14); `recs` are the VSMXC records
written first; `nonfin` and `empty` are what the operation met. -/
def State.veFinish (s : State) (c : Nat) (q : QEntry) (a : Pat) (b : Option Pat) (d : Pat) (vs seen : List FV) (recs : List Run)
    (nonfin empty : Bool) : RunResult :=
  let p := q.par0
  let f := veDfmt q.slot
  let cv := convAll (s.core c).win f (fld p 25 23) (fld p 15 12) (veSeed q s.free) vs
  let runs := veRuns c q a b d cv s.free
  let drawn := (runs.map fun r => r.bytes.length).sum + vs.length
  let r := (s.bumpN drawn).veStore c q.id (recs ++ runs)
  match r.2 with
  | some x => .parity r.1 c portVeB x.1 x.2
  | none =>
    let s1 := if bitOf p 21 then
        r.1.updCore c fun k => k.observe (fld p 20 16) (some (finMax seen)) vs.length (cv.clips + cv.rep) else r.1
    .ok s1 (estatVe (decide (cv.clips ≠ 0)) (nonfin || vs.any fun v => !v.isFin) empty false)

/-! ### The commands -/

/-- Sources, scale and tables read, then the work; on a parity error nothing is written. -/
def State.veFloat (s : State) (c : Nat) (q : QEntry) (a : Pat) (b : Option Pat) (d : Pat) : RunResult :=
  let w := q.slot
  let p := q.par0
  let k := s.core c
  let opc := slotOpc w
  let fa := veAfmt w
  let kc := veK q.par1
  let ob := veOpB q (b.getD a)
  let parity := fun (port : Nat) (x : Nat × Nat) => RunResult.parity s c port x.1 x.2
  let scale := k.vsfScale (fld p 39 34)
  let inv := k.vsfInv (fld p 39 34)
  let deq := fun v : FV => if veSclm p = 1 then fMul v.toFP32 scale else v.toFP32
  let quant := fun r : W32 => if veSclm p = 2 then fp32 (fMul r inv) else fp32 r
  let group := (a.levels.headD (1, 0)).1 * a.per fa
  let rowsOf := fun xs : List W32 => chunks group xs.length xs
  let bad := fun xs : List W32 => xs.any fun x => !fFinite x
  if opc = 0x19 then
    let parts := (List.range (veNpart q.par1)).map fun i =>
      s.veRead c portVeA q (veOpA q a i) a fa 0 0
    match parts.findSome? fun r => match r with
        | .error x => some x
        | .ok _ => none with
    | some x => parity portVeA x
    | none =>
      let xs := parts.map fun r => match r with
        | .ok v => v.map deq
        | .error _ => []
      let sums := (List.range (a.elems fa)).map fun e =>
        (xs.drop 1).foldl (fun acc l => fAdd acc (l.getD e 0)) ((xs.headD []).getD e 0)
      s.veFinish c q a b d (sums.map quant) (sums.map fp32) [] (xs.any bad || bad sums) false
  else match s.veRead c portVeA q (veOpA q a 0) a fa (fld p 31 29) (veAxh p) with
    | .error x => parity portVeA x
    | .ok va =>
      let as := va.map deq
      let nfA := va.any fun v => !v.isFin
      if opc = 0x21 then
        match b with
        | none => .fail s fVeField
        | some pb =>
          let r := s.fetchAll c portVeB (ob.core c) 16 (pb.addrs ob.base)
          match r.2 with
          | some x => parity portVeB (ob.core c, x)
          | none =>
            let rows := rowsOf as
            let diag := signed 32 (fld q.par1 31 0)
            let out := (List.range rows.length).map fun i =>
              let rc := r.1.getD i []
              softmaxChunk (BitVec.ofNat 32 (leNat (rc.take 4))) (BitVec.ofNat 32 (leNat ((rc.drop 4).take 4)))
                (scores kc (veCausal p) diag i (rows.getD i []) [])
            let recs : List Run := ((pb.addrs ob.base).zip out).map fun x =>
              { core := ob.core c, addr := x.1, bytes := leBytes 4 x.2.1.toNat ++ leBytes 4 x.2.2.1.toNat ++ leBytes 4 x.2.2.2.1.toNat }
            let nf := nfA || out.any (fun x => bad [x.1, x.2.1, x.2.2.1]) || r.1.any fun rc =>
              bad [BitVec.ofNat 32 (leNat (rc.take 4)), BitVec.ofNat 32 (leNat ((rc.drop 4).take 4))]
            let rs := out.flatMap (·.2.2.2)
            s.veFinish c q a b d (rs.map quant) (rs.map fp32) recs nf (out.any fun x => x.1 = 0xFF800000)
      else
        let rb : Fetched := match b with
          | none => .ok []
          | some pb => s.veRead c portVeB q ob pb (veBfmt w) (fld p 28 26) (veBxh p)
        match rb with
        | .error x => parity portVeB x
        | .ok vb =>
          let bs := vb.map FV.toFP32
          let nf := nfA || vb.any fun v => !v.isFin
          if veInt opc then
            let rs := (List.range va.length).map fun e => FV.ofInt (intOp opc (va.getD e .nan).toInt (vb.getD e .nan).toInt)
            s.veFinish c q a b d rs rs [] false false
          else if veReduces opc then
            let rs := (rowsOf as).map fun g => if opc = 0x11 then maxOf g else sum170 (decide (opc = 0x12)) g
            s.veFinish c q a b d (rs.map quant) (rs.map fp32) [] (nf || bad rs) false
          else if opc = 0x20 then
            let rows := rowsOf as
            let brows := rowsOf bs
            let diag := signed 32 (fld q.par1 31 0)
            let out := (List.range rows.length).map fun i =>
              softmaxRow (scores kc (veCausal p) diag i (rows.getD i []) (brows.getD i []))
            let rs := out.flatMap (·.1)
            s.veFinish c q a b d (rs.map quant) (rs.map fp32) [] (nf || bad rs) (out.any (·.2))
          else
            let rs := (List.range as.length).map fun e => k.veOp opc (fld p 11 9) kc (as.getD e 0) (bs.getD e 0) (s.free + e)
            s.veFinish c q a b d (rs.map quant) (rs.map fp32) [] (nf || bad rs) false

/-- The combination of one lane of the partials (R102), and whether a finite sum left the range. -/
def combineLane (xs : List (Int × LaneSt)) : Int × LaneSt × Bool :=
  let has := fun st : LaneSt => xs.any fun x => x.2 = st
  if has .inv || (has .posInf && has .negInf) then (-2147483648, .inv, false)
  else if has .posInf then (2147483647, .posInf, false)
  else if has .negInf then (-2147483648, .negInf, false)
  else
    let v := (xs.map (·.1)).sum
    if 2147483647 < v then (2147483647, .posInf, true)
    else if v < -2147483648 then (-2147483648, .negInf, true)
    else (v, .normal, false)

/-- A preload image of lanes (R44). -/
def imageBytes (ls : List (Int × LaneSt)) : List Byte :=
  ls.flatMap (fun x => leBytes 4 (x.1 % 2 ^ 32).toNat) ++ pack 2 (ls.map fun x => laneStNum x.2)

/-- VPSUM (R102, R171). -/
def State.vePsum (s : State) (c : Nat) (q : QEntry) : RunResult :=
  let w := q.slot
  let l := veLanes q.par1
  let n := 4 * l + l / 4
  let ra := resolveField q.handles (slotHi w) q.xr2
  let ins := (List.range (veNpart q.par1)).map fun i => fixedOperand (ra.1, ra.2 + (i * vePstride q.par1 : Nat)) n true false 64
  let od := fixedOperand (resolveField q.handles (slotLo w) q.xr0) n false true 64
  let f := s.checkOps c true (ins.take 1 ++ [od] ++ ins.drop 1)
  if f ≠ 0 then .fail s f
  else
    let rd := ins.map fun o => (o, s.fetch c portVeA (o.core c) o.lo.toNat n)
    match rd.findSome? fun x => match x.2 with
        | .error a => some (x.1.core c, a)
        | .ok _ => none with
    | some x => .parity s c portVeA x.1 x.2
    | none =>
      let ims := rd.map fun x => match x.2 with
        | .ok bs => preloadImage l bs
        | .error _ => ([], [])
      let out := (List.range l).map fun i => combineLane (ims.map fun m => (m.1.getD i 0, m.2.getD i .normal))
      let src := (ins.map fun o => (o.core c, o.lo.toNat, n)).filter fun r => decide (r ≠ (od.core c, od.lo.toNat, n))
      let run := freeOverlap src 1 s.free { core := od.core c, addr := od.lo.toNat, bytes := imageBytes (out.map fun x => (x.1, x.2.1)) }
      let r := (s.bumpN n).veStore c q.id [run]
      match r.2 with
      | some x => .parity r.1 c portVeB x.1 x.2
      | none =>
        let nf := (ims.any fun m => m.2.any fun st => st ≠ .normal) || out.any fun x => x.2.1 ≠ .normal
        .ok r.1 (estatVe false nf false (out.any (·.2.2)))

/-- One VE command: fields, counts, addresses, the encode table, then the work (R178, R144, R69). -/
def State.runVe (s : State) (c : Nat) (q : QEntry) : RunResult :=
  let w := q.slot
  let k := s.core c
  if veSlotBad w ∨ veParamBad (slotOpc w) q.par0 q.par1 then .fail s fVeField
  else if slotOpc w = 0x18 then s.vePsum c q
  else match vePats k w with
    | none => .fail s fVeField
    | some (a, b, d) =>
      let f := s.checkOps c true (veOperands q a b d)
      if f ≠ 0 then .fail s f
      else if isBN (veDfmt w) ∧ ascending (bnTable k.win (veDfmt w = 6) (fld q.par0 25 23)) = false then .fail s fVeTable
      else s.veFloat c q a b d

/-- A VE command waits while a tile window it walks is FILLING or DRAINING, or a table it writes is in use (Table 2.6, R90, R176); VPSUM
walks no pattern. -/
def CoreState.veHolds (k : CoreState) (q : QEntry) : Bool :=
  let w := q.slot
  let n := 4 * veLanes q.par1 + veLanes q.par1 / 4
  if slotOpc w = 0x18 then
    (fieldForm (slotHi w) = 0 && (List.range (veNpart q.par1)).any fun i =>
      k.readWaits (fld (slotHi w) 29 0 + i * vePstride q.par1) n) ||
    (fieldForm (slotLo w) = 0 && k.writeWaits (fld (slotLo w) 29 0) n)
  else
    ((List.range (veParts q)).any fun i =>
      k.walkHolds true (slotHi w + BitVec.ofNat 32 (if fieldForm (slotHi w) = 0 then i * vePstride q.par1 else 0)) (vePat w)) ||
    (veBfmt w ≠ 12 && (k.walkHolds true (slotMid w) (vePat w + 1) ||
      (slotOpc w = 0x21 && k.walkHolds false (slotMid w) (vePat w + 1)))) || k.walkHolds false (slotLo w) (vePat w + 2)

/-- The VE command of an opcode starts and runs when it is next. -/
def State.veStart (s : State) (c opc : Nat) : State :=
  s.runNext c .ve opc (fun q => (s.core c).veHolds q) fun s q => s.runVe c q

/-- VCOPY (Table 7.4). -/
def execVcopy (c : CoreId) (s : State) : Out := .next (s.veStart c 0x00)
/-- VADD. -/
def execVadd (c : CoreId) (s : State) : Out := .next (s.veStart c 0x01)
/-- VSUB. -/
def execVsub (c : CoreId) (s : State) : Out := .next (s.veStart c 0x02)
/-- VMUL. -/
def execVmul (c : CoreId) (s : State) : Out := .next (s.veStart c 0x03)
/-- VMAX. -/
def execVmax (c : CoreId) (s : State) : Out := .next (s.veStart c 0x04)
/-- VMIN. -/
def execVmin (c : CoreId) (s : State) : Out := .next (s.veStart c 0x05)
/-- VFMA. -/
def execVfma (c : CoreId) (s : State) : Out := .next (s.veStart c 0x06)
/-- VLERP. -/
def execVlerp (c : CoreId) (s : State) : Out := .next (s.veStart c 0x07)
/-- VLERPSQ. -/
def execVlerpsq (c : CoreId) (s : State) : Out := .next (s.veStart c 0x08)
/-- VDIVSQ. -/
def execVdivsq (c : CoreId) (s : State) : Out := .next (s.veStart c 0x09)
/-- VEXP (R168). -/
def execVexp (c : CoreId) (s : State) : Out := .next (s.veStart c 0x0A)
/-- VRSQRT (R168). -/
def execVrsqrt (c : CoreId) (s : State) : Out := .next (s.veStart c 0x0B)
/-- VACT (R89). -/
def execVact (c : CoreId) (s : State) : Out := .next (s.veStart c 0x0C)
/-- VDIV. -/
def execVdiv (c : CoreId) (s : State) : Out := .next (s.veStart c 0x0D)
/-- VRSUM (R170). -/
def execVrsum (c : CoreId) (s : State) : Out := .next (s.veStart c 0x10)
/-- VRMAX (R170). -/
def execVrmax (c : CoreId) (s : State) : Out := .next (s.veStart c 0x11)
/-- VRSSQ (R170). -/
def execVrssq (c : CoreId) (s : State) : Out := .next (s.veStart c 0x12)
/-- VPSUM (R171). -/
def execVpsum (c : CoreId) (s : State) : Out := .next (s.veStart c 0x18)
/-- VFSUM (R172). -/
def execVfsum (c : CoreId) (s : State) : Out := .next (s.veStart c 0x19)
/-- VSMX (R173). -/
def execVsmx (c : CoreId) (s : State) : Out := .next (s.veStart c 0x20)
/-- VSMXC (R174). -/
def execVsmxc (c : CoreId) (s : State) : Out := .next (s.veStart c 0x21)
/-- VIADD (R169). -/
def execViadd (c : CoreId) (s : State) : Out := .next (s.veStart c 0x28)
/-- VISUB (R169). -/
def execVisub (c : CoreId) (s : State) : Out := .next (s.veStart c 0x29)
/-- VIMUL (R169). -/
def execVimul (c : CoreId) (s : State) : Out := .next (s.veStart c 0x2A)
/-- VIMAX (R169). -/
def execVimax (c : CoreId) (s : State) : Out := .next (s.veStart c 0x2B)

end Sys2Proof.Machine
end

