-- ==== Sys2Proof/Machine/Fine.lean ====
section
/-! DEFINITION. The fine engine's FMM (R180 to R183). -/

namespace Sys2Proof.Machine

/-- Source formats as codes of Table 7.3: E4M3, E5M2, BF16. -/
def feSrc (x : Nat) : Nat := 3 + x
/-- Destination formats: FP32, BF16, E4M3, E5M2. -/
def feDst (x : Nat) : Nat := match x with | 0 => 14 | 1 => 5 | 2 => 3 | _ => 4

def feK (p : W64) : Nat := fld p 47 32
def feN (p : W64) : Nat := fld p 31 16
def feM (p : W64) : Nat := fld p 15 0
def fePitchA (p : W64) : Nat := 64 * fld p 63 48
def fePitchB (p : W64) : Nat := 64 * fld p 47 32
def fePitchD (p : W64) : Nat := 64 * fld p 31 16

def feAdds (w : W128) : Bool := decide (fld w 112 111 = 1)
def feABytes (w : W128) : Nat := fmtBits (feSrc (fld w 119 118)) / 8
def feBBytes (w : W128) : Nat := fmtBits (feSrc (fld w 117 116)) / 8
def feDBytes (w : W128) : Nat := fmtBits (feDst (fld w 115 113)) / 8

/-- Reserved encodings and formats mixed against R182 in the command itself (R183). -/
def feSlotBad (w : W128) : Bool :=
  decide (slotOpc w ≠ 0x60 ∨ fld w 119 118 = 3 ∨ fld w 117 116 = 3 ∨ 4 ≤ fld w 115 113 ∨ 2 ≤ fld w 112 111 ∨ fld w 110 106 = 0 ∨
    fld w 110 106 = 31 ∨ fld w 99 96 ≠ 0 ∨ fieldForm (slotHi w) = 3 ∨ fieldForm (slotMid w) = 3 ∨ fieldForm (slotLo w) = 3 ∨
    (fld w 119 118 = 2 ∧ fld w 117 116 ≠ 2) ∨ (fld w 119 118 ≠ 2 ∧ fld w 117 116 = 2) ∨
    (feAdds w = true ∧ fld w 115 113 ≠ 0))

/-- Dimensions out of range, reserved bits, pitches too small (R181, R183). -/
def feParamBad (w : W128) (p r : W64) : Bool :=
  decide (feK p = 0 ∨ feN p = 0 ∨ feM p = 0 ∨ fld r 1 0 ≠ 0 ∨ fePitchA r < feM p * feABytes w ∨
    fePitchB r < feN p * feBBytes w ∨ fePitchD r < feN p * feDBytes w)

/-- An operand of rows at a pitch. -/
def rowsOperand (r : Option W128 × Int) (rows pitch n : Nat) (rd wr : Bool) : Operand :=
  fixedOperand r (pitch * (rows - 1) + n) rd wr 64

/-- The ports on which the FE reads A, and reads B and writes D (R184, Table 6.9). -/
def portFeA : Nat := 4
def portFeB : Nat := portOf .fe

/-- n bytes at an offset of each row of an operand, read on a port, or a parity error's address. -/
def State.feRows (s : State) (c port : Nat) (o : Operand) (rows pitch off n : Nat) : List (List Byte) × Option Nat :=
  s.fetchAll c port (o.core c) n ((List.range rows).map fun i => o.lo.toNat + pitch * i + off)

/-- Accumulation of products in ascending k: pairs summed exactly for FP8 sources, one product at a time for BF16 (R182). -/
def accumulate (pairs : Bool) : W32 → List FV → W32
  | acc, [] => acc
  | acc, [p] => ((fp32 acc).add p).toFP32
  | acc, p :: r :: rest =>
    if pairs then accumulate pairs ((fp32 acc).add (p.add r)).toFP32 rest
    else accumulate pairs ((fp32 (((fp32 acc).add p).toFP32)).add r).toFP32 rest

/-- A command's operands: A and B by rows of k, D by rows of i (R181). -/
def feOpA (q : QEntry) : Operand :=
  rowsOperand (resolveField q.handles (slotHi q.slot) q.xr2) (feK q.par0) (fePitchA q.par1) (feM q.par0 * feABytes q.slot) true false
def feOpB (q : QEntry) : Operand :=
  rowsOperand (resolveField q.handles (slotMid q.slot) q.xr1) (feK q.par0) (fePitchB q.par1) (feN q.par0 * feBBytes q.slot) true false
def feOpD (q : QEntry) : Operand :=
  rowsOperand (resolveField q.handles (slotLo q.slot) q.xr0) (feM q.par0) (fePitchD q.par1) (feN q.par0 * feDBytes q.slot)
    (feAdds q.slot) true

/-- What the blocks so far leave: the state, the values reported to a track, clips with represented non-finite elements, whether an
accumulator was not finite, whether D has met a source, and the failure that ended the command. -/
structure FmmRun where
  s      : State
  seen   : List FV
  clips  : Nat
  clip   : Bool
  nonfin : Bool
  clash  : Bool
  fail   : Option (Nat × Nat × Nat)

/-- One output block of at most 128 × 128 from row i0 and column j0: its parts of A, B and, under ADD, D read, accumulated in ascending k,
scaled, converted and written by rows (R182). A block formed after one that was written over a source is free (assumption log 43). -/
def FmmRun.block (r : FmmRun) (c : Nat) (q : QEntry) (i0 j0 : Nat) : FmmRun :=
  let w := q.slot
  let p := q.par1
  let s := r.s
  let m := min 128 (feM q.par0 - i0)
  let n := min 128 (feN q.par0 - j0)
  let kk := feK q.par0
  let ea := feABytes w
  let eb := feBBytes w
  let ed := feDBytes w
  let oa := feOpA q
  let ob := feOpB q
  let od := feOpD q
  let dRow := fun i : Nat => od.lo.toNat + fePitchD p * (i0 + i) + ed * j0
  let ra := s.feRows c portFeA oa kk (fePitchA p) (ea * i0) (m * ea)
  let rb := s.feRows c portFeB ob kk (fePitchB p) (eb * j0) (n * eb)
  let rd := if feAdds w then s.fetchAll c portFeB (od.core c) (n * ed) ((List.range m).map dRow) else ([], none)
  match ra.2, rb.2, rd.2 with
  | some a, _, _ => { r with fail := some (portFeA, oa.core c, a) }
  | none, some a, _ => { r with fail := some (portFeB, ob.core c, a) }
  | none, none, some a => { r with fail := some (portFeB, od.core c, a) }
  | none, none, none =>
    let xa := ra.1.map fun bs => (unpack (8 * ea) m bs).map (decodeRaw (feSrc (fld w 119 118)) 0)
    let xb := rb.1.map fun bs => (unpack (8 * eb) n bs).map (decodeRaw (feSrc (fld w 117 116)) 0)
    let start := fun i j => if feAdds w then BitVec.ofNat 32 (leNat (((rd.1.getD i []).drop (4 * j)).take 4)) else (0 : W32)
    let accs := (List.range m).flatMap fun i => (List.range n).map fun j =>
      accumulate (decide (ea = 1)) (start i j) ((xa.zip xb).map fun x => (x.1.getD i .nan).mul (x.2.getD j .nan))
    let k := s.core c
    let out := if bitOf p 9 then accs.map fun a => fMul a (k.vsfScale (fld p 15 10)) else accs
    let vs := (if bitOf p 2 then out.map fun a => fMul a (k.vsfInv (fld p 8 3)) else out).map fp32
    let cv := convAll k.win (feDst (fld w 115 113)) 0 0 none vs
    let rows := (chunks n (m * n) cv.raw).zipIdx.map fun x =>
      (dRow x.2, if r.clash then freeBytes (s.free + n * ed * x.2) (n * ed) else pack (8 * ed) x.1)
    let wr := (s.bumpN (m * n * ed)).storeAll c portFeB q.id (od.core c) rows
    let src := ((List.range kk).map fun i => (oa.core c, oa.lo.toNat + fePitchA p * i, feM q.par0 * ea)) ++
      (List.range kk).map fun i => (ob.core c, ob.lo.toNat + fePitchB p * i, feN q.par0 * eb)
    { s := wr.1, seen := r.seen ++ out.map fp32, clips := r.clips + cv.clips + cv.rep, clip := r.clip || decide (cv.clips ≠ 0),
      nonfin := r.nonfin || accs.any fun a => !fFinite a,
      clash := r.clash || (List.range m).any fun i => src.any (meets (od.core c) (dRow i) (n * ed)),
      fail := wr.2.map fun a => (portFeB, od.core c, a) }

/-- The corners of the output blocks: row blocks ascending, then column blocks (R182). -/
def feBlocks (m n : Nat) : List (Nat × Nat) :=
  (List.range ((m + 127) / 128)).flatMap fun i => (List.range ((n + 127) / 128)).map fun j => (128 * i, 128 * j)

/-- FMM (R180 to R183): block by block; a parity error ends it and the blocks before stand (R152). The scale entries are those of the
start, for a command of another engine cannot come between. A track is told the values before a quantising multiplication
(assumption log 156). -/
def State.runFmm (s : State) (c : Nat) (q : QEntry) : RunResult :=
  let w := q.slot
  if feSlotBad w ∨ feParamBad w q.par0 q.par1 then .fail s fFeField
  else
    let f := s.checkOps c false [feOpA q, feOpB q, feOpD q]
    if f ≠ 0 then .fail s f
    else
      let r0 : FmmRun := { s := s, seen := [], clips := 0, clip := false, nonfin := false, clash := false, fail := none }
      let r := (feBlocks (feM q.par0) (feN q.par0)).foldl (fun r b => if r.fail.isSome then r else r.block c q b.1 b.2) r0
      match r.fail with
      | some x => .parity r.s c x.1 x.2.1 x.2.2
      | none =>
        let s1 := if bitOf w 105 then
            r.s.updCore c fun k => k.observe (fld w 104 100) (some (finMax r.seen)) r.seen.length r.clips
          else r.s
        .ok s1 (estatFe r.clip r.nonfin)

/-- FMM (R180). -/
def execFmm (c : CoreId) (s : State) : Out := .next (s.runNext c .fe 0x60 (fun _ => false) fun s q => s.runFmm c q)

end Sys2Proof.Machine
end

