-- ==== Sys2Proof/Machine/Replay.lean ====
section
/-! DEFINITION. Core states, hub START, HOLD, RELEASE and STOP, step replay, the fault path, patrol, region ownership, handle
invalidation and spare banks (R127, R129, R141, R142, R146, R151 to R158, Table 5.20). -/

namespace Sys2Proof.Machine

/-- X registers set by the hub: x is X1, X2, ... (R196). -/
def CoreState.setArgs (k : CoreState) (x : List W64) : CoreState :=
  (x.zipIdx).foldl (fun k p => k.putX (p.2 + 1) p.1) k

/-- Entering RUN at an entry word: acts as a STEP mark for R153. -/
def CoreState.start (k : CoreState) (bank : Bool) (entry : Nat) (x : List W64) : CoreState :=
  { (k.setArgs x) with st := .run, bank := bank, pc := entry, stepno := 0, doneReq := none, stopReq := false, replayDue := false,
                       replaying := false, restored := false, ackWait := 0, hint := none }.markStep entry

/-- CORE_START (R153, Table 5.20): refused (status 1) outside IDLE. -/
def execCoreStart (c : CoreId) (bank : Bool) (entry : BitVec 16) (x : List W64) (s : State) : Out :=
  let k := s.core c
  .next (if k.st = .idle then (s.setCore c (k.start bank entry.toNat x)).answer 0 [] else s.answer 1 [])

/-- RELEASE (Table 5.20): RUN, or REPLAY when a replay is due or was under way. -/
def CoreState.release (k : CoreState) : CoreState :=
  if k.st = .held then { k with st := if k.replayDue ∨ k.replaying then .replay else .run } else k

/-- CORE_HOLD (Table 5.20). -/
def execCoreHold (c : CoreId) (s : State) : Out := .next (s.updCore c CoreState.hold)

/-- CORE_RELEASE (Table 5.20): refused (status 1) in FAULTED. -/
def execCoreRelease (c : CoreId) (s : State) : Out :=
  .next (if (s.core c).st = .faulted then s.answer 1 [] else (s.updCore c CoreState.release).answer 0 [])

/-- CORE_STOP (Table 5.20): IDLE once the commands in flight have completed. -/
def execCoreStop (c : CoreId) (s : State) : Out :=
  .next (if (s.core c).st = .idle then s
    else (s.updCore c fun k => { k with stopReq := true, doneReq := none }).settle c)

/-- REPLAY_START (R129, R155, Table 5.20): a third replay fault within one step, or NOREPLAY, ends in FAULTED. A DONE issued before is
reissued by the replay (R55, R112). -/
def execReplayStart (c : CoreId) (s : State) : Out :=
  let k := s.core c
  .next (if k.replayDue ∧ (k.st = .run ∨ k.st = .replay) then
      if k.noReplay ∨ 3 ≤ k.replays then
        s.setCore c { (k.coreFault fReplayLimit 0 (BitVec.ofNat 32 k.replayPc) 0) with
          replayDue := false, replaying := false, doneReq := none }
      else s.setCore c { k with st := .replay, replayDue := false, replaying := true, restored := false, doneReq := none, hint := none }
    else s)

/-- R155 steps 2 and 3 on the core: tiles, amax, snapshot, own counters, tokens; the tokens lost to saturation. -/
def CoreState.restore (k : CoreState) : CoreState × Nat :=
  let k1 := { k with ta := { k.ta with st := .empty, tshift := 0 }, tb := { k.tb with st := .empty, tshift := 0 } }.discardAmax
  let k2 := { k1 with x := k.snap.x, flags := k.snap.flags, acexp := k.snap.acexp, stepOr := [], barsLeft := k.barsDone }
  let k3 := (List.range 32).foldl (fun k1 i =>
    let n := Sparse.get k.outLedger 0 i
    if n = 0 then k1 else k1.rollback i n) k2
  let k4 := (List.range 32).foldl (fun k1 i =>
    let n := Sparse.get k.consLedger 0 i
    if n = 0 then k1 else k1.addAc i n 0 0) k3
  (List.range 64).foldl (fun (a : CoreState × Nat) ch =>
    let n := Sparse.get k.consLedger 0 (32 + ch)
    if n = 0 then a else let r := a.1.addTok ch n; (r.1, a.2 + r.2)) (k4, 0)

/-- The rollbacks toward neighbours for every non-zero out-ledger amount (R155 step 4). -/
def CoreState.rollbacks (k : CoreState) (c : Nat) : List NbMsg :=
  [Dir.north, .south, .east, .west].flatMap fun d =>
    match neighbour c d with
    | none => []
    | some o => (List.range 32).filterMap fun i =>
        let n := Sparse.get k.outLedger 0 (32 * dirNum d + i)
        if n = 0 then none
        else some { src := c, dst := o, kind := .rollback, ac := i, amount := n, tag := 0, part := some k.part, entry := 0,
                    inStep := false, arrived := false, refused := false }

/-- Issue resumes at the replay point (R155 step 5). -/
def CoreState.resume (k : CoreState) : CoreState :=
  { k with st := if k.st = .replay then .run else k.st, pc := k.replayPc, replaying := false, restored := false, ackWait := 0 }

/-- REPLAY_RESTORE (R155): once the commands in flight have completed. Lost tokens are journalled as DROPPED_GRANT. -/
def execReplayRestore (c : CoreId) (s : State) : Out :=
  let k := s.core c
  .next (if k.st = .replay ∧ k.replaying ∧ k.restored = false ∧ k.replayDue = false ∧ k.queue = [] ∧ k.sigs = [] then
      let r := k.restore
      let msgs := k.rollbacks c
      let k1 := { r.1 with outLedger := [], consLedger := [], restored := true, ackWait := msgs.length }
      let s1 := if r.2 = 0 then s.setCore c k1
        else (s.setCore c k1).journal eDroppedGrant k.part 0 c 0 k.stepno 0 (BitVec.ofNat 64 r.2)
      if k1.st = .faulted then s1
      else if msgs = [] then s1.updCore c CoreState.resume
      else { s1 with nb := s1.nb ++ msgs }
    else s)

/-- ROLLBACK_APPLY (R150, R154): the oldest rollback toward the owner from that side. -/
def execRollbackApply (owner : CoreId) (d : Dir) (s : State) : Out :=
  let o := owner.val
  .next (match s.nb.find? fun m => decide (m.dst = o) && decide (some m.src = neighbour o d) && decide (m.kind = .rollback) &&
      !m.arrived && !m.refused with
    | none => s
    | some m =>
      let ok := s.admitsArrival o m.src m.part m.ac
      let s1 := { s with nb := s.nb.map fun x => if x = m then { x with arrived := ok, refused := !ok } else x }
      if ok then s1.updCore o fun k => k.rollback m.ac m.amount
      else s1.updCore o fun k => k.pushFault fNbDenied m.tag 0 (BitVec.ofNat 64 (dirNum d)))

/-- ROLLBACK_ACK (R155 steps 4 and 5): a refused rollback is recorded with tag 0; the last acknowledgement resumes issue. -/
def execRollbackAck (c : CoreId) (s : State) : Out :=
  .next (match s.nb.find? fun m => decide (m.src = c.val) && decide (m.kind = .rollback) && (m.arrived || m.refused) with
    | none => s
    | some m =>
      let s1 := { s with nb := s.nb.erase m }
      s1.updCore c fun k =>
        let k1 := if m.refused then k.pushFault fNbDenied 0 0 0 else k
        let k2 := { k1 with ackWait := k1.ackWait - 1 }
        if k2.ackWait = 0 ∧ k2.replaying ∧ k2.restored then k2.resume else k2)

/-- Running invocations that a core takes part in end with a fault (R242). -/
def Hub.invFault (h : Hub) (c : Nat) (code : Byte) : Hub :=
  { h with invs := h.invs.map fun i =>
      if (h.programs.find? fun p => p.handle = i.prog).any fun p => p.lcores.contains c then
        { i with fault := some (i.fault.getD code), busy := i.busy.filter (fun x => decide (x ≠ c)) } else i }

/-- A metadata row with an error of R20. -/
def MacroState.metaRowBad (m : MacroState) (r : Nat) : Bool :=
  !(m.failing (0x800 + r)).isEmpty ||
    (List.range 4).any fun w => (List.range 16).any fun g => (List.range 16).any fun p => badPattern (m.patternAt (4 * r + w) g p)

/-- The first answer to an ARRAY_CHECK of cause META: the metadata rows in error rewritten from the weight shadow (R28, R56). -/
def State.mendMeta (s : State) (c m : Nat) : State :=
  ((List.range 16).filter fun r => (s.mac c m).metaRowBad r).foldl (fun s r =>
    match s.shadowRow c m (0x800 + r) with
    | some d => s.arriveRow c m (.write .repair (BitVec.ofNat 12 (0x800 + r)) 0xFFFF d 0)
    | none => s) s

/-- An ARRAY_CHECK report counted by physical macro (R56): the macro is to be swapped when it reports again in the same step, or at three
reports within 10 s, which of the third and later reports a free value tells. -/
def State.checkReported (s : State) (c : Nat) (r : FaultRec) : State :=
  let m := fld r.detail 7 0
  let key := macKey c m
  let n := Sparse.get s.hub.checks 0 key + 1
  let s1 := s.updHub fun h => { h with checks := Sparse.set h.checks 0 key n }
  let due := r.again || (decide (3 ≤ n) && decide (Config.freeNat s.free % 2 = 1))
  let s2 := (if due then s1.wantSwap key else s1).bump
  if bitOf r.detail 12 then s2.mendMeta c m else s2

/-- FAULT_RECORD_TAKEN (R127, R56, R242): the record goes to the journal; a core fault is traced and ends the invocation; ARRAY_CHECK
reports are counted. -/
def execFaultRecordTaken (c : CoreId) (s : State) : Out :=
  let k := s.core c
  .next (match k.faultQ with
    | [] => s
    | r :: rest =>
      let s1 := (s.setCore c { k with faultQ := rest }).journal r.code k.part 0 c r.tag r.stepno r.addr r.detail
      if r.code = fArrayCheck then s1.checkReported c r
      else if clsOf r.code.toNat = 2 then
        (s1.updHub fun h => h.invFault c r.code).traceEv c 5 r.tag 0 3 (BitVec.ofNat 32 r.code.toNat)
      else s1)

/-- PATROL_READ (R157): the next word of a bank; PATROL 0 disables. -/
def execPatrolRead (c : CoreId) (bank : Fin 64) (s : State) : Out :=
  let k := s.core c
  .next (if Win.read k.win 0x040B0002 = 0 then s
    else
      let i := Sparse.get k.patrolAt 0 bank.val
      let w := 64 * i + bank.val
      let s1 := s.setCore c { k with patrolAt := Sparse.set k.patrolAt 0 bank.val ((i + 1) % 12288) }
      if k.lanesOf w = 0 then s1
      else (s1.updCore c fun k => k.noteParity 8 (64 * w) true).journal eSpLatent k.part 0 c 0 k.stepno (BitVec.ofNat 32 (64 * w)) 0)

/-- SPOWN_WRITE (R141, R142). -/
def execSpownWrite (c : CoreId) (r : Fin 48) (v : W32) (s : State) : Out := .next (s.updCore c fun k => k.writeSpown r v)

/-- REGION_SCRUB_DONE (R142). -/
def execRegionScrubDone (c : CoreId) (r : Fin 48) (s : State) : Out := .next (s.updCore c fun k => k.scrubDone r)

/-- HINV_WRITE (R146). -/
def execHinvWrite (c : CoreId) (v : W32) (s : State) : Out := .next (s.updCore c fun k => k.writeHinv v)

/-- HINV_DONE (R146). -/
def execHinvDone (c : CoreId) (s : State) : Out := .next (s.updCore c CoreState.hinvDone)

/-- Whether no other hub function keeps a core held: a spare bank's copy, a macro swap, a rebinding. -/
def State.mayRelease (s : State) (c : Nat) : Bool :=
  (s.core c).spareCopy.isEmpty && !(s.hub.swapHeld.any fun m => decide (m / 72 = c)) &&
    !(s.hub.rebinds.any fun r => r.holding && r.moves.any fun x => decide (x.1 = c))

/-- A core released once nothing holds it. -/
def State.releaseCore (s : State) (c : Nat) : State :=
  if s.mayRelease c then s.updCore c fun k => { k.release with holdAt := false } else s

/-- A hub hold at the next STEP mark; a core that does not run is where it can be held already (R56, R158). -/
def CoreState.holdAtMark (k : CoreState) : CoreState := if k.st = .run ∨ k.st = .replay then { k with holdAt := true } else k

end Sys2Proof.Machine
end

