-- ==== Sys2Proof/Machine/Loader.lean ====
section
/-! DEFINITION. The loader's verification of an image: header, sections, rights, quota, binding, words, buffers, counts, overlap,
footprints, steps, inputs and buckets, in the order of Table 8.4 (R185 to R197). -/

namespace Sys2Proof.Machine

/-! ### Header and sections (Tables 8.1 to 8.3) -/

/-- One bit of CRC-32 (IEEE 802.3), reflected. -/
def crc32Bit (c : Nat) : Nat := if c % 2 = 1 then Nat.xor (c / 2) 0xEDB88320 else c / 2
def crc32Byte (c : Nat) (b : Byte) : Nat :=
  crc32Bit (crc32Bit (crc32Bit (crc32Bit (crc32Bit (crc32Bit (crc32Bit (crc32Bit (Nat.xor c b.toNat))))))))
def crc32 (bs : List Byte) : Nat := Nat.xor (bs.foldl crc32Byte 0xFFFFFFFF) 0xFFFFFFFF

/-- A little-endian header field. -/
def hdrN (bs : List Byte) (o n : Nat) : Nat := leNat ((bs.drop o).take n)
def imgCores (i : Image) : Nat := hdrN i.header 0x10 1
def imgW (i : Image) : Nat := hdrN i.header 0x11 1
def imgH (i : Image) : Nat := hdrN i.header 0x12 1
def imgLegacy (i : Image) : Bool := bit (hdrN i.header 0x13 1) 0
def imgAtomic (i : Image) : Bool := bit (hdrN i.header 0x13 1) 1 || i.manifest.atomic
def imgNoadj (i : Image) : Bool := bit (hdrN i.header 0x13 1) 2

/-! ### Reading an image (R185, R186, Tables 8.1, 8.2, 8.6, 8.7) -/

/-- A section table entry, with the checksum of the bytes it names; a section that meets a poisoned block has none that agrees. -/
def secAt (rd : Nat → Nat → List Byte) (bad : Nat → Nat → Bool) (i : Nat) : SecEntry :=
  let b := rd (64 + 16 * i) 16
  let off := hdrN b 4 4
  let len := hdrN b 8 4
  let crc := BitVec.ofNat 32 (hdrN b 12 4)
  { type := b.getD 0 0, lcore := b.getD 1 0, reserved := BitVec.ofNat 16 (hdrN b 2 2), offset := off, len := len, scrc := crc,
    crcFound := if bad off len then ~~~crc else BitVec.ofNat 32 (crc32 (rd off len)) }

/-- A macro image: its 192-byte descriptor and its rows that are not 0 (R186). -/
def macroAt (rd : Nat → Nat → List Byte) (l o : Nat) : MacroImage :=
  let b := rd o 192
  { lcore := l, lmac := b.getD 0 0, byte1 := b.getD 1 0, mask := BitVec.ofNat 16 (hdrN b 2 2), mgsel := BitVec.ofNat 64 (hdrN b 8 8),
    mcoef := (List.range 16).map fun s => BitVec.ofNat 64 (hdrN b (64 + 8 * s) 8),
    reserved0 := decide (hdrN b 4 4 ≠ 0 ∨ hdrN b 16 48 ≠ 0),
    rows := ((List.range 2064).map fun r => (r, BitVec.ofNat 4096 (leNat (rd (o + 192 + 512 * r) 512)))).filter fun e => decide (e.2 ≠ 0) }

/-- The bucket table of a section (Table 8.6); its pad descriptors are among the listed records. -/
def bucketsAt (rd : Nat → Nat → List Byte) (o ncore : Nat) (pads : List Pad) : Buckets :=
  let b := rd o 0x24
  let nb0 := hdrN b 1 1
  let nb1 := hdrN b 2 1
  { ndim := hdrN b 0 1, nb0 := nb0, nb1 := nb1, npad := hdrN b 3 1,
    size0 := (List.range (min nb0 8)).map fun j => hdrN b (4 + 2 * j) 2,
    size1 := (List.range (min nb1 8)).map fun j => hdrN b (0x14 + 2 * j) 2, pads := pads.take (hdrN b 3 1),
    entries := (List.range (min nb0 8 * min nb1 8)).map fun e =>
      let es := rd (o + 0x240 + 2 * e * ncore) (2 * ncore)
      (List.range ncore).map fun i => hdrN es (2 * i) 2 }

/-- The image at a byte offset of a partition's LPDDR6 region: header, section table, WORDS, WEIGHTS, BUCKETS and ENERGY from the bytes;
the other sections' records are those listed, where their section is present. -/
def State.imageAt (s : State) (p off : Nat) (x : Listed) : Image :=
  let m := s.ext.regionOf p
  let rd := fun o n : Nat => Memory.readN m (off + o) n
  let h := rd 0 64
  let nsec := hdrN h 6 2
  let secs := if nsec ≤ 1024 then (List.range nsec).map (secAt rd fun o n => s.ext.readBad p (off + o) n) else []
  let sec := fun type l : Nat => secs.find? fun y => decide (y.type.toNat = type) && decide (y.lcore.toNat = l)
  let has := fun type l : Nat => (sec type l).isSome
  let ncore := hdrN h 0x10 1
  let energy := (sec 6 255).map fun y => rd y.offset y.len
  { header := h, sections := secs,
    words := (List.range ncore).map fun l => match sec 1 l with
      | some y => let b := rd y.offset (y.len / 4 * 4)
                  (List.range (y.len / 4)).map fun i => BitVec.ofNat 32 (hdrN b (4 * i) 4)
      | none => [],
    weights := (secs.filter fun y => y.type = 7).flatMap fun y =>
      (List.range (y.len / 1056960)).map fun i => macroAt rd y.lcore.toNat (y.offset + 1056960 * i),
    handles := x.handles.filter fun r => has 3 r.lcore, datainit := x.datainit.filter fun r => has 2 r.lcore,
    tables := x.tables.filter fun r => has 8 r.lcore, steps := x.steps.filter fun r => has 9 r.lcore, manifest := x.manifest,
    buckets := match sec 5 255 with
      | some y => bucketsAt rd y.offset ncore x.pads
      | none => { ndim := 0, nb0 := 0, nb1 := 0, npad := 0, size0 := [], size1 := [], pads := [], entries := [] },
    nstep := hdrN (energy.getD []) 0 2,
    est := (List.range (((energy.getD []).length - 4) / 4)).map fun i => hdrN (energy.getD []) (4 + 4 * i) 4 }

/-! ### Failures (R189) -/

/-- A loader failure: STATUS, section index, logical core, item (R189). -/
structure LErr where
  status : Nat
  sec    : Nat
  lcore  : Nat
  item   : Nat
  deriving DecidableEq, Repr

/-- The detail word of R189. -/
def LErr.detail (e : LErr) : W32 := BitVec.ofNat 32 (e.sec % 65536 * 65536 + min e.lcore 255 * 256 + min e.item 255)

/-- The index of the section of a type that serves a logical core; 0 when there is none. -/
def imgSec (i : Image) (type l : Nat) : Nat :=
  (i.sections.findIdx? fun s => decide (s.type.toNat = type) && (decide (s.lcore.toNat = l) || decide (s.lcore = 0xFF))).getD 0

/-- How many sections of a type name a logical core. -/
def imgCountSec (i : Image) (type l : Nat) : Nat :=
  (i.sections.filter fun s => decide (s.type.toNat = type) && decide (s.lcore.toNat = l)).length

/-- A section entry in form: type, core, reserved bytes, place and checksum (Table 8.2, R185). -/
def imgSecBad (i : Image) (s : SecEntry) : Bool :=
  let t := s.type.toNat
  let l := s.lcore.toNat
  let coreOk := if t = 4 ∨ t = 5 ∨ t = 6 then decide (l = 0xFF) else if t = 2 ∨ t = 8 then decide (l < imgCores i ∨ l = 0xFF)
    else decide (l < imgCores i)
  decide (t = 0 ∨ 9 < t) || !coreOk || decide (s.reserved ≠ 0) || decide (s.offset % 64 ≠ 0) ||
    decide (hdrN i.header 0x14 4 < s.offset + s.len) || decide (s.scrc ≠ s.crcFound)

/-- A macro image's reserved bytes and absent sets (R186). -/
def macroImageBad (m : MacroImage) : Bool :=
  m.reserved0 || decide (64 ≤ m.lmac.toNat) || decide (fld m.byte1 7 3 ≠ 0) ||
    (List.range 16).any fun s => !bitOf m.mask s && decide (m.mcoef.getD s 0 ≠ 0)

/-- The place of a record among those of its section. -/
def itemIdx {α : Type} (l : List α) (inSec p : α → Bool) : Nat := ((l.filter inSec).findIdx? p).getD 0

/-- LOADER_FORMAT (check 2). -/
def imgFormatErr (i : Image) (length : Nat) : Option LErr :=
  let h := i.header
  let err := fun (a b c : Nat) => some ({ status := 0x0102, sec := a, lcore := b, item := c } : LErr)
  if h.length ≠ 64 ∨ hdrN h 0 4 ≠ 0x51584931 ∨ hdrN h 5 1 ≠ 1 ∨ hdrN h 0x3C 4 ≠ crc32 (h.take 0x3C) ∨ hdrN h 0x14 4 ≠ length ∨
      fld (BitVec.ofNat 8 (hdrN h 0x13 1)) 7 3 ≠ 0 ∨ hdrN h 0x18 36 ≠ 0 ∨ hdrN h 6 2 ≠ i.sections.length ∨ i.sections.length = 0 ∨
      1024 < i.sections.length ∨ imgCores i = 0 ∨ 80 < imgCores i ∨
      (imgNoadj i = false ∧ (imgW i = 0 ∨ 10 < imgW i ∨ imgH i = 0 ∨ 10 < imgH i ∨ imgW i * imgH i ≠ imgCores i)) then err 0 255 0
  else match i.sections.findIdx? (imgSecBad i) with
    | some n => err n ((i.sections.map (·.lcore.toNat)).getD n 255) 0
    | none =>
      if [4, 5, 6].any fun t => imgCountSec i t 0xFF ≠ 1 then err 0 255 0
      else match (List.range (imgCores i)).find? fun l => decide (imgCountSec i 1 l ≠ 1) || decide (imgCountSec i 9 l ≠ 1) with
        | some l => err 0 l 0
        | none =>
          match i.weights.find? fun m => macroImageBad m || decide (1 < (i.weights.filter fun n => n.lcore = m.lcore ∧ n.lmac = m.lmac).length) with
          | some m => err (imgSec i 7 m.lcore) m.lcore (itemIdx i.weights (fun n => decide (n.lcore = m.lcore)) fun n => decide (n = m))
          | none =>
            match i.buckets.pads.findIdx? fun p => decide (2 ≤ p.dim.toNat) with
            | some n => err (imgSec i 5 255) 255 n
            | none => none

/-! ### Rights, quota, binding (checks 4 to 6) -/

/-- Whether a rebinding or a recovery under way, but for one program's, has chosen a core as its target. -/
def Hub.targeted (h : Hub) (but : Option Nat) (c : Nat) : Bool :=
  h.rebinds.any fun r => decide (some r.prog ≠ but) && r.moves.any fun m => decide (m.2 = c)

/-- Whether a change of the partition takes a core away: it is withheld (R228). -/
def Hub.leaving (h : Hub) (p c : Nat) : Bool :=
  match Sparse.find? h.changes p with
  | some ch => ch.deleting || !bitOf ch.target.cores c
  | none => false

/-- Cores of a partition that run no installed program and that nothing else has taken, but for one program whose cores count as free. -/
def State.freeCores (s : State) (p : Nat) (but : Option Nat) : List Nat :=
  (List.range 80).filter fun c =>
    bitOf (s.hub.part p).cores c && !s.hub.targeted but c && !s.hub.leaving p c && !(s.die (coreDie c)).gone && decide (c ∉ s.maint.excluded) && !s.coreTested c &&
      !(s.hub.programs.any fun g => decide (c ∈ g.lcores) && decide (some g.handle ≠ but))

/-- Programs installed in a partition, but for one. -/
def Hub.others (h : Hub) (p : Nat) (but : Option Nat) : List Program :=
  h.programs.filter fun g => decide (g.part = p) && decide (some g.handle ≠ but)

/-- Shadow pairs of 64 MiB granules that an image needs: its weights and its retained sections (R239, R340). -/
def imgPairs (i : Image) : Nat :=
  (i.weights.length * 1056768 + ((i.sections.filter fun x => x.type ≠ 7).map (·.len)).sum + 67108863) / 67108864

/-- Cores of a partition under test, which count as used (R372). -/
def State.testedIn (s : State) (p : Nat) : Nat :=
  ((List.range 80).filter fun c => bitOf (s.hub.part p).cores c && s.coreTested c).length

/-- LOADER_QUOTA (check 5): RES totals and shadow pairs against the partition and the tenant; RESV cores count as used
(R229, R340). -/
def State.quotaBad (s : State) (p tenant : Nat) (i : Image) (but : Option Nat) : Bool :=
  let h := s.hub
  let m := i.manifest
  let os := h.others p but
  let ts := os.filter fun g => g.tenant = tenant
  let pt := h.part p
  decide ((s.freeCores p but).length < imgCores i + pt.resv) ||
    decide (h.commonsSize p < m.commons + (os.map fun g => g.img.manifest.commons).sum) ||
    decide (pt.lpsize < m.lpddr + imgPairs i * 0x8000000 + (os.map fun g => g.img.manifest.lpddr + g.shadows * 0x8000000).sum) ||
    decide (pt.squota < pt.sused + m.slots) || decide (64 < m.mergeJobs + (os.map fun g => g.img.manifest.mergeJobs).sum) ||
    decide (s.mgmt.streamQuota tenant < (h.openStreams fun x => x.tenant = tenant).length + m.slots) ||
    decide (s.mgmt.coreQuota tenant < imgCores i + (ts.map fun g => g.lcores.length).sum + s.testedIn p) ||
    decide (s.mgmt.lpQuota tenant * 1048576 < m.lpddr + (ts.map fun g => g.img.manifest.lpddr).sum) ||
    m.res.any fun r => decide (48 < r.regions)

/-- The binding of R187 over a set of usable cores. -/
def bindCores (i : Image) (free : List Nat) : Option (List Nat) :=
  let n := imgCores i
  if imgNoadj i then (if free.length < n then none else some (free.take n))
  else
    let w := imgW i
    let at_ := fun o : Nat => (List.range n).map fun k => coreAt (o % 10 + k % w) (o / 10 + k / w)
    match (List.range 100).find? fun o => (at_ o).all fun c => match c with
        | some x => decide (x ∈ free)
        | none => false with
    | some o => some ((at_ o).map fun c => c.getD 0)
    | none => none

/-- A binding found over usable cores that all run one core runtime: those updated first, while an activation is under way (R383). -/
def State.overOneRuntime (s : State) (bind : List Nat → Option (List Nat)) (free : List Nat) : Option (List Nat) :=
  let new := (s.comp 3).rtNew
  let one := fun b : List Nat => (b.all fun c => decide (c ∈ new)) || b.all fun c => decide (c ∉ new)
  match (bind (free.filter fun c => decide (c ∈ new))).filter one with
  | some b => some b
  | none => (bind (free.filter fun c => decide (c ∉ new))).filter one

/-- Whether a handle names the logical core itself or an adjacent one. -/
def handleOk (i : Image) (b : List Nat) (h : HandleInit) : Bool :=
  decide (h.owner = h.lcore) ||
    (!imgNoadj i && decide (h.owner < b.length) && (dirTo (b.getD h.lcore 0) (b.getD h.owner 0)).isSome)

/-! ### Words (check 7) -/

/-- A core that holds one section's words in IB0. -/
def wordCore (ws : List W32) : CoreState :=
  { CoreState.reset with ib0 := ((List.range ws.length).zip ws).filterMap fun p => if p.2 = 0 then none else some (p.1, p.2) }

/-- Every long word in order, without following branches; the number of the first that would fault or does not end with the section
(R190). -/
def decodeGo (c : Nat) (k : CoreState) (n : Nat) : Nat → Nat → Nat → Except Nat (List LongWord)
  | 0, i, _ => .error i
  | fuel + 1, i, pc =>
    if pc = n then .ok []
    else match ({ k with pc := pc }).decodeWord c with
      | .error _ => .error i
      | .ok w =>
        if n < pc + w.len then .error i
        else match decodeGo c k n fuel (i + 1) (pc + w.len) with
          | .ok ws => .ok (w :: ws)
          | .error e => .error e

def decodeAllWords (c : Nat) (ws : List W32) : Except Nat (List LongWord) :=
  if ws.length = 0 ∨ 65536 < ws.length then .error 0 else decodeGo c (wordCore ws) ws.length (ws.length + 1) 0 0

/-- Reserved fields and encodings of an engine command that can be seen without running it (R190). -/
def staticBad (e : Eng) (w : W128) : Bool :=
  let opc := slotOpc w
  match e with
  | .ve => veSlotBad w || (decide (fld w 101 97 = 0) && veParamBad opc 0 0)
  | .fe => feSlotBad w
  | .aePass => passFieldBad w
  | .aeDrain => if opc = 0x42 then releaseFieldBad w else if opc = 0x43 then drainFieldBad w else mergeFieldBad w
  | .aeRow => if opc = 0x45 then decide (fld w 85 32 ≠ 0 ∨ fieldForm (slotLo w) = 3)
    else decide (fld w 101 32 ≠ 0 ∨ fieldForm (slotLo w) = 3)
  | .le => if opc = 0x10 then lcopyBad w else decide (fld w 119 111 ≠ 0 ∨ fld w 104 64 ≠ 0 ∨ fieldForm (slotMid w) = 3)
  | .se => if opc = 0x20 then scopyBad w else decide (fld w 119 64 ≠ 0 ∨ (opc = 0x21 ∧ fieldForm (slotMid w) = 3))
  | .su => false

/-! ### What verification knows of a logical core -/

/-- Decoded words, the patterns its TABLES records install, and its manifest records. -/
structure LCtx where
  img   : Image
  l     : Nat
  bind  : List Nat
  words : List LongWord
  apt   : CoreState

/-- A logical core's TABLES records written into an empty window space. -/
def tablesOf (i : Image) (l : Nat) : CoreState :=
  let mine := i.tables.filter fun r => decide (r.lcore = l) || decide (r.lcore = 0xFF)
  State.core (mine.foldl (fun (s : State) (r : TableRec) => s.winWrite 0 false .loader r.addr r.data) State.reset) 0

def imgHinit (i : Image) (l h : Nat) : Option HandleInit :=
  i.handles.find? fun x => decide (x.lcore = l) && decide (x.entry.toNat = h)

def imgRegb (i : Image) (l r : Nat) : Option RegbRec :=
  i.manifest.regb.find? fun x => decide (x.lcore = l) && decide (x.reg.toNat = r)

/-- A byte range an operand may touch: the handle it is relative to, or an absolute range. -/
structure Foot where
  h  : Option Nat
  lo : Int
  hi : Int
  deriving DecidableEq, Repr

/-- The range of a field with a footprint; none when a register it uses is undeclared (R192). -/
def LCtx.footOf (x : LCtx) (f : W32) (lo hi : Int) : Option Foot :=
  match fieldForm f with
  | 0 => some { h := none, lo := (fld f 29 0 : Nat) + lo, hi := (fld f 29 0 : Nat) + hi }
  | 1 => some { h := some (fieldHandle f), lo := (fld f 21 0 : Nat) + lo, hi := (fld f 21 0 : Nat) + hi }
  | _ => match imgRegb x.img x.l (fld f 21 17) with
    | none => none
    | some r => some { h := some (fieldHandle f), lo := (r.lo + fld f 16 0 : Nat) + lo, hi := (r.hi + fld f 16 0 : Nat) + hi }

/-- A footprint inside its buffer, or inside one region of Table 6.1. -/
def LCtx.footOk (x : LCtx) (f : Foot) : Bool :=
  match f.h with
  | none => (regionFor f.lo f.hi).isSome
  | some h => match imgHinit x.img x.l h with
    | none => false
    | some b => decide (0 ≤ f.lo) && decide (f.hi ≤ b.size)

/-- Whether a field's address can be misaligned by its own bits: an absolute address, or the OFFSET from a buffer's aligned base. -/
def fieldOff (f : W32) (al : Nat) : Bool :=
  match fieldForm f with
  | 0 => decide (fld f 29 0 % al ≠ 0)
  | 1 => decide (fld f 21 0 % al ≠ 0)
  | _ => false

/-- Fixed operands that a command requires to be aligned (Tables 2.2, 4.1, 5.16, 5.17, 7.6, R171), where its fields alone decide. -/
def fixedOff (e : Eng) (w : W128) : Bool :=
  let opc := slotOpc w
  match e with
  | .ve => decide (opc = 0x18) && (fieldOff (slotHi w) 64 || fieldOff (slotLo w) 64)
  | .fe => fieldOff (slotHi w) 64 || fieldOff (slotMid w) 64 || fieldOff (slotLo w) 64
  | .aePass => decide (pcAcc w = 1) && fieldOff (slotLo w) 64
  | .aeDrain => decide (opc = 0x43) && adCmp w && fieldOff (slotLo w) 64
  | .aeRow => fieldOff (slotLo w) 64
  | .se => if opc = 0x21 then fieldOff (slotMid w) 4 else decide (opc = 0x22) && decide (fld w 63 32 % 4 ≠ 0)
  | _ => false

/-- Walks whose installed patterns, where all are present, disagree in size or count (R124, R139, R165, R170). -/
def patsOff (k : CoreState) (e : Eng) (w : W128) : Bool :=
  let all := fun l : List Nat => l.all fun p => (k.pat p).isSome
  let opc := slotOpc w
  match e with
  | .ve => decide (opc ≠ 0x18) && all ([vePat w, vePat w + 2] ++ if veBfmt w = 12 then [] else [vePat w + 1]) &&
      (vePats k w).isNone
  | .le => decide (opc = 0x10) && all [fld w 116 111, fld w 110 105] && (match copyPats k (fld w 116 111) (fld w 110 105) with
      | none => true
      | some (sp, _) => decide (fld w 104 102 ≠ 0) && decide (sp.elog ≠ 6 ∨ sp.count % 64 ≠ 0))
  | .se => decide (opc = 0x20) && all [fld w 117 112, fld w 111 106] && (copyPats k (fld w 117 112) (fld w 111 106)).isNone
  | _ => false

/-- Walked operands of a word: field, pattern, whether written, and whether it is SCOPY's destination. -/
def walkedOf (w : LongWord) : List (W32 × Nat × Bool × Bool) :=
  (match w.vSlot with
    | none => []
    | some v => if slotOpc v = 0x18 then [] else
        [(slotHi v, vePat v, false, false), (slotLo v, vePat v + 2, true, false)] ++
        (if veBfmt v = 12 then [] else [(slotMid v, vePat v + 1, decide (slotOpc v = 0x21), false)])) ++
  (match w.lSlot with
    | none => []
    | some q => [(slotMid q, fld q 110 105, true, false)] ++
        (if slotOpc q = 0x10 ∧ fld q 119 118 = 0 then [(slotHi q, fld q 116 111, false, false)] else [])) ++
  (match w.tSlot with
    | none => []
    | some q => if slotOpc q = 0x20 then [(slotHi q, fld q 117 112, false, false)] ++
          (if fld q 119 118 = 0 then [(slotMid q, fld q 111 106, true, true)] else [])
        else [])

/-- Footprint of a walked operand. -/
def LCtx.walkFoot (x : LCtx) (o : W32 × Nat × Bool × Bool) : Option Foot :=
  match x.apt.pat o.2.1 with
  | none => none
  | some p => x.footOf o.1 p.lo p.hi

/-- A write whose extent a register holds, from its address to the end of the buffer it is in, or of the region for an absolute address
(assumption log 158). -/
def LCtx.openFoot (x : LCtx) (f : W32) : List Foot :=
  match x.footOf f 0 1 with
  | none => []
  | some r =>
    match r.h with
    | some h => match imgHinit x.img x.l h with
      | some b => [{ r with hi := max r.hi b.size }]
      | none => [r]
    | none => [{ r with hi := if r.lo < 0x03000000 then 0x03000000 else r.hi }]

/-- Ranges that a word's V and T slots write beside their walks: VPSUM's D, the exponent array of a BN destination where no register
names its handle, SATOM's word (R104, R171, R175). -/
def LCtx.otherWrites (x : LCtx) (w : LongWord) : List Foot :=
  (match w.vSlot with
    | none => []
    | some v =>
      if slotOpc v = 0x18 then x.openFoot (slotLo v)
      else if isBN (veDfmt v) ∧ fld v 101 97 = 0 then
        (match x.apt.pat (vePat v + 2) with
          | some d => [{ h := some 0, lo := 0, hi := (expBytes (d.elems (veDfmt v)) : Nat) }]
          | none => [])
      else []) ++
  (match w.tSlot with
    | some q => if slotOpc q = 0x21 then (x.footOf (slotMid q) 0 4).toList else []
    | none => [])

/-- Ranges a word's matrix slot writes, where its fields say them (R194). -/
def LCtx.matrixWrites (x : LCtx) (w : LongWord) : List Foot :=
  match w.mSlot with
  | none => []
  | some q =>
    let h := fun (h n : Nat) => [({ h := some h, lo := 0, hi := n } : Foot)]
    if slotOpc q = 0x43 then
      (if adFmt q = 12 then [] else (x.footOf (slotLo q) 0 (dstSize q)).toList) ++
      (if isBN (adFmt q) then h (fld q 55 48) (2 * adNb q) else []) ++ (if adRed q = 0 then [] else h (fld q 47 40) (recSize q))
    else if slotOpc q = 0x44 then h (fld q 47 40) 144
    else if slotOpc q = 0x46 then (x.footOf (slotLo q) 0 576).toList
    else if slotOpc q = 0x60 then x.openFoot (slotLo q)
    else if slotOpc q = 0x41 then h (pcMskH q) (pcN q * 512)
    else []

/-- Every range a word writes; `scopy` keeps only SCOPY's. -/
def LCtx.writes (x : LCtx) (w : LongWord) (scopy : Bool) : List Foot :=
  ((walkedOf w).filter fun o => o.2.2.1 && (!scopy || o.2.2.2)).filterMap x.walkFoot ++ if scopy then [] else x.matrixWrites w ++ x.otherWrites w

/-- A range as logical core and address. -/
def LCtx.place (x : LCtx) (f : Foot) : Option (Nat × Int × Int) :=
  match f.h with
  | none => some (x.l, f.lo, f.hi)
  | some h => (imgHinit x.img x.l h).map fun b => (b.owner, (b.base : Int) + f.lo, (b.base : Int) + f.hi)

/-! ### Steps (R193) -/

def imgSteps (i : Image) (l : Nat) : List StepRec := i.steps.filter fun r => r.lcore = l
def isStepWord (w : LongWord) : Bool := w.syncOpc = some 4
def inStep (r : StepRec) (w : LongWord) : Bool := decide (r.first ≤ w.pc) && decide (w.pc ≤ r.last)
def isDone (w : LongWord) : Bool := w.sSlot.any fun s => (scalarOf s).opc = 0x3E

/-- The target of a branch in a word's scalar slot. -/
def branchTo (w : LongWord) : Option Nat :=
  match w.sSlot with
  | some s => if 0x20 ≤ (scalarOf s).opc ∧ (scalarOf s).opc ≤ 0x25 then some (scalarOf s).imm.toNat else none
  | none => none

/-- What is wrong with one step of a core's table: it runs backwards, does not begin on a word or does not end with a STEP, does not follow
the step before it, or holds a branch that leaves it for no step's first word (R193). -/
def LCtx.stepWrong (x : LCtx) (rs : List StepRec) (n : Nat) (r : StepRec) : Bool :=
  let ws := x.words
  let endOf := fun r : StepRec => ((ws.find? fun w => w.pc = r.last).map fun w => w.pc + w.len).getD 0
  decide (r.last < r.first) || !(ws.any fun w => w.pc = r.first) || !(ws.any fun w => decide (w.pc = r.last) && isStepWord w) ||
  (match n with
    | 0 => decide ((x.img.buckets.entries.map fun e => e.getD x.l 0).foldl min 65536 ≠ r.first)
    | m + 1 => match rs[m]? with
      | some q => decide (endOf q ≠ r.first)
      | none => false) ||
  (ws.any fun w => inStep r w && match branchTo w with
    | none => false
    | some t => !((rs.any fun q => decide (t = q.first)) || (decide (r.first ≤ t) && decide (t ≤ r.last))) || !(ws.any fun v => v.pc = t))

/-- The first step of a core's table that fails R193; after them, a STEP or a DONE outside every step, or a branch from outside. -/
def LCtx.stepBad (x : LCtx) : Option Nat :=
  let rs := imgSteps x.img x.l
  match rs.zipIdx.find? fun p => x.stepWrong rs p.2 p.1 with
  | some p => some p.2
  | none =>
    let loose := x.words.any fun w => (isStepWord w && !(rs.any fun r => r.last = w.pc)) ||
      (!(rs.any fun r => inStep r w) && (isDone w || (branchTo w).any fun t => !(rs.any fun q => t = q.first)))
    if rs.isEmpty || loose then some rs.length else none

/-! ### Counters and arrivals (R191) -/

/-- Increments a word can raise: direction (0 own, else DIR) and counter. -/
def LCtx.raises (x : LCtx) (w : LongWord) : List (Nat × Nat) :=
  let dirFor := fun f : W32 => match (if fieldForm f = 0 then none else imgHinit x.img x.l (fieldHandle f)) with
    | none => 0
    | some h => if h.owner = x.l then 0 else ((dirTo (x.bind.getD x.l 0) (x.bind.getD h.owner 0)).map dirNum).getD 0
  (if w.sig / 64 = 2 then [(0, w.sig % 64)] else []) ++
  (match w.ySlot with
    | some y => if fld y 63 56 = 3 then [(fld y 55 53, fld y 52 48)] else []
    | none => []) ++
  (match w.tSlot with
    | some q => if slotOpc q = 0x20 ∧ bitOf q 105 then [(dirFor (slotMid q), fld q 104 100)] else []
    | none => [])

/-- The logical core a direction leads to; none under NOADJ, where no two logical cores are adjacent (R187). -/
def LCtx.toward (x : LCtx) (d : Nat) : Option Nat :=
  if d = 0 then some x.l
  else if imgNoadj x.img then none
  else match dirOf d with
    | none => none
    | some dir => match neighbour (x.bind.getD x.l 0) dir with
      | none => none
      | some c => x.bind.findIdx? fun b => b = c

/-- Arrivals a record expects from a direction. -/
def arrvFrom (r : ArrvRec) (d : Nat) : Nat :=
  match d with
  | 0 => r.own | 1 => r.north | 2 => r.south | 3 => r.east | _ => r.west

/-- The direction opposite a DIR number. -/
def backNum (d : Nat) : Nat := match d with | 1 => 2 | 2 => 1 | 3 => 4 | 4 => 3 | _ => 0

/-- Whether step n of a core raises counter a toward direction d. -/
def LCtx.raisesIn (x : LCtx) (n d a : Nat) : Bool :=
  match (imgSteps x.img x.l)[n]? with
  | none => false
  | some r => x.words.any fun w => inStep r w && (x.raises w).any fun p => decide (p = (d, a))

/-- ARRV against the words: sums, counters raised and declared, remote sources that raise them. -/
def arrivalsBad (i : Image) (xs : List LCtx) : Bool :=
  let rs := i.manifest.arrv
  let decl := fun (l n a : Nat) => rs.find? fun r => decide (r.lcore = l) && decide (r.step = n) && decide (r.counter = a)
  (rs.any fun r => decide (r.own + r.north + r.south + r.east + r.west ≠ r.consumed) || decide (32 ≤ r.counter)) ||
  (xs.any fun x => ((imgSteps i x.l).zipIdx).any fun p => x.words.any fun w => inStep p.1 w && (x.raises w).any fun q =>
    match x.toward q.1 with
    | none => true
    | some t => !((decl t p.2 q.2).any fun r => decide (arrvFrom r (backNum q.1) ≠ 0))) ||
  (rs.any fun r => [1, 2, 3, 4].any fun d => decide (arrvFrom r d ≠ 0) &&
    match xs.find? fun x => x.l = r.lcore with
    | none => true
    | some x => match x.toward d with
      | none => true
      | some t => !(xs.any fun y => decide (y.l = t) && y.raisesIn r.step (backNum d) r.counter))

/-- The kind (1 flag, 2 counter, 3 channel) and index that a CSR number names (Table 5.7). -/
def csrName (n : Nat) : List (Nat × Nat) :=
  if 0x10 ≤ n ∧ n < 0x50 then [(2, (n - 0x10) % 32)] else if 0x51 ≤ n ∧ n < 0x90 then [(3, n - 0x50)] else []

/-- Flags, counters and channels a word names: by its waits, its SIG, its WAIT, an ARRIVE or SCOPY to its own core, FSET, FCLR and CSR
accesses. -/
def LCtx.syncNames (x : LCtx) (w : LongWord) : List (Nat × Nat) :=
  let one := fun v : Nat => if v / 64 = 0 then [] else [(v / 64, v % 64)]
  one w.wait0 ++ one w.wait1 ++ (if w.sig / 64 = 0 then [] else [(w.sig / 64, w.sig % 64)]) ++
  (match w.ySlot with
    | some y => if fld y 63 56 = 2 then [(2, fld y 52 48)] else []
    | none => []) ++
  ((x.raises w).filterMap fun r => if r.1 = 0 then some (2, r.2) else none) ++
  (match w.sSlot with
    | some s =>
      let o := scalarOf s
      if o.opc = 0x32 ∨ o.opc = 0x33 then [(1, fld o.imm 5 0)] else if o.opc = 0x30 ∨ o.opc = 0x31 then csrName (fld o.imm 11 0) else []
    | none => [])

/-- A BARRIER or BPREP of a barrier that no BAR record gives this core. -/
def LCtx.barBad (x : LCtx) (w : LongWord) : Bool :=
  w.ySlot.any fun y =>
    let o := fld y 63 56
    (decide (o = 5) || decide (o = 6)) && !(x.img.manifest.bars.any fun b => decide (b.bid.toNat = fld y 53 48) &&
      (decide (o = 6) || decide (b.torus = decide (fld y 55 54 = 1))) && decide (x.l ∈ b.members))

/-- LOADER_COUNT (check 10) for one core. -/
def LCtx.countBad (x : LCtx) : Bool :=
  let i := x.img
  let res := i.manifest.res[x.l]?
  let sync := i.manifest.sync.find? fun r => r.lcore = x.l
  let used := (i.weights.filter fun m => m.lcore = x.l).length
  match res, sync with
  | some r, some y =>
    decide (r.macros ≠ used ∨ 64 < used ∨ r.words ≠ (i.words.getD x.l []).length ∨ 32 < y.acexp.length ∨ 32 < y.acInit.length) ||
    (x.words.any fun w => x.barBad w || (x.syncNames w).any fun p =>
      !(if p.1 = 1 then bitOf y.flags p.2 else if p.1 = 2 then bitOf y.counters p.2 else bitOf y.channels p.2)) ||
    decide (1 < (i.manifest.sync.filter fun r => r.lcore = x.l).length)
  | _, _ => true

/-- Barriers: at most one record per BID and scope, members logical cores of the image. -/
def barsBad (i : Image) : Bool :=
  i.manifest.bars.any fun b => b.members.any (fun m => imgCores i ≤ m) ||
    decide (1 < (i.manifest.bars.filter fun c => c.bid = b.bid ∧ c.torus = b.torus).length)

/-! ### Buffers (checks 8, 9, 11) -/

/-- Windows a TABLES record may address (Table 8.3). -/
def tableWindow (a n : Nat) : Bool :=
  [(0x04060000, 0x04070000), (0x04070800, 0x04070804), (0x04072000, 0x04072200), (0x04074000, 0x04075100),
   (0x04080000, 0x04082080), (0x04090000, 0x04091000), (0x040C0404, 0x040C0440)].any
      (fun r => decide (r.1 ≤ a) && decide (a + n ≤ r.2)) ||
    (decide (0x04070000 ≤ a) && decide (a + n ≤ 0x04070800) && decide (a % 64 + n ≤ 4 ∨ (0x18 ≤ a % 64 ∧ a % 64 + n ≤ 0x1C)))

/-- Length of a DATAINIT record. -/
def dataLen (d : DataInit) : Nat := if d.data.isEmpty then d.zeros else d.data.length

/-- Logical cores a record with an LCORE of 0xFF names. -/
def coresNamed (i : Image) (l : Nat) : List Nat := if l = 0xFF then List.range (imgCores i) else [l]

def dataBad (i : Image) (d : DataInit) : Bool :=
  (coresNamed i d.lcore).any fun l => match imgHinit i l d.handle.toNat with
    | none => true
    | some h => decide (h.size < d.offset + dataLen d)

/-- A buffer that breaks R143, alignment of BASE apart. -/
def bufferBad (h : HandleInit) : Bool := decide (h.size % 64 ≠ 0 ∨ h.size < 64 ∨ 0x03000000 < h.base + h.size)

def overlaps (a b : HandleInit) : Bool :=
  a.wr && b.wr && decide (a.owner = b.owner) && decide (a.base < b.base + b.size) && decide (b.base < a.base + a.size) &&
    !(decide (a.aliasGroup = b.aliasGroup) && decide (a.aliasGroup ≠ 0))

/-- The first handle that overlaps an earlier one. -/
def overlapIdx (hs : List HandleInit) : Option Nat :=
  (List.range hs.length).find? fun j => (hs.take j).any fun a => match hs[j]? with
    | some b => overlaps a b
    | none => false

/-! ### Buckets (R195) -/

def strictlyUp : List Nat → Bool
  | a :: b :: rest => decide (a < b) && strictlyUp (b :: rest)
  | _ => true

def sizesOk (n : Nat) (l : List Nat) : Bool :=
  decide (l.length = n) && strictlyUp l && l.all fun x => decide (1 ≤ x) && decide (x ≤ 65535)

/-- Largest bucket of a dimension. -/
def bktLargest (b : Buckets) (dim : Nat) : Nat := (if dim = 0 then b.size0 else b.size1).getLastD 1

/-- Last byte a pad descriptor fills, and the bytes of its mask. -/
def padEnd (b : Buckets) (p : Pad) : Nat := p.offset + (bktLargest b p.dim.toNat - 1) * p.stride + 2 ^ p.elog
def maskEnd (b : Buckets) (p : Pad) : Nat := p.maskOff + (bktLargest b p.dim.toNat + 7) / 8

def padBad (i : Image) (p : Pad) : Bool :=
  let b := i.buckets
  decide (6 < p.elog) || (coresNamed i p.lcore.toNat).any fun l =>
    (match imgHinit i l p.handle.toNat with
      | none => true
      | some h => decide (h.size < padEnd b p)) ||
    (p.mask && match imgHinit i l p.maskH.toNat with
      | none => true
      | some h => decide (h.size < maskEnd b p))

/-- LOADER_BUCKET (check 15): the item is 0 for the table itself, or a pad descriptor's number. -/
def bucketsBad (i : Image) : Option Nat :=
  let b := i.buckets
  if decide (2 < b.ndim ∨ b.nb0 = 0 ∨ 8 < b.nb0 ∨ b.nb1 = 0 ∨ 8 < b.nb1 ∨ (b.ndim = 0 ∧ b.nb0 ≠ 1) ∨ (b.ndim < 2 ∧ b.nb1 ≠ 1) ∨
      16 < b.npad ∨ b.pads.length ≠ b.npad ∨ b.entries.length ≠ b.nb0 * b.nb1) ||
    (decide (1 ≤ b.ndim) && !sizesOk b.nb0 b.size0) || (decide (2 ≤ b.ndim) && !sizesOk b.nb1 b.size1) ||
    b.entries.any fun e => (List.range (imgCores i)).any fun l => !((imgSteps i l).any fun r => r.first = e.getD l 0) then some 0
  else b.pads.findIdx? (padBad i)

/-! ### The whole verification (R189) -/

/-- Whether an install, replacement or rebinding of the partition is under way (check 1). -/
def Hub.loaderBusy (h : Hub) (p : Nat) : Bool :=
  (h.programs.any fun g => decide (g.part = p) && (decide (g.st = .installing) || decide (g.st = .codeReplacing) ||
    decide (g.st = .fullReplacing) || decide (g.st = .rebinding))) || h.rebinds.any fun r => r.part = p

/-- The number of a core's first long word that satisfies a condition. -/
def LCtx.badWord (x : LCtx) (p : LongWord → Bool) : Option Nat := x.words.findIdx? p

/-- Commands of a word that an engine would refuse by fields, alignment or patterns the image fixes (R190). -/
def LCtx.wordBad (x : LCtx) (w : LongWord) : Bool :=
  w.feeds.any fun f => staticBad f.2.1 f.2.2 || fixedOff f.2.1 f.2.2 || patsOff x.apt f.2.1 f.2.2

/-- A word with a walked operand whose footprint fails R192. -/
def LCtx.wordFootBad (x : LCtx) (w : LongWord) : Bool :=
  (walkedOf w).any fun o => match x.walkFoot o with
    | none => true
    | some f => !x.footOk f

/-- The steps of a core that write one of their own inputs, or whose inputs a neighbour's SCOPY of the step of the same number writes
(R194). -/
def LCtx.immutBad (xs : List LCtx) (x : LCtx) : Option Nat :=
  ((imgSteps x.img x.l).zipIdx).findIdx? fun r =>
    let ins := r.1.inputs.filterMap fun q => (imgHinit x.img x.l q.1).map fun h => (h.owner, (h.base + q.2.1 : Nat), q.2.2)
    let own := (x.words.filter (inStep r.1)).flatMap fun w => x.writes w false
    let nb := xs.flatMap fun y => if (dirTo (x.bind.getD x.l 0) (x.bind.getD y.l 0)).isSome then
        (match (imgSteps x.img y.l)[r.2]? with
          | none => []
          | some t => (y.words.filter (inStep t)).flatMap fun w => (y.writes w true).filterMap y.place)
      else []
    (own.filterMap x.place ++ nb).any fun z => ins.any fun q =>
      decide (q.1 = z.1) && decide (z.2.1 < (q.2.1 + q.2.2 : Nat)) && decide ((q.2.1 : Int) < z.2.2)

/-- The first core for which a check finds an item, with the item. -/
def firstItem (xs : List LCtx) (f : LCtx → Option Nat) : Option (Nat × Nat) := xs.findSome? fun x => (f x).map fun n => (x.l, n)

/-- Checks 1 to 15 in order: the first failure, or the binding. `but` is the program a replacement names; `fixed` its binding for
a code replacement. The item of a failure is the record's place in its section, a long word's number in WORDS, or a step's in STEPS;
it is 0 where the check is of a core's or the image's totals (assumption log 158). -/
def State.verify (s : State) (p tenant off length : Nat) (i : Image) (but : Option Nat) (fixed : Option (List Nat)) :
    Except LErr (List Nat) :=
  let fail := fun (st t l item : Nat) => (.error { status := st, sec := imgSec i t l, lcore := l, item := item } : Except LErr (List Nat))
  let failH := fun (st : Nat) (h : HandleInit) =>
    fail st 3 h.lcore (itemIdx i.handles (fun x => decide (x.lcore = h.lcore)) fun x => decide (x = h))
  let failD := fun (st : Nat) (d : DataInit) =>
    fail st 2 d.lcore (itemIdx i.datainit (fun x => decide (x.lcore = d.lcore)) fun x => decide (x = d))
  if s.hub.loaderBusy p then .error { status := 0x0101, sec := 0, lcore := 255, item := 0 }
  else if (s.hub.part p).lpsize < off + length then .error { status := 0x0102, sec := 0, lcore := 255, item := 0 }
  else match imgFormatErr i length with
  | some e => .error e
  | none =>
    if Config.qxiMinor < hdrN i.header 4 1 then .error { status := 0x0103, sec := 0, lcore := 255, item := 0 }
    else if imgAtomic i ∧ s.hub.right p 0 = false then fail 0x0104 4 255 0
    else if s.quotaBad p tenant i but then fail 0x0105 4 255 0
    else match (match fixed with | some b => some b | none => s.overOneRuntime (bindCores i) (s.freeCores p but)) with
    | none => .error { status := 0x0106, sec := 0, lcore := 255, item := 0 }
    | some b => match i.handles.find? fun h => !handleOk i b h with
    | some h => failH 0x0106 h
    | none =>
      let ls := List.range (imgCores i)
      let dec := ls.map fun l => decodeAllWords (b.getD l 0) (i.words.getD l [])
      match i.sections.findIdx? fun x => decide (x.type = 1) && decide (x.len % 4 ≠ 0 ∨ 262144 < x.len) with
      | some n => .error { status := 0x0107, sec := n, lcore := ((i.sections.map (·.lcore.toNat)).getD n 255), item := 0 }
      | none => match ls.findSome? fun l => match dec.getD l (.error 0) with
          | .error n => some (l, n)
          | .ok _ => none with
      | some e => fail 0x0107 1 e.1 e.2
      | none =>
        let xs := ls.map fun l =>
          ({ img := i, l := l, bind := b, words := (dec.getD l (.error 0)).toOption.getD [], apt := tablesOf i l } : LCtx)
        match firstItem xs fun x => x.badWord x.wordBad with
        | some e => fail 0x0107 1 e.1 e.2
        | none => match i.handles.find? fun h => h.base % 64 ≠ 0 with
        | some h => failH 0x0108 h
        | none => match i.datainit.find? fun d => d.offset % 64 ≠ 0 with
        | some d => failD 0x0108 d
        | none => match i.sections.findIdx? fun x => decide (x.type = 7) && decide (x.len % 1056960 ≠ 0) with
        | some n => .error { status := 0x0108, sec := n, lcore := ((i.sections.map (·.lcore.toNat)).getD n 255), item := 0 }
        | none => match i.handles.find? bufferBad with
        | some h => failH 0x0109 h
        | none => match i.datainit.find? (dataBad i) with
        | some d => failD 0x0109 d
        | none => match i.tables.find? fun t => !tableWindow t.addr t.data.length with
        | some t => fail 0x0109 8 t.lcore (itemIdx i.tables (fun x => decide (x.lcore = t.lcore)) fun x => decide (x = t))
        | none => match xs.find? LCtx.countBad with
        | some x => fail 0x010A 4 x.l 0
        | none =>
          if barsBad i ∨ i.manifest.res.length ≠ imgCores i ∨ arrivalsBad i xs then fail 0x010A 4 255 0
          else match (overlapIdx i.handles).bind fun n => i.handles[n]? with
          | some h => failH 0x010B h
          | none => match firstItem xs fun x => x.badWord x.wordFootBad with
          | some e => fail 0x010C 1 e.1 e.2
          | none => match firstItem xs LCtx.stepBad with
          | some e => fail 0x010D 9 e.1 e.2
          | none => match firstItem xs (LCtx.immutBad xs) with
          | some e => fail 0x010E 9 e.1 e.2
          | none => match bucketsBad i with
          | some n => fail 0x010F 5 255 n
          | none => .ok b

end Sys2Proof.Machine
end

