-- ==== Sys2Proof/Machine/Rings.lean ====
section
/-! DEFINITION. Submission and completion rings, commands, completions, pools and the endings of stream requests (R206 to R209,
R220, R222, Tables 9.4 to 9.8, 9.13). -/

namespace Sys2Proof.Machine

/-! ### Rings and ports -/

def Hub.setRing (h : Hub) (r : Nat) (v : Ring) : Hub := { h with rings := Sparse.set h.rings Ring.reset r v }
def Hub.updRing (h : Hub) (r : Nat) (f : Ring → Ring) : Hub := h.setRing r (f (h.ring r))

/-- The completion ring that submission ring r posts to. -/
def Hub.cqOf (h : Hub) (r : Nat) : Nat := (h.ring r).cqr.toNat % 64

/-- Completions in completion ring q that the host has not consumed; the indices run modulo 2^32. -/
def Ring.cqUsed (q : Ring) : Nat := (q.cqTail - q.cqHead).toNat

/-- Room for one completion beyond those reserved (R207). -/
def Hub.cqRoom (h : Hub) (r : Nat) : Bool :=
  let q := h.ring (h.cqOf r)
  decide (q.cqUsed + q.reserved < 2 ^ q.cqLog.toNat)

/-- A completion with a status alone (Table 9.7). -/
def Answer.of (status : Nat) : Answer := { status := status, stream := 0xFFFF, retry := 0, detail := 0, result := 0 }

/-- Whether a completion may be posted (R208): a final one has its reservation, a MORE one needs room beyond those reserved. A ring whose EN
was cleared posts nothing (R333), so nothing keeps it waiting. -/
def Hub.mayPost (h : Hub) (w : CqWait) : Bool :=
  let q := h.ring (h.cqOf w.ring)
  !(h.ring w.ring).en || (if w.fin.isNone then h.cqRoom w.ring else decide (q.cqUsed < 2 ^ q.cqLog.toNat))

/-- One completion written: the entry, then CQ_TAIL; PHASE inverts on each wrap. A command's final completion gives its reservation back. -/
def State.postNow (s : State) (w : CqWait) : State :=
  let q := s.hub.cqOf w.ring
  let rc := s.hub.ring q
  let rc1 := if w.fin.isNone then rc else { rc with reserved := rc.reserved - 1 }
  let s0 := s.updHub fun h => { h with cmds := h.cmds.filter fun x => decide (some x.id ≠ w.fin) }
  if (s.hub.ring w.ring).en then
    let e : Completion := { tag := w.tag, status := w.ans.status, sq := w.ring, phase := rc.phase, spec := w.spec, more := w.fin.isNone,
                            stream := w.ans.stream, retry := w.ans.retry, detail := w.ans.detail, result := w.ans.result, time := s.now }
    let tail := rc.cqTail + 1
    let rc2 := { rc1 with cqTail := tail, phase := if tail.toNat % 2 ^ rc.cqLog.toNat = 0 then !rc.phase else rc.phase }
    ((s0.updHub fun h => { h.setRing q rc2 with cqs := Sparse.set h.cqs [] q (Sparse.get h.cqs [] q ++ [e]) }).bump).raiseVec
      (s.portOfRing w.ring) (rc.vec.toNat % 64)
  else s0.updHub fun h => h.setRing q rc1

/-- A completion of a command: posted, or kept behind those that wait for room on the same completion ring (R208). -/
def State.post (s : State) (w : CqWait) : State :=
  if s.hub.mayPost w ∧ s.hub.cqWait.all (fun x => decide (s.hub.cqOf x.ring ≠ s.hub.cqOf w.ring)) then s.postNow w
  else s.updHub fun h => { h with cqWait := h.cqWait ++ [w],
                                  cmds := h.cmds.map fun o => if some o.id = w.fin then { o with taken := true } else o }

/-- Completions waiting for room on completion ring q, posted in their order while there is room. -/
def State.postWaiting (s : State) (q : Nat) : List CqWait → State
  | [] => s
  | w :: rest =>
    if s.hub.cqOf w.ring ≠ q then s.postWaiting q rest
    else if s.hub.mayPost w then ((s.updHub fun h => { h with cqWait := h.cqWait.erase w }).postNow w).postWaiting q rest
    else s

/-- A command's final completion: once it is posted the command is outstanding no longer. -/
def State.finishCmd (s : State) (o : OutCmd) (a : Answer) : State :=
  s.post { ring := o.ring, tag := o.cmd.tag, fin := some o.id, spec := false, ans := a }

/-! ### Commands (Tables 9.5 and 9.6) -/

/-- An operand of a command, by its offset in the 64 bytes. -/
def cmdN (c : HostCmd) (o n : Nat) : Nat := leNat ((c.ops.drop (o - 8)).take n)

/-- Operand bytes a command uses, as ranges of offsets; none for a reserved opcode. -/
def cmdBytes (opc : Nat) : Option (List (Nat × Nat)) :=
  match opc with
  | 0x00 => some []
  | 0x01 => some [(0x08, 0x15), (0x18, 0x20)]
  | 0x02 => some [(0x08, 0x10)]
  | 0x10 => some [(0x08, 0x11), (0x12, 0x14)]
  | 0x11 => some [(0x08, 0x0A), (0x0C, 0x28)]
  | 0x12 => some [(0x08, 0x0A)]
  | 0x13 => some [(0x08, 0x0A)]
  | 0x14 => some [(0x08, 0x0A)]
  | 0x20 => some [(0x08, 0x12)]
  | _ => none

/-- CMD_FIELD: a reserved opcode, a reserved flag, operand byte or encoding (Tables 9.5, 9.6). -/
def cmdBad (c : HostCmd) : Bool :=
  match cmdBytes c.opc.toNat with
  | none => true
  | some rs =>
    decide (fld c.flags 7 1 ≠ 0) || decide (c.ops.length ≠ 56) ||
    ((List.range 56).any fun i => !(rs.any fun r => decide (r.1 ≤ i + 8) && decide (i + 8 < r.2)) && decide (c.ops.getD i 0 ≠ 0)) ||
    (decide (c.opc = 0x01) && decide (1 < cmdN c 0x14 1)) ||
    (decide (c.opc = 0x10) && (decide (3 < cmdN c 0x10 1) || decide (4095 < cmdN c 0x12 2))) ||
    (decide (c.opc = 0x20) && decide (cmdN c 0x10 1 = 0 ∨ 63 < cmdN c 0x10 1))

/-- The oldest fetched command of an opcode on a ring that nothing has taken up, with a further condition; none while the hub
runtime is paused (R337, R383). -/
def Hub.nextCmdIf (h : Hub) (r : Nat) (opc : Byte) (p : HostCmd → Bool) : Option OutCmd :=
  if h.paused then none else h.cmds.find? fun o => decide (o.ring = r) && !o.taken && decide (o.cmd.opc = opc) && p o.cmd

def Hub.cmdNext (h : Hub) (r : Nat) (opc : Byte) : Option OutCmd := h.nextCmdIf r opc fun _ => true

/-- A command taken up and not yet complete. -/
def Hub.take (h : Hub) (id : Nat) : Hub :=
  { h with cmds := h.cmds.map fun o => if o.id = id then { o with taken := true } else o }

/-- The partition a ring's commands act in. -/
def Hub.ringPart (h : Hub) (r : Nat) : Nat := (h.ring r).part.val

/-- Whether a tenant is of a partition (R227). -/
def Hub.tenantOf (h : Hub) (p t : Nat) : Bool :=
  let q := h.part p
  decide (q.tbase ≤ t) && decide (t < q.tbase + q.tcount)

def Hub.prog (h : Hub) (handle : Nat) : Option Program := h.programs.find? fun g => g.handle = handle
/-- A program of a partition by the handle a command names. -/
def Hub.progIn (h : Hub) (p handle : Nat) : Option Program := (h.prog handle).filter fun g => g.part = p
def Hub.updProg (h : Hub) (handle : Nat) (f : Program → Program) : Hub :=
  { h with programs := h.programs.map fun g => if g.handle = handle then f g else g }

def Hub.tenant (h : Hub) (t : Nat) : Tenant := Sparse.get h.tenants Tenant.reset t
def Hub.updTenant (h : Hub) (t : Nat) (f : Tenant → Tenant) : Hub :=
  { h with tenants := Sparse.set h.tenants Tenant.reset t (f (h.tenant t)) }

/-! ### ADMIT_BUSY (R220, R222) -/

/-- RETRY_US: the hub's estimate, from 25 to 65,535 (R222). -/
def retryUs (draw : Nat) : Nat := max 25 (min 65535 (Config.retryHint draw))

/-- ADMIT_BUSY: nothing changes but the tenant's counter and the pool's record of it (R209, R210, R220). -/
def State.admitBusy (s : State) (o : OutCmd) (pool : Nat) (detail : W32) : State :=
  let t := o.cmd.tenant.toNat
  (((s.updHub fun h => (h.ask pool t).updTenant t fun x => { x with busy := x.busy + 1 })).bump).finishCmd o
    { Answer.of 1 with retry := retryUs s.free, detail := detail }

/-! ### Ends of stream requests -/

/-- Whether a command's final completion waits for room. -/
def Hub.ending (h : Hub) (o : OutCmd) : Bool := h.cqWait.any fun w => decide (w.fin = some o.id)

/-- The fetched STREAM_REQ that a stream is serving. -/
def Hub.requestOf (h : Hub) (n : Nat) : Option OutCmd :=
  let x := h.stream n
  h.cmds.find? fun o => decide (o.ring = x.sq) && o.taken && decide (o.cmd.opc = 0x11) && decide (o.cmd.tag = x.tag) && !h.ending o &&
    decide (cmdN o.cmd 8 2 = n)

/-- A stream's outstanding request completes. -/
def State.endRequest (s : State) (n : Nat) (status : Nat) (detail : W32) (spec : Bool) : State :=
  let x := s.hub.stream n
  match s.hub.requestOf n with
  | none => s.updHub fun h => h.updStream n fun x => { x with outstanding := false }
  | some o =>
    let a : Answer := { status := status, stream := n, retry := 0, detail := detail, result := BitVec.ofNat 64 x.results }
    (s.post { ring := o.ring, tag := o.cmd.tag, fin := some o.id, spec := spec, ans := a }).updHub fun h =>
      h.updStream n fun x => { x with outstanding := false }

/-- Requests queued behind a held one complete too. -/
def State.endQueued (s : State) (n status : Nat) : State :=
  let x := s.hub.stream n
  let s1 := x.queued.foldl (fun s c =>
    match s.hub.cmds.find? fun o => decide (o.cmd = c) && o.taken && !s.hub.ending o with
    | some o => s.finishCmd o { Answer.of status with stream := n }
    | none => s) s
  s1.updHub fun h => h.updStream n fun x => { x with queued := [] }

/-- A stream becomes FREE: its slot is released, SUSED falls (R209, R224), and a waiting close completes OK. -/
def State.freeStream (s : State) (n : Nat) : State :=
  let x := s.hub.stream n
  let s1 := s.updHub fun h =>
    let h1 := h.updProg x.prog fun g => { g with slotUse := Sparse.erase g.slotUse x.slot }
    let h2 := h1.setPart x.part { h1.part x.part with sused := (h1.part x.part).sused - 1 }
    h2.setStream n Stream.reset
  match x.closeTag with
  | none => s1
  | some (tag, r) =>
    match s1.hub.cmds.find? fun o => decide (o.ring = r) && o.taken && decide (o.cmd.opc = 0x13) && decide (o.cmd.tag = tag) with
    | some o => s1.finishCmd o { Answer.of 0 with stream := n, result := BitVec.ofNat 64 n }
    | none => s1

/-- A stream of a program that is uninstalled, or of a partition deleted with FORCE: its requests complete and it is freed. -/
def State.dropStream (s : State) (n status : Nat) : State :=
  ((if (s.hub.stream n).outstanding then s.endRequest n status 0 false else s).endQueued n status).freeStream n

/-- Release a held stream (Table 9.10); `State.releaseStream` takes up the next queued request. -/
def Stream.release (x : Stream) : Stream :=
  if x.st = 4 then { x with st := if x.outstanding then 2 else 1, age := 0 } else { x with holdDue := false }

/-- A request taken up by a stream: READY, or kept as the held request of a HELD stream. -/
def Stream.begin (x : Stream) (r : Nat) (c : HostCmd) : Stream :=
  { x with st := if x.st = 4 then 4 else 2, age := 0, each := bitOf c.flags 0, n0 := cmdN c 0xC 4, n1 := cmdN c 0x10 4,
           remain := cmdN c 0x14 4, inOff := cmdN c 0x18 8, outOff := cmdN c 0x20 8, tag := c.tag, sq := r, outstanding := true }

/-- The ring that a waiting command was fetched from. -/
def Hub.ringOf (h : Hub) (c : HostCmd) (dflt : Nat) : Nat := ((h.cmds.find? fun o => o.taken && decide (o.cmd = c)).map (·.ring)).getD dflt

/-- The next queued request of an IDLE stream taken up. -/
def State.nextQueued (s : State) (n : Nat) : State :=
  let x := s.hub.stream n
  match x.queued with
  | c :: rest => if x.st = 1 then s.updHub fun h => h.updStream n fun x => { x.begin (h.ringOf c x.sq) c with queued := rest } else s
  | [] => s

/-- A held stream released: READY with its request or the next queued one, else IDLE (Table 9.10). -/
def State.releaseStream (s : State) (n : Nat) : State := (s.updHub fun h => h.updStream n Stream.release).nextQueued n

end Sys2Proof.Machine
end

