-- ==== Sys2Proof/Machine/Install.lean ====
section
/-! DEFINITION. Installing, replacing and removing programs (R187, R188, R198, R199). -/

namespace Sys2Proof.Machine

/-! ### Steps 1 to 6 of R198 -/

/-- The AMMAP entries of a core with every entry on a macro that is not RETIRED: an entry keeps its macro, else it takes the
lowest macro that is not RETIRED and that no entry names (R32, R188). -/
def State.bindMacros (s : State) (c : Nat) : State :=
  (List.range 64).foldl (fun s j =>
    let phys := fun i => (Win.read (s.core c).win (0x040C0000 + i)).toNat % 128
    if (s.mac c (phys j)).st = .retired then
      match (List.range 72).find? fun m => decide ((s.mac c m).st ≠ .retired) && !(s.mac c m).underTest && !((List.range 64).any fun i => phys i = m) with
      | some m => s.updCore c fun k => { k with win := Win.write k.win (0x040C0000 + j) (BitVec.ofNat 8 (0x80 + m)) }
      | none => s
    else s.updCore c fun k => { k with win := Win.write k.win (0x040C0000 + j) (BitVec.ofNat 8 (0x80 + phys j)) }) s

/-- The physical macro behind a logical macro of a core. -/
def State.macOf (s : State) (c j : Nat) : Nat := (Win.read (s.core c).win (0x040C0000 + j % 64)).toNat % 128

/-- A handle initialiser's entry over a binding: GEN 0 (R188). -/
def hinitEntry (b : List Nat) (h : HandleInit) : W128 := htPack true 0 h.rd h.wr (b.getD h.owner 0) h.size h.base

/-- The window opened on logical core `o` toward logical core `q` of the image: the union of q's buffers there, and the counters
that o declares as receiving arrivals from q; none where neither is declared (R188). -/
def acceptWindow (i : Image) (b : List Nat) (part o q : Nat) : Option W128 :=
  match dirTo (b.getD o 0) (b.getD q 0) with
  | none => none
  | some d =>
    let hs := i.handles.filter fun h => h.owner = o ∧ h.lcore = q
    let acs := (i.manifest.arrv.filter fun r => r.lcore = o ∧ arrvFrom r (dirNum d) ≠ 0).map (·.counter)
    if hs.isEmpty && acs.isEmpty then none
    else
      let lo := (hs.map (·.base)).foldl min (if hs.isEmpty then 0 else 2 ^ 32)
      let hi := (hs.map fun h => h.base + h.size).foldl max 0
      let mask := ((List.range 32).map fun a => bitAt (decide (a ∈ acs)) a).sum
      some (BitVec.ofNat 128 (2 ^ 127 + bitAt (hs.any (·.rd)) 126 + bitAt (hs.any (·.wr)) 125 + bitAt (!acs.isEmpty) 124 +
        part * 2 ^ 120 + mask * 2 ^ 64 + (hi - lo) * 2 ^ 32 + lo))

/-- One macro image into a LOADING macro: configuration, then its 2,064 rows, each copied into the weight shadow. -/
def State.loadMacro (s : State) (c m : Nat) (w : MacroImage) : State :=
  let v := BitVec.ofNat 32 (stNum .loading * 2 ^ 30 + fld w.byte1 1 0 * 2 ^ 16 + bitAt (bitOf w.byte1 2) 15)
  let s1 := s.updMac c m fun k =>
    let k1 := ((k.writeState .loader s.free .loading).writeMcfg .loader s.free v).writeMgsel w.mgsel
    (List.range 16).foldl (fun k i => if bitOf w.mask i then k.writeMcoef i (w.mcoef.getD i 0) else k) k1
  (List.range 2064).foldl (fun s r =>
    let d := ((w.rows.find? fun e => e.1 = r).map (·.2)).getD 0
    (s.updMac c m fun k => k.store .loader r 0xFFFF d 0).putShadow c m r d) s1.bump

/-- A DATAINIT record: data or zeros in the buffer that a logical core's handle names. -/
def State.loadData (s : State) (i : Image) (b : List Nat) (l : Nat) (d : DataInit) : State :=
  match imgHinit i l d.handle.toNat with
  | none => s
  | some h =>
    let bs := if d.data.isEmpty then List.replicate d.zeros 0 else d.data
    s.updCore (b.getD h.owner 0) fun k => (k.spWrite (bs.length + 1) (h.base + d.offset) bs).1

/-- A list of register values as a sparse map. -/
def sparseOf {α : Type} [DecidableEq α] (d : α) (l : List α) : Sparse α :=
  ((List.range l.length).zip l).filter fun e => decide (e.2 ≠ d)

/-- Flags, counters and ACEXP as the manifest gives them (R198 step 5). -/
def CoreState.loadSync (k : CoreState) (y : SyncRec) : CoreState :=
  { k with flags := y.flagInit, ac := sparseOf 0 y.acInit, acexp := sparseOf 1 y.acexp }

/-- Range-monitor contexts cleared and off before the TABLES records configure them (R52). -/
def CoreState.clearMonitors (k : CoreState) : CoreState :=
  (List.range 16).foldl (fun k c => if c = 0 then k else
    { k with win := Sparse.clearRange (Sparse.clearRange k.win (rmAddr c) 4) (rmRec c 0) 0x8000,
             rmDone := Sparse.erase k.rmDone c }) k

/-- Regions, LEGACY with PATROL (OD 6100.02), handle table and HINV of one bound core (R198 steps 1 and 2). A region that R142 scrubs
when it is granted, of a borrowed or march-tested core, is scrubbed before anything is loaded into it. -/
def State.loadCore (s : State) (i : Image) (b : List Nat) (part l : Nat) : State :=
  let c := b.getD l 0
  let n := ((i.manifest.res[l]?).map (·.regions)).getD 0
  let s1 := s.updCore c fun k =>
    let k1 := (List.range n).foldl (fun k r => (k.writeSpown r (BitVec.ofNat 32 (2 ^ 31 + part))).scrubDone r) k
    let k2 := k1.putW32 0x040B0000 (BitVec.ofNat 32 (bitAt (imgLegacy i) 31 + s.mgmt.obj 0x6100 2 * 2 ^ 16))
    let k3 := (i.handles.filter fun h => h.lcore = l).foldl (fun k h =>
      { k with win := Win.putN k.win (0x040A0000 + 16 * h.entry.toNat) 16 (hinitEntry b h).toNat }) k2
    (k3.writeHinv 0x40000000).hinvDone
  s1.bindMacros c

/-- Windows that every core of the image opens toward its neighbours of the image. -/
def State.loadWindows (s : State) (i : Image) (b : List Nat) (part : Nat) : State :=
  (List.range b.length).foldl (fun s o => (List.range b.length).foldl (fun s q =>
    match acceptWindow i b part o q, dirTo (b.getD o 0) (b.getD q 0) with
    | some w, some d => s.updCore (b.getD o 0) fun k => { k with win := Win.putN k.win (0x040B0100 + 16 * dirNum d) 16 w.toNat }
    | _, _ => s) s) s

/-- TABLES, DATAINIT, tracks, monitors, flags, counters and words of one core (R198 steps 4 to 6). -/
def State.loadRest (s : State) (i : Image) (b : List Nat) (l : Nat) : State :=
  let c := b.getD l 0
  let mine := fun x : Nat => decide (x = l) || decide (x = 0xFF)
  let s1 := s.updCore c fun k => k.clearTracks.clearMonitors
  let s2 := (i.tables.filter fun r => mine r.lcore).foldl (fun s r => s.winWrite c true .loader r.addr r.data) s1
  let s3 := (i.datainit.filter fun d => mine d.lcore).foldl (fun s d => s.loadData i b l d) s2
  s3.updCore c fun k =>
    let k1 := match i.manifest.sync.find? fun y => y.lcore = l with
      | some y => k.loadSync y
      | none => k
    { k1 with ib0 := sparseOf 0 (i.words.getD l []), bank := false }

/-- R198 steps 1 to 6 over a binding; the macros stay LOADING. -/
def State.loadImage (s : State) (i : Image) (b : List Nat) (part handle : Nat) : State :=
  let ls := List.range b.length
  let s1 := ls.foldl (fun s l => s.loadCore i b part l) s
  let s2 := s1.loadWindows i b part
  let s3 := i.weights.foldl (fun s w => s.loadMacro (b.getD w.lcore 0) (s.macOf (b.getD w.lcore 0) w.lmac.toNat) w) s2
  let s4 := ls.foldl (fun s l => s.loadRest i b l) s3
  s4.updHub fun h => { h with barriers := h.barriers ++ i.manifest.bars.map fun r =>
    { prog := handle, bid := r.bid.toNat, torus := r.torus, members := r.members.map fun m => b.getD m 0, arrived := [], left := [],
      sentUp := false, kids := [], released := false, bpreps := [] } }

/-! ### Removing an image -/

/-- The physical macros that an image's weights occupy. -/
def State.boundMacros (s : State) (i : Image) (b : List Nat) : List (Nat × Nat) :=
  i.weights.map fun w => (b.getD w.lcore 0, s.macOf (b.getD w.lcore 0) w.lmac.toNat)

/-- Bound macros OFFLINE, handles invalid, windows closed, barriers gone; scratchpad regions stay with the partition (R198). -/
def State.unloadImage (s : State) (i : Image) (b : List Nat) (handle : Nat) : State :=
  let s1 := (s.boundMacros i b).foldl (fun s m => (s.updMac m.1 m.2 fun k => k.writeState .loader s.free .offline).bump) s
  let s2 := i.handles.foldl (fun s h => s.updCore (b.getD h.lcore 0) fun k =>
    { k with win := Win.putN k.win (0x040A0000 + 16 * h.entry.toNat) 16 ((k.ht h.entry.toNat).toNat % 2 ^ 127) }) s1
  let s3 := b.foldl (fun s c => s.updCore c fun k =>
    ([1, 2, 3, 4].foldl (fun k d => { k with win := Win.putN k.win (0x040B0100 + 16 * d) 16 0 }) k).dropHandles none) s2
  s3.updHub fun h => { h with barriers := h.barriers.filter fun x => decide (x.prog ≠ handle) }

/-- A core that leaves a program stops: IDLE once its commands in flight have completed. -/
def State.stopCore (s : State) (c : Nat) : State :=
  if (s.core c).st = .idle then s else (s.updCore c fun k => { k with stopReq := true, doneReq := none }).settle c

/-- A program removed: its streams' requests and queued requests complete with STREAM_STOPPED and the streams are freed, its
invocation ends, its cores stop and its resources return (R207, R228). -/
def State.removeProgram (s : State) (g : Program) : State :=
  let s1 := (s.hub.openStreams fun x => x.prog = g.handle).foldl (fun s n => s.dropStream n 8) s
  let s2 := s1.updHub fun h => { h with invs := h.invs.filter fun v => decide (v.prog ≠ g.handle) }
  let s3 := (g.lcores.foldl State.stopCore s2).unloadImage g.img g.lcores g.handle
  s3.updHub fun h => { h with programs := h.programs.filter fun x => decide (x.handle ≠ g.handle) }

/-! ### Commands -/

/-- Slots of a replica: its largest dimension-0 bucket, or one (R209). -/
def imgSlots (i : Image) : Nat := if i.buckets.ndim = 0 then 1 else bktLargest i.buckets 0

/-- A program being installed. -/
def newProgram (h : Hub) (o : OutCmd) (img : Image) (b : List Nat) : Program :=
  { handle := h.nextProg, part := h.ringPart o.ring, tenant := o.cmd.tenant.toNat, st := .installing, img := img, lcores := b,
    bank := false, newImg := none, slots := imgSlots img, slotUse := [], seq := 0, shadows := imgPairs img, order := h.nextProg, ring := o.ring,
    cmdId := o.id }

/-- INSTALL (MODE 0): an install-queue entry (R220), the image at the command's offset, the checks of R189, then steps 1 to 6 of R198; the
completion follows with INSTALL_COMPLETE. A rejected image changes no state of the device. -/
def execInstall (ring : Fin 64) (recs : Listed) (s : State) : Out :=
  .next (match s.hub.nextCmdIf ring 0x01 fun c => cmdN c 0x14 1 = 0 with
    | none => s
    | some o =>
      let t := o.cmd.tenant.toNat
      if s.hub.poolOk 2 t = false then s.admitBusy o 2 0
      else
        let off := cmdN o.cmd 8 8
        let img := s.imageAt (s.hub.ringPart ring) off recs
        match s.verify (s.hub.ringPart ring) t off (cmdN o.cmd 0x10 4) img none none with
        | .error e => s.finishCmd o { Answer.of e.status with detail := e.detail }
        | .ok b =>
          let g := newProgram s.hub o img b
          (s.updHub fun h => { h.take o.id with programs := h.programs ++ [g], nextProg := h.nextProg + 1 }).loadImage img b g.part g.handle)

/-- Whether the retained sections of a partition's programs are gone: neither copy is complete (R239, R345). -/
def State.manifestGone (s : State) (p : Nat) : Bool := decide (p ∈ s.ext.copyAOff) && decide (p ∈ s.ext.copyBOff)

/-- Section types whose equality makes a replacement a code replacement (R199). -/
def sameSections (a b : Image) : Bool :=
  let key := fun i : Image => (i.sections.filter fun x => decide (x.type.toNat ∈ [2, 3, 4, 7, 8])).map fun x => (x.type, x.lcore, x.len, x.scrc)
  decide (a.header = b.header) && decide (key a = key b)

/-- New words into the inactive bank of each core of a program (R199). -/
def State.loadInactive (s : State) (g : Program) (i : Image) : State :=
  (List.range g.lcores.length).foldl (fun s l => s.updCore (g.lcores.getD l 0) fun k =>
    let w := sparseOf 0 (i.words.getD l [])
    if k.bank then { k with ib0 := w } else { k with ib1 := w }) s

/-- INSTALL (MODE 1): a code replacement when header and sections agree (R199), checked against the program's own binding;
every other replacement is full, and so is one whose old checksums are gone: its streams are held and INSTALL_COMPLETE installs the new image. A handle that names no
installed program of the partition is an operand out of its encoding (CMD_FIELD). -/
def execInstallReplace (ring : Fin 64) (recs : Listed) (s : State) : Out :=
  .next (match s.hub.nextCmdIf ring 0x01 fun c => cmdN c 0x14 1 = 1 with
    | none => s
    | some o =>
      let t := o.cmd.tenant.toNat
      let p := s.hub.ringPart ring
      match s.hub.progIn p (cmdN o.cmd 0x18 8) with
      | none => s.finishCmd o (Answer.of 2)
      | some g =>
        if s.hub.poolOk 2 t = false then s.admitBusy o 2 0
        else
          let off := cmdN o.cmd 8 8
          let img := s.imageAt p off recs
          let code := sameSections g.img img && !s.manifestGone p
          match s.verify p t off (cmdN o.cmd 0x10 4) img (some g.handle) (if code then some g.lcores else none) with
          | .error e => s.finishCmd o { Answer.of e.status with detail := e.detail }
          | .ok _ =>
            let upd := fun (st : ProgSt) (x : Program) => { x with st := st, newImg := some img, cmdId := o.id }
            let s1 := s.updHub fun h => h.take o.id
            if code then (s1.loadInactive g img).updHub fun h => h.updProg g.handle (upd .codeReplacing)
            else (s1.updHub fun h => h.updProg g.handle (upd .fullReplacing)).updHub fun h =>
              (h.openStreams fun x => x.prog = g.handle).foldl (fun h n => h.updStream n Stream.hold) h)

/-- The command a program's install or replacement serves. -/
def Hub.cmdOf (h : Hub) (g : Program) : Option OutCmd := h.cmds.find? fun o => o.id = g.cmdId

/-- Completion of a program's command. -/
def State.finishProg (s : State) (g : Program) (a : Answer) : State :=
  match s.hub.cmdOf g with
  | none => s
  | some o => s.finishCmd o a

/-- Invocations of a program that run. -/
def Hub.runs (h : Hub) (prog : Nat) : Bool := h.invs.any fun v => v.prog = prog

/-- CODE_BANK_SWITCH (R199): once no invocation runs, every core's active bank switches together and the replacement completes. -/
def execCodeBankSwitch (prog : Nat) (s : State) : Out :=
  .next (match s.hub.prog prog with
    | none => s
    | some g => match g.newImg with
      | none => s
      | some i =>
        if g.st ≠ .codeReplacing ∨ s.hub.runs prog then s
        else
          let s1 := g.lcores.foldl (fun s c => s.updCore c fun k => { k with bank := !k.bank }) s
          (s1.updHub fun h => h.updProg prog fun x => { x with st := .ready, img := i, newImg := none, bank := !x.bank, slots := imgSlots i, shadows := imgPairs i }).finishProg g
            { Answer.of 0 with result := BitVec.ofNat 64 prog })

/-- UNINSTALL (R207, Table 9.6). A handle that names no installed program of the partition is an operand out of its encoding. -/
def execUninstall (ring : Fin 64) (s : State) : Out :=
  .next (match s.hub.cmdNext ring 0x02 with
    | none => s
    | some o => match s.hub.progIn (s.hub.ringPart ring) (cmdN o.cmd 8 8) with
      | none => s.finishCmd o (Answer.of 2)
      | some g =>
        if s.hub.poolOk 2 o.cmd.tenant.toNat = false then s.admitBusy o 2 0
        else if s.hub.loaderBusy g.part then s
        else (s.removeProgram g).finishCmd o (Answer.of 0))

/-- Step 7 of R198: every bound macro set ARMED; whether all of them are. -/
def State.armImage (s : State) (i : Image) (b : List Nat) : State × Bool :=
  let ms := s.boundMacros i b
  let s1 := ms.foldl (fun s m => (s.updMac m.1 m.2 fun k => k.writeState .loader s.free .armed).bump) s
  (s1, ms.all fun m => decide ((s1.mac m.1 m.2).st = .armed))

/-- The first macro that is not ARMED, as a detail word (R189). -/
def State.armDetail (s : State) (i : Image) (b : List Nat) : W32 :=
  match (i.weights.zip (s.boundMacros i b)).find? fun e => decide ((s.mac e.2.1 e.2.2).st ≠ .armed) with
  | some e => LErr.detail { status := 0x0110, sec := imgSec i 7 e.1.lcore, lcore := e.1.lcore,
                            item := itemIdx i.weights (fun x => decide (x.lcore = e.1.lcore)) fun x => decide (x = e.1) }
  | none => LErr.detail { status := 0x0110, sec := 0, lcore := 255, item := 0 }

/-- Streams held by a full replacement that failed: their requests complete with its LOADER_ code (R199). -/
def State.failHeld (s : State) (prog status : Nat) (detail : W32) : State :=
  (s.hub.openStreams fun x => x.prog = prog).foldl (fun s n =>
    (if (s.hub.stream n).outstanding then s.endRequest n status detail false else s).endQueued n status) s

/-- A full replacement that fails: the program stays without cores, its streams held. -/
def State.failReplace (s : State) (g : Program) (status : Nat) (detail : W32) : State :=
  ((s.updHub fun h => h.updProg g.handle fun x => { x with st := .held, lcores := [], newImg := none }).failHeld g.handle status detail).finishProg g
    { Answer.of status with detail := detail }

/-- The second part of a full replacement (R199): cores stopped, macros OFFLINE, the new image installed as a fresh install and
its streams released. -/
def State.replaceFull (s : State) (g : Program) (i : Image) (ok : Bool) : State :=
  let s1 := (g.lcores.foldl State.stopCore s).unloadImage g.img g.lcores g.handle
  match s1.overOneRuntime (bindCores i) (s1.freeCores g.part (some g.handle)) with
  | none => s1.failReplace g 0x0106 (LErr.detail { status := 0x0106, sec := 0, lcore := 255, item := 0 })
  | some b =>
    let r := (s1.loadImage i b g.part g.handle).armImage i b
    if ok ∧ r.2 then
      let s3 := r.1.updHub fun h => h.updProg g.handle fun x =>
        { x with st := .ready, img := i, lcores := b, newImg := none, bank := false, slots := imgSlots i, shadows := imgPairs i }
      let s4 := (s3.hub.openStreams fun x => x.prog = g.handle).foldl State.releaseStream s3
      s4.finishProg g { Answer.of 0 with result := BitVec.ofNat 64 g.handle }
    else (r.1.unloadImage i b g.handle).failReplace g 0x0110 (r.1.armDetail i b)

/-- INSTALL_COMPLETE (R198 step 7, R199): `ok` false stands for a step that failed for a reason outside the model. -/
def execInstallComplete (prog : Nat) (ok : Bool) (s : State) : Out :=
  .next (match s.hub.prog prog with
    | none => s
    | some g => match g.st with
      | .installing =>
        let r := s.armImage g.img g.lcores
        if ok ∧ r.2 then (r.1.updHub fun h => h.updProg prog fun x => { x with st := .ready }).finishProg g
          { Answer.of 0 with result := BitVec.ofNat 64 prog }
        else
          let s2 := r.1.unloadImage g.img g.lcores prog
          (s2.updHub fun h => { h with programs := h.programs.filter fun x => decide (x.handle ≠ prog) }).finishProg g
            { Answer.of 0x0110 with detail := r.1.armDetail g.img g.lcores }
      | .fullReplacing => match g.newImg with
        | some i => if s.hub.runs prog then s else s.replaceFull g i ok
        | none => s
      | _ => s)

end Sys2Proof.Machine
end

