-- ==== Sys2Proof/Machine/HubCmds.lean ====
section
/-! DEFINITION. Host commands on streams, doorbells, fetch, and the hub's control memories (R200 to R210, R220, Tables 9.2 to
9.10). -/

namespace Sys2Proof.Machine

/-! ### Doorbells and fetch (R206 to R208) -/

/-- SQ_DOORBELL: the host writes SQ_TAIL. -/
def State.writeSqTail (s : State) (r : Nat) (v : W32) : State := s.updHub fun h => h.updRing r fun x => { x with sqTail := v }
def execSqDoorbell (ring : Fin 64) (tail : W32) (s : State) : Out := .next (s.writeSqTail ring tail)

/-- CQ_HEAD: the host has consumed the entries before it, and completions that waited for the room are posted (R208). -/
def State.writeCqHead (s : State) (q : Nat) (v : W32) : State :=
  let s1 := s.updHub fun h =>
    let n := (v - (h.ring q).cqHead).toNat
    { h.updRing q fun x => { x with cqHead := v } with cqs := Sparse.set h.cqs [] q ((Sparse.get h.cqs [] q).drop n) }
  s1.postWaiting q s1.hub.cqWait
def execCqHeadWrite (ring : Fin 64) (head : W32) (s : State) : Out := .next (s.writeCqHead ring head)

/-- What a hub's control memories hold that a block may no longer write: every change that a command makes to a table whose OWNER is not
the block that keeps it (Table 9.2) is discarded and journalled as HUB_OWNER with that block (R203). -/
def State.ownWrites (old new : State) : State :=
  let lost := fun k => decide (old.hub.owner k ≠ ownerReset k)
  let deny := fun (k : Nat) (changed : Bool) (undo : Hub → Hub) (s : State) =>
    if lost k ∧ changed then (s.updHub undo).journalDev 0xA0 2 ((ownerReset k).getD 0) (BitVec.ofNat 64 k) else s
  deny 3 (decide (new.hub.rings ≠ old.hub.rings)) (fun h => { h with rings := old.hub.rings })
    (deny 2 (decide (new.hub.parts ≠ old.hub.parts)) (fun h => { h with parts := old.hub.parts })
      (deny 1 (decide (new.hub.tenants ≠ old.hub.tenants)) (fun h => { h with tenants := old.hub.tenants })
        (deny 0 (decide (new.hub.streams ≠ old.hub.streams)) (fun h => { h with streams := old.hub.streams }) new)))

/-- Whether a ring's oldest pending command could be fetched (R207): the runtime in service and not paused (R337). -/
def Hub.canFetch (h : Hub) (r : Nat) : Bool :=
  let x := h.ring r
  h.inService && !h.paused && x.en && decide (x.sqHead ≠ x.sqTail) && decide (h.cmds.length < 16384) && h.cqRoom r

/-- The ring the command processor fetches from next (R207): the one whose turn it is while it may be fetched from and has taken fewer than
8 commands, else the next one in round robin that may be. -/
def Hub.turnRing (h : Hub) : Option Nat :=
  if h.canFetch h.turn ∧ h.turnUsed < 8 then some h.turn
  else ((List.range 64).map fun i => (h.turn + 1 + i) % 64).find? h.canFetch

/-- Whether a fetch from a ring is the next one. -/
def Hub.mayFetch (h : Hub) (r : Nat) : Bool := h.canFetch r && decide (h.turnRing = some r)

/-- A fetch: SQ_HEAD advances, one completion is reserved, the command is outstanding (R207). -/
def Hub.fetch (h : Hub) (r : Nat) (c : HostCmd) : Hub × OutCmd :=
  let o : OutCmd := { id := h.nextCmd, ring := r, cmd := c, taken := false }
  let h1 := h.updRing r fun x => { x with sqHead := x.sqHead + 1 }
  let h2 := h1.updRing (h1.cqOf r) fun x => { x with reserved := x.reserved + 1 }
  ({ h2 with cmds := h2.cmds ++ [o], nextCmd := h2.nextCmd + 1, turn := r,
             turnUsed := if r = h.turn ∧ h.turnUsed < 8 then h.turnUsed + 1 else 1 }, o)

/-- A command that stays in its ring because the pool of outstanding commands is full: its tenant waits for that pool (R220). -/
def Hub.noteWaiting (h : Hub) (r : Nat) (c : HostCmd) : Hub :=
  let x := h.ring r
  if h.inService ∧ h.paused = false ∧ x.en ∧ x.sqHead ≠ x.sqTail ∧ 16384 ≤ h.cmds.length then h.ask 0 c.tenant.toNat else h

/-- A fetched command: the checks that need no more than the command follow the fetch: reserved values, the tenant's range (R227), the
one-eighth rule of the outstanding-command pool (R220). -/
def State.fetchCmd (s : State) (ring : Fin 64) (cmd : HostCmd) : State :=
  let t := cmd.tenant.toNat
  let past := s.hub.wanted 0 t && decide (poolShare 0 ≤ s.hub.held 0 (some t))
  let f := s.hub.fetch ring cmd
  let s1 := s.setHub f.1
  if cmdBad cmd then s1.finishCmd f.2 (Answer.of 2)
  else if s.hub.tenantOf (s.hub.ringPart ring) t = false then s1.finishCmd f.2 (Answer.of 3)
  else if past then s1.admitBusy f.2 0 0
  else s1

/-- COMMAND_FETCH (R207). -/
def execCommandFetch (ring : Fin 64) (cmd : HostCmd) (s : State) : Out :=
  .next (if s.hub.mayFetch ring = false then s.setHub (s.hub.noteWaiting ring cmd) else s.ownWrites (s.fetchCmd ring cmd))

/-- NOP: completes OK. -/
def execHostNop (ring : Fin 64) (s : State) : Out :=
  .next (match s.hub.cmdNext ring 0x00 with
    | none => s
    | some o => s.finishCmd o (Answer.of 0))

/-! ### Streams (R209, R213, R216) -/

/-- Estimate of a bucket pair: the sum of its steps (R197, R212). -/
def estPair (i : Image) (c0 c1 : Nat) : Nat :=
  ((List.range i.nstep).map fun k => i.est.getD (i.nstep * (i.buckets.nb1 * c0 + c1) + k) 0).sum

/-- The largest batch estimate of a replica, in nanojoules. -/
def estMax (i : Image) : Nat :=
  ((List.range i.buckets.nb0).flatMap fun c0 => (List.range i.buckets.nb1).map fun c1 => estPair i c0 c1).foldl max 0

/-- A partition's floor per epoch, in microjoules (R211). -/
def Hub.floor (h : Hub) (p : Nat) : Nat := (h.part p).pmin * 25

/-- Replicas of a partition that hold an interactive or standard stream of a tenant with WEIGHT above 0. -/
def State.bounded (s : State) (p : Nat) : List Program :=
  s.hub.programs.filter fun g => decide (g.part = p) &&
    !(s.hub.openStreams fun x => decide (x.prog = g.handle) && decide (x.cls ≤ 1) && decide (0 < s.mgmt.weight x.tenant)).isEmpty

/-- The admission condition after an open of class `cls` on replica g (R216); estimates are in nJ, floors in µJ. -/
def State.admits (s : State) (p t cls : Nat) (g : Program) : Bool :=
  if 1 < cls ∨ s.mgmt.weight t = 0 then true
  else
    let gs := s.bounded p
    let all := if gs.any fun x => x.handle = g.handle then gs else gs ++ [g]
    decide ((all.map fun x => estMax x.img).sum ≤ s.hub.floor p * 1000)

/-- STREAM_OPEN (R209, R216, R219, R220, R224): the lowest FREE entry and the lowest free slot. -/
def execStreamOpen (ring : Fin 64) (s : State) : Out :=
  .next <| s.ownWrites (match s.hub.cmdNext ring 0x10 with
    | none => s
    | some o =>
      let p := s.hub.ringPart ring
      let t := o.cmd.tenant.toNat
      match s.hub.progIn p (cmdN o.cmd 8 8) with
      | none => s.finishCmd o (Answer.of 2)
      | some g =>
        if s.hub.loaderBusy p then s
        else if s.hub.poolOk 1 t = false then s.admitBusy o 1 0
        else if (s.hub.part p).squota ≤ (s.hub.part p).sused ∨
            s.mgmt.streamQuota t ≤ (s.hub.openStreams fun x => x.tenant = t).length then s.admitBusy o 3 0
        else match (List.range g.slots).find? fun k => (Sparse.find? g.slotUse k).isNone with
          | none => s.admitBusy o 3 1
          | some k =>
            if s.admits p t (cmdN o.cmd 0x10 1) g = false then s.admitBusy o 3 0
            else match (List.range 8192).find? fun n => (s.hub.stream n).st = 0 with
              | none => s.admitBusy o 1 0
              | some n =>
                let x : Stream := { Stream.reset with st := 1, cls := cmdN o.cmd 0x10 1, part := p, tenant := t, slot := k, prog := g.handle,
                                                      account := cmdN o.cmd 0x12 2 }
                (s.updHub fun h =>
                  let h1 := (h.updProg g.handle fun y => { y with slotUse := Sparse.insert y.slotUse k n }).setStream n x
                  h1.setPart p { h1.part p with sused := (h1.part p).sused + 1 }).finishCmd o
                    { Answer.of 0 with stream := n, result := BitVec.ofNat 64 n })

/-- The smallest bucket that holds a size (R196); none when there is none or the size is 0. -/
def bucketFor (sizes : List Nat) (n : Nat) : Option Nat := if n = 0 then none else sizes.findIdx? fun x => n ≤ x

/-- The bucket pair for two sizes; an unused dimension has its one bucket. -/
def bucketPair (b : Buckets) (n0 n1 : Nat) : Option (Nat × Nat) :=
  match (if b.ndim = 0 then some 0 else bucketFor b.size0 n0), (if b.ndim < 2 then some 0 else bucketFor b.size1 n1) with
  | some c0, some c1 => some (c0, c1)
  | _, _ => none

/-- A stream named by a command: its number when it is open in the ring's partition. -/
def State.streamOf (s : State) (r n : Nat) : Bool :=
  let x := s.hub.stream n
  decide (n < 8192) && decide (x.st ≠ 0) && decide (x.part = s.hub.ringPart r)

/-- STREAM_REQ (Table 9.10, R196). A request for 0 results completes at once; a HELD stream queues behind its held request. -/
def execStreamReq (ring : Fin 64) (s : State) : Out :=
  .next <| s.ownWrites (match s.hub.cmdNext ring 0x11 with
    | none => s
    | some o =>
      let n := cmdN o.cmd 8 2
      let x := s.hub.stream n
      let no := fun st : Nat => s.finishCmd o { Answer.of st with stream := n }
      if s.streamOf ring n = false then s.finishCmd o { Answer.of 4 with stream := n }
      else if x.st ≠ 1 ∧ x.st ≠ 4 then no 4
      else match s.hub.prog x.prog with
        | none => no 4
        | some g =>
          if (bucketPair g.img.buckets (cmdN o.cmd 0xC 4) (cmdN o.cmd 0x10 4)).isNone then no 5
          else if cmdN o.cmd 0x14 4 = 0 then no 0
          else if x.outstanding then (s.updHub fun h => h.take o.id).updHub fun h => h.updStream n fun x => { x with queued := x.queued ++ [o.cmd] }
          else (s.updHub fun h => h.take o.id).updHub fun h => h.updStream n fun x => x.begin ring o.cmd)

/-- STREAM_STOP (Table 9.10). -/
def execStreamStop (ring : Fin 64) (s : State) : Out :=
  .next <| s.ownWrites (match s.hub.cmdNext ring 0x12 with
    | none => s
    | some o =>
      let n := cmdN o.cmd 8 2
      let x := s.hub.stream n
      let fin := fun (s : State) (st : Nat) => s.finishCmd o { Answer.of st with stream := n }
      if s.streamOf ring n = false then fin s 4
      else if x.st = 1 then fin s 0
      else if x.st = 2 then
        fin (((s.endRequest n 8 0 false).updHub fun h => h.updStream n fun x => { x with st := 1, remain := 0 }).nextQueued n) 0
      else if x.st = 3 then fin (s.updHub fun h => h.updStream n fun x => { x with stopDue := true }) 0
      else if x.st = 4 then
        let s1 := (if x.outstanding then s.endRequest n 8 0 false else s).endQueued n 8
        fin (s1.updHub fun h => h.updStream n fun x => { x with st := 1, remain := 0 }) 0
      else fin s 4)

/-- STREAM_CLOSE (Table 9.10): its slot is released at once, and the close then completes OK. -/
def execStreamClose (ring : Fin 64) (s : State) : Out :=
  .next <| s.ownWrites (match s.hub.cmdNext ring 0x13 with
    | none => s
    | some o =>
      let n := cmdN o.cmd 8 2
      let x := s.hub.stream n
      if s.streamOf ring n = false ∨ x.st = 5 ∨ x.closeDue then s.finishCmd o { Answer.of 4 with stream := n }
      else
        let s1 := s.updHub fun h => (h.take o.id).updStream n fun x => { x with closeTag := some (o.cmd.tag, ring.val) }
        if x.st = 3 then s1.updHub fun h => h.updStream n fun x => { x with closeDue := true }
        else ((s1.updHub fun h => h.updStream n fun x => { x with st := 5 }).dropStream n 8))

/-- STREAM_RELEASE (Table 9.10, Table 9.6). -/
def execStreamRelease (ring : Fin 64) (s : State) : Out :=
  .next <| s.ownWrites (match s.hub.cmdNext ring 0x14 with
    | none => s
    | some o =>
      let n := cmdN o.cmd 8 2
      if n = 0xFFFF then
        let p := s.hub.ringPart ring
        ((s.hub.openStreams fun x => decide (x.part = p) && decide (x.st = 4)).foldl State.releaseStream s).finishCmd o
          (Answer.of 0)
      else if s.streamOf ring n ∧ (s.hub.stream n).st = 4 then
        (s.releaseStream n).finishCmd o { Answer.of 0 with stream := n }
      else s.finishCmd o { Answer.of 4 with stream := n })

/-- Tokens granted on a channel of a core; those past 255 are lost with DROPPED_GRANT (R120). -/
def State.grantTok (s : State) (c ch n : Nat) : State :=
  let r := (s.core c).addTok ch n
  let s1 := s.setCore c r.1
  if r.2 = 0 then s1 else s1.journal eDroppedGrant (s.core c).part 0 c 0 (s.core c).stepno 0 (BitVec.ofNat 64 r.2)

/-- SIGNAL (Table 9.6): tokens on a release channel of every core of the program. -/
def execSignal (ring : Fin 64) (s : State) : Out :=
  .next (match s.hub.cmdNext ring 0x20 with
    | none => s
    | some o => match s.hub.progIn (s.hub.ringPart ring) (cmdN o.cmd 8 8) with
      | none => s.finishCmd o (Answer.of 2)
      | some g => (g.lcores.foldl (fun s c => s.grantTok c (cmdN o.cmd 0x10 1) (cmdN o.cmd 0x11 1)) s).finishCmd o (Answer.of 0))

/-! ### Control memories (R200 to R204) -/

/-- Fields laid end to end: value and byte count. -/
def packFields : List (Nat × Nat) → List Byte
  | [] => []
  | (v, n) :: rest => leBytes n v ++ packFields rest

/-- Table 9.9. -/
def Stream.bytes (x : Stream) : List Byte :=
  packFields [(x.st, 1), (x.cls, 1), (x.part, 1), (bitAt x.each 0 + bitAt x.late 1 + bitAt x.kvLost 2, 1), (x.tenant, 2), (x.slot, 2), (x.prog, 8),
    (x.account, 2), (x.age, 2), (x.n0, 4), (x.n1, 4), (x.remain, 4), (x.inOff, 8), (x.outOff, 8), (x.energy.toNat, 8), (x.results, 8),
    (x.tag.toNat, 4), (x.sq, 1), (0, 3), (x.maxgap, 4), (0, 52)]

/-- An entry's bytes taken in; STATE and CLASS keep their value on a reserved encoding (R9). -/
def Stream.setBytes (x : Stream) (b : List Byte) : Stream :=
  { x with st := if hdrN b 0 1 ≤ 5 then hdrN b 0 1 else x.st, cls := if hdrN b 1 1 ≤ 3 then hdrN b 1 1 else x.cls, part := hdrN b 2 1, each := bit (hdrN b 3 1) 0, late := bit (hdrN b 3 1) 1,
           kvLost := bit (hdrN b 3 1) 2, tenant := hdrN b 4 2, slot := hdrN b 6 2, prog := hdrN b 8 8, account := hdrN b 0x10 2,
           age := hdrN b 0x12 2, n0 := hdrN b 0x14 4, n1 := hdrN b 0x18 4, remain := hdrN b 0x1C 4, inOff := hdrN b 0x20 8,
           outOff := hdrN b 0x28 8, energy := hdrN b 0x30 8, results := hdrN b 0x38 8, tag := BitVec.ofNat 32 (hdrN b 0x40 4),
           sq := hdrN b 0x44 1, maxgap := hdrN b 0x48 4 }

/-- Table 10.1. -/
def Partition.bytes (x : Partition) : List Byte :=
  packFields [(x.st, 1), (x.rights.toNat, 1), (x.dlpol, 1), (x.lendp, 1), (x.tbase, 2), (x.tcount, 2), (x.cores.toNat, 16), (x.cbanks.toNat, 8),
    (x.lpbase, 8), (x.lpsize, 8), (x.squota, 2), (x.sused, 2), (x.pshare, 2), (x.pmin, 2), (x.kxshare, 1), (x.resv, 1), (x.keygen, 2),
    (x.cgen.toNat, 4), (0, 192)]

/-- An entry's bytes taken in; STATE and DLPOL keep their value on a reserved encoding (R9). -/
def Partition.setBytes (x : Partition) (b : List Byte) : Partition :=
  { x with st := if hdrN b 0 1 ≤ 2 then hdrN b 0 1 else x.st, rights := BitVec.ofNat 8 (hdrN b 1 1 % 16),
           dlpol := if hdrN b 2 1 % 4 ≤ 2 then hdrN b 2 1 % 4 else x.dlpol, lendp := hdrN b 3 1 % 16, tbase := hdrN b 4 2,
           tcount := hdrN b 6 2, cores := BitVec.ofNat 80 (hdrN b 8 16), cbanks := BitVec.ofNat 64 (hdrN b 0x18 8), lpbase := hdrN b 0x20 8,
           lpsize := hdrN b 0x28 8, squota := hdrN b 0x30 2, sused := hdrN b 0x32 2, pshare := hdrN b 0x34 2, pmin := hdrN b 0x36 2,
           kxshare := hdrN b 0x38 1, resv := hdrN b 0x39 1, keygen := hdrN b 0x3A 2, cgen := BitVec.ofNat 32 (hdrN b 0x3C 4) }

/-- Table 9.4. -/
def Ring.bytes (x : Ring) : List Byte :=
  packFields [(x.sqBase.toNat, 8), (x.cqBase.toNat, 8), (x.sqLog.toNat, 1), (x.cqLog.toNat, 1), (x.cqr.toNat, 1), (bitAt x.en 7 + x.part.val, 1),
    (x.vec.toNat, 2), (0, 2), (x.sqTail.toNat, 4), (x.sqHead.toNat, 4), (x.cqHead.toNat, 4), (x.cqTail.toNat, 4), (0, 24)]

def Ring.setBytes (x : Ring) (b : List Byte) : Ring :=
  { x with sqBase := BitVec.ofNat 64 (hdrN b 0 8), cqBase := BitVec.ofNat 64 (hdrN b 8 8), sqLog := BitVec.ofNat 8 (hdrN b 0x10 1),
           cqLog := BitVec.ofNat 8 (hdrN b 0x11 1), cqr := BitVec.ofNat 8 (hdrN b 0x12 1), en := bit (hdrN b 0x13 1) 7,
           part := ⟨hdrN b 0x13 1 % 16, Nat.mod_lt _ (by decide)⟩, vec := BitVec.ofNat 16 (hdrN b 0x14 2),
           sqTail := BitVec.ofNat 32 (hdrN b 0x18 4), sqHead := BitVec.ofNat 32 (hdrN b 0x1C 4), cqHead := BitVec.ofNat 32 (hdrN b 0x20 4),
           cqTail := BitVec.ofNat 32 (hdrN b 0x24 4) }

/-- Sizes of Table 9.2. -/
def memSize : CtlMem → Nat
  | .streamTable => 0x100000 | .tenantTable => 0x10000 | .partitionTable => 0x1000 | .ringContexts => 0x1000 | .creditPools => 0x1000
  | .commonsBank _ => 0x400000

/-- n bytes of a control memory. The spec gives a tenant entry's fields no places: its bytes are those that atomics left there. -/
def State.memGet (s : State) (m : CtlMem) (a n : Nat) : List Byte :=
  let part := fun (bs : List Byte) (o : Nat) => (bs.drop o).take n
  match m with
  | .streamTable => part (s.hub.stream (a / 128)).bytes (a % 128)
  | .tenantTable => Memory.readN s.hub.tenantMem a n
  | .partitionTable => part (s.hub.part (a / 256)).bytes (a % 256)
  | .ringContexts => part (s.hub.ring (a / 64)).bytes (a % 64)
  | .creditPools => Memory.readN s.hub.credits a n
  | .commonsBank k => Memory.readN s.hub.commons (k.val * 0x400000 + a) n

/-- Bytes replaced in a list from a place on. -/
def patch (bs : List Byte) (o : Nat) (new : List Byte) : List Byte := bs.take o ++ new ++ bs.drop (o + new.length)

/-- Bytes written to a control memory; of a tenant entry no modelled field changes. -/
def State.memPut (s : State) (m : CtlMem) (a : Nat) (bs : List Byte) : State :=
  match m with
  | .streamTable => s.updHub fun h => h.updStream (a / 128) fun x => x.setBytes (patch x.bytes (a % 128) bs)
  | .tenantTable => s.updHub fun h => { h with tenantMem := Memory.writeL h.tenantMem a bs }
  | .partitionTable => s.updHub fun h => h.setPart (a / 256) ((h.part (a / 256)).setBytes (patch (h.part (a / 256)).bytes (a % 256) bs))
  | .ringContexts => s.updHub fun h => h.updRing (a / 64) fun x => x.setBytes (patch x.bytes (a % 64) bs)
  | .creditPools => s.updHub fun h => { h with credits := Memory.writeL h.credits a bs }
  | .commonsBank k => s.updHub fun h => { h with commons := Memory.writeL h.commons (k.val * 0x400000 + a) bs }

/-- What a requester's atomic fails with: SP_ADDR for an access that is misaligned, outside the memory, or that a core makes to a
memory its partition does not own (R202, R204); SP_PERM for a write of the partition table that is not the island's (R224). -/
def State.atomicFault (s : State) (who : HubAgent) (m : CtlMem) (a n : Nat) : Byte :=
  if a % n ≠ 0 ∨ memSize m < a + n then fSpAddr
  else match who with
    | .fabric c =>
      match m with
      | .commonsBank k => if s.hub.owner (5 + k.val) = some (s.core c).part then 0 else fSpAddr
      | _ => fSpAddr
    | .island => 0
    | _ => if m = .partitionTable then fSpPerm else 0

/-- The offset in its partition's commons region of a byte of a bank (R204). -/
def Hub.bankOffset (h : Hub) (p k a : Nat) : Nat :=
  let bs := h.banks p
  (a / 64 * bs.length + bs.idxOf k) * 64 + a % 64

/-- An atomic at the bank: the old value is returned, the new one written. -/
def State.atomic (s : State) (who : HubAgent) (m : CtlMem) (a : Nat) (wide : Bool) (f : Nat → Nat) : State :=
  let n := if wide then 8 else 4
  let e := s.atomicFault who m a n
  if e = 0 then
    let old := s.memGet m a n
    (s.memPut m a (leBytes n (f (leNat old)))).answer 0 old
  else s.answer e.toNat []

/-- An ADD that has reached a commons bank may be an arrival at a merge descriptor (R100). -/
def State.noteArrival (s : State) (who : HubAgent) (m : CtlMem) (a n : Nat) : State :=
  match m with
  | .commonsBank k => match s.hub.owner (5 + k.val) with
    | some p => if s.atomicFault who m a n = 0 then s.updHub fun h => h.noteAdd p (h.bankOffset p k a) else s
    | none => s
  | _ => s

/-- CTRL_MEM_ADD (R202). -/
def execCtrlMemAdd (who : HubAgent) (mem : CtlMem) (addr : Nat) (wide : Bool) (v : W64) (s : State) : Out :=
  .next ((s.noteArrival who mem addr (if wide then 8 else 4)).atomic who mem addr wide fun old => old + v.toNat)

/-- CTRL_MEM_SWAP (R202). -/
def execCtrlMemSwap (who : HubAgent) (mem : CtlMem) (addr : Nat) (wide : Bool) (v : W64) (s : State) : Out :=
  .next (s.atomic who mem addr wide fun _ => v.toNat)

/-- Whether a requester owns a memory: the agent, or for a commons bank a core of the owning partition (R203, R204). -/
def State.ownsMem (s : State) (who : HubAgent) (m : CtlMem) : Bool :=
  match m, who with
  | .commonsBank _, .fabric c => decide (s.hub.owner (memKey m) = some (s.core c).part) && (s.core c).owner.isSome
  | .commonsBank _, _ => false
  | _, _ => decide (s.hub.owner (memKey m) = some (agentNum who))

/-- A bank's words written to zero (R204). -/
def Hub.zeroBank (h : Hub) (k : Nat) : Hub :=
  { h with commons := Sparse.clearRange h.commons (k * 0x400000) 0x400000 }

/-- An accepted write of OWNER: a bank that passes to another partition is zeroed first. -/
def Hub.handOver (h : Hub) (m : CtlMem) (v : Option Nat) : Hub :=
  match m with
  | .commonsBank k => (if v.isSome ∧ v ≠ h.owner (memKey m) then h.zeroBank k.val else h).setOwner (memKey m) v
  | _ => h.setOwner (memKey m) v

/-- A requester as a journal record names it (Table 10.11): a core by its number, the safety island, or a hub block. -/
def agentSrc : HubAgent → Nat × Nat
  | .fabric c => (0, c.val)
  | .island => (7, 0)
  | who => (2, agentNum who)

/-- OWNER_WRITE (R203): by the owner, or by the safety island at any time; any other write is discarded and journalled. -/
def execOwnerWrite (who : HubAgent) (mem : CtlMem) (owner : Option Nat) (s : State) : Out :=
  .next (if who = .island ∨ s.ownsMem who mem then s.updHub fun h => h.handOver mem owner
    else s.journalDev 0xA0 (agentSrc who).1 (agentSrc who).2 (BitVec.ofNat 64 (memKey mem)))

end Sys2Proof.Machine
end

