-- ==== Sys2Proof/Machine/Scheduler.lean ====
section
/-! DEFINITION. The epoch scheduler: budgets, the three passes, dispatch, step records and completions (R210 to R217). -/

namespace Sys2Proof.Machine

/-! ### Deficits and shares -/

/-- Charges and corrections saturate DEFICIT at ±2^62 (R212). -/
def satDeficit (v : Int) : Int := max (-(2 ^ 62)) (min (2 ^ 62) v)

def Hub.credit (h : Hub) (t : Nat) (v : Int) : Hub := h.updTenant t fun x => { x with deficit := satDeficit (x.deficit + v) }

/-- A total split over streams: equal parts, the remainder to the lowest stream number. -/
def sharesOf (total : Nat) (ns : List Nat) : List (Nat × Nat) :=
  let lo := ns.foldl min (ns.headD 0)
  ns.map fun n => (n, total / ns.length + if n = lo then total % ns.length else 0)

/-- Each stream's tenant debited its share of a total; a negative total is a credit. -/
def Hub.chargeAll (h : Hub) (neg : Bool) (total : Nat) (ns : List Nat) : Hub :=
  (sharesOf total ns).foldl (fun h p => h.credit (h.stream p.1).tenant (if neg then (p.2 : Int) else -(p.2 : Int))) h

/-- athr of a class (R213); none for background. -/
def agedAt (cls : Nat) : Option Nat := match cls with | 0 => some 22 | 1 => some 88 | 2 => some 352 | _ => none

/-- A ready stream: READY, and its completion ring has room for what it posts beyond its reservation (R212). -/
def Hub.isReady (h : Hub) (x : Stream) : Bool := decide (x.st = 2) && (!x.each || decide (x.remain ≤ 1) || h.cqRoom x.sq)

def Hub.readyOf (h : Hub) (prog : Nat) : List Nat := h.openStreams fun x => decide (x.prog = prog) && h.isReady x
def Hub.readyIn (h : Hub) (p : Nat) : List Nat := h.openStreams fun x => decide (x.part = p) && h.isReady x

/-- A batch estimate in microjoules, from nanojoules rounded up (R197, R212). -/
def batchEst (i : Image) (c : Nat × Nat) : Nat := (estPair i c.1 c.2 + 999) / 1000

/-- The bucket pair of a batch: N0 its size, N1 the largest N1 of its streams (R212). -/
def Hub.batchPair (h : Hub) (g : Program) (bat : List Nat) : Option (Nat × Nat) :=
  bucketPair g.img.buckets bat.length ((bat.map fun n => (h.stream n).n1).foldl max 0)

/-- Whether the scheduler may dispatch a replica: installed, none of its invocations running, its cores IDLE, no exclusive lock on
its partition (R212, R219). -/
def State.idleReplica (s : State) (g : Program) : Bool :=
  decide (g.st = .ready) && !g.lcores.isEmpty && !s.hub.runs g.handle && !s.hub.loaderBusy g.part &&
    g.lcores.all fun c => decide ((s.core c).st = .idle)

/-! ### Budgets (R211) -/

/-- The budget of each partition with ready work, and whether the floors were scaled down. -/
def budgetsOf (h : Hub) (g : Nat) (ps : List Nat) : List (Nat × Nat) × Bool :=
  let floors := (ps.map h.floor).sum
  let shares := (ps.map fun p => (h.part p).pshare).sum
  if g < floors then (ps.map fun p => (p, h.floor p * g / floors), true)
  else (ps.map fun p => (p, h.floor p + (if shares = 0 then 0 else (g - floors) * (h.part p).pshare / shares)), false)

/-! ### Dispatch (R215, R196) -/

/-- One element of a pad, or one byte of a mask, written to the buffer a handle initialiser names. -/
def State.padWrite (s : State) (b : List Nat) (h : HandleInit) (o : Nat) (bs : List Byte) : State :=
  s.updCore (b.getD h.owner 0) fun k => (k.spWrite (bs.length + 1) (h.base + o) bs).1

/-- The mask byte i: 1 below n, 0 from n up to the bucket size; bits beyond it keep their value (R39 order). -/
def maskByte (old n size i : Nat) : Byte :=
  BitVec.ofNat 8 (((List.range 8).map fun b => bitAt (if 8 * i + b < size then decide (8 * i + b < n) else bit old b) b).sum)

/-- The pad and mask writes of one descriptor for one logical core. -/
def State.padCore (s : State) (g : Program) (p : Pad) (l n size : Nat) : State :=
  let s1 := match imgHinit g.img l p.handle.toNat with
    | none => s
    | some h => ((List.range size).filter fun i => n ≤ i).foldl (fun s i =>
        s.padWrite g.lcores h (p.offset + i * p.stride) (fillElem (2 ^ p.elog) p.value.toNat)) s
  if p.mask then
    match imgHinit g.img l p.maskH.toNat with
    | none => s1
    | some h => (List.range ((size + 7) / 8)).foldl (fun s i =>
        let old := (Memory.read (s.core (g.lcores.getD h.owner 0)).sp (h.base + p.maskOff + i)).toNat
        s.padWrite g.lcores h (p.maskOff + i) [maskByte old n size i]) s1
  else s1

/-- Size of a bucket of a dimension. -/
def bucketSize (b : Buckets) (dim : Nat) (c : Nat × Nat) : Nat := if dim = 0 then b.size0.getD c.1 0 else b.size1.getD c.2 0

/-- Step 1 of R215: the pads of every used dimension. -/
def State.writePads (s : State) (g : Program) (c : Nat × Nat) (n0 n1 : Nat) : State :=
  let b := g.img.buckets
  (b.pads.filter fun p => p.dim.toNat < b.ndim).foldl (fun s p =>
    (coresNamed g.img p.lcore.toNat).foldl (fun s l =>
      s.padCore g p l (if p.dim = 0 then n0 else n1) (bucketSize b p.dim.toNat c)) s) s

/-- Step 2 of R215: the batch descriptor behind handle 255 of a core. -/
def State.writeBatch (s : State) (c slots seq : Nat) (bat : List Nat) : State :=
  let e := (s.core c).ht 255
  if htValid e ∧ 64 + 8 * slots ≤ htSize e then
    let ent := bat.flatMap fun n => let x := s.hub.stream n; packFields [(n, 2), (x.slot, 2), (x.n1, 2), (0, 2)]
    s.updCore (htCore e) fun k =>
      let k1 := (k.spWrite 9 (htBase e) (packFields [(bat.length, 4), (seq, 4)])).1
      (k1.spWrite (ent.length + 1) (htBase e + 64) ent).1
  else s

/-- A dispatch of a batch, streams in ascending order of number (R215). -/
def State.dispatch (s : State) (g : Program) (bat : List Nat) (pair : Nat × Nat) (e : Nat) : State :=
  let n0 := bat.length
  let n1 := (bat.map fun n => (s.hub.stream n).n1).foldl max 0
  let s1 := s.writePads g pair n0 n1
  let s2 := g.lcores.foldl (fun s c => s.writeBatch c g.slots g.seq bat) s1
  let t := min 255 g.img.nstep
  let s3 := g.lcores.foldl (fun s c => s.grantTok c 0 t) s2
  let b := g.img.buckets
  let args := [n0, n1, bucketSize b 0 pair, bucketSize b 1 pair, bat.headD 0, g.seq].map (BitVec.ofNat 64)
  let ent := b.entries.getD (b.nb1 * pair.1 + pair.2) []
  let s4 := (List.range g.lcores.length).foldl (fun s l => s.updCore (g.lcores.getD l 0) fun k => k.start g.bank (ent.getD l 0) args) s3
  let inv : Invocation := { prog := g.handle, seq := g.seq, streams := bat, est := e, start := (g.lcores.map fun c => (c, (s.coreEnergy c : Int))), busy := g.lcores,
                            granted := g.lcores.map fun c => (c, t), nsteps := g.img.nstep, dones := [], code := 0, fault := none, spec := false }
  s4.updHub fun h =>
    let h1 := bat.foldl (fun h n => h.updStream n fun x => { x with st := 3 }) h
    (({ h1 with invs := h1.invs ++ [inv] }).updProg g.handle fun x => { x with seq := x.seq + 1 }).chargeAll false e bat

/-! ### The passes (R212) -/

inductive Pass where
  | aged | owed | fill | slack
  deriving DecidableEq, Repr

/-- A tenant with WEIGHT 0 is served only in the fill pass (R210). -/
def State.owes (s : State) (t : Nat) : Bool := decide (0 < s.mgmt.weight t) && decide (0 ≤ (s.hub.tenant t).deficit)

def Stream.isAged (x : Stream) : Bool := match agedAt x.cls with | some a => decide (a ≤ x.age) | none => false

/-- The candidates and the batch of a replica in a pass. -/
def State.candOf (s : State) (p : Pass) (g : Program) : List Nat :=
  if p = .slack then (s.hub.readyOf g.handle).filter fun n => (s.hub.stream n).cls = 3
  else (s.hub.readyOf g.handle).filter fun n =>
    decide (p = .fill) || (decide ((s.hub.stream n).cls ≠ 3) && decide (0 < s.mgmt.weight (s.hub.stream n).tenant))

def State.batchOf (s : State) (p : Pass) (g : Program) : List Nat :=
  let cand := s.candOf p g
  match p with
  | .aged =>
    if cand.any fun n => (s.hub.stream n).isAged then
      cand.filter fun n => (s.hub.stream n).isAged || s.owes (s.hub.stream n).tenant
    else []
  | .owed => cand.filter fun n => s.owes (s.hub.stream n).tenant
  | _ => cand

/-- Whether replica a comes before b in a pass (R212): keys, then the lower tenant, then the lower handle. Key(aged) is over all the
replica's streams, key(fill) over its ready ones. -/
def State.before (s : State) (p : Pass) (a b : Program) : Bool :=
  let oldest := fun g : Program => ((s.hub.openStreams fun x => x.prog = g.handle).map fun n => (s.hub.stream n).age).foldl max 0
  let age := fun g : Program => ((s.hub.readyOf g.handle).map fun n => (s.hub.stream n).age).foldl max 0
  let cls := fun g : Program => ((s.hub.readyOf g.handle).map fun n => (s.hub.stream n).cls).foldl min 4
  let ten := fun g : Program => ((s.hub.readyOf g.handle).map fun n => (s.hub.stream n).tenant).foldl min 1024
  let owed := fun g : Program => ((s.batchOf .owed g).map fun n => (s.hub.stream n).tenant)
  let ratioLt := fun x y : Nat =>
    decide ((s.hub.tenant x).deficit * (s.mgmt.weight y : Int) < (s.hub.tenant y).deficit * (s.mgmt.weight x : Int))
  let best := fun g : Program => (owed g).foldl (fun o t => match o with
    | none => some t
    | some u => if ratioLt u t ∨ (ratioLt t u = false ∧ t < u) then some t else some u) (none : Option Nat)
  let tie := fun x y : Nat => decide (x < y) || (decide (x = y) && decide (a.handle < b.handle))
  match p with
  | .aged => decide (oldest b < oldest a) || (decide (oldest a = oldest b) && tie (ten a) (ten b))
  | .owed => match best a, best b with
    | some x, some y => ratioLt y x || (!ratioLt x y && tie x y)
    | some _, none => true
    | none, some _ => false
    | none, none => decide (a.handle < b.handle)
  | _ => decide (cls a < cls b) || (decide (cls a = cls b) && (decide (age b < age a) || (decide (age a = age b) && tie (ten a) (ten b))))

/-- Insertion of a replica in a pass's order. -/
def State.insertBy (s : State) (p : Pass) (g : Program) : List Program → List Program
  | [] => [g]
  | x :: rest => if s.before p g x then g :: x :: rest else x :: s.insertBy p g rest

/-- LATE set on an interactive or standard stream (R217); streams that set it are counted in OD 5000.03. -/
def Hub.setLate (h : Hub) (n : Nat) : Hub :=
  if 1 < (h.stream n).cls then h
  else { h.updStream n fun x => { x with late := true } with lateSet := h.lateSet + if (h.stream n).late then 0 else 1 }

/-- The condition of R216 that failed for a stream since its last result, by its place in the rule's list: 1 an epoch granted the partition
less than its floor, 2 an invocation took more than 200 µs, 3 the stream was held; 0 for a stream that R216 does not admit. Where neither
1 nor 3 failed, the rule leaves 2. -/
def State.lateCause (s : State) (n : Nat) : W64 :=
  let x := s.hub.stream n
  if 1 < x.cls ∨ s.mgmt.weight x.tenant = 0 then 0 else if x.wasHeld then 3 else if x.missed then 1 else 2

/-- One replica of a pass: dispatched when its batch fits the rest of the budget; an aged batch that does not fit is late. -/
def State.tryReplica (p : Pass) (a : State × Nat) (g : Program) : State × Nat :=
  let s := a.1
  if s.idleReplica g = false then a
  else
    let bat := s.batchOf p g
    match s.hub.batchPair g bat with
    | none => a
    | some pair =>
      if bat.isEmpty then a
      else
        let e := batchEst g.img pair
        if a.2 < e then
          if p = .aged then
            let late := bat.filter fun n => (s.hub.stream n).isAged
            ((s.updHub fun h => late.foldl Hub.setLate h).journal 0xA2 g.part 2 g.handle 0 0 0
              (s.lateCause (late.headD 0)), a.2)
          else a
        else (s.dispatch g bat pair e, a.2 - e)

/-- One pass over a partition's replicas, ordered as the pass begins. -/
def State.runPass (s : State) (part rem : Nat) (p : Pass) : State × Nat :=
  let gs := s.hub.programs.filter fun g => decide (g.part = part) && s.idleReplica g && !(s.hub.readyOf g.handle).isEmpty
  (gs.foldl (fun l g => s.insertBy p g l) []).foldl (State.tryReplica p) (s, rem)

/-- Quanta and normalisation of a partition's deficits (R212). A quantum is bp·w over the sum of weights, rounded down. -/
def State.quanta (s : State) (p bp : Nat) : State :=
  let ts := ((s.hub.readyIn p).map fun n => (s.hub.stream n).tenant).dedup
  let sw := (ts.map s.mgmt.weight).sum
  let q := s.hub.part p
  let s1 := s.updHub fun h => ts.foldl (fun h t => if sw = 0 then h else h.credit t (bp * s.mgmt.weight t / sw : Nat)) h
  let s2 := s1.updHub fun h => ((List.range q.tcount).map (q.tbase + ·)).foldl (fun h t =>
    if t ∈ ts then h else h.updTenant t fun x => { x with deficit := min x.deficit 0 }) h
  let ws := ts.filter fun t => 0 < s.mgmt.weight t
  let ms := ws.map fun t => (s2.hub.tenant t).deficit / (s.mgmt.weight t : Int)
  match ms with
  | [] => s2
  | m :: rest =>
    let lo := rest.foldl min m
    if 0 < lo then s2.updHub fun h => ws.foldl (fun h t => h.credit t (-(s.mgmt.weight t * lo))) h else s2

/-- A partition granted less than its floor: the first condition of R216 fails for its streams. -/
def Hub.noteMissed (h : Hub) (p bp : Nat) : Hub :=
  if bp < h.floor p then (h.openStreams fun x => x.part = p).foldl (fun h n => h.updStream n fun x => { x with missed := true }) h else h

/-- One partition at a boundary: quanta, the three passes, the slack of a slower peer for background streams outside the job (R295
FILL), and ages of the streams left. -/
def State.schedulePart (s : State) (p bp : Nat) : State :=
  let s1 := (s.quanta p bp).updHub fun h => h.noteMissed p bp
  let a := s1.runPass p bp .aged
  let b := a.1.runPass p a.2 .owed
  let c := (b.1.runPass p b.2 .fill).1
  let d := if 0 < c.power.slack ∧ (c.mgmt.obj 0x7200 1 = 0 ∨ c.mgmt.obj 0x7200 2 ≠ p) then
      (let r := c.runPass p c.power.slack .slack
       r.1.updPower fun w => { w with slack := r.2 })
    else c
  d.updHub fun h => (h.readyIn p).foldl (fun h n => h.updStream n fun x => { x with age := min 65535 (x.age + 1) }) h

/-- Changes of PSHARE, PMIN and KXSHARE that take effect at this boundary: each is a commit, so CGEN advances (R224, R229). -/
def Hub.applyShares (h : Hub) : Hub :=
  (List.range 16).foldl (fun h p => match (h.part p).pendShare with
    | some (a, b, c) => h.setPart p { h.part p with pshare := a, pmin := b, kxshare := c, cgen := (h.part p).cgen + 1, pendShare := none }
    | none => h) h

/-- EPOCH_BOUNDARY (R211, R212): shares, the pools' epoch (R220), the budget granted or the last one, then every partition: those without
ready work have no budget and only lose the positive deficits of their tenants. Nothing is dispatched before the runtime is in service, while it is paused or once dispatch has stopped (R383). -/
def execEpochBoundary (s : State) : Out :=
  let s0 := s.updPower fun p => { p with lastIn := p.epochIn, lastCore := p.epochCore, epochIn := 0, epochCore := 0 }
  let s1 := s0.updHub fun h =>
    { h.applyShares with epoch := h.epoch + 1, poolPrev := h.poolAsk, poolAsk := [], budget := h.granted.getD h.budget, granted := none }
  .next (if s1.hub.admitting = false ∨ s1.hub.paused then s1
    else
      let ps := (List.range 16).filter fun p => !(s1.hub.readyIn p).isEmpty
      let b := budgetsOf s1.hub s1.hub.budget ps
      let s2 := if b.2 then s1.journalBare 0xA1 2 0 else s1
      let s3 := ((List.range 16).filter fun p => !(ps.contains p)).foldl (fun s p => s.quanta p 0) s2
      s1.ownWrites (b.1.foldl (fun s p => s.schedulePart p.1 p.2) s3))

/-! ### Step records and completion -/

/-- STEP_RECORD_RECEIVED (R215 step 3, R118): a further token while the invocation has granted fewer than its steps; SPEC of a pass
or drain marks the result (Table 9.7, R97). -/
def execStepRecordReceived (c : CoreId) (s : State) : Out :=
  .next (match s.hub.steps.find? fun r => r.1 = c.val with
    | none => s
    | some r =>
      let spec := bit (hdrN r.2 10 2) 11 || bit (hdrN r.2 12 2) 13
      let s1 := s.updHub fun h => { h with steps := h.steps.eraseP fun x => x.1 = c.val }
      match s1.hub.invs.find? fun v => decide (c.val ∈ v.busy) with
      | none => s1
      | some v =>
        let g := Sparse.get v.granted 0 c.val
        let more := decide (g < v.nsteps)
        let s2 := s1.updHub fun h => { h with invs := h.invs.map fun x =>
          if x.prog = v.prog then { x with spec := x.spec || spec, granted := if more then Sparse.set x.granted 0 c.val (g + 1) else x.granted } else x }
        if more then s2.grantTok c.val 0 1 else s2)

/-- The interval since a stream's last result, in µs: the time is the environment's, so it is free. -/
def State.gapOf (s : State) : Nat := Config.freeNat s.free

/-- MAXGAP and LATE at a result (R217); the first result of a stream has no interval. -/
def State.noteGap (s : State) (n : Nat) : State :=
  let x := s.hub.stream n
  if x.results = 0 then s
  else
    let g := s.gapOf
    let late := (decide (x.cls = 0) && decide (1000 < g)) || (decide (x.cls = 1) && decide (3000 < g))
    let s1 := (s.updHub fun h => h.updStream n fun x => { x with maxgap := max x.maxgap (g % 2 ^ 32) }).bump
    if late then (s1.updHub fun h => h.setLate n).journal 0xA2 x.part 2 n 0 0 0 (s1.lateCause n) else s1

/-- What is due at a stream after its invocation: a close, a hold, else its next queued request (Table 9.10). -/
def State.afterInv (s : State) (n : Nat) : State :=
  let x := s.hub.stream n
  if x.closeDue then (s.updHub fun h => h.updStream n fun x => { x with st := 5, closeDue := false }).dropStream n 8
  else if x.holdDue then s.updHub fun h => h.updStream n fun x => { x with st := 4, holdDue := false }
  else s.nextQueued n

/-- A stream's result (Table 9.10): REMAIN falls; under EACH every result but the last posts with MORE; the last one completes OK,
and a stopped request STREAM_STOPPED. -/
def State.streamResult (s : State) (n code : Nat) (spec : Bool) : State :=
  let s0 := (s.noteGap n).updHub fun h => h.updStream n fun x => { x with remain := x.remain - 1, results := x.results + 1, missed := false, wasHeld := false }
  let x := s0.hub.stream n
  let d := BitVec.ofNat 32 code
  let s1 :=
    if x.stopDue then
      (s0.updHub fun h => h.updStream n fun x => { x with remain := 0, stopDue := false, st := 1 }).endRequest n 8 d spec
    else if x.remain = 0 then (s0.updHub fun h => h.updStream n fun x => { x with st := 1 }).endRequest n 0 d spec
    else
      let s2 := s0.updHub fun h => h.updStream n fun x => { x with st := 2, age := 0 }
      if x.each then
        s2.post { ring := x.sq, tag := x.tag, fin := none, spec := spec,
                  ans := { status := 0, stream := n, retry := 0, detail := d, result := BitVec.ofNat 64 x.results } }
      else s2
  s1.afterInv n

/-- A stream whose invocation faulted: IDLE, KV_LOST, STREAM_FAULT with the fault (Table 9.10). -/
def State.streamFault (s : State) (n code : Nat) (spec : Bool) : State :=
  ((s.updHub fun h => h.updStream n fun x => { x with st := 1, kvLost := true, stopDue := false, remain := 0 }).endRequest n 6 (BitVec.ofNat 32 code) spec).afterInv n

/-- R214: each stream's tenant is credited its share of E and debited its share of the measured energy M; M goes to the stream, its
tenant's total and its account. -/
def Hub.settleEnergy (h : Hub) (v : Invocation) (m : Nat) : Hub :=
  let h1 := (h.chargeAll true v.est v.streams).chargeAll false m v.streams
  (sharesOf m v.streams).foldl (fun h p =>
    let x := h.stream p.1
    let a := 4096 * x.part + x.account
    { (h.updStream p.1 fun x => { x with energy := x.energy + p.2 }).updTenant x.tenant fun t => { t with energy := t.energy + p.2 } with
      accounts := Sparse.set h.accounts 0 a (Sparse.get h.accounts 0 a + p.2) }) h1

/-- M: the energy of the replica's cores since START, from nJ to µJ (the spec states no rounding). -/
def State.measured (s : State) (v : Invocation) : Nat :=
  roundQ ((v.start.map fun (e : Nat × Int) => (s.coreEnergy e.1 : Int) - e.2).sum % 2 ^ 64).toNat 1000

/-- The end of an invocation: energy, then results or the faults of its streams. -/
def State.endInvocation (s : State) (prog : Nat) (v : Invocation) : State :=
  let m := s.measured v
  let s1 := s.updHub fun h => { h.settleEnergy v m with invs := h.invs.filter fun x => decide (x.prog ≠ prog) }
  match v.fault with
  | none => v.streams.foldl (fun s n => s.streamResult n v.code v.spec) s1
  | some f =>
    let s2 := match s1.hub.prog prog with
      | some g => g.lcores.foldl State.stopCore s1
      | none => s1
    let s3 := s2.updHub fun h => { h with barriers := h.barriers.map fun b =>
      if b.prog = prog then { b with arrived := [], left := [] } else b }
    v.streams.foldl (fun s n => s.streamFault n f.toNat v.spec) s3

/-- INVOCATION_COMPLETE (R214, Table 9.10): when every core has reported DONE, or one of them FAULTED; the cores of a faulted
invocation are stopped and its barriers forget who arrived. -/
def execInvocationComplete (prog : Nat) (s : State) : Out :=
  .next (match s.hub.invs.find? fun v => v.prog = prog with
    | none => s
    | some v =>
      if v.busy ≠ [] ∧ v.fault = none then s else s.ownWrites (s.endInvocation prog v))

end Sys2Proof.Machine
end

