-- ==== Sys2Proof/Machine/Frames.lean ====
section
/-! DEFINITION. Dictionary frames: acceptance, sessions, roles, paths, staging and replies (R347 to R365, Tables 15.2 to 15.7). -/

namespace Sys2Proof.Machine

/-! ### Reply status (Table 15.4) -/
def dOk : Nat := 0x00
def dInProgress : Nat := 0x01
def dNoObject : Nat := 0x10
def dNoSub : Nat := 0x11
def dType : Nat := 0x12
def dRange : Nat := 0x13
def dLength : Nat := 0x14
def dOffset : Nat := 0x15
def dAccess : Nat := 0x20
def dRole : Nat := 0x21
def dNotSafe : Nat := 0x22
def dLocked : Nat := 0x23
def dPath : Nat := 0x24
def dAuthFail : Nat := 0x30
def dLockout : Nat := 0x31
def dNoSession : Nat := 0x32
def dDeviceBusy : Nat := 0x40
def dObjectBusy : Nat := 0x41
def dState : Nat := 0x42
def dBadFrame : Nat := 0x50

/-! ### Frames and tags (R348, R356) -/

/-- An Ethernet address, first octet first. -/
def macBytes (a : BitVec 48) : List Byte := (leBytes 6 a.toNat).reverse

/-- HMAC-SHA-256 of a key and a message, as 32 bytes. -/
def hmac (key msg : List Byte) : List Byte := leBytes 32 (Config.hmacWord key msg).toNat
/-- A fresh nonce of 32 bytes (R355). -/
def freshNonce (draw : Nat) : List Byte := leBytes 32 (Config.nonceWord draw).toNat
/-- The 16 bytes of the serial number (OD 1000.03). -/
def serialBytes : List Byte := leBytes 16 Config.serialWord.toNat

/-- The 24 header bytes of Table 15.2. -/
def headerBytes (ver op : Byte) (seq session : BitVec 16) (status flags : Byte) (index : BitVec 16) (sub type : Byte) (offset : W32)
    (len rsvd : BitVec 16) (ctr : W32) : List Byte :=
  [ver, op] ++ leBytes 2 seq.toNat ++ leBytes 2 session.toNat ++ [status, flags] ++ leBytes 2 index.toNat ++ [sub, type] ++
    leBytes 4 offset.toNat ++ leBytes 2 len.toNat ++ leBytes 2 rsvd.toNat ++ leBytes 4 ctr.toNat

def frameHeader (f : Frame) : List Byte :=
  headerBytes f.ver f.op f.seq f.session f.status f.flags f.index f.sub f.type f.offset f.len f.rsvd f.ctr

/-- The frame tag: the first 16 bytes of HMAC over both addresses, header and data (R356). -/
def tagOf (key : List Byte) (dst src : BitVec 48) (header data : List Byte) : List Byte :=
  (hmac key (macBytes dst ++ macBytes src ++ header ++ data)).take 16

/-- Operations of Table 15.3. -/
def opKnown (op : Byte) : Bool := decide (op.toNat ∈ [1, 2, 3, 4, 5, 0x10, 0x11, 0x12])

/-- VER, OP and reserved bits (R348). -/
def frameBad (f : Frame) : Bool := decide (f.ver ≠ 1) || !opKnown f.op || decide (fld f.flags 7 3 ≠ 0) || decide (f.rsvd ≠ 0)

/-- Frames the controller receives (R347, R379): to the Q25's own address, or on the bus to the group. A frame shorter than its LEN
and tag require is discarded, and a reply is no request. -/
def State.receives (s : State) (f : Frame) : Bool :=
  s.mgmt.up && (decide (f.dstAddr = Config.macAddr) || (!f.service && decide (f.dstAddr = s.mgmt.group))) &&
    decide (f.data.length = f.len.toNat) && (!bitOf f.flags 2 || decide (f.tag.length = 16)) && !bitOf f.flags 0

/-- Session slots of a path (R357, R379). -/
def slotsOf (service : Bool) : List Nat := if service then [8, 9] else [0, 1, 2, 3, 4, 5, 6, 7]

/-- The session a frame names, from its own source and path. -/
def Mgmt.sessionOf (m : Mgmt) (f : Frame) : Option (Nat × Session) :=
  List.find? (fun e : Nat × Session => decide (e.1 ∈ slotsOf f.service) && decide (e.2.num = f.session) && decide (e.2.src = f.srcAddr))
    m.sessions

/-- Tag and counter of a session's request. -/
def Session.accepts (x : Session) (f : Frame) : Bool :=
  bitOf f.flags 2 && decide (x.ctrIn.toNat < f.ctr.toNat) && decide (f.tag = tagOf x.key f.dstAddr f.srcAddr (frameHeader f) f.data)

/-- Who makes a request: role, path (0 bus, 1 service port, 2 and 3 the mailboxes) and the slot for snapshots and staging: 0 to 9 a
session, 10 and 11 a mailbox, 12 none. -/
structure Who where
  role : Nat
  path : Nat
  slot : Nat
  deriving DecidableEq, Repr

/-- An answer to a request: status, data, and whether further segments follow. -/
structure Ans where
  status : Nat
  data   : List Byte
  more   : Bool
  deriving DecidableEq, Repr

def Ans.of (status : Nat) : Ans := { status := status, data := [], more := false }

/-- A reply, echoing OP, SEQ, INDEX and SUB; in a session with its counter and tag (R348, R356). -/
def State.replyTo (s : State) (f : Frame) (slot : Nat) (num : BitVec 16) (a : Ans) : State :=
  let ses := Sparse.find? s.mgmt.sessions slot
  let key := (ses.map (·.key)).getD []
  let ctr := match ses with | some x => x.ctrOut + 1 | none => 0
  let flags := BitVec.ofNat 8 (1 + bitAt a.more 1 + bitAt ses.isSome 2)
  let st := BitVec.ofNat 8 a.status
  let ty := match findObj f.index.toNat f.sub.toNat with | some o => BitVec.ofNat 8 o.type | none => f.type
  let hd := headerBytes 1 f.op f.seq num st flags f.index f.sub ty f.offset (BitVec.ofNat 16 a.data.length) 0 ctr
  let t : TxFrame := { dst := f.srcAddr, op := f.op, status := st, seq := f.seq, index := f.index, sub := f.sub, type := ty,
                       offset := f.offset, more := a.more, session := num, ctr := ctr, data := a.data,
                       tag := if ses.isSome then tagOf key f.srcAddr Config.macAddr hd a.data else [] }
  let s1 := match ses with
    | some x => s.updMgmt fun m => { m with sessions := Sparse.insert m.sessions slot { x with ctrOut := ctr } }
    | none => s
  s1.send t

/-- A request processed (R348, R356): discarded, refused, or given to `act`; the session's counter advances when it is accepted. -/
def State.receive (s : State) (f : Frame) (act : State → Who → State × Ans) : State :=
  if s.receives f = false then s
  else if f.session = 0 then
    if frameBad f then s.replyTo f 12 0 (Ans.of dBadFrame)
    else
      let r := act s { role := 0, path := if f.service then 1 else 0, slot := 12 }
      r.1.replyTo f 12 0 r.2
  else match s.mgmt.sessionOf f with
    | none => s.replyTo f 12 f.session (Ans.of dNoSession)
    | some (slot, x) =>
      if x.accepts f = false then s.updMgmt fun m => { m with badTags := m.badTags + 1 }
      else
        let s1 := s.updMgmt fun m => { m with sessions := Sparse.insert m.sessions slot { x with ctrIn := f.ctr } }
        if frameBad f then s1.replyTo f slot f.session (Ans.of dBadFrame)
        else
          let r := act s1 { role := x.role, path := if f.service then 1 else 0, slot := slot }
          r.1.replyTo f slot f.session r.2

/-! ### Objects: ranges, roles, service (R353, R360, R364, R365, Table 15.7) -/

/-- Lowest roles of a range for reading and writing. -/
def readRole (idx : Nat) : Nat := if (0x3000 ≤ idx ∧ idx < 0x5001) ∨ idx = 0xB000 then 1 else 0
def writeRole (idx sub : Nat) : Nat :=
  if idx = 0x1200 ∧ sub = 4 then 3 else if idx = 0x8000 ∨ idx = 0x8010 then 3 else if idx = 0x2300 ∨ idx = 0xB000 then 1 else 2

/-- Objects the island serves itself; the others go to the hub runtime (R360). -/
def islandServes (idx sub : Nat) : Bool :=
  decide (idx ∈ [0x1000, 0x1100, 0x1200, 0x2000, 0x2100, 0x2200, 0x2300, 0x8000, 0x8010, 0xA000, 0xA010, 0xB000]) || isPersisted idx sub

/-- The hub runtime in service and not paused. -/
def State.runtimeUp (s : State) : Bool := s.hub.inService && !s.hub.paused

/-- The safe state (R353). -/
def State.safeState (s : State) : Bool :=
  decide (s.power.st = .standby) || decide (s.power.st = .minOff) || decide (s.power.st = .latched) ||
    (decide (s.power.st = .on) && (List.range 16).all fun p => decide ((s.hub.part p).st = 0))

/-- The partition an object belongs to, for the mailbox's limits (R365). -/
def State.objPart (s : State) (idx : Nat) : Option Nat :=
  if 0x3000 ≤ idx ∧ idx < 0x3010 then some (idx - 0x3000)
  else if 0x3100 ≤ idx ∧ idx < 0x3110 then some (idx - 0x3100)
  else if 0x4000 ≤ idx ∧ idx < 0x4400 then (List.range 16).find? fun p => s.hub.tenantOf p (idx - 0x4000)
  else none

/-- What a mailbox may not reach, as a status; 0 where it may (R365). -/
def State.mailboxBar (s : State) (w : Who) (idx sub : Nat) : Nat :=
  if w.path < 2 then 0
  else if idx = 0x1200 ∨ idx = 0x8000 ∨ idx = 0x8010 ∨ (idx = 0xB000 ∧ sub = 3) then dPath
  else match s.objPart idx with
    | none => 0
    | some p => if p ∈ s.portParts (w.path - 2) then 0 else dNoObject

/-- The checks every request to an object meets, in the model's order; 0 when all pass. -/
def State.judge (s : State) (w : Who) (idx sub : Nat) (write : Bool) : Nat :=
  if 0xF000 ≤ idx then dLocked
  else if s.mailboxBar w idx sub ≠ 0 then s.mailboxBar w idx sub
  else if write ∧ idx = 0xA000 ∧ sub = 2 ∧ w.path ≠ 1 then dPath
  else if objectsOf idx = [] then dNoObject
  else match findObj idx sub with
    | none => dNoSub
    | some o =>
      if write ∧ (o.acc = .ro ∨ o.acc = .const) ∨ (write = false ∧ o.acc = .wo) then dAccess
      else if w.role < (if write then writeRole idx sub else readRole idx) then dRole
      else if write ∧ o.acc = .rws ∧ s.safeState = false then dNotSafe
      else if islandServes idx sub = false ∧ s.runtimeUp = false then dDeviceBusy
      else 0

/-! ### Segmented writes (R350) -/

/-- Staging of a write: refused with a status, staged, or the whole value at hand. -/
inductive Segment where
  | refused (status : Nat)
  | staged
  | whole (v : List Byte)
  deriving DecidableEq, Repr

/-- What a slot has staged of an object; a slot may stage several objects at once. -/
def Mgmt.staged (m : Mgmt) (slot key : Nat) : Option (List Byte) := Sparse.find? (Sparse.get m.staging [] slot) key
def Mgmt.stage (m : Mgmt) (slot key : Nat) (bs : List Byte) : Mgmt :=
  { m with staging := Sparse.set m.staging [] slot (Sparse.insert (Sparse.get m.staging [] slot) key bs) }
def Mgmt.unstage (m : Mgmt) (slot key : Nat) : Mgmt :=
  { m with staging := Sparse.set m.staging [] slot (Sparse.erase (Sparse.get m.staging [] slot) key) }

/-- Whether another slot stages an object. -/
def Mgmt.stagedElsewhere (m : Mgmt) (slot key : Nat) : Bool :=
  m.staging.any fun e => decide (e.1 ≠ slot) && (Sparse.find? e.2 key).isSome

/-- One segment of a value (R350). -/
def State.segment (s : State) (slot key offset : Nat) (more : Bool) (data : List Byte) : State × Segment :=
  if s.mgmt.stagedElsewhere slot key then (s, .refused dObjectBusy)
  else
    let old := (s.mgmt.staged slot key).getD []
    let drop := s.updMgmt fun m => m.unstage slot key
    if offset = 0 ∨ offset = old.length then
      let bs := (if offset = 0 then [] else old) ++ data
      if more then (s.updMgmt fun m => m.stage slot key bs, .staged) else (drop, .whole bs)
    else (drop, .refused dOffset)

/-- Whether a whole value fits an object: LENGTH, then RANGE; 0 when it does (R352). -/
def valueBad (o : Obj) (v : List Byte) : Nat :=
  if o.size = 0 then (if (if o.type = 8 then 255 else 1048576) < v.length then dLength else 0)
  else if v.length ≠ o.size then dLength
  else if leNat v < o.lo ∨ o.hi < leNat v then dRange else 0

/-- A write of an object by a frame or a mailbox command: checks, segments, then `act` on the whole value. -/
def State.writeValue (s : State) (w : Who) (idx sub type offset : Nat) (more : Bool) (data : List Byte)
    (act : State → List Byte → State × Nat) : State × Ans :=
  let j := s.judge w idx sub true
  if j ≠ 0 then (s, Ans.of j)
  else match findObj idx sub with
    | none => (s, Ans.of dNoSub)
    | some o =>
      if type ≠ o.type then (s, Ans.of dType)
      else match s.segment w.slot (objKey idx sub) offset more data with
        | (s1, .refused st) => (s1, Ans.of st)
        | (s1, .staged) => (s1, Ans.of dOk)
        | (s1, .whole v) =>
          if valueBad o v ≠ 0 then (s1, Ans.of (valueBad o v))
          else
            let r := act s1 v
            (r.1, Ans.of r.2)

/-- A frame that is a WRITE of an object, its value in one segment satisfying a condition: the form of the commands that have a row
of their own. Any other frame is not that command, and nothing happens. -/
def State.onWrite (s : State) (f : Frame) (idx : Nat → Bool) (sub : Nat) (is : List Byte → Bool)
    (act : State → Who → Nat → List Byte → State × Nat) : State :=
  if f.op = 2 ∧ idx f.index.toNat ∧ f.sub.toNat = sub ∧ is f.data then
    s.receive f fun s w => s.writeValue w f.index.toNat sub f.type.toNat f.offset.toNat (bitOf f.flags 1) f.data fun s v => act s w f.index.toNat v
  else s

/-- A one-byte value. -/
def isByte (n : Nat) (v : List Byte) : Bool := decide (v = [BitVec.ofNat 8 n])

/-! ### Ends of sessions (R349, R350, R357, R366) -/

def State.endSession (s : State) (slot : Nat) : State :=
  let s1 := if s.maint.download.any fun d => d.2 = slot then s.dropDownload else s
  let s2 := s1.updMgmt fun m =>
    { m with sessions := Sparse.erase m.sessions slot, snaps := Sparse.erase m.snaps slot, staging := Sparse.erase m.staging slot }
  s2.updHub fun h => { h with staged := h.staged.filter fun e => decide (e.2.session ≠ slot) }

end Sys2Proof.Machine
end

