-- ==== Sys2Proof/Machine/Arbiter.lean ====
section
/-! DEFINITION. The maintenance arbiter: the compatibility matrix and MAINT_BUSY (R376, R377, Table 16.2). -/

namespace Sys2Proof.Machine

/-- An operation that names nothing. -/
def MaintOp.of (k : MaintKind) : MaintOp :=
  { kind := k, die := none, cores := [], part := none, chan := none, comp := none, units := [], mode := 0, unitKind := 0,
    localising := false }

/-- Whether an arriving operation conflicts with a running one (Table 16.2). Component 2 is the hub runtime, 4 the power dies. -/
def opConflicts (a r : MaintOp) : Bool :=
  let sameDie := decide (a.die = r.die) && a.die.isSome
  let sameCore := a.cores.any fun c => decide (c ∈ r.cores)
  match a.kind, r.kind with
  | .march, .march => sameDie
  | .march, .activation => true
  | .march, .rebinding => sameCore
  | .march, .phaseCal => sameDie
  | .activation, .march => true
  | .activation, .activation => true
  | .activation, .rebinding => true
  | .activation, .lpddr => decide (a.comp = some 2)
  | .activation, .phaseCal => decide (a.comp = some 4)
  | .rebinding, .march => sameCore
  | .rebinding, .activation => true
  | .rebinding, .rebinding => decide (a.part = r.part)
  | .lpddr, .activation => decide (r.comp = some 2)
  | .lpddr, .lpddr => decide (a.chan = r.chan)
  | .phaseCal, .march => sameDie
  | .phaseCal, .activation => decide (r.comp = some 4)
  | .phaseCal, .phaseCal => true
  | _, _ => false

/-- The running operation that refuses an arriving one. -/
def Maint.blocker (m : Maint) (a : MaintOp) : Option MaintOp := m.ops.find? fun r => opConflicts a r

def kindNum : MaintKind → Nat
  | .march => 0 | .scrub => 1 | .activation => 2 | .rebinding => 3 | .lpddr => 4 | .phaseCal => 5 | .kraoxLane => 6

/-- OD 9000.05 names the refused and the running operation. -/
def State.noteBusy (s : State) (a r : MaintKind) : State := s.updMaint fun m => { m with lastBusy := some (a, r) }

/-- A request that the Q25 itself raised and that MAINT_BUSY refuses: counted and journalled. -/
def State.maintRefused (s : State) (a r : MaintKind) : State :=
  ((s.noteBusy a r).updMaint fun m => { m with refused := m.refused + 1 }).journalDev 0xA4 2 0 (BitVec.ofNat 64 (kindNum a + 256 * kindNum r))

/-- The macros a march test names, marked under test or free of it (R372). -/
def State.markTest (s : State) (o : MaintOp) (on : Bool) : State :=
  if o.kind = .march ∧ o.unitKind = 1 then
    o.cores.foldl (fun s c => o.units.foldl (fun s m => s.updMac c m fun k => { k with underTest := on }) s) s
  else s

/-- An operation admitted by the arbiter. -/
def State.beginOp (s : State) (o : MaintOp) : State := (s.updMaint fun m => { m with ops := m.ops ++ [o] }).markTest o true

/-- A request that the Q25 raises itself: refused, it is raised again when the conflicting operation ends (R376). -/
def State.raiseOp (s : State) (o : MaintOp) : State :=
  match s.maint.blocker o with
  | some r => (s.maintRefused o.kind r.kind).updMaint fun m => { m with again := m.again ++ [o] }
  | none => s.beginOp o

/-- Operations that end; what they held up is raised again. -/
def State.endOps (s : State) (p : MaintOp → Bool) : State :=
  let s1 := (s.maint.ops.filter p).foldl (fun s o => s.markTest o false) s
  let s2 := s1.updMaint fun m => { m with ops := m.ops.filter fun o => !p o }
  s2.maint.again.foldl (fun s o => match s.maint.blocker o with
    | some _ => s
    | none => (s.updMaint fun m => { m with again := m.again.erase o }).beginOp o) s2

end Sys2Proof.Machine
end

