-- ==== Sys2Proof/Machine/Rebind.lean ====
section
/-! DEFINITION. Rebinding and the recovery of a lost die's programs (R231 to R234, R240, Tables 10.3 and 10.5). -/

namespace Sys2Proof.Machine

/-! ### Targets (R231) -/

/-- A binding of a program over usable cores, of which the logical cores `ls` leave theirs under NOADJ (R231). -/
def bindingOver (g : Program) (ls usable : List Nat) : Option (List Nat) :=
  if imgNoadj g.img then
    let free := usable.filter fun c => decide (c ∉ g.lcores)
    if free.length < ls.length then none
    else some ((List.range g.lcores.length).map fun l => if l ∈ ls then free.getD (ls.idxOf l) 0 else g.lcores.getD l 0)
  else bindCores g.img usable

/-- New binding of a program whose logical cores `ls` must leave their cores: the whole rectangle under R187, or under NOADJ those
cores alone, to the lowest-numbered free ones. Every logical core is named with no core to leave on an OWNER's request. -/
def State.newBinding (s : State) (g : Program) (ls : List Nat) (extra : List Nat) : Option (List Nat) :=
  let leave := ls.map fun l => g.lcores.getD l 0
  s.overOneRuntime (bindingOver g ls) (((s.freeCores g.part (some g.handle)) ++ extra).filter fun c => decide (c ∉ leave))

/-! ### Moving a core's state (Table 10.3, R233) -/

/-- Window bytes that stay with the physical core: SPERR and the spare-bank maps; the tiles too unless held mid-invocation. -/
def staysPut (held : Bool) (a : Nat) : Bool :=
  (decide (0x040B0010 ≤ a) && decide (a < 0x040B0018)) || (decide (0x040B0300 ≤ a) && decide (a < 0x040B0310)) ||
    (!held && decide (a < 0x04022044))

/-- A window space that takes another's bytes but for those that stay. -/
def moveWin (held : Bool) (src dst : Memory) : Memory :=
  let keep := dst.filter fun e => staysPut held e.1
  (src.filter fun e => !staysPut held e.1).foldl (fun m e => Sparse.insert m e.1 e.2) keep

/-- The target core after the copy. Regions with EN = 1 carry their bytes and failing lanes. -/
def moveCore (held : Bool) (src dst : CoreState) : CoreState :=
  let regs := (List.range 48).filter fun r => bitOf (src.spown r) 31
  let k : CoreState := { dst with
    sp := regs.foldl (fun m r => Sparse.copyRange src.sp m (r * 0x100000) 0x100000) dst.sp,
    badLanes := regs.foldl (fun m r => Sparse.copyRange src.badLanes m (r * 0x20000) 0x20000) dst.badLanes,
    lastOwner := regs.foldl (fun m r => Sparse.insert m r src.part) dst.lastOwner,
    ib0 := src.ib0, ib1 := src.ib1, bank := src.bank, win := moveWin held src.win dst.win, flags := src.flags, ac := src.ac,
    acexp := src.acexp, rtok := src.rtok, x := src.x, rmDone := src.rmDone, ahHeld := src.ahHeld, owner := src.owner,
    queue := [], sigs := [] }
  if held then
    { k with ta := src.ta, tb := src.tb, snap := src.snap, outLedger := src.outLedger, consLedger := src.consLedger,
             noReplay := src.noReplay, barsDone := src.barsDone, barsLeft := src.barsLeft, replayPc := src.replayPc,
             replays := src.replays, replayDue := src.replayDue, replaying := src.replaying, pc := src.pc, stepno := src.stepno,
             stepOr := src.stepOr, st := src.st, pass := none, nextPass := none, xlat := none, drain := none, exits := none }
  else { k with st := .idle, exits := none }

/-- One ARMED macro's configuration and rows copied onto a target macro, which is then armed; a row that fails R23 is taken from the
weight shadow. The shadow follows the macro. -/
def State.moveMacro (s0 s : State) (c m c2 m2 : Nat) : State :=
  let src := s0.mac c m
  let s1 := s.updMac c2 m2 fun k =>
    let k1 := k.writeState .rebind s.free .loading
    { k1 with wfmt := src.wfmt, sparse := src.sparse, mgsel := src.mgsel, mcoef := src.mcoef }
  let s2 := (List.range 2064).foldl (fun s r =>
    let d := if src.failing r = [] then (src.row r).data else (s0.shadowRow c m r).getD (src.row r).data
    (s.updMac c2 m2 fun k => k.store .rebind r 0xFFFF d 0).putShadow c2 m2 r ((s0.shadowRow c m r).getD d)) s1.bump
  s2.updMac c2 m2 fun k => k.writeState .rebind s.free .armed

/-- The shadow's rows of a lost or vacated macro loaded onto a target macro, which is then armed (R240 step 3). -/
def State.reloadMacro (s0 s : State) (w : MacroImage) (c m c2 m2 : Nat) : State :=
  let s1 := s.updMac c2 m2 fun k =>
    let k0 := k.writeState .rebind s.free .loading
    let k1 := { k0 with wfmt := (BitVec.ofNat 2 (fld w.byte1 1 0)), sparse := (bitOf w.byte1 2), mgsel := w.mgsel }
    { k1 with mcoef := (List.range 16).foldl (fun t i => if bitOf w.mask i then Sparse.set t 0 i (w.mcoef.getD i 0) else t) [] }
  let s2 := (List.range 2064).foldl (fun s r =>
    let d := (s0.shadowRow c m r).getD 0
    (s.updMac c2 m2 fun k => k.store .rebind r 0xFFFF d 0).putShadow c2 m2 r d) s1.bump
  s2.updMac c2 m2 fun k => k.writeState .rebind s.free .armed

/-! ### Handles, windows, vacated cores -/

def mapCore (moves : List (Nat × Nat)) (c : Nat) : Nat := ((moves.find? fun m => m.1 = c).map (·.2)).getD c

/-- Handles of a core whose CORE names a moved core: the new core, GEN advanced (R232 step 6); then HINV ALL. -/
def CoreState.remapHandles (k : CoreState) (moves : List (Nat × Nat)) : CoreState :=
  let k1 := (List.range 256).foldl (fun k h =>
    let e := k.ht h
    if htValid e ∧ mapCore moves (htCore e) ≠ htCore e then
      let n := htPack true (htGen e + 1) (htRd e) (htWr e) (mapCore moves (htCore e)) (htSize e) (htBase e)
      { k with win := Win.putN k.win (0x040A0000 + 16 * h) 16 n.toNat }
    else k) k
  (k1.writeHinv 0x40000000).hinvDone

/-- A core's windows closed. -/
def CoreState.clearWindows (k : CoreState) : CoreState :=
  [1, 2, 3, 4].foldl (fun k d => { k with win := Win.putN k.win (0x040B0100 + 16 * d) 16 0 }) k

/-- A core's handle table invalidated (R229, R232 step 8). -/
def CoreState.clearHandles (k : CoreState) : CoreState :=
  { k with win := Sparse.clearRange k.win 0x040A0000 0x1000 }.dropHandles none

/-- Every macro of a core OFFLINE, RETIRED ones apart. -/
def State.offlineCore (s : State) (c : Nat) : State :=
  (List.range 72).foldl (fun s m =>
    if (s.mac c m).st = .retired then s else (s.updMac c m fun k => k.writeState .rebind s.free .offline).bump) s

/-- A vacated core: macros OFFLINE, handle table and windows gone, IDLE. -/
def State.vacate (s : State) (c : Nat) : State :=
  (s.offlineCore c).updCore c fun k => { k.clearHandles.clearWindows with st := .idle, queue := [], sigs := [] }

/-- Cores that a program leaves, from the moves. -/
def vacated (moves : List (Nat × Nat)) : List Nat :=
  (moves.filter fun m => decide (m.1 ≠ m.2) && !(moves.any fun n => n.2 = m.1)).map (·.1)

def Barrier.remap (b : Barrier) (moves : List (Nat × Nat)) : Barrier :=
  { b with members := b.members.map (mapCore moves), arrived := b.arrived.map (mapCore moves), left := b.left.map (mapCore moves) }

/-- An invocation that moves: its cores' energy goes on counting where they are. -/
def Invocation.remap (v : Invocation) (moves : List (Nat × Nat)) (en : Nat → Nat) : Invocation :=
  { v with start := v.start.map (fun e => (mapCore moves e.1, e.2 + en (mapCore moves e.1) - en e.1)), busy := v.busy.map (mapCore moves), granted := v.granted.foldl (fun m e => Sparse.insert m (mapCore moves e.1) e.2) [] }

/-! ### Start, hold, completion (R232) -/

def Hub.rebindOf (h : Hub) (prog : Nat) : Option Rebind := h.rebinds.find? fun r => r.prog = prog

/-- What a core hands on when it passes to another partition: where its macros and spare banks are mapped, SPERR, and the contents of the
banks out of reach; everything a program left is gone (R229, R230). -/
def CoreState.handedOn (k : CoreState) : CoreState :=
  { CoreState.reset with
    win := k.win.filter fun e => (decide (0x040C0000 ≤ e.1) && decide (e.1 < 0x040C0040)) || (decide (0x040B0300 ≤ e.1) && decide (e.1 < 0x040B0310)) ||
      (decide (0x040B0010 ≤ e.1) && decide (e.1 < 0x040B0018)),
    bankErrs := k.bankErrs, spareCopy := k.spareCopy, patrolAt := k.patrolAt }

def rebindOp (g : Program) (b : List Nat) : MaintOp := { MaintOp.of .rebinding with cores := g.lcores ++ b, part := some g.part }

/-- A rebinding entered: the partition lock exclusive, dispatch of the program stopped (R232 step 1). -/
def State.enterRebind (s : State) (g : Program) (b : List Nat) (recover result : Bool) : State :=
  ((s.beginOp (rebindOp g b)).updHub fun h =>
    { (h.updProg g.handle fun x => { x with st := .rebinding }) with
      rebinds := h.rebinds ++ [{ prog := g.handle, part := g.part, moves := g.lcores.zip b, holding := false, recover := recover, result := result }] })

/-- RESULT of a partition and its EVENT (R363, R366). -/
def State.partResult (s : State) (p v : Nat) : State :=
  (s.updHub fun h => h.setPart p { h.part p with result := v }).event (BitVec.ofNat 8 v) (0x3000 + p) 8 0

/-- Streams bound to a program released. -/
def State.releaseProg (s : State) (prog : Nat) : State :=
  (s.hub.openStreams fun x => x.prog = prog).foldl State.releaseStream s

/-- A program that no target holds: its streams are held and REBIND_NOROOM journalled (R236, R240). -/
def State.parkProgram (s : State) (g : Program) : State :=
  ((s.updHub fun h => h.updProg g.handle fun x => { x with st := .held }).holdProg g.handle).journalDev 0xB1 2 g.handle (BitVec.ofNat 64 g.part)

/-- A rebinding that the hub starts, of logical cores of a program that is ready or held. The arbiter may refuse it (R376). With no target
it fails with REBIND_NOROOM and the program stays (R231); where a core to leave is out of every resource set, the program's streams are held
as well (R236). -/
def State.startRebind (s : State) (g : Program) (ls : List Nat) : State :=
  if (g.st ≠ .ready ∧ g.st ≠ .held) ∨ g.lcores = [] then s
  else match s.newBinding g ls [] with
    | none =>
      if ls.any fun l => decide (g.lcores.getD l 0 ∈ s.maint.excluded) then s.parkProgram g
      else s.journalDev 0xB1 2 g.handle (BitVec.ofNat 64 g.part)
    | some b =>
      match s.maint.blocker (rebindOp g b) with
      | some r => s.maintRefused .rebinding r.kind
      | none => s.enterRebind g b (decide (g.st = .held)) false

/-- REBIND_START (R230 to R232, R236): the hub moves logical cores of a program, or takes up again a program that is held. -/
def execRebindStart (prog : Nat) (lcores : List Nat) (s : State) : Out :=
  .next (match s.hub.prog prog with
    | none => s
    | some g => s.startRebind g lcores)

/-- A core that needs a spare it has not got (R236): journalled, out of every resource set, and its logical core rebound away from it. -/
def State.exhaustCore (s : State) (c detail : Nat) : State :=
  let s1 := s.exhausted c detail
  match s1.hub.programs.find? fun g => decide (c ∈ g.lcores) with
  | some g => s1.startRebind g [g.lcores.idxOf c]
  | none => s1

/-- PARTITION_REBIND on partition p: its first installed program, all logical cores, no core to leave (R230). -/
def State.actRebind (s : State) (p : Nat) : State × Nat :=
  match s.hub.programs.find? fun g => decide (g.part = p) && decide (g.st = .ready) with
  | none => (s, dState)
  | some g => match s.newBinding g [] [] with
    | none => ((s.partResult p 0xB1).journalDev 0xB1 2 g.handle (BitVec.ofNat 64 p), dInProgress)
    | some b => match s.maint.blocker (rebindOp g b) with
      | some r => ((s.noteBusy .rebinding r.kind).partResult p dState, dInProgress)
      | none => (s.enterRebind g b false true, dInProgress)

/-- A program of the partition whose state an OWNER may not rebind: indices 3000 to 300F. -/
def isPartIdx (i : Nat) : Bool := decide (0x3000 ≤ i) && decide (i < 0x3010)

def execPartitionRebind (f : Frame) (s : State) : Out :=
  .next (s.onWrite f isPartIdx 2 (isByte 4) fun s _ i _ => s.actRebind (i - 0x3000))

/-- Whether a rebinding has the partition lock: it waits for an install or replacement that runs in the partition (R219, R232 step 1). -/
def Hub.rebindLocked (h : Hub) (p : Nat) : Bool :=
  !(h.programs.any fun g => decide (g.part = p) && decide (g.st = .installing ∨ g.st = .codeReplacing ∨ g.st = .fullReplacing))

/-- REBIND_HOLD_TIMEOUT (R232 step 2). -/
def execRebindHoldTimeout (prog : Nat) (s : State) : Out :=
  .next (match s.hub.rebindOf prog, s.hub.prog prog with
    | some r, some g =>
      if s.hub.runs prog ∧ r.recover = false ∧ s.hub.rebindLocked r.part then
        (g.lcores.foldl (fun s c => s.updCore c CoreState.hold) s).updHub fun h =>
          { h with rebinds := h.rebinds.map fun x => if x.prog = prog then { x with holding := true } else x }
      else s
    | _, _ => s)

/-- Whether the copy may be made: the lock held; no invocation, or every core HELD (or out of RUN) with nothing in flight; no repair on a
source macro; no merge job under way that names a moved core (R232, R234). -/
def State.copyReady (s : State) (r : Rebind) (g : Program) : Bool :=
  s.hub.rebindLocked r.part &&
    (!s.hub.runs g.handle || (r.holding && g.lcores.all fun c => decide ((s.core c).st ≠ .run) && decide ((s.core c).st ≠ .replay))) &&
    (g.lcores.all fun c => (s.core c).queue.isEmpty && (s.core c).sigs.isEmpty) &&
    (g.lcores.all fun c => (List.range 72).all fun m => !(s.mac c m).repairBusy) &&
    !(s.hub.jobs.any fun j => decide (j.part = r.part) && !j.coll && !j.waits && s.hub.mergeWaits j.part j.off)

/-- The macros of one moved logical core: each ARMED macro of the source under its own number on the target; from the shadow when the source
is lost, or for a macro that is to be swapped (R234). -/
def State.moveMacros (s0 s : State) (g : Program) (l : Nat) (c c2 : Nat) (reload : Bool) : State :=
  (g.img.weights.filter fun w => w.lcore = l).foldl (fun s w =>
    let m := s0.macOf c w.lmac.toNat
    let m2 := s.macOf c2 w.lmac.toNat
    if reload ∨ macKey c m ∈ s0.hub.swapDue then State.reloadMacro s0 s w c m c2 m2
    else if (s0.mac c m).st = .armed then State.moveMacro s0 s c m c2 m2 else s) s

/-- Steps 3 to 6 and 8 of R232 over a new binding; cores of a lost die are reinstalled from the retained sections (R240 step 3). -/
def State.applyMoves (s0 : State) (g : Program) (moves : List (Nat × Nat)) (held : Bool) : State :=
  let lost := fun c : Nat => (s0.die (coreDie c)).gone
  let real := moves.filter fun m => m.1 ≠ m.2
  let b := moves.map (·.2)
  let s1 := real.foldl (fun s m => (s.offlineCore m.1).offlineCore m.2) s0
  let s2 := real.foldl (fun s m => if lost m.1 then s else s.setCore m.2 (moveCore held (s0.core m.1) (s.core m.2))) s1
  let s3 := (List.range moves.length).foldl (fun s l =>
    match moves[l]? with
    | some m =>
      if m.1 = m.2 then s
      else if lost m.1 then
        ((s.updCore m.2 fun k => { k with owner := some g.part }).loadCore g.img b g.part l).loadRest g.img b l
      else s.bindMacros m.2
    | none => s) s2
  let s4 := (List.range moves.length).foldl (fun s l =>
    match moves[l]? with
    | some m => if m.1 = m.2 then s else State.moveMacros s0 s g l m.1 m.2 (lost m.1)
    | none => s) s3
  let s5 := b.foldl (fun s c => s.updCore c fun k => (k.remapHandles real).clearWindows) s4
  let s6 := s5.loadWindows g.img b g.part
  let s7 := (vacated moves).foldl State.vacate s6
  s7.updHub fun h => { h.rewriteMerges g.part real with
    barriers := h.barriers.map fun x => if x.prog = g.handle then x.remap real else x,
    invs := h.invs.map fun v => if v.prog = g.handle then v.remap real s0.coreEnergy else v }

/-- The swaps due on cores that have moved are made by the move (R234): their reports are done with, and the replay does not count. -/
def State.movedSwaps (s : State) (moves : List (Nat × Nat)) : State :=
  let mine := fun (m : Nat × Nat) (key : Nat) => decide (key / 72 = m.1)
  let real := moves.filter fun m => decide (m.1 ≠ m.2)
  let s1 := real.foldl (fun s m =>
    if s.hub.swapDue.any (mine m) then s.updCore m.2 fun k => { k with replays := k.replays - 1 } else s) s
  s1.updHub fun h => { h with
    swapDue := h.swapDue.filter fun k => !(real.any fun m => mine m k), swapHeld := h.swapHeld.filter fun k => !(real.any fun m => mine m k),
    checks := h.checks.filter fun e => !(real.any fun m => mine m e.1) }

/-- The operation of one rebinding, for which the arbiter keeps the cores it leaves. -/
def rebindOpOf (g : Program) (o : MaintOp) : Bool :=
  decide (o.kind = .rebinding) && decide (o.part = some g.part) && g.lcores.isPrefixOf o.cores

/-- REBIND_COPY_DONE (R232 steps 3 to 8, R240 steps 3 and 4). A reload whose shadow copies are both incomplete fails, and the
program is held (R345). -/
def execRebindCopyDone (prog : Nat) (s : State) : Out :=
  .next (match s.hub.rebindOf prog, s.hub.prog prog with
    | some r, some g =>
      if s.copyReady r g = false then s
      else
        let s0 := (s.endOps (rebindOpOf g)).updHub fun h =>
          { h with rebinds := h.rebinds.filter fun x => decide (x.prog ≠ prog) }
        if (r.moves.any fun m => (s.die (coreDie m.1)).gone) ∧ r.part ∈ s.ext.copyAOff ∧ r.part ∈ s.ext.copyBOff then
          ((s0.updHub fun h => h.updProg prog fun x => { x with st := .held }).holdProg prog).journalDev 0xAF 2 prog (BitVec.ofNat 64 r.part)
        else
          let held := r.holding && s.hub.runs prog
          let s1 := (s0.applyMoves g r.moves held).movedSwaps r.moves
          let s2 := s1.updHub fun h => h.updProg prog fun x => { x with st := .ready, lcores := r.moves.map (·.2) }
          let s3 := (if held then (r.moves.map (·.2)).foldl State.releaseCore s2 else s2).startWaiting r.part
          let s4 := if r.recover then s3.releaseProg prog else s3
          let s5 := s4.journalDev 0xAE 2 prog (BitVec.ofNat 64 r.part)
          if r.result then s5.partResult r.part 1 else s5
    | _, _ => s)

/-! ### A lost die's programs (R240, R241) -/

/-- Cores of a lender that run no program. -/
def State.lendable (s : State) (l : Nat) : List Nat := s.freeCores l none

/-- Cores passed from the lender to the borrower without a CHANGING state. -/
def State.passCores (s : State) (from_ to_ : Nat) (cs : List Nat) : State :=
  let mask := (cs.map fun c => bitAt true c).sum
  let s1 := s.updHub fun h =>
    let a := h.part from_
    let h1 := h.setPart from_ { a with cores := a.cores &&& ~~~BitVec.ofNat 80 mask }
    h1.setPart to_ { h1.part to_ with cores := (h1.part to_).cores ||| BitVec.ofNat 80 mask }
  cs.foldl (fun s c => (s.vacate c).updCore c fun k => { k.handedOn with owner := some to_ }) s1

/-- BORROW (R240): the lender's unbound cores first, then those of its program installed last, which is uninstalled. Where no
binding results, nothing is taken. -/
def State.borrow (s : State) (g : Program) (ls : List Nat) : State × Option (List Nat) :=
  let p := s.hub.part g.part
  let l := p.lendp
  if p.dlpol ≠ 1 ∨ s.hub.right l 3 = false ∨ l = g.part then (s, none)
  else
    let take := fun (s : State) (b : List Nat) =>
      (s.passCores l g.part (b.filter fun c => bitOf (s.hub.part l).cores c), some b)
    match s.newBinding g ls (s.lendable l) with
    | some b => take s b
    | none =>
      let gs := s.hub.programs.filter fun x => x.part = l
      match gs.find? fun x => gs.all fun y => y.order ≤ x.order with
      | none => (s, none)
      | some last =>
        let s1 := s.removeProgram last
        match s1.newBinding g ls (s1.lendable l) with
        | some b => take s1 b
        | none => (s, none)

/-- R240 steps 1 and 2 for one program: its invocation ends with STREAM_FAULT and DIE_LOST, every bound stream gets KV_LOST, its
surviving cores stop, and a recovery starts on targets, or the program is held. -/
def State.recover (s : State) (g : Program) : State :=
  let ns := s.hub.openStreams fun x => x.prog = g.handle
  let s1 := s.updHub fun h =>
    { h with invs := (h.invs.filter fun v => decide (v.prog ≠ g.handle)),
             barriers := (h.barriers.map fun b => if b.prog = g.handle then { b with arrived := [], left := [] } else b),
             rebinds := (h.rebinds.filter fun r => decide (r.prog ≠ g.handle)) }
  let s2 := ns.foldl (fun s n =>
    let s1 := s.updHub fun h => h.updStream n fun x => { x with kvLost := true, st := if x.st = 4 then 4 else 1, remain := 0, stopDue := false }
    ((if (s.hub.stream n).outstanding then s1.endRequest n 6 0xB0 false else s1).endQueued n 6).afterInv n) s1
  let s3 := (g.lcores.filter fun c => !(s2.die (coreDie c)).gone).foldl State.stopCore s2
  let s4 := s3.endOps (rebindOpOf g)
  let ls := (List.range g.lcores.length).filter fun l => (s4.die (coreDie (g.lcores.getD l 0))).gone
  match s4.newBinding g ls [] with
  | some b => s4.enterRebind g b true false
  | none => match s4.borrow g ls with
    | (s5, some b) => s5.enterRebind g b true false
    | (s5, none) => s5.parkProgram g

/-- A rebinding whose target die is lost, its sources alive: a new target under R231 (Table 10.5). -/
def State.retarget (s : State) (r : Rebind) : Option State :=
  match s.hub.prog r.prog with
  | none => none
  | some g =>
    let ls := (List.range r.moves.length).filter fun l => match r.moves[l]? with
      | some m => decide (m.1 ≠ m.2)
      | none => false
    (s.newBinding g ls []).map fun b => s.updHub fun h =>
      { h with rebinds := h.rebinds.map fun x => if x.prog = r.prog then { x with moves := g.lcores.zip b } else x }

/-- A change of a partition whose rebinding failed is refused: the partition is ACTIVE as it was, and RESULT says why (R229). -/
def State.cancelChange (s : State) (p why : Nat) : State :=
  match Sparse.find? s.hub.changes p with
  | some ch =>
    if ch.deleting then s
    else (s.updHub fun h => { h.setPart p { h.part p with st := 1 } with changes := Sparse.erase h.changes p }).partResult p why
  | none => s

/-- One rebinding abandoned and reported with REBIND_FAIL; its cores go on, and a change that needed it is refused. -/
def State.dropRebind (s : State) (r : Rebind) : State :=
  let s1 := s.updHub fun h =>
    let h1 := h.updProg r.prog fun x => { x with st := if r.recover then .held else .ready }
    { h1 with rebinds := h1.rebinds.filter fun x => decide (x.prog ≠ r.prog) }
  let s2 := match s.hub.prog r.prog with
    | some g => (if r.holding then g.lcores.foldl State.releaseCore s1 else s1).endOps (rebindOpOf g)
    | none => s1
  let s3 := (s2.journalDev 0xAF 2 r.prog (BitVec.ofNat 64 r.part)).startWaiting r.part
  (if r.result then s3.partResult r.part 0xAF else s3).cancelChange r.part 0xAF

/-- An install or a replacement abandoned and reported with REBIND_FAIL; its resources return. -/
def State.dropInstall (s : State) (g : Program) : State :=
  let d := LErr.detail { status := 0x0110, sec := 0, lcore := 255, item := 0 }
  let s1 := match g.st with
    | .installing =>
      ((s.unloadImage g.img g.lcores g.handle).updHub fun h =>
        { h with programs := h.programs.filter fun x => decide (x.handle ≠ g.handle) }).finishProg g { Answer.of 0x0110 with detail := d }
    | .codeReplacing =>
      (s.updHub fun h => h.updProg g.handle fun x => { x with st := .ready, newImg := none }).finishProg g { Answer.of 0x0110 with detail := d }
    | _ =>
      ((s.updHub fun h => h.updProg g.handle fun x => { x with st := .ready, newImg := none }).releaseProg g.handle).finishProg g
        { Answer.of 0x0110 with detail := d }
  s1.journalDev 0xAF 2 g.handle (BitVec.ofNat 64 g.part)

/-- R241 and Table 10.5: the rebindings, installs and replacements under way in a partition that the loss of a die touches are abandoned.
A rebinding that only loses targets on the die goes on with new ones; a recovery goes on with its own. -/
def State.abandon (s : State) (d : Nat) (ps : List Nat) : State :=
  let on := fun c : Nat => decide (coreDie c = d)
  let s1 := (s.hub.rebinds.filter fun r => decide (r.part ∈ ps) || r.moves.any fun m => on m.1 || on m.2).foldl (fun s r =>
    if r.moves.any fun m => on m.2 then
      (if (r.moves.any fun m => on m.1) && !r.recover then s.dropRebind r
       else match s.retarget r with
        | some s2 => s2
        | none => s.dropRebind r)
    else if r.recover then s else s.dropRebind r) s
  (s1.hub.programs.filter fun g => decide (g.st = .installing ∨ g.st = .codeReplacing ∨ g.st = .fullReplacing) &&
    (decide (g.part ∈ ps) || g.lcores.any on)).foldl State.dropInstall s1

end Sys2Proof.Machine
end

