-- ==== Sys2Proof/Machine/Partitions.lean ====
section
/-! DEFINITION. Changing a partition: create, delete, COMMIT, DISCARD and the commit itself (R223 to R229, R366, Tables 10.1, 10.2 and
15.9). -/

namespace Sys2Proof.Machine

/-- Staged fields of a partition, where any. -/
def Hub.stagedOf (h : Hub) (p : Nat) : Option StagedPart := Sparse.find? h.staged p

/-- Whether another session owns the staging of a partition (R366). -/
def Hub.stagedByOther (h : Hub) (p slot : Nat) : Bool := (h.stagedOf p).any fun x => x.session ≠ slot

/-- A field of an entry set by its object: index 0x3000 or 0x3100 with its subindex (Table 15.9); reserved bits have no effect, and DLPOL 3
keeps the field (R9). -/
def Partition.setField (x : Partition) (hi : Bool) (sub v : Nat) : Partition :=
  match hi, sub with
  | false, 3 => { x with rights := BitVec.ofNat 8 (v % 16) }
  | false, 4 => { x with dlpol := if v % 4 = 3 then x.dlpol else v % 4 }
  | false, 5 => { x with lendp := v % 16 }
  | false, 6 => { x with tbase := v }
  | false, 7 => { x with tcount := v }
  | true, 1 => { x with cores := BitVec.ofNat 80 v }
  | true, 2 => { x with cbanks := BitVec.ofNat 64 v }
  | true, 3 => { x with lpbase := v }
  | true, 4 => { x with lpsize := v }
  | true, 5 => { x with squota := v }
  | true, 6 => { x with pshare := v }
  | true, 7 => { x with pmin := v }
  | true, 8 => { x with kxshare := v }
  | true, 9 => { x with resv := v }
  | _, _ => x

/-- The entry a change would commit: the present one with the staged fields. -/
def targetEntry (x : Partition) (fs : Sparse Nat) : Partition :=
  fs.foldl (fun x e => x.setField (decide (0x3100 ≤ e.1 / 256)) (e.1 % 256) e.2) x

/-- A field staged by a session (R366). -/
def State.stageField (s : State) (w : Who) (idx sub : Nat) (v : List Byte) : State × Nat :=
  let p := idx % 16
  if s.hub.stagedByOther p w.slot then (s, dObjectBusy)
  else
    let old := ((s.hub.stagedOf p).map (·.fields)).getD []
    let x : StagedPart := { session := w.slot, fields := Sparse.insert old (objKey idx sub) (leNat v) }
    (s.updHub fun h => { h with staged := Sparse.insert h.staged p x }, dOk)

/-! ### Whether a change is allowed (R223, R227, R229) -/

def rangesMeet (a n b m : Nat) : Bool := decide (0 < n) && decide (0 < m) && decide (a < b + m) && decide (b < a + n)

/-- The partition-assignable space in bytes: PASN sixteenths of the capacity above the reserve, rounded down to 64 MiB (R339); PASN
as of the last power-up. -/
def State.paSize (s : State) : Nat :=
  let gib := ((List.range 16).map fun c => (Sparse.get s.ext.chans ChanState.reset c).density).sum
  (gib - 1) * 2 ^ 30 * s.ext.pasn / 16 / 0x4000000 * 0x4000000

/-- Another partition's resources met by an entry: cores, banks, tenants, LPDDR6, stream slots beyond the table. -/
def Hub.clash (h : Hub) (p : Nat) (t : Partition) : Bool :=
  ((List.range 16).any fun q =>
    let o := match Sparse.find? h.changes q with
      | some c => if c.deleting then h.part q else c.target
      | none => h.part q
    decide (q ≠ p) && decide ((h.part q).st ≠ 0) &&
      (decide (o.cores &&& t.cores ≠ 0) || decide ((h.part q).cores &&& t.cores ≠ 0) || decide (o.cbanks &&& t.cbanks ≠ 0) ||
        decide ((h.part q).cbanks &&& t.cbanks ≠ 0) || rangesMeet t.tbase t.tcount o.tbase o.tcount ||
        rangesMeet t.tbase t.tcount (h.part q).tbase (h.part q).tcount || rangesMeet t.lpbase t.lpsize o.lpbase o.lpsize ||
        rangesMeet t.lpbase t.lpsize (h.part q).lpbase (h.part q).lpsize)) ||
  decide (8192 < t.squota + ((List.range 16).map fun q => if q = p then 0 else (h.part q).squota).sum)

/-- LPDDR6 bytes that a partition's programs need: declared bytes and shadow pairs (R340). -/
def Hub.lpNeeded (h : Hub) (p : Nat) : Nat :=
  ((h.programs.filter fun g => g.part = p).map fun g => g.img.manifest.lpddr + g.shadows * 0x8000000).sum

/-- The commons banks that a byte range of a partition's region lies in (R204). -/
def Hub.banksOf (h : Hub) (p o n : Nat) : List Nat :=
  let bs := h.banks p
  if n = 0 then []
  else
    let words := (o + n - 1) / 64 + 1 - o / 64
    if bs.length ≤ words then bs else (List.range words).map fun i => bs.getD ((o / 64 + i) % bs.length) 64

/-- The ranges of the commons region that a job's descriptor names (Tables 4.11 and 13.5). -/
def Hub.jobRanges (h : Hub) (p off : Nat) (coll : Bool) : List (Nat × Nat) :=
  if coll then [(off, 64), (h.mj p off 0x10 4, h.mj p off 0x14 4), (h.mj p off 0x18 4, h.mj p off 0x14 4)]
  else
    [(off, 0x440 + if bit (mjMode h p off) 4 then 16 * mjDests h p off else 0), (h.mj p off 0x10 4, 8 * h.mj p off 0x14 4)] ++
      (List.range (mjRuns h p off)).map fun r => (h.mj p off (0x40 + 8 * r) 4, 8 * h.mj p off (0x44 + 8 * r) 4)

/-- Banks that a pending job, or the manifest of an installed program, references (R229): a program declares the first bytes of the region. -/
def Hub.usedBanks (h : Hub) (p : Nat) : List Nat :=
  let jobs := (h.jobs.filter fun j => j.part = p).flatMap fun j => h.jobRanges p j.off j.coll
  let merges := (h.pendingMerges p).flatMap fun off => h.jobRanges p off false
  let progs := (h.programs.filter fun g => g.part = p).map fun g => (0, g.img.manifest.commons)
  (jobs ++ merges ++ progs).flatMap fun r => h.banksOf p r.1 r.2

/-- Why a change is refused, as a dictionary status or a fault number; 0 when it may go on. -/
def State.changeRefused (s : State) (p : Nat) (t : Partition) : Nat :=
  let h := s.hub
  let o := h.part p
  let installed := h.programs.any fun g => g.part = p
  let gone := fun x : Nat => decide (o.tbase ≤ x) && decide (x < o.tbase + o.tcount) && !(decide (t.tbase ≤ x) && decide (x < t.tbase + t.tcount))
  if 1024 < t.tbase + t.tcount ∨ t.lpbase % 0x4000000 ≠ 0 ∨ t.lpsize % 0x4000000 ≠ 0 ∨ s.paSize < t.lpbase + t.lpsize then dRange
  else if h.clash p t then dRange
  else if (List.range 80).any fun c => bitOf t.cores c && !bitOf o.cores c && (s.die (coreDie c)).gone then dState
  else if (h.streams.any fun e => decide (e.2.st ≠ 0) && decide (e.2.part = p) && gone e.2.tenant) ||
      (h.cmds.any fun c => decide (h.ringPart c.ring = p) && gone c.cmd.tenant.toNat) then dState
  else if t.squota < o.sused then dState
  else if (decide (t.lpbase ≠ o.lpbase) && installed) || decide (t.lpsize < h.lpNeeded p) then dState
  else if (h.usedBanks p).any fun k => !bitOf t.cbanks k then dState
  else 0

/-- Programs bound to cores that a change takes away, each with its logical cores there (R229). -/
def Hub.displaced (h : Hub) (p : Nat) (t : Partition) : List (Program × List Nat) :=
  ((h.programs.filter fun g => g.part = p).map fun g =>
    (g, (List.range g.lcores.length).filter fun l => !bitOf t.cores (g.lcores.getD l 0))).filter fun x => !x.2.isEmpty

/-- Whether only the shares differ: such a change takes effect at the next epoch boundary and needs no CHANGING state (R229). -/
def onlyShares (o t : Partition) : Bool := decide ({ o with pshare := t.pshare, pmin := t.pmin, kxshare := t.kxshare } = t)

/-- Rebindings that a resource change needs, one for each displaced program; none when one of them finds no target (R229). The targets of
one are no longer free for the next. -/
def State.displace (s : State) (t : Partition) : List (Program × List Nat) → Option State
  | [] => some s
  | (g, ls) :: rest =>
    match s.overOneRuntime (bindingOver g ls) ((s.freeCores g.part (some g.handle)).filter fun c => bitOf t.cores c) with
    | none => none
    | some b => State.displace (s.enterRebind g b false false) t rest

/-- The operation that refuses the rebindings of a change: the change is one arriving operation for each displaced program (R234, R376). -/
def Maint.displaceBlocker (m : Maint) (dis : List (Program × List Nat)) : Option MaintOp :=
  (dis.filterMap fun x => m.blocker (rebindOp x.1 [])).head?

/-- COMMIT of a partition (R366, Table 10.2). -/
def State.actCommit (s : State) (w : Who) (p : Nat) : State × Nat :=
  let o := s.hub.part p
  if o.st ≠ 1 then (s, dState)
  else if s.hub.stagedByOther p w.slot then (s, dObjectBusy)
  else
    let t := targetEntry o (((s.hub.stagedOf p).map (·.fields)).getD [])
    let s1 := s.updHub fun h => { h with staged := Sparse.erase h.staged p }
    let no := fun st : Nat => (s1.partResult p st, dInProgress)
    let why := s.changeRefused p t
    if why ≠ 0 then no why
    else if onlyShares o t then
      ((s1.updHub fun h => h.setPart p { h.part p with pendShare := some (t.pshare, t.pmin, t.kxshare) }).partResult p 1, dInProgress)
    else
      let dis := s.hub.displaced p t
      if dis ≠ [] ∧ s.hub.loaderBusy p then no dState
      else match s.maint.displaceBlocker dis with
      | some r => ((s1.noteBusy .rebinding r.kind).partResult p dState, dInProgress)
      | none => match s1.displace t dis with
        | none => ((s1.partResult p 0xB1).journalBare 0xB1 2 p, dInProgress)
        | some s2 =>
          (s2.updHub fun h => { h.setPart p { h.part p with st := 2 } with changes := Sparse.insert h.changes p { target := t, deleting := false } },
            dInProgress)

/-- Create (Table 10.2): FREE to CHANGING with a new key, from the staged fields. -/
def State.actCreate (s : State) (w : Who) (p : Nat) : State × Nat :=
  let o := s.hub.part p
  if o.st ≠ 0 then (s.partResult p dState, dState)
  else if s.hub.stagedByOther p w.slot then (s, dObjectBusy)
  else
    let t := targetEntry o (((s.hub.stagedOf p).map (·.fields)).getD [])
    let s1 := s.updHub fun h => { h with staged := Sparse.erase h.staged p }
    let why := s.changeRefused p t
    if why ≠ 0 then (s1.partResult p why, why)
    else (s1.updHub fun h => { h.setPart p { h.part p with st := 2, keygen := ((h.part p).keygen + 1) % 65536 } with
      changes := Sparse.insert h.changes p { target := t, deleting := false } }, dInProgress)

/-- Delete (Table 10.2); `force` stops streams and uninstalls programs. -/
def State.actDelete (s : State) (p : Nat) (force : Bool) : State × Nat :=
  let o := s.hub.part p
  let busy := !(s.hub.openStreams fun x => x.part = p).isEmpty || s.hub.programs.any fun g => g.part = p
  if o.st = 0 then (s, dOk)
  else if o.st = 2 ∨ (busy ∧ force = false) then (s.partResult p dState, dState)
  else
    let s1 := (s.hub.programs.filter fun g => g.part = p).foldl State.removeProgram s
    let s2 := (s1.hub.openStreams fun x => x.part = p).foldl (fun s n => s.dropStream n 8) s1
    (s2.updHub fun h => { h.setPart p { h.part p with st := 2 } with
      changes := Sparse.insert h.changes p { target := h.part p, deleting := true } }, dInProgress)

/-- DISCARD (R366). -/
def State.actDiscard (s : State) (w : Who) (p : Nat) : State × Nat :=
  if s.hub.stagedByOther p w.slot then (s, dObjectBusy)
  else (s.updHub fun h => { h with staged := Sparse.erase h.staged p }, dOk)

/-! ### The commit (R204, R226, R229) -/

/-- A core that leaves a partition: scrubbed, macros OFFLINE, handle table invalid, no owner (R142, R229, R230). -/
def State.freeCore (s : State) (c : Nat) : State := (s.vacate c).updCore c CoreState.handedOn

/-- A core that enters a partition: nothing of an earlier owner or of a march test is left in it. -/
def State.giveCore (s : State) (c p : Nat) : State := s.updCore c fun k => { k.handedOn with owner := some p }

/-- The region's bytes after a change: re-keyed and zeroed with a new LPBASE, cut or grown with zeros otherwise (R226, R229). -/
def newRegion (old : Memory) (o t : Partition) : Memory :=
  if o.lpbase ≠ t.lpbase then [] else old.filter fun e => decide (e.1 < t.lpsize)

/-- The committed entry: CGEN and, with a new LPBASE, KEYGEN advance (a create has advanced it already); SUSED, RESULT and pending shares are not part of the change. -/
def committed (o t : Partition) (deleting : Bool) : Partition :=
  if deleting then { Partition.reset with cgen := o.cgen + 1, keygen := o.keygen, result := 1 }
  else { t with st := 1, sused := o.sused, cgen := o.cgen + 1, result := 1, pendShare := o.pendShare,
                keygen := if o.lpbase ≠ t.lpbase ∧ o.keygen = t.keygen then (o.keygen + 1) % 65536 else o.keygen }

/-- Whether the runtime may report the moved resources free: no rebinding of the partition under way, and no program bound to a core that
leaves it (R224, R229). -/
def Hub.changeReady (h : Hub) (p : Nat) : Bool :=
  !(h.rebinds.any fun r => r.part = p) && !(h.programs.any fun g => decide (g.part = p) && g.lcores.any (h.leaving p))

/-- PARTITION_CHANGE_COMPLETE (R224, R227, R229, Table 10.2). -/
def execPartitionChangeComplete (p : PartId) (s : State) : Out :=
  .next (match Sparse.find? s.hub.changes p.val with
    | none => s
    | some ch =>
      if s.hub.changeReady p = false then s
      else
        let o := s.hub.part p
        let t := if ch.deleting then Partition.reset else ch.target
        let leave := (List.range 80).filter fun c => bitOf o.cores c && !bitOf t.cores c
        let join := (List.range 80).filter fun c => bitOf t.cores c && !(decide ((s.core c).owner = some p.val))
        let s1 := leave.foldl State.freeCore s
        let s2 := join.foldl (fun s c => s.giveCore c p) s1
        let s3 := s2.updHub fun h => (List.range 64).foldl (fun h k =>
          if bitOf t.cbanks k then (if h.owner (5 + k) = some p.val then h else (h.zeroBank k).setOwner (5 + k) (some p.val))
          else if h.owner (5 + k) = some p.val then h.setOwner (5 + k) none else h) h
        let s4 := s3.updExt fun e => e.setRegion p (if ch.deleting then [] else newRegion (e.regionOf p) o t)
        let s5 := s4.updHub fun h =>
          { (h.setPart p (committed o ch.target ch.deleting)) with
            changes := (Sparse.erase h.changes p.val),
            tenants := (h.tenants.map fun e =>
              if t.tbase ≤ e.1 ∧ e.1 < t.tbase + t.tcount ∧ !(decide (o.tbase ≤ e.1) && decide (e.1 < o.tbase + o.tcount)) then
                (e.1, { e.2 with deficit := 0 }) else e).filter fun e => decide (e.2 ≠ Tenant.reset) }
        s5.event 1 (0x3000 + p.val) 8 0)

/-! ### Meanings -/

def execPartitionCreate (f : Frame) (s : State) : Out :=
  .next (s.onWrite f isPartIdx 2 (isByte 1) fun s w i _ => s.actCreate w (i - 0x3000))
def execPartitionDelete (f : Frame) (s : State) : Out :=
  .next (s.onWrite f isPartIdx 2 (isByte 2) fun s _ i _ => s.actDelete (i - 0x3000) false)
def execPartitionDeleteForce (f : Frame) (s : State) : Out :=
  .next (s.onWrite f isPartIdx 2 (isByte 3) fun s _ i _ => s.actDelete (i - 0x3000) true)
def execPartitionCommit (f : Frame) (s : State) : Out :=
  .next (s.onWrite f isPartIdx 2 (isByte 5) fun s w i _ => s.actCommit w (i - 0x3000))
def execPartitionDiscard (f : Frame) (s : State) : Out :=
  .next (s.onWrite f isPartIdx 2 (isByte 6) fun s w i _ => s.actDiscard w (i - 0x3000))

/-- A WRITE of OD 3000+p.02, by its value. -/
def State.actPartition (s : State) (w : Who) (p v : Nat) : State × Nat :=
  match v with
  | 1 => s.actCreate w p
  | 2 => s.actDelete p false
  | 3 => s.actDelete p true
  | 4 => s.actRebind p
  | 5 => s.actCommit w p
  | 6 => s.actDiscard w p
  | _ => (s, dRange)

end Sys2Proof.Machine
end

