-- ==== Sys2Proof/Machine/ExtMemory.lean ====
section
/-! DEFINITION. LPDDR6 channels: failure, retraining, training, shadow copies, HDM accesses (R338 to R345, R397). -/

namespace Sys2Proof.Machine

/-- The die of a channel (Table 14.1). -/
def chanDie (c : Nat) : Nat :=
  [0, 1, 1, 2, 7, 11, 11, 16, 19, 18, 18, 17, 12, 8, 8, 3].getD c 0

/-- Units listed for a channel dropped: its own state now says what they are. -/
def dropUnits (l : Sparse Bool) (c : Nat) : Sparse Bool := l.filter fun e => decide (chanOf (64 * e.1) ≠ c)

/-- A media event record added: kind and channel (Table 14.4 MEMEVT); vector 65. -/
def State.mediaEvent (s : State) (p kind : Nat) : State :=
  ((s.updHost p fun h => { h with events := h.events ++ [(h.nextEvt, kind)], nextEvt := h.nextEvt + 1 }).raiseVec p 65).attend p 2

/-- A channel failed (R344, R345): journalled; every block poisoned; the poison list overflows, a media event is added and POISON is
set on both ports; the copies on its set are incomplete. Unless its die is lost a full retraining follows, under the arbiter. -/
def State.failChannel (s : State) (c : Nat) : State :=
  if (s.ext.chan c).st = .failed then s
  else
    let s1 := s.updExt fun e =>
      let e1 := e.setChan c { e.chan c with st := .failed, hasFailed := true }
      { e1 with bad := (e1.bad.map fun x => (x.1, dropUnits x.2 c)).filter fun x => decide (x.2 ≠ []),
                copyAOff := if c < 8 then List.range 16 else e1.copyAOff, copyBOff := if c < 8 then e1.copyBOff else List.range 16 }
    let s2 := s1.journalDev 0xBB 5 c (BitVec.ofNat 64 c)
    let s3 := (List.range 2).foldl (fun s p =>
      ((s.updHost p fun h => { h with poison := dropUnits h.poison c, poisonOvf := true }).mediaEvent p c).attend p 3) s2
    if (s.die (chanDie c)).gone then s3
    else
      s3.raiseOp { MaintOp.of .lpddr with chan := some c }

/-- LPDDR_RETRAIN_TICK (R344): the incremental retraining of a working channel; one that fails fails the channel. -/
def execLpddrRetrainTick (ch : Chan) (ok : Bool) (s : State) : Out :=
  .next (if (s.ext.chan ch).st = .ok ∧ ok = false then s.failChannel ch else s)

/-- A full retraining requested through OD 9000.08 (R378). A channel whose die is lost, or that is not trained, gets STATE. -/
def State.actLpddr (s : State) (c : Nat) : State × Nat :=
  if (s.die (chanDie c)).gone ∨ (s.ext.chan c).st = .untrained then (s, dState)
  else
    let op := { MaintOp.of .lpddr with chan := some c }
    match s.maint.blocker op with
    | some r => (s.noteBusy .lpddr r.kind, dState)
    | none =>
      let s1 := s.beginOp op
      (if (s.ext.chan c).st = .ok then s1.updExt fun e => e.setChan c { e.chan c with st := .retraining } else s1, dOk)

def execLpddrRetraining (f : Frame) (s : State) : Out :=
  .next (s.onWrite f (· == 0x9000) 8 (fun _ => true) fun s _ _ v => s.actLpddr (leNat v))

/-- LPDDR_RETRAIN_DONE (R344, R345): a full retraining that passes returns the channel, its blocks poisoned until written. -/
def execLpddrRetrainDone (ch : Chan) (ok : Bool) (s : State) : Out :=
  .next (if s.maint.ops.any fun o => decide (o.kind = .lpddr) && decide (o.chan = some ch.val) then
      let s1 := s.endOps fun o => decide (o.kind = .lpddr) && decide (o.chan = some ch.val)
      let s2 := s1.updExt fun e => e.setChan ch { e.chan ch with retrains := (e.chan ch).retrains + 1 }
      if ok then s2.updExt fun e => e.setChan ch { e.chan ch with st := .ok }
      else if (s2.ext.chan ch).st = .failed then s2 else s2.failChannel ch
    else s)

/-- Whether every channel of a shadow set works: A is DC00 to DC07, B the others. -/
def ExtMem.setOk (e : ExtMem) (copyB : Bool) : Bool :=
  (List.range 8).all fun i => decide ((e.chan (if copyB then 8 + i else i)).st = .ok)

/-- SHADOW_REBUILD_DONE (R345): an incomplete copy rebuilt from the complete one. -/
def execShadowRebuildDone (p : PartId) (copyB : Bool) (s : State) : Out :=
  .next (if s.ext.setOk copyB then
      if copyB then (if p.val ∈ s.ext.copyAOff then s else s.updExt fun e => { e with copyBOff := e.copyBOff.filter (· ≠ p.val) })
      else (if p.val ∈ s.ext.copyBOff then s else s.updExt fun e => { e with copyAOff := e.copyAOff.filter (· ≠ p.val) })
    else s)

/-- LPDDR_TRAINING_DONE (R338, R397 step 5): `density` is what each channel showed after its attempts, 0 for one that failed. A channel of
another density than the first that trained fails. PASN and HSH take their values for this power-up (R339). -/
def execLpddrTrainingDone (density : List Nat) (s : State) : Out :=
  let good := (density.find? fun d => decide (d ∈ [4, 8, 16])).getD 0
  let s1 := s.updExt fun e => { e with pasn := s.mgmt.obj 0x7800 0x11, hsh := s.mgmt.obj 0x7800 0x12 }
  .next ((List.range 16).foldl (fun s c =>
    if density.getD c 0 = good ∧ good ≠ 0 then s.updExt fun e => e.setChan c { ChanState.reset with st := .ok, density := good }
    else (s.updExt fun e => e.setChan c { e.chan c with density := good, st := .untrained }).failChannel c) s1)

/-! ### HDM (R339, R341, R343) -/

/-- Bytes of the two HDM spaces (R339). -/
def State.hdmSize (s : State) (p : Nat) : Nat :=
  let cap := ((List.range 16).map fun c => (s.ext.chan c).density).sum * 2 ^ 30
  let rest := cap - 2 ^ 30 - s.paSize
  let h0 := rest * s.ext.hsh / 16 / 0x10000000 * 0x10000000
  if p = 0 then h0 else rest - h0

/-- A byte of an HDM space: one not written under the present key is free (R226, R341). -/
def State.hdmByte (s : State) (p a : Nat) : Byte :=
  match Sparse.get (s.host p).hdm none a with
  | some b => b
  | none => Config.uByte s.ext.keyEpoch (2 * a + p)

/-- HDM_READ of 64 bytes: status 0 with the data, 1 outside the space, 2 data poison (R343). -/
def execHdmRead (p : HPort) (addr : Nat) (s : State) : Out :=
  let a := addr / 64 * 64
  .next (if s.hdmSize p < a + 64 then s.answer 1 []
    else if s.ext.unitBad (s.host p).poison a then s.answer 2 []
    else s.answer 0 ((List.range 64).map fun i => s.hdmByte p (a + i)))

/-- HDM_WRITE of at most 64 bytes within a 64-byte unit: a block stays poisoned until written, and a failed channel's stay poisoned. -/
def execHdmWrite (p : HPort) (addr : Nat) (data : List Byte) (s : State) : Out :=
  .next (if data = [] ∨ 64 < addr % 64 + data.length ∨ s.hdmSize p < addr + data.length then s.answer 1 []
    else (s.updHost p fun h =>
      { h with hdm := (data.zipIdx).foldl (fun m b => Sparse.insert m (addr + b.2) (some b.1)) h.hdm,
               poison := s.ext.cleanUnits h.poison addr data.length }).answer 0 [])

end Sys2Proof.Machine
end

