-- ==== Sys2Proof/Machine/HostPorts.lean ====
section
/-! DEFINITION. Host ports: PERST, link-down, lanes, HRDY, pauses and the mailbox's own commands (R330 to R337, Tables 14.1 to 14.6). -/

namespace Sys2Proof.Machine

/-! ### Reset of a port and link-down (R333) -/

/-- A mailbox session ends (R336). -/
def State.endMailbox (s : State) (p : Nat) : State :=
  (s.updHost p fun h => { h with mbox := { h.mbox with operator := false, nonce := none } }).endSession (10 + p)

/-- The request of a stream ended as under STREAM_STOP. -/
def State.stopStream (s : State) (n : Nat) : State :=
  let x := s.hub.stream n
  if x.st = 2 then ((s.endRequest n 8 0 false).updHub fun h => h.updStream n fun x => { x with st := 1, remain := 0 }).nextQueued n
  else if x.st = 3 then s.updHub fun h => h.updStream n fun x => { x with stopDue := true }
  else if x.st = 4 then
    ((if x.outstanding then s.endRequest n 8 0 false else s).endQueued n 8).updHub fun h => h.updStream n fun x => { x with st := 1, remain := 0 }
  else s

/-- PERST or link-down on port p: rings off, session ended, requests of those rings ended, completions that cannot be posted discarded;
streams stay open. -/
def State.portReset (s : State) (p : Nat) : State :=
  let rings := (List.range 64).filter fun r => s.portOfRing r = p
  let s0 := s.updHub fun h => rings.foldl (fun h r => h.updRing r fun x => { x with en := false }) h
  let s1 := (rings.map s0.hub.cqOf).dedup.foldl (fun s q => s.postWaiting q s.hub.cqWait) s0
  let s2 := s1.endMailbox p
  (s2.hub.openStreams fun x => x.outstanding && decide (x.sq ∈ rings)).foldl State.stopStream s2

/-- PERST_ASSERT (R333, Table 14.6). -/
def execPerstAssert (p : HPort) (s : State) : Out :=
  .next ((s.portReset p).updHost p fun h => { h with perstN := false, hrdy := if h.hrdy = .stop then .stop else .reset })

/-- PERST_DEASSERT (Table 14.6). Only a pause that ends pulses ATTN for a latched cause. -/
def execPerstDeassert (p : HPort) (s : State) : Out :=
  .next (s.updHost p fun h =>
    { h with perstN := true, latched := h.latched && (s.hub.paused || decide (h.hrdy ≠ .reset)),
             hrdy := if h.hrdy = .reset then (if s.hub.paused then .pause else if s.hub.inService then .ready else .boot) else h.hrdy })

/-- HOST_LINK_DOWN (R333): journalled. -/
def execHostLinkDown (p : HPort) (s : State) : Out :=
  .next (((s.portReset p).updHost p fun h => { h with downs := h.downs + 1 }).journalBare 0xBA 4 p)

/-! ### Lanes (R332, Table 14.1) -/

/-- The backing group of a host lane, named by its die. -/
def spareDie (p lane : Nat) : Nat :=
  match p, lane / 4 with
  | 0, 0 => 8 | 0, 1 => 1 | 0, 2 => 1 | 0, _ => 11
  | _, 0 => 8 | _, 1 => 18 | _, 2 => 18 | _, _ => 11

/-- Lanes of a backing group's spare k that host lanes use. -/
def State.spareTaken (s : State) (die k : Nat) : Bool :=
  (List.range 2).any fun q => (s.host q).onSpare.any fun l => decide (spareDie q l = die) && decide (l % 4 = k)

/-- The widest width on the good lanes, from either end (lane reversal). -/
def widestOf (bad : List Nat) : Nat :=
  (([16, 8, 4, 2, 1].find? fun w => ((List.range w).all fun l => decide (l ∉ bad)) || ((List.range w).all fun l => decide (15 - l ∉ bad)))).getD 0

/-- A lane replaced (R332): by the backing spare of its position, or the widest width on the good lanes; LINK is set. A port left
without any width is down. -/
def State.replaceLane (s : State) (p lane : Nat) : State :=
  let h := s.host p
  let d := spareDie p lane
  if lane ∉ h.onSpare ∧ (s.die d).gone = false ∧ s.spareTaken d (lane % 4) = false then
    (s.updHost p fun h => { h with onSpare := h.onSpare ++ [lane] }).attend p 1
  else
    let bad := if lane ∈ h.badLanes then h.badLanes else h.badLanes ++ [lane]
    let s1 := (s.updHost p fun h => { h with badLanes := bad, width := widestOf bad }).attend p 1
    if widestOf bad = 0 then ((s1.portReset p).updHost p fun h => { h with downs := h.downs + 1 }).journalBare 0xBA 4 p else s1

/-- HOST_LANE_REPLACE (R332). -/
def execHostLaneReplace (p : HPort) (lane : Fin 16) (s : State) : Out := .next (s.replaceLane p lane)

/-- The die of a host lane (Table 14.1). -/
def hostDie (p lane : Nat) : Nat :=
  match p, lane / 4 with
  | 0, 0 => 3 | 0, 1 => 0 | 0, 2 => 2 | 0, _ => 7
  | _, 0 => 12 | _, 1 => 17 | _, 2 => 19 | _, _ => 16

/-- The lanes of a lost die replaced: its own, and those its spares carry (R332). -/
def State.lanesLost (s : State) (d : Nat) : State :=
  (List.range 2).foldl (fun s p => (List.range 16).foldl (fun s l =>
    let on := decide (l ∈ (s.host p).onSpare)
    if (hostDie p l = d ∧ on = false) ∨ (spareDie p l = d ∧ on = true) then s.replaceLane p l else s) s) s

/-! ### HRDY and pauses (R337, R383) -/

/-- ATTN_PULSE_END (Table 14.6). -/
def execAttnPulseEnd (p : HPort) (s : State) : Out :=
  .next (s.updHost p fun h => if h.hrdy = .attn then { h with hrdy := .ready } else h)

/-- Cores of running invocations. -/
def Hub.runningCores (h : Hub) : List Nat := h.invs.flatMap fun v => v.busy

/-- PAUSE_BEGIN (R336, R337, R383): once dispatch has stopped; the cores that still run are held, the mailbox sessions end. -/
def execPauseBegin (s : State) : Out :=
  .next (if s.hub.inService = false ∨ s.hub.admitting ∨ s.hub.paused then s
    else
      let s1 := s.hub.runningCores.foldl (fun s c => s.updCore c CoreState.hold) s
      let s2 := s1.updHub fun h => { h with paused := true }
      (List.range 2).foldl (fun s p => (s.endMailbox p).updHost p fun h =>
        { h with hrdy := if h.hrdy = .ready ∨ h.hrdy = .attn then .pause else h.hrdy }) s2)

/-- Cores held for another reason: a spare's copy or swap, a rebinding, or a frozen job. -/
def State.heldElse (s : State) (c : Nat) : Bool :=
  !s.mayRelease c || (s.kraox.frozen && decide ((s.core c).part = s.mgmt.obj 0x7200 2))

/-- PAUSE_END (R337, R383): HRDY high, or an attention pulse where a cause was latched; held cores go on and dispatch resumes. -/
def execPauseEnd (s : State) : Out :=
  .next (if s.hub.paused = false then s
    else
      let s1 := s.updHub fun h => { h with paused := false, admitting := true }
      let s2 := s1.hub.runningCores.foldl (fun s c => if s1.heldElse c then s else s.updCore c CoreState.release) s1
      (List.range 2).foldl (fun s p => s.updHost p fun h =>
        if h.hrdy = .pause then { h with hrdy := if h.latched then .attn else .ready, latched := false } else h) s2)

/-! ### The mailbox (R335, R336) -/

/-- Mailbox return: 0 success, 1 busy. -/
def State.mailbox (s : State) (act : State → State) : State := if s.hub.paused then s.answer 1 [] else act s

/-- A standard command whose payload is CXL's, not this spec's: an open value. -/
def State.cxlAnswer (s : State) (cmd : Nat) : State := (s.answer 0 (Config.mailboxAnswer cmd s.free)).bump

def execIdentifyMemoryDevice (_p : HPort) (s : State) : Out := .next (s.mailbox fun s => s.cxlAnswer 0x4000)
def execGetSupportedLogs (_p : HPort) (s : State) : Out := .next (s.mailbox fun s => s.cxlAnswer 0x0400)
def execGetLog (_p : HPort) (_log : List Byte) (s : State) : Out := .next (s.mailbox fun s => s.cxlAnswer 0x0401)
def execGetEventRecords (_p : HPort) (s : State) : Out := .next (s.mailbox fun s => s.cxlAnswer 0x0100)
def execGetPoisonList (_p : HPort) (_addr _len : Nat) (s : State) : Out := .next (s.mailbox fun s => s.cxlAnswer 0x4300)
def execGetHealthInfo (_p : HPort) (s : State) : Out := .next (s.mailbox fun s => s.cxlAnswer 0x4200)

/-- CLEAR_EVENT_RECORDS: the named records leave the log. -/
def execClearEventRecords (p : HPort) (handles : List Nat) (s : State) : Out :=
  .next (s.mailbox fun s => (s.updHost p fun h => { h with events := h.events.filter fun e => decide (e.1 ∉ handles) }).answer 0 [])

/-- Role keys: those provisioned, or their replacements (R359). -/
def Mgmt.roleKey (m : Mgmt) (r : Nat) : List Byte := (Sparse.find? m.keys r).getD (Config.roleKey r)

/-- The proof of a role (R355). -/
def roleProof (key nonce : List Byte) (role : Nat) : List Byte := hmac key (nonce ++ [BitVec.ofNat 8 role] ++ serialBytes)

/-- A one-byte status of Table 15.4 before the data of a vendor command's reply (R365). -/
def State.vendorAnswer (s : State) (status : Nat) (data : List Byte) : State := s.answer 0 (BitVec.ofNat 8 status :: data)

/-- MAILBOX_AUTH_CHALLENGE (R336, R355, R358). -/
def execMailboxAuthChallenge (p : HPort) (s : State) : Out :=
  .next (s.mailbox fun s =>
    if (s.host p).mbox.locked then s.vendorAnswer dLockout []
    else
      let n := freshNonce s.free
      ((s.updHost p fun h => { h with mbox := { h.mbox with nonce := some n } }).bump).vendorAnswer dOk n)

/-- MAILBOX_AUTH_RESPONSE: a proof under the OPERATOR key alone raises the session (R336); a wrong one counts toward the lockout
(R358). The nonce serves one response. -/
def execMailboxAuthResponse (p : HPort) (tag : List Byte) (s : State) : Out :=
  .next (s.mailbox fun s =>
    let m := (s.host p).mbox
    let ok := match m.nonce with
      | some n => decide (tag = roleProof (s.mgmt.roleKey 1) n 1)
      | none => false
    if ok then (s.updHost p fun h => { h with mbox := { h.mbox with operator := true, nonce := none } }).vendorAnswer dOk []
    else
      let f := m.fails + 1
      let lock := decide (s.mgmt.obj 0x1200 7 ≤ f)
      ((s.updHost p fun h => { h with mbox := { h.mbox with nonce := none, fails := if lock then 0 else f, locked := h.mbox.locked || lock } }).updMgmt fun g =>
        { g with authFails := g.authFails + 1 }).vendorAnswer dAuthFail [])

/-- A journal record's 32 bytes (Table 10.11). -/
def journalBytes (r : JournalRec) : List Byte :=
  packFields [(r.time.toNat, 4), (r.seq.toNat, 4), (r.code.toNat, 1), (r.cls + bitAt r.persisted 7, 1), (r.part, 1), (r.srcKind, 1), (r.srcId, 2),
    (r.tag.toNat, 2), (r.stepno.toNat, 4), (r.addr.toNat, 4), (r.detail.toNat, 8)]

/-- JOURNAL_READ: records from a SEQ on whose PART is a partition of the port's rings (R244, R336); at most 126. -/
def execJournalRead (p : HPort) (first : W32) (count : Nat) (s : State) : Out :=
  .next (s.mailbox fun s =>
    if 126 < count then s.vendorAnswer dRange []
    else
      let rs := (s.hub.journal.filter fun r => decide (first.toNat ≤ r.seq.toNat) && decide (r.part ∈ s.portParts p)).take count
      s.vendorAnswer dOk (rs.flatMap journalBytes))

/-- MAILBOX_SESSION_TIMEOUT (R336): 600 s without a command. -/
def execMailboxSessionTimeout (p : HPort) (s : State) : Out := .next (s.endMailbox p)

end Sys2Proof.Machine
end

