-- ==== Sys2Proof/Machine/Links.lean ====
section
/-! DEFINITION. Kraox links, collectives, jobs and leases: flits, retry, lanes, port states, collectives, freezes (R299 to R329, Tables
13.5, 13.6). -/

namespace Sys2Proof.Machine

/-! ### Port states (R319 to R322, Table 13.6) -/

/-- What waits at a port that is no longer UP or HALF finds its next hop down: each flit takes the bypass table or is discarded (R309,
R310, R320). -/
def State.reroute (s : State) (p : Nat) : State :=
  if (s.port p).live then s
  else (s.port p).waiting.foldl (fun s w => s.dispatchFlit w.flit w.from_) (s.updPort p fun x => { x with waiting := [] })

/-- A port declared down, with its cause: both its halves are down until they train again, and what it held unacknowledged is lost. -/
def State.portDown (s : State) (p cause : Nat) : State :=
  ((s.updPort p fun x => { x with st := .down, unacked := [], h0 := { x.h0 with up := false }, h1 := { x.h1 with up := false } }).journalDev 0xB8 3 p (Config.causeCode cause)).reroute p

/-- Table 13.6 for a change of the halves: both down, one down, both up. -/
def State.halvesChanged (s : State) (p : Nat) : State :=
  let x := s.port p
  if x.live = false then s
  else if x.h0.up && x.h1.up then s.updPort p fun x => { x with st := .up }
  else if x.h0.up || x.h1.up then s.updPort p fun x => { x with st := .half }
  else s.portDown p 0

/-- Every flit still unacknowledged sent again, in SEQ order (R303). -/
def Port.resend (x : Port) : Port := if x.carries then { x with tx := x.tx ++ x.unacked } else x

/-- A lost die's half-link goes down without a heartbeat timeout; its unacknowledged flits go out again on the other (R322). -/
def State.kxDieLost (s : State) (d : Nat) : State :=
  (List.range 6).foldl (fun s p => [false, true].foldl (fun s h =>
    if kxDie p h = d then
      ((s.updPort p fun x => x.setHalf h { x.half h with up := false, training := false, dieLost := true }).halvesChanged p).updPort p Port.resend
    else s) s) s

def kxOp (p : Nat) (half : Bool) : MaintOp := { MaintOp.of .kraoxLane with chan := some (2 * p + bitAt half 0) }

/-- A retraining of a half-link under the arbiter (R301). -/
def State.retrainHalf (s : State) (p : Nat) (half : Bool) : State :=
  (s.updPort p fun x => x.setHalf half { x.half half with training := true }).beginOp (kxOp p half)

/-- LANE_SWAP (R300, R301): the spare replaces the lane; without a spare the half runs at x8 or is down. -/
def execLaneSwap (p : KPort) (half : Bool) (_lane : Fin 20) (s : State) : Out :=
  let h := (s.port p).half half
  .next (if h.up = false ∨ h.training then s
    else if 0 < h.spares then (s.updPort p fun x => x.setHalf half { h with spares := h.spares - 1 }).retrainHalf p half
    else if 8 ≤ h.good - 1 then (s.updPort p fun x => x.setHalf half { h with good := h.good - 1 }).retrainHalf p half
    else (s.updPort p fun x => x.setHalf half { h with good := h.good - 1, up := false }).halvesChanged p)

/-- HALF_LINK_RETRAINED (R300, R301): the half carries flits again at the width of its good lanes, on a port that is in use. -/
def execHalfLinkRetrained (p : KPort) (half : Bool) (goodLanes : Nat) (s : State) : Out :=
  let h := (s.port p).half half
  let g := min 16 goodLanes
  .next (if h.training = false ∨ h.dieLost then s
    else
      let s1 := s.endOps fun o => decide (o.kind = .kraoxLane) && decide (o.chan = some (2 * p.val + bitAt half 0))
      let s2 := s1.updPort p fun x => x.setHalf half { h with training := false, good := g, up := (s.port p).live && decide (8 ≤ g) }
      ((s2.halvesChanged p).updPort p Port.resend).pump p)

/-- HEARTBEAT_SEND (R319): one heartbeat on each half, with the device ID and the state of its leases. -/
def execHeartbeatSend (p : KPort) (s : State) : Out :=
  .next (s.updPort p fun x =>
    let f : Flit := { x.linkFlit 3 s.devId with job := BitVec.ofNat 16 s.job, msg := Config.msgWord 0 s.kraox.jobState 0 0 }
    if x.live then { x with tx := x.tx ++ (if x.h0.carries then [f] else []) ++ (if x.h1.carries then [f] else []) } else x)

/-- PORT_HEARTBEAT_TIMEOUT (R319). -/
def execPortHeartbeatTimeout (p : KPort) (s : State) : Out :=
  .next (if (s.port p).live then s.portDown p 0 else s)

/-- RESETTING_SET (R320, Table 13.6). -/
def State.peerResetting (s : State) (p : Nat) : State :=
  (s.updPort p fun x => { x with st := if x.live ∨ x.st = .draining then .peerReset else x.st }).reroute p
def execResettingSet (p : KPort) (s : State) : Out := .next (s.peerResetting p)

/-- DRAINING_SET (R320, Table 13.6). -/
def State.peerDraining (s : State) (p : Nat) : State :=
  (s.updPort p fun x => { x with st := if x.live then .draining else x.st }).reroute p
def execDrainingSet (p : KPort) (s : State) : Out := .next (s.peerDraining p)

/-- PORT_TRAINED (R321): the port starts afresh, with every credit, on the halves that trained. -/
def execPortTrained (p : KPort) (good0 good1 : Nat) (s : State) : Out :=
  let x := s.port p
  let g := fun (h : HalfLink) (n : Nat) => if h.dieLost then 0 else min 16 n
  let a := g x.h0 good0
  let b := g x.h1 good1
  let y : Port := { Port.reset with
    h0 := { x.h0 with good := a, up := decide (8 ≤ a), training := false }, h1 := { x.h1 with good := b, up := decide (8 ≤ b), training := false },
    st := if 8 ≤ a ∧ 8 ≤ b then .up else .half, peerId := x.peerId, waiting := x.waiting, tx := x.tx }
  .next (if x.live ∨ (a < 8 ∧ b < 8) then s
    else ((s.endOps fun o => decide (o.kind = .kraoxLane) && o.chan.any fun c => decide (c / 2 = p.val)).setPort p y).pump p)

/-- PORT_TRAIN_TIMEOUT (R321): 10 s in PEER_RESET or DRAINING. -/
def execPortTrainTimeout (p : KPort) (s : State) : Out :=
  .next (if (s.port p).st = .peerReset ∨ (s.port p).st = .draining then s.portDown p 0 else s)

/-- The ordered set a device sends on every port before its transmitters stop: resetting (4) or draining (5) (R320). -/
def State.sendSet (s : State) (kind p : Nat) : State :=
  s.updPort p fun x => if x.live then { x with tx := x.tx ++ [x.linkFlit kind s.devId], st := .down, unacked := [] } else x

/-! ### Retry (R303) -/

/-- A retry request: acknowledged flits leave the buffer and the later ones go out again. Sixteen within 1 ms start a retraining of the
half with the higher error count; how many of those counted still lie within 1 ms is the environment's, so it is free. -/
def State.retry (s : State) (p : Nat) (seq : BitVec 12) : State :=
  let x := s.port p
  let n := 1 + Config.freeNat s.free % (x.retries + 1)
  let keep := if x.unacked.any fun f => f.seq = seq then (x.unacked.dropWhile fun f => decide (f.seq ≠ seq)).drop 1 else x.unacked
  let s1 := s.bump.setPort p (Port.resend { x with unacked := keep, retries := if 16 ≤ n then 0 else n })
  if 16 ≤ n then s1.retrainHalf p (decide (x.h0.errors < x.h1.errors)) else s1

/-- RETRY_REQUEST (R303). -/
def execRetryRequest (p : KPort) (seq : BitVec 12) (s : State) : Out :=
  .next (if (s.port p).live then (s.retry p seq).pump p else s)

/-! ### Collectives (R312 to R316, Table 13.5) -/

def collOp (h : Hub) (p off : Nat) : Nat := h.mj p off 5 1
def collType (h : Hub) (p off : Nat) : Nat := h.mj p off 6 1 % 16
def collComb (h : Hub) (p off : Nat) : Nat := h.mj p off 6 1 / 16
def collGroup (h : Hub) (p off : Nat) : Nat := h.mj p off 7 1
def collId (h : Hub) (p off : Nat) : Nat := h.mj p off 0x1C 2
def collLen (h : Hub) (p off : Nat) : Nat := h.mj p off 0x14 4
def collIn (h : Hub) (p off : Nat) : List Byte := h.commonsGet p (h.mj p off 0x10 4) (collLen h p off)

/-- NOTIFY pairs in use. -/
def collNotify (h : Hub) (p off : Nat) : List (Nat × Nat) :=
  ((List.range 8).map fun i => (h.mj p off (0x20 + 2 * i) 1, h.mj p off (0x21 + 2 * i) 1)).filter fun x => decide (x.1 ≠ 0xFF)

def Kraox.membersOf (k : Kraox) (g : Nat) : List Nat := ((k.tree g).map (·.members)).getD []
def Kraox.parentOf (k : Kraox) (g : Nat) : Option Nat := (k.tree g).bind (·.parent)
def Kraox.kidsOf (k : Kraox) (g : Nat) : List Nat := ((k.tree g).map (·.children)).getD []

/-- Bytes a collective writes at DSTOFF on this device. -/
def State.collOutLen (s : State) (p off : Nat) : Nat :=
  let h := s.hub
  let n := collLen h p off
  match collOp h p off with
  | 4 => n * (s.kraox.membersOf (collGroup h p off)).length
  | 1 => n
  | o => if o = 2 ∧ (s.kraox.parentOf (collGroup h p off)).isSome then 0 else if collType h p off = 2 then 2 * n else n

/-- The checks before anything is sent: 3 DENIED, 4 FIELD, else 0 (R312, R313). -/
def State.collCheck (s : State) (p off : Nat) : Nat :=
  let h := s.hub
  let o := collOp h p off
  let g := collGroup h p off
  let dev := h.mj p off 0xA 2
  let root := (s.kraox.parentOf g).isNone
  if h.right p 1 = false ∨ s.job = 0 ∨ s.mgmt.obj 0x7200 2 ≠ p ∨ h.mj p off 8 2 ≠ s.job then 3
  else if (collNotify h p off).any fun x => decide (80 ≤ x.1) || decide ((s.core x.1).owner ≠ some p) || decide (31 < x.2) then 3
  else if o = 0 ∨ 4 < o ∨ 63 < g ∨ 80 < h.mj p off 4 1 ∨ 2 < collType h p off ∨ 2 < collComb h p off then 4
  else if collLen h p off % 4 ≠ 0 ∨ 0x4000000 < collLen h p off ∨ h.commonsSize p < h.mj p off 0x10 4 + collLen h p off ∨
      h.commonsSize p < h.mj p off 0x18 4 + s.collOutLen p off then 4
  else if (o = 2 ∧ (root ≠ decide (dev = s.devId))) ∨ 8191 < dev then 4 else 0

/-- STATUS written. -/
def State.collStatus (s : State) (p off v : Nat) : State := s.updHub fun h => h.commonsPut p (off + 0xC) (leBytes 4 v)

/-- Whether a collective is pending. -/
def Hub.collPends (h : Hub) (p off : Nat) : Bool := h.jobs.any fun j => j.coll && decide (j.part = p) && decide (j.off = off)

/-- A pending collective ends: its output where it has one, STATUS, then an arrival at each counter of NOTIFY. -/
def State.collEnd (s : State) (p off status : Nat) (out : List Byte) : State :=
  if s.hub.collPends p off then
    let s1 := s.updHub fun h =>
      (({ h with jobs := h.jobs.filter fun j => !(j.coll && decide (j.part = p) && decide (j.off = off)) }).commonsPut p (h.mj p off 0x18 4) out)
    (collNotify s.hub p off).foldl (fun s x => s.updCore x.1 fun k => k.addAc x.2 1 0 0) (s1.collStatus p off status)
  else s

/-- The pending collective of a group and COLID in this device's job. -/
def State.collOf (s : State) (g id : Nat) : Option HubJob :=
  s.hub.jobs.find? fun j => j.coll && decide (collGroup s.hub j.part j.off = g) && decide (collId s.hub j.part j.off = id)

/-- An UNREACHABLE answers a flit of this device: the matching SEND or collective ends with it (R310, R316). -/
def State.collUnreachable (s : State) (g id : Nat) : State :=
  match s.collOf g id with
  | some j => s.collEnd j.part j.off 6 []
  | none => s

/-- A SEND data flit or a chunk sent from here; one that finds no next hop is answered with UNREACHABLE here (R310). -/
def State.sendColl (s : State) (f : Flit) : State :=
  match s.queueFlit f none with
  | (s1, true) => s1
  | (s1, false) =>
    if s.inExtent f.dst.toNat then s1.collUnreachable (Config.msgGroup f.msg) (Config.msgColid f.msg) else s1.countDiscard

/-- The output of a collective that ends with MEMBER_LOST is U. -/
def State.collLost (s : State) (p off : Nat) : State :=
  let n := s.collOutLen p off
  (s.collEnd p off 2 (freeBytes s.free n)).bumpN n

/-- Chunks of 224 bytes, the last padded with zeros. -/
def chunksOf : Nat → List Byte → List (List Byte)
  | 0, _ => []
  | fuel + 1, bs => if bs.isEmpty then [] else (bs.take 224 ++ List.replicate (224 - (bs.take 224).length) 0) :: chunksOf fuel (bs.drop 224)

/-- Data sent hop by hop to tree neighbours (R313). -/
def State.sendChunks (s : State) (g colid : Nat) (tos : List Nat) (bs : List Byte) : State :=
  ((chunksOf (bs.length / 224 + 1) bs).zipIdx).foldl (fun s c =>
    tos.foldl (fun s d => s.sendColl (s.treeFlit 2 0x03 d (Config.msgWord 3 g colid c.2) c.1)) s) s

/-- A SEND's data to its destination, ORDERED on the request VC (R307, R315). -/
def State.sendData (s : State) (g colid dev : Nat) (bs : List Byte) : State :=
  ((chunksOf (bs.length / 224 + 1) bs).zipIdx).foldl (fun s c =>
    s.sendColl { s.treeFlit 0 0x01 dev (Config.msgWord 1 g colid c.2) c.1 with tree := false, ordered := true }) s

/-- Lanes of INT32 images: the exact sum with R102's lane states, not yet tested against the range. -/
def sumLane (xs : List (Int × Nat)) : Int × Nat :=
  let has := fun n : Nat => xs.any fun x => x.2 = n
  (((xs.filter fun x => x.2 = 0).map (·.1)).sum, if has 3 || (has 1 && has 2) then 3 else if has 1 then 1 else if has 2 then 2 else 0)

def laneOfNum (n : Nat) : LaneSt := match n with | 0 => .normal | 1 => .posInf | 2 => .negInf | _ => .inv

/-- The range test of the root (R314). -/
def rootLane (x : Int × Nat) : Int × LaneSt := let r := combineLane [(x.1, laneOfNum x.2)]; (r.1, r.2.1)

/-- MAX or MIN of image lanes: INV dominates, else the largest or smallest value with its state. -/
def pickLane (mx : Bool) (xs : List (Int × LaneSt)) : Int × LaneSt :=
  if xs.any fun x => x.2 = .inv then (-2147483648, .inv)
  else xs.tail.foldl (fun a x =>
    if (if mx then decide (a.1 < x.1) else decide (x.1 < a.1)) || (decide (a.1 = x.1) && decide (a.2 = .normal)) then x else a) (xs.headD (0, .normal))

/-- FP32 lanes of an input: BF16 widened exactly first. -/
def fpLanes (bf : Bool) (bs : List Byte) : List W32 :=
  if bf then (List.range (bs.length / 2)).map fun i => BitVec.ofNat 32 (leNat ((bs.drop (2 * i)).take 2) * 65536)
  else (List.range (bs.length / 4)).map fun i => BitVec.ofNat 32 (leNat ((bs.drop (4 * i)).take 4))

/-- Lanes of an INT32 image of a length (R44). -/
def imgLanes (bs : List Byte) : List (Int × LaneSt) :=
  let im := preloadImage (bs.length / 17 * 4) bs
  im.1.zip im.2

/-- The reduction of a member's own contribution with its children's, in ascending child device ID (R314): the partial as a parent
receives it, and as the root writes it. -/
def reduceHere (dtype comb : Nat) (own : List Byte) (kids : List Arrived) : List Byte × List Byte :=
  if dtype = 0 then
    let mine := imgLanes own
    if comb = 0 then
      let sums := (List.range mine.length).map fun i =>
        sumLane (((mine.getD i (0, .normal)).1, laneStNum (mine.getD i (0, .normal)).2) :: kids.map fun a => a.sums.getD i (0, 0))
      (sums.flatMap fun x => leBytes 8 (Config.sumWord x.1 x.2).toNat, imageBytes (sums.map rootLane))
    else
      let r := imageBytes ((List.range mine.length).map fun i =>
        pickLane (comb = 1) (mine.getD i (0, .normal) :: kids.map fun a => (imgLanes a.bytes).getD i (0, .normal)))
      (r, r)
  else
    let mine := fpLanes (dtype = 2) own
    let f := match comb with | 0 => fAdd | 1 => fMax | _ => fMin
    let r := ((List.range mine.length).map fun i =>
      kids.foldl (fun v a => f v ((fpLanes false a.bytes).getD i 0)) (mine.getD i 0)).flatMap fun v => leBytes 4 v.toNat
    (r, r)

/-- COLLECTIVE_START (R312): STATUS is 0 and ARRIVED has come to NCONTRIB. A leaf sends its contribution up, as every member of an
ALLGATHER does its input; a SEND sends its data; a group that is blocked ends at once (R323). -/
def execCollectiveStart (p : PartId) (off : Nat) (s : State) : Out :=
  let h := s.hub
  let n := h.mj p off 4 1
  .next (if off % 64 = 0 ∧ off + 0x30 ≤ h.commonsSize p ∧ h.mj p off 0xC 4 = 0 ∧ n ≠ 0 ∧ n ≤ h.mj p off 0 4 ∧
      !(h.jobs.any fun j => decide (j.part = p.val) && decide (j.off = off)) then
    let e := s.collCheck p off
    if e ≠ 0 then s.collStatus p off e
    else
      let g := collGroup h p off
      let s1 := s.setHub { h with jobs := h.jobs ++ [{ part := p.val, off := off, coll := true, tenant := 0, waits := false, fail := 0 }] }
      if g ∈ s.kraox.blocked then s1.collLost p off
      else
        let id := collId h p off
        match collOp h p off with
        | 1 => s1.sendData g id (h.mj p off 0xA 2) (collIn h p off)
        | 4 => s1.sendChunks g id (s.kraox.parentOf g).toList (collIn h p off)
        | _ => match s.kraox.parentOf g, s.kraox.kidsOf g with
          | some q, [] => s1.sendChunks g id [q] (reduceHere (collType h p off) (collComb h p off) (collIn h p off) []).1
          | _, _ => s1
  else s)

/-- What has arrived from a device. -/
def arrivedFrom (l : List Arrived) (d : Nat) : Option Arrived := l.find? fun a => a.dev = d

/-- COLLECTIVE_DONE (R312 to R315). `arrived` is what came over the tree, or from the sender of a SEND; the collective completes when
everything its operation needs has arrived. -/
def execCollectiveDone (p : PartId) (off : Nat) (arrived : List Arrived) (s : State) : Out :=
  let h := s.hub
  .next (if (h.jobs.any fun j => j.coll && decide (j.part = p.val) && decide (j.off = off)) = false then s
    else
      let g := collGroup h p off
      let id := collId h p off
      let done := if h.mj p off 4 1 < h.mj p off 0 4 then 7 else 1
      let parent := s.kraox.parentOf g
      let kids := s.kraox.kidsOf g
      let own := collIn h p off
      match collOp h p off with
      | 1 => s.collEnd p off done (((arrivedFrom arrived (h.mj p off 0xA 2)).map (·.bytes)).getD [])
      | 4 =>
        let ms := s.kraox.membersOf g
        if ms.all fun d => decide (d = s.devId) || (arrivedFrom arrived d).isSome then
          let out := ms.flatMap fun d => if d = s.devId then own else ((arrivedFrom arrived d).map (·.bytes)).getD []
          (if parent = none then s.sendChunks g id kids out else s).collEnd p off done out
        else s
      | o =>
        if kids.all fun d => (arrivedFrom arrived d).isSome then
          let r := reduceHere (collType h p off) (collComb h p off) own (kids.filterMap fun d => arrivedFrom arrived d)
          match parent with
          | none =>
            let s1 := if o = 3 then s.sendChunks g id kids r.2 else s
            s1.collEnd p off done r.2
          | some q =>
            let s1 := if kids = [] then s else s.sendChunks g id [q] r.1
            if o = 2 then s1.collEnd p off done []
            else match arrivedFrom arrived q with
              | none => s
              | some a => s1.collEnd p off done a.bytes
        else s)

/-! ### Freezes (R323 to R327) -/

/-- Programs of the job: those of its partition (OD 7200.02). -/
def State.jobProgs (s : State) : List Program := if s.job = 0 then [] else s.hub.programs.filter fun g => g.part = s.mgmt.obj 0x7200 2

/-- A stream of a frozen job goes to HELD as Table 9.10 has it, a running one at its completion; its outstanding request completes with
STREAM_HELD and MORE (R325). -/
def State.freezeStream (s : State) (n : Nat) : State :=
  let x := s.hub.stream n
  if x.st = 1 ∨ x.st = 2 ∨ x.st = 3 then
    let s1 := s.updHub fun h => h.updStream n Stream.hold
    if x.outstanding then
      s1.post { ring := x.sq, tag := x.tag, fin := none, spec := false,
                ans := { status := 7, stream := n, retry := 0, detail := 0, result := BitVec.ofNat 64 x.results } }
    else s1
  else s

/-- A member freezes (R325). -/
def State.freeze (s : State) : State :=
  if s.kraox.frozen ∨ s.job = 0 then s
  else
    let gs := s.jobProgs
    let s1 := (gs.flatMap (·.lcores)).foldl (fun s c => s.updCore c CoreState.hold) s
    let s2 := (s1.hub.jobs.filter fun j => j.coll && decide (j.part = s.mgmt.obj 0x7200 2)).foldl (fun s j => s.collEnd j.part j.off 5 []) s1
    let s3 := (s2.hub.openStreams fun x => gs.any fun g => g.handle = x.prog).foldl State.freezeStream s2
    ((s3.journalDev 0xB9 2 0 (Config.causeCode 0)).updKraox fun k => { k with frozen := true }).setJobState 2

/-- RESUME (R327): the cores and the held streams of the job are released. -/
def State.actResume (s : State) : State × Nat :=
  if s.kraox.frozen = false then (s, dState)
  else
    let gs := s.jobProgs
    let s1 := (s.updKraox fun k => { k with frozen := false }).setJobState 1
    let s2 := (gs.flatMap (·.lcores)).foldl (fun s c => if s.heldElse c ∨ s.hub.paused then s else s.updCore c CoreState.release) s1
    ((s2.hub.openStreams fun x => gs.any fun g => g.handle = x.prog).foldl State.releaseStream s2, dOk)

/-- The discard of a frozen job (R326): its programs are uninstalled, their macros OFFLINE, their streams stopped. -/
def State.discardJob (s : State) : State :=
  ((s.jobProgs.foldl (fun s g => (g.lcores.foldl State.offlineCore (s.removeProgram g))) s).updKraox fun k => { k with frozen := false }).setJobState 0

def State.actDiscardJob (s : State) : State × Nat := if s.kraox.frozen then (s.discardJob, dOk) else (s, dState)

/-- A WRITE of OD 7200.08. -/
def State.actJobCmd (s : State) (v : Nat) : State × Nat := if v = 1 then s.actResume else s.actDiscardJob

def execResume (f : Frame) (s : State) : Out := .next (s.onWrite f (· == 0x7200) 8 (isByte 1) fun s _ _ _ => s.actResume)
def execDiscard (f : Frame) (s : State) : Out := .next (s.onWrite f (· == 0x7200) 8 (isByte 2) fun s _ _ _ => s.actDiscardJob)

/-- FREEZE_RETENTION_EXPIRE (R326). -/
def execFreezeRetentionExpire (s : State) : Out := .next (if s.kraox.frozen then s.discardJob else s)

/-! ### Leases (R324, R325, R328) -/

def State.isAnchor (s : State) : Bool := decide (s.kraox.anchor.map BitVec.toNat = some s.devId) && decide (s.job ≠ 0)

/-- LEASE_RENEW: a write of OD 7200.04 on the anchor renews its lease; on any other device it is refused with STATE. -/
def State.actLease (s : State) : State × Nat := if s.isAnchor then (s.updKraox fun k => { k with lease := true }, dOk) else (s, dState)
def execLeaseRenew (f : Frame) (s : State) : Out := .next (s.onWrite f (· == 0x7200) 4 (fun _ => true) fun s _ _ _ => s.actLease)

/-- A write of OD 7200.03 names the anchor; a device that newly becomes it holds no lease yet (R328). -/
def State.actAnchor (s : State) (v : Nat) : State × Nat :=
  if 8191 < v then (s, dRange)
  else (s.updKraox fun k =>
    { k with anchor := some (BitVec.ofNat 13 v), lease := k.lease && decide (k.anchor = some (BitVec.ofNat 13 v)) }, dOk)

/-- LEASE_SEND (R324): the anchor floods a LEASE with the time remaining, which is the environment's and so free. -/
def execLeaseSend (s : State) : Out :=
  .next (if s.isAnchor ∧ s.kraox.lease then
      s.bump.sendTree 3 0x07 (s.kraox.nbrs 0) (Config.msgWord 7 0 (Config.freeNat s.free % 501) 0) []
    else s)

/-- LEASE_EXPIRE (R324). -/
def execLeaseExpire (s : State) : Out :=
  .next (if s.isAnchor ∧ s.kraox.lease then (s.updKraox fun k => { k with lease := false }).freeze else s)

/-- LEASE_LOSS_FREEZE (R325): 40 ms without a LEASE, on a member that is not the anchor. -/
def execLeaseLossFreeze (s : State) : Out := .next (if s.isAnchor then s else s.freeze)

/-- A LEASE received (R324, R325, R327): while frozen it only makes the job REACHABLE; one without time remaining freezes. -/
def State.leaseIn (s : State) (f : Flit) : State :=
  if f.job.toNat ≠ s.job ∨ s.job = 0 then s
  else if s.kraox.frozen then s.setJobState 3
  else if Config.msgLease f.msg = 0 ∧ s.isAnchor = false then s.freeze else s

/-! ### Keepalives (R323) -/

/-- KEEPALIVE_SEND: to parent and children in every group. -/
def execKeepaliveSend (s : State) : Out :=
  .next (s.kraox.trees.foldl (fun s t => s.sendTree 3 0x08 t.nbrs (Config.msgWord 8 t.group 0 0) []) s)

/-- Cores that wait at a torus barrier of some groups. -/
def Hub.waitingAt (h : Hub) (gs : List Nat) : List Nat :=
  (h.barriers.filter fun b => b.torus && decide (b.bid ∈ gs)).flatMap fun b => b.arrived.filter fun c => decide (c ∉ b.left)

/-- Programs that hold one of some cores. -/
def Hub.progsOf (h : Hub) (cs : List Nat) : List Program := h.programs.filter fun g => g.lcores.any fun c => decide (c ∈ cs)

/-- KEEPALIVE_TIMEOUT (R323): five in a row missing from a tree neighbour; its groups are blocked. -/
def execKeepaliveTimeout (member : BitVec 13) (s : State) : Out :=
  let m := member.toNat
  let gs := (s.kraox.trees.filter fun t => decide (m ∈ t.members ∨ m ∈ t.nbrs)).map (·.group)
  .next (if m ∈ s.kraox.lostNbr ∨ !(s.kraox.trees.any fun t => decide (m ∈ t.nbrs)) then s
    else
      let s1 := s.updKraox fun k => { k with lostNbr := k.lostNbr ++ [m], blocked := k.blocked ++ gs.filter fun g => decide (g ∉ k.blocked) }
      let js := s1.hub.jobs.filter fun j => j.coll && decide (collGroup s1.hub j.part j.off ∈ gs)
      let waiting := s1.hub.waitingAt gs
      let cs := waiting ++ js.flatMap fun j => (collNotify s1.hub j.part j.off).map (·.1)
      let s2 := js.foldl (fun s j => s.collLost j.part j.off) s1
      let s3 := waiting.foldl (fun s c => s.updCore c CoreState.hold) s2
      let s4 := (s3.hub.progsOf cs).foldl (fun s g => s.holdProg g.handle) s3
      s4.journalDev 0xB9 2 0 (Config.causeCode 2))

/-- A write of OD 7200.07: the new trees release the groups (R323). Refused while a collective of the job is pending (R329). -/
def State.actTrees (s : State) (v : List Byte) : State × Nat :=
  if s.hub.jobs.any fun j => j.coll then (s, dState)
  else
    let ts : List Tree := (Config.treeDecode v).map fun t => { group := t.1, members := t.2.1, parent := t.2.2.1, children := t.2.2.2 }
    let was := s.hub.waitingAt s.kraox.blocked
    let s1 := s.updKraox fun k => { k with trees := ts, lostNbr := [], blocked := [] }
    let s2 := was.foldl (fun s c => if s.heldElse c ∨ s.hub.paused then s else s.updCore c CoreState.release) s1
    ((s2.hub.progsOf was).foldl (fun s g => s.releaseProg g.handle) s2, dOk)

/-- Whether a collective of the job is pending: OD 7200.01, .02 and .07 are then refused (R329). -/
def State.collPending (s : State) : Bool := s.hub.jobs.any fun j => j.coll

/-- The job state after a write of OD 7200.01. -/
def State.jobWritten (s : State) : State := s.setJobState (if s.job = 0 then 0 else if s.kraox.frozen then s.kraox.jobState else 1)

/-! ### Flits received (R302 to R310, R315, R316) -/

/-- A SEND data flit at its destination: one acknowledgement per 64 (R315). -/
def State.sendIn (s : State) (f : Flit) : State :=
  let src := f.src.toNat
  let n := Sparse.get s.kraox.sendGot 0 src + 1
  if n = 64 then
    (s.updKraox fun k => { k with sendGot := Sparse.set k.sendGot 0 src 0 }).dispatchFlit
      { s.treeFlit 1 0x02 src f.msg [] with tree := false, ordered := true } none
  else s.updKraox fun k => { k with sendGot := Sparse.set k.sendGot 0 src n }

/-- A flooded message passed on to each tree neighbour of group 0 but the one it came from (R318, R324). -/
def State.floodOn (s : State) (f : Flit) : State :=
  ((s.kraox.nbrs 0).filter fun d => decide (d ≠ f.src.toNat)).foldl (fun s d =>
    s.dispatchFlit { f with src := BitVec.ofNat 13 s.devId, dst := BitVec.ofNat 13 d, detour := false } none) s

/-- A chunk at a member: a result from the parent goes on to the children, a child's input to an ALLGATHER up to the parent; the rest
waits for the collective here (R313). -/
def State.chunkIn (s : State) (f : Flit) : State :=
  let g := Config.msgGroup f.msg
  match s.collOf g (Config.msgColid f.msg) with
  | none => s
  | some j =>
    let o := collOp s.hub j.part j.off
    let tos :=
      if (o = 3 ∨ o = 4) ∧ s.kraox.parentOf g = some f.src.toNat then s.kraox.kidsOf g
      else if o = 4 then (s.kraox.parentOf g).toList else []
    tos.foldl (fun s d => s.sendColl (s.treeFlit 2 0x03 d f.msg f.payload)) s

/-- A flit that has reached this device, by OP. PACE is applied by PACE_RECEIVED. -/
def State.deliverFlit (s : State) (f : Flit) : State :=
  match f.op.toNat with
  | 1 => s.sendIn f
  | 3 => s.chunkIn f
  | 4 => s.torusKid (Config.msgGroup f.msg) f.src.toNat
  | 5 => s.torusRelease (Config.msgGroup f.msg)
  | 6 => if f.job.toNat = s.job then s.floodOn f else s
  | 7 => (if f.job.toNat = s.job then s.floodOn f else s).leaseIn f
  | 9 => s.collUnreachable (Config.msgGroup f.msg) (Config.msgColid f.msg)
  | _ => s

/-- A data flit accepted in SEQ order: delivered here, its buffer free at once, or forwarded (R308). -/
def State.dataIn (s : State) (p : Nat) (f : Flit) : State :=
  let s1 := s.updPort p fun x => { x with rxSeq := f.seq }
  let b := flitBuf f
  if f.dst.toNat = s.devId ∧ s.inExtent f.dst.toNat then (s1.updPort p fun x => x.giveCredit b).deliverFlit f
  else s1.dispatchFlit f (some (p, b))

/-- A flit discarded by the receiver: a retry request with the last SEQ received intact goes back (R303). -/
def State.discardFlit (s : State) (p : Nat) : State :=
  s.updPort p fun x => if x.carries then { x with tx := x.tx ++ [x.linkFlit 6 s.devId] } else x

/-- A heartbeat: one with another device ID than the last seen takes the port down (R319). -/
def State.heartbeatIn (s : State) (p : Nat) (f : Flit) : State :=
  match (s.port p).peerId with
  | none => s.updPort p fun x => { x with peerId := some f.src }
  | some d => if d = f.src then s else (s.updPort p fun x => { x with peerId := some f.src }).portDown p 1

/-- Acknowledged flits leave the retry buffer; returned credits are added. -/
def Port.linkIn (x : Port) (f : Flit) : Port :=
  let un := if x.unacked.any fun g => g.seq = f.ack then (x.unacked.dropWhile fun g => decide (g.seq ≠ f.ack)).drop 1 else x.unacked
  ({ x with unacked := un } : Port).addCredit f.cbuf.toNat f.cred.toNat

/-- FLIT_RECEIVED (R302 to R310, R319, R320). -/
def execFlitReceived (p : KPort) (half : Bool) (f : Flit) (s : State) : Out :=
  let x := s.port p
  .next (if !(x.half half).carries then s
    else if x.live = false then (if f.fecOk ∧ f.crcOk ∧ f.kind = 4 then s.peerResetting p else s)
    else if f.fecOk = false ∨ f.crcOk = false then
      (s.updPort p fun x => x.setHalf half { x.half half with errors := (x.half half).errors + 1 }).discardFlit p
    else
      let s1 := s.updPort p fun x => x.linkIn f
      (match f.kind.toNat with
        | 1 => if f.seq = x.rxSeq + 1 then s1.dataIn p f else s1.discardFlit p
        | 3 => s1.heartbeatIn p f
        | 4 => s1.peerResetting p
        | 5 => s1.peerDraining p
        | 6 => s1.retry p f.ack
        | _ => s1).pump p)

end Sys2Proof.Machine
end

