-- ==== Sys2Proof/Machine/Firmware.lean ====
section
/-! DEFINITION. Firmware images, activation, trials and reverts (R379 to R384, Tables 16.4 and 16.5). -/

namespace Sys2Proof.Machine

/-! ### Refusals (R381, R382) -/

/-- OD 9000.0A: [0] field repair, [1] spare swap, [2] die-loss recovery, [3] localising test. -/
def State.repairBits (s : State) : Nat :=
  bitAt (s.macros.any fun e => e.2.repairBusy) 0 + bitAt ((s.cores.any fun e => !e.2.spareCopy.isEmpty) || !s.hub.swapHeld.isEmpty) 1 +
    bitAt (s.hub.rebinds.any (·.recover)) 2 +
    bitAt (s.maint.ops.any (·.localising)) 3

/-- SLED_MOVING or ON_BATTERY. -/
def State.trayBusy (s : State) : Bool := decide (s.mgmt.obj 0x8010 1 % 4 ≠ 0)

/-- Causes of OD A000.04 that R381 names: 5 TRAY, 6 LOCK, 7 REPAIR; 0 when none holds. -/
def State.fwBar (s : State) : Nat :=
  if s.trayBusy then 5 else if s.mgmt.obj 0xA010 1 = 1 then 6 else if s.repairBits ≠ 0 then 7 else 0

def fwStNum : SlotSt → Nat
  | .empty => 0 | .receiving => 1 | .valid => 2 | .active => 3 | .trial => 4 | .partially => 5

/-- OD A000.04: the component, the state of the slot it does not run from, and a cause. -/
def State.fwResult (s : State) (c cause : Nat) : State := s.updMaint fun m => { m with lastFw := (c, fwStNum (s.comp c).other.st, cause) }
def State.fwRefuse (s : State) (c cause : Nat) : State × Nat := (s.fwResult c cause, dState)

/-- A download whose flash write a last gasp suspends: reported as failed, cause FLASH, its slot EMPTY (R248, R380). -/
def State.failDownload (s : State) : State :=
  match s.maint.download with
  | none => s
  | some (c, _) => s.dropDownload.fwResult c 10

/-! ### Download and verification (R380) -/

/-- Bytes of a slot (Table 16.3). -/
def slotSize (c : Nat) : Nat := match c with | 1 => 0x100000 | 2 => 0x1000000 | 3 => 0x400000 | 4 => 0x40000 | _ => 0x100000

/-- One segment of an image (R350, R380, R381). -/
def State.fwSegment (s : State) (w : Who) (offset : Nat) (more : Bool) (data : List Byte) : State × Nat :=
  if offset = 0 then
    if s.maint.download.any fun d => d.2 ≠ w.slot then (s, dObjectBusy)
    else
      let s0 := s.dropDownload
      let c := (data.getD 6 0).toNat
      if s0.fwBar ≠ 0 then s0.fwRefuse c s0.fwBar
      else if c = 0 ∨ 5 < c then s0.fwRefuse c 9
      else if (s0.comp c).trial ∨ (s0.comp c).activating then s0.fwRefuse c 8
      else
        let x := (s0.comp c).setOther { FwSlot.empty with st := .receiving }
        ((s0.setComp c { x with image := data, whole := !more, done := 0 }).updMaint fun m => { m with download := some (c, w.slot) }, dOk)
  else match s.maint.download with
    | none => (s, dOffset)
    | some (c, o) =>
      if o ≠ w.slot then (s, dObjectBusy)
      else if offset ≠ (s.comp c).image.length ∨ (s.comp c).whole then (s.dropDownload, dOffset)
      else (s.setComp c { s.comp c with image := (s.comp c).image ++ data, whole := !more }, dOk)

/-- A header field. -/
def hd (b : List Byte) (o n : Nat) : Nat := leNat ((b.drop o).take n)
def zeros (b : List Byte) (o n : Nat) : Bool := ((b.drop o).take n).all fun x => x = 0

/-- Why an image is not valid, as a cause of OD A000.04; 0 when it is (R380). -/
def fwBad (c minSvn : Nat) (b : List Byte) : Nat :=
  let len := hd b 0x10 4
  let n := hd b 0x14 1
  if b.length < 512 ∨ hd b 0 4 ≠ 0x42514657 ∨ hd b 4 2 ≠ 1 ∨ hd b 6 1 ≠ c ∨ 3 < hd b 7 1 ∨ slotSize c < len + 512 ∨ b.length ≠ len + 512 ∨ 8 < n ∨
      !(zeros b 0x15 43 && zeros b 0xD0 48 && zeros b 0x161 31 && zeros b 0x1E0 32) ∨
      ((List.range n).any fun i => decide (hd b (0x40 + 12 * i) 1 = 0 ∨ 5 < hd b (0x40 + 12 * i) 1) || !zeros b (0x41 + 12 * i) 3) then 9
  else if Config.sha384 ((b.drop 0x100).take 97) ≠ Config.keyHash (hd b 7 1) ∨
      Config.ecdsaOk ((b.drop 0x100).take 97) (Config.sha384 (b.take 0x180)) ((b.drop 0x180).take 96) = false then 1
  else if Config.sha384 (b.drop 512) ≠ (b.drop 0xA0).take 48 then 2
  else if hd b 0xC 4 < minSvn then 3 else 0

/-- The slot contents of a valid image. -/
def fwSlotOf (b : List Byte) : FwSlot :=
  { st := .valid, ver := hd b 8 4, svn := hd b 0xC 4,
    compat := (List.range (hd b 0x14 1)).map fun i => (hd b (0x40 + 12 * i) 1, hd b (0x44 + 12 * i) 4, hd b (0x48 + 12 * i) 4) }

/-- IMAGE_VERIFY_DONE (R380): after the last segment. -/
def execImageVerifyDone (component : Fin 5) (s : State) : Out :=
  let c := component.val + 1
  let x := s.comp c
  .next (if x.whole = false then s
    else
      let bad := fwBad c x.minSvn x.image
      let y := x.setOther (if bad = 0 then fwSlotOf x.image else FwSlot.empty)
      ((s.setComp c { y with image := [], whole := false }).updMaint fun m => { m with download := none }).fwResult c bad)

/-! ### Activation (R381 to R383, Table 16.5) -/

/-- Units of a component: the island, the hub, each power die, each port. The units of the core runtime are sets of cores (R383). -/
def unitsOf (c : Nat) : Nat := match c with | 4 => 4 | 5 => 6 | _ => 1

/-- R382: ranges of the new image and of the other active ones. -/
def State.compatOk (s : State) (c : Nat) : Bool :=
  let new := (s.comp c).other
  (new.compat.all fun e => decide (e.2.1 ≤ (s.comp e.1).active.ver) && decide ((s.comp e.1).active.ver ≤ e.2.2)) &&
    [1, 2, 3, 4, 5].all fun d => decide (d = c) || (s.comp d).active.compat.all fun e => decide (e.1 ≠ c) || (decide (e.2.1 ≤ new.ver) && decide (new.ver ≤ e.2.2))

/-- The island restarts: its sessions, nonces, snapshots and staging end, the hold and TRAY_STATE are not kept (R357, R368, R389); it answers
again once it has started. -/
def State.islandRestart (s : State) : State :=
  (((List.range 12).foldl State.endSession s).updMgmt fun m =>
    { m with up := false, challenges := [], fails := [], lockouts := [], snaps := [], staging := [],
             od := Sparse.erase m.od (objKey 0x8010 1) }).updPower fun p => { p with hold := false, thermTrip := false }

/-- The next cores that take the new core runtime (R383): up to 16 free ones at once; else a program is rebound onto updated cores of its
partition, or, where none fits, held between invocations while all its cores are updated in place. -/
def State.nextBatch (s : State) : State :=
  let x := s.comp 3
  let old := (List.range 80).filter fun c => decide (c ∉ x.rtNew)
  let free := old.filter fun c => !s.hub.targeted none c && !(s.hub.programs.any fun g => decide (c ∈ g.lcores))
  let put := fun (s : State) (b : List Nat) => s.setComp 3 { x with batch := b }
  if free ≠ [] then put s (free.take 16)
  else match s.hub.programs.find? fun g => decide (g.st = .ready ∨ g.st = .held) && g.lcores.any fun c => decide (c ∈ old) with
    | none => put s []
    | some g => match bindingOver g (List.range g.lcores.length) ((s.freeCores g.part none).filter fun c => decide (c ∈ x.rtNew)) with
      | some b => put (s.enterRebind g b false false) []
      | none => put (s.holdProg g.handle) (g.lcores.filter fun c => decide (c ∈ old))

/-- The batch runs the new runtime; a program that was held for it goes on. -/
def State.endBatch (s : State) : State :=
  let x := s.comp 3
  let s1 := s.setComp 3 { x with rtNew := x.rtNew ++ x.batch.filter fun c => decide (c ∉ x.rtNew), batch := [] }
  (s.hub.programs.filter fun g => decide (g.st = .ready) && g.lcores.any fun c => decide (c ∈ x.batch)).foldl (fun s g => s.releaseProg g.handle) s1

/-- What begins with a unit of a component. -/
def State.beginUnit (s : State) (c i : Nat) : State :=
  match c with
  | 1 => s.islandRestart
  | 2 => s.updHub fun h => { h with admitting := false }
  | 3 => s.nextBatch
  | 4 => s.updPower fun p => { p with pdOn := p.pdOn &&& ~~~BitVec.ofNat 4 (2 ^ i) }
  | 5 => ((s.sendSet 5 i).endOps fun o => decide (o.kind = .kraoxLane) && o.chan.any fun x => decide (x / 2 = i))
  | _ => s

/-- What ends with it: the island answers, the power die rejoins, the port restarts with its stored equalisation. -/
def State.endUnit (s : State) (c i : Nat) : State :=
  match c with
  | 1 => s.updMgmt fun m => { m with up := true }
  | 3 => s.endBatch
  | 4 => s.updPower fun p => { p with pdOn := p.pdOn ||| BitVec.ofNat 4 (2 ^ i) }
  | 5 =>
    let x := s.port i
    let y : Port := { Port.reset with
      h0 := { x.h0 with training := false }, h1 := { x.h1 with training := false }, peerId := x.peerId, waiting := x.waiting, tx := x.tx,
      st := if x.h0.up ∧ x.h1.up then .up else if x.h0.up ∨ x.h1.up then .half else .down }
    if x.st = .down then (s.setPort i y).pump i else s
  | _ => s

/-- Whether a unit may end: the hub's once the runtime is paused; a core batch's while no invocation runs on it and no rebinding of the
activation is under way (R383). -/
def State.unitReady (s : State) (c : Nat) : Bool :=
  match c with
  | 2 => s.hub.paused
  | 3 => s.hub.rebinds.isEmpty && !(s.hub.invs.any fun v => (s.comp 3).batch.any fun i => decide (i ∈ v.busy))
  | _ => true

/-- Whether a component's last unit is done: for the core runtime once every core runs the new version. -/
def State.unitsOver (s : State) (c : Nat) : Bool :=
  let x := s.comp c
  if c = 3 then (List.range 80).all fun i => decide (i ∈ x.rtNew) else decide (unitsOf c ≤ x.done)

def actOp (c : Nat) : MaintOp := { MaintOp.of .activation with comp := some c }

/-- ACTIVATE of component c. -/
def State.actActivate (s : State) (c : Nat) : State × Nat :=
  let x := s.comp c
  if s.fwBar ≠ 0 then s.fwRefuse c s.fwBar
  else if [1, 2, 3, 4, 5].any fun d => (s.comp d).activating || (s.comp d).trial then s.fwRefuse c 8
  else if x.other.st ≠ .valid ∧ x.other.st ≠ .partially then s.fwRefuse c 0
  else if s.compatOk c = false then s.fwRefuse c 4
  else match s.maint.blocker (actOp c) with
    | some r => (s.noteBusy .activation r.kind, dState)
    | none =>
      if c = 4 ∧ s.power.pdOn ≠ 0xF#4 then s.fwRefuse c 0
      else (((s.beginOp (actOp c)).setComp c { x with activating := true, stop := false }).beginUnit c x.done, dInProgress)

/-- The last unit done: TRIAL in the new slot, the old one kept valid (R384). -/
def State.fwInstalled (s : State) (c : Nat) : State :=
  let x := s.comp c
  let y := (x.setOther { x.other with st := .trial }).setActive { x.active with st := .valid }
  ((s.endOps fun o => decide (o.kind = .activation) && decide (o.comp = some c)).setComp c
    { y with useB := !x.useB, trial := true, activating := false, done := 0, stop := false, rtNew := [], batch := [] }).updMaint fun m => { m with storeWrites := m.storeWrites + 1 }

/-- An activation stops after a unit: the component reads PARTIAL, and a later ACTIVATE resumes it (R381). -/
def State.fwPartial (s : State) (c : Nat) : State :=
  let x := s.comp c
  (s.endOps fun o => decide (o.kind = .activation) && decide (o.comp = some c)).setComp c
    { (x.setOther { x.other with st := .partially }) with activating := false, stop := false }

/-- ACTIVATION_UNIT_DONE (R381, R383): the next unit, the trial, or PARTIAL when the tray asked for a stop or a power die has left service
(R266). -/
def execActivationUnitDone (component : Fin 5) (s : State) : Out :=
  let c := component.val + 1
  let n := (s.comp c).done
  .next (if (s.comp c).activating = false ∨ s.unitReady c = false then s
    else
      let s0 := s.endUnit c n
      let s1 := s0.setComp c { s0.comp c with done := n + 1 }
      if s1.unitsOver c then s1.fwInstalled c
      else if (s1.comp c).stop ∨ (c = 4 ∧ s1.power.pdOn ≠ 0xF#4) then s1.fwPartial c
      else s1.beginUnit c (n + 1))

/-! ### Trials and reverts (R384) -/

/-- A trial confirmed: the minimum SVN rises to the image's. -/
def State.fwConfirm (s : State) (c : Nat) : State × Nat :=
  let x := s.comp c
  if x.trial then
    (((s.setComp c { (x.setActive { x.active with st := .active }) with trial := false, minSvn := max x.minSvn x.active.svn }).updMaint fun m =>
      { m with storeWrites := m.storeWrites + 1 }).fwResult c 0, dOk)
  else (s, dState)

/-- A component in trial back in its old slot, with the same pause. -/
def State.fwBack (s : State) (c : Nat) : State :=
  let x := s.comp c
  if x.trial then
    let y := (x.setActive { x.active with st := .valid }).setOther { x.other with st := .active }
    (s.setComp c { y with useB := !x.useB, trial := false, rtNew := [], batch := [] }).updMaint fun m => { m with storeWrites := m.storeWrites + 1 }
  else s

/-- A slot that verifies at boot: it holds an image of at least the minimum SVN (R380, R384). -/
def Component.boots (x : Component) (v : FwSlot) : Bool := decide (v.st ∈ [.valid, .active, .trial]) && decide (x.minSvn ≤ v.svn)

/-- The slots a boot starts from (R384): a selected slot that fails verification gives way to the other where that is VALID. -/
def State.bootSlots (s : State) : State :=
  [1, 2, 3, 4, 5].foldl (fun s c =>
    let x := s.comp c
    if !x.boots x.active ∧ x.other.st = .valid ∧ x.boots x.other = true then
      let y := (x.setActive FwSlot.empty).setOther { x.other with st := .active }
      s.setComp c { y with useB := !x.useB, trial := false }
    else s) s

/-- REVERT. -/
def State.fwRevert (s : State) (c : Nat) : State × Nat :=
  if (s.comp c).trial then
    let s1 := s.fwBack c
    (if c = 1 then s1.islandRestart else if c = 2 then s1.beginUnit 2 0 else s1, dOk)
  else (s, dState)

/-- TRIAL_EXPIRE (R384): confirmed after OD A000.05 seconds. -/
def execTrialExpire (component : Fin 5) (s : State) : Out := .next (s.fwConfirm (component.val + 1)).1

/-- UNIT_START_TIMEOUT (R384): the component goes back to its old slot, and the failure is journalled. -/
def execUnitStartTimeout (component : Fin 5) (s : State) : Out :=
  let c := component.val + 1
  let x := s.comp c
  .next (if x.activating then
      let s0 := if c = 2 then s else s.endUnit c x.done
      let s2 := (s0.endOps fun o => decide (o.kind = .activation) && decide (o.comp = some c)).setComp c
        { x with activating := false, stop := false, done := 0, rtNew := [], batch := [] }
      s2.journalDev 0xC7 7 c (Config.causeCode 8)
    else if x.trial then (s.fwBack c).journalDev 0xC7 7 c (Config.causeCode 8) else s)

/-- A WRITE of OD A000.03: byte 0 the operation, byte 1 COMP. -/
def State.actFirmware (s : State) (v : List Byte) : State × Nat :=
  let c := (v.getD 1 0).toNat
  if c = 0 ∨ 5 < c then (s, dRange)
  else match (v.getD 0 0).toNat with
    | 1 => s.actActivate c
    | 2 => s.fwConfirm c
    | 3 => s.fwRevert c
    | 4 => if s.maint.download.any fun d => d.1 = c then (s.dropDownload, dOk) else (s, dState)
    | _ => (s, dRange)

/-- A WRITE of OD 8010.01: a download is aborted, an activation stops after its unit (R381). -/
def State.trayWritten (s : State) : State :=
  if s.trayBusy then
    let s1 := s.dropDownload
    [1, 2, 3, 4, 5].foldl (fun s c => if (s.comp c).activating then s.setComp c { s.comp c with stop := true } else s) s1
  else s

/-- Firmware commands as rows: writes of OD A000.03 with a first byte of their own. -/
def isFw (n : Nat) (v : List Byte) : Bool := decide (v.length = 2) && decide (v.head? = some (BitVec.ofNat 8 n))

def execActivate (f : Frame) (s : State) : Out := .next (s.onWrite f (· == 0xA000) 3 (isFw 1) fun s _ _ v => s.actFirmware v)
def execConfirm (f : Frame) (s : State) : Out := .next (s.onWrite f (· == 0xA000) 3 (isFw 2) fun s _ _ v => s.actFirmware v)
def execRevert (f : Frame) (s : State) : Out := .next (s.onWrite f (· == 0xA000) 3 (isFw 3) fun s _ _ v => s.actFirmware v)
def execAbortDownload (f : Frame) (s : State) : Out := .next (s.onWrite f (· == 0xA000) 3 (isFw 4) fun s _ _ v => s.actFirmware v)

/-- A segment of OD A000.02: the object's checks, then the segment itself (R350, R379). -/
def State.downloadFrame (s : State) (f : Frame) : State :=
  s.receive f fun s w =>
    let j := s.judge w 0xA000 2 true
    if j ≠ 0 then (s, Ans.of j)
    else if f.type ≠ 10 then (s, Ans.of dType)
    else let r := s.fwSegment w f.offset.toNat (bitOf f.flags 1) f.data; (r.1, Ans.of r.2)

/-- IMAGE_DOWNLOAD (R379, R380). -/
def execImageDownload (f : Frame) (s : State) : Out :=
  .next (if f.op = 2 ∧ f.index = 0xA000 ∧ f.sub = 2 then s.downloadFrame f else s)

end Sys2Proof.Machine
end

