-- ==== Sys2Proof/Machine/Island.lean ====
section
/-! DEFINITION. The safety island: losing and resetting a die, what a power loss takes, the persistent journal, watchdogs (R237 to R247,
R271, R396). -/

namespace Sys2Proof.Machine

/-! ### Isolating a die (R238, R240) -/

/-- A core whose die is isolated: nothing left but where its macros and spare banks were mapped. -/
def CoreState.fence (k : CoreState) : CoreState :=
  { CoreState.reset with win := k.win.filter fun e =>
      (decide (0x040C0000 ≤ e.1) && decide (e.1 < 0x040C0040)) || (decide (0x040B0300 ≤ e.1) && decide (e.1 < 0x040B0310)) }

/-- A march test on a die stops; its units read ABORTED (R377). -/
def State.abortMarch (s : State) (d : Nat) : State :=
  let on := fun o : MaintOp => decide (o.kind = .march) && decide (o.die = some d)
  (s.updMaint fun m => { m with marchRes := m.marchRes ++ (m.ops.filter on).flatMap fun o => o.units.map fun u => (u, 2) }).endOps on

/-- Cores taken from every partition without a CHANGING state. -/
def Hub.dropCores (h : Hub) (cs : List Nat) : Hub :=
  let mask := BitVec.ofNat 80 (cs.map fun c => bitAt true c).sum
  { h with parts := (h.parts.map fun e => (e.1, { e.2 with cores := e.2.cores &&& ~~~mask })).filter fun e => decide (e.2 ≠ Partition.reset),
           changes := h.changes.map fun e => let t := e.2.target; (e.1, { e.2 with target := { t with cores := t.cores &&& ~~~mask } }) }

/-- Isolation of a die whose record already says that it is lost or in reset: its interfaces, cores and programs. -/
def State.isolate (s : State) (d : Nat) : State :=
  let cs := dieCores d
  let hit := s.hub.programs.filter fun g => g.lcores.any fun c => decide (coreDie c = d)
  let touched := ((List.range 16).filter fun p => cs.any fun c => bitOf (s.hub.part p).cores c) ++ hit.map (·.part)
  let s1 := cs.foldl (fun s c => s.updCore c CoreState.fence) s
  let s2 : State := { s1 with
    macros := s1.macros.filter (fun e => decide (e.1 / 72 ∉ cs) || decide (e.2.st = .retired)),
    nb := s1.nb.filter fun m => decide (m.src ∉ cs) && decide (m.dst ∉ cs),
    hub := s1.hub.dropCores cs }
  let s3 := ((s2.abortMarch d).kxDieLost d).lanesLost d
  let s4 := ((List.range 16).filter fun c => chanDie c = d).foldl State.failChannel s3
  let s5 := s4.abandon d touched
  hit.foldl (fun s g => match s.hub.prog g.handle with
    | some x => if x.st = .installing then s else s.recover x
    | none => s) s5

/-- A die declared lost (R237, R238). -/
def State.loseDie (s : State) (d : Nat) : State :=
  if (s.die d).lost then s
  else
    let s1 := s.updDie d fun x => { x with lost := true, inReset := true, resetHold := false, retestDue := false, oldParts := [], move := Move.none }
    (s1.journalBare 0xB0 1 d).isolate d

/-- DIE_HEARTBEAT (R237). -/
def execDieHeartbeat (d : ArrayDie) (s : State) : Out := .next (s.updDie d fun x => { x with missed := 0 })

/-- Whether a die runs: its regulator on, out of reset, not lost. -/
def DieState.runs (x : DieState) : Bool := decide (x.reg = .on) && !x.inReset && !x.lost

/-- DIE_HEARTBEAT_TIMEOUT (R237): the tenth heartbeat in a row is missing. -/
def execDieHeartbeatTimeout (d : ArrayDie) (s : State) : Out :=
  .next (if (s.die d).runs then (s.updDie d fun x => { x with missed := 10 }).loseDie d else s)

/-- LEAVE_RESET_TIMEOUT (R237): 1 ms after its release the die is still in reset. -/
def execLeaveResetTimeout (d : ArrayDie) (s : State) : Out :=
  .next (if (s.die d).reg = .on ∧ (s.die d).lost = false ∧ (s.die d).resetHold = false then s.loseDie d else s)

/-! ### A SAFETY reset of an array die (R396) -/

/-- The partitions that hold the cores of a die. -/
def State.ownersOf (s : State) (d : Nat) : List (Nat × Nat) :=
  (dieCores d).filterMap fun c => ((List.range 16).find? fun p => decide ((s.hub.part p).st ≠ 0) && bitOf (s.hub.part p).cores c).map fun p => (c, p)

/-- The die held in reset, DIE_RESET journalled, its interfaces and programs handled as for a lost die. -/
def State.resetDie (s : State) (d : Nat) : State × Nat :=
  if (s.die d).reg ≠ .on ∨ (s.die d).gone then (s, dState)
  else
    let own := s.ownersOf d
    let s1 := s.updDie d fun x => { x with inReset := true, resetHold := true, oldParts := own, move := Move.none }
    (((s1.journalBare 0xB2 1 d).isolate d), dOk)

/-- DIE_RESET_RELEASE (R396): released, the die runs a destructive quick march test. -/
def execDieResetRelease (d : ArrayDie) (s : State) : Out :=
  .next (if (s.die d).resetHold then
      (s.updDie d fun x => { x with inReset := false, resetHold := false, retestDue := true, point := 0 }).beginOp
        { MaintOp.of .march with die := some d.val, cores := dieCores d, mode := 1, unitKind := 4 }
    else s)

/-- The test passed: the cores return, free, to the partitions that held them and still exist; the interfaces retrain. -/
def State.dieBack (s : State) (d : Nat) : State :=
  let own := (s.die d).oldParts.filter fun e => decide ((s.hub.part e.2).st ≠ 0)
  let s1 := s.updDie d fun x => { x with retestDue := false, oldParts := [], missed := 0 }
  let s2 := own.foldl (fun s e =>
    (s.updHub fun h => h.setPart e.2 { h.part e.2 with cores := (h.part e.2).cores ||| BitVec.ofNat 80 (2 ^ e.1) }).updCore e.1 fun k =>
      { k with owner := some e.2 }) s1
  let s3 := ((List.range 16).filter fun c => chanDie c = d).foldl (fun s c => s.beginOp { MaintOp.of .lpddr with chan := some c }) s2
  (List.range 6).foldl (fun s p => [false, true].foldl (fun s h =>
    if kxDie p h = d then (s.updPort p fun x => x.setHalf h { x.half h with dieLost := false, training := true }) else s) s) s3

/-! ### What a power loss takes (R271) -/

/-- A record written to the persistent journal, which holds 8 MiB of records (Table 16.3); nothing is left for the island to write of it. -/
def Hub.persist (h : Hub) (r : JournalRec) : Hub :=
  let all := h.persistent ++ [{ r with persisted := true }]
  { h with persistent := if 262144 < all.length then all.drop 1 else all,
           islandQ := h.islandQ.filter fun x => decide (x.seq ≠ r.seq),
           journal := h.journal.map fun x => if x.seq = r.seq then { x with persisted := true } else x }

/-- The hub after a power loss: the ring is gone; what the island holds goes on, the records it still has to write among it, and SEQ with
them (R243, R271). -/
def Hub.afterLoss (h : Hub) : Hub :=
  { Hub.reset with
    persistent := h.persistent, islandQ := h.islandQ, acked := h.acked, unacked := h.unacked, seq := h.seq, unwritten := h.unwritten }

/-- The records that the island has not written when its own supply stops are counted (R243). -/
def Hub.auxLost (h : Hub) : Hub :=
  { h with islandQ := [], seq := (h.persistent.getLast?.map (·.seq)).getD 0, unwritten := h.unwritten + h.islandQ.length }

/-- Package power gone: everything of R271 is lost; what the island and the persistent store keep stays. A lost die is powered again, and
needs a march test before it serves (R238). -/
def State.powerLoss (s : State) : State :=
  let retired := (s.macros.filter fun e => e.2.st = .retired).map (·.1)
  let banks := s.cores.flatMap fun e => (List.range 4).filterMap fun k =>
    let v := e.2.spspare k
    if bitOf v 31 then some (e.1, k, v) else none
  { s with
    cores := [], macros := [], nb := [], hub := s.hub.afterLoss,
    mons := s.mons.filter fun e => e.1 < 4,
    dies := (s.dies.map fun e => (e.1, { DieState.reset with inService := e.2.inService, dropped := e.2.dropped, phaseCap := e.2.phaseCap, attempts := e.2.attempts,
                                                                  needMarch := e.2.lost || e.2.needMarch })).filter
      fun e => decide (e.2 ≠ DieState.reset),
    kraox := { Kraox.reset with bypass := s.kraox.bypass, trees := s.kraox.trees, anchor := s.kraox.anchor,
                                jobState := if s.kraox.jobState = 0 then 0 else 1 },
    hosts := (s.hosts.map fun e => (e.1, { HostPort.reset with perstN := e.2.perstN, hrdy := .stop })).filter fun e => decide (e.2 ≠ HostPort.reset),
    ext := { ExtMem.reset with keyEpoch := s.ext.keyEpoch + 1, pasn := s.ext.pasn, hsh := s.ext.hsh },
    mgmt := { s.mgmt with od := s.mgmt.od.filter fun e => !(decide (0x400000 ≤ e.1) && decide (e.1 < 0x440000)),
                          snaps := Sparse.erase (Sparse.erase s.mgmt.snaps 10) 11, staging := Sparse.erase (Sparse.erase s.mgmt.staging 10) 11 },
    maint := { s.maint with ops := [], retired := (s.maint.retired ++ retired.filter fun k => decide (k ∉ s.maint.retired)),
                            banks := (s.maint.banks.filter fun b => !(banks.any fun x => x.1 = b.1 ∧ x.2.1 = b.2.1)) ++ banks,
                            comps := (s.maint.comps.map fun e => (e.1, { e.2 with activating := false, done := 0, stop := false, rtNew := [], batch := [] })).filter
                              fun e => decide (e.2 ≠ Component.reset) },
    power := { s.power with busTested := false, busOn := false, stage := 0, offDue := false, susCap := none, peakCap := none, gcorr := (1, 1),
                            window := [], stopGrow := false, buckets := [], fillE := (0, 0), epochIn := 0, epochCore := 0, lastIn := 0,
                            lastCore := 0, budget := 0, stepDowns := 0, breaches := 0, slack := 0, coreE := [] } }

/-- The package off, in a state, for a cause of OD 2000.25. -/
def State.allOff (s : State) (to_ : PkgState) (cause : Nat) : State :=
  let s1 := s.powerLoss
  { s1 with
    power := { s1.power with st := to_, cause := cause },
    hosts := (List.range 2).foldl (fun h p =>
      Sparse.set h HostPort.reset p { Sparse.get h HostPort.reset p with hrdy := .stop }) s1.hosts }

/-! ### The persistent journal and the watchdogs (R243, R247) -/

/-- JOURNAL_PERSIST (R243): the oldest device or safety record not yet written. -/
def execJournalPersist (s : State) : Out :=
  .next (match s.hub.islandQ with
    | [] => s
    | r :: _ => s.updHub fun h => h.persist r)

/-- HUB_RUNTIME_WATCHDOG (R247, R383, R384): the runtime restarts as in an activation: dispatch stops, the pause follows. A runtime in
trial goes back to its old slot. -/
def State.hubRestart (s : State) : State := ((s.journalBare 0xC7 2 0).updHub fun h => { h with admitting := false }).fwBack 2
def execHubRuntimeWatchdog (s : State) : Out := .next (if s.hub.inService then s.hubRestart else s)

/-- ISLAND_WATCHDOG (R247, R384): the comparator resets the island. -/
def execIslandWatchdog (s : State) : Out :=
  .next (if s.mgmt.up then ((s.journalBare 0xC7 7 0).fwBack 1).islandRestart else s)

end Sys2Proof.Machine
end

