-- ==== Sys2Proof/Machine/PowerDelivery.lean ====
section
/-! DEFINITION. Power delivery and sequencing: package power states, the bus, regulators and phases, power dies, loss of input power,
resets and boot of the island (R249 to R273, R392 to R397, Tables 11.3 to 11.10). -/

namespace Sys2Proof.Machine

/-! ### Records (Table 11.10) -/

def State.railShort (s : State) (srcKind src where_ attempts : Nat) : State :=
  s.journalDev 0xC1 srcKind src (BitVec.ofNat 64 (where_ + 256 * attempts))

/-! ### Requests (R253) -/

def bitsOn (v : BitVec 4) : Nat := ((List.range 4).map fun i => bitAt (bitOf v i) 0).sum

/-- The on request, from the filtered inputs, the hold and the power dies. -/
def State.onHolds (s : State) : Bool :=
  let p := s.power
  p.en && p.trayStopN && p.coolantOk && p.vinOk && !p.hold && decide (2 ≤ bitsOn p.pdOn)

/-- UP(0), once the island has booted (R252): power dies are tried again and the caps of their loss end (R266), HRDY leaves STOP
(Table 14.6). -/
def State.startUp (s : State) : State :=
  if s.power.st = .standby ∧ s.mgmt.up ∧ s.onHolds then
    (List.range 2).foldl (fun s p => s.updHost p fun h => { h with hrdy := if h.perstN then .boot else .reset })
      (s.updPower fun p => { p with st := .up 0, busTested := false, pdOn := 0xF#4, susCap := none, peakCap := none })
  else s

/-- ON_REQUEST (R253, R258): the inputs are all as the request needs them; in DOWN and MIN_OFF it waits. -/
def execOnRequest (s : State) : Out :=
  .next (s.updPower fun p => { p with en := true, trayStopN := true, coolantOk := true, vinOk := true }).startUp

/-- Dispatch and admission stop, and both HRDY pins go low (R257 step 1). -/
def State.stopHub (s : State) : State :=
  let s1 := s.updHub fun h => { h with admitting := false, inService := false, paused := false }
  (List.range 2).foldl (fun s p => s.updHost p fun h => { h with hrdy := .stop }) s1

/-- Resetting ordered sets go out on every port before a power-down (R320). -/
def State.farewell (s : State) : State := (List.range 6).foldl (fun s p => s.sendSet 4 p) s

/-- An accepted off request (R257, Table 11.3). A hiccup wait in UP ends without another attempt. -/
def State.offRequest (s : State) (cause : Nat) (grace : Bool) : State :=
  match s.power.st with
  | .on => (s.stopHub.updPower fun p => { p with st := .down 6, stage := if grace then 1 else 3, cause := cause })
  | .up 0 => s.stopHub.updPower fun p => { p with st := .down 0, stage := 3, cause := cause }
  | .up _ =>
    (List.range 21).foldl (fun s d => s.updDie d fun x => { x with reg := if x.reg = .hiccup then .off else x.reg })
      (s.stopHub.updPower fun p => { p with offDue := true, cause := cause })
  | _ => s

/-- OFF_REQUEST (R253, R247): TRAY_STOP_N or EN low; EN low clears the hold and releases THERMTRIP_N (R389). In OFF nothing runs that
could journal it (R252). -/
def execOffRequest (trayStop : Bool) (s : State) : Out :=
  .next (if trayStop then
      let s1 := s.updPower fun p => { p with trayStopN := false }
      if s.power.st = .off then s1 else (s1.journalBare 0xC6 7 0).offRequest 2 true
    else (s.updPower fun p => { p with en := false, hold := false, thermTrip := false }).offRequest 1 true)

/-- A SAFETY power-off: the hold is set, then the sequence (R253). -/
def State.actPowerOff (s : State) : State × Nat := ((s.updPower fun p => { p with hold := true }).offRequest 3 true, dOk)
/-- A SAFETY power-on clears the hold. -/
def State.actPowerOn (s : State) : State × Nat := ((s.updPower fun p => { p with hold := false, thermTrip := false }).startUp, dOk)
/-- A SAFETY clear of LATCHED (R254); outside LATCHED it gets STATE (R368). -/
def State.actClearLatched (s : State) : State × Nat :=
  if s.power.st = .latched then (s.updPower fun p => { p with st := .minOff }, dOk) else (s, dState)

/-! ### The bus (R255, R260) -/

/-- BUS_SHORT_TEST_DONE (R260): in UP(0), after MGMT_CLK has switched (R393). -/
def execBusShortTestDone (short : Bool) (s : State) : Out :=
  .next (if s.power.st = .up 0 ∧ s.power.busTested = false ∧ s.power.mgmtRef then
      if short then (s.railShort 7 0 0 1).allOff .latched 8 else s.updPower fun p => { p with busTested := true }
    else s)

/-- The dies of a step (Table 11.4); a die whose bit is set in OD 2000.23 is skipped. -/
def State.stepDies (s : State) (k : Nat) : List Nat :=
  if k = 1 then [20] else ((List.range 4).map fun i => 4 * (k - 2) + i).filter fun d => !bit (s.mgmt.obj 0x2000 0x23) d

/-- The soft start of a step's dies. -/
def State.startStep (s : State) (k : Nat) : State :=
  (s.stepDies k).foldl (fun s d => s.updDie d fun x => { x with reg := .attempt, attempts := 1 }) (s.updPower fun p => { p with st := .up k })

/-- BUS_IN_REGULATION (R255): step 1 begins. -/
def execBusInRegulation (s : State) : Out :=
  .next (if s.power.st = .up 0 ∧ s.power.busTested ∧ s.power.busOn = false then (s.updPower fun p => { p with busOn := true }).startStep 1 else s)

/-! ### Die steps (R256, R259) -/

/-- A die released from reset: OP0, its fused voltage. -/
def DieState.released (x : DieState) (d : Nat) : DieState :=
  { x with reg := .on, inReset := false, missed := 0, point := 0, volt := vop d 0, grant := 0, move := Move.none }

/-- DIE_STEP_COMPLETE (R255 to R257): no die of the step waits in a hiccup; those still in an attempt are released. After step 6 the
package is ON; after an off request the steps go off instead. -/
def execDieStepComplete (s : State) : Out :=
  .next (match s.power.st with
    | .up (k + 1) =>
      let ds := s.stepDies (k + 1)
      if ds.any fun d => (s.die d).reg = .hiccup then s
      else
        let s1 := ds.foldl (fun s d => s.updDie d fun x => if x.reg = .attempt then x.released d else x) s
        if s.power.offDue then s1.updPower fun p => { p with st := .down (k + 1), stage := 3, offDue := false }
        else if k + 1 < 6 then s1.startStep (k + 2)
        else s1.updPower fun p => { p with st := .on, powerUps := p.powerUps + 1 }
    | _ => s)

/-- What a core keeps of itself when its die's supply goes off: which spare banks are mapped, for the persistent store (R159, R271). -/
def CoreState.unpowered (k : CoreState) : CoreState :=
  { CoreState.reset with win := k.win.filter fun e => decide (0x040B0300 ≤ e.1) && decide (e.1 < 0x040B0310) }

/-- The supply of some dies is off: their macros lose their rows, their cores everything held in them (R11, R159); a RETIRED macro stays
so (R29). -/
def State.supplyOff (s : State) (ds : List Nat) : State :=
  let cs := ds.flatMap dieCores
  let retired := (s.macros.filter fun e => decide (e.1 / 72 ∈ cs) && decide (e.2.st = .retired)).map (·.1)
  { s with
    macros := s.macros.filter (fun e => decide (e.1 / 72 ∉ cs)),
    cores := (s.cores.map fun e => if e.1 ∈ cs then (e.1, e.2.unpowered) else e).filter fun e => decide (e.2 ≠ CoreState.reset),
    maint := { s.maint with retired := s.maint.retired ++ retired.filter fun k => decide (k ∉ s.maint.retired) } }

/-- A regulator latched off (R259, R261): RAIL_SHORT; an array die is lost, the hub die takes the package off. In DOWN the die's step
counts as done. -/
def State.latchOff (s : State) (d where_ : Nat) : State :=
  let n := (s.die d).attempts
  let s1 := (s.railShort 1 d where_ n).updDie d fun x => { x with reg := .latched, inReset := true }
  if d = 20 then s1.allOff .latched 8
  else match s.power.st with
    | .down _ => s1.supplyOff [d]
    | _ => s1.loseDie d

/-- SOFT_START_FAIL (R259): the attempt fails; the fourth latches the regulator off. After an off request it just turns off. -/
def execSoftStartFail (d : DieId) (s : State) : Out :=
  let x := s.die d
  .next (if x.reg ≠ .attempt then s
    else if s.power.offDue then s.updDie d fun x => { x with reg := .off }
    else if x.attempts < 4 then s.updDie d fun x => { x with reg := .hiccup }
    else s.latchOff d 2)

/-- HICCUP_EXPIRE (R259): a new attempt. -/
def execHiccupExpire (d : DieId) (s : State) : Out :=
  .next (if (s.die d).reg = .hiccup then s.updDie d fun x => { x with reg := .attempt, attempts := x.attempts + 1 } else s)

/-- REGULATOR_LATCH_OFF (R261). -/
def execRegulatorLatchOff (d : DieId) (s : State) : Out := .next (if (s.die d).reg = .on then s.latchOff d 3 else s)

/-! ### Power-down (R257, R258) -/

/-- The completion that ends an outstanding command at a power-down: STREAM_STOPPED for stream requests; for others the spec names no
status. -/
def State.drainCmd (s : State) (o : OutCmd) : State :=
  if o.cmd.opc = 0x11 then s.finishCmd o { Answer.of 8 with stream := cmdN o.cmd 8 2 }
  else s.bump.finishCmd o (Answer.of (Config.freeNat s.free % 65536))

/-- GRACE_END (R257 step 2): the runtime has completed its commands and written its records. -/
def execGraceEnd (s : State) : Out :=
  .next (if s.power.stage = 1 then
      let s1 := s.hub.cmds.foldl State.drainCmd s
      let s2 := s1.hub.islandQ.foldl (fun s r => s.updHub fun h => h.persist r) s1
      s2.updPower fun p => { p with stage := 2 }
    else s)

/-- A die that power control has brought to idle: its lowest point, no move, no ballast (R257 step 3). -/
def DieState.atIdle (x : DieState) (d : Nat) : DieState :=
  if x.runs then
    { x with request := 0, grant := 0, point := 0, volt := vop d 0, move := Move.none, ballast := 0, total := x.total - x.ballast, work := none,
             allowance := 16, recentMax := [] }
  else x

/-- DIES_IDLE (R257 step 3): every die is at idle, no core runs; the ports say farewell (R320), and steps go off from 6 down. -/
def execDiesIdle (s : State) : Out :=
  .next (if s.power.stage = 2 then
      let s1 := (List.range 80).foldl State.stopCore s
      let s2 := (List.range 21).foldl (fun s d => s.updDie d fun x => x.atIdle d) s1
      s2.farewell.updPower fun p => { p with stage := 3 }
    else s)

/-- DIE_STEP_OFF (R257 step 4): the outputs of the step are below 0.1 V; macros lose their contents (R11). -/
def execDieStepOff (s : State) : Out :=
  .next (match s.power.st with
    | .down (k + 1) =>
      if s.power.stage ≠ 3 then s
      else
        let ds := if k = 0 then [20] else (List.range 4).map fun i => 4 * (k - 1) + i
        let s1 := ds.foldl (fun s d => s.updDie d fun x => { x with reg := .off, inReset := true }) s
        (s1.supplyOff ds).updPower fun p => { p with st := .down k }
    | _ => s)

/-- BUS_DISCHARGED (R254, R257 step 5): the bus is below 0.1 V and the minimum off time begins. -/
def execBusDischarged (s : State) : Out := .next (if s.power.st = .down 0 then s.allOff .minOff s.power.cause else s)

/-- COMPARATOR_BACKSTOP (R247, R257): 50 ms after the request the hardware turns off what is left. -/
def execComparatorBackstop (s : State) : Out :=
  .next (match s.power.st with
    | .down _ => s.allOff .minOff s.power.cause
    | .up _ => if s.power.offDue then s.allOff .minOff s.power.cause else s
    | _ => s)

/-- MIN_OFF_EXPIRE (R254, R258): STANDBY, and UP(0) at once when the on request still holds. -/
def execMinOffExpire (s : State) : Out :=
  .next (if s.power.st = .minOff then (s.updPower fun p => { p with st := .standby }).startUp else s)

/-- BUS_SHORT (R260): at any time after the bus test, the bus at current limit below 1.5 V. -/
def execBusShort (s : State) : Out := .next (if s.power.busTested then (s.railShort 7 0 1 1).allOff .latched 8 else s)

/-! ### Phases (R262 to R265) -/

def phasesOn (v : BitVec 24) : Nat := ((List.range 24).map fun i => bitAt (bitOf v i) 0).sum

/-- The highest point not above `cap` whose largest fused current fits 0.9 × 6 A × n. -/
def fitPoint (d n : Nat) : Nat → Nat
  | 0 => 0
  | p + 1 => if 10 * icur d (p + 1) ≤ 54 * n then p + 1 else fitPoint d n p

/-- PHASE_LOST's detail. -/
def phaseDetail (phase cause left : Nat) (spare cap : Bool) (highest : Nat) : W64 :=
  BitVec.ofNat 64 (phase + 256 * cause + 65536 * left + bitAt spare 24 + bitAt cap 25 + highest * 2 ^ 28)

/-- A phase dropped (R264, R265): a spare comes in, the point may be capped; below 12 phases the regulator latches off. -/
def State.dropPhase (s : State) (d ph cause : Nat) : State :=
  let x := s.die d
  let used := x.inService &&& ~~~BitVec.ofNat 24 (2 ^ ph)
  let out := x.dropped ||| BitVec.ofNat 24 (2 ^ ph)
  let spare := (List.range 24).find? fun i => !bitOf used i && !bitOf out i
  let now := match spare with | some i => used ||| BitVec.ofNat 24 (2 ^ i) | none => used
  let n := phasesOn now
  let cap := fitPoint d n x.phaseCap
  let s1 := s.updDie d fun x => { x with inService := now, dropped := out, phaseCap := cap }
  let s2 := s1.journalDev 0xC2 1 d (phaseDetail ph cause n spare.isSome (decide (cap < x.phaseCap)) cap)
  if n < 12 then s2.latchOff d 3 else s2

/-- PHASE_FAIL_OPEN (R262, R264). -/
def execPhaseFailOpen (d : DieId) (ph : Fin 24) (s : State) : Out :=
  .next (if (s.die d).reg = .on ∧ bitOf (s.die d).inService ph then s.dropPhase d ph 0 else s)

/-- The nearest in-service phase in a direction around the ring. -/
def ringNext (on : BitVec 24) (up : Bool) (i : Nat) : Nat :=
  (((List.range 24).map fun k => if up then (i + k + 1) % 24 else (i + 47 - k) % 24).find? fun j => bitOf on j).getD i

def apart (a b : Nat) : Bool := decide (24 < a - b) || decide (24 < b - a)

/-- The phases whose ripple is normal and whose current is over 2.4 A from both neighbours' (currents in 0.1 A). -/
def badSense (on ripple : BitVec 24) (cur : List Nat) : List Nat :=
  (List.range 24).filter fun i => bitOf on i && bitOf ripple i && apart (cur.getD i 0) (cur.getD (ringNext on true i) 0) &&
    apart (cur.getD i 0) (cur.getD (ringNext on false i) 0)

/-- PHASE_SENSE_CHECK (R263): currents and IBUS in 0.1 A, the output in mV. Powers are compared in 0.1 mW; the efficiency is the
regulator's own. After 100 µs of mismatch a single phase is sought. -/
def execPhaseSenseCheck (d : DieId) (currents : List Nat) (vout ibus : Nat) (ripple : BitVec 24) (s : State) : Out :=
  let x := s.die d
  let sum := ((List.range 24).map fun i => if bitOf x.inService i then currents.getD i 0 else 0).sum
  let a := sum * vout
  let b := ibus * 1800 * Config.regEff d a / 1000
  let off := decide (132 * vout < a - b) || decide (132 * vout < b - a)
  .next (if x.reg ≠ .on then s
    else if off = false then s.updDie d fun x => { x with mismatch := 0 }
    else if x.mismatch + 1 < 50 then s.updDie d fun x => { x with mismatch := x.mismatch + 1 }
    else
      let s1 := s.updDie d fun x => { x with mismatch := 0 }
      match badSense x.inService ripple currents with
      | [ph] => s1.dropPhase d ph 1
      | _ => s1.journalDev 0xC2 1 d (phaseDetail 0xFE 3 (phasesOn x.inService) false false x.phaseCap))

/-! ### Power dies (R266) -/

/-- POWER_DIE_FAULT (R266): the limits depend on how many remain. -/
def execPowerDieFault (pd : PowerDie) (s : State) : Out :=
  .next (if bitOf s.power.pdOn pd ∧ s.power.st ≠ .off then
      let on := s.power.pdOn &&& ~~~BitVec.ofNat 4 (2 ^ pd.val)
      let n := bitsOn on
      let s1 := (s.updPower fun p => { p with pdOn := on }).journalDev 0xC2 6 pd (phaseDetail 0xFF 2 n false false 0)
      if n = 2 then s1.updPower fun p => { p with susCap := some 1000, peakCap := some 1300 }
      else if n ≤ 1 then s1.offRequest 9 true else s1
    else s)

/-- A SAFETY reset of a power die (Table 17.5): only with all four in service; it rejoins within 30 ms. -/
def State.resetPowerDie (s : State) : State × Nat := if s.power.pdOn = 0xF#4 then (s, dOk) else (s, dState)

/-! ### Safety triggers (R247, R248, R267 to R270, R288) -/

/-- Rebinding, recovery and scheduling stop at the first trigger; a running package goes off at once to MIN_OFF, any other only
journals. -/
def State.trigger (s : State) (cause : Nat) : State :=
  match s.power.st with
  | .up _ => s.allOff .minOff cause
  | .on => s.allOff .minOff cause
  | .down _ => s.allOff .minOff cause
  | _ => s

/-- VIN_FAIL and overvoltage (R267, R268, R270): the record, the 32 newest unpersisted records for the last gasp, the shed. A firmware
write under way is suspended and later reported as failed (R248). -/
def State.vinLost (s : State) (high : Bool) (vin : BitVec 16) (power : W32) : State :=
  if s.power.st = .off then s
  else
    let s1 := s.journalDev 0xC0 7 0 (BitVec.ofNat 64 (bitAt high 0 + vin.toNat * 65536 + power.toNat * 2 ^ 32))
    let rs := s1.hub.unpersisted
    let s2 := s1.failDownload.updPower fun p => { p with vinOk := false, gaspBuf := rs.drop (rs.length - 32), gaspDue := true }
    s2.trigger (if high then 5 else 4)

def execVinFail (vin : BitVec 16) (power : W32) (s : State) : Out := .next (s.vinLost false vin power)
def execOvervoltage (vin : BitVec 16) (power : W32) (s : State) : Out := .next (s.vinLost true vin power)

/-- A last-gasp area (R268): at most 32 records in bytes 0 to 1,023, the slots beyond left erased, and the trailer in bytes 1,024 to
1,035. Its sequence number has no stated value and is free. -/
def gaspArea (rs : List JournalRec) (n : Nat) : GaspArea :=
  let b := (rs.take 32).flatMap journalBytes
  let body := b ++ List.replicate (1024 - b.length) 0xFF#8 ++ leBytes 4 (rs.take 32).length ++ leBytes 4 (Config.freeW32 n).toNat
  { recs := rs.take 32, bytes := body ++ leBytes 4 (crc32 body) }

/-- Whether an area's CRC holds (R268). -/
def GaspArea.intact (a : GaspArea) : Bool := decide (leNat ((a.bytes.drop 1032).take 4) = crc32 (a.bytes.take 1032))

/-- LAST_GASP_DONE (R268): the records stand in an area. -/
def execLastGaspDone (s : State) : Out :=
  .next (if s.power.gaspDue then (s.updPower fun p =>
      { p with gasp := (p.gasp ++ [gaspArea p.gaspBuf s.free]).drop (p.gasp.length - 1), gaspBuf := [], gaspDue := false }).bump
    else s)

/-- COOLANT_STOP (R247, R288): journalled with the history of COOLANT_OK. -/
def execCoolantStop (history : W64) (s : State) : Out :=
  .next (if s.power.st = .off then s
    else ((s.updPower fun p => { p with coolantOk := false }).journalDev 0xC5 7 0 history).trigger 6)

/-- THERMAL_TRIP (R288, R389): THERMTRIP_N low, the hold set, die and sensor in DETAIL. -/
def execThermalTrip (d : DieId) (sensor : BitVec 6) (s : State) : Out :=
  .next (if s.power.st = .off then s
    else ((s.updPower fun p => { p with hold := true, thermTrip := true }).journalDev 0xC4 1 d (Config.sensorDetail d sensor.toNat)).trigger 7)

/-! ### Reference clock (R393, R394) -/

/-- MGMT_CLK_SWITCH (R393). -/
def execMgmtClkSwitch (s : State) : Out := .next (if s.power.st = .off then s else s.updPower fun p => { p with mgmtRef := true })

/-- REFCLK_LOSS (R394): clocks gated, then as a SAFETY power-off without grace and idle steps. -/
def execRefclkLoss (s : State) : Out :=
  .next (if s.power.st = .off then s
    else (s.updPower fun p => { p with mgmtRef := false, hold := true, cause := 3 }).offRequest 3 false)

/-! ### The auxiliary rail and the island's boot (R252, R268, R386, R395, R397) -/

/-- AUX_START (R252, Table 11.5): the auxiliary rail is up and the island boots; the package enters STANDBY with ISLAND_BOOT_DONE. -/
def execAuxStart (s : State) : Out :=
  .next (if s.power.st = .off then (s.updPower fun p => { p with aux := true }).updMgmt fun m => { m with up := false } else s)

/-- AUX_STOP (R252, R254, Table 17.5): OFF; the island's state goes too, what is persisted stays. A last gasp not yet complete is torn. -/
def execAuxStop (s : State) : Out :=
  let s1 := s.dropDownload.islandRestart.allOff .off s.power.cause
  .next { s1 with
    power := { Power.reset with
      st := .off, aux := false, powerUps := s.power.powerUps, gasp := s.power.gasp, gaspTorn := s.power.gaspTorn || s.power.gaspDue },
    mgmt := { Mgmt.reset with
      up := false, od := s1.mgmt.od.filter (fun e => isPersisted (e.1 / 256) (e.1 % 256)), keys := s1.mgmt.keys },
    mons := [],
    hub := s1.hub.auxLost,
    kraox := Kraox.reset,
    maint := { Maint.reset with
      comps := s1.maint.comps, excluded := s1.maint.excluded, retired := s1.maint.retired, repairLog := s1.maint.repairLog,
      banks := s1.maint.banks, storeWrites := s1.maint.storeWrites, storeVer := s1.maint.storeVer, migrating := s1.maint.migrating },
    hosts := s1.hosts.map fun e => (e.1, { e.2 with hrdy := .reset }) }

/-- The records of the intact last-gasp areas join the persistent journal, but for those that stand there already, and the areas are
erased; SEQ goes on from the highest (R243, R268). -/
def State.readGasp (s : State) : State :=
  let rs := (s.power.gasp.filter GaspArea.intact).flatMap (·.recs)
  let s1 := rs.foldl (fun s r => if s.hub.persistent.any fun x => x.seq = r.seq then s else s.updHub fun h => h.persist r) s
  let s2 := s1.updHub fun h => { h with seq := h.persistent.foldl (fun m r => if m.toNat < r.seq.toNat then r.seq else m) h.seq }
  let s3 := s2.updPower fun p => { p with gasp := [], gaspTorn := false }
  if s.power.gaspTorn ∨ (s.power.gasp.any fun a => !a.intact) then s3.journalDev 0xC0 7 0 0x100 else s3

/-- ISLAND_BOOT_DONE (R346, R386, R390, R397): straps and persisted values are read, the areas checked and erased, the store migrated to
this firmware's layout, and slots that do not verify give way. Unacknowledged records are counted from the persistent journal. -/
def execIslandBootDone (nid : BitVec 5) (s : State) : Out :=
  .next (if s.power.aux = false ∨ s.mgmt.up then s
    else
      let s0 := s.updPower fun p => { p with st := if p.st = .off then .standby else p.st }
      let s1 := s0.readGasp
      let id := s.mgmt.obj 0x1100 2
      let s2 := s1.updMgmt fun m => { m with up := true, strap := nid, nodeId := if id = 0xFF then nid.toNat else id, csma := false,
                                             od := Sparse.erase m.od (objKey 0x8010 1) }
      let s3 := s2.updHub fun h =>
        { h with unacked := h.recordsAfter h.acked.toNat }
      (s3.bootSlots.updMaint fun m =>
        if m.storeVer = Config.storeVersion then m else { m with storeVer := Config.storeVersion, storeWrites := m.storeWrites + 2 }).startUp)

end Sys2Proof.Machine
end

