-- ==== Sys2Proof/Machine/PowerControl.lean ====
section
/-! DEFINITION. Power estimation, operating points, the peak, sustained and thermal loops, ballast, the start ramp, pace coupling and
telemetry monitors (R274 to R297, Tables 12.1 to 12.8). Energies are in nJ, temperatures in °C, times in µs. -/

namespace Sys2Proof.Machine

/-! ### Estimation (R274 to R276, Table 12.1) -/

/-- Entry of counter k of an array die in the reading: 0 to 15 stand once per core, 16 to 31 once. -/
def actAt (counts : List Nat) (core k : Nat) : Nat := if k < 16 then counts.getD (16 * core + k) 0 else counts.getD (48 + k) 0

/-- A die's reading (R274): what its circuits have counted since the last, and the counters of its cores' own commands. -/
def State.reading (s : State) (d : Nat) (counts : List Nat) : List Nat :=
  if d < 20 then (List.range 80).map fun e =>
    counts.getD e 0 + if e < 64 then Sparse.get (s.core ((dieCores d).getD (e / 16) 0)).acts 0 (e % 16) else 0
  else counts

/-- Reading clears the counters (R274). -/
def State.clearActs (s : State) (d : Nat) : State := (dieCores d).foldl (fun s c => s.updCore c fun k => { k with acts := [] }) s

/-- Weighted events of a set of counters, in 0.1 pJ at 0.75 V; counters 29 to 31 of an array die are reserved and count 0. -/
def actSum (d : Nat) (ks : List Nat) (cnt : Nat → Nat) : Nat := (ks.map fun k => if d < 20 ∧ 29 ≤ k then 0 else wgt d k * cnt k).sum

/-- The largest number below 2^b above `acc` whose twentieth power is at most q, by bits. -/
def root20 (q : Nat) : Nat → Nat → Nat
  | 0, acc => acc
  | b + 1, acc => root20 q b (if (acc + 2 ^ b) ^ 20 ≤ q then acc + 2 ^ b else acc)

/-- Leakage energy over 2 µs in 0.1 pJ, cut off to whole units (R275): LK is in 10 mW, so LK at 0.75 V and 85 °C is 200,000 units; the
voltage is (200 + code) / 400 V, so v / 0.75 is (200 + code) / 300; the twentieth power turns 2^((t - 85) / 20) into 2^(t - 85). -/
def leakEnergy (d volt : Nat) (celsius : Int) : Nat :=
  let n := (Config.lk d % 65536 * 200000 * (200 + volt) ^ 3) ^ 20
  let up := (celsius - 85).toNat
  let down := (85 - celsius).toNat
  root20 (n * 2 ^ up / (27000000 ^ 20 * 2 ^ down)) 64 0

/-- Energy in nJ of x units of 0.1 pJ of dynamic energy at 0.75 V and y of leakage, at a voltage code and GCORR (R275): s is
(200 + code)² / 300². -/
def energyOf (s : State) (volt x y : Nat) : Nat :=
  roundQ ((x * (200 + volt) ^ 2 + y * 90000) * s.power.gcorr.1) (90000 * 10000 * s.power.gcorr.2)

/-- A die's estimate over 2 µs (R275). -/
def State.dieEnergy (s : State) (d : Nat) (counts : List Nat) (celsius : Int) : Nat :=
  let v := (s.die d).volt
  let x := if d < 20 then
      ((List.range 4).map fun i => actSum d (List.range 16) (actAt counts i)).sum + actSum d ((List.range 16).map (16 + ·)) (actAt counts 0)
    else actSum d (List.range 32) fun k => counts.getD k 0
  energyOf s v x (leakEnergy d v celsius)

/-- The package input for a sum of die energies: divided by the fused efficiency at that load, in 0.5% (R275). -/
def inputEnergy (sum : Nat) : Nat :=
  let p := Config.loadPoint sum
  roundQ (sum * 200) (max 1 (Config.eta (p.1 % 21) (p.2 % 16) % 256))

/-- The ballast in a die's reading: counter 23. -/
def State.ballastEnergy (s : State) (d : Nat) (counts : List Nat) : Nat :=
  if d < 20 then energyOf s (s.die d).volt (actSum d [23] (actAt counts 0)) 0 else 0

/-- Whether a core runs an invocation. -/
def Hub.inInvocation (h : Hub) (c : Nat) : Bool := h.invs.any fun v => decide (c ∈ v.busy)

/-- The energy of core i of a die over the interval (R276): a quarter of the leakage while it runs an invocation. -/
def State.coreShare (s : State) (d i : Nat) (counts : List Nat) (celsius : Int) : Nat :=
  let v := (s.die d).volt
  let c := (dieCores d).getD i 0
  roundQ ((actSum d (List.range 16) (actAt counts i) * (200 + v) ^ 2 * 4 +
      (if s.hub.inInvocation c then leakEnergy d v celsius * 90000 else 0)) * s.power.gcorr.1) (4 * 90000 * 10000 * s.power.gcorr.2)

/-- Each core's 64-bit energy counter and the core energy of the epoch (R276, R283). -/
def State.addCoreEnergy (s : State) (d : Nat) (counts : List Nat) (celsius : Int) : State :=
  if 20 ≤ d then s
  else (List.range 4).foldl (fun a i =>
    let e := s.coreShare d i counts celsius
    let c := (dieCores d).getD i 0
    a.updPower fun p => { p with coreE := Sparse.set p.coreE 0 c ((Sparse.get p.coreE 0 c + e) % 2 ^ 64), epochCore := p.epochCore + e }) s

/-! ### Requests and grants (R280, R281) -/

/-- A live hint: its core in RUN with phase left. -/
def CoreState.liveHint (k : CoreState) : Option (Nat × Nat) := if k.st = .run then k.hint.filter fun h => decide (0 < h.2) else none

/-- Live hints of a die's cores: operating point and µs left. -/
def State.hintsOf (s : State) (d : Nat) : List (Nat × Nat) := (dieCores d).filterMap fun c => (s.core c).liveHint

/-- 2 µs of each hint spent; a hint of a core out of RUN has lapsed. -/
def State.ageHints (s : State) (d : Nat) : State :=
  (dieCores d).foldl (fun s c => s.updCore c fun k => { k with hint := (k.liveHint.map fun h => (h.1, h.2 - 2)).filter fun h => decide (0 < h.2) }) s

/-- A die with a Kraox or host port up on one of its half-links or lanes. -/
def State.edgeUp (s : State) (d : Nat) : Bool :=
  ((List.range 6).any fun p => (s.port p).live && [false, true].any fun h => decide (kxDie p h = d) && ((s.port p).half h).up) ||
    (List.range 2).any fun p => (s.host p).perstN && decide (0 < (s.host p).width) && (List.range 16).any fun l => decide (hostDie p l = d)

/-- The request (R281). Until no core has run for 200 µs, a die whose cores have stopped keeps its request. -/
def State.requestOf (s : State) (d idle : Nat) : Nat :=
  if d = 20 then s.mgmt.obj 0x2100 5
  else
    let hs := s.hintsOf d
    let base :=
      if hs ≠ [] then (hs.map (·.1)).foldl max 0
      else if idle = 0 then s.mgmt.obj 0x2100 1
      else if 100 ≤ idle then s.mgmt.obj 0x2100 3
      else (s.die d).request
    if s.edgeUp d then max base (s.mgmt.obj 0x2100 4) else base

/-- The grant (R280): the lowest of the request and the caps. -/
def DieState.grantOf (x : DieState) (request highest : Nat) : Nat :=
  min request (min x.peakCeil (min x.thermCap (min x.phaseCap (min highest x.paceCeil))))

/-- THERM_THROTTLE when the grant falls below the request through the thermal cap (R285): the first time, and later when a second has
passed, which the environment knows. -/
def State.noteThrottle (s : State) (d : Nat) : State :=
  let x := s.die d
  let now := decide (x.thermCap < x.request) && decide (x.grant = x.thermCap)
  if now = x.throttled then s
  else if now = false then s.updDie d fun x => { x with throttled := false }
  else
    let s1 := (s.updDie d fun x => { x with throttled := true, thrEver := true }).bump
    if x.thrEver = false ∨ Config.freeNat s.free % 2 = 1 then s1.journalDev 0xC3 1 d (Config.causeCode 3) else s1

/-! ### Moves (R278, R279) -/

/-- The voltage the die needs: that of its grant, of its present point, and of a PLL step under way. -/
def DieState.needs (x : DieState) (d : Nat) : Nat := max (max (vop d x.grant) (vop d x.point)) (vop d (x.move.pll.getD 0))

/-- The move after a change (R278, R279). A PLL step begun completes. A ramp under way turns toward the new requirement, never below the
voltage of the present frequency; one begins where the voltage is too low, or once a lower point is reached. A point above the grant
steps down at once; a step up waits for the voltage. -/
def DieState.nextMove (x : DieState) (d : Nat) : Move :=
  let v := x.needs d
  let ramp := match x.move.ramp with
    | some _ => some v
    | none => if x.volt < v ∨ (x.point = x.grant ∧ x.move.pll = none ∧ x.volt ≠ v) then some v else none
  let pll := match x.move.pll with
    | some q => some q
    | none =>
      if x.grant < x.point then some (x.point - 1)
      else if x.point < x.grant ∧ ramp = none then some (x.point + 1) else none
  { ramp := ramp, pll := pll }

/-- The die with its next move. -/
def DieState.replan (x : DieState) (d : Nat) : DieState := { x with move := x.nextMove d }

/-- PLL_STEP_DONE (R278): the step's point is in force. -/
def execPllStepDone (d : DieId) (s : State) : Out :=
  .next (match (s.die d).move.pll with
    | some q => s.updDie d fun x => ({ x with point := q, move := { x.move with pll := none } } : DieState).replan d
    | none => s)

/-- VOLTAGE_SETTLED (R278). -/
def execVoltageSettled (d : DieId) (s : State) : Out :=
  .next (match (s.die d).move.ramp with
    | some v => s.updDie d fun x => ({ x with volt := v, move := { x.move with ramp := none } } : DieState).replan d
    | none => s)

/-! ### Slew envelope, ballast and work level (R289 to R291) -/

/-- 9.5 W per 10 µs is 1.9 W per interval, 3,800 nJ over 2 µs. -/
def envelope : Nat := 3800

/-- µs to a barrier's expected release: every member that has not arrived has sent a BPREP. -/
def Barrier.expected (b : Barrier) : Option Nat :=
  let away := b.members.filter fun m => decide (m ∉ b.arrived)
  if away.isEmpty then none
  else if away.all fun m => b.bpreps.any fun x => decide (x.1 = m) then
    some (((b.bpreps.filter fun x => decide (x.1 ∈ away)).map (·.2)).foldl max 0)
  else none

/-- µs to the earliest expected release of a barrier with a member on the die. -/
def State.releaseIn (s : State) (d : Nat) : Option Nat :=
  let rs := s.hub.barriers.filterMap fun b => if b.members.any fun m => decide (coreDie m = d) then b.expected else none
  match rs with
  | [] => none
  | r :: rest => some (rest.foldl min r)

/-- Whether a core of the die has arrived at a barrier that still waits. -/
def State.waitsAtBarrier (s : State) (d : Nat) : Bool :=
  s.hub.barriers.any fun b => b.arrived.any (fun m => decide (coreDie m = d)) && decide (b.arrived.length < b.members.length)

/-- The total aimed at for the next interval: no faster fall than the envelope, and the rise to the work level from the latest moment at
which the envelope's rate still reaches it (R290, R291). -/
def State.aim (s : State) (d real prev : Nat) : Nat :=
  let low := max real (prev - envelope)
  match (s.die d).work, s.releaseIn d with
  | some w, some r => if w ≤ low then low else if envelope * r ≤ 2 * (w - (prev - envelope)) then max low (min w (prev + envelope)) else low
  | _, _ => low

/-- BALLAST_UPDATE (R290, R282): the ballast for the next interval; it does not grow while the peak loop holds it. A fall faster than the
envelope is a breach. -/
def State.ballastStep (s : State) (d e real : Nat) : State :=
  let x := s.die d
  let want := s.aim d real e - real
  let b := if s.power.stopGrow then min want x.ballast else want
  let work := if s.waitsAtBarrier d then (match x.work with
      | some w => some w
      | none => if x.recent = [] then none else some (x.recent.sum / x.recent.length)) else none
  let recent := (x.recent ++ [e]).drop ((x.recent ++ [e]).length - 50)
  let s1 := s.updDie d fun x => { x with ballast := b, total := e, work := work, recent := recent }
  if envelope < x.total - e then s1.updPower fun p => { p with breaches := p.breaches + 1 } else s1

/-! ### Pace coupling, the sender (R294, R318) -/

/-- The root multiplier of an operating point (Table 0.7): 100 MHz each. -/
def rootMul (op : Nat) : Nat := [12, 24, 30, 36, 39, 42, 45, 48].getD op 48

/-- µs left of the highest requesting core's hint. -/
def State.hintLeft (s : State) (d : Nat) : Option Nat :=
  let hs := s.hintsOf d
  let top := (hs.map (·.1)).foldl max 0
  (hs.find? fun (h : Nat × Nat) => decide (h.1 = top)).map (·.2)

/-- Whether a peak ceiling, thermal cap or phase cap holds a die's grant below its request. -/
def DieState.capped (x : DieState) : Bool :=
  decide (x.grant < x.request) && decide (min x.peakCeil (min x.thermCap x.phaseCap) ≤ x.grant)

/-- The lateness of a die, where one is defined. -/
def State.lateness (s : State) (d : Nat) : Option Nat :=
  let x := s.die d
  if x.capped then (s.hintLeft d).map fun r => min 65535 (r * (rootMul x.request - rootMul x.grant) / rootMul x.grant) else none

/-- PACE_SEND (R294): a change of more than 10%, at most once per 100 µs; 0 when no cap applies any longer. -/
def State.paceSend (s : State) (d : Nat) : State :=
  let x := s.die d
  let send := fun l : Nat =>
    (s.updDie d fun x => { x with lastPace := l, sincePace := 0 }).sendTree 2 0x06 (s.kraox.nbrs 0) (Config.msgWord 6 l 0 0) []
  if s.job = 0 then s
  else if x.capped = false then
    if x.lastPace = 0 then s
    else if (List.range 21).any fun e => decide (e ≠ d) && decide ((s.die e).lastPace ≠ 0) then s.updDie d fun x => { x with lastPace := 0 }
    else send 0
  else match s.lateness d with
    | none => s
    | some l =>
      let moved := decide (x.lastPace < 10 * (l - x.lastPace)) || decide (x.lastPace < 10 * (x.lastPace - l))
      if s.mgmt.obj 0x2100 6 ≤ l ∧ moved ∧ 50 ≤ x.sincePace then send l else s

/-- ESTIMATION_INTERVAL (R274 to R281, R290, R294): `cycles` holds what the die's circuits have counted of its counters 0 to 15 for each
of its four cores, then 16 to 31, or of the hub die's 32. -/
def execEstimationInterval (d : DieId) (cycles : List Nat) (celsius : Int) (s0 : State) : Out :=
  .next (if (s0.die d).runs = false then s0
    else
      let counts := s0.reading d cycles
      let s := s0.clearActs d
      let e := s.dieEnergy d counts celsius
      let real := e - s.ballastEnergy d counts
      let s1 := ((s.addCoreEnergy d counts celsius).ballastStep d e real).ageHints d
      let idle := if (dieCores d).any fun c => decide ((s1.core c).st = .run) then 0 else min 100 ((s1.die d).idleFor + 1)
      let req := s1.requestOf d idle
      let s2 := s1.updDie d fun x =>
        let y : DieState := { x with eDie := e, idleFor := idle, request := req, grant := x.grantOf req (s.mgmt.obj 0x2100 2),
                                     sincePace := min 50 (x.sincePace + 1) }
        y.replan d
      (s2.noteThrottle d).paceSend d)

/-! ### The peak and sustained loops (R282, R283) -/

def Power.peak (p : Power) : Nat := p.peakCap.getD 2000
def State.sus (s : State) : Nat := match s.power.susCap with | some c => min c (s.mgmt.obj 0x2000 1) | none => s.mgmt.obj 0x2000 1

/-- The last n entries of the window of 2 µs input energies. -/
def Power.last (p : Power) (n : Nat) : Nat := (p.window.drop (p.window.length - n)).sum

/-- A 2 µs input energy into the window and the 1 ms buckets. -/
def Power.feed (p : Power) (e : Nat) : Power :=
  let w := p.window ++ [e]
  let f := (p.fillE.1 + e, p.fillE.2 + 1)
  let bs := p.buckets ++ [f.1]
  { p with window := w.drop (w.length - 1000), epochIn := p.epochIn + e,
           fillE := if f.2 = 500 then (0, 0) else f,
           buckets := if f.2 = 500 then bs.drop (bs.length - 250) else p.buckets }

/-- Step down: every die whose grant is above OP1. -/
def State.stepDown (s : State) : State :=
  let s1 := (List.range 21).foldl (fun s d => s.updDie d fun x =>
    if x.runs ∧ 1 < x.grant then { x with peakCeil := min x.peakCeil (x.point - 1), sinceUp := 0 } else x) s
  s1.updPower fun p => { p with stepDowns := p.stepDowns + 1, stopGrow := true }

/-- Step up: one point each 100 µs, 50 ticks. -/
def State.stepUp (s : State) : State :=
  (List.range 21).foldl (fun s d => s.updDie d fun x =>
    if x.peakCeil < 7 then
      if 50 ≤ x.sinceUp + 1 then { x with peakCeil := x.peakCeil + 1, sinceUp := 0 } else { x with sinceUp := x.sinceUp + 1 }
    else x) s

/-- 2 µs of every BPREP's lead spent (R291). -/
def Hub.ageBpreps (h : Hub) : Hub := { h with barriers := h.barriers.map fun b => { b with bpreps := b.bpreps.map fun x => (x.1, x.2 - 2) } }

/-- PEAK_LOOP_TICK (R282): A2 over 1,000 ticks and A100 over 50, in nJ: a watt is 2,000 nJ per tick. -/
def execPeakLoopTick (s : State) : Out :=
  .next (if s.power.busOn = false then s
    else
      let sum := ((List.range 21).map fun d => if (s.die d).runs then (s.die d).eDie else 0).sum
      let s1 := (s.updPower fun p => p.feed (inputEnergy sum + 30000)).updHub Hub.ageBpreps
      let a2 := s1.power.last 1000
      let a100 := s1.power.last 50
      let peak := s1.power.peak
      if (peak - 50) * 2000000 < a2 ∨ 2300 * 100000 < a100 then s1.stepDown
      else
        let s2 := s1.updPower fun p => { p with stopGrow := false }
        if a2 < (peak - 200) * 2000000 ∧ a100 < 2100 * 100000 then s2.stepUp
        else (List.range 21).foldl (fun s d => s.updDie d fun x => { x with sinceUp := 0 }) s2)

/-- The budget of R283 in µJ, computed in pJ: 25 µs × cap - o, not below 0. -/
def State.budgetOf (s : State) : Nat :=
  let p := s.power
  let h : Int := (s.sus * 250000000 : Nat) - (p.buckets.sum : Int)
  let cap : Int := min (25000000 * p.peak : Nat) ((25000000 * s.sus : Nat) + h)
  let o : Int := (p.lastIn : Int) - p.lastCore
  (max 0 ((cap - 1000 * o) / 1000000)).toNat

/-- BUDGET_GRANT (R283, R211, Table 9.11): a late grant is journalled and the previous budget used again. -/
def execBudgetGrant (late : Bool) (s : State) : Out :=
  .next (if late then s.journalBare 0xA3 2 0
    else (s.updPower fun p => { p with budget := s.budgetOf }).updHub fun h => { h with granted := some s.budgetOf })

/-- GCORR_UPDATE (R277): `measured` is the energy of the 250 ms in nJ by the valid samples; kept when fewer than half are valid. -/
def execGcorrUpdate (measured valid total : Nat) (s : State) : Out :=
  let est := s.power.buckets.sum
  .next (if 2 * valid < total ∨ est = 0 then s
    else s.updPower fun p => { p with gcorr :=
      if 10 * measured < 9 * est then (9, 10) else if 11 * est < 10 * measured then (11, 10) else (measured, est) })

/-! ### The thermal loop (R285 to R287) -/

/-- A list sorted upward by insertion. -/
def insertInt (x : Int) : List Int → List Int
  | [] => [x]
  | y :: r => if x ≤ y then x :: y :: r else y :: insertInt x r

/-- Sensors valid for the thermal loop (R287): within -40 and 150 °C and within 25 °C of the median, the mean of the middle two. -/
def validSensors (ts : List Int) : List Int :=
  let so := ts.foldr insertInt []
  let m2 := so.getD 31 0 + so.getD 32 0
  ts.filter fun t => decide (-40 ≤ t) && decide (t ≤ 150) && decide (2 * t - m2 ≤ 50) && decide (m2 - 2 * t ≤ 50)

/-- The thermal cap after a loop at the hottest valid sensor (R285, R286). -/
def capAfter (cap grant : Nat) (t : Int) : Nat :=
  if 105 ≤ t then 1 else if 95 ≤ t then max 1 (min cap grant - 1) else if 90 ≤ t then cap else min 7 (cap + 1)

/-- THERMAL_LOOP (R285, R287): a die with more than 16 invalid sensors is capped at OP2, journalled as that begins. -/
def execThermalLoop (d : DieId) (sensors : List Int) (s : State) : Out :=
  .next (if (s.die d).runs = false then s
    else
      let ts := (List.range 64).map fun i => sensors.getD i 0
      let ok := validSensors ts
      let bad := 64 - ok.length
      let x := s.die d
      let cap := match ok with
        | [] => x.thermCap
        | t :: rest => capAfter x.thermCap x.grant (rest.foldl max t)
      let hot := match ok with
        | [] => none
        | t :: rest => some (rest.foldl max t)
      let s1 := s.updDie d fun x => { x with thermCap := if 16 < bad then min 2 cap else cap, hottest := hot, invalid := bad }
      if 16 < bad ∧ x.invalid ≤ 16 then s1.journalDev 0xC3 1 d (Config.causeCode 5) else s1)

/-- THERMAL_LIMIT (R286): OP1 at once. -/
def execThermalLimit (d : DieId) (_sensor : BitVec 6) (s : State) : Out :=
  .next (if (s.die d).runs = false then s
    else (s.updDie d fun x => { x with thermCap := 1 }).journalDev 0xC3 1 d (Config.causeCode 4))

/-! ### The start ramp (R292, R293) -/

/-- Whether a pass command waits at the die's ramp: staged and not yet running. -/
def State.rampWaits (s : State) (d : Nat) : Bool :=
  (dieCores d).any fun c => match (s.core c).pass with
    | some r => decide (r.phase = .staged)
    | none => false

/-- RAMP_UPDATE (R292): R is the largest running count of the last 1 µs, four updates; while held the allowance does not rise (R293). -/
def execRampUpdate (d : ArrayDie) (s : State) : Out :=
  let x := s.die d
  let rs := x.recentMax ++ [s.runningMacros d]
  let seen := rs.drop (rs.length - 4)
  let r := seen.foldl max 0
  let v := if s.rampWaits d then min 256 (max (16 + r) (x.allowance + 15)) else 16 + r
  .next (s.updDie d fun x => { x with recentMax := seen, allowance := if s.kraox.rampHold then min v x.allowance else v })

/-- RAMP_HOLD_EXPIRE (R293). -/
def execRampHoldExpire (s : State) : Out := .next (s.updKraox fun k => { k with rampHold := false })

/-! ### Pace coupling, the receiver (R295) -/

/-- The lowest point whose root frequency is at least f_own · R / (R + L). -/
def paceCeil (op r l : Nat) : Nat := ((List.range 8).find? fun p => decide (rootMul op * r ≤ rootMul p * (r + l))).getD 7

/-- What the policy does with a lateness; a pace ceiling ends on 0. -/
def State.pacePolicy (s : State) (l : Nat) : State :=
  if l = 0 then (List.range 21).foldl (fun s d => s.updDie d fun x => { x with paceCeil := 7 }) (s.updPower fun p => { p with slack := 0 })
  else match s.mgmt.obj 0x2100 7 with
    | 0 => (List.range 20).foldl (fun s d => match s.hintLeft d with
        | some r => s.updDie d fun x => { x with paceCeil := paceCeil x.point r l }
        | none => s) s
    | 1 => (s.updPower fun p => { p with slack := Config.freeNat s.free }).bump
    | _ => s

/-- PACE_RECEIVED (R295, R318): the policy of OD 2100.07; the anchor logs each message and raises an event. The slack that FILL counts
has no stated size and is free. -/
def execPaceReceived (src : BitVec 13) (lateness : BitVec 16) (s : State) : Out :=
  let s1 := if s.kraox.anchor = some (BitVec.ofNat 13 s.devId) then
      (s.updKraox fun k => { k with paceLog := k.paceLog ++ [(src.toNat, lateness.toNat)] }).event 0x06 0x7200 9 0
    else s
  .next (if s.job = 0 then s else s1.pacePolicy lateness.toNat)

/-- PACE_CEILING_EXPIRE (R295): 10 ms are over. -/
def execPaceCeilingExpire (s : State) : Out :=
  .next ((List.range 21).foldl (fun s d => s.updDie d fun x => { x with paceCeil := 7 }) (s.updPower fun p => { p with slack := 0 }))

/-- OPHINT_EXPIRE (R281): PHASE µs have passed. -/
def execOphintExpire (c : CoreId) (s : State) : Out := .next (s.updCore c fun k => { k with hint := none })

/-! ### Telemetry monitors (R296, R297, Tables 12.6 and 12.7) -/

def State.mon (s : State) (m : Nat) : Monitor := Sparse.get s.mons Monitor.reset m
def State.setMon (s : State) (m : Nat) (v : Monitor) : State := { s with mons := Sparse.set s.mons Monitor.reset m v }

/-- The value TMCFG takes from a write: reserved bits read 0, a reserved OSR keeps the one in force. -/
def tmcfgOf (old v : W32) : W32 :=
  let osr := if fld v 20 18 < 4 then v &&& 0x001C0000#32 else old &&& 0x001C0000#32
  (v &&& 0x8FE00000#32) ||| osr

/-- The write's effect (R297): a change of CHAN, GAIN, FILT or OSR, or EN set, makes the next 3 or 4 samples invalid. -/
def State.actTmcfg (s : State) (m : Nat) (v : W32) : State :=
  let x := s.mon m
  let c := tmcfgOf x.cfg v
  let restart := decide (c &&& 0x0FFC0000#32 ≠ x.cfg &&& 0x0FFC0000#32) || (bitOf c 31 && !bitOf x.cfg 31)
  s.setMon m { x with cfg := c, skip := if restart then (if bitOf c 21 then 4 else 3) else x.skip }

/-- TMCFG_WRITE (R296): PM0 to PM3, HM0 and HM1 by power control only; HM2 and HM3 through the OD 2300 range, by the island. -/
def execTmcfgWrite (m : Fin 8) (by_ : HubAgent) (v : W32) (s : State) : Out :=
  .next (if (m.val < 6 ∧ by_ = .powerControl) ∨ (6 ≤ m.val ∧ (by_ = .island ∨ by_ = .management)) then s.actTmcfg m v else s)

/-- MONITOR_SAMPLE (R296, R297): the sample of the channel in force; VALID once the filter has settled. -/
def execMonitorSample (m : Fin 8) (value : BitVec 24) (ovr : Bool) (s : State) : Out :=
  let x := s.mon m
  .next (if bitOf x.cfg 31 = false then s
    else
      let ok := decide (x.skip = 0)
      let d := BitVec.ofNat 32 (bitAt ok 31 + bitAt ovr 30 + fld x.cfg 27 24 * 2 ^ 24 + value.toNat)
      s.setMon m { x with data := d, skip := x.skip - 1, last := if ok then d else x.last })

end Sys2Proof.Machine
end

