-- ==== Sys2Proof/Machine/Scratch.lean ====
section
/-! DEFINITION. Register writes without a row of their own: a core's windows and a host port's BAR0 (R131, R334, Tables 6.1, 9.4, 14.3,
14.4). -/

namespace Sys2Proof.Machine

/-! ### Ring contexts (Table 9.4) -/

/-- A log of a ring size: 6 to 16, other values keep the field (R9). -/
def keepLog (old new : Byte) : Byte := if 6 ≤ new.toNat ∧ new.toNat ≤ 16 then new else old

/-- The fields of a merged context that take effect at once: the bases, logs, CQR and VEC only while EN is 0; CTL always. Heads of the
submission ring and tails of the completion ring are the hub's. -/
def Ring.write (r : Ring) (b : List Byte) : Ring :=
  let n := fun o k : Nat => leNat ((b.drop o).take k)
  let r1 := if r.en then r
    else { r with
      sqBase := BitVec.ofNat 64 (n 0 8 / 64 * 64), cqBase := BitVec.ofNat 64 (n 8 8 / 64 * 64),
      sqLog := keepLog r.sqLog (b.getD 0x10 0), cqLog := keepLog r.cqLog (b.getD 0x11 0),
      cqr := if n 0x12 1 < 64 then b.getD 0x12 0 else r.cqr,
      vec := if n 0x14 2 < 64 then BitVec.ofNat 16 (n 0x14 2) else r.vec }
  let ctl := n 0x13 1
  { r1 with en := bit ctl 7, part := Fin.ofNat 16 (ctl % 16) }

/-- Bytes laid over a register's own. -/
def overlay (old : List Byte) (o : Nat) (bs : List Byte) : List Byte := (old.take o ++ bs.take (old.length - o)) ++ old.drop (o + bs.length)

/-- A write of bytes at an offset of ring r's context through port p: nothing when the port does not serve it. Doorbells act when their
bytes are covered. -/
def State.ringWrite (s : State) (p r o : Nat) (bs : List Byte) : State :=
  if s.portOfRing r ≠ p then s
  else
    let old := (s.hub.ring r).bytes
    let b := overlay old o bs
    let n := fun o k : Nat => leNat ((b.drop o).take k)
    let cov := fun a : Nat => decide (o < a + 4) && decide (a < o + bs.length)
    let s1 := s.updHub fun h => h.updRing r fun x => x.write b
    let s2 := if cov 0x18 then s1.writeSqTail r (BitVec.ofNat 32 (n 0x18 4)) else s1
    if cov 0x20 then s2.writeCqHead r (BitVec.ofNat 32 (n 0x20 4)) else s2

/-! ### BAR0 (Table 14.3) -/

/-- A register block whose layout CXL or PCI defines and this spec does not: what its covered bytes hold afterwards is free. -/
def State.outsideRegs (s : State) (p o n : Nat) : State :=
  (s.updHost p fun h => { h with regs := h.regs.writeL o (freeBytes s.free n) }).bumpN n

/-- DEVSTAT: bits 3:0 are cleared by 1, the rest is read only (Table 14.4). -/
def State.devstatWrite (s : State) (p : Nat) (v : Byte) : State :=
  s.updHost p fun h => { h with devstat := h.devstat &&& ~~~(v.setWidth 4) }

/-- A write of BAR0; unlisted offsets are reserved (R9, R334), and the pending bits are read only. -/
def State.barWrite (s : State) (p o : Nat) (bs : List Byte) : State :=
  if o < 0x12000 then s.outsideRegs p o bs.length
  else if 0x20000 ≤ o ∧ o < 0x21000 then s.ringWrite p ((o - 0x20000) / 64) (o % 64) bs
  else if 0x30000 ≤ o ∧ o < 0x30480 then s.outsideRegs p o bs.length
  else if o = 0x40000 then s.devstatWrite p (bs.getD 0 0)
  else s

/-! ### A core's windows (R130, R131) -/

/-- A write by an engine: the checks of R144 and R131, a wait, or the merged write. Scratchpad bytes are stored as bytes. -/
def State.engineWrite (s : State) (c : Nat) (e : Eng) (a : Nat) (bs : List Byte) : State :=
  let op : Operand := { ent := none, base := a, lo := a, hi := a + bs.length, rd := false, wr := true, aligned := true }
  let win := decide (e = .le) || decide (e = .se) || decide (e = .ve)
  let f := s.checkOps c win [op]
  if f ≠ 0 then s.answer f.toNat []
  else if 0x04000000 ≤ a ∧ ((s.core c).writeWaits a bs.length = true) then s
  else if 0x04000000 ≤ a then (s.winWrite c false .program a bs).answer 0 []
  else
    let r := (s.core c).spWrite bs.length a bs
    match r.2 with
    | some x => ((s.setCore c r.1).parityAt c (portOf e) c x).answer fSpParity.toNat []
    | none => (s.setCore c r.1).answer 0 []

/-- A write by the hub; outside every region it fails with SP_ADDR, and it waits as a core's own does (R74, R90, Table 2.6). -/
def State.hubWrite (s : State) (c a : Nat) (bs : List Byte) : State :=
  if 0x04000000 ≤ a then
    match regionFor a (a + bs.length) with
    | none => s.answer fSpAddr.toNat []
    | some _ => if (s.core c).writeWaits a bs.length then s else (s.winWrite c true .loader a bs).answer 0 []
  else if a + bs.length ≤ 0x03000000 then (s.setCore c ((s.core c).spWrite bs.length a bs).1).answer 0 []
  else s.answer fSpAddr.toNat []

/-- REGISTER_WRITE (R131, R334): a BAR0 write comes from the host, whoever is named. An empty write changes nothing. -/
def execRegisterWrite (t : RegTarget) (w : RegWriter) (data : List Byte) (s : State) : Out :=
  .next (if data.isEmpty then s
    else match t, w with
    | .bar0 p o, _ => s.barWrite p o.toNat data
    | .core c a, .engine e => s.engineWrite c e a.toNat data
    | .core c a, .hub => s.hubWrite c a.toNat data)

end Sys2Proof.Machine
end

