-- ==== Sys2Proof/Machine/Maintenance.lean ====
section
/-! DEFINITION. March tests, the localising test, scrub, phase calibration and the steps of boot (R56, R371 to R378, R396, R397, Tables
16.1 and 17.6). -/

namespace Sys2Proof.Machine

/-! ### Units of a march test (R372, OD 9000.02) -/

/-- The partition that holds a core, where one does. -/
def Hub.holderOf (h : Hub) (c : Nat) : Option Nat :=
  (List.range 16).find? fun p => decide ((h.part p).st ≠ 0) && bitOf (h.part p).cores c

/-- Whether a unit may be tested: kinds 0 bank (64 to 67 the spare banks), 1 macro, 2 commons bank, 3 region. -/
def State.marchable (s : State) (kind mode c u : Nat) : Bool :=
  let k := s.core c
  let free := decide (s.hub.holderOf c = none)
  match kind with
  | 0 => decide (u < 68) && (free || (decide (64 ≤ u) && !bitOf (k.spspare (u - 64)) 31 && (Sparse.find? k.spareCopy (u - 64)).isNone))
  | 1 => decide (u < 72) && (free || decide ((s.mac c u).st = .offline) || decide ((s.mac c u).st = .retired))
  | 2 => decide (u < 64) && decide (s.hub.owner (5 + u) = none)
  | _ => decide (u < 48) && (free || !bitOf (k.spown u) 31 || (decide (mode = 0) && !(s.hub.programs.any fun g => decide (c ∈ g.lcores))))

/-- A destructive test takes what its units held: it leaves a bank at 0, rows of macros are U, regions are scrubbed before they are used
again (R142). -/
def State.wreck (s : State) (kind c u : Nat) : State :=
  match kind with
  | 0 => s.updCore c fun k =>
      if u < 64 then k.putBank u BankCells.empty else { k with hidden := Sparse.set k.hidden BankCells.empty u BankCells.empty }
  | 1 => (s.updMac c u fun k => { k with rows := [], uGen := some s.free }).bump
  | 3 => s.updCore c fun k => { k with marched := Sparse.insert k.marched u true }
  | _ => s

/-- A march request, 16 bytes: die, kind, mode, core, first unit, count; what the reserved bytes hold has no effect (R9). -/
def State.actMarch (s : State) (v : List Byte) : State × Nat :=
  let n := fun o k : Nat => leNat ((v.drop o).take k)
  let d := n 0 1
  let kind := n 1 1
  let mode := n 2 1
  let c := n 3 1
  let us := (List.range (n 6 2)).map fun i => n 4 2 + i
  if 20 < d ∨ 3 < kind ∨ 2 < mode ∨ n 6 2 = 0 ∨ (kind = 2) ≠ (d = 20) ∨ (kind ≠ 2 ∧ (80 ≤ c ∨ coreDie c ≠ d)) then (s, dRange)
  else if (s.die d).runs = false ∨ us.any (fun u => !s.marchable kind mode c u) = true then (s, dState)
  else
    let op := { MaintOp.of .march with die := some d, cores := if kind = 2 then [] else [c], units := us, mode := mode, unitKind := kind }
    match s.maint.blocker op with
    | some r => (s.noteBusy .march r.kind, dState)
    | none => ((if mode = 0 then s else us.foldl (fun s u => s.wreck kind c u) s).beginOp op, dOk)

/-- MARCH_REQUEST (R372). -/
def execMarchRequest (f : Frame) (s : State) : Out := .next (s.onWrite f (· == 0x9000) 2 (fun _ => true) fun s _ _ v => s.actMarch v)

/-! ### Outcomes (R373, R374) -/

/-- What a failure names: rows 0 to 2047, metadata rows from 2048, columns from 4096 as 512 × segment + position. -/
def failKind (code : Nat) : RepairKind :=
  if code < 2048 then .row (BitVec.ofNat 11 code)
  else if code < 4096 then .metaRow (Fin.ofNat 16 code)
  else .column (Fin.ofNat 16 ((code - 4096) / 512)) (BitVec.ofNat 9 (code - 4096))

/-- A macro that still fails, or whose fault cannot be localised. -/
def State.retireMacro (s : State) (c m : Nat) : State :=
  ((s.updMac c m fun k => { k with st := .retired }).retireRecord (macKey c m) true).journal 0xAC 0xFF 0 c 0 0 0 (BitVec.ofNat 64 m)

/-- A spare fitted in a macro without content. -/
def State.fitAtTest (s : State) (c m : Nat) (what : RepairKind) : State × Bool :=
  match (s.mac c m).fitSpare what with
  | none => (s, false)
  | some k =>
    let code : Byte := match what with
      | .column _ _ => 0xA9
      | _ => 0xA8
    (((s.setMac c m k).updMaint fun t => { t with repairLog := t.repairLog ++ [(macKey c m, what)], storeWrites := t.storeWrites + 1 }).journal
      code 0xFF 0 c 0 0 0 (BitVec.ofNat 64 m), true)

/-- A tested macro: its failing rows and columns repaired when `repaired` says that it then passes; else RETIRED. A RETIRED macro that
passes a destructive test is OFFLINE again. -/
def State.macroTested (s : State) (c m mode : Nat) (codes : List Nat) (repaired : Bool) : State :=
  if codes = [] then
    if mode ≠ 0 ∧ (s.mac c m).st = .retired then (s.updMac c m fun k => { k with st := .offline }).retireRecord (macKey c m) false else s
  else if repaired = false then s.retireMacro c m
  else
    let r := codes.foldl (fun (a : State × Bool) x => if a.2 then a.1.fitAtTest c m (failKind x) else a) (s, true)
    if r.2 then r.1 else r.1.retireMacro c m

/-- A failing bank of a core: a spare bank takes its place with what the bank holds, else the core is excluded (R158, R373). -/
def State.bankFailed (s : State) (c b : Nat) : State :=
  match (List.range 4).find? fun k => !bitOf ((s.core c).spspare k) 31 && (Sparse.find? (s.core c).spareCopy k).isNone with
  | some k => (s.updCore c fun x =>
      ({ x with hidden := Sparse.set x.hidden BankCells.empty (64 + k) (x.bankCells b) } : CoreState).writeSpare k (BitVec.ofNat 32 (2 ^ 31 + b))).journal 0xAB 0xFF 0 c 0 0 0 (BitVec.ofNat 64 b)
  | none => s.exhaustCore c b

/-- A core no longer excluded. -/
def State.readmit (s : State) (c : Nat) : State := s.updMaint fun m => { m with excluded := m.excluded.filter fun x => decide (x ≠ c) }

/-- A unit's result: 0 PASS, 1 FAIL. -/
def State.unitTested (s : State) (o : MaintOp) (u : Nat) (codes : List Nat) (repaired : Bool) : State :=
  let c := o.cores.headD 0
  let bad := decide (codes ≠ []) && !repaired
  let s1 := s.updMaint fun m => { m with marchRes := m.marchRes ++ [(u, bitAt bad 0)] }
  match o.unitKind with
  | 0 => if codes = [] then (if o.mode ≠ 0 then s1.readmit c else s1)
    else if u < 64 then s1.bankFailed c u else s1
  | 1 => s1.macroTested c u o.mode codes repaired
  | 3 => (codes.filter (· < 64)).foldl (fun s b => s.bankFailed c b) s1
  | _ => s1

/-- MARCH_TEST_DONE (R373, R396): `failures` names units and what failed in them; `repaired` says that the units pass once spares are
fitted. The test of a die released from a SAFETY reset returns its cores or declares it lost. -/
def execMarchTestDone (d : DieId) (failures : List (Nat × Nat)) (repaired : Bool) (s : State) : Out :=
  .next (match s.maint.ops.find? fun o => decide (o.kind = .march) && decide (o.die = some d.val) with
    | none => s
    | some o =>
      let s1 := s.endOps fun x => decide (x = o)
      if o.unitKind = 4 then
        if failures = [] ∨ repaired then s1.dieBack d else s1.loseDie d
      else o.units.foldl (fun s u => s.unitTested o u ((failures.filter fun f => decide (f.1 = u)).map (·.2)) repaired) s1)

/-! ### Taking a macro out of service (R56, R374, R377) -/

/-- A march test gives up a unit that a swap needs, a bank (kind 0) or a macro (1); its result reads ABORTED (R377). -/
def State.giveUp (s : State) (kind c u : Nat) : State :=
  let hit := fun o : MaintOp => decide (o.kind = .march) && decide (o.unitKind = kind) && decide (c ∈ o.cores) && decide (u ∈ o.units)
  if s.maint.ops.any hit then
    s.updMaint fun t => { t with
      ops := t.ops.map fun o => if hit o then { o with units := o.units.filter fun x => decide (x ≠ u) } else o,
      marchRes := t.marchRes ++ [(u, 2)] }
  else s

/-- A spare for a core: one free of tests, else one that a test gives up. -/
def State.takeSpare (s : State) (c : Nat) : Option (Nat × State) :=
  match s.spareMacro c with
  | some m => some (m, s)
  | none =>
    let mapped := (List.range 64).filterMap fun j => (s.core c).ammap j
    match (List.range 72).find? fun m => decide ((s.mac c m).st = .offline) && !mapped.contains m with
    | some m => some (m, (s.giveUp 1 c m).updMac c m fun k => { k with underTest := false })
    | none => none

/-- Whether a core stands at a STEP mark, or rests, with nothing in flight: every command that translated a macro has completed (R32,
R56, R158). -/
def CoreState.atRest (k : CoreState) : Bool := decide (k.st ≠ .run) && k.queue.isEmpty && k.pass.isNone && k.nextPass.isNone

/-- Whether a rebinding has the core held: a swap due there is then made on the target (R234). -/
def State.rebindHolds (s : State) (c : Nat) : Bool := s.hub.rebinds.any fun r => r.holding && r.moves.any fun x => decide (x.1 = c)

/-- A swap that is over, made or not: its reports are done with and the core goes on. -/
def State.swapOver (s : State) (c m : Nat) : State :=
  (s.updHub fun h => { h with swapDue := h.swapDue.erase (macKey c m), swapHeld := h.swapHeld.erase (macKey c m),
                              checks := Sparse.erase h.checks (macKey c m) }).releaseCore c

/-- Steps 2 and 3 of R56 with a spare: it is loaded and armed, AMMAP rewritten, and the failed macro set OFFLINE; a RETIRED one stays. -/
def State.putSpare (s : State) (c m sp : Nat) : State :=
  let s1 := s.loadSpare c m sp
  let s2 := (List.range 64).foldl (fun s j =>
    if (s1.core c).ammap j = some m then
      s.updCore c fun k => { k with win := Win.write k.win (0x040C0000 + j) (BitVec.ofNat 8 (0x80 + sp)) }
    else s) s1
  (if (s.mac c m).st = .retired then s2 else (s2.updMac c m fun x => x.writeState .repair s2.free .offline).bump).journal
    0xAA 0xFF 0 c 0 0 0 (BitVec.ofNat 64 (m + 256 * sp))

/-- MACRO_SPARE_SWAP (R56, R29, R374) of a macro that is to be taken out of service. A core that runs is held at its next STEP mark, and the
swap is made once it stands there; the replay goes on without counting against the limit, and the localising test of the failed macro is
requested. Without a spare on the core its logical core is rebound away (R236). -/
def execMacroSpareSwap (c : CoreId) (m : MacId) (s : State) : Out :=
  let key := macKey c m
  .next (if key ∉ s.hub.swapDue ∨ s.rebindHolds c then s
    else if (s.core c).atRest = false then
      (s.updCore c CoreState.holdAtMark).updHub fun h => { h with swapHeld := if key ∈ h.swapHeld then h.swapHeld else h.swapHeld ++ [key] }
    else match s.takeSpare c with
      | none => (s.swapOver c m).exhaustCore c m
      | some (sp, s0) =>
        let s1 := ((s0.putSpare c m sp).updCore c fun k => { k with replays := k.replays - 1 }).swapOver c m
        if (s.mac c m).st = .retired then s1
        else s1.raiseOp
          { MaintOp.of .march with die := some (coreDie c), cores := [c.val], units := [m.val], mode := 1, unitKind := 1, localising := true })

/-! ### Spare scratchpad banks (R158, R236) -/

/-- SPARE_BANK_SWAP (R158 step 1, R236): for a bank that has reported two parity errors, the core is to be held at a STEP mark for the copy
into a spare bank not yet in use. Without one the core's logical core is rebound away. -/
def execSpareBankSwap (c : CoreId) (k : Fin 4) (bank : Fin 64) (s : State) : Out :=
  let used := fun i : Nat => bitOf ((s.core c).spspare i) 31 || (Sparse.find? (s.core c).spareCopy i).isSome
  .next (if Sparse.get (s.core c).bankErrs 0 bank.val < 2 then s
    else if (List.range 4).all used then s.exhaustCore c bank
    else if used k then s
    else (s.giveUp 0 c (64 + k)).updCore c fun x => { x.holdAtMark with spareCopy := Sparse.insert x.spareCopy k bank.val })

/-- The words of a bank that fail parity, as the copy of R158 meets them: SPERR with PORT 9. -/
def CoreState.noteCopy (k : CoreState) (b : Nat) : CoreState :=
  ((k.badLanes.filter fun e => decide (e.1 / 8 % 64 = b)).map fun e => e.1 / 8 * 64).dedup.foldl (fun k a => k.noteParity 9 a false) k

/-- SPARE_BANK_COPY_DONE (R158 steps 2 to 4): on a core held at its mark or at rest, the bank's contents with their failing lanes are in the
spare, which takes its place; the core is released. -/
def execSpareBankCopyDone (c : CoreId) (k : Fin 4) (s : State) : Out :=
  .next (match Sparse.find? (s.core c).spareCopy k with
    | none => s
    | some b =>
      let x := s.core c
      if x.atRest = false ∨ x.st = .replay then s
      else
        let x1 := x.noteCopy b
        let x2 := { x1 with hidden := Sparse.set x1.hidden BankCells.empty (64 + k.val) (x1.bankCells b),
                            spareCopy := Sparse.erase x1.spareCopy k, bankErrs := Sparse.set x1.bankErrs 0 b 0 }
        ((s.setCore c (x2.writeSpare k (BitVec.ofNat 32 (2 ^ 31 + b)))).releaseCore c).journal 0xAB 0xFF 0 c.val 0 0 0 (BitVec.ofNat 64 b))


/-! ### Scrub (R30, R375) -/

/-- One row of a scrub: read and compared with the shadow; a row that fails or differs is answered as R30 has it and read once more before
the cycle ends, behind what holds its rewrite. -/
def State.scrubRow (s : State) (c m row : Nat) : State :=
  let bad := decide ((s.mac c m).failing row ≠ []) || decide (s.rowDiffs c m row ≠ [])
  let s1 := s.updMac c m fun k => k.noteRead row
  if bad then (s1.readFailed c m row).arriveRow c m (.check row) else s1

/-- One ARMED macro: every weight row and metadata row; the rows that failed are those of one cycle. -/
def State.scrubMacro (s : State) (c m : Nat) : State :=
  let k := s.mac c m
  if k.st ≠ .armed ∨ k.repairBusy ∨ k.underTest ∨ (s.hub.rebinds.any fun r => r.moves.any fun x => decide (x.1 = c)) then s
  else ((List.range 2064).foldl (fun s r => s.scrubRow c m r) s).updMac c m fun k => { k with failedRows := [] }

/-- SCRUB_CYCLE (R375): the macros of a die that a record lists; the others are not ARMED. During a pause of the hub runtime scrub
rests (R383). -/
def execScrubCycle (d : ArrayDie) (s : State) : Out :=
  .next (if s.hub.paused then s else (s.macros.filter fun e => decide (coreDie (e.1 / 72) = d.val)).foldl (fun s e => s.scrubMacro (e.1 / 72) (e.1 % 72)) s)

/-! ### Phase calibration (R378) -/

/-- Whether a die with one phase fewer keeps the margin of R265 for its present grant. -/
def State.spareMargin (s : State) (d : Nat) : Bool :=
  let x := s.die d
  let n := phasesOn x.inService - 1
  decide (12 ≤ n) && decide (10 * icur d x.grant ≤ 54 * n)

/-- A write of OD 9000.07. -/
def State.actPhaseCal (s : State) (d : Nat) : State × Nat :=
  if (s.die d).runs = false ∨ s.spareMargin d = false then (s, dState)
  else
    let op := { MaintOp.of .phaseCal with die := some d }
    match s.maint.blocker op with
    | some r => (s.noteBusy .phaseCal r.kind, dState)
    | none => (s.beginOp op, dOk)

/-- PHASE_CALIBRATION (R378). -/
def execPhaseCalibration (f : Frame) (s : State) : Out :=
  .next (s.onWrite f (· == 0x9000) 7 (fun _ => true) fun s _ _ v => s.actPhaseCal (leNat v))

/-- PHASE_CALIBRATION_DONE (R378): a dropped phase that passed is a spare again. -/
def execPhaseCalibrationDone (d : DieId) (passed : BitVec 24) (s : State) : Out :=
  .next (if s.maint.ops.any fun o => decide (o.kind = .phaseCal) && decide (o.die = some d.val) then
      (s.endOps fun o => decide (o.kind = .phaseCal) && decide (o.die = some d.val)).updDie d fun x => { x with dropped := x.dropped &&& ~~~passed }
    else s)

/-! ### Boot (R397 steps 4 to 7) -/

/-- REPAIR_RECORDS_APPLIED (step 4): the repairs, retired macros and spare banks of the persistent store, in every die released. -/
def execRepairRecordsApplied (s : State) : Out :=
  .next (if s.power.st ≠ .on ∨ s.hub.inService then s
    else
      let live := fun (s : State) (c : Nat) => (s.die (coreDie c)).runs
      let s1 := s.maint.repairLog.foldl (fun s e =>
        if live s (e.1 / 72) then (match (s.mac (e.1 / 72) (e.1 % 72)).fitSpare e.2 with
          | some k => s.setMac (e.1 / 72) (e.1 % 72) k
          | none => s) else s) s
      let s2 := s1.maint.retired.foldl (fun s k => if live s (k / 72) then s.updMac (k / 72) (k % 72) fun x => { x with st := .retired } else s) s1
      s2.maint.banks.foldl (fun s b => if live s b.1 then s.updCore b.1 fun k => k.writeSpare b.2.1 b.2.2 else s) s2)

/-- A die that was lost serves again once its march test has passed (R238). -/
def State.marchPassed (s : State) (d : Nat) : State := s.updDie d fun x => { x with needMarch := false }

/-- BOOT_MARCH_DONE (step 5, R238, R372, R373): `failures` names core, kind (0 bank, 1 macro) and unit that fail after repair. A destructive
march leaves every word it tested at 0; a RETIRED macro or an excluded core that passes returns. -/
def execBootMarchDone (failures : List (Nat × Nat × Nat)) (s : State) : Out :=
  .next (if s.power.st ≠ .on ∨ s.hub.inService ∨ s.mgmt.obj 0x9000 1 = 0 then s
    else
      let cs := (List.range 80).filter fun c => (s.die (coreDie c)).runs
      let failed := fun c kind u : Nat => decide ((c, kind, u) ∈ failures)
      let s1 := cs.foldl (fun s c => s.updCore c fun k => { k with sp := [], badLanes := [] }) s
      let s2 := (s1.macros.map (·.1)).foldl (fun s k =>
        if k / 72 ∈ cs then
          (let t := s.updMac (k / 72) (k % 72) fun x => { x with rows := [], uGen := none }
           if (t.mac (k / 72) (k % 72)).st = .retired ∧ failed (k / 72) 1 (k % 72) = false then t.macroTested (k / 72) (k % 72) 1 [] true else t)
        else s) s1
      let s3 := failures.foldl (fun s f =>
        if f.1 ∈ cs then
          (if f.2.1 = 1 ∧ f.2.2 < 72 then s.retireMacro f.1 f.2.2 else if f.2.1 = 0 ∧ f.2.2 < 64 then s.bankFailed f.1 f.2.2 else s)
        else s) s2
      let s4 := (cs.filter fun c => !(failures.any fun f => decide (f.1 = c) && decide (f.2.1 = 0))).foldl State.readmit
        (s3.updHub fun h => { h with commons := [] })
      ((List.range 20).filter fun d => (s.die d).runs && !(failures.any fun f => decide (coreDie f.1 = d))).foldl State.marchPassed s4)

/-- RUNTIME_IN_SERVICE (steps 6 and 7, Table 14.6): dispatch may begin; HRDY rises where PERSTn_N is high. -/
def execRuntimeInService (s : State) : Out :=
  .next (if s.power.st ≠ .on ∨ s.hub.inService then s
    else (List.range 2).foldl (fun s p => s.updHost p fun h => { h with hrdy := if h.hrdy = .boot ∧ h.perstN then .ready else h.hrdy })
      (s.updHub fun h => { h with inService := true, admitting := true, paused := false }))

end Sys2Proof.Machine
end

