-- ==== Sys2Proof/Machine/Package.lean ====
section
/-! DEFINITION. The test access port (R391). -/

namespace Sys2Proof.Machine

/-- IDCODE: stepping in [31:28], part number 0x5125 in [27:12]; the spec gives no bits 11 to 0. -/
def idcodeWord : W32 := BitVec.ofNat 32 (Config.stepping.toNat % 16 * 2 ^ 28 + 0x5125 * 2 ^ 12 + Config.idcodeLow.toNat)

/-- IDCODE selected: its register is shifted out. -/
def execIdcode (s : State) : Out := .next ({ s with tapId := true }.answer 0 (leBytes 4 idcodeWord.toNat))

/-- BYPASS selected, as by every other instruction: one bit, 0. -/
def execBypass (s : State) : Out := .next ({ s with tapId := false }.answer 0 [0])

end Sys2Proof.Machine
end

