-- ==== Sys2Proof/Machine/Dictionary.lean ====
section
/-! DEFINITION. The object dictionary served: reads, writes, sessions, ANNOUNCE, lockouts, keys, and the SAFETY commands (R346 to R370,
Tables 15.3 to 15.11). -/

namespace Sys2Proof.Machine

/-! ### Values read -/

/-- OD 2000.21: state in [3:0], step k in [6:4]. The auxiliary rail is down in OFF and nothing is read. -/
def PkgState.code : PkgState → Nat
  | .off => 0 | .standby => 0 | .up k => 1 + 16 * k | .on => 2 | .down k => 3 + 16 * k | .minOff => 4 | .latched => 5

/-- OD 7200.03 holds nothing before it is written: a free value. -/
def State.anchorObj (s : State) : Nat :=
  match s.kraox.anchor with
  | some a => a.toNat
  | none => (Config.freeW32 s.free).toNat % 65536

/-- DEFICIT saturated to the I32 range, in two's complement. -/
def deficitObj (d : Int) : Nat := ((max (-(2 ^ 31)) (min (2 ^ 31 - 1) d)) % 2 ^ 32).toNat

/-- A core's spare macros and banks not in service: 8 macros and 4 banks, less those that replace another, on a die that is in use. -/
def State.spareMacrosOf (s : State) (c : Nat) : Nat :=
  if (s.die (coreDie c)).gone then 0
  else 8 - (s.macros.filter fun e => decide (e.1 / 72 = c) && decide (e.2.st = .retired)).length
def State.spareBanksOf (s : State) (c : Nat) : Nat :=
  if (s.die (coreDie c)).gone then 0 else ((List.range 4).filter fun k => !bitOf ((s.core c).spspare k) 31).length

/-- Spare macros and banks not in service: 8 macros and 4 banks a core, less those that replace another, on dies that work (OD 6200). -/
def State.spareMacros (s : State) : Nat :=
  ((List.range 80).map fun c => s.spareMacrosOf c).sum
def State.spareBanks (s : State) : Nat :=
  ((List.range 80).map fun c => s.spareBanksOf c).sum

/-- Journal records a requester sees: a mailbox those of its port's partitions (R244). -/
def State.seen (s : State) (w : Who) (rs : List JournalRec) : List JournalRec :=
  if w.path < 2 then rs else rs.filter fun r => decide (r.part ∈ s.portParts (w.path - 2))

/-- A numeric read-only value that the state gives; none where the stored value is read. -/
def State.liveNum (s : State) (w : Who) (idx sub : Nat) : Option Nat :=
  let p := s.hub.part (idx % 16)
  let po := s.power
  if idx = 0x1000 then match sub with
    | 4 => some Config.stepping.toNat
    | 5 => some (s.comp 2).active.ver
    | 6 => some (s.comp 1).active.ver
    | 7 => some Config.qxiMinor
    | _ => none
  else if idx = 0x1100 ∧ sub = 8 then some s.mgmt.nodeId
  else if idx = 0x1200 then (if sub = 1 then some w.role else if sub = 6 then some s.mgmt.authFails else none)
  else if idx = 0x2000 then match sub with
    | 4 => some (s.sus + 65536 * po.peak)
    | 5 => some (po.last 1000 / 2000000)
    | 6 => some (po.buckets.sum / 250000000)
    | 7 => some po.budget
    | 8 => some po.stepDowns
    | 9 => some (if po.gcorr.1 = po.gcorr.2 then 0x3F800000 else (Config.gcorrBits po.gcorr.1 po.gcorr.2).toNat)
    | 0x20 => some po.pdOn.toNat
    | 0x21 => some po.st.code
    | 0x25 => some po.cause
    | 0x26 => some po.powerUps
    | _ => none
  else if idx = 0x2100 ∧ sub = 8 then some po.breaches
  else if idx = 0x2300 then (if sub = 2 then some (s.mon 6).cfg.toNat else if sub = 3 then some (s.mon 7).cfg.toNat else none)
  else if 0x3000 ≤ idx ∧ idx < 0x3010 then match sub with
    | 1 => some p.st
    | 3 => some p.rights.toNat
    | 4 => some p.dlpol
    | 5 => some p.lendp
    | 6 => some p.tbase
    | 7 => some p.tcount
    | 8 => some p.result
    | 9 => some p.cgen.toNat
    | 10 => some p.keygen
    | _ => none
  else if 0x3100 ≤ idx ∧ idx < 0x3110 then match sub with
    | 1 => some p.cores.toNat
    | 2 => some p.cbanks.toNat
    | 3 => some p.lpbase
    | 4 => some p.lpsize
    | 5 => some p.squota
    | 6 => some p.pshare
    | 7 => some p.pmin
    | 8 => some p.kxshare
    | 9 => some p.resv
    | 10 => some p.sused
    | _ => none
  else if 0x4000 ≤ idx ∧ idx < 0x4400 then
    let t := s.hub.tenant (idx - 0x4000)
    match sub with
    | 2 => some (deficitObj t.deficit)
    | 3 => some (s.hub.openStreams fun x => x.tenant = idx - 0x4000).length
    | 4 => some (s.hub.cmds.filter fun o => decide (o.cmd.tenant.toNat = idx - 0x4000)).length
    | 5 => some t.busy
    | 9 => some t.energy
    | _ => none
  else if idx = 0x5000 ∧ sub = 3 then some s.hub.lateSet
  else if idx = 0x6000 then (if sub = 2 then some s.hub.arrayChecks else if sub = 3 then some s.hub.arrayInfs else none)
  else if idx = 0x6200 then match sub with
    | 1 => some s.spareMacros
    | 2 => some s.spareBanks
    | 3 => some (s.macros.filter fun e => e.2.st = .retired).length
    | 4 => some (((List.range 20).map fun d => bitAt ((s.die d).lost || (s.die d).needMarch) d).sum)
    | 5 => some (16 - ((s.host 0).onSpare.length + (s.host 1).onSpare.length))
    | _ => none
  else if idx = 0x7100 ∧ sub = 4 then some s.kraox.discards
  else if idx = 0x7200 then (if sub = 3 then some s.anchorObj else if sub = 10 then some s.kraox.jobState else none)
  else if idx = 0x7800 then
    if sub = 0x10 then some (((List.range 16).map fun c => (s.ext.chan c).density).sum)
    else if sub = 0x15 then some (((List.range 16).map fun c => bitAt (decide ((s.ext.chan c).st = .failed)) c).sum) else none
  else if idx = 0x8000 ∧ sub = 1 then some po.st.code
  else if idx = 0x8010 ∧ sub = 2 then some s.maint.trayTime.toNat
  else if idx = 0x9000 then (if sub = 9 then some s.maint.refused else if sub = 10 then some s.repairBits else none)
  else if idx = 0xA000 ∧ sub = 4 then some (s.maint.lastFw.1 + 256 * s.maint.lastFw.2.1 + 65536 * s.maint.lastFw.2.2)
  else if idx = 0xB000 then match sub with
    | 1 => some s.hub.seq.toNat
    | 4 => some s.hub.unacked
    | 7 => some s.hub.overwritten
    | _ => none
  else none

/-! ### DOM values whose layout the spec does not give -/

def PortSt.num : PortSt → Nat
  | .down => 0 | .up => 1 | .half => 2 | .peerReset => 3 | .draining => 4
def RegSt.num : RegSt → Nat
  | .off => 0 | .attempt => 1 | .hiccup => 2 | .on => 3 | .latched => 4
def ChanSt.num : ChanSt → Nat
  | .untrained => 0 | .ok => 1 | .failed => 2 | .retraining => 3
def SlotSt.num : SlotSt → Nat
  | .empty => 0 | .receiving => 1 | .valid => 2 | .active => 3 | .trial => 4 | .partially => 5
def MaintKind.num : MaintKind → Nat
  | .march => 0 | .scrub => 1 | .activation => 2 | .rebinding => 3 | .lpddr => 4 | .phaseCal => 5 | .kraoxLane => 6
def optNat : Option Nat → Nat
  | none => 0 | some n => n + 1

/-- The partitions whose entries a requester sees in a DOM value of OD 5000 and OD 6000: a mailbox those of its port's rings (R365). -/
def State.sees (s : State) (w : Who) (p : Nat) : Bool := decide (w.path < 2) || decide (p ∈ s.portParts (w.path - 2))
def State.seesCore (s : State) (w : Who) (c : Nat) : Bool :=
  decide (w.path < 2) || (s.portParts (w.path - 2)).any fun p => (s.hub.part p).cores.getLsbD c

/-- The fields STATE to MAXGAP of a stream (Table 9.9). -/
def Stream.fields (x : Stream) : List Nat :=
  [x.st, x.cls, x.part, bitAt x.each 0, bitAt x.late 0, bitAt x.kvLost 0, x.tenant, x.slot, x.prog, x.account, x.age, x.n0, x.n1, x.remain,
   x.inOff, x.outOff, (x.energy % 2 ^ 64).toNat, x.results, x.tag.toNat, x.sq, x.maxgap]

/-- A macro's spare rows, columns and metadata row left (R29, OD 6200.06). -/
def MacroState.sparesLeft (m : MacroState) : List Nat :=
  [32 - (m.mrepRow.filter fun e => bitOf e.2 31).length, 64 - (m.mrepCol.filter fun e => bitOf e.2 31).length, bitAt (!bitOf m.mrepMeta 31) 0]

def Port.report (x : Port) : List Nat :=
  [x.st.num, x.h0.good, x.h1.good, x.h0.spares, x.h1.spares, x.h0.errors, x.h1.errors, x.retries]
def DieState.supply (x : DieState) : List Nat :=
  [x.reg.num, ((List.range 24).filter fun i => x.inService.getLsbD i && !x.dropped.getLsbD i).length, ((List.range 24).filter fun i => !x.inService.getLsbD i && !x.dropped.getLsbD i).length,
   x.phaseCap, x.attempts]
def FwSlot.report (x : FwSlot) : List Nat := [x.st.num, x.ver, x.svn] ++ x.compat.flatMap fun e => [e.1, e.2.1, e.2.2]
def MaintOp.report (o : MaintOp) : List Nat :=
  [o.kind.num, optNat o.die, optNat o.part, optNat o.chan, optNat o.comp, o.mode] ++ o.cores

/-- Every number the state holds of a DOM object's contents, in the order its row lists them; none for the objects with a layout. -/
def State.domNumbers (s : State) (w : Who) (idx sub : Nat) : List Nat :=
  let cores := List.range 80
  let macros := (List.range 5760).map fun k => (k, Sparse.get s.macros (MacroState.reset (k % 72)) k)
  if idx = 0x1000 then (List.range 5).flatMap fun c => let x := s.comp c; [x.active.ver, bitAt x.useB 0] ++ x.active.compat.flatMap fun e => [e.1, e.2.1, e.2.2]
  else if idx = 0x1100 then [s.mgmt.badTags, s.mgmt.beaconLost]
  else if idx = 0x1200 then s.mgmt.sessions.flatMap fun e => [e.1, e.2.role, e.2.src.toNat]
  else if idx = 0x2000 then (20 :: List.range 20).flatMap fun d => (s.die d).supply
  else if idx = 0x2100 then (List.range 21).flatMap fun d =>
    let x := s.die d
    ((List.range 8).map (vop d)) ++ ((List.range 8).map (icur d)) ++ ((List.range 32).map (wgt d)) ++ [Config.lk d] ++
      ((List.range 16).map (Config.eta d)) ++ [x.grant, x.peakCeil, x.thermCap, x.phaseCap, x.paceCeil]
  else if idx = 0x2200 then (List.range 21).flatMap fun d =>
    let x := s.die d
    (match x.hottest with
      | none => [0]
      | some t => [1, (t + 40).toNat]) ++ [x.invalid, x.thermCap]
  else if idx = 0x2300 then (List.range 8).flatMap fun m => [(s.mon m).last.toNat, fld (s.mon m).cfg 27 24]
  else if idx = 0x5000 then
    if sub = 1 then (s.hub.streams.filter fun e => decide (e.2.st ≠ 0) && s.sees w e.2.part).flatMap fun e => e.1 :: e.2.fields
    else (s.hub.accounts.filter fun e => s.sees w (e.1 / 4096)).flatMap fun e => [e.1 / 4096, e.1 % 4096, e.2]
  else if idx = 0x6000 then (macros.filter fun e => s.seesCore w (e.1 / 72)).flatMap fun e => [stNum e.2.st, e.2.mstat, e.2.merrcnt]
  else if idx = 0x6100 then cores.flatMap fun c =>
    let k := s.core c
    [(k.w32 0x040B0010).toNat, (k.w32 0x040B0014).toNat] ++ ((List.range 4).map fun i => (k.spspare i).toNat) ++ k.bankErrs.flatMap fun e => [e.1, e.2]
  else if idx = 0x6200 then
    if sub = 6 then macros.flatMap fun e => stNum e.2.st :: e.2.sparesLeft
    else cores.flatMap fun c => [s.spareMacrosOf c, s.spareBanksOf c, bitAt (decide (c ∈ s.maint.excluded)) 0]
  else if idx = 0x7000 then (s.port (sub - 1)).report
  else if idx = 0x7200 then s.kraox.paceLog.flatMap fun e => [e.1, e.2]
  else if idx = 0x7800 then
    if sub ≤ 2 then [(s.host (sub - 1)).width, (s.host (sub - 1)).downs] ++ (s.host (sub - 1)).onSpare
    else if sub = 0x14 then (List.range 16).flatMap fun c => [(s.ext.chan c).st.num, (s.ext.chan c).retrains]
    else (List.range 16).flatMap fun p => [bitAt (decide (p ∉ s.ext.copyAOff)) 0, bitAt (decide (p ∉ s.ext.copyBOff)) 0]
  else if idx = 0x9000 then match sub with
    | 3 => s.maint.marchRes.flatMap (fun e => [e.1, e.2]) ++ s.maint.repairLog.map (·.1)
    | 4 => s.maint.ops.flatMap MaintOp.report
    | 5 => match s.maint.lastBusy with
      | none => []
      | some (a, b) => [a.num, b.num]
    | _ => [s.maint.storeWrites, bitAt s.maint.migrating 0]
  else if idx = 0xA000 then (List.range 5).flatMap fun c => let x := s.comp c; x.a.report ++ x.b.report ++ [bitAt x.useB 0, x.minSvn] ++ x.rtNew
  else []

/-- Text of OD 1000.01 and 1000.02. -/
def modelText : List Byte := [0x42, 0x4D, 0x51, 0x32, 0x35, 0x2D, 0x41]
def vendorText : List Byte := [0x42, 0x65, 0x6C, 0x74, 0x75, 0x72, 0x65, 0x6C]

/-- Bytes cut or filled to a length. -/
def fitBytes (n : Nat) (v : List Byte) : List Byte := (v ++ List.replicate n 0).take n

/-- The whole value of an object. A DOM without a stated layout is some image of the numbers the state holds of it, of at most 1 MiB. -/
def State.valueOf (s : State) (w : Who) (idx sub : Nat) (o : Obj) : List Byte :=
  if sub = 0 then leBytes 1 o.dflt
  else if idx = 0x1000 ∧ sub = 1 then vendorText
  else if idx = 0x1000 ∧ sub = 2 then modelText
  else if idx = 0x1000 ∧ sub = 3 then serialBytes
  else if idx = 0x1100 ∧ sub = 1 then macBytes Config.macAddr
  else if idx = 0x9000 ∧ sub = 5 then (match s.maint.lastBusy with
    | none => List.replicate 16 0
    | some _ => fitBytes 16 (Config.domImage (objKey idx sub) (s.domNumbers w idx sub) s.free))
  else match s.liveNum w idx sub with
    | some v => leBytes o.size v
    | none =>
      if o.size ≠ 0 then leBytes o.size (s.mgmt.obj idx sub)
      else if (idx = 0x7100 ∧ sub = 3) ∨ (idx = 0x7200 ∧ sub = 7) then Sparse.get s.mgmt.dom [] (objKey idx sub)
      else if idx = 0xB000 ∧ sub = 2 then (s.seen w s.hub.journal).flatMap journalBytes
      else if idx = 0xB000 ∧ sub = 5 then (s.seen w s.hub.persistent).flatMap journalBytes
      else if idx = 0xB000 ∧ sub = 6 then s.power.gasp.flatMap (·.bytes)
      else (Config.domImage (objKey idx sub) (s.domNumbers w idx sub) s.free).take 1048576

/-! ### Segmented reads (R349) -/

/-- A segment of at most n bytes from an offset of a value. -/
def segmentOf (v : List Byte) (offset n : Nat) : Ans :=
  if v.length < offset then Ans.of dOffset
  else { status := dOk, data := (v.drop offset).take n, more := decide (offset + n < v.length) }

/-- A read of an object: the checks, a snapshot at offset 0, else the session's snapshot of that object. -/
def State.readValue (s : State) (w : Who) (idx sub offset n : Nat) : State × Ans :=
  let j := s.judge w idx sub false
  if j ≠ 0 then (s, Ans.of j)
  else match findObj idx sub with
    | none => (s, Ans.of dNoSub)
    | some o =>
      if offset = 0 then
        let v := s.valueOf w idx sub o
        ((s.updMgmt fun m => { m with snaps := Sparse.insert m.snaps w.slot (objKey idx sub, v) }).bump, segmentOf v 0 n)
      else match Sparse.find? s.mgmt.snaps w.slot with
        | some (k, v) => if k = objKey idx sub then (s, segmentOf v offset n) else (s, Ans.of dState)
        | none => (s, Ans.of dState)

/-- READ (R349). A frame whose OP Table 15.3 does not list is answered here, with BAD_FRAME. -/
def execRead (f : Frame) (s : State) : Out :=
  .next (if f.op = 1 ∨ opKnown f.op = false then s.receive f fun s w => s.readValue w f.index.toNat f.sub.toNat f.offset.toNat 1440 else s)

/-! ### Values written (R350, R353, R361, R366) -/

/-- A stored value; a persisted object is in the persistent store before the reply. Whether the store fails is free (R361); during a
migration persisted objects are not written (R386). -/
def State.storeObj (s : State) (idx sub v : Nat) : State × Nat :=
  if isPersisted idx sub then
    if s.maint.migrating then (s, dDeviceBusy)
    else if Config.freeNat s.free % 2 = 1 then (s.bump, 0x43)
    else ((s.bump.updMgmt fun m => m.setObj idx sub v).updMaint fun m => { m with storeWrites := m.storeWrites + 1 }, dOk)
  else (s.updMgmt fun m => m.setObj idx sub v, dOk)

/-- JOURNAL_ACK (R369): acknowledgement up to a SEQ, not below the last nor above the newest. -/
def State.actAck (s : State) (v : Nat) : State × Nat :=
  if v < s.hub.acked.toNat ∨ s.hub.seq.toNat < v then (s, dRange)
  else (s.updHub fun h => { h with acked := BitVec.ofNat 32 v, unacked := h.recordsAfter v }, dOk)

/-- A role key replaced (R359): only from a bus session, wrapped under its key. Sub 2, 3 and 4 are the keys of roles 1, 2 and 3. -/
def State.actKey (s : State) (w : Who) (role : Nat) (v : List Byte) : State × Nat :=
  match Sparse.find? s.mgmt.sessions w.slot with
  | none => (s, dRole)
  | some x =>
    if w.path ≠ 0 then (s, dPath)
    else match Config.aesUnwrap x.key v with
      | none => (s, dRange)
      | some k =>
        if Config.freeNat s.free % 2 = 1 then (s.bump, 0x43)
        else (s.bump.updMgmt fun m => { m with keys := Sparse.insert m.keys role k }, dOk)

/-- A write of OD 8000.02 and 8000.03 (Table 15.11). -/
def State.actSafety (s : State) (v : Nat) : State × Nat :=
  match v with
  | 1 => s.actPowerOff
  | 2 => s.actPowerOn
  | _ => s.actClearLatched
def State.actReset (s : State) (v : Nat) : State × Nat :=
  if v < 20 then s.resetDie v
  else if v = 20 then (s.hubRestart, dOk)
  else s.resetPowerDie

/-- A write of OD 8010.01: bits 7:2 are reserved; the time is the environment's. -/
def State.actTray (s : State) (v : Nat) : State × Nat :=
  let s1 := (s.updMgmt fun m => m.setObj 0x8010 1 (v % 4)).updMaint fun m => { m with trayTime := s.now }
  (s1.bump.trayWritten, dOk)

/-- A whole value written to an object. -/
def State.writeObj (s : State) (w : Who) (idx sub : Nat) (v : List Byte) : State × Nat :=
  let n := leNat v
  if idx = 0x1100 ∧ sub = 5 ∧ n % 2 = 0 then (s, dRange)
  else if idx = 0x1200 ∧ sub ∈ [2, 3, 4] then s.actKey w (sub - 1) v
  else if idx = 0x2000 ∧ sub = 0x23 then s.storeObj idx sub (n % 2 ^ 20)
  else if idx = 0x2300 then (s.actTmcfg (sub + 4) (BitVec.ofNat 32 n), dOk)
  else if 0x3000 ≤ idx ∧ idx < 0x3010 then (if sub = 2 then s.actPartition w (idx - 0x3000) n else s.stageField w idx sub v)
  else if 0x3100 ≤ idx ∧ idx < 0x3110 then s.stageField w idx sub v
  else if idx = 0x7100 ∧ sub = 3 then
    let es := (Config.bypassDecode v).take 64
    ((s.updKraox fun k => { k with bypass := es.map fun e => { trigger := e.1, leaving := e.2.1, detour := e.2.2.1, hops := e.2.2.2.1, dcl := e.2.2.2.2 } }).updMgmt
      fun m => { m with dom := Sparse.set m.dom [] (objKey idx sub) v }, dOk)
  else if idx = 0x7200 then
    if sub = 1 then (if s.collPending then (s, dState) else ((s.updMgmt fun m => m.setObj idx sub n).jobWritten, dOk))
    else if sub = 2 then (if s.collPending then (s, dState) else (s.updMgmt fun m => m.setObj idx sub (n % 16), dOk))
    else if sub = 3 then s.actAnchor n
    else if sub = 4 then s.actLease
    else if sub = 7 then
      let r := s.actTrees v
      if r.2 = dOk then (r.1.updMgmt fun m => { m with dom := Sparse.set m.dom [] (objKey idx sub) v }, dOk) else r
    else if sub = 8 then s.actJobCmd n
    else s.storeObj idx sub n
  else if idx = 0x8000 then (if sub = 2 then s.actSafety n else s.actReset n)
  else if idx = 0x8010 then s.actTray n
  else if idx = 0x9000 ∧ sub = 2 then s.actMarch v
  else if idx = 0x9000 ∧ sub = 7 then s.actPhaseCal n
  else if idx = 0x9000 ∧ sub = 8 then s.actLpddr n
  else if idx = 0xA000 ∧ sub = 3 then s.actFirmware v
  else if idx = 0xB000 ∧ sub = 3 then s.actAck n
  else s.storeObj idx sub n

/-- A role's sessions end with its key (R357, R359); a mailbox session is one of OPERATOR. -/
def State.endRole (s : State) (role : Nat) : State :=
  let s1 := (s.mgmt.sessions.filter fun (e : Nat × Session) => decide (e.2.role = role)).foldl (fun s e => s.endSession e.1) s
  if role = 1 then (List.range 2).foldl (fun s p => s.updHost p fun h => { h with mbox := { h.mbox with operator := false } }) s1 else s1

/-- A frame that replaces a role key. -/
def isKeyWrite (f : Frame) : Bool := decide (f.op = 2) && decide (f.index = 0x1200) && decide (f.sub.toNat ∈ [2, 3, 4])

/-- The node ID follows OD 1100.02 once the reply of its write is sent: 0xFF takes the strap (R346). -/
def State.takeNodeId (s : State) : State :=
  s.updMgmt fun m => { m with nodeId := if m.obj 0x1100 2 = 0xFF then m.strap.toNat else m.obj 0x1100 2 }

/-- A WRITE frame: download segments have checks of their own; sessions of a replaced key end once the reply is sent. -/
def State.writeFrame (s : State) (f : Frame) : State :=
  if f.index = 0xA000 ∧ f.sub = 2 then s.downloadFrame f
  else
    let s1 := s.receive f fun s w =>
      s.writeValue w f.index.toNat f.sub.toNat f.type.toNat f.offset.toNat (bitOf f.flags 1) f.data fun s v =>
        s.writeObj w f.index.toNat f.sub.toNat v
    if isKeyWrite f ∧ s1.mgmt.keys ≠ s.mgmt.keys then s1.endRole (f.sub.toNat - 1)
    else if f.index = 0x1100 ∧ f.sub = 2 then s1.takeNodeId else s1

/-- WRITE (R350). -/
def execWrite (f : Frame) (s : State) : Out := .next (if f.op = 2 then s.writeFrame f else s)

/-- KEY_REPLACE (R359). -/
def execKeyReplace (f : Frame) (s : State) : Out := .next (if isKeyWrite f then s.writeFrame f else s)

/-! ### Commands with a row of their own (Table 15.11) -/

def execSafetyPowerOff (f : Frame) (s : State) : Out := .next (s.onWrite f (· == 0x8000) 2 (isByte 1) fun s _ _ _ => s.actPowerOff)
def execSafetyPowerOn (f : Frame) (s : State) : Out := .next (s.onWrite f (· == 0x8000) 2 (isByte 2) fun s _ _ _ => s.actPowerOn)
def execClearLatched (f : Frame) (s : State) : Out := .next (s.onWrite f (· == 0x8000) 2 (isByte 3) fun s _ _ _ => s.actClearLatched)

/-- RESET_ARRAY_DIE (R396). -/
def execResetArrayDie (f : Frame) (s : State) : Out :=
  .next (s.onWrite f (· == 0x8000) 3 (fun v => decide (v.length = 1) && decide (leNat v < 20)) fun s _ _ v => s.resetDie (leNat v))
/-- RESET_HUB_DIE (Table 17.5): as a hub runtime watchdog restart. -/
def execResetHubDie (f : Frame) (s : State) : Out :=
  .next (s.onWrite f (· == 0x8000) 3 (isByte 20) fun s _ _ v => s.actReset (leNat v))
/-- RESET_POWER_DIE (Table 17.5). -/
def execResetPowerDie (f : Frame) (s : State) : Out :=
  .next (s.onWrite f (· == 0x8000) 3 (fun v => decide (v.length = 1) && decide (21 ≤ leNat v) && decide (leNat v ≤ 24)) fun s _ _ _ => s.resetPowerDie)

/-- TRAY_STATE_WRITE (R368). -/
def execTrayStateWrite (f : Frame) (s : State) : Out :=
  .next (s.onWrite f (· == 0x8010) 1 (fun _ => true) fun s _ _ v => s.actTray (leNat v))
/-- JOURNAL_ACK (R369). -/
def execJournalAck (f : Frame) (s : State) : Out :=
  .next (s.onWrite f (· == 0xB000) 3 (fun _ => true) fun s _ _ v => s.actAck (leNat v))

/-! ### The mailbox mirror (R335, R365) -/

def State.mailboxWho (s : State) (p : Nat) : Who := { role := if (s.host p).mbox.operator then 1 else 0, path := 2 + p, slot := 10 + p }

/-- OD_READ: status, type, then up to 4,032 bytes. -/
def execOdRead (p : HPort) (index : BitVec 16) (sub : Byte) (offset : W32) (s : State) : Out :=
  .next (s.mailbox fun s =>
    let r := s.readValue (s.mailboxWho p) index.toNat sub.toNat offset.toNat 4032
    let ty := match findObj index.toNat sub.toNat with | some o => o.type | none => 0
    r.1.vendorAnswer r.2.status (if r.2.status = dOk then BitVec.ofNat 8 ty :: r.2.data else []))

/-- OD_WRITE: the value in one segment; the command carries no type. -/
def execOdWrite (p : HPort) (index : BitVec 16) (sub : Byte) (data : List Byte) (s : State) : Out :=
  .next (s.mailbox fun s =>
    let w := s.mailboxWho p
    let ty := match findObj index.toNat sub.toNat with | some o => o.type | none => 0
    let r := s.writeValue w index.toNat sub.toNat ty 0 false data fun s v => s.writeObj w index.toNat sub.toNat v
    let s1 := r.1.vendorAnswer r.2.status []
    if index = 0x1100 ∧ sub = 2 then s1.takeNodeId else s1)

/-! ### Sessions (R355 to R358, R379) -/

/-- An AUTH_FAIL counted against its source; at the threshold it is locked out (R358). -/
def State.noteAuthFail (s : State) (src : BitVec 48) : State :=
  let n := ((s.mgmt.fails.find? fun e => e.1 = src).map (·.2)).getD 0 + 1
  let rest := s.mgmt.fails.filter fun e => decide (e.1 ≠ src)
  s.updMgmt fun m =>
    if m.obj 0x1200 7 ≤ n then { m with authFails := m.authFails + 1, fails := rest, lockouts := m.lockouts.filter (fun x => decide (x ≠ src)) ++ [src] }
    else { m with authFails := m.authFails + 1, fails := rest ++ [(src, n)] }

/-- Slots a role may take: the eighth bus slot only SAFETY; on the service port two, and no SAFETY. -/
def eligible (service : Bool) (role : Nat) : List Nat := if service then [8, 9] else if role = 3 then [0, 1, 2, 3, 4, 5, 6, 7] else [0, 1, 2, 3, 4, 5, 6]
def Mgmt.freeSlot (m : Mgmt) (service : Bool) (role : Nat) : Option Nat :=
  (eligible service role).find? fun i => (Sparse.find? m.sessions i).isNone

/-- AUTH_CHALLENGE (R355, R357, R358). -/
def State.actChallenge (s : State) (f : Frame) : State × Ans :=
  let role := (f.data.getD 0 0).toNat
  if f.srcAddr ∈ s.mgmt.lockouts then (s, Ans.of dLockout)
  else if f.data.length ≠ 1 then (s, Ans.of dLength)
  else if role = 0 ∨ 3 < role ∨ (f.service ∧ role = 3) then (s.noteAuthFail f.srcAddr, Ans.of dAuthFail)
  else if s.mgmt.freeSlot f.service role = none then (s, Ans.of dDeviceBusy)
  else
    let n := freshNonce s.free
    let c : Challenge := { src := f.srcAddr, role := role, nonce := n, service := f.service }
    (s.bump.updMgmt fun m => { m with challenges := m.challenges.filter (fun x => decide (x.src ≠ f.srcAddr) || decide (x.service ≠ f.service)) ++ [c] },
      { status := dOk, data := n, more := false })

def execAuthChallenge (f : Frame) (s : State) : Out := .next (if f.op = 3 then s.receive f fun s _ => s.actChallenge f else s)

/-- A session number in use by none: 1 to 0xFFFE. -/
def Mgmt.freshNum (m : Mgmt) : BitVec 16 :=
  let cand := (List.range 16).map fun i => BitVec.ofNat 16 ((m.nextNum.toNat + i + 65533) % 65534 + 1)
  (cand.find? fun c => !(m.sessions.any fun e => decide (e.2.num = c))).getD m.nextNum

/-- AUTH_RESPONSE (R355): the nonce serves one response; a right tag opens a session with key KS. -/
def State.authResponse (s : State) (f : Frame) : State :=
  let c := s.mgmt.challenges.find? fun x => decide (x.src = f.srcAddr) && decide (x.service = f.service)
  let s1 := s.updMgmt fun m => { m with challenges := m.challenges.filter fun x => decide (some x ≠ c) }
  let fail := (s1.noteAuthFail f.srcAddr).replyTo f 12 0 (Ans.of dAuthFail)
  match c with
  | none => fail
  | some x =>
    let k := s.mgmt.roleKey x.role
    if f.data.length ≠ 32 ∨ f.data ≠ roleProof k x.nonce x.role then fail
    else match s.mgmt.freeSlot f.service x.role with
      | none => s1.replyTo f 12 0 (Ans.of dDeviceBusy)
      | some slot =>
        let num := s.mgmt.freshNum
        let ses : Session := { src := f.srcAddr, role := x.role, num := num, key := hmac k (f.data ++ x.nonce ++ [0x53]), ctrIn := 0, ctrOut := 0 }
        (s1.updMgmt fun m => { m with sessions := Sparse.insert m.sessions slot ses, nextNum := BitVec.ofNat 16 (num.toNat % 65534 + 1),
                                      snaps := Sparse.erase m.snaps slot, staging := Sparse.erase m.staging slot }).replyTo f slot num (Ans.of dOk)

def execAuthResponse (f : Frame) (s : State) : Out :=
  .next (if f.op ≠ 4 ∨ s.receives f = false then s
    else if f.session ≠ 0 then s.receive f fun s _ => (s, Ans.of dState)
    else if frameBad f then s.replyTo f 12 0 (Ans.of dBadFrame) else s.authResponse f)

/-- CLOSE (R357): the session ends after its reply. -/
def execClose (f : Frame) (s : State) : Out :=
  .next (if f.op ≠ 5 then s
    else
      let s1 := s.receive f fun s w => (s, Ans.of (if w.slot = 12 then dNoSession else dOk))
      match s.mgmt.sessionOf f with
      | none => s1
      | some (slot, x) => if s.receives f ∧ f.session ≠ 0 ∧ x.accepts f ∧ frameBad f = false then s1.endSession slot else s1)

def execSessionIdleTimeout (slot : Fin 10) (s : State) : Out :=
  .next (if (Sparse.find? s.mgmt.sessions slot).isSome then s.endSession slot else s)
/-- SNAPSHOT_EXPIRE (R349). -/
def execSnapshotExpire (slot : Fin 13) (s : State) : Out := .next (s.updMgmt fun m => { m with snaps := Sparse.erase m.snaps slot })
/-- STAGING_EXPIRE (R350): a download staged by the session ends too. -/
def execStagingExpire (slot : Fin 13) (s : State) : Out :=
  let s1 := if s.maint.download.any fun d => d.2 = slot.val then s.dropDownload else s
  .next (s1.updMgmt fun m => { m with staging := Sparse.erase m.staging slot })
/-- LOCKOUT_EXPIRE (R358): 60 s are over. Sources 0 and 1 stand for the mailboxes. -/
def execLockoutExpire (src : BitVec 48) (s : State) : Out :=
  let s1 := s.updMgmt fun m => { m with lockouts := m.lockouts.filter fun x => decide (x ≠ src) }
  .next (if src.toNat < 2 then s1.updHost src.toNat fun h => { h with mbox := { h.mbox with locked := false } } else s1)

/-! ### Presence (R346, R362) -/

/-- The data of an ANNOUNCE, in the order of R362. -/
def State.announceData (s : State) : List Byte :=
  serialBytes ++ leBytes 1 s.mgmt.nodeId ++ leBytes 2 (s.mgmt.obj 0x7100 1) ++ leBytes 1 s.power.st.code ++
    leBytes 1 (bitAt (decide ((s.host 0).hrdy = .ready)) 0 + bitAt (decide ((s.host 1).hrdy = .ready)) 1) ++
    leBytes 4 s.hub.seq.toNat ++ leBytes 4 s.hub.unacked ++ leBytes 1 (bitAt (s.comp 1).useB 0)

def State.announceTo (s : State) (dst : BitVec 48) : State :=
  s.send { dst := dst, op := 0x10, status := 0, seq := 0, index := 0, sub := 0, type := 0, offset := 0, more := false, session := 0, ctr := 0,
           data := s.announceData, tag := [] }

/-- ANNOUNCE (R362): to the group, every OD 1100.06 ms, after a change, and once at island boot. -/
def execAnnounce (s : State) : Out := .next (if s.mgmt.up then s.announceTo s.mgmt.group else s)

/-- DISCOVER (R362, Table 15.3): an ANNOUNCE to the requester; a bad or unknown frame is answered as any other. -/
def execDiscover (f : Frame) (s : State) : Out :=
  .next (if f.op ≠ 0x12 ∨ s.receives f = false then s
    else if frameBad f then s.receive f fun s _ => (s, Ans.of dBadFrame)
    else if f.session = 0 then s.announceTo f.srcAddr
    else match s.mgmt.sessionOf f with
      | none => s.replyTo f 12 f.session (Ans.of dNoSession)
      | some (slot, x) =>
        if x.accepts f then
          (s.updMgmt fun m => { m with sessions := Sparse.insert m.sessions slot { x with ctrIn := f.ctr } }).announceTo f.srcAddr
        else s.updMgmt fun m => { m with badTags := m.badTags + 1 })

/-- BEACON_TIMEOUT (R346): 4 ms without a beacon; a coordinator sends its own. -/
def execBeaconTimeout (s : State) : Out :=
  .next (if s.mgmt.up ∧ s.mgmt.nodeId ≠ 0 then s.updMgmt fun m => { m with csma := true, beaconLost := m.beaconLost + 1 } else s)
/-- BEACON_RECEIVED (R346). -/
def execBeaconReceived (s : State) : Out := .next (s.updMgmt fun m => { m with csma := false })

end Sys2Proof.Machine
end

