-- ==== Sys2Proof/Machine/Dispatch.lean ====
section
/-! DEFINITION. exec: one arm per command, each a direct call of the command's meaning. -/

namespace Sys2Proof.Machine

/-- What a command does to everything but the queue. -/
def exec (i : Instr) (s : State) : Host.Outcome State Fault Refusal :=
  match i with
  -- array macro
  | .macroRowWrite c m by_ row mask data check => Sys2Proof.Machine.execMacroRowWrite c m by_ row mask data check s
  | .macroRowRead c m row => Sys2Proof.Machine.execMacroRowRead c m row s
  | .mcfgConfigWrite c m by_ v => Sys2Proof.Machine.execMcfgConfigWrite c m by_ v s
  | .mgselWrite c m by_ v => Sys2Proof.Machine.execMgselWrite c m by_ v s
  | .mcoefWrite c m by_ set v => Sys2Proof.Machine.execMcoefWrite c m by_ set v s
  | .stateToArmed c m by_ => Sys2Proof.Machine.execStateToArmed c m by_ s
  | .stateToLoading c m by_ => Sys2Proof.Machine.execStateToLoading c m by_ s
  | .stateToOffline c m by_ => Sys2Proof.Machine.execStateToOffline c m by_ s
  | .stateToRetired c m by_ => Sys2Proof.Machine.execStateToRetired c m by_ s
  | .recheckSweep c m => Sys2Proof.Machine.execRecheckSweep c m s
  | .fieldRepair c m what => Sys2Proof.Machine.execFieldRepair c m what s
  | .fieldRepairRewriteDone c m => Sys2Proof.Machine.execFieldRepairRewriteDone c m s
  -- array engine
  | .apass c tag slot => Sys2Proof.Machine.execApass c tag slot s
  | .apred c tag slot => Sys2Proof.Machine.execApred c tag slot s
  | .arelease c tag slot => Sys2Proof.Machine.execArelease c tag slot s
  | .passCmdAtHead c => Sys2Proof.Machine.execPassCmdAtHead c s
  | .passRelease c => Sys2Proof.Machine.execPassRelease c s
  | .planeComplete c => Sys2Proof.Machine.execPlaneComplete c s
  | .tileFinish c => Sys2Proof.Machine.execTileFinish c s
  | .retryRestart c => Sys2Proof.Machine.execRetryRestart c s
  | .macroSpareSwap c m => Sys2Proof.Machine.execMacroSpareSwap c m s
  | .ammapWrite c j v => Sys2Proof.Machine.execAmmapWrite c j v s
  | .tileWindowWrite c e addr data => Sys2Proof.Machine.execTileWindowWrite c e addr data s
  | .markFull c t => Sys2Proof.Machine.execMarkFull c t s
  | .tdescWrite c t v => Sys2Proof.Machine.execTdescWrite c t v s
  | .rmcfgWrite c ctx v => Sys2Proof.Machine.execRmcfgWrite c ctx v s
  | .vsfWrite c ix scale => Sys2Proof.Machine.execVsfWrite c ix scale s
  | .ahcfgWrite c t v => Sys2Proof.Machine.execAhcfgWrite c t v s
  | .rescaleTableWrite c ix v => Sys2Proof.Machine.execRescaleTableWrite c ix v s
  | .outputTableWrite c addr data => Sys2Proof.Machine.execOutputTableWrite c addr data s
  | .adrain c tag slot => Sys2Proof.Machine.execAdrain c tag slot s
  | .drainStart c => Sys2Proof.Machine.execDrainStart c s
  | .drainComplete c => Sys2Proof.Machine.execDrainComplete c s
  | .amerge c => Sys2Proof.Machine.execAmerge c s
  | .hubMergeStart p off => Sys2Proof.Machine.execHubMergeStart p off s
  | .hubMergeDone p off => Sys2Proof.Machine.execHubMergeDone p off s
  | .satom c => Sys2Proof.Machine.execSatom c s
  | .scatom c => Sys2Proof.Machine.execScatom c s
  -- control core
  | .longWordIssue c => Sys2Proof.Machine.execLongWordIssue c s
  | .nop c => Sys2Proof.Machine.execNop c s
  | .add c xd xa xb => Sys2Proof.Machine.execAdd c xd xa xb s
  | .sub c xd xa xb => Sys2Proof.Machine.execSub c xd xa xb s
  | .and c xd xa xb => Sys2Proof.Machine.execAnd c xd xa xb s
  | .or c xd xa xb => Sys2Proof.Machine.execOr c xd xa xb s
  | .xor c xd xa xb => Sys2Proof.Machine.execXor c xd xa xb s
  | .shl c xd xa xb => Sys2Proof.Machine.execShl c xd xa xb s
  | .shr c xd xa xb => Sys2Proof.Machine.execShr c xd xa xb s
  | .sra c xd xa xb => Sys2Proof.Machine.execSra c xd xa xb s
  | .mul c xd xa xb => Sys2Proof.Machine.execMul c xd xa xb s
  | .min c xd xa xb => Sys2Proof.Machine.execMin c xd xa xb s
  | .max c xd xa xb => Sys2Proof.Machine.execMax c xd xa xb s
  | .addi c xd xa imm => Sys2Proof.Machine.execAddi c xd xa imm s
  | .li c xd imm => Sys2Proof.Machine.execLi c xd imm s
  | .lih c xd imm => Sys2Proof.Machine.execLih c xd imm s
  | .beq c xa xb target => Sys2Proof.Machine.execBeq c xa xb target s
  | .bne c xa xb target => Sys2Proof.Machine.execBne c xa xb target s
  | .blt c xa xb target => Sys2Proof.Machine.execBlt c xa xb target s
  | .bge c xa xb target => Sys2Proof.Machine.execBge c xa xb target s
  | .jmp c target => Sys2Proof.Machine.execJmp c target s
  | .loop c xa target => Sys2Proof.Machine.execLoop c xa target s
  | .csrr c xd csr => Sys2Proof.Machine.execCsrr c xd csr s
  | .csrw c csr xa => Sys2Proof.Machine.execCsrw c csr xa s
  | .fset c f => Sys2Proof.Machine.execFset c f s
  | .fclr c f => Sys2Proof.Machine.execFclr c f s
  | .trap c tag detail => Sys2Proof.Machine.execTrap c tag detail s
  | .done c tag xa => Sys2Proof.Machine.execDone c tag xa s
  | .syncNop c => Sys2Proof.Machine.execSyncNop c s
  | .fence c emask => Sys2Proof.Machine.execFence c emask s
  | .wait c acidx value consume => Sys2Proof.Machine.execWait c acidx value consume s
  | .arrive c tag dir acidx amount => Sys2Proof.Machine.execArrive c tag dir acidx amount s
  | .neighbourArrival owner d => Sys2Proof.Machine.execNeighbourArrival owner d s
  | .arriveAck c d => Sys2Proof.Machine.execArriveAck c d s
  | .step c stepid => Sys2Proof.Machine.execStep c stepid s
  | .barrier c scope bid => Sys2Proof.Machine.execBarrier c scope bid s
  | .bprep c bid lead => Sys2Proof.Machine.execBprep c bid lead s
  | .ophint c op phase => Sys2Proof.Machine.execOphint c op phase s
  | .ophintExpire c => Sys2Proof.Machine.execOphintExpire c s
  | .sigRaise c => Sys2Proof.Machine.execSigRaise c s
  | .coreWaitTimeout c => Sys2Proof.Machine.execCoreWaitTimeout c s
  | .lcopy c => Sys2Proof.Machine.execLcopy c s
  | .lfill c => Sys2Proof.Machine.execLfill c s
  | .scopy c => Sys2Proof.Machine.execScopy c s
  | .aroww c => Sys2Proof.Machine.execAroww c s
  | .arowr c => Sys2Proof.Machine.execArowr c s
  | .commandComplete c e => Sys2Proof.Machine.execCommandComplete c e s
  | .faultRecordTaken c => Sys2Proof.Machine.execFaultRecordTaken c s
  | .gatherFlush c e => Sys2Proof.Machine.execGatherFlush c e s
  | .coreStart c bank entry x => Sys2Proof.Machine.execCoreStart c bank entry x s
  | .coreHold c => Sys2Proof.Machine.execCoreHold c s
  | .coreRelease c => Sys2Proof.Machine.execCoreRelease c s
  | .coreStop c => Sys2Proof.Machine.execCoreStop c s
  | .ibankLoad c bank at_ words => Sys2Proof.Machine.execIbankLoad c bank at_ words s
  | .replayStart c => Sys2Proof.Machine.execReplayStart c s
  | .replayRestore c => Sys2Proof.Machine.execReplayRestore c s
  | .rollbackApply owner d => Sys2Proof.Machine.execRollbackApply owner d s
  | .rollbackAck c => Sys2Proof.Machine.execRollbackAck c s
  | .patrolRead c bank => Sys2Proof.Machine.execPatrolRead c bank s
  | .spownWrite c r v => Sys2Proof.Machine.execSpownWrite c r v s
  | .regionScrubDone c r => Sys2Proof.Machine.execRegionScrubDone c r s
  | .hinvWrite c v => Sys2Proof.Machine.execHinvWrite c v s
  | .hinvDone c => Sys2Proof.Machine.execHinvDone c s
  | .spareBankSwap c k bank => Sys2Proof.Machine.execSpareBankSwap c k bank s
  | .spareBankCopyDone c k => Sys2Proof.Machine.execSpareBankCopyDone c k s
  | .registerWrite t w data => Sys2Proof.Machine.execRegisterWrite t w data s
  -- vector and fine engines
  | .vcopy c => Sys2Proof.Machine.execVcopy c s
  | .vadd c => Sys2Proof.Machine.execVadd c s
  | .vsub c => Sys2Proof.Machine.execVsub c s
  | .vmul c => Sys2Proof.Machine.execVmul c s
  | .vmax c => Sys2Proof.Machine.execVmax c s
  | .vmin c => Sys2Proof.Machine.execVmin c s
  | .vfma c => Sys2Proof.Machine.execVfma c s
  | .vlerp c => Sys2Proof.Machine.execVlerp c s
  | .vlerpsq c => Sys2Proof.Machine.execVlerpsq c s
  | .vdivsq c => Sys2Proof.Machine.execVdivsq c s
  | .vexp c => Sys2Proof.Machine.execVexp c s
  | .vrsqrt c => Sys2Proof.Machine.execVrsqrt c s
  | .vact c => Sys2Proof.Machine.execVact c s
  | .vdiv c => Sys2Proof.Machine.execVdiv c s
  | .vrsum c => Sys2Proof.Machine.execVrsum c s
  | .vrmax c => Sys2Proof.Machine.execVrmax c s
  | .vrssq c => Sys2Proof.Machine.execVrssq c s
  | .vpsum c => Sys2Proof.Machine.execVpsum c s
  | .vfsum c => Sys2Proof.Machine.execVfsum c s
  | .vsmx c => Sys2Proof.Machine.execVsmx c s
  | .vsmxc c => Sys2Proof.Machine.execVsmxc c s
  | .viadd c => Sys2Proof.Machine.execViadd c s
  | .visub c => Sys2Proof.Machine.execVisub c s
  | .vimul c => Sys2Proof.Machine.execVimul c s
  | .vimax c => Sys2Proof.Machine.execVimax c s
  | .fmm c => Sys2Proof.Machine.execFmm c s
  -- hub commands and scheduler
  | .install ring recs => Sys2Proof.Machine.execInstall ring recs s
  | .installReplace ring recs => Sys2Proof.Machine.execInstallReplace ring recs s
  | .codeBankSwitch prog => Sys2Proof.Machine.execCodeBankSwitch prog s
  | .uninstall ring => Sys2Proof.Machine.execUninstall ring s
  | .sqDoorbell ring tail => Sys2Proof.Machine.execSqDoorbell ring tail s
  | .commandFetch ring cmd => Sys2Proof.Machine.execCommandFetch ring cmd s
  | .hostNop ring => Sys2Proof.Machine.execHostNop ring s
  | .streamOpen ring => Sys2Proof.Machine.execStreamOpen ring s
  | .streamReq ring => Sys2Proof.Machine.execStreamReq ring s
  | .streamStop ring => Sys2Proof.Machine.execStreamStop ring s
  | .streamClose ring => Sys2Proof.Machine.execStreamClose ring s
  | .streamRelease ring => Sys2Proof.Machine.execStreamRelease ring s
  | .signal ring => Sys2Proof.Machine.execSignal ring s
  | .budgetGrant late => Sys2Proof.Machine.execBudgetGrant late s
  | .epochBoundary => Sys2Proof.Machine.execEpochBoundary s
  | .stepRecordReceived c => Sys2Proof.Machine.execStepRecordReceived c s
  | .invocationComplete prog => Sys2Proof.Machine.execInvocationComplete prog s
  | .ctrlMemAdd who mem addr wide v => Sys2Proof.Machine.execCtrlMemAdd who mem addr wide v s
  | .ctrlMemSwap who mem addr wide v => Sys2Proof.Machine.execCtrlMemSwap who mem addr wide v s
  | .ownerWrite who mem owner => Sys2Proof.Machine.execOwnerWrite who mem owner s
  -- partitions, rebinding, spares, safety island
  | .partitionCreate f => Sys2Proof.Machine.execPartitionCreate f s
  | .partitionDelete f => Sys2Proof.Machine.execPartitionDelete f s
  | .partitionDeleteForce f => Sys2Proof.Machine.execPartitionDeleteForce f s
  | .partitionCommit f => Sys2Proof.Machine.execPartitionCommit f s
  | .partitionDiscard f => Sys2Proof.Machine.execPartitionDiscard f s
  | .partitionRebind f => Sys2Proof.Machine.execPartitionRebind f s
  | .partitionChangeComplete p => Sys2Proof.Machine.execPartitionChangeComplete p s
  | .rebindStart prog lcores => Sys2Proof.Machine.execRebindStart prog lcores s
  | .rebindHoldTimeout prog => Sys2Proof.Machine.execRebindHoldTimeout prog s
  | .rebindCopyDone prog => Sys2Proof.Machine.execRebindCopyDone prog s
  | .dieHeartbeat d => Sys2Proof.Machine.execDieHeartbeat d s
  | .dieHeartbeatTimeout d => Sys2Proof.Machine.execDieHeartbeatTimeout d s
  | .journalPersist => Sys2Proof.Machine.execJournalPersist s
  | .hubRuntimeWatchdog => Sys2Proof.Machine.execHubRuntimeWatchdog s
  | .islandWatchdog => Sys2Proof.Machine.execIslandWatchdog s
  -- power delivery
  | .auxStart => Sys2Proof.Machine.execAuxStart s
  | .auxStop => Sys2Proof.Machine.execAuxStop s
  | .islandBootDone nid => Sys2Proof.Machine.execIslandBootDone nid s
  | .mgmtClkSwitch => Sys2Proof.Machine.execMgmtClkSwitch s
  | .refclkLoss => Sys2Proof.Machine.execRefclkLoss s
  | .onRequest => Sys2Proof.Machine.execOnRequest s
  | .offRequest trayStop => Sys2Proof.Machine.execOffRequest trayStop s
  | .busShortTestDone short => Sys2Proof.Machine.execBusShortTestDone short s
  | .busInRegulation => Sys2Proof.Machine.execBusInRegulation s
  | .dieStepComplete => Sys2Proof.Machine.execDieStepComplete s
  | .softStartFail d => Sys2Proof.Machine.execSoftStartFail d s
  | .hiccupExpire d => Sys2Proof.Machine.execHiccupExpire d s
  | .graceEnd => Sys2Proof.Machine.execGraceEnd s
  | .diesIdle => Sys2Proof.Machine.execDiesIdle s
  | .dieStepOff => Sys2Proof.Machine.execDieStepOff s
  | .busDischarged => Sys2Proof.Machine.execBusDischarged s
  | .minOffExpire => Sys2Proof.Machine.execMinOffExpire s
  | .busShort => Sys2Proof.Machine.execBusShort s
  | .regulatorLatchOff d => Sys2Proof.Machine.execRegulatorLatchOff d s
  | .phaseFailOpen d ph => Sys2Proof.Machine.execPhaseFailOpen d ph s
  | .phaseSenseCheck d currents vout ibus ripple => Sys2Proof.Machine.execPhaseSenseCheck d currents vout ibus ripple s
  | .powerDieFault pd => Sys2Proof.Machine.execPowerDieFault pd s
  | .vinFail vin power => Sys2Proof.Machine.execVinFail vin power s
  | .overvoltage vin power => Sys2Proof.Machine.execOvervoltage vin power s
  | .lastGaspDone => Sys2Proof.Machine.execLastGaspDone s
  | .coolantStop history => Sys2Proof.Machine.execCoolantStop history s
  | .thermalTrip d sensor => Sys2Proof.Machine.execThermalTrip d sensor s
  -- power estimation and control
  | .estimationInterval d counts celsius => Sys2Proof.Machine.execEstimationInterval d counts celsius s
  | .peakLoopTick => Sys2Proof.Machine.execPeakLoopTick s
  | .gcorrUpdate measured valid total => Sys2Proof.Machine.execGcorrUpdate measured valid total s
  | .thermalLoop d sensors => Sys2Proof.Machine.execThermalLoop d sensors s
  | .thermalLimit d sensor => Sys2Proof.Machine.execThermalLimit d sensor s
  | .pllStepDone d => Sys2Proof.Machine.execPllStepDone d s
  | .voltageSettled d => Sys2Proof.Machine.execVoltageSettled d s
  | .rampUpdate d => Sys2Proof.Machine.execRampUpdate d s
  | .rampHoldExpire => Sys2Proof.Machine.execRampHoldExpire s
  | .paceReceived src lateness => Sys2Proof.Machine.execPaceReceived src lateness s
  | .paceCeilingExpire => Sys2Proof.Machine.execPaceCeilingExpire s
  | .tmcfgWrite m by_ v => Sys2Proof.Machine.execTmcfgWrite m by_ v s
  | .monitorSample m value ovr => Sys2Proof.Machine.execMonitorSample m value ovr s
  -- Kraox
  | .flitReceived p half f => Sys2Proof.Machine.execFlitReceived p half f s
  | .retryRequest p seq => Sys2Proof.Machine.execRetryRequest p seq s
  | .laneSwap p half lane => Sys2Proof.Machine.execLaneSwap p half lane s
  | .halfLinkRetrained p half goodLanes => Sys2Proof.Machine.execHalfLinkRetrained p half goodLanes s
  | .heartbeatSend p => Sys2Proof.Machine.execHeartbeatSend p s
  | .portHeartbeatTimeout p => Sys2Proof.Machine.execPortHeartbeatTimeout p s
  | .resettingSet p => Sys2Proof.Machine.execResettingSet p s
  | .drainingSet p => Sys2Proof.Machine.execDrainingSet p s
  | .portTrained p good0 good1 => Sys2Proof.Machine.execPortTrained p good0 good1 s
  | .portTrainTimeout p => Sys2Proof.Machine.execPortTrainTimeout p s
  | .collectiveStart p off => Sys2Proof.Machine.execCollectiveStart p off s
  | .collectiveDone p off arrived => Sys2Proof.Machine.execCollectiveDone p off arrived s
  | .keepaliveSend => Sys2Proof.Machine.execKeepaliveSend s
  | .keepaliveTimeout member => Sys2Proof.Machine.execKeepaliveTimeout member s
  | .leaseRenew f => Sys2Proof.Machine.execLeaseRenew f s
  | .leaseSend => Sys2Proof.Machine.execLeaseSend s
  | .leaseExpire => Sys2Proof.Machine.execLeaseExpire s
  | .leaseLossFreeze => Sys2Proof.Machine.execLeaseLossFreeze s
  | .freezeRetentionExpire => Sys2Proof.Machine.execFreezeRetentionExpire s
  | .resume f => Sys2Proof.Machine.execResume f s
  | .discard f => Sys2Proof.Machine.execDiscard f s
  -- host ports and external memory
  | .perstAssert p => Sys2Proof.Machine.execPerstAssert p s
  | .perstDeassert p => Sys2Proof.Machine.execPerstDeassert p s
  | .hostLinkDown p => Sys2Proof.Machine.execHostLinkDown p s
  | .hostLaneReplace p lane => Sys2Proof.Machine.execHostLaneReplace p lane s
  | .attnPulseEnd p => Sys2Proof.Machine.execAttnPulseEnd p s
  | .pauseBegin => Sys2Proof.Machine.execPauseBegin s
  | .pauseEnd => Sys2Proof.Machine.execPauseEnd s
  | .hdmRead p addr => Sys2Proof.Machine.execHdmRead p addr s
  | .hdmWrite p addr data => Sys2Proof.Machine.execHdmWrite p addr data s
  | .identifyMemoryDevice p => Sys2Proof.Machine.execIdentifyMemoryDevice p s
  | .getSupportedLogs p => Sys2Proof.Machine.execGetSupportedLogs p s
  | .getLog p log => Sys2Proof.Machine.execGetLog p log s
  | .getEventRecords p => Sys2Proof.Machine.execGetEventRecords p s
  | .clearEventRecords p handles => Sys2Proof.Machine.execClearEventRecords p handles s
  | .getPoisonList p addr len => Sys2Proof.Machine.execGetPoisonList p addr len s
  | .getHealthInfo p => Sys2Proof.Machine.execGetHealthInfo p s
  | .odRead p index sub offset => Sys2Proof.Machine.execOdRead p index sub offset s
  | .odWrite p index sub data => Sys2Proof.Machine.execOdWrite p index sub data s
  | .mailboxAuthChallenge p => Sys2Proof.Machine.execMailboxAuthChallenge p s
  | .mailboxAuthResponse p tag => Sys2Proof.Machine.execMailboxAuthResponse p tag s
  | .journalRead p first count => Sys2Proof.Machine.execJournalRead p first count s
  | .mailboxSessionTimeout p => Sys2Proof.Machine.execMailboxSessionTimeout p s
  | .lpddrRetrainTick ch ok => Sys2Proof.Machine.execLpddrRetrainTick ch ok s
  | .lpddrRetraining f => Sys2Proof.Machine.execLpddrRetraining f s
  | .lpddrRetrainDone ch ok => Sys2Proof.Machine.execLpddrRetrainDone ch ok s
  | .shadowRebuildDone p copyB => Sys2Proof.Machine.execShadowRebuildDone p copyB s
  -- object dictionary and management bus
  | .read f => Sys2Proof.Machine.execRead f s
  | .write f => Sys2Proof.Machine.execWrite f s
  | .authChallenge f => Sys2Proof.Machine.execAuthChallenge f s
  | .authResponse f => Sys2Proof.Machine.execAuthResponse f s
  | .close f => Sys2Proof.Machine.execClose f s
  | .discover f => Sys2Proof.Machine.execDiscover f s
  | .announce => Sys2Proof.Machine.execAnnounce s
  | .beaconTimeout => Sys2Proof.Machine.execBeaconTimeout s
  | .sessionIdleTimeout slot => Sys2Proof.Machine.execSessionIdleTimeout slot s
  | .snapshotExpire slot => Sys2Proof.Machine.execSnapshotExpire slot s
  | .stagingExpire slot => Sys2Proof.Machine.execStagingExpire slot s
  | .lockoutExpire src => Sys2Proof.Machine.execLockoutExpire src s
  | .keyReplace f => Sys2Proof.Machine.execKeyReplace f s
  | .safetyPowerOff f => Sys2Proof.Machine.execSafetyPowerOff f s
  | .safetyPowerOn f => Sys2Proof.Machine.execSafetyPowerOn f s
  | .clearLatched f => Sys2Proof.Machine.execClearLatched f s
  | .resetArrayDie f => Sys2Proof.Machine.execResetArrayDie f s
  | .resetHubDie f => Sys2Proof.Machine.execResetHubDie f s
  | .resetPowerDie f => Sys2Proof.Machine.execResetPowerDie f s
  | .dieResetRelease d => Sys2Proof.Machine.execDieResetRelease d s
  | .trayStateWrite f => Sys2Proof.Machine.execTrayStateWrite f s
  | .journalAck f => Sys2Proof.Machine.execJournalAck f s
  -- maintenance, test, firmware
  | .marchRequest f => Sys2Proof.Machine.execMarchRequest f s
  | .marchTestDone d failures repaired => Sys2Proof.Machine.execMarchTestDone d failures repaired s
  | .scrubCycle d => Sys2Proof.Machine.execScrubCycle d s
  | .phaseCalibration f => Sys2Proof.Machine.execPhaseCalibration f s
  | .phaseCalibrationDone d passed => Sys2Proof.Machine.execPhaseCalibrationDone d passed s
  | .imageDownload f => Sys2Proof.Machine.execImageDownload f s
  | .imageVerifyDone component => Sys2Proof.Machine.execImageVerifyDone component s
  | .activate f => Sys2Proof.Machine.execActivate f s
  | .activationUnitDone component => Sys2Proof.Machine.execActivationUnitDone component s
  | .confirm f => Sys2Proof.Machine.execConfirm f s
  | .revert f => Sys2Proof.Machine.execRevert f s
  | .abortDownload f => Sys2Proof.Machine.execAbortDownload f s
  | .trialExpire component => Sys2Proof.Machine.execTrialExpire component s
  | .repairRecordsApplied => Sys2Proof.Machine.execRepairRecordsApplied s
  | .bootMarchDone failures => Sys2Proof.Machine.execBootMarchDone failures s
  | .lpddrTrainingDone density => Sys2Proof.Machine.execLpddrTrainingDone density s
  | .runtimeInService => Sys2Proof.Machine.execRuntimeInService s
  -- package
  | .idcode => Sys2Proof.Machine.execIdcode s
  | .bypass => Sys2Proof.Machine.execBypass s
  -- the rows added at the table's end
  | .comparatorBackstop => Sys2Proof.Machine.execComparatorBackstop s
  | .leaveResetTimeout d => Sys2Proof.Machine.execLeaveResetTimeout d s
  | .unitStartTimeout component => Sys2Proof.Machine.execUnitStartTimeout component s
  | .beaconReceived => Sys2Proof.Machine.execBeaconReceived s
  | .cqHeadWrite ring head => Sys2Proof.Machine.execCqHeadWrite ring head s
  | .installComplete prog ok => Sys2Proof.Machine.execInstallComplete prog ok s

end Sys2Proof.Machine
end

