-- ==== Sys2Proof/WellFormed.lean ====
section
/-! DEFINITION. The well-formed commands: operands that a sender of Table 15.2, Table 13.3, Table 9.5 or a power die's telemetry can
form. A bound that is a fact about one operand is in its type; these are the lengths that are not. -/

namespace Sys2Proof

/-- A frame of at most 1,440 data bytes whose tag, where it has one, is 16 bytes (Table 15.2). -/
def Frame.wellFormed (f : Frame) : Bool := decide (f.data.length ≤ 1440) && (decide (f.tag = []) || decide (f.tag.length = 16))

/-- A flit's PAYLOAD is at most 224 bytes (Table 13.3). -/
def Flit.wellFormed (f : Flit) : Bool := decide (f.payload.length ≤ 224)

/-- At most 16 pad descriptors, and data of DATAINIT records shorter than 2^31 bytes, for bit 31 of a length marks a zero fill (Tables 8.3
and 8.6). -/
def Listed.wellFormed (x : Listed) : Bool :=
  decide (x.pads.length ≤ 16) && x.datainit.all fun d => decide (d.data.length < 2 ^ 31) && decide (d.zeros < 2 ^ 31)

/-- The well-formed commands. -/
def WellFormed (i : Instr) : Bool :=
  match i with
  -- array macro
  | .macroRowWrite _ _ _ _ _ _ _ => true
  | .macroRowRead _ _ _ => true
  | .mcfgConfigWrite _ _ _ _ => true
  | .mgselWrite _ _ _ _ => true
  | .mcoefWrite _ _ _ _ _ => true
  | .stateToArmed _ _ _ => true
  | .stateToLoading _ _ _ => true
  | .stateToOffline _ _ _ => true
  | .stateToRetired _ _ _ => true
  | .recheckSweep _ _ => true
  | .fieldRepair _ _ _ => true
  | .fieldRepairRewriteDone _ _ => true
  -- array engine
  | .apass _ _ slot => decide (slot.toNat / 2 ^ 120 = 0x40)
  | .apred _ _ slot => decide (slot.toNat / 2 ^ 120 = 0x41)
  | .arelease _ _ slot => decide (slot.toNat / 2 ^ 120 = 0x42)
  | .passCmdAtHead _ => true
  | .passRelease _ => true
  | .planeComplete _ => true
  | .tileFinish _ => true
  | .retryRestart _ => true
  | .macroSpareSwap _ _ => true
  | .ammapWrite _ _ _ => true
  | .tileWindowWrite _ _ _ data => decide (data ≠ [])
  | .markFull _ _ => true
  | .tdescWrite _ _ _ => true
  | .rmcfgWrite _ _ _ => true
  | .vsfWrite _ _ _ => true
  | .ahcfgWrite _ _ _ => true
  | .rescaleTableWrite _ _ _ => true
  | .outputTableWrite _ _ data => decide (data ≠ [])
  | .adrain _ _ slot => decide (slot.toNat / 2 ^ 120 = 0x43)
  | .drainStart _ => true
  | .drainComplete _ => true
  | .amerge _ => true
  | .hubMergeStart _ _ => true
  | .hubMergeDone _ _ => true
  | .satom _ => true
  | .scatom _ => true
  -- control core
  | .longWordIssue _ => true
  | .nop _ => true
  | .add _ _ _ _ => true
  | .sub _ _ _ _ => true
  | .and _ _ _ _ => true
  | .or _ _ _ _ => true
  | .xor _ _ _ _ => true
  | .shl _ _ _ _ => true
  | .shr _ _ _ _ => true
  | .sra _ _ _ _ => true
  | .mul _ _ _ _ => true
  | .min _ _ _ _ => true
  | .max _ _ _ _ => true
  | .addi _ _ _ _ => true
  | .li _ _ _ => true
  | .lih _ _ _ => true
  | .beq _ _ _ _ => true
  | .bne _ _ _ _ => true
  | .blt _ _ _ _ => true
  | .bge _ _ _ _ => true
  | .jmp _ _ => true
  | .loop _ _ _ => true
  | .csrr _ _ _ => true
  | .csrw _ _ _ => true
  | .fset _ _ => true
  | .fclr _ _ => true
  | .trap _ _ _ => true
  | .done _ _ _ => true
  | .syncNop _ => true
  | .fence _ _ => true
  | .wait _ _ _ _ => true
  | .arrive _ _ _ _ _ => true
  | .neighbourArrival _ _ => true
  | .arriveAck _ _ => true
  | .step _ _ => true
  | .barrier _ _ _ => true
  | .bprep _ _ _ => true
  | .ophint _ _ _ => true
  | .ophintExpire _ => true
  | .sigRaise _ => true
  | .coreWaitTimeout _ => true
  | .lcopy _ => true
  | .lfill _ => true
  | .scopy _ => true
  | .aroww _ => true
  | .arowr _ => true
  | .commandComplete _ _ => true
  | .faultRecordTaken _ => true
  | .gatherFlush _ _ => true
  | .coreStart _ _ _ x => decide (x.length ≤ 31)
  | .coreHold _ => true
  | .coreRelease _ => true
  | .coreStop _ => true
  | .ibankLoad _ _ _ _ => true
  | .replayStart _ => true
  | .replayRestore _ => true
  | .rollbackApply _ _ => true
  | .rollbackAck _ => true
  | .patrolRead _ _ => true
  | .spownWrite _ _ _ => true
  | .regionScrubDone _ _ => true
  | .hinvWrite _ _ => true
  | .hinvDone _ => true
  | .spareBankSwap _ _ _ => true
  | .spareBankCopyDone _ _ => true
  | .registerWrite _ _ data => decide (data ≠ [])
  -- vector and fine engines
  | .vcopy _ => true
  | .vadd _ => true
  | .vsub _ => true
  | .vmul _ => true
  | .vmax _ => true
  | .vmin _ => true
  | .vfma _ => true
  | .vlerp _ => true
  | .vlerpsq _ => true
  | .vdivsq _ => true
  | .vexp _ => true
  | .vrsqrt _ => true
  | .vact _ => true
  | .vdiv _ => true
  | .vrsum _ => true
  | .vrmax _ => true
  | .vrssq _ => true
  | .vpsum _ => true
  | .vfsum _ => true
  | .vsmx _ => true
  | .vsmxc _ => true
  | .viadd _ => true
  | .visub _ => true
  | .vimul _ => true
  | .vimax _ => true
  | .fmm _ => true
  -- hub commands and scheduler
  | .install _ recs => recs.wellFormed
  | .installReplace _ recs => recs.wellFormed
  | .codeBankSwitch _ => true
  | .uninstall _ => true
  | .sqDoorbell _ _ => true
  | .commandFetch _ cmd => decide (cmd.ops.length = 56)
  | .hostNop _ => true
  | .streamOpen _ => true
  | .streamReq _ => true
  | .streamStop _ => true
  | .streamClose _ => true
  | .streamRelease _ => true
  | .signal _ => true
  | .budgetGrant _ => true
  | .epochBoundary => true
  | .stepRecordReceived _ => true
  | .invocationComplete _ => true
  | .ctrlMemAdd _ _ _ _ _ => true
  | .ctrlMemSwap _ _ _ _ _ => true
  | .ownerWrite _ _ _ => true
  -- partitions, rebinding, spares, safety island
  | .partitionCreate f => f.wellFormed
  | .partitionDelete f => f.wellFormed
  | .partitionDeleteForce f => f.wellFormed
  | .partitionCommit f => f.wellFormed
  | .partitionDiscard f => f.wellFormed
  | .partitionRebind f => f.wellFormed
  | .partitionChangeComplete _ => true
  | .rebindStart _ _ => true
  | .rebindHoldTimeout _ => true
  | .rebindCopyDone _ => true
  | .dieHeartbeat _ => true
  | .dieHeartbeatTimeout _ => true
  | .journalPersist => true
  | .hubRuntimeWatchdog => true
  | .islandWatchdog => true
  -- power delivery
  | .auxStart => true
  | .auxStop => true
  | .islandBootDone _ => true
  | .mgmtClkSwitch => true
  | .refclkLoss => true
  | .onRequest => true
  | .offRequest _ => true
  | .busShortTestDone _ => true
  | .busInRegulation => true
  | .dieStepComplete => true
  | .softStartFail _ => true
  | .hiccupExpire _ => true
  | .graceEnd => true
  | .diesIdle => true
  | .dieStepOff => true
  | .busDischarged => true
  | .minOffExpire => true
  | .busShort => true
  | .regulatorLatchOff _ => true
  | .phaseFailOpen _ _ => true
  | .phaseSenseCheck _ currents _ _ _ => decide (currents.length = 24)
  | .powerDieFault _ => true
  | .vinFail _ _ => true
  | .overvoltage _ _ => true
  | .lastGaspDone => true
  | .coolantStop _ => true
  | .thermalTrip _ _ => true
  -- power estimation and control
  | .estimationInterval d counts _ => decide (counts.length = if d.val = 20 then 32 else 80)
  | .peakLoopTick => true
  | .gcorrUpdate _ valid total => decide (0 < total) && decide (valid ≤ total)
  | .thermalLoop _ sensors => decide (sensors.length = 64)
  | .thermalLimit _ _ => true
  | .pllStepDone _ => true
  | .voltageSettled _ => true
  | .rampUpdate _ => true
  | .rampHoldExpire => true
  | .paceReceived _ _ => true
  | .paceCeilingExpire => true
  | .tmcfgWrite _ _ _ => true
  | .monitorSample _ _ _ => true
  -- Kraox
  | .flitReceived _ _ f => f.wellFormed
  | .retryRequest _ _ => true
  | .laneSwap _ _ _ => true
  | .halfLinkRetrained _ _ goodLanes => decide (goodLanes ≤ 20)
  | .heartbeatSend _ => true
  | .portHeartbeatTimeout _ => true
  | .resettingSet _ => true
  | .drainingSet _ => true
  | .portTrained _ good0 good1 => decide (good0 ≤ 20) && decide (good1 ≤ 20)
  | .portTrainTimeout _ => true
  | .collectiveStart _ _ => true
  | .collectiveDone _ _ _ => true
  | .keepaliveSend => true
  | .keepaliveTimeout _ => true
  | .leaseRenew f => f.wellFormed
  | .leaseSend => true
  | .leaseExpire => true
  | .leaseLossFreeze => true
  | .freezeRetentionExpire => true
  | .resume f => f.wellFormed
  | .discard f => f.wellFormed
  -- host ports and external memory
  | .perstAssert _ => true
  | .perstDeassert _ => true
  | .hostLinkDown _ => true
  | .hostLaneReplace _ _ => true
  | .attnPulseEnd _ => true
  | .pauseBegin => true
  | .pauseEnd => true
  | .hdmRead _ _ => true
  | .hdmWrite _ _ data => decide (data ≠ [])
  | .identifyMemoryDevice _ => true
  | .getSupportedLogs _ => true
  | .getLog _ log => decide (log.length = 16)
  | .getEventRecords _ => true
  | .clearEventRecords _ _ => true
  | .getPoisonList _ _ _ => true
  | .getHealthInfo _ => true
  | .odRead _ _ _ _ => true
  | .odWrite _ _ _ _ => true
  | .mailboxAuthChallenge _ => true
  | .mailboxAuthResponse _ tag => decide (tag.length = 32)
  | .journalRead _ _ _ => true
  | .mailboxSessionTimeout _ => true
  | .lpddrRetrainTick _ _ => true
  | .lpddrRetraining f => f.wellFormed
  | .lpddrRetrainDone _ _ => true
  | .shadowRebuildDone _ _ => true
  -- object dictionary and management bus
  | .read f => f.wellFormed
  | .write f => f.wellFormed
  | .authChallenge f => f.wellFormed
  | .authResponse f => f.wellFormed
  | .close f => f.wellFormed
  | .discover f => f.wellFormed
  | .announce => true
  | .beaconTimeout => true
  | .sessionIdleTimeout _ => true
  | .snapshotExpire _ => true
  | .stagingExpire _ => true
  | .lockoutExpire _ => true
  | .keyReplace f => f.wellFormed
  | .safetyPowerOff f => f.wellFormed
  | .safetyPowerOn f => f.wellFormed
  | .clearLatched f => f.wellFormed
  | .resetArrayDie f => f.wellFormed
  | .resetHubDie f => f.wellFormed
  | .resetPowerDie f => f.wellFormed
  | .dieResetRelease _ => true
  | .trayStateWrite f => f.wellFormed
  | .journalAck f => f.wellFormed
  -- maintenance, test, firmware
  | .marchRequest f => f.wellFormed
  | .marchTestDone _ _ _ => true
  | .scrubCycle _ => true
  | .phaseCalibration f => f.wellFormed
  | .phaseCalibrationDone _ _ => true
  | .imageDownload f => f.wellFormed
  | .imageVerifyDone _ => true
  | .activate f => f.wellFormed
  | .activationUnitDone _ => true
  | .confirm f => f.wellFormed
  | .revert f => f.wellFormed
  | .abortDownload f => f.wellFormed
  | .trialExpire _ => true
  | .repairRecordsApplied => true
  | .bootMarchDone _ => true
  | .lpddrTrainingDone density => decide (density.length = 16)
  | .runtimeInService => true
  -- package
  | .idcode => true
  | .bypass => true
  -- the rows added at the table's end
  | .comparatorBackstop => true
  | .leaveResetTimeout _ => true
  | .unitStartTimeout _ => true
  | .beaconReceived => true
  | .cqHeadWrite _ _ => true
  | .installComplete _ _ => true

end Sys2Proof
end

