-- ==== Sys2Proof/Safety.lean ====
section
/-! DEFINITION. What claims are stated in: the conditions under which a core issues, a macro takes row operations and an engine's
command is at its head, and the bounds that a safe run keeps. -/

namespace Sys2Proof.Machine

/-- A core that issues scalar and sync instructions: RUN, no DONE issued, no stop or replay due, room in the fault queue (R107, R112, R127,
R129). -/
def State.issuing (s : State) (c : Nat) : Prop := (s.core c).mayIssue = true

/-- A macro that takes a row operation at once: LOADING or ARMED, no pass, no repair, nothing held (Table 1.14, R26, R28). -/
def MacroState.takesRows (k : MacroState) : Prop :=
  (k.st = .loading ∨ k.st = .armed) ∧ k.passActive = false ∧ k.repairBusy = false ∧ k.held = []

/-- A command at the head of an engine class that runs alone, whose opcode is `opc`: the one that starts next. -/
def State.headIs (s : State) (c : Nat) (e : Eng) (opc : Nat) (q : QEntry) : Prop :=
  (s.core c).nextStart e = some q ∧ slotOpc q.slot = opc

/-- A command of an engine that starts: its START trace, when traces are enabled (R127). -/
def State.begun (s : State) (c : Nat) (e : Eng) (q : QEntry) : State := s.traceEv c 1 q.tag (slotNum e) 1 0

/-- The command of an opcode that runs next at the load or the store engine, and the state in which it runs: one of those that may come
next and need not wait, its trace begun (Table 5.9, R160). -/
def State.turnOf (s : State) (c : Nat) (e : Eng) (opc : Nat) (holds : QEntry → Bool) (q : QEntry) (t : State) : Prop :=
  ∃ u : State, s.pickReady c e opc holds = some (q, u) ∧ t = u.begun c e q

/-- A VE command at the head of its class that passes every check of R178, R144 and R69, with the patterns of A, B and D and the values
read from A and, where it has one, from B. -/
def State.veReady (s : State) (c opc : Nat) (q : QEntry) (a : Pat) (b : Option Pat) (d : Pat) (va vb : List FV) : Prop :=
  let t := s.begun c .ve q
  s.headIs c .ve opc q ∧ (s.core c).veHolds q = false ∧ veSlotBad q.slot = false ∧ veParamBad opc q.par0 q.par1 = false ∧
  vePats (t.core c) q.slot = some (a, b, d) ∧ t.checkOps c true (veOperands q a b d) = 0 ∧
  (isBN (veDfmt q.slot) = true → ascending (bnTable (t.core c).win (veDfmt q.slot = 6) (fld q.par0 25 23)) = true) ∧
  t.veRead c portVeA q (veOpA q a 0) a (veAfmt q.slot) (fld q.par0 31 29) (veAxh q.par0) = .ok va ∧
  match b with
  | none => vb = []
  | some p => t.veRead c portVeB q (veOpB q p) p (veBfmt q.slot) (fld q.par0 28 26) (veBxh q.par0) = .ok vb

/-- An element of A as the operation takes it: multiplied by SCALE under SCLM 1 (R167). -/
def CoreState.veDeq (k : CoreState) (q : QEntry) (v : FV) : W32 :=
  if veSclm q.par0 = 1 then fMul v.toFP32 (k.vsfScale (fld q.par0 39 34)) else v.toFP32

/-- A result as the conversion takes it: multiplied by INV under SCLM 2 (R167). -/
def CoreState.veQuant (k : CoreState) (q : QEntry) (r : W32) : FV :=
  if veSclm q.par0 = 2 then fp32 (fMul r (k.vsfInv (fld q.par0 39 34))) else fp32 r

/-- The state after a VE command of FP32 results: converted to D, written, measured before any quantising multiplication, and finished
(R165 to R167, R76, Table 7.5). -/
def State.veEnds (s : State) (c : Nat) (q : QEntry) (a : Pat) (b : Option Pat) (d : Pat) (va vb : List FV) (rs : List W32)
    (empty : Bool) : State :=
  ((s.begun c .ve q).veFinish c q a b d (rs.map ((s.core c).veQuant q)) (rs.map fp32) []
    ((va.any fun v => !v.isFin) || (vb.any fun v => !v.isFin) || rs.any fun x => !fFinite x) empty).ended c q

/-- Who a frame of a session speaks for (R356). -/
def frameWho (f : Frame) (slot : Nat) (x : Session) : Who := { role := x.role, path := if f.service then 1 else 0, slot := slot }

/-- The state in which a session's request acts: the session's counter has taken the frame's (R356). -/
def State.heard (s : State) (f : Frame) (slot : Nat) (x : Session) : State :=
  s.updMgmt fun m => { m with sessions := Sparse.insert m.sessions slot { x with ctrIn := f.ctr } }

/-- The state in which a whole value is written: nothing staged by the session of that object is left (R350). -/
def State.taken (s : State) (f : Frame) (slot : Nat) (x : Session) : State :=
  (s.heard f slot x).updMgmt fun m => m.unstage slot (objKey f.index.toNat f.sub.toNat)

/-- A sound request of a session: received, of the session's source and path, its counter new, its tag right (R348, R356). -/
def State.requests (s : State) (f : Frame) (slot : Nat) (x : Session) : Prop :=
  s.receives f = true ∧ f.session ≠ 0 ∧ s.mgmt.sessionOf f = some (slot, x) ∧ x.accepts f = true ∧ frameBad f = false

/-- A sound WRITE that carries the whole value of an object in one segment and passes every check of R350 to R353. -/
def State.grants (s : State) (f : Frame) (slot : Nat) (x : Session) (o : Obj) : Prop :=
  s.requests f slot x ∧ f.op = 2 ∧ findObj f.index.toNat f.sub.toNat = some o ∧ f.type.toNat = o.type ∧ f.offset = 0 ∧
  bitOf f.flags 1 = false ∧ (s.heard f slot x).judge (frameWho f slot x) f.index.toNat f.sub.toNat true = 0 ∧
  s.mgmt.stagedElsewhere slot (objKey f.index.toNat f.sub.toNat) = false ∧ valueBad o f.data = 0

/-- The answer to a frame of a session, after what it did (R348, R356). -/
def answered (f : Frame) (slot : Nat) (r : State × Nat) : Out := .next (r.1.replyTo f slot f.session (Ans.of r.2))

/-- The bounded memories of the hub hold no more than the spec gives them: 8,192 journal records (R243), the persistent journal of
R243, and the trace buffer (Table 9.13). -/
def State.Bounded (s : State) : Prop :=
  s.hub.journal.length ≤ 8192 ∧ s.hub.persistent.length ≤ 262144 ∧ s.hub.trace.length ≤ poolSize 4

/-- A safe run keeps the hub's bounded memories within their sizes. -/
def Safe (s : State) : Prop := s.Bounded

end Sys2Proof.Machine
end

