-- ==== Sys2Proof/Certificates/Slice0/Obligations.lean ====
section
/-! DEFINITION. The statements about the Q25, from the spec's numbered rules, for the provers. -/

open Sys2Proof Sys2Proof.Machine

/-! ## The queue and reset -/

/-- The model's own queue rule (the row is a block of commands): a command at the front of the queue runs with the queue's rest, and
on an empty queue the block idles (assumption log 1). -/
def Obligations.StepRunsFrontCommand : Prop :=
  (∀ (s : State) (i : Instr) (rest : List Instr), s.pending = i :: rest → step s = exec i (s.setPending rest)) ∧
  (∀ s : State, s.pending = [] → step s = .next s)

/-! ## Array macros -/

/-- Row writes and reads at a macro (R23, R25, R26, R28, R126, Table 1.14). A read answers the record; one of a row that fails also hands
the row to the hub's repair (R30). Reads pass a pass in progress, writes wait behind it; both wait under a repair and behind what waits. -/
def Obligations.MacroRowOperations : Prop :=
  ∀ (s : State) (c : CoreId) (m : MacId) (by_ : Writer) (row : BitVec 12) (mask : BitVec 16) (data : BitVec 4096) (check : W128),
    let k := s.mac c m
    (k.takesRows ∧ row.toNat < 0x810 →
      exec (.macroRowWrite c m by_ row mask data check) s =
        .next ((s.setMac c m (k.store by_ row.toNat mask data check)).answer 0 [])) ∧
    ((k.st = .loading ∨ k.st = .armed) ∧ k.repairBusy = false ∧ k.held = [] ∧ row.toNat < 0x810 →
      ∃ t, exec (.macroRowRead c m row) s = .next t ∧ t.reply = { status := 0, data := k.readRecord row.toNat } ∧
        (k.failing row.toNat = [] → t = s.answer 0 (k.readRecord row.toNat)) ∧
        (k.failing row.toNat ≠ [] → t = ((s.setMac c m (k.noteRead row.toNat)).answer 0 (k.readRecord row.toNat)).readFailed c m row.toNat) ∧
        (∀ d, k.failing row.toNat ≠ [] → k.failedRows = [] → k.passActive = false → s.shadowRow c m row.toNat = some d →
          ((t.mac c m).row row.toNat).data = d)) ∧
    (k.repairBusy = true ∨ k.held ≠ [] →
      exec (.macroRowWrite c m by_ row mask data check) s =
        .next (s.setMac c m { k with held := k.held ++ [.write by_ row mask data check] }) ∧
      exec (.macroRowRead c m row) s = .next (s.setMac c m { k with held := k.held ++ [.read row] })) ∧
    (k.passActive = true →
      exec (.macroRowWrite c m by_ row mask data check) s =
        .next (s.setMac c m { k with held := k.held ++ [.write by_ row mask data check] })) ∧
    (0x810 ≤ row.toNat ∧ k.passActive = false ∧ k.repairBusy = false ∧ k.held = [] →
      exec (.macroRowWrite c m by_ row mask data check) s = .next (s.answer fMacroAddr.toNat []) ∧
      exec (.macroRowRead c m row) s = .next (s.answer fMacroAddr.toNat [])) ∧
    (row.toNat < 0x810 ∧ (k.st = .offline ∨ k.st = .retired) ∧ k.passActive = false ∧ k.repairBusy = false ∧ k.held = [] →
      exec (.macroRowWrite c m by_ row mask data check) s = .next (s.answer fMacroState.toNat []) ∧
      exec (.macroRowRead c m row) s = .next (s.answer fMacroState.toNat []))

/-- What a row write leaves in the row: in a masked segment the written bits, elsewhere the old ones, whatever spare rows and columns serve
it; and when every segment is written without RAW_WRITE the row's check bits agree with R23, so that no group fails (R21, R25, R26). -/
def Obligations.RowWriteStoresAndChecks : Prop :=
  ∀ (k : MacroState) (by_ : Writer) (row : Nat) (mask : BitVec 16) (data : BitVec 4096) (check : W128), row < 0x810 →
    (∀ i, i < 4096 → ((k.store by_ row mask data check).row row).data.getLsbD i =
      if mask.getLsbD (i / 256) then data.getLsbD i else (k.row row).data.getLsbD i) ∧
    (∀ r, r < 0x810 → r ≠ row → (k.store by_ row mask data check).row r = k.row r) ∧
    (k.rawWrite = false → mask = 0xFFFF#16 → (k.store by_ row mask data check).failing row = [])

/-- MGSEL, MCOEF and MCFG writes: accepted in OFFLINE and LOADING with CHECK_STALE raised once rows are written, refused with
CFG_LOCKED_ERR in ARMED and RETIRED, discarded and recorded as SP_PERM from a core program (R24, R27, Table 1.14).
The transitions of Table 1.14 by a writer that is no core program; arming checks the metadata of a sparse macro (R20, R27), and a write of
STATE waits behind what waits at the macro and behind a pass that it would take the macro from (R26). -/
def Obligations.MacroConfigurationAndState : Prop :=
  (∀ (s : State) (c : CoreId) (m : MacId) (by_ : Writer) (set : Fin 16) (v : W64) (u : W32),
    let k := s.mac c m
    (by_ = .program → ∀ i : Instr, i ∈ [Instr.mgselWrite c m by_ v, .mcoefWrite c m by_ set v, .mcfgConfigWrite c m by_ u,
        .stateToArmed c m by_, .stateToLoading c m by_, .stateToOffline c m by_, .stateToRetired c m by_] →
      ∃ t r, exec i s = .next t ∧ t.reply = { status := fSpPerm.toNat, data := [] } ∧ t.macros = s.macros ∧
        t.core c = { s.core c with faultQ := (s.core c).faultQ ++ [r] } ∧ r.code = fSpPerm) ∧
    (by_ ≠ .program ∧ (k.st = .offline ∨ k.st = .loading) →
      exec (.mgselWrite c m by_ v) s =
        .next ((s.setMac c m { k with mgsel := v, checkStale := k.checkStale || k.rowsWritten }).bump.answer 0 []) ∧
      exec (.mcoefWrite c m by_ set v) s =
        .next ((s.setMac c m { k with mcoef := Sparse.set k.mcoef 0 set v,
                                      checkStale := k.checkStale || k.rowsWritten }).bump.answer 0 [])) ∧
    (by_ ≠ .program ∧ (k.st = .armed ∨ k.st = .retired) →
      exec (.mgselWrite c m by_ v) s = .next ((s.setMac c m { k with cfgLockedErr := true }).bump.answer 0 []) ∧
      exec (.mcoefWrite c m by_ set v) s = .next ((s.setMac c m { k with cfgLockedErr := true }).bump.answer 0 []) ∧
      (fld u 17 16 ≠ k.wfmt.toNat ∨ bitOf u 15 ≠ k.sparse →
        exec (.mcfgConfigWrite c m by_ u) s = .next ((s.setMac c m { k with cfgLockedErr := true }).bump.answer 0 []))) ∧
    (by_ ≠ .program ∧ k.st = .loading ∧ k.held = [] ∧ fld u 31 30 = 1 →
      exec (.mcfgConfigWrite c m by_ u) s =
        .next ((s.setMac c m
          { k with wfmt := BitVec.ofNat 2 (fld u 17 16), sparse := bitOf u 15,
                   rawWrite := bitOf u 18 && (k.rawWrite || decide (by_ = .arbiter)),
                   checkStale := k.checkStale ||
                     (k.rowsWritten && (decide (fld u 17 16 ≠ k.wfmt.toNat) || (bitOf u 15 != k.sparse))) }).bump.answer 0 [])) ∧
    (by_ ≠ .program ∧ k.st = .offline ∧ k.held = [] ∧ fld u 31 30 = 1 →
      ∃ t, exec (.mcfgConfigWrite c m by_ u) s = .next t ∧ (t.mac c m).st = .loading ∧ (t.mac c m).wfmt.toNat = fld u 17 16 ∧
        (t.mac c m).sparse = bitOf u 15 ∧ (t.mac c m).rowsWritten = false ∧ (t.mac c m).checkStale = false)) ∧
  (∀ (s : State) (c : CoreId) (m : MacId) (by_ : Writer), by_ ≠ .program →
    let k := s.mac c m
    let put := fun k' : MacroState => (Host.Outcome.next ((s.setMac c m k').bump.answer 0 []) : Out)
    let waits := fun t : MacroSt => put { k with held := k.held ++ [.state by_ t] }
    (k.held = [] →
      (k.st = .loading ∧ k.checkStale = true → exec (.stateToArmed c m by_) s = put { k with recheckBusy := true }) ∧
      (k.st = .loading ∧ k.checkStale = false ∧ (k.sparse = false ∨ k.metaErrors.1 = false) →
        exec (.stateToArmed c m by_) s = put { k with st := .armed }) ∧
      (k.st = .loading ∧ k.checkStale = false ∧ k.sparse = true ∧ k.metaErrors.1 = true →
        ∃ t, exec (.stateToArmed c m by_) s = .next t ∧ (t.mac c m).st = .loading ∧ (t.mac c m).metaErr = true ∧
          (t.mac c m).cfgLockedErr = true) ∧
      (k.st = .armed → exec (.stateToArmed c m by_) s = put k) ∧
      (k.st = .offline ∨ k.st = .retired → exec (.stateToArmed c m by_) s = put { k with cfgLockedErr := true }) ∧
      (k.st = .offline → exec (.stateToLoading c m by_) s =
        put { k with st := .loading, rowsWritten := false, checkStale := false, rows := [], uGen := some s.free }) ∧
      (k.st = .loading → exec (.stateToLoading c m by_) s = put k) ∧
      (k.st = .retired → exec (.stateToLoading c m by_) s = put { k with cfgLockedErr := true }) ∧
      (k.st = .armed ∧ k.passActive = false → exec (.stateToLoading c m by_) s = put { k with st := .loading }) ∧
      (k.st = .armed ∧ k.passActive = false → exec (.stateToOffline c m by_) s = put { k with st := .offline }) ∧
      (k.st = .loading → exec (.stateToOffline c m by_) s = put { k with st := .offline, recheckBusy := false }) ∧
      (k.st = .offline → exec (.stateToOffline c m by_) s = put k ∧ exec (.stateToRetired c m by_) s = put { k with st := .retired }) ∧
      (k.st = .loading → exec (.stateToRetired c m by_) s = put { k with st := .retired, recheckBusy := false }) ∧
      (k.st = .retired → exec (.stateToRetired c m by_) s = put k) ∧
      (k.st = .armed ∧ k.passActive = false → exec (.stateToRetired c m by_) s = put { k with st := .retired }) ∧
      (k.st = .retired ∧ by_ ≠ .arbiter → exec (.stateToOffline c m by_) s = put { k with cfgLockedErr := true }) ∧
      (k.st = .retired ∧ by_ = .arbiter → exec (.stateToOffline c m by_) s = put { k with st := .offline })) ∧
    (k.st = .armed ∧ k.passActive = true → exec (.stateToOffline c m by_) s = waits .offline ∧
      exec (.stateToLoading c m by_) s = waits .loading ∧ exec (.stateToRetired c m by_) s = waits .retired) ∧
    (k.held ≠ [] → exec (.stateToOffline c m by_) s = waits .offline ∧ exec (.stateToLoading c m by_) s = waits .loading ∧
      exec (.stateToRetired c m by_) s = waits .retired ∧ exec (.stateToArmed c m by_) s = waits .armed))

/-- The recheck sweep and field repair (R27 steps 1 to 3, R28, R29). A sweep leaves every row's data as it was with check bits that agree
with R23, and arms the macro, or leaves it in LOADING when its metadata is in error. A repair of an ARMED or LOADING macro fits a spare and
holds the macro, at once or once the pass in progress is complete; without a spare the macro is RETIRED and to be swapped; its end
rewrites what was replaced from the weight shadow, gives the macro back, and is kept in the repair log, in the store and in the journal.
MACRO_SPARE_SWAP (R56) of a macro that is to be swapped, on a core at rest: with a spare on the core every AMMAP entry of the failed macro
names the spare, the failed macro is OFFLINE, and one replay is given back; a core that runs is held at its next STEP mark. -/
def Obligations.MacroRepairAndSwap : Prop :=
  (∀ (s : State) (c : CoreId) (m : MacId),
    let k := s.mac c m
    (k.recheckBusy = true → ∃ t, exec (.recheckSweep c m) s = .next t ∧ t = s.setMac c m (t.mac c m) ∧
      (∀ r, r < 0x810 → ((t.mac c m).row r).data = (k.row r).data ∧ (t.mac c m).failing r = []) ∧
      (t.mac c m).recheckBusy = false ∧ (t.mac c m).checkStale = false ∧
      (k.sparse = false ∨ k.recheck.metaErrors.1 = false → (t.mac c m).st = .armed) ∧
      (k.sparse = true → k.recheck.metaErrors.1 = true → (t.mac c m).st = k.st ∧ (t.mac c m).metaErr = true ∧
        (t.mac c m).cfgLockedErr = true)) ∧
    (k.recheckBusy = false → exec (.recheckSweep c m) s = .next s)) ∧
  (∀ (s : State) (c : CoreId) (m : MacId) (what : RepairKind),
    let k := s.mac c m
    (∀ k1, (k.st = .armed ∨ k.st = .loading) → k.repairBusy = false → repairNames what = true → k.fitSpare what = some k1 →
      (k.passActive = false →
        exec (.fieldRepair c m what) s = .next (s.setMac c m { k1 with repairBusy := true, repairing := some what })) ∧
      (k.passActive = true →
        exec (.fieldRepair c m what) s = .next (s.setMac c m { k with repairBusy := true, repairing := some what }))) ∧
    ((k.st = .armed ∨ k.st = .loading) → k.repairBusy = false → k.passActive = false → k.held = [] → repairNames what = true →
      k.fitSpare what = none →
      ∃ t, exec (.fieldRepair c m what) s = .next t ∧ (t.mac c m).st = .retired ∧ macKey c m ∈ t.maint.retired ∧
        macKey c m ∈ t.hub.swapDue ∧ t.hub.seq = s.hub.seq + 1 ∧ t.cores = s.cores) ∧
    ((k.st = .offline ∨ k.st = .retired ∨ k.repairBusy = true ∨ repairNames what = false) → exec (.fieldRepair c m what) s = .next s) ∧
    (k.repairing = some what → k.passActive = false → k.held = [] → ∃ t, exec (.fieldRepairRewriteDone c m) s = .next t ∧
      t.maint.repairLog = s.maint.repairLog ++ [(macKey c m, what)] ∧ t.maint.storeWrites = s.maint.storeWrites + 1 ∧
      (t.mac c m).repairBusy = false ∧ (t.mac c m).repairing = none ∧ t.hub.seq = s.hub.seq + 1 ∧
      (∀ a d, what = .row a → s.shadowRow c m a.toNat = some d → ((t.mac c m).row a.toNat).data = d) ∧
      (∀ (r : Fin 16) d, what = .metaRow r → s.shadowRow c m (0x800 + r.val) = some d → ((t.mac c m).row (0x800 + r.val)).data = d) ∧
      t.cores = s.cores ∧ t.power = s.power) ∧
    (k.passActive = true ∨ k.repairing = none → exec (.fieldRepairRewriteDone c m) s = .next s)) ∧
  (∀ (s : State) (c : CoreId) (m : MacId), s.rebindHolds c = false →
    (∀ sp, macKey c m ∈ s.hub.swapDue → (s.core c).atRest = true → s.spareMacro c = some sp → sp ≠ m.val → (s.mac c m).st = .armed →
      (s.mac c m).passActive = false → (s.mac c m).held = [] →
      ∃ t, exec (.macroSpareSwap c m) s = .next t ∧ (∀ j, j < 64 → (s.core c).ammap j = some m.val → (t.core c).ammap j = some sp) ∧
        (∀ j, j < 64 → (s.core c).ammap j ≠ some m.val → (t.core c).ammap j = (s.core c).ammap j) ∧
        (t.mac c m).st = .offline ∧ (t.core c).replays = (s.core c).replays - 1 ∧ (t.core c).sp = (s.core c).sp) ∧
    (macKey c m ∈ s.hub.swapDue → (s.core c).atRest = false → (s.core c).st = .run →
      ∃ t, exec (.macroSpareSwap c m) s = .next t ∧ t.core c = { s.core c with holdAt := true } ∧ t.macros = s.macros) ∧
    (macKey c m ∉ s.hub.swapDue → exec (.macroSpareSwap c m) s = .next s))

/-! ## Array engine -/

/-- APASS and APRED enter the AE queue in the pass class, ARELEASE and ADRAIN in the drain class, when the core issues and the queue has
room: one waiting entry with the word's tag and slot is appended, and the registers of its address fields are those at that moment (R34,
R42, R48, R84, R107, R111, R114). Nothing else of the core but its handle cache and entry counter changes. A core that does not issue, or
whose queue is full, takes nothing in. -/
def Obligations.ArrayCommandsEnterQueue : Prop :=
  ∀ (s : State) (c : CoreId) (tag : BitVec 16) (slot : W128),
    let k := s.core c
    ∀ i : Instr × Eng, i ∈ [(Instr.apass c tag slot, Eng.aePass), (.apred c tag slot, .aePass), (.arelease c tag slot, .aeDrain),
        (.adrain c tag slot, .aeDrain)] →
      (s.issuing c → k.room .aePass 1 = true →
        ∃ t q, exec i.1 s = .next t ∧ (t.core c).queue = k.queue ++ [q] ∧ q.eng = i.2 ∧ q.tag = tag ∧ q.slot = slot ∧ q.st = .waiting ∧
          q.xr1 = k.fieldReg (slotMid slot) ∧ q.xr0 = k.fieldReg (slotLo slot) ∧
          (t.core c).x = k.x ∧ (t.core c).ac = k.ac ∧ (t.core c).flags = k.flags ∧ (t.core c).sp = k.sp ∧ (t.core c).win = k.win ∧
          (t.core c).ta = k.ta ∧ (t.core c).tb = k.tb ∧ (t.core c).pass = k.pass ∧ (t.core c).nextPass = k.nextPass ∧
          (∀ d : Nat, d ≠ c → t.core d = s.core d) ∧ t.macros = s.macros ∧ t.hub = s.hub ∧ t.ext = s.ext) ∧
      (k.mayIssue = false ∨ k.room .aePass 1 = false → exec i.1 s = .next s)

/-- The life of a pass command. At the head it meets in turn the fault of its fields, of its translation, of its block and of its operands,
then its tile (R33, R36); with all of them right and its tile as Table 2.6 wants it, it takes the tile (FILLING) and is staged beside the
command that runs, if one does (R37 to R45, R114); on release all its macros enter the pass together, within the die's allowance (R40,
R292), and a macro that left ARMED faults it with its tile as before (Table 1.14); each plane counts, and a lane decided early stays
decided (R46); the retry of R50 raises TSHIFT by 1 and starts its planes again, and a read of it that fails leaves the tile FULL and every
lane in use INV (R401). -/
def Obligations.PassCommandLife : Prop :=
  (∀ (s : State) (c : CoreId) (q : QEntry), (s.core c).nextStart .aePass = some q →
    let k := s.core c
    let fails := fun f : Byte => (Host.Outcome.next (s.setCore c ({ k with xlat := none }.finish q.id f 0 0)) : Out)
    (k.xlat = none →
      (passFieldBad q.slot = true → exec (.passCmdAtHead c) s = fails fAeField) ∧
      (passFieldBad q.slot = false → k.translate (pcMb q.slot) (pcK q.slot * pcN q.slot) = none →
        exec (.passCmdAtHead c) s = fails fAeMap) ∧
      ∀ ms, passFieldBad q.slot = false → k.translate (pcMb q.slot) (pcK q.slot * pcN q.slot) = some ms →
        let ops := passOperands q (s.mac c (ms.headD 0)).wfmt.toNat (s.mac c (ms.headD 0)).sparse
        (s.blockFault c ms (pcN q.slot) ≠ 0 → exec (.passCmdAtHead c) s = fails (s.blockFault c ms (pcN q.slot))) ∧
        (s.blockFault c ms (pcN q.slot) = 0 → s.checkOps c false ops ≠ 0 → exec (.passCmdAtHead c) s = fails (s.checkOps c false ops)) ∧
        (s.blockFault c ms (pcN q.slot) = 0 → s.checkOps c false ops = 0 →
          (k.tileGate q = none → exec (.passCmdAtHead c) s = fails fAeTile) ∧
          (k.tileGate q = some false → exec (.passCmdAtHead c) s =
            .next (s.setCore c { k with xlat := some { id := q.id, macs := ms, ahsrc := k.w32 ahsrcAddr } })) ∧
          (k.tileGate q = some true → (∀ d : Nat, (s.core d).badLanes = []) →
            ∃ t r, exec (.passCmdAtHead c) s = .next t ∧ (t.core c).pass = some (k.pass.getD r) ∧
              (t.core c).nextPass = (if k.pass = none then k.nextPass else some r) ∧ (t.core c).xlat = none ∧
              r.id = q.id ∧ r.phase = .staged ∧ r.macs = ms ∧ r.planes = 0 ∧ r.attempt = 0 ∧ r.decided = [] ∧
              r.before = k.tile (pcTile q.slot) ∧ ((t.core c).tile (pcTile q.slot)).st = .filling ∧
              (pcAcc q.slot = 0 → ((t.core c).tile (pcTile q.slot)).tshift = 0) ∧
              (pcAcc q.slot = 1 → ((t.core c).tile (pcTile q.slot)).tshift = pcPreShift q.slot) ∧
              (pcAcc q.slot = 2 → ((t.core c).tile (pcTile q.slot)).tshift = (k.tile (pcTile q.slot)).tshift) ∧
              (t.core c).sp = k.sp ∧ t.macros = s.macros ∧ t.ext = s.ext ∧ ∀ d : Nat, d ≠ c → t.core d = s.core d)))) ∧
  (∀ (s : State) (c : CoreId) (r : PassRun) (q : QEntry), (s.core c).passEntry = some (r, q) →
    let k := s.core c
    let busy := fun m : Nat => (s.mac c m).repairBusy = true ∨ (s.mac c m).held ≠ [] ∨ (s.mac c m).passActive = true
    let tooMany := (s.die (coreDie c)).allowance < s.runningMacros (coreDie c) + r.macs.length
    (r.phase = .staged → (∀ m ∈ r.macs, (s.mac c m).st = .armed ∧ ¬busy m) → ¬tooMany →
      ∃ t, exec (.passRelease c) s = .next t ∧ t.core c = { k with pass := some { r with phase := .running } } ∧
        (∀ m ∈ r.macs, (t.mac c m).passActive = true) ∧ t.hub = s.hub ∧ t.dies = s.dies ∧
        ∀ d : Nat, d ≠ c → t.core d = s.core d) ∧
    (r.phase = .staged → (∀ m ∈ r.macs, (s.mac c m).st = .armed ∧ (s.mac c m).leaving = false) → ((∃ m ∈ r.macs, busy m) ∨ tooMany) →
      exec (.passRelease c) s = .next s) ∧
    (r.phase = .staged → (∃ m ∈ r.macs, (s.mac c m).st ≠ .armed ∨ (s.mac c m).leaving = true) →
      exec (.passRelease c) s =
        .next (s.setCore c (((k.setTile (pcTile q.slot) r.before).passOver).finish q.id fMacroState 0 0))) ∧
    (r.phase = .running → r.planesOver q.slot = false →
      ∃ r1, exec (.planeComplete c) s = .next (s.setCore c { k with pass := some r1 }) ∧ r1.planes = r.planes + 1 ∧
        r1.macs = r.macs ∧ r1.staged = r.staged ∧ (pcExit q.slot = 0 → r1 = { r with planes := r.planes + 1 }) ∧
        ∀ i v, Sparse.find? r.decided i = some v → Sparse.find? r1.decided i = some v) ∧
    (r.phase = .retryDue →
      let ts := (k.tile (pcTile q.slot)).tshift + 1
      let s1 := s.setCore c (k.setTile (pcTile q.slot) { (k.tile (pcTile q.slot)) with tshift := ts })
      (∀ g, s1.stageAll c q r.wlog r.sparse ts = .ok g →
        ∃ t r1, exec (.retryRestart c) s = .next t ∧ (t.core c).pass = some r1 ∧ r1.phase = .running ∧ r1.attempt = r.attempt + 1 ∧
          r1.planes = 0 ∧ r1.decided = [] ∧ r1.macs = r.macs ∧ r1.staged = g.xs ∧ ((t.core c).tile (pcTile q.slot)).tshift = ts ∧
          t.macros = s.macros ∧ t.hub = s.hub) ∧
      (∀ f, s1.stageAll c q r.wlog r.sparse ts = .error f → (∀ m ∈ r.macs, (s.mac c m).held = []) →
        lanesInUse q.slot r.wlog ≤ 16384 →
        ∃ t, exec (.retryRestart c) s = .next t ∧ ((t.core c).tile (pcTile q.slot)).st = .full ∧ (t.core c).pass = k.nextPass ∧
          (∀ i, i < lanesInUse q.slot r.wlog → (t.core c).laneSt (pcTile q.slot) i = .inv) ∧
          ∃ e ∈ (t.core c).queue, e.id = q.id ∧ ∃ x, e.st = .finished f.fault x)))

/-- TILE_FINISH once the planes are over: a command with RETRY may ask for its retry, and leaves the tile FILLING (R50); else it ends: the
tile is FULL, the next staged command takes its place, and the entry is finished, for an APRED too (R41, R48, R50, R55). Where no group
fails, each lane in use holds what Table 2.5 makes of its decided value, or of its base and the sum of its columns.
The lane range test at a finish (R41, Table 2.5): a sum outside 32 bits saturates with its state, one inside is NORMAL, and a lane
that is not NORMAL before keeps its state. -/
def Obligations.TileFinishEndsPass : Prop :=
  (∀ (s : State) (c : CoreId) (r : PassRun) (q : QEntry), (s.core c).passEntry = some (r, q) → r.phase = .running →
    r.planesOver q.slot = true →
    ∃ t, exec (.tileFinish c) s = .next t ∧
      ((pcRetry q.slot = true ∧ r.attempt < 2 ∧ t = s.setCore c { s.core c with pass := some { r with phase := .retryDue } }) ∨
       (((t.core c).tile (pcTile q.slot)).st = .full ∧ (t.core c).pass = (s.core c).nextPass ∧ (t.core c).nextPass = none ∧
        (∀ m ∈ r.macs, (t.mac c m).passActive = false) ∧ ∃ e ∈ (t.core c).queue, e.id = q.id ∧ ∃ f x, e.st = .finished f x)) ∧
      (pcRetry q.slot = false → pcMon q.slot = 0 → (∀ m ∈ r.macs, (s.mac c m).held = []) → pcN q.slot * r.lanesPer ≤ 16384 →
        (∀ n k, n < pcN q.slot → k < pcK q.slot → s.badGroups c r q.slot n k = []) →
        ∀ i, i < pcN q.slot * r.lanesPer →
          let f := finishLane (Sparse.get r.baseSt .normal i) ((Sparse.find? r.decided i).getD
            (Sparse.get r.baseVal 0 i + s.colSum c r q.slot (pcA q.slot - pcPlanes q.slot) (i / r.lanesPer) (i % r.lanesPer)))
          (t.core c).lane (pcTile q.slot) i = f.1 ∧ (t.core c).laneSt (pcTile q.slot) i = f.2.1)) ∧
  (∀ v : Int,
    (v > 2147483647 → finishLane .normal v = (2147483647, .posInf, true)) ∧
    (v < -2147483648 → finishLane .normal v = (-2147483648, .negInf, true)) ∧
    (-2147483648 ≤ v ∧ v ≤ 2147483647 → finishLane .normal v = (v, .normal, false)) ∧
    ∀ x, x ≠ .normal → (finishLane x v).2.1 = x ∧ (finishLane x v).2.2 = false)

/-- The check of R22 never fails a sound array: where the rows of a dense macro pass R23 in a lane group, the residue of the group is 0
whatever activations a pass drives, so a non-zero residue shows a failing cell. -/
def Obligations.SoundRowsHaveNoResidue : Prop :=
  ∀ (m : MacroState) (g : Nat) (x : Nat → Int), m.sparse = false → g < 16 →
    (∀ r, r < 2048 → g ∉ m.failing r) → m.groupResidue x g = 0

/-- Registers and tables of the array engine: AMMAP by the hub (R32), MARK_FULL and TDESC (R42), VSF (R75), AHCFG (R82) and the rescale
table (R74); RMCFG, the tile windows and the BN tables. EN going from 0 to 1 sets LEARNING and clears the channel records (R52); the window
of a tile takes bytes from LE, SE and VE unless the tile is FILLING or DRAINING, and a value write makes its lane NORMAL (R43,
Table 2.6); a BN8 entry other than 0x8000 is stored while no tile drains and no started VE command reads the table (R90, R176); a write
that must wait leaves everything as it is (assumption log 153). -/
def Obligations.ArrayRegisterAndWindowWrites : Prop :=
  (∀ (s : State) (c : CoreId),
    (∀ (j : Fin 64) (v : Byte), v.toNat % 128 < 72 →
      ∃ t, exec (.ammapWrite c j v) s = .next t ∧ Win.read (t.core c).win (0x040C0000 + j.val) = v ∧
        (∀ a, a ≠ 0x040C0000 + j.val → Win.read (t.core c).win a = Win.read (s.core c).win a) ∧ (t.core c).sp = (s.core c).sp ∧
        t.macros = s.macros) ∧
    (∀ (t : TileId) (v : W32),
      let x := (s.core c).tile t
      let put := fun y : Tile => (Host.Outcome.next (s.setCore c ((s.core c).setTile t y)) : Out)
      (x.st = .empty → x.tshift ≤ 5 → exec (.markFull c t) s = put { x with st := .full }) ∧
      (x.st = .full → x.tshift ≤ 5 → exec (.markFull c t) s = put x) ∧
      (x.st = .filling ∨ x.st = .draining → exec (.markFull c t) s = put x) ∧
      (x.st = .full → exec (.tdescWrite c t v) s = put
        { st := .full, spec := bitOf v 28, tshift := if fld v 27 25 ≤ 5 then fld v 27 25 else x.tshift }) ∧
      (x.st = .empty → exec (.tdescWrite c t v) s = put
        { st := if bitOf v 29 then .full else .empty, spec := bitOf v 28, tshift := if fld v 27 25 ≤ 5 then fld v 27 25 else x.tshift }) ∧
      (x.st = .filling ∨ x.st = .draining → exec (.tdescWrite c t v) s = put x)) ∧
    (∀ (i : Fin 64) (scale : W32),
      (fPosNormal scale = true → exec (.vsfWrite c i scale) s = .next
        (s.setCore c (((s.core c).putW32 (vsfAddr i) scale).putW32 (vsfAddr i + 4) (fDiv 0x3F800000 scale)))) ∧
      (fPosNormal scale = false → exec (.vsfWrite c i scale) s = .next (s.setCore c (s.core c)))) ∧
    (∀ (t : Fin 32) (v : W32), (s.core c).ahCnt t = 0 →
      exec (.ahcfgWrite c t v) s = .next (s.setCore c ((s.core c).setAhcfg t ((s.core c).maskAhcfg t v)))) ∧
    (∀ (t : Fin 32) (v : W32), (s.core c).ahCnt t ≠ 0 →
      exec (.ahcfgWrite c t v) s = .next (s.setCore c { s.core c with
        ahHeld := Sparse.insert (s.core c).ahHeld t ((s.core c).maskAhcfg t v) })) ∧
    (∀ (i : Fin 16384) (v : W32), (s.core c).ta.st ≠ .draining → (s.core c).tb.st ≠ .draining →
      ∃ t, exec (.rescaleTableWrite c i v) s = .next t ∧ (t.core c).w32 (0x04060000 + 4 * i.val) = v &&& 0x3FFFFFFF ∧
        (t.core c).sp = (s.core c).sp ∧ t.macros = s.macros) ∧
    (∀ (i : Fin 16384) (v : W32), (s.core c).ta.st = .draining ∨ (s.core c).tb.st = .draining →
      exec (.rescaleTableWrite c i v) s = .next s)) ∧
  (∀ (s : State) (c : CoreId),
    (∀ (x : Fin 16) (v : W32),
      (x.val ≠ 0 → bitOf v 31 = true → bitOf ((s.core c).w32 (rmAddr x)) 31 = false →
        ∃ t, exec (.rmcfgWrite c x v) s = .next t ∧ bitOf ((t.core c).w32 (rmAddr x)) 31 = true ∧
          bitOf ((t.core c).w32 (rmAddr x)) 30 = true ∧ (t.core c).sp = (s.core c).sp ∧
          ∀ a, a < 0x8000 → Win.read (t.core c).win (rmRec x 0 + a) = winDefault (rmRec x 0 + a)) ∧
      (x.val ≠ 0 → bitOf v 31 = false ∨ bitOf ((s.core c).w32 (rmAddr x)) 31 = true →
        ∃ t, exec (.rmcfgWrite c x v) s = .next t ∧ bitOf ((t.core c).w32 (rmAddr x)) 31 = bitOf v 31 ∧
          bitOf ((t.core c).w32 (rmAddr x)) 30 = bitOf ((s.core c).w32 (rmAddr x)) 30 ∧ (t.core c).sp = (s.core c).sp ∧
          ∀ a, a < 0x8000 → Win.read (t.core c).win (rmRec x 0 + a) = Win.read (s.core c).win (rmRec x 0 + a)) ∧
      (x.val = 0 → exec (.rmcfgWrite c x v) s = .next (s.setCore c (s.core c)))) ∧
    (∀ (T : TileId) (e : Eng) (i : Fin 16384) (v : W32), (e = .le ∨ e = .se ∨ e = .ve) →
      (((s.core c).tile T).st = .empty ∨ ((s.core c).tile T).st = .full →
        ∃ t, exec (.tileWindowWrite c e (BitVec.ofNat 30 (tileVal T i)) (leBytes 4 v.toNat)) s = .next t ∧
          (t.core c).lane T i = signed 32 v.toNat ∧ (t.core c).laneSt T i = .normal ∧ (t.core c).sp = (s.core c).sp) ∧
      (((s.core c).tile T).st = .filling ∨ ((s.core c).tile T).st = .draining →
        exec (.tileWindowWrite c e (BitVec.ofNat 30 (tileVal T i)) (leBytes 4 v.toNat)) s = .next s)) ∧
    (∀ (e : Eng) (addr : BitVec 30) (data : List Byte), e ≠ .le → e ≠ .se → e ≠ .ve →
      exec (.tileWindowWrite c e addr data) s = .next (s.answer fSpAddr.toNat [])) ∧
    (∀ (i : Fin 2048) (v : BitVec 16),
      (v ≠ 0x8000#16 → (s.core c).ta.st ≠ .draining → (s.core c).tb.st ≠ .draining →
        (∀ q ∈ (s.core c).queue, q.eng = .ve → q.st = .waiting ∨ veReadsTable q (0x04074000 + 2 * i.val) 2 = false) →
        ∃ t, exec (.outputTableWrite c (BitVec.ofNat 30 (0x04074000 + 2 * i.val)) (leBytes 2 v.toNat)) s = .next t ∧
          Win.getN (t.core c).win (0x04074000 + 2 * i.val) 2 = v.toNat ∧ (t.core c).sp = (s.core c).sp) ∧
      ((s.core c).ta.st = .draining ∨ (s.core c).tb.st = .draining ∨
          (∃ q ∈ (s.core c).queue, q.eng = .ve ∧ q.st ≠ .waiting ∧ veReadsTable q (0x04074000 + 2 * i.val) 2 = true) →
        exec (.outputTableWrite c (BitVec.ofNat 30 (0x04074000 + 2 * i.val)) (leBytes 2 v.toNat)) s = .next s)))

/-! ## Control core: scalar slot -/

/-- The three-register operations write their result to XD and change nothing else; X0 takes no write (Tables 5.5, 5.6). -/
def Obligations.ScalarArithmetic : Prop :=
  ∀ (s : State) (c : CoreId) (xd xa xb : BitVec 5), s.issuing c →
    let k := s.core c
    let a := k.getX xa.toNat
    let b := k.getX xb.toNat
    let put := fun v : W64 => (Host.Outcome.next (s.setCore c (k.putX xd.toNat v)) : Out)
    exec (.add c xd xa xb) s = put (a + b) ∧ exec (.sub c xd xa xb) s = put (a - b) ∧ exec (.and c xd xa xb) s = put (a &&& b) ∧
    exec (.or c xd xa xb) s = put (a ||| b) ∧ exec (.xor c xd xa xb) s = put (a ^^^ b) ∧
    exec (.shl c xd xa xb) s = put (a <<< (b.toNat % 64)) ∧ exec (.shr c xd xa xb) s = put (a >>> (b.toNat % 64)) ∧
    exec (.sra c xd xa xb) s = put (a.sshiftRight (b.toNat % 64)) ∧
    exec (.mul c xd xa xb) s = put (BitVec.ofNat 64 (a.toNat * b.toNat)) ∧
    exec (.min c xd xa xb) s = put (if a.toInt < b.toInt then a else b) ∧
    exec (.max c xd xa xb) s = put (if a.toInt < b.toInt then b else a)

/-- Immediates, branches, LOOP and NOP (Table 5.6). LI and ADDI sign-extend; LIH writes the upper half and keeps the lower; a taken
branch sets the address of the next word; LOOP subtracts 1 and branches while the result is not 0. -/
def Obligations.ScalarImmediatesAndBranches : Prop :=
  ∀ (s : State) (c : CoreId) (xd xa xb : BitVec 5) (imm : W32) (target : BitVec 16), s.issuing c →
    let k := s.core c
    let a := k.getX xa.toNat
    let b := k.getX xb.toNat
    let go := fun k' : CoreState => (Host.Outcome.next (s.setCore c k') : Out)
    let jump := fun taken : Bool => go (if taken then { k with pc := target.toNat } else k)
    exec (.nop c) s = go k ∧
    exec (.addi c xd xa imm) s = go (k.putX xd.toNat (a + imm.signExtend 64)) ∧
    exec (.li c xd imm) s = go (k.putX xd.toNat (imm.signExtend 64)) ∧
    exec (.lih c xd imm) s = go (k.putX xd.toNat (imm ++ (k.getX xd.toNat).setWidth 32)) ∧
    exec (.beq c xa xb target) s = jump (decide (a = b)) ∧ exec (.bne c xa xb target) s = jump (decide (a ≠ b)) ∧
    exec (.blt c xa xb target) s = jump (decide (a.toInt < b.toInt)) ∧
    exec (.bge c xa xb target) s = jump (decide (b.toInt ≤ a.toInt)) ∧ exec (.jmp c target) s = jump true ∧
    exec (.loop c xa target) s =
      go (if a - 1 = 0 then k.putX xa.toNat (a - 1) else { k.putX xa.toNat (a - 1) with pc := target.toNat })

/-- X0 reads 0 and discards writes; another register reads what was last written to it (Table 5.5).
A core that does not issue, being out of RUN, done, stopped, due a replay or with a full fault queue, executes no scalar instruction: the
state is as it was (R112, R127, R129). -/
def Obligations.RegisterFileAndIssue : Prop :=
  (∀ (k : CoreState) (n m : Nat) (v : W64), n < 32 → m < 32 →
    (k.putX n v).getX m = (if m = 0 then 0 else if m = n then v else k.getX m) ∧ (k.putX 0 v) = k) ∧
  (∀ (s : State) (c : CoreId) (xd xa xb : BitVec 5) (imm : W32), ¬s.issuing c →
    exec (.add c xd xa xb) s = .next s ∧ exec (.addi c xd xa imm) s = .next s ∧ exec (.csrw c 0x008 xa) s = .next s ∧
    exec (.jmp c 0) s = .next s ∧ exec (.done c 0 xa) s = .next s)

/-- CSRR, CSRW, FSET, FCLR, TRAP and DONE (Tables 5.6 and 5.7, R112, R129). CSRR of a listed register other than a time returns it, of an
unlisted number 0; CSRW of a read-only or unlisted number is ignored; TRAP is a core fault with its detail; DONE on a core with nothing
in flight makes it IDLE, and on another keeps its tag and code until the drain. -/
def Obligations.ControlRegistersAndFlags : Prop :=
  ∀ (s : State) (c : CoreId) (xd xa : BitVec 5) (f : BitVec 6) (i : Fin 32), s.issuing c →
    let k := s.core c
    let go := fun k' : CoreState => (Host.Outcome.next (s.setCore c k') : Out)
    exec (.csrr c xd 0x000) s = go (k.putX xd.toNat (BitVec.ofNat 64 c.val)) ∧
    exec (.csrr c xd 0x002) s = go (k.putX xd.toNat (k.stepno.setWidth 64)) ∧
    exec (.csrr c xd 0x008) s = go (k.putX xd.toNat k.flags) ∧
    exec (.csrr c xd (BitVec.ofNat 12 (0x10 + i.val))) s = go (k.putX xd.toNat (BitVec.ofNat 64 (k.getAc i.val))) ∧
    exec (.csrr c xd 0xFFF) s = go (k.putX xd.toNat 0) ∧
    exec (.csrw c 0x008 xa) s = go { k with flags := k.getX xa.toNat } ∧
    exec (.csrw c 0x090 xa) s = go { k with cto := (k.getX xa.toNat).setWidth 32 } ∧
    exec (.csrw c (BitVec.ofNat 12 (0x30 + i.val)) xa) s = go (k.putAcexp i.val (fld (k.getX xa.toNat) 23 0)) ∧
    exec (.csrw c 0x000 xa) s = go k ∧ exec (.csrw c 0xFFF xa) s = go k ∧
    exec (.fset c f) s = go { k with flags := k.flags ||| BitVec.ofNat 64 (2 ^ f.toNat) } ∧
    exec (.fclr c f) s = go { k with flags := k.flags &&& ~~~BitVec.ofNat 64 (2 ^ f.toNat) } ∧
    (∀ (tag detail : BitVec 16), exec (.trap c tag detail) s =
      go { k with st := .faulted, hint := none,
                  faultQ := k.faultQ ++ [{ code := fProgramTrap, tag := tag, addr := BitVec.ofNat 32 k.pc, stepno := k.stepno,
                                           detail := detail.setWidth 64, again := false }] }) ∧
    (∀ tag : BitVec 16, k.queue = [] → k.sigs = [] → ∃ t, exec (.done c tag xa) s = .next t ∧
      t.core c = { k with st := .idle, doneReq := none, stopReq := false } ∧ t.macros = s.macros) ∧
    (∀ tag : BitVec 16, k.queue ≠ [] ∨ k.sigs ≠ [] → exec (.done c tag xa) s =
      go { k with doneReq := some (tag, (k.getX xa.toNat).setWidth 16) })

/-! ## Control core: sync slot, issue, completion -/

/-- FENCE, WAIT and STEP when their condition holds, and their wait when it does not (Tables 5.11 and 5.12, R118, R119, R153), and the queued
NOP, ARRIVE, BPREP and OPHINT, whose entry joins the SU queue (R116, R117, R281, R291). WAIT with CONSUME subtracts VALUE; a STEP raises
STEPNO by 1 and its snapshot is the X registers of that moment; an own-core ARRIVE on an idle sync unit adds AMOUNT and has run, one toward
a neighbour is on its way; one without a neighbour or with AMOUNT 0 is CORE_DECODE. BARRIER arrives, completes when every member has, or in
torus scope when the release has come down, and else waits, held where its group is blocked (R119, R323); a reserved scope is CORE_DECODE. -/
def Obligations.SyncCommands : Prop :=
  ∀ (s : State) (c : CoreId), s.issuing c →
    let k := s.core c
    (∀ emask : Byte, k.fenceOpen emask.toNat = true →
      exec (.fence c emask) s = .next (s.setCore c (k.fenceFlush emask.toNat))) ∧
    (∀ emask : Byte, k.fenceOpen emask.toNat = false → exec (.fence c emask) s = .next s) ∧
    (∀ (i : BitVec 5) (v : BitVec 24), v.toNat ≤ k.getAc i.toNat →
      exec (.wait c i v true) s = .next (s.setCore c ((k.putAc i.toNat (k.getAc i.toNat - v.toNat)).ledgerCons i.toNat v.toNat)) ∧
      exec (.wait c i v false) s = .next s) ∧
    (∀ (i : BitVec 5) (v : BitVec 24) (b : Bool), k.getAc i.toNat < v.toNat → exec (.wait c i v b) s = .next s) ∧
    (∀ stepid : BitVec 16, k.queue = [] → k.sigs = [] → ∃ t, exec (.step c stepid) s = .next t ∧
      (t.core c).stepno = k.stepno + 1 ∧ (t.core c).x = k.x ∧ (t.core c).snap.x = k.x ∧ (t.core c).snap.flags = k.flags ∧
      (t.core c).outLedger = [] ∧ (t.core c).consLedger = [] ∧ (t.core c).noReplay = false ∧ (t.core c).replays = 0 ∧
      (t.core c).replayPc = k.pc ∧ (t.core c).st = (if k.holdAt then .held else .run) ∧
      ∃ rec, t.hub.steps = s.hub.steps ++ [(c.val, rec)] ∧ rec.take 6 = leBytes 4 (k.stepno + 1).toNat ++ leBytes 2 stepid.toNat) ∧
    (∀ stepid : BitVec 16, k.queue ≠ [] ∨ k.sigs ≠ [] → exec (.step c stepid) s = .next s) ∧
    (k.queue = [] → ∀ (tag : BitVec 16) (i : BitVec 5) (n : BitVec 24), n ≠ 0 →
      ∃ t q, exec (.arrive c tag 0 i n) s = .next t ∧ (t.core c).queue = [q] ∧ q.eng = .su ∧ q.tag = tag ∧ q.st = .finished 0 0 ∧
        (k.getDebt i.toNat = 0 → k.getAc i.toNat + n.toNat < 2 ^ 24 → (t.core c).getAc i.toNat = k.getAc i.toNat + n.toNat)) ∧
    (k.queue = [] → ∀ (tag : BitVec 16) (dir : BitVec 3) (d : Dir) (o : Nat) (i : BitVec 5) (n : BitVec 24), n ≠ 0 →
      dirOf dir.toNat = some d → neighbour c d = some o →
      ∃ t q m, exec (.arrive c tag dir i n) s = .next t ∧ (t.core c).queue = [q] ∧ q.eng = .su ∧ q.st = .executing ∧
        t.nb = s.nb ++ [m] ∧ m.src = c.val ∧ m.dst = o ∧ m.kind = .arrive ∧ m.ac = i.toNat ∧ m.amount = n.toNat ∧ m.tag = tag ∧
        m.entry = q.id ∧ m.arrived = false ∧ m.refused = false) ∧
    (∀ (tag : BitVec 16) (dir : BitVec 3) (i : BitVec 5) (n : BitVec 24),
      n = 0 ∨ (∃ d, dirOf dir.toNat = some d ∧ neighbour c d = none) ∨ (dirOf dir.toNat = none ∧ dir ≠ 0) →
      ∃ t, exec (.arrive c tag dir i n) s = .next t ∧ (t.core c).st = .faulted) ∧
    (k.queue = [] → ∃ t q, exec (.syncNop c) s = .next t ∧ (t.core c).queue = [q] ∧ q.eng = .su ∧ q.st = .finished 0 0) ∧
    (k.queue = [] → ∀ (op : BitVec 3) (phase : BitVec 16), ∃ t q, exec (.ophint c op phase) s = .next t ∧
      (t.core c).queue = [q] ∧ q.st = .finished 0 0 ∧ (t.core c).hint = some (op.toNat, phase.toNat)) ∧
    (k.queue = [] → ∀ (bid : BitVec 6) (lead : BitVec 16), ∃ t q, exec (.bprep c bid lead) s = .next t ∧
      (t.core c).queue = [q] ∧ q.st = .finished 0 0 ∧
      ∀ b ∈ s.hub.barriers, b.bid = bid.toNat → c.val ∈ b.members → b.torus = false →
        ∃ b' ∈ t.hub.barriers, b'.prog = b.prog ∧ b'.bid = b.bid ∧ (c.val, lead.toNat) ∈ b'.bpreps) ∧
    (∀ (bid : BitVec 6) (b : Barrier), s.hub.barriers = [b] → b.bid = bid.toNat → b.torus = false →
      c.val ∈ b.members → c.val ∉ b.arrived → c.val ∉ b.left → bid.toNat ∉ k.barsLeft →
      ((∀ m ∈ b.members, m ≠ c.val → m ∈ b.arrived) →
        ∃ t, exec (.barrier c 0 bid) s = .next t ∧ (t.core c).barsDone = k.barsDone ++ [bid.toNat] ∧ (t.core c).x = k.x) ∧
      ((∃ m ∈ b.members, m ≠ c.val ∧ m ∉ b.arrived) →
        ∃ t b', exec (.barrier c 0 bid) s = .next t ∧ t.hub.barriers = [b'] ∧ b'.arrived = b.arrived ++ [c.val] ∧
          b'.members = b.members ∧ t.cores = s.cores)) ∧
    (∀ (bid : BitVec 6) (b : Barrier), s.hub.barriers = [b] → b.bid = bid.toNat → b.torus = true → c.val ∈ b.members →
      c.val ∈ b.arrived → c.val ∉ b.left → bid.toNat ∉ k.barsLeft →
      (b.released = true →
        ∃ t, exec (.barrier c 1 bid) s = .next t ∧ (t.core c).barsDone = k.barsDone ++ [bid.toNat] ∧ (t.core c).x = k.x) ∧
      (b.released = false → bid.toNat ∉ s.kraox.blocked → exec (.barrier c 1 bid) s = .next s) ∧
      (b.released = false → bid.toNat ∈ s.kraox.blocked →
        ∃ t, exec (.barrier c 1 bid) s = .next t ∧ (t.core c).st = .held ∧ t.hub.barriers = s.hub.barriers)) ∧
    (∀ (scope : BitVec 2) (bid : BitVec 6), 2 ≤ scope.toNat → ∃ t, exec (.barrier c scope bid) s = .next t ∧ (t.core c).st = .faulted)

/-! ## Control core: neighbours, issue, completion -/

/-- An arrival delivered at a core whose accept window admits it adds its amount and is acknowledged, and the acknowledgement finishes
the sender's command (R117, R150); one that the window refuses is recorded as NB_DENIED at the owner and finishes the command so. -/
def Obligations.NeighbourArrivals : Prop :=
  (∀ (s : State) (o : CoreId) (d : Dir) (m : NbMsg), s.nb = [m] → m.dst = o.val → some m.src = neighbour o d → m.kind = .arrive →
    m.arrived = false → m.refused = false →
    (s.admitsArrival o m.src m.part m.ac = true → m.src ≠ o.val → (s.core o).getDebt m.ac = 0 →
      (s.core o).getAc m.ac + m.amount < 2 ^ 24 →
      ∃ t, exec (.neighbourArrival o d) s = .next t ∧ t.nb = [{ m with arrived := true }] ∧
        (t.core o).getAc m.ac = (s.core o).getAc m.ac + m.amount ∧ (t.core o).sp = (s.core o).sp ∧ t.hub = s.hub) ∧
    (s.admitsArrival o m.src m.part m.ac = false → m.src ≠ o.val →
      ∃ t, exec (.neighbourArrival o d) s = .next t ∧ t.nb = [{ m with refused := true }] ∧ (t.core o).ac = (s.core o).ac ∧
        ∃ r, (t.core o).faultQ = (s.core o).faultQ ++ [r] ∧ r.code = fNbDenied ∧ r.tag = m.tag)) ∧
  (∀ (s : State) (c : CoreId) (d : Dir) (m : NbMsg) (q : QEntry), s.nb = [m] → m.src = c.val → some m.dst = neighbour c d →
    m.kind = .arrive → (m.arrived = true ∨ m.refused = true) → (s.core c).queue = [q] → q.id = m.entry → q.st = .executing →
    ∃ t, exec (.arriveAck c d) s = .next t ∧ t.nb = [] ∧
      (t.core c).queue = [{ q with st := .finished (if m.refused then fNbDenied else 0) 0 }])

/-- LONG_WORD_ISSUE at a core that may issue (R106, R107): a word that cannot be decoded faults the core and issues nothing; one whose
waits, queues or sync condition are not ready waits; else the word issues whole: the program counter passes it, each of its commands
enters its queue, its SIG is armed, and a scalar slot that computes writes its register. -/
def Obligations.LongWordIssue : Prop :=
  ∀ (s : State) (c : CoreId), s.issuing c →
    let k := s.core c
    (∀ f, k.decodeWord c = .error f → ∃ t r, exec (.longWordIssue c) s = .next t ∧ (t.core c).st = .faulted ∧
      (t.core c).queue = k.queue ∧ (t.core c).x = k.x ∧ (t.core c).faultQ = k.faultQ ++ [r] ∧ r.code = f.1 ∧ r.tag = f.2) ∧
    (∀ w, k.decodeWord c = .ok w → (k.wordWaits w = false ∨ k.queuesOpen w = false ∨ k.syncOpen w = false) →
      exec (.longWordIssue c) s = .next s) ∧
    (∀ w, k.decodeWord c = .ok w → k.wordWaits w = true → k.queuesOpen w = true → k.syncOpen w = true → w.syncOpc ≠ some 5 →
      (∀ o, w.sSlot = some o → (scalarOf o).opc ≤ 0x12) →
      ∃ t, exec (.longWordIssue c) s = .next t ∧ (t.core c).pc = w.pc + w.len ∧
        (t.core c).queue.length = k.queue.length + w.feeds.length + (if w.queuedSync.isSome then 1 else 0) ∧
        (t.core c).sigs.length = k.sigs.length + (if w.sig / 64 = 0 then 0 else 1) ∧
        (w.sSlot = none → (t.core c).x = k.x) ∧
        ∀ o, w.sSlot = some o → (t.core c).x = (k.runScalar c (scalarOf o) 0 0 0).x)

/-- Completion: a SIG whose commands have completed is raised (R110); a finished command of any engine leaves its queue with its record in
LASTCR and, when it failed, a fault record (R114, R127); a fault record taken by the hub is journalled, one of a core fault ends the
invocations that the core takes part in, and an ARRAY_CHECK is counted for its macro (R56, R127, R242); a word that waits too long is
CORE_WAIT_TIMEOUT (R120); a hint expires (R281). -/
def Obligations.CompletionAndFaults : Prop :=
  ∀ (s : State) (c : CoreId),
    let k := s.core c
    (∀ w, k.sigs = [w] → w.waits = [] → k.doneReq = none → k.stopReq = false →
      (fld w.sig 7 6 = 1 → exec (.sigRaise c) s =
        .next (s.setCore c { k with sigs := [], flags := k.flags ||| BitVec.ofNat 64 (2 ^ fld w.sig 5 0) })) ∧
      (fld w.sig 7 6 = 2 → fld w.sig 5 0 < 32 → k.getDebt (fld w.sig 5 0) = 0 → k.getAc (fld w.sig 5 0) + 1 < 2 ^ 24 →
        ∃ t, exec (.sigRaise c) s = .next t ∧ (t.core c).sigs = [] ∧
          (t.core c).getAc (fld w.sig 5 0) = k.getAc (fld w.sig 5 0) + 1 ∧ (t.core c).x = k.x)) ∧
    (∀ (e : Eng) (q : QEntry) (f : Byte) (x : BitVec 16), k.queue = [q] → q.eng = e → q.st = .finished f x →
      Sparse.get k.gather [] (portOf e) = [] →
      ∃ t, exec (.commandComplete c e) s = .next t ∧ (t.core c).queue = [] ∧
        (t.core c).lastcr = Sparse.set k.lastcr 0 (engNum e) (completionRecord q.tag f e x) ∧ (t.core c).x = k.x ∧
        (f = 0 → (t.core c).faultQ = k.faultQ) ∧
        (f ≠ 0 → ∃ r, (t.core c).faultQ = k.faultQ ++ [r] ∧ r.code = f ∧ r.tag = q.tag ∧ r.detail = q.detail)) ∧
    (∀ r rest, k.faultQ = r :: rest →
      (r.code.toNat < 0x50 → r.code ≠ fArrayCheck → s.hub.journal.length < 8192 →
        ∃ t j, exec (.faultRecordTaken c) s = .next t ∧ (t.core c).faultQ = rest ∧ t.hub.journal = s.hub.journal ++ [j] ∧
          j.code = r.code ∧ j.tag = r.tag ∧ j.addr = r.addr ∧ j.detail = r.detail ∧ j.part = k.part ∧ t.hub.invs = s.hub.invs) ∧
      (clsOf r.code.toNat = 2 → r.code ≠ fArrayCheck →
        ∃ t, exec (.faultRecordTaken c) s = .next t ∧ (t.core c).faultQ = rest ∧ t.hub.invs = (s.hub.invFault c r.code).invs) ∧
      (r.code = fArrayCheck → bitOf r.detail 12 = false →
        ∃ t, exec (.faultRecordTaken c) s = .next t ∧ (t.core c).faultQ = rest ∧
          Sparse.get t.hub.checks 0 (macKey c (fld r.detail 7 0)) = Sparse.get s.hub.checks 0 (macKey c (fld r.detail 7 0)) + 1 ∧
          (r.again = true → macKey c (fld r.detail 7 0) ∈ t.hub.swapDue))) ∧
    (k.faultQ = [] → exec (.faultRecordTaken c) s = .next s) ∧
    (∀ w, s.issuing c → k.cto ≠ 0 → k.decodeWord c = .ok w → k.headWait w ≠ 0 →
      ∃ t r, exec (.coreWaitTimeout c) s = .next t ∧ (t.core c).st = .faulted ∧
        (t.core c).faultQ = k.faultQ ++ [r] ∧ r.code = fCoreWaitTimeout ∧ r.detail = BitVec.ofNat 64 (k.headWait w) ∧ r.tag = w.tag) ∧
    (k.cto = 0 → exec (.coreWaitTimeout c) s = .next s) ∧
    exec (.ophintExpire c) s = .next (s.setCore c { k with hint := none })

/-- Core states and instruction banks (R128, R153, Table 5.20): START sets the arguments, the entry and RUN, or HELD where
the hub holds the core at its next STEP mark (R153, R158); HOLD and RELEASE move between RUN or REPLAY and HELD; a RELEASE in FAULTED is
refused; STOP of a drained core ends in IDLE, another waits for its commands; a bank that does not run is loaded. -/
def Obligations.CoreControl : Prop :=
  ∀ (s : State) (c : CoreId),
    let k := s.core c
    (∀ (bank : Bool) (entry : BitVec 16) (x : List W64), k.st = .idle → x.length < 32 →
      ∃ t, exec (.coreStart c bank entry x) s = .next t ∧ (t.core c).st = (if k.holdAt then .held else .run) ∧ (t.core c).bank = bank ∧
        (t.core c).pc = entry.toNat ∧ (t.core c).stepno = 0 ∧ (∀ i, i < x.length → (t.core c).getX (i + 1) = x.getD i 0) ∧
        (t.core c).sp = k.sp ∧ (t.core c).win = k.win ∧ t.reply = { status := 0, data := [] }) ∧
    (∀ (bank : Bool) (entry : BitVec 16) (x : List W64), k.st ≠ .idle → exec (.coreStart c bank entry x) s = .next (s.answer 1 [])) ∧
    (k.st = .run → exec (.coreHold c) s = .next (s.setCore c { k with st := .held, hint := none })) ∧
    (k.st = .held → k.replayDue = false → k.replaying = false →
      exec (.coreRelease c) s = .next ((s.setCore c { k with st := .run }).answer 0 [])) ∧
    (k.st = .replay → exec (.coreHold c) s = .next (s.setCore c { k with st := .held })) ∧
    (k.st = .held → k.replayDue = true ∨ k.replaying = true →
      exec (.coreRelease c) s = .next ((s.setCore c { k with st := .replay }).answer 0 [])) ∧
    (k.st ≠ .idle → k.queue ≠ [] ∨ k.sigs ≠ [] →
      exec (.coreStop c) s = .next (s.setCore c { k with stopReq := true, doneReq := none })) ∧
    (k.st = .faulted → exec (.coreRelease c) s = .next (s.answer 1 [])) ∧
    (k.st ≠ .idle → k.queue = [] → k.sigs = [] →
      ∃ t, exec (.coreStop c) s = .next t ∧ (t.core c).st = .idle ∧ (t.core c).stopReq = false ∧ (t.core c).x = k.x ∧ t.hub = s.hub) ∧
    (∀ (bank : Bool) (a : BitVec 16) (w : W32), (k.st = .idle ∨ k.bank ≠ bank) →
      ∃ t, exec (.ibankLoad c bank a [w]) s = .next t ∧
        Sparse.get (if bank then (t.core c).ib1 else (t.core c).ib0) 0 a.toNat = w ∧
        (if bank then (t.core c).ib0 = k.ib0 else (t.core c).ib1 = k.ib1) ∧ (t.core c).x = k.x) ∧
    (∀ (bank : Bool) (a : BitVec 16) (ws : List W32), k.st ≠ .idle → k.bank = bank →
      exec (.ibankLoad c bank a ws) s = .next (s.answer 1 []))

/-- Step replay (R129, R153 to R155): a due replay enters REPLAY, and after three replay faults within a step or under NOREPLAY ends in
FAULTED with REPLAY_LIMIT; the restore brings back the snapshot's X registers and flags and empties the ledgers; without neighbours to
roll back issue resumes at the replay point, with some their rollbacks are on their way; an applied rollback takes back what the counter holds and keeps the rest as debt. -/
def Obligations.StepReplay : Prop :=
  (∀ (s : State) (c : CoreId), (s.core c).replayDue = true → ((s.core c).st = .run ∨ (s.core c).st = .replay) →
    ((s.core c).noReplay = false → (s.core c).replays < 3 → exec (.replayStart c) s = .next (s.setCore c
      { s.core c with st := .replay, replayDue := false, replaying := true, restored := false, doneReq := none })) ∧
    ((s.core c).noReplay = true ∨ 3 ≤ (s.core c).replays → ∃ t r, exec (.replayStart c) s = .next t ∧ (t.core c).st = .faulted ∧
      (t.core c).faultQ = (s.core c).faultQ ++ [r] ∧ r.code = fReplayLimit)) ∧
  (∀ (s : State) (c : CoreId), (s.core c).st = .replay → (s.core c).replaying = true → (s.core c).restored = false →
    (s.core c).replayDue = false → (s.core c).queue = [] → (s.core c).sigs = [] → (s.core c).outLedger = [] →
    (s.core c).consLedger = [] →
    ∃ t, exec (.replayRestore c) s = .next t ∧ (t.core c).st = .run ∧ (t.core c).pc = (s.core c).replayPc ∧
      (t.core c).x = (s.core c).snap.x ∧ (t.core c).flags = (s.core c).snap.flags ∧ (t.core c).ta.st = .empty ∧
      (t.core c).tb.st = .empty ∧ (t.core c).sp = (s.core c).sp ∧ (t.core c).ac = (s.core c).ac) ∧
  (∀ (s : State) (c : CoreId), (s.core c).st = .replay → (s.core c).replaying = true → (s.core c).restored = false →
    (s.core c).replayDue = false → (s.core c).queue = [] → (s.core c).sigs = [] → (s.core c).rollbacks c ≠ [] →
    (s.core c).restore.1.st ≠ .faulted →
    ∃ t, exec (.replayRestore c) s = .next t ∧ (t.core c).st = .replay ∧ (t.core c).restored = true ∧
      (t.core c).x = (s.core c).snap.x ∧ t.nb = s.nb ++ (s.core c).rollbacks c ∧
      (t.core c).ackWait = ((s.core c).rollbacks c).length ∧ (t.core c).outLedger = [] ∧ (t.core c).consLedger = []) ∧
  (∀ (s : State) (o : CoreId) (d : Dir) (m : NbMsg), s.nb = [m] → m.dst = o.val → some m.src = neighbour o d → m.kind = .rollback →
    m.arrived = false → m.refused = false → s.admitsArrival o m.src m.part m.ac = true → m.ac < 32 → m.amount < 2 ^ 24 →
    (s.core o).getDebt m.ac + m.amount < 2 ^ 24 →
    ∃ t, exec (.rollbackApply o d) s = .next t ∧ t.nb = [{ m with arrived := true }] ∧
      (t.core o).getAc m.ac = (s.core o).getAc m.ac - m.amount ∧
      (t.core o).getDebt m.ac = (s.core o).getDebt m.ac + (m.amount - (s.core o).getAc m.ac)) ∧
  (∀ (s : State) (c : CoreId) (m : NbMsg), s.nb = [m] → m.src = c.val → m.kind = .rollback → m.arrived = true → m.refused = false →
    (s.core c).ackWait = 1 → (s.core c).replaying = true → (s.core c).restored = true → (s.core c).st = .replay →
    ∃ t, exec (.rollbackAck c) s = .next t ∧ t.nb = [] ∧ (t.core c).st = .run ∧ (t.core c).pc = (s.core c).replayPc ∧
      (t.core c).replaying = false)

/-! ## Scratchpad -/

/-- Ownership, scrubs, handle invalidation, patrol and spare banks (R141, R142, R146, R157, R158): a first owner gets its region without a
scrub, another owner with SCRUB_BUSY; a core that runs keeps its owners; a scrub leaves every byte of the region 0 and drops SCRUB_BUSY;
HINV raises BUSY and drops the cached handles; a patrol read of a failing word is journalled; a swap of a bank that reported two errors
waits for the STEP mark of a core that runs; its end puts the spare, with the bank's contents, in the bank's place and releases the core. -/
def Obligations.ScratchpadOwnership : Prop :=
  ∀ (s : State) (c : CoreId),
    let k := s.core c
    (∀ (r : Fin 48) (v : W32), (k.st = .idle ∨ k.st = .held) → k.queue = [] →
      (bitOf v 31 = true → Sparse.find? k.lastOwner r.val = none → Sparse.get k.marched false r.val = false →
        ∃ t, exec (.spownWrite c r v) s = .next t ∧ (t.core c).sp = k.sp ∧ (t.core c).x = k.x ∧
          (t.core c).spown r = BitVec.ofNat 32 (2 ^ 31 + bitAt (Sparse.get k.scrubs false r.val) 30 + fld v 3 0)) ∧
      (∀ p, bitOf v 31 = true → Sparse.find? k.lastOwner r.val = some p → p ≠ fld v 3 0 →
        ∃ t, exec (.spownWrite c r v) s = .next t ∧ (t.core c).spown r = BitVec.ofNat 32 (2 ^ 31 + 2 ^ 30 + fld v 3 0) ∧
          Sparse.get (t.core c).scrubs false r.val = true ∧ (t.core c).hcVe = [] ∧ (t.core c).sp = k.sp ∧ (t.core c).x = k.x) ∧
      (bitOf v 31 = false → ∃ t, exec (.spownWrite c r v) s = .next t ∧ (t.core c).sp = k.sp ∧
        (t.core c).spown r = BitVec.ofNat 32 (bitAt (bitOf (k.spown r) 30) 30 + fld v 3 0))) ∧
    (∀ (r : Fin 48) (v : W32), ((k.st ≠ .idle ∧ k.st ≠ .held) ∨ k.queue ≠ []) →
      exec (.spownWrite c r v) s = .next (s.setCore c k)) ∧
    (∀ r : Fin 48, Sparse.get k.scrubs false r.val = true →
      ∃ t, exec (.regionScrubDone c r) s = .next t ∧ bitOf ((t.core c).spown r) 30 = false ∧
        (∀ a, r.val * 0x100000 ≤ a → a < (r.val + 1) * 0x100000 → Memory.read (t.core c).sp a = 0) ∧
        (∀ a, a < r.val * 0x100000 ∨ (r.val + 1) * 0x100000 ≤ a → Memory.read (t.core c).sp a = Memory.read k.sp a)) ∧
    (∀ v : W32, bitOf v 30 = true →
      ∃ t, exec (.hinvWrite c v) s = .next t ∧ (t.core c).w32 0x040B0008 = 0x80000000#32 ∧ (t.core c).hcVe = [] ∧
        (t.core c).hcAe = [] ∧ (t.core c).hcFe = [] ∧ (t.core c).hcLe = [] ∧ (t.core c).hcSe = [] ∧ (t.core c).sp = k.sp) ∧
    (∀ v : W32, bitOf v 30 = false →
      ∃ t, exec (.hinvWrite c v) s = .next t ∧ (t.core c).w32 0x040B0008 = 0x80000000#32 ∧
        (∀ e, ∀ x ∈ (t.core c).cache e, x ∈ k.cache e ∧ x.1 ≠ fld v 7 0) ∧ (t.core c).sp = k.sp) ∧
    (∃ t, exec (.hinvDone c) s = .next t ∧ (t.core c).w32 0x040B0008 = 0 ∧ (t.core c).sp = k.sp ∧ (t.core c).hcVe = k.hcVe) ∧
    (∀ b : Fin 64, Win.read k.win 0x040B0002 ≠ 0 →
      let i := Sparse.get k.patrolAt 0 b.val
      let k1 := { k with patrolAt := Sparse.set k.patrolAt 0 b.val ((i + 1) % 12288) }
      (k.lanesOf (64 * i + b.val) = 0 → exec (.patrolRead c b) s = .next (s.setCore c k1)) ∧
      (k.lanesOf (64 * i + b.val) ≠ 0 → ∃ t, exec (.patrolRead c b) s = .next t ∧ t.hub.seq = s.hub.seq + 1 ∧
        t.core c = k1.noteParity 8 (64 * (64 * i + b.val)) true)) ∧
    (∀ b : Fin 64, Win.read k.win 0x040B0002 = 0 → exec (.patrolRead c b) s = .next s) ∧
    (∀ (i : Fin 4) (b : Fin 64), 2 ≤ Sparse.get k.bankErrs 0 b.val → bitOf (k.spspare i) 31 = false →
      Sparse.find? k.spareCopy i.val = none →
      ∃ t, exec (.spareBankSwap c i b) s = .next t ∧
        t.core c = { k.holdAtMark with spareCopy := Sparse.insert k.spareCopy i.val b.val } ∧ t.macros = s.macros) ∧
    (∀ (i : Fin 4) (b : Fin 64), Sparse.get k.bankErrs 0 b.val < 2 → exec (.spareBankSwap c i b) s = .next s) ∧
    (∀ (i : Fin 4) (b : Fin 64), k.spareCopy = [(i.val, b.val)] → k.atRest = true → k.st ≠ .replay → bitOf (k.spspare i) 31 = false →
      Memory.wf k.sp = true →
      ∃ t, exec (.spareBankCopyDone c i) s = .next t ∧ (t.core c).spareCopy = [] ∧ bitOf ((t.core c).spspare i) 31 = true ∧
        fld ((t.core c).spspare i) 5 0 = b.val ∧ (∀ a, Memory.read (t.core c).sp a = Memory.read k.sp a) ∧
        (k.st = .held → k.replayDue = false → k.replaying = false → s.hub.swapHeld = [] → s.hub.rebinds = [] →
          (t.core c).st = .run)) ∧
    (∀ i : Fin 4, k.atRest = false ∨ Sparse.find? k.spareCopy i.val = none → exec (.spareBankCopyDone c i) s = .next s)

/-- A write of bytes to the scratchpad changes those bytes and no other, and every memory operation keeps the canonical form; one that
covers a lane of wrong parity in part writes nothing of that word (R138); a gather flush writes the bytes of the oldest gathered word to
the bank and drops it from the buffer, unless it covers a lane of wrong parity in part (R137, R138). -/
def Obligations.ScratchpadWrites : Prop :=
  (∀ (s : State) (c : CoreId) (e : Eng) (g : GatherEntry) (rest : List GatherEntry),
    Sparse.get (s.core c).gather [] (portOf e) = g :: rest →
    let part := fun j : Nat => Sparse.get (s.core c).badLanes false (8 * g.word + j) = true ∧
      (Sparse.inRange g.bytes (64 * g.word + 8 * j) 8).length ≠ 0 ∧ (Sparse.inRange g.bytes (64 * g.word + 8 * j) 8).length ≠ 8
    ((∀ j, j < 8 → ¬part j) →
      ∃ t, exec (.gatherFlush c e) s = .next t ∧ Sparse.get (t.core c).gather [] (portOf e) = rest ∧
        (∀ as p bs, g.bytes = as ++ p :: bs → (∀ q ∈ bs, q.1 ≠ p.1) → Memory.read (t.core c).sp p.1 = p.2) ∧
        (∀ a, (∀ p ∈ g.bytes, p.1 ≠ a) → Memory.read (t.core c).sp a = Memory.read (s.core c).sp a) ∧
        (t.core c).win = (s.core c).win ∧ (t.core c).x = (s.core c).x ∧ t.hub = s.hub) ∧
    ((∃ j, j < 8 ∧ part j) →
      ∃ t, exec (.gatherFlush c e) s = .next t ∧ Sparse.get (t.core c).gather [] (portOf e) = rest ∧ (t.core c).sp = (s.core c).sp ∧
        ∀ q ∈ (t.core c).queue, q.id = g.owner → ∃ f x, q.st = .finished f x ∧ f ≠ 0)) ∧
  (∀ (s : State) (c : CoreId) (e : Eng), Sparse.get (s.core c).gather [] (portOf e) = [] →
    exec (.gatherFlush c e) s = .next (s.setCore c (s.core c))) ∧
  (∀ (k : CoreState) (a : Nat) (bs : List Byte), k.badLanes = [] →
    let r := k.spWrite bs.length a bs
    r.2 = none ∧ (∀ i, i < bs.length → Memory.read r.1.sp (a + i) = bs.getD i 0) ∧
    (∀ x, x < a ∨ a + bs.length ≤ x → Memory.read r.1.sp x = Memory.read k.sp x) ∧
    (Memory.wf k.sp = true → Memory.wf r.1.sp = true) ∧ r.1.win = k.win ∧ r.1.x = k.x) ∧
  ∀ (k : CoreState) (a : Nat) (bs : List Byte), bs ≠ [] → k.partlyBad a (min bs.length (64 - a % 64)) = true →
    k.spWrite bs.length a bs = (k, some (a / 64 * 64))

/-! ## Load, store and row commands -/

/-- LFILL, LCOPY and SCOPY that may come next, checks passed, sources of good parity: every element of D is written in visiting order, to
the scratchpad, a neighbour, the commons or the partition's LPDDR6 region; XPOSE writes the transposed blocks (R115, R124, R139). An SCOPY
with ACEN adds 1 to its counter: at once in the own core when its writes have left the gather buffer, by a message to a neighbour (R115,
R154). With a bad field the command ends with its field fault and writes nothing; where none may come next nothing happens. -/
def Obligations.LoadStoreCommands : Prop :=
  ∀ (s : State) (c : CoreId) (q : QEntry) (t : State),
    let w := q.slot
    let fails := fun f : Byte => (Host.Outcome.next (t.updCore c fun k => k.finish q.id f 0 0) : Out)
    let src := fun sp : Pat => walkOperand (resolveField q.handles (slotHi w) q.xr2) sp true false
    let dst := fun dp : Pat => walkOperand (resolveField q.handles (slotMid w) q.xr1) dp false true
    let fillHolds := fun x : QEntry => (s.core c).walkHolds false (slotMid x.slot) (fld x.slot 110 105)
    let lHolds := fun x : QEntry => (s.core c).lcopyHolds x.slot
    let sHolds := fun x : QEntry => (s.core c).scopyHolds x.slot
    (s.turnOf c .le 0x11 fillHolds q t →
      (∀ (dp : Pat) (u : State), fld w 119 111 = 0 → fld w 104 64 = 0 → fieldForm (slotMid w) ≠ 3 →
        (t.core c).pat (fld w 110 105) = some dp → t.checkOps c true [dst dp] = 0 →
        t.storeAll c 0 q.id ((dst dp).core c) (((dp.addrs (dst dp).base)).map fun a => (a, fillElem dp.size (fld w 31 0))) = (u, none) →
        exec (.lfill c) s = .next (u.updCore c fun k => k.finish q.id 0 0 0)) ∧
      (fld w 119 111 ≠ 0 ∨ fld w 104 64 ≠ 0 ∨ fieldForm (slotMid w) = 3 → exec (.lfill c) s = fails fLeField)) ∧
    (s.turnOf c .le 0x10 lHolds q t →
      (∀ (sp dp : Pat) (bs : List (List Byte)) (u : State), lcopyBad w = false →
        copyPats (t.core c) (fld w 116 111) (fld w 110 105) = some (sp, dp) →
        (fld w 104 102 ≠ 0 → sp.elog = 6 ∧ sp.count % 64 = 0) →
        (fld w 119 118 = 0 → t.checkOps c true [src sp, dst dp] = 0 ∧
          t.fetchAll c 0 ((src sp).core c) sp.size (sp.addrs (src sp).base) = (bs, none)) →
        (fld w 119 118 ≠ 0 → t.checkOps c true [dst dp] = 0 ∧
          regionOk sp (spaceBase (fld w 119 118) (fld w 95 64)) (t.spaceSize (t.core c).part (fld w 119 118)) = true ∧
          sp.aligned (spaceBase (fld w 119 118) (fld w 95 64)) = true ∧
          t.remoteRead (t.core c).part (fld w 119 118) sp.size (sp.addrs (spaceBase (fld w 119 118) (fld w 95 64))) = bs) →
        (fld w 119 118 = 2 → ∀ a ∈ sp.addrs (spaceBase 2 (fld w 95 64)), t.ext.readBad (t.core c).part a sp.size = false) →
        t.storeAll c 0 q.id ((dst dp).core c) ((dp.addrs (dst dp).base).zip
          (if fld w 104 102 = 0 then bs else transposeBlocks (2 ^ (fld w 104 102 - 1)) bs)) = (u, none) →
        exec (.lcopy c) s = .next (u.updCore c fun k => k.finish q.id 0 0 0)) ∧
      (lcopyBad w = true → exec (.lcopy c) s = fails fLeField)) ∧
    (s.turnOf c .se 0x20 sHolds q t →
      (∀ (sp dp : Pat) (bs : List (List Byte)), scopyBad w = false →
        copyPats (t.core c) (fld w 117 112) (fld w 111 106) = some (sp, dp) → (src sp).core c = c.val →
        t.fetchAll c 1 c sp.size (sp.addrs (src sp).base) = (bs, none) →
        (∀ u, fld w 119 118 = 0 → t.checkOps c true [src sp, dst dp] = 0 →
          t.storeAll c 1 q.id ((dst dp).core c) ((dp.addrs (dst dp).base).zip bs) = (u, none) →
          (bitOf w 105 = false → exec (.scopy c) s = .next (u.updCore c fun k => k.finish q.id 0 0 0)) ∧
          (bitOf w 105 = true → (dst dp).core c = c.val → (u.core c).badLanes = [] → (u.core c).getDebt (fld w 104 100) = 0 →
            (u.core c).getAc (fld w 104 100) + 1 < 2 ^ 24 →
            ∃ r, exec (.scopy c) s = .next r ∧ (r.core c).getAc (fld w 104 100) = (u.core c).getAc (fld w 104 100) + 1 ∧
              ∀ e ∈ (r.core c).queue, e.id = q.id → e.st = .finished 0 0) ∧
          (bitOf w 105 = true → (dst dp).core c ≠ c.val →
            ∃ r m, exec (.scopy c) s = .next r ∧ r.nb = u.nb ++ [m] ∧ m.src = c.val ∧ m.dst = (dst dp).core c ∧ m.kind = .increment ∧
              m.ac = fld w 104 100 ∧ m.amount = 1 ∧ m.entry = q.id ∧ ∀ e ∈ (r.core c).queue, e.id = q.id → e.st = .executing)) ∧
        (fld w 119 118 ≠ 0 → t.checkOps c true [src sp] = 0 →
          regionOk dp (spaceBase (fld w 119 118) (fld w 63 32)) (t.spaceSize (t.core c).part (fld w 119 118)) = true →
          dp.aligned (spaceBase (fld w 119 118) (fld w 63 32)) = true →
          exec (.scopy c) s = .next ((t.remoteWrite (t.core c).part (fld w 119 118)
            ((dp.addrs (spaceBase (fld w 119 118) (fld w 63 32))).zip bs)).updCore c fun k => k.finish q.id 0 0 0))) ∧
      (scopyBad w = true → exec (.scopy c) s = fails fSeField)) ∧
    (s.pickReady c .le 0x11 fillHolds = none → exec (.lfill c) s = .next s) ∧
    (s.pickReady c .le 0x10 lHolds = none → exec (.lcopy c) s = .next s) ∧
    (s.pickReady c .se 0x20 sHolds = none → exec (.scopy c) s = .next s)

/-- AROWW at a macro that can take it stores the row through the macro's write path and keeps the image in the weight shadow; AROWR writes
the 576-byte record of the row at DST, and notes the read (R125, R126). A macro that holds operations keeps the command waiting in arrival
order (R26), one that is OFFLINE or RETIRED, and a row address past the macro's, fault it (Table 1.14, R25).
SATOM with the ATOMIC right adds its 32-bit value at the bank modulo 2^32, and without it ends with ATOMIC_DENIED; SCATOM adds at the
commons word of its offset, and a word outside the region or unaligned is SP_ADDR (R104, R124, R202). -/
def Obligations.RowsAndAtomics : Prop :=
  (∀ (s : State) (c : CoreId) (q : QEntry) (m : Nat),
    let t := s.begun c .aeRow q
    let row := fld q.slot 113 102
    let k := s.mac c m
    let mask := BitVec.ofNat 16 (fld q.slot 101 86)
    let src := fixedOperand (resolveField q.handles (slotLo q.slot) q.xr0) 512 true false 64
    let dst := fixedOperand (resolveField q.handles (slotLo q.slot) q.xr0) 576 false true 64
    let busy := fun x : CoreState => x.updEntry q.id fun e => { e with st := .executing }
    (s.core c).ammap (fld q.slot 119 114) = some m → fieldForm (slotLo q.slot) ≠ 3 →
    (∀ bs, s.headIs c .aeRow 0x45 q → fld q.slot 85 32 = 0 → t.checkOps c false [src] = 0 →
      t.fetch c (portOf .aeRow) (src.core c) src.lo.toNat 512 = .ok bs →
      let data := BitVec.ofNat 4096 (leNat bs)
      (k.rowFault row = 0 → k.repairBusy = false → k.passActive = false → k.held = [] →
        ∃ u, exec (.aroww c) s = .next u ∧ u.mac c m = k.store .program row mask data 0 ∧
          (fld q.slot 101 86 = 0xFFFF → u.shadowRow c m row = some data) ∧
          u.shadowRow c m row =
            some (BitVec.ofNat 4096 (mergeSegs 256 mask ((s.shadowRow c m row).getD (k.row row).data).toNat data.toNat)) ∧
          (u.core c).sp = (s.core c).sp ∧ (u.core c).win = (s.core c).win ∧
          ∀ e ∈ (u.core c).queue, e.id = q.id → e.st = .finished 0 0) ∧
      (k.repairBusy = true ∨ k.passActive = true ∨ k.held ≠ [] →
        ∃ u, exec (.aroww c) s = .next u ∧ u.mac c m = { k with held := k.held ++ [.aroww q.id row mask data] } ∧
          u.core c = busy (s.core c) ∧ u.ext = s.ext) ∧
      (k.rowFault row ≠ 0 → k.repairBusy = false → k.passActive = false → k.held = [] →
        ∃ u, exec (.aroww c) s = .next u ∧ u.core c = (busy (s.core c)).finish q.id (k.rowFault row) 0 0 ∧ u.macros = s.macros ∧
          u.ext = s.ext)) ∧
    (s.headIs c .aeRow 0x46 q → fld q.slot 101 32 = 0 → t.checkOps c false [dst] = 0 →
      (k.rowFault row = 0 → k.repairBusy = false → k.held = [] → (∀ d : Nat, (s.core d).badLanes = []) →
        ∃ u, exec (.arowr c) s = .next u ∧ (k.failing row = [] → u.mac c m = k.noteRead row) ∧
          (∀ i, i < 576 → Memory.read (u.core (dst.core c)).sp (dst.lo.toNat + i) = (k.readRecord row).getD i 0) ∧
          (∀ x, x < dst.lo.toNat ∨ dst.lo.toNat + 576 ≤ x →
            Memory.read (u.core (dst.core c)).sp x = Memory.read (s.core (dst.core c)).sp x) ∧
          ∀ e ∈ (u.core c).queue, e.id = q.id → e.st = .finished 0 0) ∧
      (k.repairBusy = true ∨ k.held ≠ [] →
        ∃ u, exec (.arowr c) s = .next u ∧
          u.mac c m = { k with held := k.held ++ [.arowr q.id row (dst.core c) dst.lo.toNat] } ∧ u.core c = busy (s.core c)) ∧
      (k.rowFault row ≠ 0 → k.repairBusy = false → k.held = [] →
        ∃ u, exec (.arowr c) s = .next u ∧ u.core c = (busy (s.core c)).finish q.id (k.rowFault row) 0 0 ∧ u.macros = s.macros))) ∧
  (∀ (s : State) (c : CoreId) (q : QEntry) (t : State),
    (s.turnOf c .se 0x21 (fun _ => false) q t →
      (fld q.slot 119 64 = 0 → fieldForm (slotMid q.slot) ≠ 3 → t.hub.right (t.core c).part 0 = true →
        let o := fixedOperand (resolveField q.handles (slotMid q.slot) q.xr1) 4 false true 4
        t.checkOps c false [o] = 0 → (∀ d : Nat, (t.core d).badLanes = []) →
        ∃ u, exec (.satom c) s = .next u ∧
          leNat (Memory.readN (u.core (o.core c)).sp o.lo.toNat 4) =
            (leNat (Memory.readN (t.core (o.core c)).sp o.lo.toNat 4) + fld q.slot 31 0) % 2 ^ 32 ∧
          (∀ x, x < o.lo.toNat ∨ o.lo.toNat + 4 ≤ x →
            Memory.read (u.core (o.core c)).sp x = Memory.read (t.core (o.core c)).sp x) ∧
          ∀ e ∈ (u.core c).queue, e.id = q.id → e.st = .finished 0 0) ∧
      (fld q.slot 119 64 = 0 → fieldForm (slotMid q.slot) ≠ 3 → t.hub.right (t.core c).part 0 = false →
        exec (.satom c) s = .next (t.updCore c fun k => k.finish q.id fAtomicDenied 0 0)) ∧
      (fld q.slot 119 64 ≠ 0 ∨ fieldForm (slotMid q.slot) = 3 →
        exec (.satom c) s = .next (t.updCore c fun k => k.finish q.id fSeField 0 0))) ∧
    (s.turnOf c .se 0x22 (fun _ => false) q t →
      let p := (t.core c).part
      let o := fld q.slot 63 32
      (fld q.slot 119 64 = 0 → o % 4 = 0 → o + 4 ≤ t.hub.commonsSize p →
        exec (.scatom c) s = .next ((t.updHub fun h => (h.commonsPut p o
          (leBytes 4 ((t.hub.commonsNum p o 4 + fld q.slot 31 0) % 2 ^ 32))).noteAdd p o).updCore c fun k => k.finish q.id 0 0 0)) ∧
      (fld q.slot 119 64 = 0 → o % 4 ≠ 0 ∨ t.hub.commonsSize p < o + 4 →
        exec (.scatom c) s = .next (t.updCore c fun k => k.finish q.id fSpAddr 0 0)) ∧
      (fld q.slot 119 64 ≠ 0 → exec (.scatom c) s = .next (t.updCore c fun k => k.finish q.id fSeField 0 0))))

/-! ## Vector and fine engines -/

/-- The element-wise operations of Table 7.4 on a command that passes its checks: element e of D is the operation of element e of A (after
dequantisation) and of B, converted under R65, and the entry is finished with its status.
The integer class forms the exact sum, difference, product or maximum of each pair before the conversion to D (R169). -/
def Obligations.VectorElementwise : Prop :=
  (∀ (s : State) (c : CoreId) (q : QEntry) (a : Pat) (b : Option Pat) (d : Pat) (va vb : List FV),
    let k := s.core c
    let kc := veK q.par1
    let n := va.length
    let x := fun e : Nat => (va.map (k.veDeq q)).getD e 0
    let y := fun e : Nat => (vb.map FV.toFP32).getD e 0
    let ends := fun (f : Nat → W32) =>
      (Host.Outcome.next (s.veEnds c q a b d va vb ((List.range n).map f) false) : Out)
    (s.veReady c 0x00 q a b d va vb → exec (.vcopy c) s = ends fun e => x e) ∧
    (s.veReady c 0x01 q a b d va vb → exec (.vadd c) s = ends fun e => fAdd (x e) (y e)) ∧
    (s.veReady c 0x02 q a b d va vb → exec (.vsub c) s = ends fun e => fSub (x e) (y e)) ∧
    (s.veReady c 0x03 q a b d va vb → exec (.vmul c) s = ends fun e => fMul (x e) (y e)) ∧
    (s.veReady c 0x04 q a b d va vb → exec (.vmax c) s = ends fun e => fMax (x e) (y e)) ∧
    (s.veReady c 0x05 q a b d va vb → exec (.vmin c) s = ends fun e => fMin (x e) (y e)) ∧
    (s.veReady c 0x06 q a b d va vb → exec (.vfma c) s = ends fun e => fFma (x e) kc (y e)) ∧
    (s.veReady c 0x07 q a b d va vb → exec (.vlerp c) s = ends fun e => fFma kc (fSub (y e) (x e)) (x e)) ∧
    (s.veReady c 0x08 q a b d va vb → exec (.vlerpsq c) s = ends fun e => fFma kc (fSub (fMul (y e) (y e)) (x e)) (x e)) ∧
    (s.veReady c 0x09 q a b d va vb → exec (.vdivsq c) s = ends fun e => fDiv (x e) (fAdd (fSqrt (y e)) kc)) ∧
    (s.veReady c 0x0A q a b d va vb → exec (.vexp c) s = ends fun e => fExp (fMul kc (x e))) ∧
    (s.veReady c 0x0B q a b d va vb → exec (.vrsqrt c) s = ends fun e => fRsqrt (fAdd (x e) kc)) ∧
    (s.veReady c 0x0C q a b d va vb → exec (.vact c) s =
      ends fun e => k.activate (fld q.par0 11 9) (x e) ((s.begun c .ve q).free + e)) ∧
    (s.veReady c 0x0D q a b d va vb → exec (.vdiv c) s = ends fun e => fDiv (x e) (y e))) ∧
  (∀ (s : State) (c : CoreId) (q : QEntry) (a : Pat) (b : Option Pat) (d : Pat) (va vb : List FV),
    let t := s.begun c .ve q
    let ends := fun f : Int → Int → Int => (Host.Outcome.next ((t.veFinish c q a b d
      ((List.range va.length).map fun e => FV.ofInt (f (va.getD e .nan).toInt (vb.getD e .nan).toInt))
      ((List.range va.length).map fun e => FV.ofInt (f (va.getD e .nan).toInt (vb.getD e .nan).toInt)) [] false false).ended c q) : Out)
    (s.veReady c 0x28 q a b d va vb → exec (.viadd c) s = ends (· + ·)) ∧
    (s.veReady c 0x29 q a b d va vb → exec (.visub c) s = ends (· - ·)) ∧
    (s.veReady c 0x2A q a b d va vb → exec (.vimul c) s = ends (· * ·)) ∧
    (s.veReady c 0x2B q a b d va vb → exec (.vimax c) s = ends max))

/-- Reductions and softmax over the groups of A's innermost level (R170, R173, R174): one result per group, or one row of probabilities. -/
def Obligations.VectorReductions : Prop :=
  ∀ (s : State) (c : CoreId) (q : QEntry) (a : Pat) (b : Option Pat) (d : Pat) (va vb : List FV),
    let k := s.core c
    let group := (a.levels.headD (1, 0)).1 * a.per (veAfmt q.slot)
    let as := va.map (k.veDeq q)
    let rows := chunks group as.length as
    let ends := fun (rs : List W32) (e : Bool) => (Host.Outcome.next (s.veEnds c q a b d va vb rs e) : Out)
    (s.veReady c 0x10 q a b d va vb → exec (.vrsum c) s = ends (rows.map (sum170 false)) false) ∧
    (s.veReady c 0x11 q a b d va vb → exec (.vrmax c) s = ends (rows.map maxOf) false) ∧
    (s.veReady c 0x12 q a b d va vb → exec (.vrssq c) s = ends (rows.map (sum170 true)) false) ∧
    (s.veReady c 0x20 q a b d va vb →
      let out := (List.range rows.length).map fun i => softmaxRow (scores (veK q.par1) (veCausal q.par0) (signed 32 (fld q.par1 31 0)) i
        (rows.getD i []) ((chunks group vb.length (vb.map FV.toFP32)).getD i []))
      exec (.vsmx c) s = ends (out.flatMap (·.1)) (out.any (·.2)))

/-- VFSUM adds the parts of each element in order, from the first (R172); VSMXC folds each row into its record m, l and gives c and the
probabilities (R174). A track measures the sums and the probabilities before a quantising multiplication (R76).
VPSUM combines the lanes of its partials under R102 and writes the preload image of the results, with SAT when a finite sum left the
range (R102, R171). -/
def Obligations.VectorPartials : Prop :=
  (∀ (s : State) (c : CoreId) (q : QEntry) (a : Pat) (b : Option Pat) (d : Pat),
    let k := s.core c
    let t := s.begun c .ve q
    let group := (a.levels.headD (1, 0)).1 * a.per (veAfmt q.slot)
    let passes := fun opc : Nat => s.headIs c .ve opc q ∧ (s.core c).veHolds q = false ∧ veSlotBad q.slot = false ∧
      veParamBad opc q.par0 q.par1 = false ∧ vePats (t.core c) q.slot = some (a, b, d) ∧ t.checkOps c true (veOperands q a b d) = 0 ∧
      (isBN (veDfmt q.slot) = true → ascending (bnTable (t.core c).win (veDfmt q.slot = 6) (fld q.par0 25 23)) = true)
    (∀ vss : List (List FV), passes 0x19 →
      ((List.range (veNpart q.par1)).map fun i =>
        t.veRead c portVeA q (veOpA q a i) a (veAfmt q.slot) 0 0) = vss.map Except.ok →
      let xs := vss.map fun v => v.map (k.veDeq q)
      let sums := (List.range (a.elems (veAfmt q.slot))).map fun e =>
        (xs.drop 1).foldl (fun acc l => fAdd acc (l.getD e 0)) ((xs.headD []).getD e 0)
      exec (.vfsum c) s = .next ((t.veFinish c q a b d (sums.map (k.veQuant q)) (sums.map fp32) []
        ((xs.any fun l => l.any fun x => !fFinite x) || sums.any fun x => !fFinite x) false).ended c q)) ∧
    (∀ (va : List FV) (pb : Pat) (recs : List (List Byte)), passes 0x21 → b = some pb →
      t.veRead c portVeA q (veOpA q a 0) a (veAfmt q.slot) (fld q.par0 31 29) (veAxh q.par0) = .ok va →
      let ob := veOpB q pb
      t.fetchAll c portVeB (ob.core c) 16 (pb.addrs ob.base) = (recs, none) →
      let as := va.map (k.veDeq q)
      let rows := chunks group as.length as
      let word := fun (i j : Nat) => BitVec.ofNat 32 (leNat (((recs.getD i []).drop (4 * j)).take 4))
      let out := (List.range rows.length).map fun i => softmaxChunk (word i 0) (word i 1)
        (scores (veK q.par1) (veCausal q.par0) (signed 32 (fld q.par1 31 0)) i (rows.getD i []) [])
      ∃ nf, exec (.vsmxc c) s = .next ((t.veFinish c q a b d ((out.flatMap (·.2.2.2)).map (k.veQuant q))
        ((out.flatMap (·.2.2.2)).map fp32) (((pb.addrs ob.base).zip out).map fun x =>
          ({ core := ob.core c, addr := x.1, bytes := leBytes 4 x.2.1.toNat ++ leBytes 4 x.2.2.1.toNat ++
            leBytes 4 x.2.2.2.1.toNat } : Run))
        nf (out.any fun x => x.1 = 0xFF800000)).ended c q))) ∧
  (∀ (s : State) (c : CoreId) (q : QEntry) (parts : List (List Byte)),
    let t := s.begun c .ve q
    let l := veLanes q.par1
    let n := 4 * l + l / 4
    let ra := resolveField q.handles (slotHi q.slot) q.xr2
    let ins := (List.range (veNpart q.par1)).map fun i => fixedOperand (ra.1, ra.2 + (i * vePstride q.par1 : Nat)) n true false 64
    let od := fixedOperand (resolveField q.handles (slotLo q.slot) q.xr0) n false true 64
    s.headIs c .ve 0x18 q → (s.core c).veHolds q = false → veSlotBad q.slot = false → veParamBad 0x18 q.par0 q.par1 = false →
    t.checkOps c true (ins.take 1 ++ [od] ++ ins.drop 1) = 0 → (ins.map fun o => t.fetch c portVeA (o.core c) o.lo.toNat n) = parts.map Except.ok →
    let ims := parts.map (preloadImage l)
    let out := (List.range l).map fun i => combineLane (ims.map fun m => (m.1.getD i 0, m.2.getD i .normal))
    let src := (ins.map fun o => (o.core c, o.lo.toNat, n)).filter fun r => decide (r ≠ (od.core c, od.lo.toNat, n))
    ∀ u, (t.bumpN n).veStore c q.id [freeOverlap src 1 t.free
        { core := od.core c, addr := od.lo.toNat, bytes := imageBytes (out.map fun x => (x.1, x.2.1)) }] = (u, none) →
      ∃ nf, exec (.vpsum c) s =
        .next (u.updCore c fun k => k.finish q.id 0 (estatVe false nf false (out.any (·.2.2))) 0))

/-- Lanes of partials combine as R102 says: any INV, or both infinities, gives INV; an infinity wins over numbers; else the exact sum,
saturated to 32 bits with the state of its sign; and every order of the partials gives the same lane. -/
def Obligations.CombineLanes : Prop :=
  ∀ xs : List (Int × LaneSt),
    ((∃ x ∈ xs, x.2 = .inv) → (combineLane xs).2.1 = .inv) ∧
    ((∃ x ∈ xs, x.2 = .posInf) → (∃ x ∈ xs, x.2 = .negInf) → (combineLane xs).2.1 = .inv) ∧
    ((∀ x ∈ xs, x.2 = .normal ∨ x.2 = .posInf) → (∃ x ∈ xs, x.2 = .posInf) → combineLane xs = (2147483647, .posInf, false)) ∧
    ((∀ x ∈ xs, x.2 = .normal ∨ x.2 = .negInf) → (∃ x ∈ xs, x.2 = .negInf) → combineLane xs = (-2147483648, .negInf, false)) ∧
    ((∀ x ∈ xs, x.2 = .normal) → -2147483648 ≤ (xs.map (·.1)).sum → (xs.map (·.1)).sum ≤ 2147483647 →
      combineLane xs = ((xs.map (·.1)).sum, .normal, false)) ∧
    ((∀ x ∈ xs, x.2 = .normal) → 2147483647 < (xs.map (·.1)).sum → combineLane xs = (2147483647, .posInf, true)) ∧
    ((∀ x ∈ xs, x.2 = .normal) → (xs.map (·.1)).sum < -2147483648 → combineLane xs = (-2147483648, .negInf, true)) ∧
    (∀ ys : List (Int × LaneSt), xs.Perm ys → combineLane xs = combineLane ys)

/-- FMM of valid fields and operands whose output is one block, with or without ADD and scales: D[i][j] is the accumulation over k, in
ascending order, of the products A[k][i]·B[k][j] onto 0 or D's old value, scaled and converted to the format of D, and a track is told of it
(R180 to R182); an FMM of any size over a sound scratchpad completes without a fault. A reserved bit ends FMM with FE_FIELD and VADD with
VE_FIELD, and nothing else changes (R178, R183). -/
def Obligations.FineMatrixMultiply : Prop :=
  ∀ (s : State) (c : CoreId) (q : QEntry),
    let u := s.begun c .fe q
    let w := q.slot
    let p := q.par0
    let r := q.par1
    let m := feM p
    let n := feN p
    let oa := feOpA q
    let ob := feOpB q
    let od := feOpD q
    let dRow := fun i : Nat => od.lo.toNat + fePitchD r * i
    let good := s.headIs c .fe 0x60 q ∧ feSlotBad w = false ∧ feParamBad w p r = false ∧ u.checkOps c false [oa, ob, od] = 0
    (∀ (ra rb rd : List (List Byte)) (t : State), good → m ≤ 128 → n ≤ 128 →
      u.feRows c portFeA oa (feK p) (fePitchA r) 0 (m * feABytes w) = (ra, none) →
      u.feRows c portFeB ob (feK p) (fePitchB r) 0 (n * feBBytes w) = (rb, none) →
      (feAdds w = true → u.fetchAll c portFeB (od.core c) (n * feDBytes w) ((List.range m).map dRow) = (rd, none)) →
      let xa := ra.map fun bs => (unpack (8 * feABytes w) m bs).map (decodeRaw (feSrc (fld w 119 118)) 0)
      let xb := rb.map fun bs => (unpack (8 * feBBytes w) n bs).map (decodeRaw (feSrc (fld w 117 116)) 0)
      let start := fun i j => if feAdds w then BitVec.ofNat 32 (leNat (((rd.getD i []).drop (4 * j)).take 4)) else (0 : W32)
      let accs := (List.range m).flatMap fun i => (List.range n).map fun j =>
        accumulate (decide (feABytes w = 1)) (start i j) ((xa.zip xb).map fun x => (x.1.getD i .nan).mul (x.2.getD j .nan))
      let out := if bitOf r 9 then accs.map fun a => fMul a ((u.core c).vsfScale (fld r 15 10)) else accs
      let vs := (if bitOf r 2 then out.map fun a => fMul a ((u.core c).vsfInv (fld r 8 3)) else out).map fp32
      let cv := convAll (u.core c).win (feDst (fld w 115 113)) 0 0 none vs
      (u.bumpN (m * n * feDBytes w)).storeAll c portFeB q.id (od.core c)
        ((chunks n (m * n) cv.raw).zipIdx.map fun x => (dRow x.2, pack (8 * feDBytes w) x.1)) = (t, none) →
      exec (.fmm c) s = .next ((if bitOf w 105 then t.updCore c fun k =>
          k.observe (fld w 104 100) (some (finMax (out.map fp32))) (out.map fp32).length (cv.clips + cv.rep) else t).updCore c fun k =>
        k.finish q.id 0 (estatFe (decide (cv.clips ≠ 0)) (accs.any fun a => !fFinite a)) 0)) ∧
    (good → (∀ d : Nat, (s.core d).badLanes = []) →
      ∃ t x, exec (.fmm c) s = .next t ∧ ∀ e ∈ (t.core c).queue, e.id = q.id → e.st = .finished 0 x) ∧
    (s.headIs c .ve 0x01 q → (s.core c).veHolds q = false → bitOf q.slot 96 = true →
      exec (.vadd c) s = .next ((s.begun c .ve q).updCore c fun k => k.finish q.id fVeField 0 0)) ∧
    (s.headIs c .fe 0x60 q → fld q.slot 99 96 ≠ 0 →
      exec (.fmm c) s = .next (u.updCore c fun k => k.finish q.id fFeField 0 0))

/-! ## Output path, merges, spares, registers -/

/-- Drains (R42, R86): ARELEASE of a FULL tile empties it and has run; an ADRAIN with valid fields and operands on a FULL tile takes it to
DRAINING, with F and the record it needs read once; both fault on an EMPTY tile that no earlier pass will fill, and wait in FILLING and
DRAINING (Table 2.6). The end of a drain whose bias reads and whose writes succeed empties the tile and finishes the entry without a fault,
with a bias table or not, at the own core or a neighbour; a write that fails before its first byte leaves the tile FULL, a later one
EMPTY, and the entry ends with the failure (R86, R149). -/
def Obligations.DrainLife : Prop :=
  (∀ (s : State) (c : CoreId) (q : QEntry),
    let k := s.core c
    let fails := fun f : Byte => (Host.Outcome.next (s.updCore c fun k => k.finish q.id f 0 0) : Out)
    (s.headIs c .aeDrain 0x42 q →
      (releaseFieldBad q.slot = false → (k.tile (pcTile q.slot)).st = .full →
        exec (.drainStart c) s = .next ((s.begun c .aeDrain q).updCore c fun k =>
          (k.setTile (pcTile q.slot) { (k.tile (pcTile q.slot)) with st := .empty }).finish q.id 0 0 0)) ∧
      (releaseFieldBad q.slot = true → exec (.drainStart c) s = fails fAeField) ∧
      (releaseFieldBad q.slot = false → (k.tile (pcTile q.slot)).st = .empty → k.earlierPass (pcTile q.slot) q.id = false →
        exec (.drainStart c) s = fails fAeTile) ∧
      (releaseFieldBad q.slot = false → (k.tile (pcTile q.slot)).st = .filling ∨ (k.tile (pcTile q.slot)).st = .draining →
        exec (.drainStart c) s = .next s)) ∧
    (s.headIs c .aeDrain 0x43 q →
      (∀ rec, drainFieldBad q.slot = false → (k.tile (adTile q.slot)).st = .full → s.checkOps c false (drainOperands q) = 0 →
        (isBN (adFmt q.slot) = true → ascending (bnTable k.win (adFmt q.slot = 6) (adCode q.slot)) = true) →
        s.readRecordFor c q = .ok rec → (adAccum q.slot = true → recordBad q.slot rec = false) →
        ∃ t d, exec (.drainStart c) s = .next t ∧ (t.core c).drain = some d ∧ d.id = q.id ∧ d.tile = adTile q.slot ∧ d.record = rec ∧
          d.scale = (if bitOf q.slot 94 then k.vsfScale (fld q.slot 93 88) else 0x3F800000) ∧
          ((t.core c).tile (adTile q.slot)).st = .draining ∧ (t.core c).win = k.win ∧ (t.core c).sp = k.sp) ∧
      (drainFieldBad q.slot = true → exec (.drainStart c) s = fails fAeField) ∧
      (drainFieldBad q.slot = false → (k.tile (adTile q.slot)).st = .full → s.checkOps c false (drainOperands q) ≠ 0 →
        exec (.drainStart c) s = fails (s.checkOps c false (drainOperands q))) ∧
      (drainFieldBad q.slot = false → (k.tile (adTile q.slot)).st = .empty → k.earlierPass (adTile q.slot) q.id = false →
        exec (.drainStart c) s = fails fAeTile) ∧
      (drainFieldBad q.slot = false → (k.tile (adTile q.slot)).st = .filling ∨ (k.tile (adTile q.slot)).st = .draining →
        exec (.drainStart c) s = .next s))) ∧
  (∀ (s : State) (c : CoreId) (q : QEntry) (d : DrainRun) (bs : List Nat), (s.core c).drain = some d →
    (s.core c).queue.find? (fun x => decide (x.id = d.id)) = some q → s.biasRead c q = (bs, none) →
    let k := s.core c
    let w := q.slot
    let spec := (k.tile (adTile w)).spec
    let zs := (List.range bs.length).map fun e => k.pipeZ w d.scale (bs.getD e 0) e (s.free + e)
    let cv := convAll k.win (adFmt w) (adCode w) (adCode w) none (zs.map fp32)
    let body := drainRuns c q cv
    let record : List Run :=
      if adRed w = 1 then [{ core := (adRec q).core c, addr := (adRec q).lo.toNat, bytes := topkRecord w d.record spec zs }]
      else if adRed w = 2 then [{ core := (adRec q).core c, addr := (adRec q).lo.toNat, bytes := (momentsRecord w d.record spec zs).1 }] else []
    let hdr := cmpHeader (adFmt w) ((body.map fun r => r.bytes.length).sum) (cv.raw.filter fun x => !elemZero (adFmt w) x).length
    let header : List Run := if adCmp w then [{ core := (adDst q).core c, addr := (adDst q).lo.toNat, bytes := hdr }] else []
    (∀ u done, s.writeRuns c false (body ++ record ++ header) = (u, none, done) →
      ∃ t x, exec (.drainComplete c) s = .next t ∧ ((t.core c).tile (adTile w)).st = .empty ∧ (t.core c).drain = none ∧
        (∀ e ∈ (t.core c).queue, e.id = q.id → e.st = .finished 0 x) ∧ (∀ o : Nat, (t.core o).sp = (u.core o).sp) ∧
        t.macros = s.macros) ∧
    (∀ u f done, s.writeRuns c false (body ++ record ++ header) = (u, some f, done) →
      ∃ t, exec (.drainComplete c) s = .next t ∧ ((t.core c).tile (adTile w)).st = (if done then .empty else .full) ∧
        (t.core c).drain = none ∧ (∀ e ∈ (t.core c).queue, e.id = q.id → e.st = .finished f.fault 0) ∧
        ∀ o : Nat, (t.core o).sp = (u.core o).sp)) ∧
  (∀ (s : State) (c : CoreId) (q : QEntry) (d : DrainRun), (s.core c).drain = some d → (s.core c).queue = [q] → q.id = d.id →
    bitOf q.slot 87 = false → (∀ o : Nat, (s.core o).badLanes = []) → (adDst q).core c = c.val → (adAux q).core c = c.val →
    (adRec q).core c = c.val →
    ∃ t x, exec (.drainComplete c) s = .next t ∧ ((t.core c).tile (adTile q.slot)).st = .empty ∧ (t.core c).drain = none ∧
      (t.core c).queue = [{ q with st := .finished 0 x, detail := 0 }] ∧ t.macros = s.macros)

/-- AMERGE with valid fields and operands writes the merged pairs and its descriptor's count and flags (R98, R99); runs merge in the
order of their keys, equal keys combining; a run out of its order ends it with MERGE_ORDER.
Hub merge jobs (R100, R101, R220): a descriptor of the partition's commons region with STATUS 0 whose runs have arrived starts a job, where
the pool admits one; and the end of a job without destinations writes the merged pairs, their count and STATUS 1, or 6 when runs were in
excess; a job of any kind ends. Whose pool entry a job takes is the model's choice (assumption log 138). -/
def Obligations.CoreAndHubMerges : Prop :=
  (∀ (s : State) (c : CoreId) (q : QEntry) (bs : List Byte) (rd : List (List Byte)),
    let t := s.begun c .aeDrain q
    let w := q.slot
    let desc := fixedOperand (resolveHandle q.handles (fld w 47 40)) 144 true true 64
    let ins := (List.range (amRuns w)).map fun r => descOperand (descWord bs (16 * r)) (8 * descWord bs (16 * r + 4)) true false 8
    let cap := descWord bs 0x84
    let out := descOperand (descWord bs 0x80) (8 * cap) false true 1
    let m := mergeRuns (amOrder w) (amComb w) (amLim w) cap ((rd.zip ins).map fun p => bytePairs ((p.2.hi - p.2.lo).toNat / 8) p.1)
    s.headIs c .aeDrain 0x44 q →
    (mergeFieldBad w = false → t.checkOps c false [desc] = 0 → t.readOperand c desc = .ok bs →
      t.checkOps c false ((ins ++ [out]).filter fun o => o.lo ≠ o.hi) = 0 → (ins.map fun o => t.readOperand c o) = rd.map Except.ok →
      (∀ u done, m.bad = false →
        t.writeRuns c false [{ core := c, addr := out.lo.toNat, bytes := pairBytes m.out },
          { core := desc.core c, addr := desc.lo.toNat + 0x88,
            bytes := leBytes 4 m.out.length ++ leBytes 4 (bitAt m.trunc 0 + bitAt m.sat 1) }] = (u, none, done) →
        exec (.amerge c) s = .next (u.updCore c fun k => k.finish q.id 0 0 0)) ∧
      (m.bad = true → ∃ u, exec (.amerge c) s = .next u ∧ ∀ e ∈ (u.core c).queue, e.id = q.id → e.st = .finished fMergeOrder 0)) ∧
    (mergeFieldBad w = true → exec (.amerge c) s = .next (t.updCore c fun k => k.finish q.id fAeField 0 0))) ∧
  (∀ (s : State) (p : PartId) (off : Nat),
    let h := s.hub
    (off % 64 = 0 → off + 0x440 ≤ h.commonsSize p → h.mj p off 0xC 4 = 0 → mjRuns h p off ≠ 0 → mjRuns h p off ≤ 128 →
      mjRuns h p off ≤ h.mj p off 0 4 → (∀ j ∈ h.jobs, ¬(j.part = p.val ∧ j.off = off)) →
      (h.poolOk 3 (h.mergeTenant p) = true →
        exec (.hubMergeStart p off) s = .next (s.setHub { h with
          jobs := h.jobs ++ [{ part := p.val, off := off, coll := false, tenant := h.mergeTenant p, waits := h.mergeWaits p off,
                               fail := s.mergeCheck p off }] }).bump) ∧
      (h.poolOk 3 (h.mergeTenant p) = false → exec (.hubMergeStart p off) s = .next (s.setHub (h.ask 3 (h.mergeTenant p))))) ∧
    (off % 64 ≠ 0 ∨ h.mj p off 0xC 4 ≠ 0 ∨ mjRuns h p off = 0 ∨ h.mj p off 0 4 < mjRuns h p off →
      exec (.hubMergeStart p off) s = .next s) ∧
    (∀ j : HubJob, h.jobs = [j] → j.part = p.val → j.off = off → j.coll = false → j.waits = false →
      let h0 := { h with jobs := [], mergeSeen := h.mergeSeen.filter fun x => decide (x ≠ (p.val, off)) }
      (∃ t, exec (.hubMergeDone p off) s = .next t ∧ t.hub.jobs = []) ∧
      (j.fail ≠ 0 → exec (.hubMergeDone p off) s = .next (s.setHub (h0.commonsPut p (off + 0xC) (leBytes 4 j.fail)))) ∧
      (j.fail = 0 → bit (mjMode h p off) 4 = false →
        let runs := (List.range (mjRuns h p off)).map fun r =>
          bytePairs (h.mj p off (0x44 + 8 * r) 4) (h.commonsGet p (h.mj p off (0x40 + 8 * r) 4) (8 * h.mj p off (0x44 + 8 * r) 4))
        let m := mergeRuns (mjMode h p off % 4) (mjMode h p off / 4 % 4) (h.mj p off 6 2) (2 ^ 32) runs
        m.bad = false →
        exec (.hubMergeDone p off) s = .next (s.setHub
          (((h0.commonsPut p (h.mj p off 0x10 4) (pairBytes m.out)).commonsPut p (off + 0x18)
            (leBytes 4 m.out.length)).commonsPut p (off + 0xC)
              (leBytes 4 (if mjRuns h p off < h.mj p off 0 4 then 6 else 1)))))) ∧
    ((∀ j ∈ h.jobs, ¬(j.part = p.val ∧ j.off = off)) → exec (.hubMergeDone p off) s = .next s))

/-- Register writes without a row of their own (R131, R334): the hub's write of scratchpad bytes, and an engine's to a region its core owns; a
write of a register takes effect when no table or tile it touches is in use, and waits while one is (R74, R90, Table 2.6); a host's clearing
of DEVSTAT bits by 1, an address outside every region failing with SP_ADDR, and an unlisted BAR0 offset taking no effect. -/
def Obligations.RegisterWrites : Prop :=
  ∀ (s : State) (c : CoreId) (p : HPort) (w : RegWriter),
    let k := s.core c
    let op := fun (a : BitVec 30) (data : List Byte) =>
      ({ ent := none, base := a.toNat, lo := a.toNat, hi := a.toNat + data.length, rd := false, wr := true, aligned := true } : Operand)
    (∀ (a : BitVec 30) (data : List Byte), data ≠ [] → a.toNat + data.length ≤ 0x03000000 → k.badLanes = [] →
      (∃ t, exec (.registerWrite (.core c a) .hub data) s = .next t ∧
        (∀ i, i < data.length → Memory.read (t.core c).sp (a.toNat + i) = data.getD i 0) ∧
        (∀ x, x < a.toNat ∨ a.toNat + data.length ≤ x → Memory.read (t.core c).sp x = Memory.read k.sp x) ∧
        (t.core c).win = k.win ∧ t.reply = { status := 0, data := [] }) ∧
      (∀ e, (regionsTouched a.toNat (a.toNat + data.length)).all k.ownsRegion = true →
        ∃ t, exec (.registerWrite (.core c a) (.engine e) data) s = .next t ∧
          (∀ i, i < data.length → Memory.read (t.core c).sp (a.toNat + i) = data.getD i 0) ∧
          (∀ x, x < a.toNat ∨ a.toNat + data.length ≤ x → Memory.read (t.core c).sp x = Memory.read k.sp x) ∧
          (t.core c).win = k.win ∧ t.reply = { status := 0, data := [] })) ∧
    (∀ (a : BitVec 30) (data : List Byte), data ≠ [] → 0x04000000 ≤ a.toNat →
      (regionFor a.toNat (a.toNat + data.length) ≠ none → k.writeWaits a.toNat data.length = false →
        exec (.registerWrite (.core c a) .hub data) s = .next ((s.winWrite c true .loader a.toNat data).answer 0 [])) ∧
      (regionFor a.toNat (a.toNat + data.length) ≠ none → k.writeWaits a.toNat data.length = true →
        exec (.registerWrite (.core c a) .hub data) s = .next s) ∧
      (regionFor a.toNat (a.toNat + data.length) = none →
        exec (.registerWrite (.core c a) .hub data) s = .next (s.answer fSpAddr.toNat [])) ∧
      ∀ e, let win := decide (e = .le) || decide (e = .se) || decide (e = .ve)
        (s.checkOps c win [op a data] ≠ 0 →
          exec (.registerWrite (.core c a) (.engine e) data) s = .next (s.answer (s.checkOps c win [op a data]).toNat [])) ∧
        (s.checkOps c win [op a data] = 0 → k.writeWaits a.toNat data.length = true →
          exec (.registerWrite (.core c a) (.engine e) data) s = .next s) ∧
        (s.checkOps c win [op a data] = 0 → k.writeWaits a.toNat data.length = false →
          exec (.registerWrite (.core c a) (.engine e) data) s = .next ((s.winWrite c false .program a.toNat data).answer 0 []))) ∧
    (∀ b : Byte, exec (.registerWrite (.core c 0x03000000#30) .hub [b]) s = .next (s.answer fSpAddr.toNat [])) ∧
    (∀ b : Byte, exec (.registerWrite (.bar0 p 0x40000#21) w [b]) s =
      .next (s.setHost p { s.host p with devstat := (s.host p).devstat &&& ~~~(b.setWidth 4) })) ∧
    (∀ b : Byte, exec (.registerWrite (.bar0 p 0x50000#21) w [b]) s = .next s)

/-! ## Hub: commands, streams, programs, memories, scheduling -/

/-- The control memories of the hub's runtime are with the blocks that keep them from reset (Table 9.2). -/
def tablesKept (h : Hub) : Prop := ∀ k < 4, h.owner k = ownerReset k

/-- Submission and completion rings (R206 to R208, R220, R203): the doorbell sets SQ_TAIL, CQ_HEAD consumes entries and posts a completion
that waited for the room, a fetch from the ring whose turn it is takes one entry and reserves one completion, a bad command, a tenant
outside the partition or one past its eighth of a wanted pool completes at once with CMD_FIELD (2), TENANT (3) or ADMIT_BUSY, nothing is
fetched while the ring is disabled or empty, out of its turn, or the hub runtime is paused or out of service, a full pool notes who waits,
NOP completes OK, and a completion with room appends its entry with the ring's PHASE, advances CQ_TAIL and gives the reservation back,
while one without room waits. A fetch that may not write the ring contexts leaves them and is journalled. -/
def Obligations.CommandRings : Prop :=
  ∀ (s : State) (r : Fin 64),
    let h := s.hub
    (∀ v : W32, exec (.sqDoorbell r v) s = .next (s.setHub (h.setRing r { h.ring r with sqTail := v }))) ∧
    (∀ v : W32, h.cqWait = [] → ∃ t, exec (.cqHeadWrite r v) s = .next t ∧ (t.hub.ring r).cqHead = v ∧
      Sparse.get t.hub.cqs [] r = (Sparse.get h.cqs [] r).drop (v - (h.ring r).cqHead).toNat ∧ t.hub.cmds = h.cmds ∧ t.cores = s.cores) ∧
    (∀ (v : W32) (w : CqWait) (i : Nat), h.cqWait = [w] → h.cqOf w.ring = r.val → (h.ring w.ring).en = true → w.fin = some i →
      ((h.ring r).cqTail - v).toNat < 2 ^ (h.ring r).cqLog.toNat →
      ∃ t e, exec (.cqHeadWrite r v) s = .next t ∧ t.hub.cqWait = [] ∧ e.tag = w.tag ∧ e.status = w.ans.status ∧ e.sq = w.ring ∧
        Sparse.get t.hub.cqs [] r = (Sparse.get h.cqs [] r).drop (v - (h.ring r).cqHead).toNat ++ [e]) ∧
    (∀ c : HostCmd, h.mayFetch r = true → cmdBad c = false → h.tenantOf (h.ringPart r) c.tenant.toNat = true →
      h.wanted 0 c.tenant.toNat = false → tablesKept h →
      ∃ t o, exec (.commandFetch r c) s = .next t ∧ t.hub.cmds = h.cmds ++ [o] ∧ o.cmd = c ∧ o.ring = r.val ∧ o.taken = false ∧
        (t.hub.ring r).sqHead = (h.ring r).sqHead + 1 ∧ (t.hub.ring (h.cqOf r)).reserved = (h.ring (h.cqOf r)).reserved + 1 ∧
        t.hub.turn = r.val ∧ t.cores = s.cores ∧ t.hub.streams = h.streams) ∧
    (∀ c : HostCmd, h.paused = true ∨ h.inService = false ∨ (h.ring r).en = false ∨ (h.ring r).sqHead = (h.ring r).sqTail →
      exec (.commandFetch r c) s = .next s) ∧
    (∀ c : HostCmd, h.cmds.length < 16384 → h.cqRoom r = false ∨ h.turnRing ≠ some r.val → exec (.commandFetch r c) s = .next s) ∧
    (∀ c : HostCmd, h.paused = false → h.inService = true → (h.ring r).en = true → (h.ring r).sqHead ≠ (h.ring r).sqTail →
      16384 ≤ h.cmds.length → exec (.commandFetch r c) s = .next (s.setHub (h.ask 0 c.tenant.toNat))) ∧
    (∀ c : HostCmd, h.mayFetch r = true → cmdBad c = true → tablesKept h →
      exec (.commandFetch r c) s = .next ((s.setHub (h.fetch r c).1).finishCmd (h.fetch r c).2 (Answer.of 2))) ∧
    (∀ c : HostCmd, h.mayFetch r = true → cmdBad c = false → h.tenantOf (h.ringPart r) c.tenant.toNat = false → tablesKept h →
      exec (.commandFetch r c) s = .next ((s.setHub (h.fetch r c).1).finishCmd (h.fetch r c).2 (Answer.of 3))) ∧
    (∀ c : HostCmd, h.mayFetch r = true → cmdBad c = false → h.tenantOf (h.ringPart r) c.tenant.toNat = true →
      h.wanted 0 c.tenant.toNat = true → poolShare 0 ≤ h.held 0 (some c.tenant.toNat) → tablesKept h →
      exec (.commandFetch r c) s = .next ((s.setHub (h.fetch r c).1).admitBusy (h.fetch r c).2 0 0)) ∧
    (∀ c : HostCmd, h.mayFetch r = true → cmdBad c = false → h.tenantOf (h.ringPart r) c.tenant.toNat = true →
      h.wanted 0 c.tenant.toNat = false → h.owner 3 ≠ some 3 → (∀ k < 3, h.owner k = ownerReset k) →
      ∃ t, exec (.commandFetch r c) s = .next t ∧ t.hub.rings = h.rings ∧ t.hub.seq = h.seq + 1 ∧ t.hub.streams = h.streams) ∧
    (∀ o, h.cmdNext r 0x00 = some o → exec (.hostNop r) s = .next (s.finishCmd o (Answer.of 0))) ∧
    (∀ (o : OutCmd) (a : Answer), o.ring = r.val → (h.ring r).en = true → h.cqWait = [] →
      ((h.ring (h.cqOf r)).cqUsed < 2 ^ (h.ring (h.cqOf r)).cqLog.toNat →
        ∃ e, Sparse.get (s.finishCmd o a).hub.cqs [] (h.cqOf r) = Sparse.get h.cqs [] (h.cqOf r) ++ [e] ∧ e.tag = o.cmd.tag ∧
          e.status = a.status ∧ e.sq = r.val ∧ e.phase = (h.ring (h.cqOf r)).phase ∧ e.more = false ∧ e.stream = a.stream ∧
          e.detail = a.detail ∧ e.result = a.result ∧ (s.finishCmd o a).hub.cmds = h.cmds.filter (fun x => decide (x.id ≠ o.id)) ∧
          ((s.finishCmd o a).hub.ring (h.cqOf r)).cqTail = (h.ring (h.cqOf r)).cqTail + 1 ∧
          ((s.finishCmd o a).hub.ring (h.cqOf r)).reserved = (h.ring (h.cqOf r)).reserved - 1 ∧
          (s.finishCmd o a).cores = s.cores ∧ (s.finishCmd o a).hub.streams = h.streams) ∧
      (2 ^ (h.ring (h.cqOf r)).cqLog.toNat ≤ (h.ring (h.cqOf r)).cqUsed →
        ∃ w, (s.finishCmd o a).hub.cqWait = [w] ∧ w.ring = r.val ∧ w.tag = o.cmd.tag ∧ w.ans = a ∧ w.fin = some o.id ∧
          (s.finishCmd o a).hub.cqs = h.cqs ∧ (s.finishCmd o a).hub.rings = h.rings))

/-- Streams (R209, R216, R224, Table 9.10): OPEN takes the lowest FREE entry and slot and ends IDLE; REQ makes an IDLE stream READY and
queues behind the held request of a HELD one; STOP ends the outstanding request of a READY stream, which takes up its next queued request,
and all those of a HELD one, and one that runs stops after its invocation; CLOSE frees the stream, after its invocation if it runs; RELEASE
takes a HELD stream back, STREAM 0xFFFF every one of the partition; a command that names no open stream of the ring's partition completes
with STREAM_STATE (4). A block that does not own the stream table changes nothing in it (R203).
SIGNAL and tokens (R120, Table 9.6): SIGNAL grants its tokens on its channel of every core of the program; a release counter holds at
most 255 tokens, and the tokens that found no room are journalled. -/
def Obligations.StreamsAndTokens : Prop :=
  (∀ (s : State) (r : Fin 64) (o : OutCmd),
    let h := s.hub
    let p := h.ringPart r
    let n := cmdN o.cmd 8 2
    let t := o.cmd.tenant.toNat
    (∀ g k m, tablesKept h → h.cmdNext r 0x10 = some o → h.progIn p (cmdN o.cmd 8 8) = some g → h.loaderBusy p = false →
      h.poolOk 1 t = true →
      (h.part p).sused < (h.part p).squota → (h.openStreams fun x => x.tenant = t).length < s.mgmt.streamQuota t →
      (List.range g.slots).find? (fun k => (Sparse.find? g.slotUse k).isNone) = some k →
      s.admits p t (cmdN o.cmd 0x10 1) g = true → (List.range 8192).find? (fun i => decide ((h.stream i).st = 0)) = some m →
      ∃ u, exec (.streamOpen r) s = .next u ∧ u.hub.stream m = { Stream.reset with
          st := 1, cls := cmdN o.cmd 0x10 1, part := p, tenant := t, slot := k, prog := g.handle, account := cmdN o.cmd 0x12 2 } ∧
        (u.hub.part p).sused = (h.part p).sused + 1 ∧ u.cores = s.cores ∧ ∀ i, i ≠ m → u.hub.stream i = h.stream i) ∧
    (∀ g, tablesKept h → h.cmdNext r 0x11 = some o → s.streamOf r n = true → h.prog (h.stream n).prog = some g →
      (bucketPair g.img.buckets (cmdN o.cmd 0xC 4) (cmdN o.cmd 0x10 4)).isSome = true →
      ((h.stream n).st = 1 → (h.stream n).outstanding = false → cmdN o.cmd 0x14 4 ≠ 0 →
        ∃ u, exec (.streamReq r) s = .next u ∧ (u.hub.stream n).st = 2 ∧ (u.hub.stream n).age = 0 ∧
        (u.hub.stream n).n0 = cmdN o.cmd 0xC 4 ∧ (u.hub.stream n).n1 = cmdN o.cmd 0x10 4 ∧
        (u.hub.stream n).remain = cmdN o.cmd 0x14 4 ∧ (u.hub.stream n).tag = o.cmd.tag ∧ (u.hub.stream n).outstanding = true ∧
        u.cores = s.cores ∧ ∀ i, i ≠ n → u.hub.stream i = h.stream i) ∧
      ((h.stream n).st = 4 → (h.stream n).outstanding = true → cmdN o.cmd 0x14 4 ≠ 0 →
        ∃ u, exec (.streamReq r) s = .next u ∧ u.hub.stream n = { h.stream n with queued := (h.stream n).queued ++ [o.cmd] } ∧
          u.cores = s.cores ∧ ∀ i, i ≠ n → u.hub.stream i = h.stream i) ∧
      ((h.stream n).st = 1 ∨ (h.stream n).st = 4 → cmdN o.cmd 0x14 4 = 0 →
        exec (.streamReq r) s = .next (s.finishCmd o { Answer.of 0 with stream := n }))) ∧
    (h.cmdNext r 0x12 = some o → s.streamOf r n = true → tablesKept h →
      ((h.stream n).st = 1 → exec (.streamStop r) s = .next (s.finishCmd o { Answer.of 0 with stream := n })) ∧
      ((h.stream n).st = 2 → (h.stream n).queued = [] → ∃ u, exec (.streamStop r) s = .next u ∧ (u.hub.stream n).st = 1 ∧
        (u.hub.stream n).remain = 0 ∧ (u.hub.stream n).outstanding = false ∧ u.cores = s.cores) ∧
      (∀ c rest, (h.stream n).st = 2 → (h.stream n).queued = c :: rest → ∃ u, exec (.streamStop r) s = .next u ∧ (u.hub.stream n).st = 2 ∧
        (u.hub.stream n).tag = c.tag ∧ (u.hub.stream n).queued = rest ∧ (u.hub.stream n).outstanding = true ∧ u.cores = s.cores) ∧
      ((h.stream n).st = 3 → ∃ u, exec (.streamStop r) s = .next u ∧ u.hub.stream n = { h.stream n with stopDue := true } ∧
        u.cores = s.cores) ∧
      ((h.stream n).st = 4 → ∃ u, exec (.streamStop r) s = .next u ∧ (u.hub.stream n).st = 1 ∧ (u.hub.stream n).queued = [] ∧
        (u.hub.stream n).remain = 0 ∧ (u.hub.stream n).outstanding = false ∧ u.cores = s.cores)) ∧
    (h.cmdNext r 0x13 = some o → s.streamOf r n = true → (h.stream n).closeDue = false → tablesKept h →
      ((h.stream n).st = 1 ∨ (h.stream n).st = 2 ∨ (h.stream n).st = 4 → ∃ u, exec (.streamClose r) s = .next u ∧
        u.hub.stream n = Stream.reset ∧ (u.hub.part p).sused = (h.part p).sused - 1 ∧ u.cores = s.cores) ∧
      ((h.stream n).st = 3 → ∃ u, exec (.streamClose r) s = .next u ∧ (u.hub.stream n).closeDue = true ∧ (u.hub.stream n).st = 3)) ∧
    (h.cmdNext r 0x14 = some o → tablesKept h →
      (n ≠ 0xFFFF → s.streamOf r n = true → (h.stream n).st = 4 → ∃ u, exec (.streamRelease r) s = .next u ∧
        (u.hub.stream n).st = (if (h.stream n).outstanding = true ∨ (h.stream n).queued ≠ [] then 2 else 1) ∧ (u.hub.stream n).age = 0 ∧
        ∀ i, i ≠ n → u.hub.stream i = h.stream i) ∧
      (n = 0xFFFF → ∃ u, exec (.streamRelease r) s = .next u ∧
        (∀ i, (h.stream i).st = 4 → (h.stream i).part = p → (u.hub.stream i).st ≠ 4))) ∧
    (s.streamOf r n = false → n ≠ 0xFFFF → tablesKept h →
      (h.cmdNext r 0x11 = some o → exec (.streamReq r) s = .next (s.finishCmd o { Answer.of 4 with stream := n })) ∧
      (h.cmdNext r 0x12 = some o → exec (.streamStop r) s = .next (s.finishCmd o { Answer.of 4 with stream := n })) ∧
      (h.cmdNext r 0x13 = some o → exec (.streamClose r) s = .next (s.finishCmd o { Answer.of 4 with stream := n })) ∧
      (h.cmdNext r 0x14 = some o → exec (.streamRelease r) s = .next (s.finishCmd o { Answer.of 4 with stream := n }))) ∧
    (h.owner 0 ≠ some 3 → (∃ t, exec (.streamOpen r) s = .next t ∧ t.hub.streams = h.streams) ∧
      (∃ t, exec (.streamReq r) s = .next t ∧ t.hub.streams = h.streams) ∧ (∃ t, exec (.streamStop r) s = .next t ∧ t.hub.streams = h.streams) ∧
      (∃ t, exec (.streamClose r) s = .next t ∧ t.hub.streams = h.streams) ∧
      ∃ t, exec (.streamRelease r) s = .next t ∧ t.hub.streams = h.streams)) ∧
  ((∀ (s : State) (r : Fin 64) (o : OutCmd) (g : Program), s.hub.cmdNext r 0x20 = some o →
    s.hub.progIn (s.hub.ringPart r) (cmdN o.cmd 8 8) = some g →
    exec (.signal r) s =
      .next ((g.lcores.foldl (fun s c => s.grantTok c (cmdN o.cmd 0x10 1) (cmdN o.cmd 0x11 1)) s).finishCmd o (Answer.of 0))) ∧
  (∀ (s : State) (c ch n : Nat), ch < 64 →
    ((s.grantTok c ch n).core c).getTok ch = min 255 ((s.core c).getTok ch + n) ∧
    (∀ d, d ≠ c → (s.grantTok c ch n).core d = s.core d) ∧ (s.grantTok c ch n).macros = s.macros ∧
    ((s.core c).getTok ch + n ≤ 255 → (s.grantTok c ch n).hub = s.hub) ∧
    (255 < (s.core c).getTok ch + n → (s.grantTok c ch n).hub.seq = s.hub.seq + 1)))

/-- Installing, replacing and removing programs (R185, R187, R198, R199, R207, R220): the image that stands at the command's offset, once
verified, becomes a program that is being installed; its end arms every macro and makes it ready, or removes it; a code replacement waits
with the new image and its switch changes the bank of every core at once; any other replacement, and one whose retained sections are gone,
is full: its streams are held, and its end installs the new image or leaves the program held without cores; UNINSTALL removes the program.
A refused image changes nothing but its completion, and a full install queue answers ADMIT_BUSY. -/
def Obligations.ProgramInstallation : Prop :=
  ∀ (s : State) (r : Fin 64) (recs : Listed),
    let h := s.hub
    let p := h.ringPart r
    (∀ o, h.nextCmdIf r 0x01 (fun c => cmdN c 0x14 1 = 0) = some o →
      let img := s.imageAt p (cmdN o.cmd 8 8) recs
      (h.poolOk 2 o.cmd.tenant.toNat = true →
        (∀ b, s.verify p o.cmd.tenant.toNat (cmdN o.cmd 8 8) (cmdN o.cmd 0x10 4) img none none = .ok b →
          ∃ t, exec (.install r recs) s = .next t ∧ t.hub.nextProg = h.nextProg + 1 ∧
            ∃ g ∈ t.hub.programs, g.handle = h.nextProg ∧ g.st = .installing ∧ g.img = img ∧ g.lcores = b ∧ g.part = p) ∧
        (∀ e, s.verify p o.cmd.tenant.toNat (cmdN o.cmd 8 8) (cmdN o.cmd 0x10 4) img none none = .error e →
          exec (.install r recs) s = .next (s.finishCmd o { Answer.of e.status with detail := e.detail }))) ∧
      (h.poolOk 2 o.cmd.tenant.toNat = false → exec (.install r recs) s = .next (s.admitBusy o 2 0))) ∧
    (∀ prog g, h.prog prog = some g → g.st = .installing →
      ((s.armImage g.img g.lcores).2 = true → ∃ t, exec (.installComplete prog true) s = .next t ∧
        (∀ m ∈ s.boundMacros g.img g.lcores, (t.mac m.1 m.2).st = .armed) ∧ ∃ x, t.hub.prog prog = some x ∧ x.st = .ready) ∧
      (∀ ok, ok = false ∨ (s.armImage g.img g.lcores).2 = false → ∃ t, exec (.installComplete prog ok) s = .next t ∧
        t.hub.prog prog = none)) ∧
    (∀ prog g i ok, h.prog prog = some g → g.st = .fullReplacing → g.newImg = some i →
      (h.runs prog = true → exec (.installComplete prog ok) s = .next s) ∧
      (h.runs prog = false →
        let s1 := (g.lcores.foldl State.stopCore s).unloadImage g.img g.lcores g.handle
        (∀ b, s1.overOneRuntime (bindCores i) (s1.freeCores g.part (some g.handle)) = some b →
          (ok = true → ((s1.loadImage i b g.part g.handle).armImage i b).2 = true →
            ∃ t x, exec (.installComplete prog ok) s = .next t ∧ t.hub.prog prog = some x ∧ x.st = .ready ∧ x.img = i ∧ x.lcores = b ∧
              x.newImg = none) ∧
          (ok = false ∨ ((s1.loadImage i b g.part g.handle).armImage i b).2 = false →
            ∃ t x, exec (.installComplete prog ok) s = .next t ∧ t.hub.prog prog = some x ∧ x.st = .held ∧ x.lcores = [] ∧ x.newImg = none)) ∧
        (s1.overOneRuntime (bindCores i) (s1.freeCores g.part (some g.handle)) = none →
          ∃ t x, exec (.installComplete prog ok) s = .next t ∧ t.hub.prog prog = some x ∧ x.st = .held ∧ x.lcores = [] ∧ x.newImg = none))) ∧
    (∀ o g, h.nextCmdIf r 0x01 (fun c => cmdN c 0x14 1 = 1) = some o → h.progIn p (cmdN o.cmd 0x18 8) = some g →
      h.poolOk 2 o.cmd.tenant.toNat = true →
      let img := s.imageAt p (cmdN o.cmd 8 8) recs
      (∀ b, sameSections g.img img = true → s.manifestGone p = false →
        s.verify p o.cmd.tenant.toNat (cmdN o.cmd 8 8) (cmdN o.cmd 0x10 4) img (some g.handle) (some g.lcores) = .ok b →
        ∃ t x, exec (.installReplace r recs) s = .next t ∧ t.hub.prog g.handle = some x ∧ x.st = .codeReplacing ∧ x.newImg = some img ∧
          x.img = g.img ∧ x.lcores = g.lcores ∧ x.bank = g.bank ∧ t.hub.streams = h.streams ∧ ∀ c, (t.core c).bank = (s.core c).bank) ∧
      (∀ b, sameSections g.img img = false ∨ s.manifestGone p = true →
        s.verify p o.cmd.tenant.toNat (cmdN o.cmd 8 8) (cmdN o.cmd 0x10 4) img (some g.handle) none = .ok b →
        ∃ t x, exec (.installReplace r recs) s = .next t ∧ t.hub.prog g.handle = some x ∧ x.st = .fullReplacing ∧ x.newImg = some img ∧
          t.cores = s.cores ∧ t.macros = s.macros ∧
          ∀ n, (h.stream n).prog = g.handle → (h.stream n).st = 1 ∨ (h.stream n).st = 2 → (t.hub.stream n).st = 4)) ∧
    (∀ prog g i, h.prog prog = some g → g.newImg = some i → g.st = .codeReplacing → h.runs prog = false → g.lcores.Nodup →
      ∃ t x, exec (.codeBankSwitch prog) s = .next t ∧ t.hub.prog prog = some x ∧ x.st = .ready ∧ x.img = i ∧ x.newImg = none ∧
        (∀ c ∈ g.lcores, t.core c = { s.core c with bank := !(s.core c).bank }) ∧
        ∀ c, c ∉ g.lcores → t.core c = s.core c) ∧
    (∀ prog, h.runs prog = true → (∀ g, h.prog prog = some g → g.st = .codeReplacing) → exec (.codeBankSwitch prog) s = .next s) ∧
    (∀ o g, h.cmdNext r 0x02 = some o → h.progIn p (cmdN o.cmd 8 8) = some g → h.poolOk 2 o.cmd.tenant.toNat = true →
      h.loaderBusy g.part = false →
      ∃ t, exec (.uninstall r) s = .next t ∧ t.hub.prog g.handle = none ∧ (∀ x ∈ t.hub.cmds, x.id = o.id → x.taken = true) ∧
        ∀ v ∈ t.hub.invs, v.prog ≠ g.handle)

/-- Atomics and owners of the hub's memories (R202, R203, R204, R224): an aligned ADD or SWAP in the memory returns the old value and
leaves the sum or the new value there and every other byte as it was; a misaligned one, and one that a core makes outside its commons,
fails with SP_ADDR and changes nothing, and the partition table takes none but the island's; OWNER is written by the island and by the
owner, and any other write is discarded and journalled; a commons bank that gets a new owner reads 0. -/
def Obligations.HubMemories : Prop :=
  ∀ (s : State) (who : HubAgent) (mem : CtlMem) (v : W64),
    (∀ a wide, s.atomicFault who mem a (if wide then 8 else 4) = 0 →
      let n := if wide then 8 else 4
      let old := s.memGet mem a n
      ∀ add : Bool, let new := leBytes n (if add then leNat old + v.toNat else v.toNat)
      ∃ t, exec (if add then Instr.ctrlMemAdd who mem a wide v else .ctrlMemSwap who mem a wide v) s = .next t ∧
        t.reply = { status := 0, data := old } ∧ t.cores = s.cores ∧ t.hub.owners = s.hub.owners ∧
        (mem = .creditPools → Memory.readN t.hub.credits a n = new ∧ t.hub.commons = s.hub.commons ∧
          ∀ x, x < a ∨ a + n ≤ x → Memory.read t.hub.credits x = Memory.read s.hub.credits x) ∧
        (mem = .tenantTable → Memory.readN t.hub.tenantMem a n = new ∧ t.hub.commons = s.hub.commons ∧
          ∀ x, x < a ∨ a + n ≤ x → Memory.read t.hub.tenantMem x = Memory.read s.hub.tenantMem x) ∧
        (∀ k, mem = .commonsBank k → Memory.readN t.hub.commons (k.val * 0x400000 + a) n = new ∧ t.hub.credits = s.hub.credits ∧
          ∀ x, x < k.val * 0x400000 + a ∨ k.val * 0x400000 + a + n ≤ x → Memory.read t.hub.commons x = Memory.read s.hub.commons x)) ∧
    (∀ a wide, a % (if wide then 8 else 4) ≠ 0 →
      exec (.ctrlMemAdd who mem a wide v) s = .next (s.answer fSpAddr.toNat []) ∧
      exec (.ctrlMemSwap who mem a wide v) s = .next (s.answer fSpAddr.toNat [])) ∧
    (∀ a wide (c : CoreId), who = .fabric c → (∀ k, mem ≠ .commonsBank k) →
      exec (.ctrlMemAdd who mem a wide v) s = .next (s.answer fSpAddr.toNat []) ∧
      exec (.ctrlMemSwap who mem a wide v) s = .next (s.answer fSpAddr.toNat [])) ∧
    (∀ a wide, who ≠ .island → (∀ c, who ≠ .fabric c) → mem = .partitionTable → a % (if wide then 8 else 4) = 0 →
      a + (if wide then 8 else 4) ≤ 0x1000 →
      exec (.ctrlMemAdd who mem a wide v) s = .next (s.answer fSpPerm.toNat []) ∧
      exec (.ctrlMemSwap who mem a wide v) s = .next (s.answer fSpPerm.toNat [])) ∧
    (∀ o, (who = .island ∨ s.ownsMem who mem = true) →
      ∃ t, exec (.ownerWrite who mem o) s = .next t ∧ t.hub.owner (memKey mem) = o ∧
        (∀ k, k ≠ memKey mem → t.hub.owner k = s.hub.owner k) ∧ t.cores = s.cores) ∧
    (∀ o, who ≠ .island → s.ownsMem who mem = false →
      ∃ t, exec (.ownerWrite who mem o) s = .next t ∧ t.hub.owners = s.hub.owners ∧ t.hub.seq = s.hub.seq + 1 ∧
        t.hub.commons = s.hub.commons) ∧
    (∀ (k : Fin 64) (p : Nat), who = .island → s.hub.owner (5 + k.val) ≠ some p →
      ∃ t, exec (.ownerWrite who (.commonsBank k) (some p)) s = .next t ∧
        (∀ x, k.val * 0x400000 ≤ x → x < (k.val + 1) * 0x400000 → Memory.read t.hub.commons x = 0) ∧
        ∀ x, x < k.val * 0x400000 ∨ (k.val + 1) * 0x400000 ≤ x → Memory.read t.hub.commons x = Memory.read s.hub.commons x)

/-- Epochs and invocations (R211, R212, R214, R215, R220, Table 9.10): a grant is kept for the boundary, a late one journalled; every
boundary counts and uses the grant or the last budget, and before the runtime admits work it dispatches nothing; a step record brings the
core one more token while its invocation has steps left; a completed invocation of one stream gives its result, and a faulted one sets
KV_LOST. -/
def Obligations.EpochsAndInvocations : Prop :=
  (∀ s : State, ∃ t, exec (.budgetGrant false) s = .next t ∧ t.hub.granted = some s.budgetOf ∧ t.power.budget = s.budgetOf ∧
    t.cores = s.cores) ∧
  (∀ s : State, exec (.budgetGrant true) s = .next (s.journalBare 0xA3 2 0)) ∧
  (∀ s : State, ∃ t, exec .epochBoundary s = .next t ∧ t.hub.epoch = s.hub.epoch + 1 ∧ t.hub.budget = s.hub.granted.getD s.hub.budget ∧
    t.hub.granted = none ∧ t.hub.poolPrev = s.hub.poolAsk ∧ t.hub.poolAsk = [] ∧
    (s.hub.admitting = false ∨ s.hub.paused = true → t.hub.invs = s.hub.invs ∧ t.cores = s.cores ∧ t.macros = s.macros)) ∧
  (∀ (s : State) (c : CoreId) (rec : List Byte) (v : Invocation), s.hub.steps = [(c.val, rec)] → s.hub.invs = [v] → c.val ∈ v.busy →
    Sparse.get v.granted 0 c.val < v.nsteps →
    ∃ t, exec (.stepRecordReceived c) s = .next t ∧ t.hub.steps = [] ∧ (t.core c).getTok 0 = min 255 ((s.core c).getTok 0 + 1) ∧
      ∃ v', t.hub.invs = [v'] ∧ Sparse.get v'.granted 0 c.val = Sparse.get v.granted 0 c.val + 1) ∧
  (∀ (s : State) (prog n : Nat) (v : Invocation), s.hub.invs = [v] → v.prog = prog → v.busy = [] → v.streams = [n] → tablesKept s.hub →
    (s.hub.stream n).queued = [] → (s.hub.stream n).closeDue = false → (s.hub.stream n).holdDue = false →
    (v.fault = none → (s.hub.stream n).stopDue = false → (s.hub.stream n).results = 0 →
      ∃ t, exec (.invocationComplete prog) s = .next t ∧ t.hub.invs = [] ∧ (t.hub.stream n).results = 1 ∧
        (t.hub.stream n).remain = (s.hub.stream n).remain - 1 ∧
        (t.hub.stream n).st = (if (s.hub.stream n).remain ≤ 1 then 1 else 2) ∧
        (t.hub.stream n).energy = (s.hub.stream n).energy + (s.measured v : Int) ∧ t.cores = s.cores) ∧
    (∀ f, v.fault = some f → s.hub.prog prog = none →
      ∃ t, exec (.invocationComplete prog) s = .next t ∧ t.hub.invs = [] ∧ (t.hub.stream n).st = 1 ∧
        (t.hub.stream n).kvLost = true ∧ (t.hub.stream n).remain = 0))

/-- The budgets of an epoch (R211), what a replica may take of one (R212) and its dispatch (R215): when the grant covers the floors,
every partition gets at least its floor and together they take no more than the grant; a scaled-down epoch gives no more than the grant
either; a replica that is dispatched takes its estimate from the rest of the budget and never more than is left; a dispatch makes one more
invocation, of the batch's streams, which then run, on every core of the replica. -/
def Obligations.BudgetsWithinGrant : Prop :=
  (∀ (h : Hub) (g : Nat) (ps : List Nat),
    (((budgetsOf h g ps).1.map fun x => x.2).sum ≤ g) ∧
    ((ps.map h.floor).sum ≤ g → (budgetsOf h g ps).2 = false ∧ ∀ x ∈ (budgetsOf h g ps).1, h.floor x.1 ≤ x.2) ∧
    (g < (ps.map h.floor).sum → (budgetsOf h g ps).2 = true)) ∧
  (∀ (p : Pass) (s : State) (rem : Nat) (g : Program), (State.tryReplica p (s, rem) g).2 ≤ rem ∧
    (s.idleReplica g = false → State.tryReplica p (s, rem) g = (s, rem)) ∧
    (∀ pair, s.idleReplica g = true → s.batchOf p g ≠ [] → s.hub.batchPair g (s.batchOf p g) = some pair → batchEst g.img pair ≤ rem →
      State.tryReplica p (s, rem) g = (s.dispatch g (s.batchOf p g) pair (batchEst g.img pair), rem - batchEst g.img pair))) ∧
  (∀ (s : State) (g : Program) (bat : List Nat) (pair : Nat × Nat) (e : Nat),
    let t := s.dispatch g bat pair e
    (∃ v, t.hub.invs = s.hub.invs ++ [v] ∧ v.prog = g.handle ∧ v.streams = bat ∧ v.busy = g.lcores ∧ v.est = e ∧ v.fault = none) ∧
    (∀ n ∈ bat, (t.hub.stream n).st = 3) ∧ (∀ n, n ∉ bat → t.hub.stream n = s.hub.stream n) ∧ (∀ c ∈ g.lcores, (s.core c).holdAt = false → (t.core c).st = .run) ∧
    t.macros = s.macros)

/-! ## Dictionary writes, partitions, rebinding, die loss -/

/-- Commands that are a WRITE of one object (R350, Table 15.11): a sound frame that passes the checks does its command's action in the
state in which the session's counter has advanced and nothing of it is staged, and is answered with the action's status; the node ID
follows a write of it (R346). -/
def Obligations.DictionaryWriteRows : Prop :=
  ∀ (s : State) (f : Frame) (slot : Nat) (x : Session) (o : Obj), s.grants f slot x o →
    let t := s.taken f slot x
    let w := frameWho f slot x
    let i := f.index.toNat
    let n := leNat f.data
    (isPartIdx i = true → f.sub = 2 →
      (f.data = [1] → exec (.partitionCreate f) s = answered f slot (t.actCreate w (i - 0x3000))) ∧
      (f.data = [2] → exec (.partitionDelete f) s = answered f slot (t.actDelete (i - 0x3000) false)) ∧
      (f.data = [3] → exec (.partitionDeleteForce f) s = answered f slot (t.actDelete (i - 0x3000) true)) ∧
      (f.data = [4] → exec (.partitionRebind f) s = answered f slot (t.actRebind (i - 0x3000))) ∧
      (f.data = [5] → exec (.partitionCommit f) s = answered f slot (t.actCommit w (i - 0x3000))) ∧
      (f.data = [6] → exec (.partitionDiscard f) s = answered f slot (t.actDiscard w (i - 0x3000)))) ∧
    (f.index = 0x7200 → (f.sub = 4 → exec (.leaseRenew f) s = answered f slot t.actLease) ∧
      (f.sub = 8 → f.data = [1] → exec (.resume f) s = answered f slot t.actResume) ∧
      (f.sub = 8 → f.data = [2] → exec (.discard f) s = answered f slot t.actDiscardJob)) ∧
    (f.index = 0x8000 → f.sub = 2 → (f.data = [1] → exec (.safetyPowerOff f) s = answered f slot t.actPowerOff) ∧
      (f.data = [2] → exec (.safetyPowerOn f) s = answered f slot t.actPowerOn) ∧
      (f.data = [3] → exec (.clearLatched f) s = answered f slot t.actClearLatched)) ∧
    (f.index = 0x8000 → f.sub = 3 → (n < 20 → exec (.resetArrayDie f) s = answered f slot (t.resetDie n)) ∧
      (n = 20 → exec (.resetHubDie f) s = answered f slot (t.hubRestart, dOk)) ∧
      (21 ≤ n → n ≤ 24 → exec (.resetPowerDie f) s = answered f slot t.resetPowerDie)) ∧
    (f.index = 0x8010 → f.sub = 1 → exec (.trayStateWrite f) s = answered f slot (t.actTray n)) ∧
    (f.index = 0xB000 → f.sub = 3 → exec (.journalAck f) s = answered f slot (t.actAck n)) ∧
    (f.index = 0x9000 → (f.sub = 2 → exec (.marchRequest f) s = answered f slot (t.actMarch f.data)) ∧
      (f.sub = 7 → exec (.phaseCalibration f) s = answered f slot (t.actPhaseCal n)) ∧
      (f.sub = 8 → exec (.lpddrRetraining f) s = answered f slot (t.actLpddr n))) ∧
    (f.index = 0xA000 → f.sub = 3 → f.data.length = 2 →
      (f.data.head? = some 1 → exec (.activate f) s = answered f slot (t.actFirmware f.data)) ∧
      (f.data.head? = some 2 → exec (.confirm f) s = answered f slot (t.actFirmware f.data)) ∧
      (f.data.head? = some 3 → exec (.revert f) s = answered f slot (t.actFirmware f.data)) ∧
      (f.data.head? = some 4 → exec (.abortDownload f) s = answered f slot (t.actFirmware f.data))) ∧
    (isKeyWrite f = false → (f.index ≠ 0xA000 ∨ f.sub ≠ 2) →
      ((f.index ≠ 0x1100 ∨ f.sub ≠ 2) → exec (.write f) s = answered f slot (t.writeObj w i f.sub.toNat f.data)) ∧
      (f.index = 0x1100 → f.sub = 2 →
        let r := t.writeObj w i f.sub.toNat f.data
        exec (.write f) s = .next ((r.1.replyTo f slot f.session (Ans.of r.2)).takeNodeId)))

/-- Changing a partition (R223 to R229, R366, Tables 10.1 and 10.2): create and delete take it to CHANGING and are IN_PROGRESS, delete of
one in use needs FORCE, which ends its streams and programs; a commit of shares waits for the epoch boundary, any other for its
completion; DISCARD drops the staged fields; the completion writes the new entry, gives its cores and banks to the partition, and frees
those of a deleted one, scrubbed. -/
def Obligations.PartitionChanges : Prop :=
  ∀ (s : State) (w : Who) (p : PartId),
    let h := s.hub
    let o := h.part p
    let t := targetEntry o (((h.stagedOf p).map (·.fields)).getD [])
    (o.st = 0 → h.stagedByOther p w.slot = false → s.changeRefused p t = 0 →
      let r := s.actCreate w p
      r.2 = dInProgress ∧ (r.1.hub.part p).st = 2 ∧ (r.1.hub.part p).keygen = (o.keygen + 1) % 65536 ∧
        Sparse.find? r.1.hub.changes p = some { target := t, deleting := false } ∧ r.1.hub.stagedOf p = none ∧ r.1.cores = s.cores) ∧
    (o.st = 1 → h.openStreams (fun x => x.part = p.val) = [] → (∀ g ∈ h.programs, g.part ≠ p.val) → ∀ force,
      let r := s.actDelete p force
      r.2 = dInProgress ∧ (r.1.hub.part p).st = 2 ∧ (∃ c, Sparse.find? r.1.hub.changes p = some c ∧ c.deleting = true) ∧
        r.1.cores = s.cores) ∧
    (o.st = 1 → (∃ g ∈ h.programs, g.part = p.val) →
      (s.actDelete p false).2 = dState ∧ (s.actDelete p false).1.hub.programs = h.programs ∧
      (s.actDelete p true).2 = dInProgress ∧ (∀ g ∈ (s.actDelete p true).1.hub.programs, g.part ≠ p.val)) ∧
    (o.st = 1 → h.stagedByOther p w.slot = false → s.changeRefused p t = 0 →
      (onlyShares o t = true → (s.actCommit w p).2 = dInProgress ∧
        ((s.actCommit w p).1.hub.part p).pendShare = some (t.pshare, t.pmin, t.kxshare) ∧
        ((s.actCommit w p).1.hub.part p).result = 1 ∧ ((s.actCommit w p).1.hub.part p).st = 1) ∧
      (onlyShares o t = false → h.displaced p t = [] → (s.actCommit w p).2 = dInProgress ∧
        ((s.actCommit w p).1.hub.part p).st = 2 ∧
        Sparse.find? (s.actCommit w p).1.hub.changes p = some { target := t, deleting := false }) ∧
      (onlyShares o t = false → h.displaced p t ≠ [] → h.loaderBusy p = true → (s.actCommit w p).2 = dInProgress ∧
        ((s.actCommit w p).1.hub.part p).result = dState ∧ ((s.actCommit w p).1.hub.part p).st = 1 ∧
        (s.actCommit w p).1.cores = s.cores)) ∧
    (o.st ≠ 1 → (s.actCommit w p) = (s, dState)) ∧
    (h.stagedByOther p w.slot = false → (s.actDiscard w p).2 = dOk ∧ (s.actDiscard w p).1.hub.stagedOf p = none ∧
      (s.actDiscard w p).1.hub.parts = h.parts) ∧
    (∀ ch, Sparse.find? h.changes p = some ch → h.changeReady p = true →
      (ch.deleting = false → ∃ u, exec (.partitionChangeComplete p) s = .next u ∧ u.hub.part p = committed o ch.target false ∧
        (∀ c, c < 80 → bitOf ch.target.cores c = true → (u.core c).owner = some p.val) ∧
        (∀ k, k < 64 → bitOf ch.target.cbanks k = true → u.hub.owner (5 + k) = some p.val) ∧
        Sparse.find? u.hub.changes p = none) ∧
      (ch.deleting = true → ∃ u, exec (.partitionChangeComplete p) s = .next u ∧ (u.hub.part p).st = 0 ∧
        (u.hub.part p).cgen = o.cgen + 1 ∧
        (∀ c, c < 80 → bitOf o.cores c = true → (u.core c).owner = none ∧ (u.core c).sp = [] ∧ (u.core c).st = .idle) ∧
        (∀ k, k < 64 → u.hub.owner (5 + k) ≠ some p.val) ∧ u.ext.regionOf p = [])) ∧
    (Sparse.find? h.changes p = none ∨ h.changeReady p = false → exec (.partitionChangeComplete p) s = .next s)

/-- Rebinding (R230 to R236, R345, Table 10.3): a start takes the program out of dispatch with its moves, refused without room or by the
arbiter, and a program with a core to leave that no resource set holds is parked without room; the hold, once the partition's lock is had,
holds its cores at once; the copy's end gives the program its new cores and dispatch again, or holds the program when no copy of its
shadow is complete; a core's registers, counters and words move with it. -/
def Obligations.Rebinding : Prop :=
  (∀ (s : State) (prog : Nat) (ls : List Nat) (g : Program), s.hub.prog prog = some g → (g.st = .ready ∨ g.st = .held) →
    g.lcores ≠ [] → s.hub.rebindOf prog = none →
    (∀ b, s.newBinding g ls [] = some b →
      (s.maint.blocker (rebindOp g b) = none →
        ∃ t r x, exec (.rebindStart prog ls) s = .next t ∧ t.hub.rebindOf prog = some r ∧ r.moves = g.lcores.zip b ∧ r.holding = false ∧
          t.hub.prog prog = some x ∧ x.st = .rebinding ∧ t.cores = s.cores ∧ t.hub.streams = s.hub.streams) ∧
      (∀ op, s.maint.blocker (rebindOp g b) = some op →
        ∃ t, exec (.rebindStart prog ls) s = .next t ∧ t.maint.refused = s.maint.refused + 1 ∧ t.hub.programs = s.hub.programs ∧
          t.hub.rebinds = s.hub.rebinds)) ∧
    (s.newBinding g ls [] = none →
      ((∀ l ∈ ls, g.lcores.getD l 0 ∉ s.maint.excluded) →
        exec (.rebindStart prog ls) s = .next (s.journalDev 0xB1 2 g.handle (BitVec.ofNat 64 g.part))) ∧
      ((∃ l ∈ ls, g.lcores.getD l 0 ∈ s.maint.excluded) →
        ∃ t x, exec (.rebindStart prog ls) s = .next t ∧ t.hub.prog prog = some x ∧ x.st = .held ∧ t.hub.seq = s.hub.seq + 1 ∧
          ∀ n, (s.hub.stream n).prog = prog → (s.hub.stream n).st = 1 ∨ (s.hub.stream n).st = 2 → (t.hub.stream n).st = 4))) ∧
  (∀ (s : State) (prog : Nat) (r : Rebind) (g : Program), s.hub.rebindOf prog = some r → s.hub.prog prog = some g → r.recover = false →
    (s.hub.runs prog = false ∨ s.hub.rebindLocked r.part = false → exec (.rebindHoldTimeout prog) s = .next s) ∧
    (s.hub.runs prog = true → s.hub.rebindLocked r.part = true → ∃ t r', exec (.rebindHoldTimeout prog) s = .next t ∧ t.hub.rebindOf prog = some r' ∧ r'.holding = true ∧
      (∀ c ∈ g.lcores, (s.core c).st = .run → (t.core c).st = .held) ∧ ∀ c, c ∉ g.lcores → t.core c = s.core c) ∧
    (s.copyReady r g = false → exec (.rebindCopyDone prog) s = .next s) ∧
    (s.copyReady r g = true → (∀ m ∈ r.moves, (s.die (coreDie m.1)).gone = false) ∨ s.manifestGone r.part = false →
      ∃ t x, exec (.rebindCopyDone prog) s = .next t ∧ t.hub.prog prog = some x ∧ x.st = .ready ∧
        x.lcores = r.moves.map (fun m => m.2) ∧ x.img = g.img ∧ t.hub.rebindOf prog = none) ∧
    (s.copyReady r g = true → (∃ m ∈ r.moves, (s.die (coreDie m.1)).gone = true) → s.manifestGone r.part = true →
      ∃ t x, exec (.rebindCopyDone prog) s = .next t ∧ t.hub.prog prog = some x ∧ x.st = .held ∧ x.lcores = g.lcores ∧
        t.hub.rebindOf prog = none)) ∧
  (∀ (held : Bool) (src dst : CoreState),
    let k := moveCore held src dst
    k.x = src.x ∧ k.flags = src.flags ∧ k.ac = src.ac ∧ k.acexp = src.acexp ∧ k.rtok = src.rtok ∧ k.ib0 = src.ib0 ∧ k.ib1 = src.ib1 ∧
    k.owner = src.owner ∧ k.ahHeld = src.ahHeld ∧ k.spareCopy = dst.spareCopy ∧ (held = false → k.st = .idle) ∧ (held = true → k.st = src.st ∧ k.pc = src.pc))

/-- Dies and watchdogs (R237, R238, R243, R247, R396): a heartbeat clears the count of those missing; the tenth missing one of a die that
runs, and a die that does not leave reset, lose the die; a lost die without programs has its cores fenced and taken from every
partition; a SAFETY reset's release starts the retest; JOURNAL_PERSIST writes the oldest device or safety record that the island has; a hub watchdog stops
admission, an island watchdog takes the island down and ends its sessions. -/
def Obligations.DieLossAndWatchdogs : Prop :=
  (∀ (s : State) (d : ArrayDie),
    exec (.dieHeartbeat d) s = .next (s.setDie d { s.die d with missed := 0 }) ∧
    ((s.die d).runs = true → exec (.dieHeartbeatTimeout d) s = .next ((s.setDie d { s.die d with missed := 10 }).loseDie d)) ∧
    ((s.die d).runs = false → exec (.dieHeartbeatTimeout d) s = .next s) ∧
    ((s.die d).reg = .on → (s.die d).lost = false → (s.die d).resetHold = false →
      exec (.leaveResetTimeout d) s = .next (s.loseDie d)) ∧
    ((s.die d).lost = true → exec (.leaveResetTimeout d) s = .next s) ∧
    ((s.die d).lost = false → s.hub.programs = [] → s.hub.rebinds = [] →
      ((s.loseDie d).die d).lost = true ∧ ((s.loseDie d).die d).inReset = true ∧
      (∀ c ∈ dieCores d, (s.loseDie d).core c = (s.core c).fence) ∧
      (∀ p, p < 16 → ∀ c ∈ dieCores d, bitOf ((s.loseDie d).hub.part p).cores c = false)) ∧
    ((s.die d).resetHold = true → ∃ t, exec (.dieResetRelease d) s = .next t ∧ (t.die d).resetHold = false ∧
      (t.die d).inReset = false ∧ (t.die d).retestDue = true ∧
      ∃ op ∈ t.maint.ops, op.kind = .march ∧ op.die = some d.val ∧ op.cores = dieCores d)) ∧
  (∀ (s : State) (r : JournalRec) (rest : List JournalRec), s.hub.islandQ = r :: rest → s.hub.persistent.length < 262144 →
    ∃ t, exec .journalPersist s = .next t ∧ t.hub.persistent = s.hub.persistent ++ [{ r with persisted := true }] ∧
      r ∉ t.hub.islandQ ∧ t.hub.journal.length = s.hub.journal.length) ∧
  (∀ s : State, s.hub.islandQ = [] → exec .journalPersist s = .next s) ∧
  (∀ s : State, s.hub.inService = true → ∃ t, exec .hubRuntimeWatchdog s = .next t ∧ t.hub.admitting = false ∧
    t.hub.seq = s.hub.seq + 1 ∧ t.cores = s.cores) ∧
  (∀ s : State, s.mgmt.up = true → ∃ t, exec .islandWatchdog s = .next t ∧ t.mgmt.up = false ∧ t.power.hold = false ∧
    (∀ k, k < 12 → Sparse.find? t.mgmt.sessions k = none) ∧ t.hub.seq = s.hub.seq + 1 ∧ t.cores = s.cores)

/-! ## Power delivery -/

/-- The power-up and power-down sequence (R252 to R258, R386, R393, R397, Tables 11.3 and 11.5): the auxiliary rail starts the island, whose
boot enters STANDBY; the on request starts UP(0) from STANDBY once the island has booted; the bus test, the bus and each step's dies follow in order and after step 6 the package is ON; an off request
takes ON to DOWN(6) with its grace, and a step already under way ends first; grace, idle dies, each step off and the discharged bus come
back to MIN_OFF, whose end is STANDBY. -/
def Obligations.PowerSequence : Prop :=
  ∀ s : State,
    let p := s.power
    (p.st = .off → ∃ t, exec .auxStart s = .next t ∧ t.power.st = .off ∧ t.power.aux = true ∧ t.mgmt.up = false ∧ t.cores = s.cores) ∧
    (p.st ≠ .off → exec .auxStart s = .next s) ∧
    (∃ t, exec .auxStop s = .next t ∧ t.power.st = .off ∧ t.power.aux = false ∧ t.mgmt.up = false ∧ t.cores = [] ∧ t.macros = [] ∧ t.mons = [] ∧
      t.maint.repairLog = s.maint.repairLog ∧ t.maint.excluded = s.maint.excluded) ∧
    (∀ nid : BitVec 5, p.aux = true → s.mgmt.up = false → p.gasp = [] → p.gaspTorn = false →
      ∃ t, exec (.islandBootDone nid) s = .next t ∧ t.mgmt.up = true ∧
        (p.st = .off ∨ p.st = .standby → t.power.st = (if s.onHolds then .up 0 else .standby)) ∧
        t.mgmt.nodeId = (if s.mgmt.obj 0x1100 2 = 0xFF then nid.toNat else s.mgmt.obj 0x1100 2) ∧ t.power.gasp = [] ∧
        t.maint.storeVer = Config.storeVersion ∧ t.cores = s.cores) ∧
    (∀ nid : BitVec 5, p.aux = false ∨ s.mgmt.up = true → exec (.islandBootDone nid) s = .next s) ∧
    (p.st ≠ .off → exec .mgmtClkSwitch s = .next { s with power := { p with mgmtRef := true } }) ∧
    (p.st = .standby → p.hold = false → 2 ≤ bitsOn p.pdOn → s.mgmt.up = true → ∃ t, exec .onRequest s = .next t ∧ t.power.st = .up 0 ∧
      t.power.susCap = none ∧ t.power.peakCap = none ∧ t.power.busTested = false ∧ t.power.pdOn = 0xF ∧ t.power.en = true ∧ t.dies = s.dies ∧
      ∀ q, q < 2 → (t.host q).hrdy = (if (s.host q).perstN then .boot else .reset)) ∧
    (p.st = .standby → p.hold = true ∨ s.mgmt.up = false → ∃ t, exec .onRequest s = .next t ∧ t.power.st = .standby ∧ t.dies = s.dies) ∧
    (p.st = .up 0 → p.busTested = false → p.mgmtRef = true →
      exec (.busShortTestDone false) s = .next { s with power := { p with busTested := true } } ∧
      ∃ t, exec (.busShortTestDone true) s = .next t ∧ t.power.st = .latched ∧ t.power.cause = 8 ∧ t.power.busOn = false) ∧
    (p.st = .up 0 → p.busTested = true → p.busOn = false → ∃ t, exec .busInRegulation s = .next t ∧ t.power.st = .up 1 ∧
      t.power.busOn = true ∧ (t.die 20).reg = .attempt ∧ (t.die 20).attempts = 1) ∧
    (∀ k, p.st = .up (k + 1) → (∀ d ∈ s.stepDies (k + 1), (s.die d).reg ≠ .hiccup) →
      (p.offDue = false → ∃ t, exec .dieStepComplete s = .next t ∧
        t.power.st = (if k + 1 < 6 then .up (k + 2) else .on) ∧
        (∀ d ∈ s.stepDies (k + 1), (s.die d).reg = .attempt → d ∉ s.stepDies (k + 2) → (t.die d).reg = .on ∧
          (t.die d).inReset = false ∧ (t.die d).point = 0 ∧ (t.die d).volt = vop d 0)) ∧
      (p.offDue = true → ∃ t, exec .dieStepComplete s = .next t ∧ t.power.st = .down (k + 1) ∧ t.power.stage = 3)) ∧
    (∀ k, p.st = .up (k + 1) → (∃ d ∈ s.stepDies (k + 1), (s.die d).reg = .hiccup) → exec .dieStepComplete s = .next s) ∧
    (p.st = .on → ∀ tray, ∃ t, exec (.offRequest tray) s = .next t ∧ t.power.st = .down 6 ∧ t.power.stage = 1 ∧
      t.power.cause = (if tray then 2 else 1) ∧ t.hub.admitting = false ∧ t.hub.inService = false ∧
      (∀ q, q < 2 → (t.host q).hrdy = .stop) ∧ (tray = false → t.power.en = false ∧ t.power.hold = false)) ∧
    (∀ k, p.st = .up (k + 1) → ∃ t, exec (.offRequest false) s = .next t ∧ t.power.st = .up (k + 1) ∧ t.power.offDue = true) ∧
    (p.st = .up 0 → ∃ t, exec (.offRequest false) s = .next t ∧ t.power.st = .down 0 ∧ t.power.stage = 3 ∧ t.power.cause = 1) ∧
    (p.stage = 1 → (s.hub.cmds = [] → s.hub.islandQ = [] → exec .graceEnd s = .next { s with power := { p with stage := 2 } }) ∧
      ∃ t, exec .graceEnd s = .next t ∧ t.power.stage = 2 ∧ t.hub.islandQ = [] ∧ t.cores = s.cores) ∧
    (p.stage = 2 → ∃ t, exec .diesIdle s = .next t ∧ t.power.stage = 3 ∧ (∀ i, i < 6 → (t.port i).live = false) ∧
      (∀ d, d < 21 → t.die d = (s.die d).atIdle d) ∧
      ∀ c, c < 80 → (s.core c).queue = [] → (s.core c).sigs = [] → (t.core c).st = .idle) ∧
    (∀ k, p.st = .down (k + 1) → p.stage = 3 → k < 6 → ∃ t, exec .dieStepOff s = .next t ∧ t.power.st = .down k ∧
      (∀ d, (k = 0 → d = 20) → (k ≠ 0 → d < 20 ∧ d / 4 + 1 = k) → (t.die d).reg = .off ∧ (t.die d).inReset = true ∧
        ∀ c ∈ dieCores d, (t.core c).sp = [] ∧ (t.core c).st = .idle ∧ ∀ m, m < 72 → (t.mac c m) = MacroState.reset m)) ∧
    (p.st = .down 0 → ∃ t, exec .busDischarged s = .next t ∧ t.power.st = .minOff ∧ t.power.busOn = false ∧ t.cores = [] ∧
      t.macros = [] ∧ t.power.cause = p.cause) ∧
    (p.st = .minOff → s.onHolds = false → exec .minOffExpire s = .next { s with power := { p with st := .standby } }) ∧
    (p.st = .minOff → s.onHolds = true → s.mgmt.up = true → ∃ t, exec .minOffExpire s = .next t ∧ t.power.st = .up 0) ∧
    (∀ k, p.st = .down k → ∃ t, exec .comparatorBackstop s = .next t ∧ t.power.st = .minOff ∧ t.cores = []) ∧
    (∀ k, p.st = .up k → p.offDue = true → ∃ t, exec .comparatorBackstop s = .next t ∧ t.power.st = .minOff ∧ t.cores = []) ∧
    (p.st = .on ∨ p.st = .standby ∨ p.st = .minOff ∨ p.st = .latched → exec .comparatorBackstop s = .next s)

/-- Regulators, phases and power dies (R259 to R266): a failed attempt waits in a hiccup and its end begins the next, the fourth latches
the regulator off and loses an array die; a bus that is short after its test takes the package to LATCHED; a phase that fails open is replaced
by a spare and the point it can carry capped; 50 readings of mismatch end with a phase dropped or the mismatch journalled; a second power
die lost caps the power, a third turns the package off. -/
def Obligations.PowerFaults : Prop :=
  (∀ (s : State) (d : DieId), (s.die d).reg = .attempt →
    (s.power.offDue = true → exec (.softStartFail d) s = .next (s.setDie d { s.die d with reg := .off })) ∧
    (s.power.offDue = false → (s.die d).attempts < 4 → exec (.softStartFail d) s = .next (s.setDie d { s.die d with reg := .hiccup })) ∧
    (s.power.offDue = false → 4 ≤ (s.die d).attempts → d.val < 20 → (∀ k, s.power.st ≠ .down k) → (s.die d).lost = false →
      ∃ t, exec (.softStartFail d) s = .next t ∧ (t.die d).lost = true ∧ (t.die d).reg = .latched ∧ t.power.st = s.power.st) ∧
    (s.power.offDue = false → 4 ≤ (s.die d).attempts → d.val = 20 → ∃ t, exec (.softStartFail d) s = .next t ∧ t.power.st = .latched ∧
      t.power.cause = 8)) ∧
  (∀ (s : State) (d : DieId), (s.die d).reg = .hiccup →
    exec (.hiccupExpire d) s = .next (s.setDie d { s.die d with reg := .attempt, attempts := (s.die d).attempts + 1 })) ∧
  (∀ (s : State) (d : DieId), (s.die d).reg = .on →
    (d.val < 20 → (∀ k, s.power.st ≠ .down k) → (s.die d).lost = false → ∃ t, exec (.regulatorLatchOff d) s = .next t ∧
      (t.die d).reg = .latched ∧ (t.die d).lost = true) ∧
    (d.val = 20 → ∃ t, exec (.regulatorLatchOff d) s = .next t ∧ t.power.st = .latched ∧ t.power.cause = 8)) ∧
  (∀ s : State, s.power.busTested = true → ∃ t, exec .busShort s = .next t ∧ t.power.st = .latched ∧ t.power.busOn = false ∧
    t.power.cause = 8) ∧
  (∀ s : State, s.power.busTested = false → exec .busShort s = .next s) ∧
  (∀ (s : State) (d : DieId) (ph : Fin 24), (s.die d).reg = .on → bitOf (s.die d).inService ph = true →
    12 ≤ phasesOn (s.die d).inService - 1 →
    ∃ t, exec (.phaseFailOpen d ph) s = .next t ∧ bitOf (t.die d).inService ph = false ∧ bitOf (t.die d).dropped ph = true ∧
      phasesOn (s.die d).inService - 1 ≤ phasesOn (t.die d).inService ∧ (t.die d).phaseCap ≤ (s.die d).phaseCap ∧
      (t.die d).reg = .on ∧ t.cores = s.cores ∧ t.hub.seq = s.hub.seq + 1) ∧
  (∀ (s : State) (d : DieId) (cur : List Nat) (vout ibus : Nat) (rip : BitVec 24), (s.die d).reg = .on →
    ∃ t, exec (.phaseSenseCheck d cur vout ibus rip) s = .next t ∧
      (let a := ((List.range 24).map fun i => if bitOf (s.die d).inService i then cur.getD i 0 else 0).sum * vout
       let b := ibus * 1800 * Config.regEff d a / 1000
       let off := 132 * vout < a - b ∨ 132 * vout < b - a
       (¬off → t = s.setDie d { s.die d with mismatch := 0 }) ∧
       (off → (s.die d).mismatch + 1 < 50 → t = s.setDie d { s.die d with mismatch := (s.die d).mismatch + 1 }) ∧
       (off → 50 ≤ (s.die d).mismatch + 1 → ∀ ph, badSense (s.die d).inService rip cur = [ph] →
        t = (s.setDie d { s.die d with mismatch := 0 }).dropPhase d ph 1))) ∧
  (∀ (s : State) (pd : PowerDie), bitOf s.power.pdOn pd = false ∨ s.power.st = .off → exec (.powerDieFault pd) s = .next s) ∧
  (∀ (s : State) (pd : PowerDie), bitOf s.power.pdOn pd = true → s.power.st ≠ .off →
    ∃ t, exec (.powerDieFault pd) s = .next t ∧ bitOf t.power.pdOn pd = false ∧
      (bitsOn s.power.pdOn = 3 → t.power.susCap = some 1000 ∧ t.power.peakCap = some 1300 ∧ t.power.st = s.power.st) ∧
      (bitsOn s.power.pdOn ≤ 2 → s.power.st = .on → t.power.st = .down 6 ∧ t.power.cause = 9)) ∧
  (∀ s : State, (s.resetPowerDie).2 = (if s.power.pdOn = 0xF then dOk else dState) ∧ (s.resetPowerDie).1 = s)

/-- Safety triggers and SAFETY commands (R247, R253, R254, R267 to R270, R288, R394): lost input, overvoltage, coolant stop and thermal
trip journal their record and take a running package to MIN_OFF with their cause; a finished last gasp keeps its records in the newer of
two areas, whose CRC holds; a lost reference clock takes ON to DOWN without grace; power-off sets the hold, power-on clears it, and LATCHED is cleared to
MIN_OFF only. -/
def Obligations.SafetyTriggers : Prop :=
  (∀ (s : State) (vin : BitVec 16) (pw : W32), s.power.st = .on →
    (∃ t, exec (.vinFail vin pw) s = .next t ∧ t.power.st = .minOff ∧ t.power.cause = 4 ∧ t.power.vinOk = false ∧
      t.power.gaspDue = true ∧ t.power.gaspBuf.length ≤ 32 ∧ t.cores = [] ∧ t.macros = []) ∧
    (∃ t, exec (.overvoltage vin pw) s = .next t ∧ t.power.st = .minOff ∧ t.power.cause = 5 ∧ t.power.gaspDue = true ∧ t.cores = [])) ∧
  (∀ (s : State) (hist : W64), s.power.st = .on → ∃ t, exec (.coolantStop hist) s = .next t ∧ t.power.st = .minOff ∧
    t.power.cause = 6 ∧ t.power.coolantOk = false ∧ t.cores = []) ∧
  (∀ (s : State) (hist : W64), s.power.st = .standby → ∃ t, exec (.coolantStop hist) s = .next t ∧ t.power.st = .standby ∧
    t.hub.seq = s.hub.seq + 1) ∧
  (∀ (s : State) (d : DieId) (x : BitVec 6), s.power.st = .on → ∃ t, exec (.thermalTrip d x) s = .next t ∧ t.power.st = .minOff ∧
    t.power.cause = 7 ∧ t.power.hold = true ∧ t.power.thermTrip = true) ∧
  (∀ s : State, s.power.gaspDue = true → ∃ t, exec .lastGaspDone s = .next t ∧ t.power.gaspDue = false ∧ t.power.gaspBuf = [] ∧
    t.power.gasp.getLast? = some (gaspArea s.power.gaspBuf s.free) ∧ t.power.gasp.length ≤ 2 ∧ t.hub = s.hub) ∧
  (∀ rs n, (gaspArea rs n).intact = true ∧ (gaspArea rs n).recs = rs.take 32) ∧
  (∀ s : State, s.power.st = .on → ∃ t, exec .refclkLoss s = .next t ∧ t.power.st = .down 6 ∧ t.power.stage = 3 ∧
    t.power.hold = true ∧ t.power.mgmtRef = false ∧ t.hub.admitting = false) ∧
  (∀ s : State, s.power.st = .on → (s.actPowerOff).2 = dOk ∧ (s.actPowerOff).1.power.hold = true ∧
    (s.actPowerOff).1.power.st = .down 6 ∧ (s.actPowerOff).1.power.cause = 3) ∧
  (∀ s : State, (s.actPowerOn).2 = dOk ∧ (s.actPowerOn).1.power.hold = false ∧ (s.actPowerOn).1.power.thermTrip = false) ∧
  (∀ s : State, s.power.st = .latched → s.actClearLatched = ({ s with power := { s.power with st := .minOff } }, dOk)) ∧
  (∀ s : State, s.power.st ≠ .latched → s.actClearLatched = (s, dState)) ∧
  (∀ (s : State) (d : Nat), (s.die d).reg = .on → (s.die d).gone = false →
    (s.resetDie d).2 = dOk ∧ ((s.resetDie d).1.die d).resetHold = true ∧ ((s.resetDie d).1.die d).inReset = true) ∧
  (∀ (s : State) (d : Nat), (s.die d).gone = true → s.resetDie d = (s, dState))

/-! ## Power and thermal control -/

/-- Estimation, operating points and the loops (R274 to R287, R296, R297): an interval of a running die keeps its estimate and grants no
more than the request and every cap; a step moves one point at a time, and up only once the voltage stands, a step begun completes, and a ramp
never goes below the voltage of the frequency in force; the peak loop steps down above
its limits and not otherwise; GCORR stays within a tenth of 1; the thermal loop takes the cap to OP1 at 105 °C, raises it below 90 °C, and
holds a die with more than 16 invalid sensors to OP2; a thermal limit is OP1 at once; a monitor's configuration is its owner's to write,
and its sample is valid once the filter has settled.
The start ramp and pace coupling (R292, R293, R295): the allowance follows the largest running count of the last four updates, by 15 at
a time up to 256 while a pass waits, and does not rise while held; a lateness of 0 and 10 ms without one end every pace ceiling; a device
without a job ignores a lateness. -/
def Obligations.PowerControlAndRamp : Prop :=
  ((∀ (s : State) (d : DieId) (counts : List Nat) (c : Int),
    ((s.die d).runs = true → ∃ t, exec (.estimationInterval d counts c) s = .next t ∧ (t.die d).eDie = s.dieEnergy d (s.reading d counts) c ∧
      (t.die d).total = s.dieEnergy d (s.reading d counts) c ∧ (∀ c ∈ dieCores d, (t.core c).acts = []) ∧ (t.die d).grant ≤ (t.die d).request ∧ (t.die d).grant ≤ (s.die d).peakCeil ∧
      (t.die d).grant ≤ (s.die d).thermCap ∧ (t.die d).grant ≤ (s.die d).phaseCap ∧ (t.die d).grant ≤ (s.die d).paceCeil ∧
      (t.die d).grant ≤ s.mgmt.obj 0x2100 2 ∧ (t.die d).point = (s.die d).point ∧ (t.die d).volt = (s.die d).volt ∧
      ∀ e : Nat, e ≠ d → (t.die e).grant = (s.die e).grant) ∧
    ((s.die d).runs = false → exec (.estimationInterval d counts c) s = .next s)) ∧
  (∀ (x : DieState) (d q : Nat),
    (x.move.pll = none → (x.nextMove d).pll = some q →
      (q + 1 = x.point ∧ x.grant < x.point) ∨ (q = x.point + 1 ∧ x.point < x.grant ∧ vop d x.grant ≤ x.volt)) ∧
    (x.move.pll = some q → (x.nextMove d).pll = some q) ∧
    (∀ v, (x.nextMove d).ramp = some v → vop d x.point ≤ v ∧ vop d x.grant ≤ v) ∧
    (∀ v, x.move.ramp = some v → (x.nextMove d).ramp = some (x.needs d))) ∧
  (∀ (s : State) (d : DieId),
    (∀ q, (s.die d).move.pll = some q → ∃ t, exec (.pllStepDone d) s = .next t ∧ (t.die d).point = q ∧ (t.die d).volt = (s.die d).volt ∧
      (t.die d).grant = (s.die d).grant) ∧
    (∀ v, (s.die d).move.ramp = some v → ∃ t, exec (.voltageSettled d) s = .next t ∧ (t.die d).volt = v ∧
      (t.die d).point = (s.die d).point) ∧
    ((s.die d).move.pll = none → exec (.pllStepDone d) s = .next s) ∧
    ((s.die d).move.ramp = none → exec (.voltageSettled d) s = .next s)) ∧
  (∀ s : State, s.power.busOn = true →
    let sum := ((List.range 21).map fun d => if (s.die d).runs then (s.die d).eDie else 0).sum
    let q := s.power.feed (inputEnergy sum + 30000)
    let over_ := (q.peak - 50) * 2000000 < q.last 1000 ∨ 230000000 < q.last 50
    ∃ t, exec .peakLoopTick s = .next t ∧ t.power.window = q.window ∧ t.power.buckets = q.buckets ∧
      (over_ → t.power.stepDowns = s.power.stepDowns + 1 ∧ t.power.stopGrow = true ∧
        ∀ d, d < 21 → (s.die d).runs = true → 1 < (s.die d).grant →
          (t.die d).peakCeil = min (s.die d).peakCeil ((s.die d).point - 1)) ∧
      (¬over_ → t.power.stepDowns = s.power.stepDowns ∧ t.power.stopGrow = false ∧
        ∀ d : Nat, (s.die d).peakCeil ≤ (t.die d).peakCeil)) ∧
  (∀ (s : State) (m v n : Nat),
    (2 * v < n → exec (.gcorrUpdate m v n) s = .next s) ∧
    (n ≤ 2 * v → 0 < s.power.buckets.sum → ∃ t, exec (.gcorrUpdate m v n) s = .next t ∧
      9 * t.power.gcorr.2 ≤ 10 * t.power.gcorr.1 ∧ 10 * t.power.gcorr.1 ≤ 11 * t.power.gcorr.2 ∧
      (9 * s.power.buckets.sum ≤ 10 * m → 10 * m ≤ 11 * s.power.buckets.sum → t.power.gcorr = (m, s.power.buckets.sum)) ∧
      t.dies = s.dies)) ∧
  (∀ (s : State) (d : DieId) (ts : List Int), (s.die d).runs = true →
    let ok := validSensors ((List.range 64).map fun i => ts.getD i 0)
    ∃ t, exec (.thermalLoop d ts) s = .next t ∧ (t.die d).invalid = 64 - ok.length ∧
      (16 < 64 - ok.length → (t.die d).thermCap ≤ 2) ∧
      (64 - ok.length ≤ 16 → (∃ x ∈ ok, 105 ≤ x) → (t.die d).thermCap = 1) ∧
      (64 - ok.length ≤ 16 → (∀ x ∈ ok, x < 90) → (t.die d).thermCap = min 7 ((s.die d).thermCap + 1))) ∧
  (∀ (s : State) (d : DieId) (x : BitVec 6), (s.die d).runs = true → ∃ t, exec (.thermalLimit d x) s = .next t ∧
    (t.die d).thermCap = 1 ∧ t.hub.seq = s.hub.seq + 1) ∧
  (∀ (s : State) (m : Fin 8) (v : W32),
    (m.val < 6 → ∃ t, exec (.tmcfgWrite m .powerControl v) s = .next t ∧ (t.mon m).cfg = tmcfgOf (s.mon m).cfg v ∧
      (t.mon m).data = (s.mon m).data ∧ ∀ k : Nat, k ≠ m → t.mon k = s.mon k) ∧
    (6 ≤ m.val → exec (.tmcfgWrite m .powerControl v) s = .next s) ∧
    (m.val < 6 → exec (.tmcfgWrite m .management v) s = .next s) ∧
    (6 ≤ m.val → ∀ who, who = .island ∨ who = .management → ∃ t, exec (.tmcfgWrite m who v) s = .next t ∧
      (t.mon m).cfg = tmcfgOf (s.mon m).cfg v ∧ (t.mon m).data = (s.mon m).data ∧ ∀ k : Nat, k ≠ m → t.mon k = s.mon k)) ∧
  (∀ (s : State) (m : Fin 8) (v : BitVec 24) (o : Bool),
    (bitOf (s.mon m).cfg 31 = true → ∃ t, exec (.monitorSample m v o) s = .next t ∧
      fld (t.mon m).data 23 0 = v.toNat ∧ bitOf (t.mon m).data 30 = o ∧
      bitOf (t.mon m).data 31 = decide ((s.mon m).skip = 0) ∧ (t.mon m).skip = (s.mon m).skip - 1 ∧
      ((s.mon m).skip = 0 → (t.mon m).last = (t.mon m).data) ∧ ((s.mon m).skip ≠ 0 → (t.mon m).last = (s.mon m).last)) ∧
    (bitOf (s.mon m).cfg 31 = false → exec (.monitorSample m v o) s = .next s))) ∧
  ((∀ (s : State) (d : ArrayDie),
    let seen := ((s.die d).recentMax ++ [s.runningMacros d]).drop (((s.die d).recentMax ++ [s.runningMacros d]).length - 4)
    let r := seen.foldl max 0
    ∃ t, exec (.rampUpdate d) s = .next t ∧ (t.die d).recentMax = seen ∧
      (s.kraox.rampHold = true → (t.die d).allowance ≤ (s.die d).allowance) ∧
      (s.kraox.rampHold = false → s.rampWaits d = false → (t.die d).allowance = 16 + r) ∧
      (s.kraox.rampHold = false → s.rampWaits d = true → (t.die d).allowance = min 256 (max (16 + r) ((s.die d).allowance + 15))) ∧
      t.cores = s.cores) ∧
  (∀ s : State, exec .rampHoldExpire s = .next { s with kraox := { s.kraox with rampHold := false } }) ∧
  (∀ s : State, ∃ t, exec .paceCeilingExpire s = .next t ∧ (∀ d, d < 21 → (t.die d).paceCeil = 7) ∧ t.power.slack = 0) ∧
  (∀ (s : State) (src : BitVec 13), s.job ≠ 0 → ∃ t, exec (.paceReceived src 0) s = .next t ∧
    (∀ d, d < 21 → (t.die d).paceCeil = 7) ∧ t.power.slack = 0) ∧
  (∀ (s : State) (src : BitVec 13) (l : BitVec 16), s.job ≠ 0 → l ≠ 0 → s.mgmt.obj 0x2100 7 = 0 →
    ∃ t, exec (.paceReceived src l) s = .next t ∧ ∀ d, d < 20 →
      (t.die d).paceCeil = (match s.hintLeft d with
        | some r => paceCeil (s.die d).point r l.toNat
        | none => (s.die d).paceCeil)) ∧
  (∀ (s : State) (src : BitVec 13) (l : BitVec 16), s.job = 0 → ∃ t, exec (.paceReceived src l) s = .next t ∧ t.dies = s.dies ∧
    t.power = s.power))

/-! ## Kraox and jobs -/

/-- Kraox links (R300 to R303, R308, R319 to R321, Table 13.6): a sound data flit in order is taken, any other discarded with a retry
request for the last SEQ; a retry sends the unacknowledged flits again; lanes are replaced by spares, then the half runs narrower, then
goes down; a retrained half of a live port carries flits again and keeps its error counts; heartbeats go out on each half; a port goes down on a missing or foreign heartbeat,
leaves service on an ordered set, and starts afresh when trained; what waits at a port that leaves service is routed anew or discarded. -/
def Obligations.KraoxLinks : Prop :=
  ∀ (s : State) (p : KPort),
    let x := s.port p
    (∀ (half : Bool) (f : Flit), (x.half half).carries = true → x.live = true →
      (f.fecOk = true → f.crcOk = true → f.kind = 1 → f.seq = x.rxSeq + 1 → f.dst.toNat = s.devId → s.inExtent s.devId = true →
        f.op = 8 → ∃ t, exec (.flitReceived p half f) s = .next t ∧ (t.port p).rxSeq = f.seq ∧ t.cores = s.cores ∧ t.hub = s.hub) ∧
      (f.fecOk = true → f.crcOk = true → f.kind = 1 → f.seq ≠ x.rxSeq + 1 → x.waiting = [] →
        ∃ t, exec (.flitReceived p half f) s = .next t ∧ (t.port p).rxSeq = x.rxSeq ∧
          ∃ g ∈ (t.port p).tx, g.kind = 6 ∧ g.ack = x.rxSeq) ∧
      (f.fecOk = false ∨ f.crcOk = false → ∃ t, exec (.flitReceived p half f) s = .next t ∧ (t.port p).rxSeq = x.rxSeq ∧
        ((t.port p).half half).errors = (x.half half).errors + 1 ∧ (t.port p).unacked = x.unacked ∧
        ∃ g ∈ (t.port p).tx, g.kind = 6 ∧ g.ack = x.rxSeq) ∧
      (f.fecOk = true → f.crcOk = true → f.kind = 3 → (∃ d, x.peerId = some d ∧ d ≠ f.src) →
        ∃ t, exec (.flitReceived p half f) s = .next t ∧ (t.port p).st = .down ∧ (t.port p).peerId = some f.src)) ∧
    (∀ half f, (x.half half).carries = false → exec (.flitReceived p half f) s = .next s) ∧
    (∀ (seq : BitVec 12) (as bs : List Flit) (g : Flit), x.carries = true → x.waiting = [] → x.unacked = as ++ g :: bs → g.seq = seq →
      (∀ a ∈ as, a.seq ≠ seq) →
      ∃ t, exec (.retryRequest p seq) s = .next t ∧ (t.port p).unacked = bs ∧ (t.port p).tx = x.tx ++ bs) ∧
    (∀ (half : Bool) (lane : Fin 20), (x.half half).up = true → (x.half half).training = false →
      (0 < (x.half half).spares → ∃ t, exec (.laneSwap p half lane) s = .next t ∧ ((t.port p).half half).spares = (x.half half).spares - 1 ∧
        ((t.port p).half half).training = true ∧ ((t.port p).half half).good = (x.half half).good) ∧
      ((x.half half).spares = 0 → 9 ≤ (x.half half).good → ∃ t, exec (.laneSwap p half lane) s = .next t ∧
        ((t.port p).half half).good = (x.half half).good - 1 ∧ ((t.port p).half half).training = true) ∧
      ((x.half half).spares = 0 → (x.half half).good < 9 → ∃ t, exec (.laneSwap p half lane) s = .next t ∧
        ((t.port p).half half).up = false)) ∧
    (∀ (half : Bool) (n : Nat), (x.half half).training = true → (x.half half).dieLost = false → 8 ≤ n →
      ∃ t, exec (.halfLinkRetrained p half n) s = .next t ∧ ((t.port p).half half).training = false ∧ ((t.port p).half half).up = x.live ∧
        ((t.port p).half half).good = min 16 n ∧ ((t.port p).half half).errors = (x.half half).errors) ∧
    (x.live = true → x.h0.carries = true → x.h1.carries = true → ∃ t a b, exec (.heartbeatSend p) s = .next t ∧
      (t.port p).tx = x.tx ++ [a, b] ∧ a.kind = 3 ∧ b.kind = 3 ∧ a.src.toNat = s.devId ∧ t.cores = s.cores) ∧
    (x.live = true → ∃ t, exec (.portHeartbeatTimeout p) s = .next t ∧ (t.port p).st = .down ∧ (t.port p).unacked = [] ∧
      (t.port p).waiting = [] ∧ t.hub.seq = s.hub.seq + 1) ∧
    (x.live = true → ∃ t, exec (.resettingSet p) s = .next t ∧ t.port p = { x with st := .peerReset, waiting := [] } ∧
      t.cores = s.cores ∧ t.hub = s.hub) ∧
    (x.live = true → ∃ t, exec (.drainingSet p) s = .next t ∧ t.port p = { x with st := .draining, waiting := [] } ∧
      t.cores = s.cores ∧ t.hub = s.hub) ∧
    (x.st = .draining → ∃ t, exec (.resettingSet p) s = .next t ∧ (t.port p).st = .peerReset) ∧
    (∀ g0 g1, x.live = false → x.h0.dieLost = false → x.h1.dieLost = false → 8 ≤ g0 → 8 ≤ g1 → x.waiting = [] →
      ∃ t, exec (.portTrained p g0 g1) s = .next t ∧ (t.port p).st = .up ∧ (t.port p).rxSeq = Port.reset.rxSeq ∧
        (t.port p).txSeq = Port.reset.txSeq ∧ (t.port p).credits = Port.reset.credits ∧ (t.port p).h0.good = min 16 g0 ∧
        (t.port p).peerId = x.peerId) ∧
    (x.st = .peerReset ∨ x.st = .draining → ∃ t, exec (.portTrainTimeout p) s = .next t ∧ (t.port p).st = .down ∧
      t.hub.seq = s.hub.seq + 1)

/-- Collectives (R312 to R315): a descriptor that fails its checks ends at once with their status, one that passes becomes a job; a SEND
whose data have arrived ends with its output written, STATUS 1 (7 when contributions were in excess) and the job gone.
Keepalives, leases and freezes (R323 to R328): keepalives go to every tree neighbour; five missing ones block the neighbour's groups;
the anchor sends leases while it holds one; without a lease the job freezes, its cores held and its streams HELD, a running one at its completion; RESUME and the end of
the retention lead out of it, and a renewal is the anchor's only. -/
def Obligations.CollectivesAndLeases : Prop :=
  (∀ (s : State) (p : PartId) (off : Nat),
    let h := s.hub
    (off % 64 = 0 → off + 0x30 ≤ h.commonsSize p → h.mj p off 0xC 4 = 0 → h.mj p off 4 1 ≠ 0 → h.mj p off 4 1 ≤ h.mj p off 0 4 →
      (∀ j ∈ h.jobs, ¬(j.part = p.val ∧ j.off = off)) →
      (s.collCheck p off ≠ 0 → exec (.collectiveStart p off) s = .next (s.collStatus p off (s.collCheck p off))) ∧
      (s.collCheck p off = 0 → collGroup h p off ∉ s.kraox.blocked → ∃ t, exec (.collectiveStart p off) s = .next t ∧
        t.hub.jobs = h.jobs ++ [{ part := p.val, off := off, coll := true, tenant := 0, waits := false, fail := 0 }] ∧ t.cores = s.cores)) ∧
    (∀ bs : List Byte, off % 64 = 0 → (∃ j ∈ h.jobs, j.coll = true ∧ j.part = p.val ∧ j.off = off) → collOp h p off = 1 →
      ∃ t, exec (.collectiveDone p off [{ dev := h.mj p off 0xA 2, bytes := bs, sums := [] }]) s = .next t ∧
        t.hub.mj p off 0xC 4 = (if h.mj p off 4 1 < h.mj p off 0 4 then 7 else 1) ∧
        (∀ j ∈ t.hub.jobs, ¬(j.coll = true ∧ j.part = p.val ∧ j.off = off)) ∧ t.macros = s.macros) ∧
    ((∀ j ∈ h.jobs, ¬(j.coll = true ∧ j.part = p.val ∧ j.off = off)) → ∀ a, exec (.collectiveDone p off a) s = .next s)) ∧
  ((∀ s : State, exec .keepaliveSend s =
    .next (s.kraox.trees.foldl (fun s t => s.sendTree 3 0x08 t.nbrs (Config.msgWord 8 t.group 0 0) []) s)) ∧
  (∀ (s : State) (m : BitVec 13), m.toNat ∉ s.kraox.lostNbr → (∃ tr ∈ s.kraox.trees, m.toNat ∈ tr.nbrs) → s.hub.jobs = [] →
    ∃ t, exec (.keepaliveTimeout m) s = .next t ∧ m.toNat ∈ t.kraox.lostNbr ∧
      (∀ tr ∈ s.kraox.trees, m.toNat ∈ tr.nbrs → tr.group ∈ t.kraox.blocked) ∧
      (∀ g ∈ s.kraox.blocked, g ∈ t.kraox.blocked) ∧ t.hub.seq = s.hub.seq + 1) ∧
  (∀ s : State, s.isAnchor = true → s.kraox.lease = true → s.kraox.frozen = false →
    exec .leaseSend s =
      .next (s.bump.sendTree 3 0x07 (s.kraox.nbrs 0) (Config.msgWord 7 0 (Config.freeNat s.free % 501) 0) []) ∧
    ∃ t, exec .leaseExpire s = .next t ∧ t.kraox.lease = false ∧ t.kraox.frozen = true ∧ t.kraox.jobState = 2) ∧
  (∀ s : State, s.isAnchor = false → exec .leaseSend s = .next s ∧ exec .leaseExpire s = .next s) ∧
  (∀ s : State, s.isAnchor = true → exec .leaseLossFreeze s = .next s) ∧
  (∀ s : State, s.isAnchor = false → s.job ≠ 0 → s.kraox.frozen = false → s.hub.jobs = [] →
    ∃ t, exec .leaseLossFreeze s = .next t ∧ t.kraox.frozen = true ∧ t.kraox.jobState = 2 ∧
      (∀ g ∈ s.jobProgs, ∀ c ∈ g.lcores, (s.core c).st = .run → (t.core c).st = .held) ∧
      (∀ n, (∃ g ∈ s.jobProgs, g.handle = (s.hub.stream n).prog) →
        ((s.hub.stream n).st = 1 ∨ (s.hub.stream n).st = 2 → (t.hub.stream n).st = 4) ∧
        ((s.hub.stream n).st = 3 → (t.hub.stream n).st = 3 ∧ (t.hub.stream n).holdDue = true))) ∧
  (∀ s : State, s.kraox.frozen = true →
    (∃ t, exec .freezeRetentionExpire s = .next t ∧ t.kraox.frozen = false ∧ t.kraox.jobState = 0 ∧
      ∀ g ∈ s.jobProgs, t.hub.prog g.handle = none) ∧
    (s.actResume).2 = dOk ∧ (s.actResume).1.kraox.frozen = false ∧ (s.actResume).1.kraox.jobState = 1 ∧
    s.actDiscardJob = (s.discardJob, dOk)) ∧
  (∀ s : State, s.kraox.frozen = false → s.actResume = (s, dState) ∧ s.actDiscardJob = (s, dState) ∧
    exec .freezeRetentionExpire s = .next s) ∧
  (∀ s : State, s.actLease = (if s.isAnchor then ({ s with kraox := { s.kraox with lease := true } }, dOk) else (s, dState))))

/-! ## Host ports and external memory -/

/-- Host ports (R331 to R333, R337, Table 14.6): PERST and link-down turn the port's rings off; HRDY follows the port's state; a failing
lane is replaced by the spare of its position, or the port runs on its good lanes; a pause holds the running cores once dispatch has
stopped, and its end lets them go on. -/
def Obligations.HostPortEvents : Prop :=
  ∀ (s : State) (p : HPort),
    let h := s.host p
    (∃ t, exec (.perstAssert p) s = .next t ∧ (t.host p).perstN = false ∧
      (t.host p).hrdy = (if h.hrdy = .stop then .stop else .reset) ∧
      (∀ r, r < 64 → s.portOfRing r = p.val → (t.hub.ring r).en = false) ∧ (t.host p).mbox.operator = false ∧ t.cores = s.cores) ∧
    (h.hrdy = .reset → ∃ t, exec (.perstDeassert p) s = .next t ∧ (t.host p).perstN = true ∧
      (t.host p).hrdy = (if s.hub.paused then .pause else if s.hub.inService then .ready else .boot) ∧ t.hub = s.hub) ∧
    (∃ t, exec (.hostLinkDown p) s = .next t ∧ (t.host p).downs = h.downs + 1 ∧
      (∀ r, r < 64 → s.portOfRing r = p.val → (t.hub.ring r).en = false) ∧ t.cores = s.cores) ∧
    (∀ lane : Fin 16, lane.val ∉ h.onSpare → (s.die (spareDie p lane)).gone = false →
      s.spareTaken (spareDie p lane) (lane.val % 4) = false →
      ∃ t, exec (.hostLaneReplace p lane) s = .next t ∧ (t.host p).onSpare = h.onSpare ++ [lane.val] ∧ (t.host p).width = h.width ∧
        bitOf (t.host p).devstat 1 = true ∧ t.hub = s.hub) ∧
    (∀ lane : Fin 16, lane.val ∈ h.onSpare → lane.val ∉ h.badLanes → widestOf (h.badLanes ++ [lane.val]) ≠ 0 →
      ∃ t, exec (.hostLaneReplace p lane) s = .next t ∧ (t.host p).badLanes = h.badLanes ++ [lane.val] ∧
        (t.host p).width = widestOf (h.badLanes ++ [lane.val]) ∧ bitOf (t.host p).devstat 1 = true) ∧
    (h.hrdy = .attn → exec (.attnPulseEnd p) s = .next (s.setHost p { h with hrdy := .ready })) ∧
    (s.hub.inService = true → s.hub.admitting = false → s.hub.paused = false → ∃ t, exec .pauseBegin s = .next t ∧
      t.hub.paused = true ∧ (∀ c ∈ s.hub.runningCores, (s.core c).st = .run → (t.core c).st = .held) ∧
      (h.hrdy = .ready ∨ h.hrdy = .attn → (t.host p).hrdy = .pause)) ∧
    (s.hub.paused = true → ∃ t, exec .pauseEnd s = .next t ∧ t.hub.paused = false ∧ t.hub.admitting = true ∧
      (h.hrdy = .pause → (t.host p).hrdy = (if h.latched then .attn else .ready) ∧ (t.host p).latched = false)) ∧
    (s.hub.admitting = true → exec .pauseBegin s = .next s) ∧ (s.hub.paused = false → exec .pauseEnd s = .next s)

/-- The mailbox (R335, R336, R365): a paused runtime answers busy; the standard commands answer with CXL's payload, which this spec leaves
open; event records named leave the log; a challenge keeps its nonce and a response with its proof raises the session, any other counts as
a failure; a read gives the journal's records of the port's partitions; a read or write of an object is served as the dictionary's, and the node ID follows a write of it. -/
def Obligations.MailboxCommands : Prop :=
  ∀ (s : State) (p : HPort),
    let cxl := fun n : Nat => (Host.Outcome.next ((s.answer 0 (Config.mailboxAnswer n s.free)).bump) : Out)
    (s.hub.paused = false →
      exec (.identifyMemoryDevice p) s = cxl 0x4000 ∧ exec (.getSupportedLogs p) s = cxl 0x0400 ∧
      (∀ l, exec (.getLog p l) s = cxl 0x0401) ∧ exec (.getEventRecords p) s = cxl 0x0100 ∧
      (∀ a n, exec (.getPoisonList p a n) s = cxl 0x4300) ∧ exec (.getHealthInfo p) s = cxl 0x4200 ∧
      (∀ hs, exec (.clearEventRecords p hs) s = .next ((s.setHost p { s.host p with
        events := (s.host p).events.filter fun e => decide (e.1 ∉ hs) }).answer 0 [])) ∧
      ((s.host p).mbox.locked = false → ∃ t, exec (.mailboxAuthChallenge p) s = .next t ∧
        (t.host p).mbox.nonce = some (freshNonce s.free) ∧ t.reply = { status := 0, data := 0 :: freshNonce s.free }) ∧
      (∀ n tag, (s.host p).mbox.nonce = some n →
        (tag = roleProof (s.mgmt.roleKey 1) n 1 → ∃ t, exec (.mailboxAuthResponse p tag) s = .next t ∧
          (t.host p).mbox.operator = true ∧ (t.host p).mbox.nonce = none ∧ t.reply = { status := 0, data := [0] }) ∧
        (tag ≠ roleProof (s.mgmt.roleKey 1) n 1 → ∃ t, exec (.mailboxAuthResponse p tag) s = .next t ∧
          (t.host p).mbox.operator = (s.host p).mbox.operator ∧ (t.host p).mbox.nonce = none ∧
          t.mgmt.authFails = s.mgmt.authFails + 1 ∧ t.reply = { status := 0, data := [0x30] } ∧
          (s.mgmt.obj 0x1200 7 ≤ (s.host p).mbox.fails + 1 → (t.host p).mbox.locked = true))) ∧
      (∀ first n, n ≤ 126 → exec (.journalRead p first n) s = .next (s.answer 0 (0 :: (((s.hub.journal.filter fun r =>
        decide (first.toNat ≤ r.seq.toNat) && decide (r.part ∈ s.portParts p)).take n).flatMap journalBytes)))) ∧
      (∀ (i : BitVec 16) (sub : Byte) (o : W32), ∃ t,
        exec (.odRead p i sub o) s = .next t ∧ t.reply.status = 0 ∧
          t.reply.data.head? = some (BitVec.ofNat 8 (s.readValue (s.mailboxWho p) i.toNat sub.toNat o.toNat 4032).2.status) ∧
          t.cores = s.cores ∧ t.hub = s.hub) ∧
      (∀ (i : BitVec 16) (sub : Byte) (v : List Byte) (o : Obj), findObj i.toNat sub.toNat = some o →
        s.judge (s.mailboxWho p) i.toNat sub.toNat true = 0 → s.mgmt.stagedElsewhere (10 + p) (objKey i.toNat sub.toNat) = false →
        valueBad o v = 0 →
        let r := (s.updMgmt fun m => m.unstage (10 + p) (objKey i.toNat sub.toNat)).writeObj (s.mailboxWho p) i.toNat sub.toNat v
        exec (.odWrite p i sub v) s = .next (if i = 0x1100 ∧ sub = 2 then (r.1.answer 0 [BitVec.ofNat 8 r.2]).takeNodeId
          else r.1.answer 0 [BitVec.ofNat 8 r.2]))) ∧
    (∃ t, exec (.mailboxSessionTimeout p) s = .next t ∧ (t.host p).mbox.operator = false ∧ (t.host p).mbox.nonce = none) ∧
    (s.hub.paused = true → exec (.identifyMemoryDevice p) s = .next (s.answer 1 []) ∧
      exec (.mailboxAuthChallenge p) s = .next (s.answer 1 []) ∧ ∀ first n, exec (.journalRead p first n) s = .next (s.answer 1 []))

/-- LPDDR6 and HDM (R338, R339, R341, R343 to R345): what an HDM write stores a read returns, other bytes stay, and the written unit of a
working channel is poisoned no longer; reads outside the space and of poison say so; a channel that fails poisons its units and makes a
shadow copy incomplete, a full retraining returns it, training sets every channel of the first density, and a rebuilt copy is complete. -/
def Obligations.ExternalMemory : Prop :=
  (∀ (s : State) (p : HPort) (addr : Nat) (data : List Byte), data ≠ [] → addr % 64 + data.length ≤ 64 → addr + data.length ≤ s.hdmSize p →
    ∃ t, exec (.hdmWrite p addr data) s = .next t ∧ t.reply = { status := 0, data := [] } ∧
      (∀ i, i < data.length → t.hdmByte p (addr + i) = data.getD i 0) ∧
      (∀ x, x < addr ∨ addr + data.length ≤ x → t.hdmByte p x = s.hdmByte p x) ∧
      ((s.ext.chan (chanOf addr)).st ≠ .failed → s.ext.unitBad (t.host p).poison addr = false) ∧ t.ext = s.ext ∧ t.hub = s.hub) ∧
  (∀ (s : State) (p : HPort) (addr : Nat),
    (addr / 64 * 64 + 64 ≤ s.hdmSize p → s.ext.unitBad (s.host p).poison (addr / 64 * 64) = false →
      exec (.hdmRead p addr) s = .next (s.answer 0 ((List.range 64).map fun i => s.hdmByte p (addr / 64 * 64 + i)))) ∧
    (addr / 64 * 64 + 64 ≤ s.hdmSize p → s.ext.unitBad (s.host p).poison (addr / 64 * 64) = true →
      exec (.hdmRead p addr) s = .next (s.answer 2 [])) ∧
    (s.hdmSize p < addr / 64 * 64 + 64 → exec (.hdmRead p addr) s = .next (s.answer 1 []))) ∧
  (∀ (s : State) (c : Chan),
    exec (.lpddrRetrainTick c true) s = .next s ∧
    ((s.ext.chan c).st = .ok → exec (.lpddrRetrainTick c false) s = .next (s.failChannel c)) ∧
    ((s.ext.chan c).st ≠ .failed → ((s.failChannel c).ext.chan c).st = .failed ∧
      (s.failChannel c).ext.copyAOff = (if c.val < 8 then List.range 16 else s.ext.copyAOff) ∧
      (s.failChannel c).ext.copyBOff = (if c.val < 8 then s.ext.copyBOff else List.range 16) ∧
      (∀ p, p < 2 → bitOf ((s.failChannel c).host p).devstat 3 = true) ∧ (s.failChannel c).cores = s.cores) ∧
    ((∃ o ∈ s.maint.ops, o.kind = .lpddr ∧ o.chan = some c.val) → s.maint.again = [] →
      (∃ t, exec (.lpddrRetrainDone c true) s = .next t ∧ (t.ext.chan c).st = .ok ∧
        (t.ext.chan c).retrains = (s.ext.chan c).retrains + 1 ∧ ∀ o ∈ t.maint.ops, ¬(o.kind = .lpddr ∧ o.chan = some c.val)) ∧
      (∃ t, exec (.lpddrRetrainDone c false) s = .next t ∧ (t.ext.chan c).st = .failed)) ∧
    ((s.ext.chan c).st = .ok → (s.die (chanDie c)).gone = false →
      s.maint.blocker { MaintOp.of .lpddr with chan := some c.val } = none →
      (s.actLpddr c).2 = dOk ∧ ((s.actLpddr c).1.ext.chan c).st = .retraining ∧
        ∃ o ∈ (s.actLpddr c).1.maint.ops, o.kind = .lpddr ∧ o.chan = some c.val)) ∧
  (∀ (s : State) (n : Nat), n = 4 ∨ n = 8 ∨ n = 16 → ∃ t, exec (.lpddrTrainingDone (List.replicate 16 n)) s = .next t ∧
    (∀ c, c < 16 → (t.ext.chan c).st = .ok ∧ (t.ext.chan c).density = n) ∧ t.ext.pasn = s.mgmt.obj 0x7800 0x11 ∧
    t.ext.hsh = s.mgmt.obj 0x7800 0x12 ∧ t.cores = s.cores) ∧
  (∀ (s : State) (p : PartId),
    (s.ext.setOk true = true → p.val ∉ s.ext.copyAOff → ∃ t, exec (.shadowRebuildDone p true) s = .next t ∧ p.val ∉ t.ext.copyBOff ∧
      t.ext.copyAOff = s.ext.copyAOff) ∧
    (s.ext.setOk false = true → p.val ∉ s.ext.copyBOff → ∃ t, exec (.shadowRebuildDone p false) s = .next t ∧ p.val ∉ t.ext.copyAOff ∧
      t.ext.copyBOff = s.ext.copyBOff) ∧
    (∀ b, s.ext.setOk b = false → exec (.shadowRebuildDone p b) s = .next s))

/-! ## The object dictionary -/

/-- Sessions (R348, R355 to R358): a challenge keeps its nonce for one response; the right proof opens a session of its role in a free
slot, a wrong one counts as a failure; a request with a wrong tag or counter is dropped and counted; CLOSE ends the session after its
reply, an idle one ends, and a lockout's end readmits its source. -/
def Obligations.DictionarySessions : Prop :=
  (∀ (s : State) (f : Frame) (role : Byte), f.op = 3 → s.receives f = true → f.session = 0 → frameBad f = false →
    f.srcAddr ∉ s.mgmt.lockouts → f.data = [role] → 1 ≤ role.toNat → role.toNat ≤ 3 → (f.service = true → role.toNat ≠ 3) →
    s.mgmt.freeSlot f.service role.toNat ≠ none → Sparse.find? s.mgmt.sessions 12 = none →
    ∃ t r c, exec (.authChallenge f) s = .next t ∧ t.mgmt.tx = s.mgmt.tx ++ [r] ∧ r.status = 0 ∧ r.data = freshNonce s.free ∧
      r.dst = f.srcAddr ∧ c ∈ t.mgmt.challenges ∧ c.src = f.srcAddr ∧ c.role = role.toNat ∧ c.nonce = freshNonce s.free ∧
      t.mgmt.sessions = s.mgmt.sessions) ∧
  (∀ (s : State) (f : Frame) (c : Challenge), f.op = 4 → s.receives f = true → f.session = 0 → frameBad f = false →
    s.mgmt.challenges.find? (fun x => decide (x.src = f.srcAddr) && decide (x.service = f.service)) = some c →
    Sparse.find? s.mgmt.sessions 12 = none →
    (f.data = roleProof (s.mgmt.roleKey c.role) c.nonce c.role → ∀ slot, s.mgmt.freeSlot f.service c.role = some slot →
      ∃ t x, exec (.authResponse f) s = .next t ∧ Sparse.find? t.mgmt.sessions slot = some x ∧ x.role = c.role ∧ x.src = f.srcAddr ∧
        x.key = hmac (s.mgmt.roleKey c.role) (f.data ++ c.nonce ++ [0x53]) ∧ c ∉ t.mgmt.challenges) ∧
    (f.data ≠ roleProof (s.mgmt.roleKey c.role) c.nonce c.role →
      ∃ t r, exec (.authResponse f) s = .next t ∧ t.mgmt.sessions = s.mgmt.sessions ∧ t.mgmt.authFails = s.mgmt.authFails + 1 ∧
        c ∉ t.mgmt.challenges ∧ t.mgmt.tx = s.mgmt.tx ++ [r] ∧ r.status = 0x30)) ∧
  (∀ (s : State) (f : Frame) (slot : Nat) (x : Session), s.receives f = true → f.session ≠ 0 → s.mgmt.sessionOf f = some (slot, x) →
    x.accepts f = false → (f.op = 1 → exec (.read f) s = .next (s.updMgmt fun m => { m with badTags := m.badTags + 1 })) ∧
      (f.op = 2 → exec (.write f) s = .next (if f.index = 0x1100 ∧ f.sub = 2 then (s.updMgmt fun m => { m with badTags := m.badTags + 1 }).takeNodeId
        else s.updMgmt fun m => { m with badTags := m.badTags + 1 }))) ∧
  (∀ (s : State) (f : Frame) (slot : Nat) (x : Session), s.requests f slot x → f.op = 5 → slot ≠ 12 →
    ∃ t r, exec (.close f) s = .next t ∧ Sparse.find? t.mgmt.sessions slot = none ∧ t.mgmt.tx = s.mgmt.tx ++ [r] ∧ r.status = 0 ∧
      Sparse.find? t.mgmt.staging slot = none) ∧
  (∀ (s : State) (slot : Fin 10), (Sparse.find? s.mgmt.sessions slot.val).isSome = true →
    ∃ t, exec (.sessionIdleTimeout slot) s = .next t ∧ Sparse.find? t.mgmt.sessions slot.val = none ∧
      (∀ k : Nat, k ≠ slot → Sparse.find? t.mgmt.sessions k = Sparse.find? s.mgmt.sessions k) ∧ t.cores = s.cores) ∧
  (∀ (s : State) (src : BitVec 48), ∃ t, exec (.lockoutExpire src) s = .next t ∧ src ∉ t.mgmt.lockouts ∧
    (∀ x, x ≠ src → (x ∈ t.mgmt.lockouts ↔ x ∈ s.mgmt.lockouts)) ∧ t.hub = s.hub)

/-- Reads, checks and presence (R346, R349, R350, R352, R353, R360 to R369): a read answers its segment and keeps a snapshot, which its
end drops; no request that lacks its role or path passes the checks; a staged field is its session's; an acknowledgement lies between the
last and the newest SEQ and releases FAULT_N once no record after it is left; a key is replaced only under its own, from the bus; ANNOUNCE, DISCOVER and beacons. -/
def Obligations.DictionaryAccess : Prop :=
  (∀ (s : State) (f : Frame) (slot : Nat) (x : Session), s.requests f slot x → f.op = 1 →
    let r := (s.heard f slot x).readValue (frameWho f slot x) f.index.toNat f.sub.toNat f.offset.toNat 1440
    exec (.read f) s = .next (r.1.replyTo f slot f.session r.2)) ∧
  (∀ (s : State) (w : Who) (i sub n : Nat) (o : Obj), s.judge w i sub false = 0 → findObj i sub = some o →
    let v := s.valueOf w i sub o
    (s.readValue w i sub 0 n).2 = { status := dOk, data := v.take n, more := decide (n < v.length) } ∧
    Sparse.find? (s.readValue w i sub 0 n).1.mgmt.snaps w.slot = some (objKey i sub, v) ∧
    ∀ (u : State) (k : Nat), u.judge w i sub false = 0 → 0 < k → k ≤ v.length →
      Sparse.find? u.mgmt.snaps w.slot = some (objKey i sub, v) →
      (u.readValue w i sub k n).2 = { status := dOk, data := (v.drop k).take n, more := decide (k + n < v.length) }) ∧
  (∀ (s : State) (w : Who) (i sub : Nat) (write : Bool), s.judge w i sub write = 0 →
    i < 0xF000 ∧ (findObj i sub).isSome = true ∧ (if write then writeRole i sub else readRole i) ≤ w.role ∧
    (2 ≤ w.path → i ≠ 0x1200 ∧ i ≠ 0x8000 ∧ i ≠ 0x8010) ∧ (write = true → i = 0xA000 → sub = 2 → w.path = 1) ∧
    (∀ o, findObj i sub = some o → write = true → o.acc ≠ .ro ∧ o.acc ≠ .const ∧ (o.acc = .rws → s.safeState = true))) ∧
  (∀ (s : State) (w : Who) (i sub : Nat) (v : List Byte),
    (s.hub.stagedByOther (i % 16) w.slot = true → s.stageField w i sub v = (s, dObjectBusy)) ∧
    (s.hub.stagedByOther (i % 16) w.slot = false → (s.stageField w i sub v).2 = dOk ∧
      ∃ x, (s.stageField w i sub v).1.hub.stagedOf (i % 16) = some x ∧ x.session = w.slot ∧
        Sparse.find? x.fields (objKey i sub) = some (leNat v))) ∧
  (∀ (s : State) (v : Nat),
    (v < s.hub.acked.toNat ∨ s.hub.seq.toNat < v → s.actAck v = (s, dRange)) ∧
    (s.hub.acked.toNat ≤ v → v ≤ s.hub.seq.toNat → (s.actAck v).2 = dOk ∧ (s.actAck v).1.hub.acked.toNat = v ∧
      (s.actAck v).1.hub.unacked =
        ((s.hub.persistent ++ s.hub.islandQ).filter fun r => decide (v < r.seq.toNat) && decide (4 ≤ r.cls)).length ∧
      ((s.actAck v).1.faultN = true ↔ (s.actAck v).1.hub.unacked = 0) ∧ (s.actAck v).1.hub.journal = s.hub.journal)) ∧
  (∀ (s : State) (f : Frame) (slot : Nat) (x : Session) (o : Obj), s.grants f slot x o → isKeyWrite f = true →
    let r := (s.taken f slot x).actKey (frameWho f slot x) (f.sub.toNat - 1) f.data
    let t := r.1.replyTo f slot f.session (Ans.of r.2)
    exec (.keyReplace f) s = .next (if t.mgmt.keys ≠ s.mgmt.keys then t.endRole (f.sub.toNat - 1) else t)) ∧
  (∀ (s : State) (f : Frame), (isKeyWrite f = true → exec (.write f) s = exec (.keyReplace f) s) ∧
    (f.op = 2 → f.index = 0xA000 → f.sub = 2 → exec (.write f) s = exec (.imageDownload f) s)) ∧
  (∀ (s : State) (w : Who) (role : Nat) (v : List Byte) (x : Session), Sparse.find? s.mgmt.sessions w.slot = some x →
    (w.path ≠ 0 → s.actKey w role v = (s, dPath)) ∧ (w.path = 0 → Config.aesUnwrap x.key v = none → s.actKey w role v = (s, dRange)) ∧
    (∀ k, w.path = 0 → Config.aesUnwrap x.key v = some k → (s.actKey w role v).2 = dOk →
      (s.actKey w role v).1.mgmt.roleKey role = k)) ∧
  (∀ (s : State) (v : Nat), (s.actTray v).2 = dOk ∧ (s.actTray v).1.mgmt.obj 0x8010 1 = v % 4 ∧
    (v % 4 ≠ 0 → (s.actTray v).1.maint.download = none)) ∧
  (∀ (s : State) (f : Frame), f.op = 0x12 → s.receives f = true → frameBad f = false → f.session = 0 →
    exec (.discover f) s = .next (s.announceTo f.srcAddr)) ∧
  (∀ s : State, s.mgmt.up = true → exec .announce s = .next (s.announceTo s.mgmt.group) ∧
    (s.mgmt.nodeId ≠ 0 → ∃ t, exec .beaconTimeout s = .next t ∧ t.mgmt.csma = true ∧ t.mgmt.beaconLost = s.mgmt.beaconLost + 1)) ∧
  (∀ s : State, s.mgmt.nodeId = 0 → exec .beaconTimeout s = .next s) ∧
  (∀ s : State, exec .beaconReceived s = .next { s with mgmt := { s.mgmt with csma := false } }) ∧
  (∀ (s : State) (k : Fin 13),
    (∃ t, exec (.snapshotExpire k) s = .next t ∧ Sparse.find? t.mgmt.snaps k.val = none ∧ t.hub = s.hub ∧ t.maint = s.maint) ∧
    (∃ t, exec (.stagingExpire k) s = .next t ∧ Sparse.find? t.mgmt.staging k.val = none ∧
      (∀ c, t.maint.download ≠ some (c, k.val))))

/-! ## Maintenance, firmware, boot, package -/

/-- Maintenance (R30, R372 to R378, R396): a destructive test takes an OFFLINE macro's contents and marks it; its end clears the mark,
retires a macro that still fails and returns a RETIRED one that passes; a core whose bank passes is excluded no longer; a die's retest
returns it or loses it; scrub, which stands still while the hub is paused, writes a failing row back from its shadow, and gives one that
failed before in the cycle a spare row; a phase calibration that passes makes dropped phases spares; what the arbiter refuses is not begun. -/
def Obligations.MaintenanceTests : Prop :=
  (∀ (s : State) (c : CoreId) (m : MacId),
    let v := [BitVec.ofNat 8 (coreDie c), 1, 1, BitVec.ofNat 8 c.val, BitVec.ofNat 8 m.val, 0, 1, 0] ++ List.replicate 8 (0 : Byte)
    let op := { MaintOp.of .march with die := some (coreDie c), cores := [c.val], units := [m.val], mode := 1, unitKind := 1 }
    (s.die (coreDie c)).runs = true → (s.mac c m).st = .offline →
    (s.maint.blocker op = none → (s.actMarch v).2 = dOk ∧ ((s.actMarch v).1.mac c m).underTest = true ∧
      ((s.actMarch v).1.mac c m).rows = [] ∧ (s.actMarch v).1.maint.ops = s.maint.ops ++ [op]) ∧
    (∀ r, s.maint.blocker op = some r → (s.actMarch v).2 = dState ∧ (s.actMarch v).1.maint.ops = s.maint.ops ∧
      (s.actMarch v).1.macros = s.macros)) ∧
  (∀ (s : State) (c : CoreId) (m : MacId) (d : DieId) (o : MaintOp) (code : Nat), d.val = coreDie c → s.maint.ops = [o] →
    o = { MaintOp.of .march with die := some d.val, cores := [c.val], units := [m.val], mode := 1, unitKind := 1 } → s.maint.again = [] →
    (∀ rep, (s.mac c m).st = .retired → ∃ t, exec (.marchTestDone d [] rep) s = .next t ∧ (t.mac c m).st = .offline ∧
      (t.mac c m).underTest = false ∧ macKey c m ∉ t.maint.retired ∧ t.maint.ops = [] ∧
      t.maint.marchRes = s.maint.marchRes ++ [(m.val, 0)]) ∧
    (∃ t, exec (.marchTestDone d [(m.val, code)] false) s = .next t ∧ (t.mac c m).st = .retired ∧ macKey c m ∈ t.maint.retired ∧
      (t.mac c m).underTest = false ∧ t.hub.seq = s.hub.seq + 1 ∧ t.maint.marchRes = s.maint.marchRes ++ [(m.val, 1)])) ∧
  (∀ (s : State) (d : DieId) (o : MaintOp), s.maint.ops = [o] → o.kind = .march → o.die = some d.val → o.unitKind = 4 →
    s.maint.again = [] →
    (∃ t, exec (.marchTestDone d [] false) s = .next t ∧ (t.die d).retestDue = false) ∧
    (∀ u, (s.die d).lost = false → ∃ t, exec (.marchTestDone d [u] false) s = .next t ∧ (t.die d).lost = true)) ∧
  (∀ (s : State) (d : DieId) (c : CoreId) (u : Nat) (o : MaintOp) (rep : Bool), s.maint.ops = [o] → s.maint.again = [] →
    o = { MaintOp.of .march with die := some d.val, cores := [c.val], units := [u], mode := 1, unitKind := 0 } →
    ∃ t, exec (.marchTestDone d [] rep) s = .next t ∧ c.val ∉ t.maint.excluded ∧ t.maint.marchRes = s.maint.marchRes ++ [(u, 0)] ∧
      t.cores = s.cores) ∧
  (∀ (s : State) (d : ArrayDie), (s.hub.paused = true → exec (.scrubCycle d) s = .next s) ∧ (s.hub.paused = false → exec (.scrubCycle d) s =
    .next ((s.macros.filter fun e => decide (coreDie (e.1 / 72) = d.val)).foldl (fun s e => s.scrubMacro (e.1 / 72) (e.1 % 72)) s))) ∧
  (∀ (s : State) (c m row : Nat) (dd : BitVec 4096), row < 2064 → (s.mac c m).takesRows → (s.mac c m).rawWrite = false →
    (s.mac c m).failing row ≠ [] → s.shadowRow c m row = some dd →
    ((s.mac c m).failedRows = [] →
      ((s.scrubRow c m row).mac c m).failing row = [] ∧ (((s.scrubRow c m row).mac c m).row row).data = dd ∧
      ((s.scrubRow c m row).mac c m).st = (s.mac c m).st) ∧
    ((∃ e ∈ (s.mac c m).failedRows, e.1 = row) → repairNames (rowRepair row) = true →
      (((s.mac c m).noteRead row).fitSpare (rowRepair row)).isSome = true →
      ((s.scrubRow c m row).mac c m).repairBusy = true ∧ ((s.scrubRow c m row).mac c m).repairing = some (rowRepair row))) ∧
  (∀ (s : State) (d : DieId),
    ((s.die d).runs = true → s.spareMargin d = true → s.maint.blocker { MaintOp.of .phaseCal with die := some d.val } = none →
      (s.actPhaseCal d).2 = dOk ∧ ∃ o ∈ (s.actPhaseCal d).1.maint.ops, o.kind = .phaseCal ∧ o.die = some d.val) ∧
    (s.spareMargin d = false → s.actPhaseCal d = (s, dState)) ∧
    (∀ passed, (∃ o ∈ s.maint.ops, o.kind = .phaseCal ∧ o.die = some d.val) → s.maint.again = [] →
      ∃ t, exec (.phaseCalibrationDone d passed) s = .next t ∧ (t.die d).dropped = (s.die d).dropped &&& ~~~passed ∧
        (t.die d).inService = (s.die d).inService ∧ ∀ o ∈ t.maint.ops, ¬(o.kind = .phaseCal ∧ o.die = some d.val)))

/-- Firmware (R379 to R384): a download fills its component's other slot segment by segment; the end of verification makes the slot VALID
or EMPTY; an activation runs unit by unit, the core runtime's batch by batch, into a trial in the new slot, and stops between units when
the tray moves or a power die is missing; a trial is confirmed, which raises the least SVN, or reverts to
the old slot; a unit that does not start takes the component back. -/
def Obligations.FirmwareUpdate : Prop :=
  (∀ (s : State) (f : Frame) (slot : Nat) (x : Session), s.requests f slot x → f.op = 2 → f.index = 0xA000 → f.sub = 2 → f.type = 10 →
    (s.heard f slot x).judge (frameWho f slot x) 0xA000 2 true = 0 →
    exec (.imageDownload f) s =
      answered f slot ((s.heard f slot x).fwSegment (frameWho f slot x) f.offset.toNat (bitOf f.flags 1) f.data)) ∧
  (∀ (s : State) (w : Who) (more : Bool) (data : List Byte), s.maint.download = none → s.fwBar = 0 →
    let c := (data.getD 6 0).toNat
    1 ≤ c → c ≤ 5 → (s.comp c).trial = false → (s.comp c).activating = false →
    (s.fwSegment w 0 more data).2 = dOk ∧ (s.fwSegment w 0 more data).1.maint.download = some (c, w.slot) ∧
      ((s.fwSegment w 0 more data).1.comp c).image = data ∧ ((s.fwSegment w 0 more data).1.comp c).whole = !more ∧
      ((s.fwSegment w 0 more data).1.comp c).other.st = .receiving ∧
      ((s.fwSegment w 0 more data).1.comp c).active = (s.comp c).active) ∧
  (∀ (s : State) (w : Who) (more : Bool) (data : List Byte) (c : Nat), s.maint.download = some (c, w.slot) → (s.comp c).whole = false →
    (s.comp c).image ≠ [] →
    (s.fwSegment w (s.comp c).image.length more data).2 = dOk ∧
      ((s.fwSegment w (s.comp c).image.length more data).1.comp c).image = (s.comp c).image ++ data) ∧
  (∀ (s : State) (i : Fin 5), (s.comp (i.val + 1)).whole = true → ∃ t, exec (.imageVerifyDone i) s = .next t ∧
    (t.comp (i.val + 1)).other = (if fwBad (i.val + 1) (s.comp (i.val + 1)).minSvn (s.comp (i.val + 1)).image = 0
      then fwSlotOf (s.comp (i.val + 1)).image else FwSlot.empty) ∧
    (t.comp (i.val + 1)).active = (s.comp (i.val + 1)).active ∧ t.maint.download = none ∧ (t.comp (i.val + 1)).whole = false) ∧
  (∀ (s : State) (c : Nat), s.fwBar = 0 → (∀ d, 1 ≤ d → d ≤ 5 → (s.comp d).activating = false ∧ (s.comp d).trial = false) →
    (s.comp c).other.st = .valid ∨ (s.comp c).other.st = .partially → s.compatOk c = true → s.maint.blocker (actOp c) = none →
    1 ≤ c → c ≤ 5 → (c = 4 → s.power.pdOn = 0xF#4) →
    (s.actActivate c).2 = dInProgress ∧ ((s.actActivate c).1.comp c).activating = true) ∧
  (∀ (s : State) (c : Nat), s.fwBar ≠ 0 → (s.actActivate c).2 = dState ∧ (s.actActivate c).1.cores = s.cores ∧
    ((s.actActivate c).1.comp c) = s.comp c) ∧
  (∀ (s : State) (i : Fin 5), (s.comp (i.val + 1)).activating = true →
    let c := i.val + 1
    let x := s.comp c
    let last := if c = 3 then ∀ j, j < 80 → j ∈ x.rtNew ∨ j ∈ x.batch else unitsOf c ≤ x.done + 1
    let four := c = 4 → s.power.pdOn ||| BitVec.ofNat 4 (2 ^ x.done) = 0xF#4
    (s.unitReady c = false → exec (.activationUnitDone i) s = .next s) ∧
    (s.unitReady c = true →
      (last → ∃ t, exec (.activationUnitDone i) s = .next t ∧ (t.comp c).useB = !x.useB ∧ (t.comp c).trial = true ∧
        (t.comp c).activating = false ∧ (t.comp c).active.ver = x.other.ver ∧ (t.comp c).active.st = .trial ∧
        (t.comp c).other.st = .valid ∧ (t.comp c).other.ver = x.active.ver) ∧
      (¬last → x.stop = true ∨ ¬four → ∃ t, exec (.activationUnitDone i) s = .next t ∧ (t.comp c).activating = false ∧
        (t.comp c).done = x.done + 1 ∧ (t.comp c).other.st = .partially) ∧
      (¬last → x.stop = false → four → ∃ t, exec (.activationUnitDone i) s = .next t ∧ (t.comp c).activating = true ∧
        (t.comp c).done = x.done + 1))) ∧
  (∀ (s : State) (i : Fin 5), (s.comp (i.val + 1)).trial = true →
    let c := i.val + 1
    let x := s.comp c
    (∃ t, exec (.trialExpire i) s = .next t ∧ (t.comp c).trial = false ∧ (t.comp c).active.st = .active ∧
      (t.comp c).minSvn = max x.minSvn x.active.svn ∧ (t.comp c).useB = x.useB) ∧
    (s.fwConfirm c).2 = dOk ∧ (s.fwRevert c).2 = dOk ∧ ((s.fwRevert c).1.comp c).useB = !x.useB ∧
      ((s.fwRevert c).1.comp c).trial = false ∧ ((s.fwRevert c).1.comp c).active.st = .active ∧
    (x.activating = false → ∃ t, exec (.unitStartTimeout i) s = .next t ∧ (t.comp c).useB = !x.useB ∧ (t.comp c).trial = false ∧
      t.hub.seq = s.hub.seq + 1)) ∧
  (∀ (s : State) (i : Fin 5), (s.comp (i.val + 1)).activating = true → ∃ t, exec (.unitStartTimeout i) s = .next t ∧
    (t.comp (i.val + 1)).activating = false ∧ (t.comp (i.val + 1)).done = 0 ∧ t.hub.seq = s.hub.seq + 1) ∧
  (∀ (s : State) (c : Nat), (s.comp c).trial = false → s.fwConfirm c = (s, dState) ∧ s.fwRevert c = (s, dState)) ∧
  (∀ (s : State) (c : BitVec 8) (k : Nat), s.maint.download = some (c.toNat, k) → 1 ≤ c.toNat → c.toNat ≤ 5 →
    (s.actFirmware [4, c]).2 = dOk ∧ (s.actFirmware [4, c]).1.maint.download = none ∧
      ((s.actFirmware [4, c]).1.comp c.toNat).other = FwSlot.empty)

/-- Boot and the test port (R371 to R373, R391, R397 steps 4 to 7, Table 14.6): the retired macros of the store are retired again; a boot
march that finds nothing leaves scratchpads, rows and commons 0 and returns what passes; the runtime in service admits work and raises HRDY;
IDCODE answers its word, with part number 0x5125, and BYPASS one bit 0. -/
def Obligations.BootAndTestPort : Prop :=
  (∀ (s : State) (c : CoreId) (m : MacId), s.power.st = .on → s.hub.inService = false → s.maint.repairLog = [] → s.maint.banks = [] →
    s.maint.retired = [macKey c m] → (s.die (coreDie c)).runs = true →
    ∃ t, exec .repairRecordsApplied s = .next t ∧ (t.mac c m).st = .retired ∧ t.cores = s.cores ∧ t.hub = s.hub) ∧
  (∀ s : State, s.power.st = .on → s.hub.inService = false → s.mgmt.obj 0x9000 1 ≠ 0 →
    ∃ t, exec (.bootMarchDone []) s = .next t ∧ t.hub.commons = [] ∧
      ∀ c, c < 80 → (s.die (coreDie c)).runs = true → (t.core c).sp = [] ∧ c ∉ t.maint.excluded ∧
        ∀ m, m < 72 → (t.mac c m).rows = [] ∧ ((s.mac c m).st = .retired → (t.mac c m).st = .offline)) ∧
  (∀ s : State, s.power.st = .on → s.hub.inService = false → ∃ t, exec .runtimeInService s = .next t ∧ t.hub.inService = true ∧
    t.hub.admitting = true ∧ t.hub.paused = false ∧ (∀ p, p < 2 → (s.host p).hrdy = .boot → (s.host p).perstN = true →
      (t.host p).hrdy = .ready) ∧ t.cores = s.cores) ∧
  (∀ s : State, s.hub.inService = true → exec .runtimeInService s = .next s) ∧
  (∀ s : State, (∃ t, exec .idcode s = .next t ∧ t.reply = { status := 0, data := leBytes 4 idcodeWord.toNat } ∧ t.cores = s.cores ∧
    t.hub = s.hub) ∧ fld idcodeWord 27 12 = 0x5125) ∧
  (∀ s : State, ∃ t, exec .bypass s = .next t ∧ t.reply = { status := 0, data := [0] } ∧ t.cores = s.cores ∧ t.hub = s.hub)

/-! ## Roles, reset, invariants -/

/-- Roles and the vendor range (R354, R370): what a role may do a higher one on the same path may; a request without a session acts as
OBSERVER, which never writes; every request to index 0xF000 and above is answered LOCKED and changes nothing. -/
def Obligations.RolesAndLockedRange : Prop :=
  (∀ (s : State) (w v : Who) (i sub : Nat) (write : Bool), w.path = v.path → w.role ≤ v.role → s.judge w i sub write = 0 →
    s.judge v i sub write = 0) ∧
  (∀ (s : State) (w : Who) (i sub : Nat), w.role = 0 → s.judge w i sub true ≠ 0) ∧
  (∀ (s : State) (f : Frame), s.receives f = true → f.session = 0 → frameBad f = false → f.op = 1 →
    let r := s.readValue { role := 0, path := if f.service then 1 else 0, slot := 12 } f.index.toNat f.sub.toNat f.offset.toNat 1440
    exec (.read f) s = .next (r.1.replyTo f 12 0 r.2)) ∧
  (∀ (s : State) (w : Who) (i sub off n : Nat), 0xF000 ≤ i → s.readValue w i sub off n = (s, Ans.of dLocked)) ∧
  (∀ (s : State) (w : Who) (i sub ty off : Nat) (more : Bool) (v : List Byte) (act : State → List Byte → State × Nat), 0xF000 ≤ i →
    s.writeValue w i sub ty off more v act = (s, Ans.of dLocked))

/-- Reset: the values the spec gives the package in STANDBY after the auxiliary rail came up (Tables 1.14, 5.7, 5.20, 9.2, 10.1, 11.9,
12.6, R42, R213, R276), and an empty command queue. -/
def Obligations.ResetValues : Prop :=
  let s := State.reset
  s.pending = [] ∧ s.Bounded ∧ s.power.st = .standby ∧ s.power.pdOn = 0xF#4 ∧ s.power.gcorr = (1, 1) ∧
  (∀ c m : Nat, (s.core c).st = .idle ∧ (s.core c).cto = 10000 ∧ (s.core c).flags = 0 ∧ (s.core c).getAc m = 0 ∧
    (m < 32 → (s.core c).getAcexp m = 1) ∧ (s.core c).ta.st = .empty ∧ (s.core c).tb.st = .empty ∧
    (s.mac c m).st = (if m < 64 then .loading else .offline) ∧ (s.mac c m).wfmt = 2#2 ∧ (s.mac c m).rawWrite = false) ∧
  (∀ n : Nat, (s.hub.part n).st = 0 ∧ (s.hub.stream n).st = 0 ∧ (s.hub.ring n).en = false ∧ (s.mon n).cfg = 0x80080000#32 ∧
    (s.die n).point = 0 ∧ (s.host n).width = 16) ∧
  s.hub.journal = [] ∧ s.hub.seq = 0

/-- The bounded memories stay within their sizes at every step from every state (R243, Table 9.13). -/
def Obligations.MemoriesStayBounded : Prop :=
  ∀ s t : State, s.Bounded → step s = .next t → t.Bounded

/-- The model's own queue rule over every command (assumption log 1): a step takes one command off the queue and puts none on it. -/
def Obligations.CommandQueueOnlyShortens : Prop :=
  ∀ s t : State, step s = .next t → t.pending = s.pending.drop 1
end

