-- ==== Sys2Proof/Laws/Memory.lean ====
section
/-! SUPPORT. Laws of sparse maps and byte memories: read after write, and that every operation keeps the canonical form. -/

namespace Sys2Proof.Machine

variable {α : Type}

/-! ### Read after write -/

@[simp] theorem Sparse.find?_nil (k : Nat) : Sparse.find? ([] : Sparse α) k = none := rfl

theorem Sparse.find?_insert_self (m : Sparse α) (k : Nat) (x : α) : Sparse.find? (Sparse.insert m k x) k = some x := by
  induction m with
  | nil => simp [Sparse.insert, Sparse.find?]
  | cons e rest ih =>
    obtain ⟨j, v⟩ := e
    simp only [Sparse.insert]
    split
    · simp [Sparse.find?]
    · split
      · simp [Sparse.find?]
      · simp_all [Sparse.find?]

theorem Sparse.find?_insert_ne (m : Sparse α) {k i : Nat} (x : α) (h : i ≠ k) :
    Sparse.find? (Sparse.insert m k x) i = Sparse.find? m i := by
  induction m with
  | nil => simp [Sparse.insert, Sparse.find?, h.symm]
  | cons e rest ih =>
    obtain ⟨j, v⟩ := e
    simp only [Sparse.insert]
    split
    · subst_vars; simp [Sparse.find?, h.symm]
    · split
      · simp [Sparse.find?, h.symm]
      · simp [Sparse.find?, ih]

theorem Sparse.find?_erase_self (m : Sparse α) (k : Nat) : Sparse.find? (Sparse.erase m k) k = none := by
  induction m with
  | nil => rfl
  | cons e rest ih =>
    obtain ⟨j, v⟩ := e
    simp only [Sparse.erase]
    split
    · exact ih
    · simp_all [Sparse.find?]

theorem Sparse.find?_erase_ne (m : Sparse α) {k i : Nat} (h : i ≠ k) : Sparse.find? (Sparse.erase m k) i = Sparse.find? m i := by
  induction m with
  | nil => rfl
  | cons e rest ih =>
    obtain ⟨j, v⟩ := e
    simp only [Sparse.erase]
    split
    · subst_vars; simp [Sparse.find?, ih, h.symm]
    · simp [Sparse.find?, ih]

@[simp] theorem Sparse.get_set_self [DecidableEq α] (m : Sparse α) (d : α) (k : Nat) (x : α) :
    Sparse.get (Sparse.set m d k x) d k = x := by
  unfold Sparse.get Sparse.set
  split
  · simp_all [Sparse.find?_erase_self]
  · simp [Sparse.find?_insert_self]

/-- A write leaves every other key alone, whatever default each is read with. -/
theorem Sparse.get_set_ne [DecidableEq α] (m : Sparse α) (d e : α) {k i : Nat} (x : α) (h : i ≠ k) :
    Sparse.get (Sparse.set m d k x) e i = Sparse.get m e i := by
  unfold Sparse.get Sparse.set
  split
  · rw [Sparse.find?_erase_ne m h]
  · rw [Sparse.find?_insert_ne m x h]

@[simp] theorem Memory.read_write_self (m : Memory) (a : Nat) (b : Byte) : Memory.read (Memory.write m a b) a = b :=
  Sparse.get_set_self m 0 a b

theorem Memory.read_write_ne (m : Memory) {a x : Nat} (b : Byte) (h : x ≠ a) :
    Memory.read (Memory.write m a b) x = Memory.read m x := Sparse.get_set_ne m 0 0 b h

/-- A list of bytes written from a changes no byte outside its span. -/
theorem Memory.read_writeL_outside (bs : List Byte) : ∀ (m : Memory) (a x : Nat), x < a ∨ a + bs.length ≤ x →
    Memory.read (Memory.writeL m a bs) x = Memory.read m x := by
  induction bs with
  | nil => intro m a x _; rfl
  | cons b bs ih =>
    intro m a x h
    simp only [List.length_cons] at h
    rw [Memory.writeL, ih _ _ _ (by omega), Memory.read_write_ne m b (by omega)]

/-- A list of bytes written from a reads back. -/
theorem Memory.read_writeL_inside (bs : List Byte) : ∀ (m : Memory) (a i : Nat), i < bs.length →
    Memory.read (Memory.writeL m a bs) (a + i) = bs.getD i 0 := by
  induction bs with
  | nil => intro m a i h; simp at h
  | cons b bs ih =>
    intro m a i h
    cases i with
    | zero => rw [Memory.writeL, Memory.read_writeL_outside _ _ _ _ (by omega)]; simp
    | succ n =>
      have h' : n < bs.length := by simpa using h
      have e : a + (n + 1) = a + 1 + n := by omega
      rw [Memory.writeL, e, ih _ _ _ h']; simp

@[simp] theorem Win.read_write_self (m : Memory) (a : Nat) (b : Byte) : Win.read (Win.write m a b) a = b :=
  Sparse.get_set_self m _ a b

theorem Win.read_write_ne (m : Memory) {a x : Nat} (b : Byte) (h : x ≠ a) : Win.read (Win.write m a b) x = Win.read m x :=
  Sparse.get_set_ne m _ _ b h

/-! ### The canonical form is kept -/

theorem Sparse.wfFrom_mono [DecidableEq α] {d : Nat → α} {m : Sparse α} {lo lo' : Nat} (h : Sparse.wfFrom d lo m = true)
    (hl : lo' ≤ lo) : Sparse.wfFrom d lo' m = true := by
  cases m with
  | nil => rfl
  | cons e rest =>
    obtain ⟨j, v⟩ := e
    simp only [Sparse.wfFrom, Bool.and_eq_true, decide_eq_true_eq] at h ⊢
    exact ⟨⟨by omega, h.1.2⟩, h.2⟩

theorem Sparse.wfFrom_erase [DecidableEq α] {d : Nat → α} (k : Nat) : ∀ {m : Sparse α} {lo : Nat}, Sparse.wfFrom d lo m = true →
    Sparse.wfFrom d lo (Sparse.erase m k) = true
  | [], _, _ => rfl
  | (j, v) :: rest, lo, h => by
    simp only [Sparse.wfFrom, Bool.and_eq_true, decide_eq_true_eq] at h
    have ih := Sparse.wfFrom_erase k h.2
    simp only [Sparse.erase]
    split
    · exact Sparse.wfFrom_mono ih (by omega)
    · simp only [Sparse.wfFrom, Bool.and_eq_true, decide_eq_true_eq]
      exact ⟨h.1, ih⟩

theorem Sparse.wfFrom_insert [DecidableEq α] {d : Nat → α} {k : Nat} {x : α} (hx : x ≠ d k) : ∀ {m : Sparse α} {lo : Nat},
    Sparse.wfFrom d lo m = true → lo ≤ k → Sparse.wfFrom d lo (Sparse.insert m k x) = true
  | [], lo, _, hk => by simp [Sparse.insert, Sparse.wfFrom, hx, hk]
  | (j, v) :: rest, lo, h, hk => by
    simp only [Sparse.wfFrom, Bool.and_eq_true, decide_eq_true_eq] at h
    simp only [Sparse.insert]
    split
    · subst_vars; simp only [Sparse.wfFrom, Bool.and_eq_true, decide_eq_true_eq]; exact ⟨⟨hk, hx⟩, h.2⟩
    · split
      · simp only [Sparse.wfFrom, Bool.and_eq_true, decide_eq_true_eq]
        exact ⟨⟨hk, hx⟩, ⟨by omega, h.1.2⟩, h.2⟩
      · simp only [Sparse.wfFrom, Bool.and_eq_true, decide_eq_true_eq]
        exact ⟨h.1, Sparse.wfFrom_insert hx h.2 (by omega)⟩

/-- A write through the key's default keeps the canonical form. -/
theorem Sparse.wf_set [DecidableEq α] {d : Nat → α} {m : Sparse α} (k : Nat) (x : α) (h : Sparse.wf d m = true) :
    Sparse.wf d (Sparse.set m (d k) k x) = true := by
  unfold Sparse.set
  split
  · exact Sparse.wfFrom_erase k h
  · exact Sparse.wfFrom_insert ‹_› h (Nat.zero_le k)

theorem Sparse.wf_erase [DecidableEq α] {d : Nat → α} {m : Sparse α} (k : Nat) (h : Sparse.wf d m = true) :
    Sparse.wf d (Sparse.erase m k) = true := Sparse.wfFrom_erase k h

theorem Sparse.wfFrom_filter [DecidableEq α] {d : Nat → α} (p : Nat × α → Bool) : ∀ {m : Sparse α} {lo : Nat},
    Sparse.wfFrom d lo m = true → Sparse.wfFrom d lo (m.filter p) = true
  | [], _, _ => rfl
  | (j, v) :: rest, lo, h => by
    simp only [Sparse.wfFrom, Bool.and_eq_true, decide_eq_true_eq] at h
    have ih := Sparse.wfFrom_filter p h.2
    rw [List.filter_cons]
    split
    · simp only [Sparse.wfFrom, Bool.and_eq_true, decide_eq_true_eq]; exact ⟨h.1, ih⟩
    · exact Sparse.wfFrom_mono ih (by omega)

theorem Sparse.wf_clearRange [DecidableEq α] {d : Nat → α} {m : Sparse α} (a n : Nat) (h : Sparse.wf d m = true) :
    Sparse.wf d (Sparse.clearRange m a n) = true := Sparse.wfFrom_filter _ h

theorem Sparse.mem_ne_default [DecidableEq α] {d : Nat → α} : ∀ {m : Sparse α} {lo : Nat}, Sparse.wfFrom d lo m = true →
    ∀ e ∈ m, e.2 ≠ d e.1
  | [], _, _, _, he => by simp at he
  | (j, v) :: rest, lo, h, e, he => by
    simp only [Sparse.wfFrom, Bool.and_eq_true, decide_eq_true_eq] at h
    rcases List.mem_cons.1 he with rfl | he
    · exact h.1.2
    · exact Sparse.mem_ne_default h.2 e he

theorem Sparse.wf_foldl_insert [DecidableEq α] {d : Nat → α} (es : List (Nat × α)) : ∀ {m : Sparse α}, (∀ e ∈ es, e.2 ≠ d e.1) →
    Sparse.wf d m = true → Sparse.wf d (es.foldl (fun m e => Sparse.insert m e.1 e.2) m) = true := by
  induction es with
  | nil => intro m _ h; exact h
  | cons e es ih =>
    intro m he h
    exact ih (fun x hx => he x (List.mem_cons_of_mem _ hx))
      (Sparse.wfFrom_insert (he e List.mem_cons_self) h (Nat.zero_le _))

/-- Copying a range of one canonical map into another keeps the form. -/
theorem Sparse.wf_copyRange [DecidableEq α] {d : Nat → α} {src dst : Sparse α} (a n : Nat) (hs : Sparse.wf d src = true)
    (hd : Sparse.wf d dst = true) : Sparse.wf d (Sparse.copyRange src dst a n) = true := by
  refine Sparse.wf_foldl_insert _ (fun e he => ?_) (Sparse.wf_clearRange a n hd)
  exact Sparse.mem_ne_default hs e (List.mem_of_mem_filter he)

theorem Memory.wf_write {m : Memory} (a : Nat) (b : Byte) (h : Memory.wf m = true) : Memory.wf (Memory.write m a b) = true :=
  Sparse.wf_set (d := memDefault) a b h

theorem Memory.wf_writeL (bs : List Byte) : ∀ {m : Memory} (a : Nat), Memory.wf m = true →
    Memory.wf (Memory.writeL m a bs) = true := by
  induction bs with
  | nil => intro m a h; exact h
  | cons b bs ih => intro m a h; exact ih (a + 1) (Memory.wf_write a b h)

theorem Win.wf_write {m : Memory} (a : Nat) (b : Byte) (h : Win.wf m = true) : Win.wf (Win.write m a b) = true :=
  Sparse.wf_set (d := winDefault) a b h

theorem Win.wf_writeL (bs : List Byte) : ∀ {m : Memory} (a : Nat), Win.wf m = true → Win.wf (Win.writeL m a bs) = true := by
  induction bs with
  | nil => intro m a h; exact h
  | cons b bs ih => intro m a h; exact ih (a + 1) (Win.wf_write a b h)

end Sys2Proof.Machine
end

