-- ==== Sys2Proof/Laws/State.lean ====
section
/-! SUPPORT. Each update of the state beside each field: which field it sets and that it leaves the others; and the components read
after they are written. -/

namespace Sys2Proof.Machine

/-! ### setCore -/

@[simp] theorem State.setCore_pending (s : State) (c : Nat) (v : CoreState) : (s.setCore c v).pending = s.pending := rfl
@[simp] theorem State.setCore_macros (s : State) (c : Nat) (v : CoreState) : (s.setCore c v).macros = s.macros := rfl
@[simp] theorem State.setCore_nb (s : State) (c : Nat) (v : CoreState) : (s.setCore c v).nb = s.nb := rfl
@[simp] theorem State.setCore_hub (s : State) (c : Nat) (v : CoreState) : (s.setCore c v).hub = s.hub := rfl
@[simp] theorem State.setCore_power (s : State) (c : Nat) (v : CoreState) : (s.setCore c v).power = s.power := rfl
@[simp] theorem State.setCore_dies (s : State) (c : Nat) (v : CoreState) : (s.setCore c v).dies = s.dies := rfl
@[simp] theorem State.setCore_mons (s : State) (c : Nat) (v : CoreState) : (s.setCore c v).mons = s.mons := rfl
@[simp] theorem State.setCore_kraox (s : State) (c : Nat) (v : CoreState) : (s.setCore c v).kraox = s.kraox := rfl
@[simp] theorem State.setCore_hosts (s : State) (c : Nat) (v : CoreState) : (s.setCore c v).hosts = s.hosts := rfl
@[simp] theorem State.setCore_ext (s : State) (c : Nat) (v : CoreState) : (s.setCore c v).ext = s.ext := rfl
@[simp] theorem State.setCore_mgmt (s : State) (c : Nat) (v : CoreState) : (s.setCore c v).mgmt = s.mgmt := rfl
@[simp] theorem State.setCore_maint (s : State) (c : Nat) (v : CoreState) : (s.setCore c v).maint = s.maint := rfl
@[simp] theorem State.setCore_tapId (s : State) (c : Nat) (v : CoreState) : (s.setCore c v).tapId = s.tapId := rfl
@[simp] theorem State.setCore_reply (s : State) (c : Nat) (v : CoreState) : (s.setCore c v).reply = s.reply := rfl
@[simp] theorem State.setCore_free (s : State) (c : Nat) (v : CoreState) : (s.setCore c v).free = s.free := rfl

/-! ### setMac -/

@[simp] theorem State.setMac_pending (s : State) (c m : Nat) (v : MacroState) : (s.setMac c m v).pending = s.pending := rfl
@[simp] theorem State.setMac_cores (s : State) (c m : Nat) (v : MacroState) : (s.setMac c m v).cores = s.cores := rfl
@[simp] theorem State.setMac_nb (s : State) (c m : Nat) (v : MacroState) : (s.setMac c m v).nb = s.nb := rfl
@[simp] theorem State.setMac_hub (s : State) (c m : Nat) (v : MacroState) : (s.setMac c m v).hub = s.hub := rfl
@[simp] theorem State.setMac_power (s : State) (c m : Nat) (v : MacroState) : (s.setMac c m v).power = s.power := rfl
@[simp] theorem State.setMac_dies (s : State) (c m : Nat) (v : MacroState) : (s.setMac c m v).dies = s.dies := rfl
@[simp] theorem State.setMac_mons (s : State) (c m : Nat) (v : MacroState) : (s.setMac c m v).mons = s.mons := rfl
@[simp] theorem State.setMac_kraox (s : State) (c m : Nat) (v : MacroState) : (s.setMac c m v).kraox = s.kraox := rfl
@[simp] theorem State.setMac_hosts (s : State) (c m : Nat) (v : MacroState) : (s.setMac c m v).hosts = s.hosts := rfl
@[simp] theorem State.setMac_ext (s : State) (c m : Nat) (v : MacroState) : (s.setMac c m v).ext = s.ext := rfl
@[simp] theorem State.setMac_mgmt (s : State) (c m : Nat) (v : MacroState) : (s.setMac c m v).mgmt = s.mgmt := rfl
@[simp] theorem State.setMac_maint (s : State) (c m : Nat) (v : MacroState) : (s.setMac c m v).maint = s.maint := rfl
@[simp] theorem State.setMac_tapId (s : State) (c m : Nat) (v : MacroState) : (s.setMac c m v).tapId = s.tapId := rfl
@[simp] theorem State.setMac_reply (s : State) (c m : Nat) (v : MacroState) : (s.setMac c m v).reply = s.reply := rfl
@[simp] theorem State.setMac_free (s : State) (c m : Nat) (v : MacroState) : (s.setMac c m v).free = s.free := rfl

/-! ### setDie -/

@[simp] theorem State.setDie_pending (s : State) (d : Nat) (v : DieState) : (s.setDie d v).pending = s.pending := rfl
@[simp] theorem State.setDie_cores (s : State) (d : Nat) (v : DieState) : (s.setDie d v).cores = s.cores := rfl
@[simp] theorem State.setDie_macros (s : State) (d : Nat) (v : DieState) : (s.setDie d v).macros = s.macros := rfl
@[simp] theorem State.setDie_nb (s : State) (d : Nat) (v : DieState) : (s.setDie d v).nb = s.nb := rfl
@[simp] theorem State.setDie_hub (s : State) (d : Nat) (v : DieState) : (s.setDie d v).hub = s.hub := rfl
@[simp] theorem State.setDie_power (s : State) (d : Nat) (v : DieState) : (s.setDie d v).power = s.power := rfl
@[simp] theorem State.setDie_mons (s : State) (d : Nat) (v : DieState) : (s.setDie d v).mons = s.mons := rfl
@[simp] theorem State.setDie_kraox (s : State) (d : Nat) (v : DieState) : (s.setDie d v).kraox = s.kraox := rfl
@[simp] theorem State.setDie_hosts (s : State) (d : Nat) (v : DieState) : (s.setDie d v).hosts = s.hosts := rfl
@[simp] theorem State.setDie_ext (s : State) (d : Nat) (v : DieState) : (s.setDie d v).ext = s.ext := rfl
@[simp] theorem State.setDie_mgmt (s : State) (d : Nat) (v : DieState) : (s.setDie d v).mgmt = s.mgmt := rfl
@[simp] theorem State.setDie_maint (s : State) (d : Nat) (v : DieState) : (s.setDie d v).maint = s.maint := rfl
@[simp] theorem State.setDie_tapId (s : State) (d : Nat) (v : DieState) : (s.setDie d v).tapId = s.tapId := rfl
@[simp] theorem State.setDie_reply (s : State) (d : Nat) (v : DieState) : (s.setDie d v).reply = s.reply := rfl
@[simp] theorem State.setDie_free (s : State) (d : Nat) (v : DieState) : (s.setDie d v).free = s.free := rfl

/-! ### setHost -/

@[simp] theorem State.setHost_pending (s : State) (p : Nat) (v : HostPort) : (s.setHost p v).pending = s.pending := rfl
@[simp] theorem State.setHost_cores (s : State) (p : Nat) (v : HostPort) : (s.setHost p v).cores = s.cores := rfl
@[simp] theorem State.setHost_macros (s : State) (p : Nat) (v : HostPort) : (s.setHost p v).macros = s.macros := rfl
@[simp] theorem State.setHost_nb (s : State) (p : Nat) (v : HostPort) : (s.setHost p v).nb = s.nb := rfl
@[simp] theorem State.setHost_hub (s : State) (p : Nat) (v : HostPort) : (s.setHost p v).hub = s.hub := rfl
@[simp] theorem State.setHost_power (s : State) (p : Nat) (v : HostPort) : (s.setHost p v).power = s.power := rfl
@[simp] theorem State.setHost_dies (s : State) (p : Nat) (v : HostPort) : (s.setHost p v).dies = s.dies := rfl
@[simp] theorem State.setHost_mons (s : State) (p : Nat) (v : HostPort) : (s.setHost p v).mons = s.mons := rfl
@[simp] theorem State.setHost_kraox (s : State) (p : Nat) (v : HostPort) : (s.setHost p v).kraox = s.kraox := rfl
@[simp] theorem State.setHost_ext (s : State) (p : Nat) (v : HostPort) : (s.setHost p v).ext = s.ext := rfl
@[simp] theorem State.setHost_mgmt (s : State) (p : Nat) (v : HostPort) : (s.setHost p v).mgmt = s.mgmt := rfl
@[simp] theorem State.setHost_maint (s : State) (p : Nat) (v : HostPort) : (s.setHost p v).maint = s.maint := rfl
@[simp] theorem State.setHost_tapId (s : State) (p : Nat) (v : HostPort) : (s.setHost p v).tapId = s.tapId := rfl
@[simp] theorem State.setHost_reply (s : State) (p : Nat) (v : HostPort) : (s.setHost p v).reply = s.reply := rfl
@[simp] theorem State.setHost_free (s : State) (p : Nat) (v : HostPort) : (s.setHost p v).free = s.free := rfl

/-! ### setHub -/

@[simp] theorem State.setHub_pending (s : State) (h : Hub) : (s.setHub h).pending = s.pending := rfl
@[simp] theorem State.setHub_cores (s : State) (h : Hub) : (s.setHub h).cores = s.cores := rfl
@[simp] theorem State.setHub_macros (s : State) (h : Hub) : (s.setHub h).macros = s.macros := rfl
@[simp] theorem State.setHub_nb (s : State) (h : Hub) : (s.setHub h).nb = s.nb := rfl
@[simp] theorem State.setHub_hub (s : State) (h : Hub) : (s.setHub h).hub = h := rfl
@[simp] theorem State.setHub_power (s : State) (h : Hub) : (s.setHub h).power = s.power := rfl
@[simp] theorem State.setHub_dies (s : State) (h : Hub) : (s.setHub h).dies = s.dies := rfl
@[simp] theorem State.setHub_mons (s : State) (h : Hub) : (s.setHub h).mons = s.mons := rfl
@[simp] theorem State.setHub_kraox (s : State) (h : Hub) : (s.setHub h).kraox = s.kraox := rfl
@[simp] theorem State.setHub_hosts (s : State) (h : Hub) : (s.setHub h).hosts = s.hosts := rfl
@[simp] theorem State.setHub_ext (s : State) (h : Hub) : (s.setHub h).ext = s.ext := rfl
@[simp] theorem State.setHub_mgmt (s : State) (h : Hub) : (s.setHub h).mgmt = s.mgmt := rfl
@[simp] theorem State.setHub_maint (s : State) (h : Hub) : (s.setHub h).maint = s.maint := rfl
@[simp] theorem State.setHub_tapId (s : State) (h : Hub) : (s.setHub h).tapId = s.tapId := rfl
@[simp] theorem State.setHub_reply (s : State) (h : Hub) : (s.setHub h).reply = s.reply := rfl
@[simp] theorem State.setHub_free (s : State) (h : Hub) : (s.setHub h).free = s.free := rfl

/-! ### updHub -/

@[simp] theorem State.updHub_pending (s : State) (f : Hub → Hub) : (s.updHub f).pending = s.pending := rfl
@[simp] theorem State.updHub_cores (s : State) (f : Hub → Hub) : (s.updHub f).cores = s.cores := rfl
@[simp] theorem State.updHub_macros (s : State) (f : Hub → Hub) : (s.updHub f).macros = s.macros := rfl
@[simp] theorem State.updHub_nb (s : State) (f : Hub → Hub) : (s.updHub f).nb = s.nb := rfl
@[simp] theorem State.updHub_hub (s : State) (f : Hub → Hub) : (s.updHub f).hub = f s.hub := rfl
@[simp] theorem State.updHub_power (s : State) (f : Hub → Hub) : (s.updHub f).power = s.power := rfl
@[simp] theorem State.updHub_dies (s : State) (f : Hub → Hub) : (s.updHub f).dies = s.dies := rfl
@[simp] theorem State.updHub_mons (s : State) (f : Hub → Hub) : (s.updHub f).mons = s.mons := rfl
@[simp] theorem State.updHub_kraox (s : State) (f : Hub → Hub) : (s.updHub f).kraox = s.kraox := rfl
@[simp] theorem State.updHub_hosts (s : State) (f : Hub → Hub) : (s.updHub f).hosts = s.hosts := rfl
@[simp] theorem State.updHub_ext (s : State) (f : Hub → Hub) : (s.updHub f).ext = s.ext := rfl
@[simp] theorem State.updHub_mgmt (s : State) (f : Hub → Hub) : (s.updHub f).mgmt = s.mgmt := rfl
@[simp] theorem State.updHub_maint (s : State) (f : Hub → Hub) : (s.updHub f).maint = s.maint := rfl
@[simp] theorem State.updHub_tapId (s : State) (f : Hub → Hub) : (s.updHub f).tapId = s.tapId := rfl
@[simp] theorem State.updHub_reply (s : State) (f : Hub → Hub) : (s.updHub f).reply = s.reply := rfl
@[simp] theorem State.updHub_free (s : State) (f : Hub → Hub) : (s.updHub f).free = s.free := rfl

/-! ### updPower -/

@[simp] theorem State.updPower_pending (s : State) (f : Power → Power) : (s.updPower f).pending = s.pending := rfl
@[simp] theorem State.updPower_cores (s : State) (f : Power → Power) : (s.updPower f).cores = s.cores := rfl
@[simp] theorem State.updPower_macros (s : State) (f : Power → Power) : (s.updPower f).macros = s.macros := rfl
@[simp] theorem State.updPower_nb (s : State) (f : Power → Power) : (s.updPower f).nb = s.nb := rfl
@[simp] theorem State.updPower_hub (s : State) (f : Power → Power) : (s.updPower f).hub = s.hub := rfl
@[simp] theorem State.updPower_power (s : State) (f : Power → Power) : (s.updPower f).power = f s.power := rfl
@[simp] theorem State.updPower_dies (s : State) (f : Power → Power) : (s.updPower f).dies = s.dies := rfl
@[simp] theorem State.updPower_mons (s : State) (f : Power → Power) : (s.updPower f).mons = s.mons := rfl
@[simp] theorem State.updPower_kraox (s : State) (f : Power → Power) : (s.updPower f).kraox = s.kraox := rfl
@[simp] theorem State.updPower_hosts (s : State) (f : Power → Power) : (s.updPower f).hosts = s.hosts := rfl
@[simp] theorem State.updPower_ext (s : State) (f : Power → Power) : (s.updPower f).ext = s.ext := rfl
@[simp] theorem State.updPower_mgmt (s : State) (f : Power → Power) : (s.updPower f).mgmt = s.mgmt := rfl
@[simp] theorem State.updPower_maint (s : State) (f : Power → Power) : (s.updPower f).maint = s.maint := rfl
@[simp] theorem State.updPower_tapId (s : State) (f : Power → Power) : (s.updPower f).tapId = s.tapId := rfl
@[simp] theorem State.updPower_reply (s : State) (f : Power → Power) : (s.updPower f).reply = s.reply := rfl
@[simp] theorem State.updPower_free (s : State) (f : Power → Power) : (s.updPower f).free = s.free := rfl

/-! ### updKraox -/

@[simp] theorem State.updKraox_pending (s : State) (f : Kraox → Kraox) : (s.updKraox f).pending = s.pending := rfl
@[simp] theorem State.updKraox_cores (s : State) (f : Kraox → Kraox) : (s.updKraox f).cores = s.cores := rfl
@[simp] theorem State.updKraox_macros (s : State) (f : Kraox → Kraox) : (s.updKraox f).macros = s.macros := rfl
@[simp] theorem State.updKraox_nb (s : State) (f : Kraox → Kraox) : (s.updKraox f).nb = s.nb := rfl
@[simp] theorem State.updKraox_hub (s : State) (f : Kraox → Kraox) : (s.updKraox f).hub = s.hub := rfl
@[simp] theorem State.updKraox_power (s : State) (f : Kraox → Kraox) : (s.updKraox f).power = s.power := rfl
@[simp] theorem State.updKraox_dies (s : State) (f : Kraox → Kraox) : (s.updKraox f).dies = s.dies := rfl
@[simp] theorem State.updKraox_mons (s : State) (f : Kraox → Kraox) : (s.updKraox f).mons = s.mons := rfl
@[simp] theorem State.updKraox_kraox (s : State) (f : Kraox → Kraox) : (s.updKraox f).kraox = f s.kraox := rfl
@[simp] theorem State.updKraox_hosts (s : State) (f : Kraox → Kraox) : (s.updKraox f).hosts = s.hosts := rfl
@[simp] theorem State.updKraox_ext (s : State) (f : Kraox → Kraox) : (s.updKraox f).ext = s.ext := rfl
@[simp] theorem State.updKraox_mgmt (s : State) (f : Kraox → Kraox) : (s.updKraox f).mgmt = s.mgmt := rfl
@[simp] theorem State.updKraox_maint (s : State) (f : Kraox → Kraox) : (s.updKraox f).maint = s.maint := rfl
@[simp] theorem State.updKraox_tapId (s : State) (f : Kraox → Kraox) : (s.updKraox f).tapId = s.tapId := rfl
@[simp] theorem State.updKraox_reply (s : State) (f : Kraox → Kraox) : (s.updKraox f).reply = s.reply := rfl
@[simp] theorem State.updKraox_free (s : State) (f : Kraox → Kraox) : (s.updKraox f).free = s.free := rfl

/-! ### updExt -/

@[simp] theorem State.updExt_pending (s : State) (f : ExtMem → ExtMem) : (s.updExt f).pending = s.pending := rfl
@[simp] theorem State.updExt_cores (s : State) (f : ExtMem → ExtMem) : (s.updExt f).cores = s.cores := rfl
@[simp] theorem State.updExt_macros (s : State) (f : ExtMem → ExtMem) : (s.updExt f).macros = s.macros := rfl
@[simp] theorem State.updExt_nb (s : State) (f : ExtMem → ExtMem) : (s.updExt f).nb = s.nb := rfl
@[simp] theorem State.updExt_hub (s : State) (f : ExtMem → ExtMem) : (s.updExt f).hub = s.hub := rfl
@[simp] theorem State.updExt_power (s : State) (f : ExtMem → ExtMem) : (s.updExt f).power = s.power := rfl
@[simp] theorem State.updExt_dies (s : State) (f : ExtMem → ExtMem) : (s.updExt f).dies = s.dies := rfl
@[simp] theorem State.updExt_mons (s : State) (f : ExtMem → ExtMem) : (s.updExt f).mons = s.mons := rfl
@[simp] theorem State.updExt_kraox (s : State) (f : ExtMem → ExtMem) : (s.updExt f).kraox = s.kraox := rfl
@[simp] theorem State.updExt_hosts (s : State) (f : ExtMem → ExtMem) : (s.updExt f).hosts = s.hosts := rfl
@[simp] theorem State.updExt_ext (s : State) (f : ExtMem → ExtMem) : (s.updExt f).ext = f s.ext := rfl
@[simp] theorem State.updExt_mgmt (s : State) (f : ExtMem → ExtMem) : (s.updExt f).mgmt = s.mgmt := rfl
@[simp] theorem State.updExt_maint (s : State) (f : ExtMem → ExtMem) : (s.updExt f).maint = s.maint := rfl
@[simp] theorem State.updExt_tapId (s : State) (f : ExtMem → ExtMem) : (s.updExt f).tapId = s.tapId := rfl
@[simp] theorem State.updExt_reply (s : State) (f : ExtMem → ExtMem) : (s.updExt f).reply = s.reply := rfl
@[simp] theorem State.updExt_free (s : State) (f : ExtMem → ExtMem) : (s.updExt f).free = s.free := rfl

/-! ### updMgmt -/

@[simp] theorem State.updMgmt_pending (s : State) (f : Mgmt → Mgmt) : (s.updMgmt f).pending = s.pending := rfl
@[simp] theorem State.updMgmt_cores (s : State) (f : Mgmt → Mgmt) : (s.updMgmt f).cores = s.cores := rfl
@[simp] theorem State.updMgmt_macros (s : State) (f : Mgmt → Mgmt) : (s.updMgmt f).macros = s.macros := rfl
@[simp] theorem State.updMgmt_nb (s : State) (f : Mgmt → Mgmt) : (s.updMgmt f).nb = s.nb := rfl
@[simp] theorem State.updMgmt_hub (s : State) (f : Mgmt → Mgmt) : (s.updMgmt f).hub = s.hub := rfl
@[simp] theorem State.updMgmt_power (s : State) (f : Mgmt → Mgmt) : (s.updMgmt f).power = s.power := rfl
@[simp] theorem State.updMgmt_dies (s : State) (f : Mgmt → Mgmt) : (s.updMgmt f).dies = s.dies := rfl
@[simp] theorem State.updMgmt_mons (s : State) (f : Mgmt → Mgmt) : (s.updMgmt f).mons = s.mons := rfl
@[simp] theorem State.updMgmt_kraox (s : State) (f : Mgmt → Mgmt) : (s.updMgmt f).kraox = s.kraox := rfl
@[simp] theorem State.updMgmt_hosts (s : State) (f : Mgmt → Mgmt) : (s.updMgmt f).hosts = s.hosts := rfl
@[simp] theorem State.updMgmt_ext (s : State) (f : Mgmt → Mgmt) : (s.updMgmt f).ext = s.ext := rfl
@[simp] theorem State.updMgmt_mgmt (s : State) (f : Mgmt → Mgmt) : (s.updMgmt f).mgmt = f s.mgmt := rfl
@[simp] theorem State.updMgmt_maint (s : State) (f : Mgmt → Mgmt) : (s.updMgmt f).maint = s.maint := rfl
@[simp] theorem State.updMgmt_tapId (s : State) (f : Mgmt → Mgmt) : (s.updMgmt f).tapId = s.tapId := rfl
@[simp] theorem State.updMgmt_reply (s : State) (f : Mgmt → Mgmt) : (s.updMgmt f).reply = s.reply := rfl
@[simp] theorem State.updMgmt_free (s : State) (f : Mgmt → Mgmt) : (s.updMgmt f).free = s.free := rfl

/-! ### updMaint -/

@[simp] theorem State.updMaint_pending (s : State) (f : Maint → Maint) : (s.updMaint f).pending = s.pending := rfl
@[simp] theorem State.updMaint_cores (s : State) (f : Maint → Maint) : (s.updMaint f).cores = s.cores := rfl
@[simp] theorem State.updMaint_macros (s : State) (f : Maint → Maint) : (s.updMaint f).macros = s.macros := rfl
@[simp] theorem State.updMaint_nb (s : State) (f : Maint → Maint) : (s.updMaint f).nb = s.nb := rfl
@[simp] theorem State.updMaint_hub (s : State) (f : Maint → Maint) : (s.updMaint f).hub = s.hub := rfl
@[simp] theorem State.updMaint_power (s : State) (f : Maint → Maint) : (s.updMaint f).power = s.power := rfl
@[simp] theorem State.updMaint_dies (s : State) (f : Maint → Maint) : (s.updMaint f).dies = s.dies := rfl
@[simp] theorem State.updMaint_mons (s : State) (f : Maint → Maint) : (s.updMaint f).mons = s.mons := rfl
@[simp] theorem State.updMaint_kraox (s : State) (f : Maint → Maint) : (s.updMaint f).kraox = s.kraox := rfl
@[simp] theorem State.updMaint_hosts (s : State) (f : Maint → Maint) : (s.updMaint f).hosts = s.hosts := rfl
@[simp] theorem State.updMaint_ext (s : State) (f : Maint → Maint) : (s.updMaint f).ext = s.ext := rfl
@[simp] theorem State.updMaint_mgmt (s : State) (f : Maint → Maint) : (s.updMaint f).mgmt = s.mgmt := rfl
@[simp] theorem State.updMaint_maint (s : State) (f : Maint → Maint) : (s.updMaint f).maint = f s.maint := rfl
@[simp] theorem State.updMaint_tapId (s : State) (f : Maint → Maint) : (s.updMaint f).tapId = s.tapId := rfl
@[simp] theorem State.updMaint_reply (s : State) (f : Maint → Maint) : (s.updMaint f).reply = s.reply := rfl
@[simp] theorem State.updMaint_free (s : State) (f : Maint → Maint) : (s.updMaint f).free = s.free := rfl

/-! ### answer -/

@[simp] theorem State.answer_pending (s : State) (st : Nat) (bs : List Byte) : (s.answer st bs).pending = s.pending := rfl
@[simp] theorem State.answer_cores (s : State) (st : Nat) (bs : List Byte) : (s.answer st bs).cores = s.cores := rfl
@[simp] theorem State.answer_macros (s : State) (st : Nat) (bs : List Byte) : (s.answer st bs).macros = s.macros := rfl
@[simp] theorem State.answer_nb (s : State) (st : Nat) (bs : List Byte) : (s.answer st bs).nb = s.nb := rfl
@[simp] theorem State.answer_hub (s : State) (st : Nat) (bs : List Byte) : (s.answer st bs).hub = s.hub := rfl
@[simp] theorem State.answer_power (s : State) (st : Nat) (bs : List Byte) : (s.answer st bs).power = s.power := rfl
@[simp] theorem State.answer_dies (s : State) (st : Nat) (bs : List Byte) : (s.answer st bs).dies = s.dies := rfl
@[simp] theorem State.answer_mons (s : State) (st : Nat) (bs : List Byte) : (s.answer st bs).mons = s.mons := rfl
@[simp] theorem State.answer_kraox (s : State) (st : Nat) (bs : List Byte) : (s.answer st bs).kraox = s.kraox := rfl
@[simp] theorem State.answer_hosts (s : State) (st : Nat) (bs : List Byte) : (s.answer st bs).hosts = s.hosts := rfl
@[simp] theorem State.answer_ext (s : State) (st : Nat) (bs : List Byte) : (s.answer st bs).ext = s.ext := rfl
@[simp] theorem State.answer_mgmt (s : State) (st : Nat) (bs : List Byte) : (s.answer st bs).mgmt = s.mgmt := rfl
@[simp] theorem State.answer_maint (s : State) (st : Nat) (bs : List Byte) : (s.answer st bs).maint = s.maint := rfl
@[simp] theorem State.answer_tapId (s : State) (st : Nat) (bs : List Byte) : (s.answer st bs).tapId = s.tapId := rfl
@[simp] theorem State.answer_reply (s : State) (st : Nat) (bs : List Byte) : (s.answer st bs).reply = { status := st, data := bs } := rfl
@[simp] theorem State.answer_free (s : State) (st : Nat) (bs : List Byte) : (s.answer st bs).free = s.free := rfl

/-! ### bump -/

@[simp] theorem State.bump_pending (s : State) : s.bump.pending = s.pending := rfl
@[simp] theorem State.bump_cores (s : State) : s.bump.cores = s.cores := rfl
@[simp] theorem State.bump_macros (s : State) : s.bump.macros = s.macros := rfl
@[simp] theorem State.bump_nb (s : State) : s.bump.nb = s.nb := rfl
@[simp] theorem State.bump_hub (s : State) : s.bump.hub = s.hub := rfl
@[simp] theorem State.bump_power (s : State) : s.bump.power = s.power := rfl
@[simp] theorem State.bump_dies (s : State) : s.bump.dies = s.dies := rfl
@[simp] theorem State.bump_mons (s : State) : s.bump.mons = s.mons := rfl
@[simp] theorem State.bump_kraox (s : State) : s.bump.kraox = s.kraox := rfl
@[simp] theorem State.bump_hosts (s : State) : s.bump.hosts = s.hosts := rfl
@[simp] theorem State.bump_ext (s : State) : s.bump.ext = s.ext := rfl
@[simp] theorem State.bump_mgmt (s : State) : s.bump.mgmt = s.mgmt := rfl
@[simp] theorem State.bump_maint (s : State) : s.bump.maint = s.maint := rfl
@[simp] theorem State.bump_tapId (s : State) : s.bump.tapId = s.tapId := rfl
@[simp] theorem State.bump_reply (s : State) : s.bump.reply = s.reply := rfl
@[simp] theorem State.bump_free (s : State) : s.bump.free = s.free + 1 := rfl

/-! ### bumpN -/

@[simp] theorem State.bumpN_pending (s : State) (n : Nat) : (s.bumpN n).pending = s.pending := rfl
@[simp] theorem State.bumpN_cores (s : State) (n : Nat) : (s.bumpN n).cores = s.cores := rfl
@[simp] theorem State.bumpN_macros (s : State) (n : Nat) : (s.bumpN n).macros = s.macros := rfl
@[simp] theorem State.bumpN_nb (s : State) (n : Nat) : (s.bumpN n).nb = s.nb := rfl
@[simp] theorem State.bumpN_hub (s : State) (n : Nat) : (s.bumpN n).hub = s.hub := rfl
@[simp] theorem State.bumpN_power (s : State) (n : Nat) : (s.bumpN n).power = s.power := rfl
@[simp] theorem State.bumpN_dies (s : State) (n : Nat) : (s.bumpN n).dies = s.dies := rfl
@[simp] theorem State.bumpN_mons (s : State) (n : Nat) : (s.bumpN n).mons = s.mons := rfl
@[simp] theorem State.bumpN_kraox (s : State) (n : Nat) : (s.bumpN n).kraox = s.kraox := rfl
@[simp] theorem State.bumpN_hosts (s : State) (n : Nat) : (s.bumpN n).hosts = s.hosts := rfl
@[simp] theorem State.bumpN_ext (s : State) (n : Nat) : (s.bumpN n).ext = s.ext := rfl
@[simp] theorem State.bumpN_mgmt (s : State) (n : Nat) : (s.bumpN n).mgmt = s.mgmt := rfl
@[simp] theorem State.bumpN_maint (s : State) (n : Nat) : (s.bumpN n).maint = s.maint := rfl
@[simp] theorem State.bumpN_tapId (s : State) (n : Nat) : (s.bumpN n).tapId = s.tapId := rfl
@[simp] theorem State.bumpN_reply (s : State) (n : Nat) : (s.bumpN n).reply = s.reply := rfl
@[simp] theorem State.bumpN_free (s : State) (n : Nat) : (s.bumpN n).free = s.free + n := rfl

/-! ### setPending -/

@[simp] theorem State.setPending_pending (s : State) (q : List Instr) : (s.setPending q).pending = q := rfl
@[simp] theorem State.setPending_cores (s : State) (q : List Instr) : (s.setPending q).cores = s.cores := rfl
@[simp] theorem State.setPending_macros (s : State) (q : List Instr) : (s.setPending q).macros = s.macros := rfl
@[simp] theorem State.setPending_nb (s : State) (q : List Instr) : (s.setPending q).nb = s.nb := rfl
@[simp] theorem State.setPending_hub (s : State) (q : List Instr) : (s.setPending q).hub = s.hub := rfl
@[simp] theorem State.setPending_power (s : State) (q : List Instr) : (s.setPending q).power = s.power := rfl
@[simp] theorem State.setPending_dies (s : State) (q : List Instr) : (s.setPending q).dies = s.dies := rfl
@[simp] theorem State.setPending_mons (s : State) (q : List Instr) : (s.setPending q).mons = s.mons := rfl
@[simp] theorem State.setPending_kraox (s : State) (q : List Instr) : (s.setPending q).kraox = s.kraox := rfl
@[simp] theorem State.setPending_hosts (s : State) (q : List Instr) : (s.setPending q).hosts = s.hosts := rfl
@[simp] theorem State.setPending_ext (s : State) (q : List Instr) : (s.setPending q).ext = s.ext := rfl
@[simp] theorem State.setPending_mgmt (s : State) (q : List Instr) : (s.setPending q).mgmt = s.mgmt := rfl
@[simp] theorem State.setPending_maint (s : State) (q : List Instr) : (s.setPending q).maint = s.maint := rfl
@[simp] theorem State.setPending_tapId (s : State) (q : List Instr) : (s.setPending q).tapId = s.tapId := rfl
@[simp] theorem State.setPending_reply (s : State) (q : List Instr) : (s.setPending q).reply = s.reply := rfl
@[simp] theorem State.setPending_free (s : State) (q : List Instr) : (s.setPending q).free = s.free := rfl

/-! ### Components read after a write -/

@[simp] theorem State.core_setCore_self (s : State) (c : Nat) (v : CoreState) : (s.setCore c v).core c = v := by
  simp [State.core, State.setCore]

theorem State.core_setCore_ne (s : State) {c d : Nat} (v : CoreState) (h : d ≠ c) : (s.setCore c v).core d = s.core d := by
  simp [State.core, State.setCore, Sparse.get_set_ne _ _ _ _ h]

@[simp] theorem State.core_updCore_self (s : State) (c : Nat) (f : CoreState → CoreState) : (s.updCore c f).core c = f (s.core c) := by
  simp [State.updCore]

theorem State.core_updCore_ne (s : State) {c d : Nat} (f : CoreState → CoreState) (h : d ≠ c) :
    (s.updCore c f).core d = s.core d := State.core_setCore_ne s _ h

@[simp] theorem State.mac_setMac_self (s : State) (c m : Nat) (v : MacroState) : (s.setMac c m v).mac c m = v := by
  simp [State.mac, State.setMac]

theorem State.mac_setMac_ne (s : State) {c m d n : Nat} (v : MacroState) (h : macKey d n ≠ macKey c m) :
    (s.setMac c m v).mac d n = s.mac d n := by
  simp [State.mac, State.setMac, Sparse.get_set_ne _ _ _ _ h]

@[simp] theorem State.mac_updMac_self (s : State) (c m : Nat) (f : MacroState → MacroState) :
    (s.updMac c m f).mac c m = f (s.mac c m) := by
  simp [State.updMac]

@[simp] theorem State.die_setDie_self (s : State) (d : Nat) (v : DieState) : (s.setDie d v).die d = v := by
  simp [State.die, State.setDie]

theorem State.die_setDie_ne (s : State) {d e : Nat} (v : DieState) (h : e ≠ d) : (s.setDie d v).die e = s.die e := by
  simp [State.die, State.setDie, Sparse.get_set_ne _ _ _ _ h]

@[simp] theorem State.die_updDie_self (s : State) (d : Nat) (f : DieState → DieState) : (s.updDie d f).die d = f (s.die d) := by
  simp [State.updDie]

@[simp] theorem State.host_setHost_self (s : State) (p : Nat) (v : HostPort) : (s.setHost p v).host p = v := by
  simp [State.host, State.setHost]

@[simp] theorem State.host_updHost_self (s : State) (p : Nat) (f : HostPort → HostPort) : (s.updHost p f).host p = f (s.host p) := by
  simp [State.updHost]

/-- A component read through a state that has the same map. -/
theorem State.core_congr {s t : State} (h : t.cores = s.cores) (c : Nat) : t.core c = s.core c := by simp [State.core, h]
theorem State.mac_congr {s t : State} (h : t.macros = s.macros) (c m : Nat) : t.mac c m = s.mac c m := by simp [State.mac, h]
theorem State.die_congr {s t : State} (h : t.dies = s.dies) (d : Nat) : t.die d = s.die d := by simp [State.die, h]

/-! ### Scalar registers (Table 5.5: X0 reads 0, writes to it are discarded) -/

@[simp] theorem CoreState.getX_zero (k : CoreState) : k.getX 0 = 0 := rfl

@[simp] theorem CoreState.putX_zero (k : CoreState) (v : W64) : k.putX 0 v = k := rfl

theorem CoreState.getX_putX_self (k : CoreState) {n : Nat} (v : W64) (h : n % 32 ≠ 0) : (k.putX n v).getX n = v := by
  simp [CoreState.getX, CoreState.putX, h]

theorem CoreState.getX_putX_ne (k : CoreState) {n m : Nat} (v : W64) (h : m % 32 ≠ n % 32) : (k.putX n v).getX m = k.getX m := by
  unfold CoreState.getX CoreState.putX
  split
  · rfl
  · split <;> simp [Sparse.get_set_ne _ _ _ _ h]

/-! ### The step -/

theorem step_front (s : State) (i : Instr) (rest : List Instr) (h : s.pending = i :: rest) : step s = exec i (s.setPending rest) := by
  simp [step, h]

end Sys2Proof.Machine
end

