-- ==== Sys2Proof/Laws/Ops.lean ====
section
/-! SUPPORT. What the shared operations can change: for each, once, the fields it writes, so that a proof cites the lemma and does not
unfold the operation. -/

namespace Sys2Proof.Machine

/-! ### Interrupts, events and the journal -/

theorem State.raiseVec_frame (s : State) (p v : Nat) : ∃ hs, s.raiseVec p v = { s with hosts := hs } := ⟨_, rfl⟩

theorem State.attend_frame (s : State) (p b : Nat) : ∃ hs, s.attend p b = { s with hosts := hs } := by
  unfold State.attend
  dsimp only
  split
  · exact ⟨s.hosts, rfl⟩
  · exact ⟨_, rfl⟩

/-- Attention of the ports whose rings name a partition, as a record of it raises. -/
theorem State.attendAll_frame (part b : Nat) : ∀ (ps : List Nat) (s : State),
    ∃ hs, ps.foldl (fun s p => if part ∈ s.portParts p then s.attend p b else s) s = { s with hosts := hs }
  | [], s => ⟨s.hosts, rfl⟩
  | p :: ps, s => by
    obtain ⟨hs, h⟩ : ∃ hs, (if part ∈ s.portParts p then s.attend p b else s) = { s with hosts := hs } := by
      split
      · exact State.attend_frame s p b
      · exact ⟨s.hosts, rfl⟩
    rw [List.foldl_cons, h]
    exact State.attendAll_frame part b ps _

theorem State.event_frame (s : State) (code : Byte) (idx sub : Nat) (seq : W32) :
    ∃ m n, s.event code idx sub seq = { s with mgmt := m, free := n } := by
  unfold State.event
  split
  · exact ⟨_, _, rfl⟩
  · exact ⟨s.mgmt, s.free, rfl⟩

/-- The hub after a record: only the journal and its counts differ, and the ring stays within 8,192 records. -/
theorem Hub.journal_bound {j : List JournalRec} (r : JournalRec) (h : j.length ≤ 8192) :
    ((if j.length ≥ 8192 then j.drop 1 else j) ++ [r]).length ≤ 8192 := by
  split <;> simp <;> omega

/-- A record changes the journal and its counts, the ports it draws attention at, and the frames sent. -/
theorem State.journal_frame (s : State) (code : Byte) (part sk si : Nat) (tag : BitVec 16) (st addr : W32) (d : W64) :
    ∃ j q o iq a ac ai hs m n, s.journal code part sk si tag st addr d =
      { s with hub := { s.hub with journal := j, seq := q, overwritten := o, islandQ := iq, unacked := a, arrayChecks := ac,
                                   arrayInfs := ai }, hosts := hs, mgmt := m, free := n } ∧
      (s.hub.journal.length ≤ 8192 → j.length ≤ 8192) := by
  unfold State.journal
  dsimp only
  split
  · obtain ⟨hs, h⟩ := State.attendAll_frame part 0 (List.range 2) _
    rw [h]
    obtain ⟨m, n, e⟩ := State.event_frame _ code 0xB000 2 (s.hub.seq + 1)
    rw [e]
    exact ⟨_, _, _, _, _, _, _, hs, m, n, rfl, Hub.journal_bound _⟩
  · exact ⟨_, _, _, _, _, _, _, s.hosts, s.mgmt, _, rfl, Hub.journal_bound _⟩

theorem State.dropDownload_frame (s : State) : ∃ m, s.dropDownload = { s with maint := m } := by
  unfold State.dropDownload
  split
  · exact ⟨s.maint, rfl⟩
  · exact ⟨_, rfl⟩

/-- A trace record, or a drop and the record of it. -/
theorem State.traceEv_frame (s : State) (c en : Nat) (tag : BitVec 16) (slot event : Nat) (data : W32) :
    ∃ h hs m n, s.traceEv c en tag slot event data = { s with hub := h, hosts := hs, mgmt := m, free := n } := by
  unfold State.traceEv
  dsimp only
  split
  · split
    · exact ⟨_, s.hosts, s.mgmt, _, rfl⟩
    · split
      · obtain ⟨_, _, _, _, _, _, _, hs, m, n, e, _⟩ := State.journal_frame
          (s.updHub fun h => { h.ask 4 (s.hub.tenantAt (s.core c).part c) with
            traceDrops := Sparse.set h.traceDrops 0 (s.core c).part (Sparse.get s.hub.traceDrops 0 (s.core c).part + 1) })
          eTraceDrop (s.core c).part 0 c tag (s.core c).stepno 0 1
        rw [e]
        exact ⟨_, hs, m, n, rfl⟩
      · exact ⟨_, s.hosts, s.mgmt, s.free, rfl⟩
  · exact ⟨s.hub, s.hosts, s.mgmt, s.free, rfl⟩

/-! ### Core faults, counters and ledgers -/

theorem CoreState.coreFault_frame (k : CoreState) (code : Byte) (tag : BitVec 16) (addr : W32) (d : W64) :
    ∃ q st h, k.coreFault code tag addr d = { k with faultQ := q, st := st, hint := h } := by
  unfold CoreState.coreFault
  dsimp only
  split
  · exact ⟨_, k.st, k.hint, rfl⟩
  · exact ⟨_, _, _, rfl⟩

theorem CoreState.addAc_frame (k : CoreState) (i n : Nat) (tag : BitVec 16) (dir : Nat) :
    ∃ ac w q st h, k.addAc i n tag dir = { k with ac := ac, win := w, faultQ := q, st := st, hint := h } := by
  unfold CoreState.addAc
  dsimp only
  split
  · split
    · exact ⟨_, k.win, k.faultQ, k.st, k.hint, rfl⟩
    · exact ⟨_, _, k.faultQ, k.st, k.hint, rfl⟩
  · obtain ⟨q, st, h, e⟩ := CoreState.coreFault_frame
      ((if min (k.getDebt i) n = 0 then k else k.putDebt i (k.getDebt i - min (k.getDebt i) n)).putAc i (2 ^ 24 - 1))
      fCoreCounter tag 0 (BitVec.ofNat 64 (i + 256 * dir))
    rw [e]
    split
    · exact ⟨_, k.win, _, _, _, rfl⟩
    · exact ⟨_, _, _, _, _, rfl⟩

theorem CoreState.rollback_frame (k : CoreState) (i n : Nat) : ∃ ac w, k.rollback i n = { k with ac := ac, win := w } := ⟨_, _, rfl⟩

theorem CoreState.ledgerOut_frame (k : CoreState) (t i n : Nat) :
    ∃ l b, k.ledgerOut t i n = { k with outLedger := l, noReplay := b } := by
  unfold CoreState.ledgerOut
  dsimp only
  split
  · exact ⟨_, k.noReplay, rfl⟩
  · exact ⟨k.outLedger, _, rfl⟩

theorem CoreState.ledgerCons_frame (k : CoreState) (key n : Nat) :
    ∃ l b, k.ledgerCons key n = { k with consLedger := l, noReplay := b } := by
  unfold CoreState.ledgerCons
  dsimp only
  split
  · exact ⟨_, k.noReplay, rfl⟩
  · exact ⟨k.consLedger, _, rfl⟩

theorem CoreState.getAc_putAc_self (k : CoreState) (i v : Nat) (h : v < 2 ^ 24) : (k.putAc i v).getAc i = v := by
  simpa [CoreState.getAc, CoreState.putAc] using h

theorem CoreState.getAc_putAc_ne (k : CoreState) {i j : Nat} (v : Nat) (h : j ≠ i) : (k.putAc i v).getAc j = k.getAc j := by
  simp [CoreState.getAc, CoreState.putAc, Sparse.get_set_ne _ _ _ _ h]

theorem CoreState.getTok_putTok_self (k : CoreState) (i v : Nat) (h : v < 256) : (k.putTok i v).getTok i = v := by
  simpa [CoreState.getTok, CoreState.putTok] using h

/-! ### Queues -/

@[simp] theorem CoreState.updEntry_length (k : CoreState) (id : Nat) (f : QEntry → QEntry) :
    (k.updEntry id f).queue.length = k.queue.length := by simp [CoreState.updEntry]

theorem CoreState.finish_frame (k : CoreState) (id : Nat) (f : Byte) (e : BitVec 16) (d : W64) :
    ∃ q, k.finish id f e d = { k with queue := q } ∧ q.length = k.queue.length := ⟨_, rfl, by simp⟩

theorem CoreState.addTok_bound (k : CoreState) (ch n : Nat) : (k.addTok ch n).1.getTok ch ≤ 255 := by
  have h : min (k.getTok ch + n) 255 < 256 := by omega
  show (k.putTok ch (min (k.getTok ch + n) 255)).getTok ch ≤ 255
  rw [CoreState.getTok_putTok_self _ _ _ h]
  omega

/-! ### Scratchpad and tiles -/

theorem CoreState.spWrite_frame : ∀ (fuel : Nat) (k : CoreState) (a : Nat) (bs : List Byte),
    ∃ m b, (k.spWrite fuel a bs).1 = { k with sp := m, badLanes := b }
  | 0, k, _, _ => ⟨k.sp, k.badLanes, rfl⟩
  | fuel + 1, k, a, bs => by
    unfold CoreState.spWrite
    dsimp only
    split
    · exact ⟨k.sp, k.badLanes, rfl⟩
    · split
      · exact ⟨k.sp, k.badLanes, rfl⟩
      · obtain ⟨m, b, h⟩ := CoreState.spWrite_frame fuel
          (CoreState.cleanLanes { k with sp := Memory.writeL k.sp a (bs.take (min bs.length (64 - a % 64))) } a (min bs.length (64 - a % 64)))
          (a + min bs.length (64 - a % 64)) (bs.drop (min bs.length (64 - a % 64)))
        exact ⟨m, b, h⟩

/-- A run of bytes keeps the scratchpad in canonical form. -/
theorem CoreState.spWrite_wf : ∀ (fuel : Nat) (k : CoreState) (a : Nat) (bs : List Byte), Memory.wf k.sp = true →
    Memory.wf (k.spWrite fuel a bs).1.sp = true
  | 0, _, _, _, h => h
  | fuel + 1, k, a, bs, h => by
    unfold CoreState.spWrite
    dsimp only
    split
    · exact h
    · split
      · exact h
      · exact CoreState.spWrite_wf fuel _ _ _ (Memory.wf_writeL _ _ h)

theorem CoreState.putLane_frame (k : CoreState) (t : TileId) (i : Nat) (v : Int) (x : LaneSt) :
    ∃ w, k.putLane t i v x = { k with win := w } := ⟨_, rfl⟩

@[simp] theorem CoreState.tile_setTile_self (k : CoreState) (t : TileId) (v : Tile) : (k.setTile t v).tile t = v := by
  cases t <;> rfl

/-! ### Completions -/

/-- A completion written: the rings, their contents and the commands outstanding, and the interrupt of its port. -/
theorem State.postNow_frame (s : State) (w : CqWait) :
    ∃ rs cqs cs hs n, s.postNow w = { s with hub := { s.hub with rings := rs, cqs := cqs, cmds := cs }, hosts := hs, free := n } := by
  unfold State.postNow
  dsimp only
  split
  · exact ⟨_, _, _, _, _, rfl⟩
  · exact ⟨_, s.hub.cqs, _, s.hosts, s.free, rfl⟩

/-- A completion posted or kept waiting. -/
theorem State.post_frame (s : State) (w : CqWait) :
    ∃ rs cqs cs ws hs n, s.post w =
      { s with hub := { s.hub with rings := rs, cqs := cqs, cmds := cs, cqWait := ws }, hosts := hs, free := n } := by
  unfold State.post
  split
  · obtain ⟨rs, cqs, cs, hs, n, h⟩ := State.postNow_frame s w
    exact ⟨rs, cqs, cs, s.hub.cqWait, hs, n, h⟩
  · exact ⟨s.hub.rings, s.hub.cqs, _, _, s.hosts, s.free, rfl⟩

theorem State.finishCmd_frame (s : State) (o : OutCmd) (a : Answer) :
    ∃ rs cqs cs ws hs n, s.finishCmd o a =
      { s with hub := { s.hub with rings := rs, cqs := cqs, cmds := cs, cqWait := ws }, hosts := hs, free := n } :=
  State.post_frame s _

/-! ### Row operations at a macro -/

/-- A row write of the path answers, and changes no macro but its own. -/
theorem State.rowOp_write_frame (s : State) (c m : Nat) (by_ : Writer) (row : BitVec 12) (mask : BitVec 16) (d : BitVec 4096) (x : W128) :
    ∃ v rp, s.rowOp c m (.write by_ row mask d x) = { s.setMac c m v with reply := rp } ∨
      s.rowOp c m (.write by_ row mask d x) = { s with reply := rp } := by
  unfold State.rowOp
  dsimp only
  split
  · exact ⟨_, _, .inl rfl⟩
  · exact ⟨s.mac c m, _, .inr rfl⟩

end Sys2Proof.Machine
end

