-- ==== Sys2Proof/Tests/Slice0.lean ====
section
/-! SUPPORT. The author's own tests: for every statement with hypotheses a state and operands that meet them, clause by clause; an
ill-formed term for each check of WellFormed; and worked examples of the spec. -/

namespace Sys2Proof.Tests
open Sys2Proof Sys2Proof.Machine
set_option Elab.async false

/-! ## Builders of small states -/

/-- The machine after reset. -/
def rst : State := State.reset
/-- The option holds a value, and p is true of it. -/
def opt {α : Type} (l : Option α) (p : α → Bool) : Bool := match l with | some x => p x | none => false
/-- The computation succeeds, and p is true of its value. -/
def okv {ε α : Type} (l : Except ε α) (p : α → Bool) : Bool := match l with | .ok x => p x | .error _ => false
/-- The computation fails. -/
def errs {ε α : Type} (l : Except ε α) : Bool := match l with | .ok _ => false | .error _ => true
/-- The state a command answers. -/
def after (o : Out) : State := match o with | .next t => t | _ => rst

def withCore (f : CoreState → CoreState) : State := State.reset.setCore 0 (f (State.reset.core 0))
def withMac (f : MacroState → MacroState) : State := State.reset.setMac 0 0 (f (State.reset.mac 0 0))
/-- A command slot of an opcode and fields (low bit, value). -/
def slot (opc : Nat) (fs : List (Nat × Nat)) : W128 := BitVec.ofNat 128 (opc * 2 ^ 120 + (fs.map fun f => f.2 * 2 ^ f.1).sum)
/-- A waiting queue entry of an engine. -/
def ent (e : Eng) (w : W128) (hs : Sparse W128 := []) (p0 p1 : W64 := 0) : QEntry :=
  { id := 5, eng := e, tag := 7, addr := 0, slot := w, xr2 := 0, xr1 := 0, xr0 := 0, par0 := p0, par1 := p1, handles := hs,
    inStep := false, st := .waiting, detail := 0 }
/-- A core that runs and whose 48 regions belong to partition 0. -/
def owned (k : CoreState) : CoreState :=
  { k with owner := some 0, st := .run,
           win := (List.range 48).foldl (fun w r => Win.putN w (0x040B0200 + 4 * r) 4 (2 ^ 31)) k.win }
def queued (q : QEntry) : State := withCore fun k => { owned k with queue := [q] }
def part0 (s : State) : State := { s with hub := { s.hub with parts := [(0, { Partition.reset with st := 1, cores := 1 })] } }
/-- The core with an APT entry of an element log and levels. -/
def apt (p elog : Nat) (lv : List (Nat × Nat)) (k : CoreState) : CoreState :=
  let w0 := Win.putN (Win.putN k.win (0x04090000 + 0x40 * p) 1 elog) (0x04090000 + 0x40 * p + 1) 1 lv.length
  { k with win := lv.zipIdx.foldl (fun (w : Memory) (x : (Nat × Nat) × Nat) =>
      Win.putN (Win.putN w (0x04090000 + 0x40 * p + 4 + 8 * x.2) 2 x.1.1) (0x04090000 + 0x40 * p + 8 + 8 * x.2) 4 x.1.2) w0 }
def src0 (k : CoreState) : CoreState :=
  { k with sp := Memory.writeL k.sp 0x1000 ((List.range 256).map fun i => BitVec.ofNat 8 (i + 1)) }
/-- A core whose queue holds one command, with two access patterns and source bytes. -/
def cmdS (q : QEntry) (f : CoreState → CoreState := id) : State :=
  part0 (withCore fun k => f { owned (src0 (apt 0 2 [(4, 4)] (apt 1 2 [(4, 4)] k))) with queue := [q] })
def rights (n : Nat) (s : State) : State :=
  { s with hub := { s.hub with parts := [(0, { Partition.reset with st := 1, cores := 1, rights := BitVec.ofNat _ n })] } }
/-- Partition 0 with one commons bank. -/
def commons (s : State) : State :=
  { s with hub := ({ s.hub with parts := [(0, { Partition.reset with st := 1, cores := 1, cbanks := 1 })] }).setOwner 5 (some 0) }
/-- A core whose instruction bank 0 holds words. -/
def wordCore (ws : List Nat) (f : CoreState → CoreState := id) : State :=
  withCore fun k => f { owned k with ib0 := (List.range ws.length).zip (ws.map (BitVec.ofNat 32)), x := [(1, 4)] }
def hdr (slots w0 w1 sg src tag : Nat) : Nat :=
  slots * 2 ^ 58 + w0 * 2 ^ 50 + w1 * 2 ^ 42 + sg * 2 ^ 34 + src * 2 ^ 31 + slotsLen slots * 2 ^ 25 + tag
def words64 (h : Nat) : List Nat := [h % 2 ^ 32, h / 2 ^ 32]

/-- No core of the state has a lane of bad parity. -/
theorem sound_lanes (s : State) (h : (s.cores.all fun e => decide (e.2.badLanes = [])) = true) : ∀ d : Nat, (s.core d).badLanes = [] := by
  intro d
  unfold State.core Sparse.get
  cases hf : Sparse.find? s.cores d with
  | none => rfl
  | some v =>
    have key : ∀ l : Sparse CoreState, (l.all fun e => decide (e.2.badLanes = [])) = true → Sparse.find? l d = some v → v.badLanes = [] := by
      intro l
      induction l with
      | nil => intro _ h2; cases h2
      | cons a l ih =>
        intro h1 h2
        obtain ⟨j, w⟩ := a
        simp only [List.all_cons, Bool.and_eq_true, decide_eq_true_eq] at h1
        unfold Sparse.find? at h2
        split at h2
        · cases h2; exact h1.1
        · exact ih h1.2 h2
    exact key _ h hf

/-! ## Builders of the hub's states -/

def code1 : List W32 := (words64 (hdr 33 0 0 0 0 9) ++ [0, 0x3E000000, 0, 0x04000000]).map (BitVec.ofNat 32)
/-- The bytes of an image: header, section table, and at multiples of 64 its sections, each with its type, logical core and length. -/
def imgBytes (secs : List (Nat × Nat × List Byte)) : List Byte :=
  let n := secs.length
  let start := (64 + 16 * n + 63) / 64 * 64
  let place := secs.foldl (fun (r : Nat × List Byte × List Byte) x =>
      let pad := List.replicate ((64 - x.2.2.length % 64) % 64) (0 : Byte)
      (r.1 + x.2.2.length + pad.length,
       r.2.1 ++ [BitVec.ofNat 8 x.1, BitVec.ofNat 8 x.2.1, 0, 0] ++ leBytes 4 r.1 ++ leBytes 4 x.2.2.length ++ leBytes 4 (crc32 x.2.2),
       r.2.2 ++ x.2.2 ++ pad)) (start, [], [])
  let head := leBytes 4 0x51584931 ++ [0, 1] ++ leBytes 2 n ++ leBytes 8 0 ++ [1, 1, 1, 4] ++ leBytes 4 place.1 ++ List.replicate 36 0
  head ++ leBytes 4 (crc32 head) ++ place.2.1 ++ List.replicate (start - 64 - 16 * n) 0 ++ place.2.2
/-- Sections of an image of one logical core, one word and one step, with `extra` bytes in its MANIFEST; the zeros that end its BUCKETS
section are left out of its length, to keep the checksums short. -/
def secs1 (extra : Nat) : List (Nat × Nat × List Byte) :=
  [(1, 0, code1.flatMap fun w => leBytes 4 w.toNat), (9, 0, []), (4, 255, List.replicate extra 7),
   (5, 255, [0, 1, 1, 0]), (6, 255, leBytes 4 1 ++ leBytes 4 1)]
def listed1 : Listed :=
  { handles := [], datainit := [], tables := [], pads := [], steps := [{ lcore := 0, first := 0, last := 0, inputs := [] }],
    manifest := { res := [{ macros := 0, regions := 1, words := 6 }], commons := 0, lpddr := 0, slots := 1, mergeJobs := 0,
                  sync := [{ lcore := 0, flags := 0, counters := 0, channels := 1, acexp := [], flagInit := 0, acInit := [] }],
                  bars := [], arrv := [], regb := [], atomic := false } }
/-- A state whose partition 0 holds the image bytes at the start of its region. -/
def withImg (bs : List Byte) (s : State) : State := { s with ext := s.ext.setRegion 0 (((List.range bs.length).zip bs).filter fun e => e.2 ≠ 0) }
def imgLen (extra : Nat) : Nat := (imgBytes (secs1 extra)).length
/-- The image read back; with bytes in MANIFEST it is another image, a full replacement. -/
def img1 : Image := (withImg (imgBytes (secs1 0)) rst).imageAt 0 0 listed1
def ring0 : Ring := { Ring.reset with en := true, sqTail := 5, cqLog := 4 }
/-- A hub in service with partition 0 on core 0 and ring 0 enabled. -/
def hubS : State :=
  let s := rst.updHub fun h => { h with
    inService := true, admitting := true, rings := [(0, ring0)],
    parts := [(0, { Partition.reset with st := 1, cores := 1, tcount := 4, squota := 8, pmin := 1000, lpsize := 2 ^ 30 })] }
  (s.setCore 0 { owned (s.core 0) with st := .idle }).setDie 0 { s.die 0 with reg := .on, inReset := false }
/-- A host command of an opcode and fields (offset, bytes, value). -/
def cmd (opc : Nat) (fs : List (Nat × Nat × Nat)) : HostCmd :=
  { opc := BitVec.ofNat 8 opc, flags := 0, tenant := 1, tag := 77, ops := leBytes 56 ((fs.map fun f => f.2.2 * 256 ^ (f.1 - 8)).sum) }
def out (c : HostCmd) : OutCmd := { id := 3, ring := 0, cmd := c, taken := false }
def withCmd (c : HostCmd) (s : State) : State :=
  s.updHub fun h => { h with cmds := [out c], rings := [(0, { h.ring 0 with reserved := 1, sqHead := 1 })] }
def prog1 : Program :=
  { handle := 9, part := 0, tenant := 1, st := .ready, img := img1, lcores := [0], bank := false, newImg := none, slots := 1,
    slotUse := [], seq := 0, shadows := 1, order := 0, ring := 0, cmdId := 3 }
def withProg (g : Program) (s : State) : State := s.updHub fun h => { h with programs := [g] }
/-- A running invocation of the program for stream 0. -/
def inv1 : Invocation :=
  { prog := 9, seq := 0, streams := [0], est := 1, start := [], busy := [0], dones := [], granted := [], nsteps := 2, code := 0, fault := none, spec := false }

/-! ## Builders of frames and sessions -/

def ses (role : Nat) : Session := { src := 5, role := role, num := 7, key := [1, 2, 3], ctrIn := 4, ctrOut := 9 }
def withSes (role : Nat) (s : State) (slot : Nat := 0) : State :=
  { s with mgmt := { s.mgmt with up := true, sessions := [(slot, ses role)] } }
/-- A request to the Q25 of an operation, object, type and data, in session 7 with counter 5. -/
def frame0 (op idx sub ty : Nat) (data : List Byte) (service : Bool := false) : Frame :=
  { service := service, srcAddr := 5, dstAddr := Config.macAddr, ver := 1, op := BitVec.ofNat 8 op, seq := 3, session := 7, status := 0,
    flags := 4, index := BitVec.ofNat 16 idx, sub := BitVec.ofNat 8 sub, type := BitVec.ofNat 8 ty, offset := 0,
    len := BitVec.ofNat 16 data.length, rsvd := 0, ctr := 5, data := data, tag := [] }
/-- A frame outside a session, without a tag. -/
def plain (f : Frame) : Frame := { f with session := 0, ctr := 0, flags := 0 }
/-- The frame with the tag of the session's key. -/
def signed_ (f : Frame) : Frame := { f with tag := tagOf [1, 2, 3] f.dstAddr f.srcAddr (frameHeader f) f.data }
/-- A WRITE of an object's whole value. -/
def wframe (idx sub : Nat) (data : List Byte) : Frame := signed_ (frame0 2 idx sub ((findObj idx sub).map (·.type) |>.getD 0) data)

theorem tagOf_length (k : List Byte) (d x : BitVec 48) (h b : List Byte) : (tagOf k d x h b).length = 16 := by
  simp [tagOf, hmac, leBytes]

/-- A signed frame of the session in a slot is a request. -/
theorem signed_requests {s : State} {f : Frame} {slot : Nat} {x : Session} (up : s.mgmt.up = true) (dst : f.dstAddr = Config.macAddr)
    (len : f.data.length = f.len.toNat) (flags : f.flags = 4) (num : f.session ≠ 0) (here : s.mgmt.sessionOf f = some (slot, x))
    (key : x.key = [1, 2, 3]) (ctr : x.ctrIn.toNat < f.ctr.toNat) (good : frameBad f = false) : s.requests (signed_ f) slot x := by
  refine ⟨?_, num, here, ?_, good⟩
  · simp [State.receives, signed_, up, dst, len, flags, tagOf_length, bitOf, bit]
  · simp [Session.accepts, signed_, flags, key, ctr, frameHeader, bitOf, bit]

/-- What a signed frame of frame0 needs beside its tag. -/
def requestB (s : State) (f : Frame) (slot : Nat) (x : Session) : Bool :=
  s.mgmt.up && decide (f.data.length = f.len.toNat) && decide (f.flags = 4) && decide (f.session ≠ 0) &&
    decide (s.mgmt.sessionOf f = some (slot, x)) && decide (x.key = [1, 2, 3]) && decide (x.ctrIn.toNat < f.ctr.toNat) && !frameBad f

theorem requests_of_check {s : State} {f : Frame} {slot : Nat} {x : Session} (h : requestB s f slot x = true) (dst : f.dstAddr = Config.macAddr) :
    s.requests (signed_ f) slot x := by
  simp only [requestB, Bool.and_eq_true, decide_eq_true_eq, Bool.not_eq_true'] at h
  obtain ⟨⟨⟨⟨⟨⟨⟨a, b⟩, c⟩, d⟩, e⟩, g⟩, i⟩, j⟩ := h
  exact signed_requests a dst b c d e g i j

/-- What State.grants asks beside the request. -/
def grantB (s : State) (f : Frame) (slot : Nat) (x : Session) : Bool :=
  requestB s f slot x && decide (f.op = 2) && decide (f.offset = 0) && !bitOf f.flags 1 &&
    decide ((s.heard f slot x).judge (frameWho f slot x) f.index.toNat f.sub.toNat true = 0) &&
    !s.mgmt.stagedElsewhere slot (objKey f.index.toNat f.sub.toNat) &&
    opt (findObj f.index.toNat f.sub.toNat) fun o => decide (f.type.toNat = o.type) && decide (valueBad o f.data = 0)

theorem grants_of_check {s : State} {f : Frame} {slot : Nat} {x : Session} (h : grantB s f slot x = true) (dst : f.dstAddr = Config.macAddr) :
    ∃ o, s.grants (signed_ f) slot x o := by
  simp only [grantB, Bool.and_eq_true, decide_eq_true_eq, Bool.not_eq_true'] at h
  obtain ⟨⟨⟨⟨⟨⟨a, b⟩, c⟩, d⟩, e⟩, g⟩, i⟩ := h
  unfold opt at i
  split at i
  · rename_i o ho
    simp only [Bool.and_eq_true, decide_eq_true_eq] at i
    exact ⟨o, requests_of_check a dst, b, ho, i.1, c, d, e, g, i.2⟩
  · cases i

/-! ## Builders of power states -/

def pw (f : Power → Power) (s : State := hubS) : State := { s with power := f s.power }
def ps (st : PkgState) : State := pw fun p => { p with st := st }
/-- The package after the bus came up, in UP(1), and after the six steps, in ON. -/
def chain : State := after (exec .busInRegulation (pw (fun p => { p with st := .up 0, mgmtRef := true, busTested := true }) rst))
def onState : State := (List.range 6).foldl (fun s _ => after (exec .dieStepComplete s)) chain
def dS (d : Nat) (f : DieState → DieState) (s : State := onState) : State := s.setDie d (f (s.die d))

/-! ## Witnesses: macros and the array engine -/

def busyMac : State := withMac fun k => { k with repairBusy := true }
def passMac : State := withMac fun k => { k with passActive := true }
def heldMac : State := withMac fun k => { k with held := [.read 3] }
def armedMac : State := withMac fun k => { k with st := .armed, rowsWritten := true }
/-- A row that fails R23 in its first group, with its image in the weight shadow. -/
def badRow : State :=
  let s := withMac fun k => { k with rows := [(5, { main := { data := 3, check := 1 }, spare := 0 })] }
  { s with ext := { s.ext with shadow := [(shadowKey 0 0 5, 77), (shadowKey 0 0 0x80F, 78)] } }

/-- MacroRowOperations: a macro that takes rows at the last row, a row that fails with its shadow, a macro in repair, one with something
held, one in a pass, the first row outside, an OFFLINE macro. -/
theorem wit_MacroRowOperations :
    ((rst.mac 0 0).takesRows ∧ (0x80F : BitVec 12).toNat < 0x810 ∧ (rst.mac 0 0).failing 0x80F = []) ∧
    ((badRow.mac 0 0).st = .loading ∧ (badRow.mac 0 0).repairBusy = false ∧ (badRow.mac 0 0).held = [] ∧
      (badRow.mac 0 0).failing 5 ≠ [] ∧ (badRow.mac 0 0).failedRows = [] ∧ (badRow.mac 0 0).passActive = false ∧
      badRow.shadowRow 0 0 5 = some 77) ∧
    (busyMac.mac 0 0).repairBusy = true ∧ (heldMac.mac 0 0).held ≠ [] ∧ (passMac.mac 0 0).passActive = true ∧
    (0x810 ≤ (0x810 : BitVec 12).toNat ∧ (rst.mac 0 0).passActive = false ∧ (rst.mac 0 0).repairBusy = false ∧
      (rst.mac 0 0).held = []) ∧
    ((0x80F : BitVec 12).toNat < 0x810 ∧ ((rst.mac 0 64).st = .offline ∨ (rst.mac 0 64).st = .retired) ∧
      (rst.mac 0 64).passActive = false ∧ (rst.mac 0 64).repairBusy = false ∧ (rst.mac 0 64).held = []) := by
  unfold MacroState.takesRows
  decide +kernel

/-- RowWriteStoresAndChecks: the last row, a bit and another row at the ends of their ranges, and a macro without RAW_WRITE. -/
theorem wit_RowWriteStoresAndChecks :
    2063 < 0x810 ∧ 4095 < 4096 ∧ 0 < 0x810 ∧ 0 ≠ 2063 ∧ (rst.mac 0 0).rawWrite = false ∧ (0xFFFF#16 : BitVec 16) = 0xFFFF#16 := by
  decide +kernel

/-- A sparse macro whose metadata hold a reserved pattern. -/
def sparseBad : State := withMac fun k => { k with sparse := true, rows := [(2048, { main := { data := 15, check := 0 }, spare := 0 })] }

/-- MacroConfigurationAndState: each writer and each macro state of its clauses. -/
theorem wit_MacroConfigurationAndState :
    (Instr.mgselWrite 0 0 .program 1 ∈ [Instr.mgselWrite 0 0 .program 1, .mcoefWrite 0 0 .program 0 1]) ∧
    (Writer.loader ≠ Writer.program ∧ (rst.mac 0 0).st = .loading ∧ (rst.mac 0 64).st = .offline ∧ (armedMac.mac 0 0).st = .armed) ∧
    fld (0x00010000 : W32) 17 16 ≠ (armedMac.mac 0 0).wfmt.toNat ∧
    ((rst.mac 0 0).held = [] ∧ (rst.mac 0 64).held = [] ∧ fld (0x40018000 : W32) 31 30 = 1) ∧
    ((withMac fun k => { k with checkStale := true }).mac 0 0).checkStale = true ∧
    ((rst.mac 0 0).checkStale = false ∧ (rst.mac 0 0).sparse = false) ∧
    ((sparseBad.mac 0 0).st = .loading ∧ (sparseBad.mac 0 0).checkStale = false ∧ (sparseBad.mac 0 0).sparse = true ∧
      (sparseBad.mac 0 0).metaErrors.1 = true) ∧
    ((armedMac.mac 0 0).passActive = false ∧ (armedMac.mac 0 0).held = []) ∧
    (((withMac fun k => { k with st := .armed, passActive := true }).mac 0 0).passActive = true ∧
      ((withMac fun k => { k with st := .retired }).mac 0 0).st = .retired ∧ Writer.loader ≠ Writer.arbiter ∧
      (heldMac.mac 0 0).held ≠ []) := by decide +kernel

def swapS : State :=
  let s := (after (exec (.stateToArmed 0 0 .loader) rst)).updHub fun h => { h with swapDue := [macKey 0 0] }
  s.setCore 0 { s.core 0 with st := .held }

/-- MacroRepairAndSwap: a sweep and none, a repair with a spare row left, in a pass too, one without a spare, its end with the row's
shadow, and a swap with a spare macro on a core at rest, on one that runs, and one that is not due. -/
theorem wit_MacroRepairAndSwap :
    (((withMac fun k => { k with recheckBusy := true }).mac 0 0).recheckBusy = true ∧
      ((withMac fun k => { k with recheckBusy := true }).mac 0 0).sparse = false ∧ (rst.mac 0 0).recheckBusy = false) ∧
    ((armedMac.mac 0 0).st = .armed ∧ (armedMac.mac 0 0).repairBusy = false ∧ repairNames (.row 5) = true ∧
      opt ((armedMac.mac 0 0).fitSpare (.row 5)) (fun _ => true) ∧ (armedMac.mac 0 0).passActive = false ∧
      ((withMac fun k => { k with st := .armed, passActive := true }).mac 0 0).passActive = true) ∧
    (((withMac fun k => { k with st := .armed, mrepRow := [(0, 0x80000007)] }).mac 0 0).fitSpare (.row 5) = none ∧
      repairNames (.column 0 263) = true ∧ repairNames (.column 0 264) = false) ∧
    (let s := { badRow with macros := (badRow.setMac 0 0 { badRow.mac 0 0 with repairBusy := true, repairing := some (.row 5) }).macros }
     (s.mac 0 0).repairing = some (.row 5) ∧ (s.mac 0 0).passActive = false ∧ (s.mac 0 0).held = [] ∧ s.shadowRow 0 0 5 = some 77 ∧
      s.shadowRow 0 0 (0x800 + (15 : Fin 16).val) = some 78) ∧
    (swapS.rebindHolds 0 = false ∧ macKey 0 0 ∈ swapS.hub.swapDue ∧ (swapS.core 0).atRest = true ∧ swapS.spareMacro 0 = some 64 ∧
      (64 : Nat) ≠ (0 : MacId).val ∧ (swapS.mac 0 0).st = .armed ∧ (swapS.mac 0 0).passActive = false ∧ (swapS.mac 0 0).held = [] ∧
      (swapS.core 0).ammap 63 = some 63 ∧ (swapS.core 0).ammap 0 = some (0 : MacId).val) ∧
    (let s := swapS.setCore 0 { swapS.core 0 with st := .run }
     (s.core 0).atRest = false ∧ (s.core 0).st = .run) ∧ macKey 0 0 ∉ rst.hub.swapDue := by decide +kernel

/-- ArrayCommandsEnterQueue: room for one pass command, with 31 of 32 places taken, on a core that issues; no room, and a core in IDLE. -/
theorem wit_ArrayCommandsEnterQueue :
    (let s := withCore fun k => { k with st := .run, queue := List.replicate 31 (ent .aePass 0) }
     s.issuing 0 ∧ (s.core 0).room .aePass 1 = true) ∧
    ((withCore fun k => { k with st := .run, queue := List.replicate 32 (ent .aePass 0) }).core 0).room .aePass 1 = false ∧
    (rst.core 0).mayIssue = false ∧ (Instr.apass 0 9 5, Eng.aePass) ∈ [(Instr.apass 0 9 5, Eng.aePass), (.apred 0 9 5, .aePass)] := by
  unfold State.issuing
  decide +kernel

def passSlot (retry : Nat := 0) (acc : Nat := 0) : W128 := slot 0x40 [(105, acc), (102, 7), (101, 1), (95, retry), (32, 0x1000)]
def armed00 (s : State) : State := s.setMac 0 0 { s.mac 0 0 with st := .armed }
def passHead : State := armed00 (queued (ent .aePass passSlot))
def staged : State := after (exec (.passCmdAtHead 0) passHead)
def passing : State := after (exec (.passRelease 0) staged)
def planesDone : State := (List.range 8).foldl (fun s _ => after (exec (.planeComplete 0) s)) passing
def retryDue : State :=
  passing.updCore 0 fun k => { k with pass := k.pass.map fun r => { r with phase := .retryDue },
                                      queue := [{ ent .aePass (passSlot 1) with st := .executing }] }
/-- The same retry with the source's parity bad. -/
def retryBad : State := retryDue.updCore 0 fun k => { k with badLanes := [(0x1000 / 8, true)] }
/-- What a pass command at the head has passed before its tile is looked at. -/
def passSound (s : State) (q : QEntry) : Bool :=
  decide ((s.core 0).nextStart .aePass = some q) && decide ((s.core 0).xlat = none) && !(passFieldBad q.slot) &&
    opt ((s.core 0).translate (pcMb q.slot) (pcK q.slot * pcN q.slot)) fun ms =>
      decide (s.blockFault 0 ms (pcN q.slot) = 0) &&
      decide (s.checkOps 0 false (passOperands q (s.mac 0 (ms.headD 0)).wfmt.toNat (s.mac 0 (ms.headD 0)).sparse) = 0)

/-- PassCommandLife, a command at the head: its fields, its translation, its block and its operands fail in turn; it passes with its tile
EMPTY, in use and FULL. -/
theorem wit_PassCommandLife_head :
    (let q := ent .aePass (slot 0x40 [(111, 7)]); let s := queued q
     (s.core 0).nextStart .aePass = some q ∧ (s.core 0).xlat = none ∧ passFieldBad q.slot = true) ∧
    (let q := ent .aePass passSlot
     let s := (queued q).updCore 0 fun k => { k with win := Win.write k.win 0x040C0000 0 }
     (s.core 0).nextStart .aePass = some q ∧ passFieldBad q.slot = false ∧
      (s.core 0).translate (pcMb q.slot) (pcK q.slot * pcN q.slot) = none) ∧
    (let q := ent .aePass passSlot; let s := queued q
     opt ((s.core 0).translate (pcMb q.slot) (pcK q.slot * pcN q.slot)) fun ms => decide (s.blockFault 0 ms (pcN q.slot) ≠ 0)) = true ∧
    (let q := ent .aePass (slot 0x40 [(102, 7), (32, 0x3FFFFFFF)]); let s := armed00 (queued q)
     !passFieldBad q.slot && opt ((s.core 0).translate (pcMb q.slot) (pcK q.slot * pcN q.slot)) fun ms =>
      decide (s.blockFault 0 ms (pcN q.slot) = 0) &&
      decide (s.checkOps 0 false (passOperands q (s.mac 0 (ms.headD 0)).wfmt.toNat (s.mac 0 (ms.headD 0)).sparse) ≠ 0)) = true ∧
    (passSound passHead (ent .aePass passSlot) = true ∧ (passHead.core 0).tileGate (ent .aePass passSlot) = some true) ∧
    (let s := passHead.updCore 0 fun k => { k with ta := { k.ta with st := .filling } }
     passSound s (ent .aePass passSlot) = true ∧ (s.core 0).tileGate (ent .aePass passSlot) = some false) ∧
    (let s := passHead.updCore 0 fun k => { k with ta := { k.ta with st := .full } }
     passSound s (ent .aePass passSlot) = true ∧ (s.core 0).tileGate (ent .aePass passSlot) = none) := by decide +kernel
theorem wit_PassCommandLife_lanes : ∀ d : Nat, (passHead.core d).badLanes = [] := sound_lanes _ (by decide +kernel)

/-- PassCommandLife: the staged command may be released, waits for a repair, and meets a macro that left ARMED; the running one has planes
left; the retry can be staged, and cannot where its source is bad. -/
theorem wit_PassCommandLife_run :
    opt (staged.core 0).passEntry (fun x => decide (x.1.phase = .staged) && x.1.macs.all (fun m =>
      decide ((staged.mac 0 m).st = .armed) && !(staged.mac 0 m).repairBusy && decide ((staged.mac 0 m).held = []) &&
        !(staged.mac 0 m).passActive) &&
      decide (staged.runningMacros (coreDie 0) + x.1.macs.length ≤ (staged.die (coreDie 0)).allowance)) = true ∧
    (let s := staged.setMac 0 0 { staged.mac 0 0 with repairBusy := true }
     opt (s.core 0).passEntry fun x => decide (x.1.phase = .staged) && (x.1.macs.all fun m => decide ((s.mac 0 m).st = .armed) &&
      !(s.mac 0 m).leaving) && x.1.macs.any fun m => (s.mac 0 m).repairBusy) = true ∧
    (let s := staged.setMac 0 0 { staged.mac 0 0 with st := .offline }
     opt (s.core 0).passEntry fun x => decide (x.1.phase = .staged) && x.1.macs.any fun m => decide ((s.mac 0 m).st ≠ .armed)) = true ∧
    opt (passing.core 0).passEntry (fun x => decide (x.1.phase = .running) && !(x.1.planesOver x.2.slot) &&
      decide (pcExit x.2.slot = 0)) = true ∧
    opt (retryDue.core 0).passEntry (fun x => decide (x.1.phase = .retryDue) && pcRetry x.2.slot &&
      okv ((retryDue.setCore 0 ((retryDue.core 0).setTile (pcTile x.2.slot) { ((retryDue.core 0).tile (pcTile x.2.slot)) with
        tshift := ((retryDue.core 0).tile (pcTile x.2.slot)).tshift + 1 })).stageAll 0 x.2 x.1.wlog x.1.sparse
          (((retryDue.core 0).tile (pcTile x.2.slot)).tshift + 1)) fun _ => true) = true ∧
    opt (retryBad.core 0).passEntry (fun x => decide (x.1.phase = .retryDue) && decide (lanesInUse x.2.slot x.1.wlog ≤ 16384) &&
      (x.1.macs.all fun m => decide ((retryBad.mac 0 m).held = [])) &&
      errs ((retryBad.setCore 0 ((retryBad.core 0).setTile (pcTile x.2.slot) { ((retryBad.core 0).tile (pcTile x.2.slot)) with
        tshift := ((retryBad.core 0).tile (pcTile x.2.slot)).tshift + 1 })).stageAll 0 x.2 x.1.wlog x.1.sparse
          (((retryBad.core 0).tile (pcTile x.2.slot)).tshift + 1))) = true := by decide +kernel

/-- TileFinishEndsPass: every plane has run, no group fails, and a lane that is not NORMAL. -/
theorem wit_TileFinishEndsPass :
    opt (planesDone.core 0).passEntry (fun x => decide (x.1.phase = .running) && x.1.planesOver x.2.slot && !(pcRetry x.2.slot) &&
      !(pcPred x.2.slot) && decide (pcMon x.2.slot = 0) && (x.1.macs.all fun m => decide ((planesDone.mac 0 m).held = [])) &&
      decide (pcN x.2.slot * x.1.lanesPer ≤ 16384) && decide (pcN x.2.slot = 1) && decide (pcK x.2.slot = 1) &&
      decide (planesDone.badGroups 0 x.1 x.2.slot 0 0 = [])) = true ∧ LaneSt.inv ≠ .normal := by decide +kernel

/-- SoundRowsHaveNoResidue: the dense macro of reset, whose rows all pass R23 in the last lane group. -/
theorem wit_SoundRowsHaveNoResidue :
    (rst.mac 0 0).sparse = false ∧ 15 < 16 ∧ ∀ r, r < 2048 → 15 ∉ (rst.mac 0 0).failing r := by
  refine ⟨by decide +kernel, by decide, ?_⟩
  intro r hr
  have plain : isMeta r = isMeta 0 := by simp [isMeta]; omega
  have zero : ∀ n, n < 2048 → (rst.mac 0 0).row n = { data := 0, check := 0 } := by
    intro n hn
    have e : (rst.mac 0 0) = MacroState.reset 0 := by decide +kernel
    have p : (MacroState.reset 0).physRow n = n := by 
      simp only [MacroState.physRow, MacroState.reset, hn, Sparse.get, Sparse.find?, if_true]
      rw [if_neg]
      rintro ⟨h, -⟩
      exact absurd h (by decide)
    rw [e]
    unfold MacroState.row
    rw [p, if_pos hn]
    rfl
  have same : (rst.mac 0 0).failing r = (rst.mac 0 0).failing 0 := by
    unfold MacroState.failing MacroState.checkByte
    rw [zero r hr, zero 0 (by decide), plain]
  rw [same]
  decide +kernel

def tileAs (st : TileSt) : State := withCore fun k => { k with ta := { k.ta with st := st } }
def veStarted (w : W128) : QEntry := { ent .ve w with st := .executing }

/-- ArrayRegisterAndWindowWrites: the boundary values of each register, the states of a tile, and a VE command that reads a BN8 table and
one that does not. -/
theorem wit_ArrayRegisterAndWindowWrites :
    (0xC7 : Byte).toNat % 128 < 72 ∧
    (((tileAs .empty).core 0).ta.st = .empty ∧ ((tileAs .empty).core 0).ta.tshift ≤ 5 ∧ fld (0x2A000000 : W32) 27 25 ≤ 5) ∧
    ((tileAs .full).core 0).ta.st = .full ∧ ((tileAs .filling).core 0).ta.st = .filling ∧ ((tileAs .draining).core 0).ta.st = .draining ∧
    (fPosNormal 0x40000000 = true ∧ fPosNormal 0x80000000 = false) ∧
    ((rst.core 0).ahCnt 31 = 0 ∧ ((withCore fun k => k.putW32 (ahAddr 31 + 0xC) 1).core 0).ahCnt 31 ≠ 0) ∧
    ((rst.core 0).ta.st ≠ .draining ∧ (rst.core 0).tb.st ≠ .draining) ∧
    ((15 : Fin 16).val ≠ 0 ∧ bitOf (0x80000100 : W32) 31 = true ∧ bitOf ((rst.core 0).w32 (rmAddr 15)) 31 = false) ∧
    (Eng.fe ≠ .le ∧ Eng.fe ≠ .se ∧ Eng.fe ≠ .ve) ∧ (0xFFFF#16 ≠ 0x8000#16 ∧ ∀ q ∈ (rst.core 0).queue, q.eng = .ve → q.st = .waiting) ∧
    veReadsTable (veStarted (slot 0x01 [(102, 6)])) 0x04074000 2 = true ∧ veReadsTable (veStarted (slot 0x01 [(102, 6)])) 0x04074FFE 2 = false ∧
    (veStarted (slot 0x01 [(102, 6)])).eng = .ve ∧ (veStarted 0).st ≠ .waiting := by
  decide +kernel

/-! ## Witnesses: control core -/

def run0 (f : CoreState → CoreState := id) : State :=
  withCore fun k => f { owned k with x := [(1, 77), (2, 3)], pc := 40, stepno := 9 }

/-- ScalarArithmetic, ScalarImmediatesAndBranches, RegisterFileAndIssue, ControlRegistersAndFlags: a core that may issue, one in IDLE,
one with nothing in flight and one with a command in flight, and the last register. -/
theorem wit_ScalarSlot :
    run0.issuing 0 ∧ (31 : Nat) < 32 ∧ ¬rst.issuing 0 ∧ ((run0.core 0).queue = [] ∧ (run0.core 0).sigs = []) ∧
    ((run0 fun k => { k with queue := [ent .ve 0] }).issuing 0 ∧ ((run0 fun k => { k with queue := [ent .ve 0] }).core 0).queue ≠ []) := by
  unfold State.issuing
  decide +kernel

def bar (arr : List Nat) : Barrier :=
  { prog := 1, bid := 63, torus := false, members := [0, 1], arrived := arr, left := [], sentUp := false, kids := [], released := false,
    bpreps := [] }
def barS (arr : List Nat) : State := run0.updHub fun h => { h with barriers := [bar arr] }
/-- A torus barrier at which the core has arrived. -/
def torBar (rel : Bool) : Barrier := { bar [0] with torus := true, released := rel }

/-- SyncCommands: fences that open and that wait, a WAIT whose counter just reaches VALUE and one that does not, a STEP with and without
commands in flight, an ARRIVE of each kind. -/
theorem wit_SyncCommands :
    (run0.issuing 0 ∧ (run0.core 0).fenceOpen (0xFF : Byte).toNat = true) ∧
    ((run0 fun k => { k with queue := [ent .ve 0] }).core 0).fenceOpen (0xFF : Byte).toNat = false ∧
    (0xFFFFFF : BitVec 24).toNat ≤ ((run0 fun k => k.putAc 31 0xFFFFFF).core 0).getAc (31 : BitVec 5).toNat ∧
    (run0.core 0).getAc (31 : BitVec 5).toNat < (1 : BitVec 24).toNat ∧
    ((run0.core 0).queue = [] ∧ (run0.core 0).sigs = []) ∧ (5 : BitVec 24) ≠ 0 ∧ (run0.core 0).getDebt (31 : BitVec 5).toNat = 0 ∧
    (run0.core 0).getAc (31 : BitVec 5).toNat + (0xFFFFFF : BitVec 24).toNat < 2 ^ 24 ∧
    (dirOf (3 : BitVec 3).toNat = some .east ∧ neighbour (0 : CoreId) .east = some 1) ∧
    (dirOf (4 : BitVec 3).toNat = some .west ∧ neighbour (0 : CoreId) .west = none) ∧ (dirOf (7 : BitVec 3).toNat = none ∧ (7 : BitVec 3) ≠ 0) := by
  unfold State.issuing
  decide +kernel
/-- SyncCommands: barriers of two members and barriers of the torus, of a group that is blocked and of one that is not. -/
theorem wit_SyncCommands_barriers :
    (∃ b ∈ (barS []).hub.barriers, b.bid = (63 : BitVec 6).toNat ∧ (0 : CoreId).val ∈ b.members ∧ b.torus = false) ∧
    ((barS []).hub.barriers = [bar []] ∧ (bar []).bid = (63 : BitVec 6).toNat ∧ (bar []).torus = false ∧ (0 : CoreId).val ∈ (bar []).members ∧
      (0 : CoreId).val ∉ (bar []).arrived ∧ (0 : CoreId).val ∉ (bar []).left ∧ (63 : BitVec 6).toNat ∉ ((barS []).core 0).barsLeft) ∧
    (∀ m ∈ (bar [1]).members, m ≠ (0 : CoreId).val → m ∈ (bar [1]).arrived) ∧
    (∃ m ∈ (bar []).members, m ≠ (0 : CoreId).val ∧ m ∉ (bar []).arrived) ∧
    (∀ rel ∈ [true, false], (torBar rel).torus = true ∧ (0 : CoreId).val ∈ (torBar rel).members ∧ (0 : CoreId).val ∈ (torBar rel).arrived ∧
      (0 : CoreId).val ∉ (torBar rel).left ∧ (torBar rel).released = rel) ∧ 2 ≤ (2 : BitVec 2).toNat ∧
    (63 : BitVec 6).toNat ∉ rst.kraox.blocked ∧ (63 : BitVec 6).toNat ∈ { rst.kraox with blocked := [63] }.blocked := by
  decide +kernel

def win0 (d : Dir) (v : Nat) (s : State) (c : Nat) : State :=
  s.updCore c fun k => { k with win := Win.putN k.win (0x040B0100 + 16 * dirNum d) 16 v }
def msg (kd : NbKind) (a r : Bool) : NbMsg :=
  { src := 1, dst := 0, kind := kd, ac := 31, amount := 5, tag := 3, part := some 0, entry := 5, inStep := true, arrived := a, refused := r }
def nbS (ms : NbMsg) (open_ : Bool) : State :=
  let s := { rst with nb := [ms] }
  let s := s.setCore 0 (owned (s.core 0))
  let s := s.setCore 1 { owned (s.core 1) with queue := [{ ent .su 0 with st := .executing }] }
  if open_ then win0 .east (2 ^ 127 + 2 ^ 124 + 2 ^ (64 + 31)) s 0 else s

/-- NeighbourArrivals: an arrival from the east neighbour that the window admits, one that it refuses, and their acknowledgements. -/
theorem wit_NeighbourArrivals :
    ((nbS (msg .arrive false false) true).nb = [msg .arrive false false] ∧ (msg .arrive false false).dst = (0 : CoreId).val ∧
      some (msg .arrive false false).src = neighbour 0 .east) ∧
    ((nbS (msg .arrive false false) true).admitsArrival 0 1 (some 0) 31 = true ∧ (1 : Nat) ≠ (0 : CoreId).val ∧
      ((nbS (msg .arrive false false) true).core 0).getDebt 31 = 0 ∧ ((nbS (msg .arrive false false) true).core 0).getAc 31 + 5 < 2 ^ 24) ∧
    (nbS (msg .arrive false false) false).admitsArrival 0 1 (some 0) 31 = false ∧
    (some (msg .arrive true false).dst = neighbour 1 .west ∧ (msg .arrive true false).arrived = true ∧
      (msg .arrive false true).refused = true ∧
      ((nbS (msg .arrive true false) true).core 1).queue = [{ ent .su 0 with st := .executing }] ∧ (ent .su 0).id = (msg .arrive true false).entry) := by
  decide +kernel

/-- A word that waits for counter 3, and one with a scalar slot that raises flag 5. -/
def wordWaiting : State := wordCore (words64 (hdr 0 (64 + 3) 0 0 0 9))
def wordReady : State := wordCore (words64 (hdr 2 0 0 (64 + 5) 1 9) ++ [0, 0, 0, 0])

/-- LongWordIssue: a word with a reserved bit, one that waits, one that may issue with a slot that computes. -/
theorem wit_LongWordIssue :
    (errs ((wordCore (words64 (2 ^ 30))).core 0 |>.decodeWord 0) = true ∧ (wordCore (words64 (2 ^ 30))).issuing 0) ∧
    (wordWaiting.issuing 0 ∧ okv ((wordWaiting.core 0).decodeWord 0) (fun w => !(wordWaiting.core 0).wordWaits w) = true) ∧
    (wordReady.issuing 0 ∧ okv ((wordReady.core 0).decodeWord 0) (fun w => (wordReady.core 0).wordWaits w && (wordReady.core 0).queuesOpen w &&
      (wordReady.core 0).syncOpen w && decide (w.syncOpc ≠ some 5) && w.sSlot.all fun o => decide ((scalarOf o).opc ≤ 0x12)) = true) := by
  unfold State.issuing
  decide +kernel

def frec (code : Byte) (detail : W64) (again : Bool) : FaultRec :=
  { code := code, tag := 3, addr := 4, stepno := 5, detail := detail, again := again }
def faultedS (r : FaultRec) : State := withCore fun k => { k with faultQ := [r, frec 1 0 false] }

/-- CompletionAndFaults: a SIG to a flag and to a counter, a finished row command with and without a fault, records of an engine fault, a
core fault and an ARRAY_CHECK that names its macro, a core without records, a word that waits, and CTO 0. -/
theorem wit_CompletionAndFaults :
    (∀ g ∈ [(64 + 63 : Nat), 128 + 31], let s := withCore fun k => { owned k with sigs := [{ sig := BitVec.ofNat 8 g, waits := [], tag := 1, inStep := false }] }
      (s.core 0).doneReq = none ∧ (s.core 0).stopReq = false ∧ (s.core 0).getDebt 31 = 0 ∧ (s.core 0).getAc 31 + 1 < 2 ^ 24) ∧
    (fld (64 + 63 : Byte) 7 6 = 1 ∧ fld (128 + 31 : Byte) 7 6 = 2 ∧ fld (128 + 31 : Byte) 5 0 < 32) ∧
    (∀ f ∈ [(0 : Byte), 0x31], let s := queued { ent .aeRow 0 with st := .finished f 3, detail := 77 }
      (s.core 0).queue = [{ ent .aeRow 0 with st := .finished f 3, detail := 77 }] ∧ Sparse.get (s.core 0).gather [] (portOf .aeRow) = []) ∧
    ((faultedS (frec 0x31 0 false)).core 0).faultQ = frec 0x31 0 false :: [frec 1 0 false] ∧
    ((0x31 : Byte).toNat < 0x50 ∧ (0x31 : Byte) ≠ fArrayCheck ∧ rst.hub.journal.length < 8192) ∧
    (clsOf (0x52 : Byte).toNat = 2 ∧ (0x52 : Byte) ≠ fArrayCheck) ∧
    ((frec fArrayCheck 7 true).code = fArrayCheck ∧ bitOf (frec fArrayCheck 7 true).detail 12 = false ∧ (frec fArrayCheck 7 true).again = true) ∧
    (rst.core 0).faultQ = [] ∧
    (wordWaiting.issuing 0 ∧ (wordWaiting.core 0).cto ≠ 0 ∧
      okv ((wordWaiting.core 0).decodeWord 0) (fun w => decide ((wordWaiting.core 0).headWait w ≠ 0)) = true) ∧
    ((withCore fun k => { owned k with cto := 0 }).core 0).cto = 0 := by
  unfold State.issuing
  decide +kernel

/-- CoreControl: an IDLE, a running, a HELD, a FAULTED and a replaying core, one with a command in flight, a full argument list, a bank that
does not run and the one that does. -/
theorem wit_CoreControl :
    ((rst.core 0).st = .idle ∧ (List.replicate 31 (5 : W64)).length < 32) ∧ ((wordCore []).core 0).st = .run ∧
    (((wordCore [] fun k => { k with st := .held }).core 0).st = .held ∧ ((wordCore [] fun k => { k with st := .held }).core 0).replayDue = false ∧
      ((wordCore [] fun k => { k with st := .held }).core 0).replaying = false) ∧
    ((wordCore [] fun k => { k with st := .replay }).core 0).st = .replay ∧
    (((wordCore [] fun k => { k with st := .held, replaying := true }).core 0).st = .held ∧
      ((wordCore [] fun k => { k with st := .held, replaying := true }).core 0).replaying = true) ∧
    ((wordCore [] fun k => { k with queue := [ent .ve 0] }).core 0).queue ≠ [] ∧
    ((wordCore [] fun k => { k with st := .faulted }).core 0).st = .faulted ∧
    (((wordCore []).core 0).queue = [] ∧ ((wordCore []).core 0).sigs = []) ∧
    (((wordCore []).core 0).bank ≠ true ∧ ((wordCore []).core 0).bank = false ∧ ((wordCore []).core 0).st ≠ .idle) := by decide +kernel

def inReplay (f : CoreState → CoreState := id) : State :=
  wordCore [] fun k => f { k with st := .replay, replaying := true, replayPc := 12, snap := { x := [(2, 9)], flags := 5, acexp := [] },
                                  ta := { k.ta with st := .full } }

/-- StepReplay: due replays below and at the limit, a core in REPLAY that has ended its commands, without and with amounts to roll back, a
rollback that arrives and one that is acknowledged. -/
theorem wit_StepReplay :
    (∀ n ∈ [2, 3], ((wordCore [] fun k => { k with replayDue := true, replays := n }).core 0).replayDue = true ∧
      ((wordCore [] fun k => { k with replayDue := true, replays := n }).core 0).st = .run) ∧
    ((wordCore [] fun k => { k with replayDue := true, replays := 2 }).core 0).noReplay = false ∧
    ((inReplay.core 0).st = .replay ∧ (inReplay.core 0).replaying = true ∧ (inReplay.core 0).restored = false ∧
      (inReplay.core 0).replayDue = false ∧ (inReplay.core 0).queue = [] ∧ (inReplay.core 0).sigs = [] ∧
      (inReplay.core 0).outLedger = [] ∧ (inReplay.core 0).consLedger = []) ∧
    (((inReplay fun k => { k with outLedger := [(32 * 3 + 31, 4)] }).core 0).rollbacks 0 ≠ [] ∧
      ((inReplay fun k => { k with outLedger := [(32 * 3 + 31, 4)] }).core 0).restore.1.st ≠ .faulted) ∧
    ((nbS (msg .rollback false false) true).admitsArrival 0 1 (some 0) 31 = true ∧ (31 : Nat) < 32 ∧
      ((nbS (msg .rollback false false) true).core 0).getDebt 31 + 5 < 2 ^ 24) ∧
    (let k := (inReplay fun k => { k with restored := true, ackWait := 1 }).core 0
     k.ackWait = 1 ∧ k.restored = true ∧ k.replaying = true ∧ k.st = .replay ∧ (msg .rollback true false).arrived = true) := by
  decide +kernel

def spareS : State := wordCore [] fun k => { k with st := .held, spareCopy := [(3, 63)], bankErrs := [(63, 2)] }
/-- ScratchpadOwnership: the last region free, with another owner, and a core that runs; a scrub in progress, HINV of all and of one
handle, a patrol of a sound and of a failing word and with patrols off, spare banks free, not due, in use and on a core that runs. -/
theorem wit_ScratchpadOwnership :
    ((rst.core 0).st = .idle ∧ (rst.core 0).queue = [] ∧ bitOf (0xC0000003 : W32) 31 = true ∧ bitOf (0x00000003 : W32) 31 = false ∧
      Sparse.find? (rst.core 0).lastOwner 47 = none ∧ Sparse.get (rst.core 0).marched false 47 = false) ∧
    (Sparse.find? ((withCore fun k => { k with lastOwner := [(47, 5)] }).core 0).lastOwner 47 = some 5 ∧ 5 ≠ fld (0xC0000003 : W32) 3 0) ∧
    (((wordCore []).core 0).st ≠ .idle ∧ ((wordCore []).core 0).st ≠ .held) ∧
    Sparse.get ((withCore fun k => { k with scrubs := [(47, true)] }).core 0).scrubs false 47 = true ∧
    (bitOf (0x40000000 : W32) 30 = true ∧ bitOf (0xFF : W32) 30 = false) ∧
    (((wordCore []).core 0).lanesOf 63 = 0 ∧ Win.read ((wordCore []).core 0).win 0x040B0002 ≠ 0) ∧
    (((wordCore [] fun k => { k with badLanes := [(63 * 8, true)] }).core 0).lanesOf 63 ≠ 0 ∧
      Win.read ((wordCore [] fun k => { k with win := Win.write k.win 0x040B0002 0 }).core 0).win 0x040B0002 = 0) ∧
    (2 ≤ Sparse.get (spareS.core 0).bankErrs 0 63 ∧ (∀ j, j < 4 → bitOf ((spareS.core 0).spspare j) 31 = false) ∧
      Sparse.find? (spareS.core 0).spareCopy 0 = none ∧ Sparse.get (rst.core 0).bankErrs 0 63 < 2) ∧
    ((spareS.core 0).spareCopy = [((3 : Fin 4).val, (63 : Fin 64).val)] ∧ (spareS.core 0).atRest = true ∧ (spareS.core 0).st = .held ∧
      (spareS.core 0).replayDue = false ∧ (spareS.core 0).replaying = false ∧ Memory.wf (spareS.core 0).sp = true ∧
      spareS.hub.swapHeld = [] ∧ spareS.hub.rebinds = []) ∧
    ((wordCore []).core 0).atRest = false := by decide +kernel

def gath (bs : Memory) : State := withCore fun k =>
  { k with gather := [(portOf .ve, [{ word := 1, owner := 5, bytes := bs }])], badLanes := [(8, true)] }
/-- ScratchpadWrites: a gathered word that leaves a failing lane alone, one that covers it in part, an engine without one, an address
outside the bytes written, a memory in canonical form, and a write that covers a failing lane in part. -/
theorem wit_ScratchpadWrites :
    (let g : GatherEntry := { word := 1, owner := 5, bytes := [(72, 5), (78, 7)] }
     Sparse.get ((gath g.bytes).core 0).gather [] (portOf .ve) = [g] ∧
      ∀ j, j < 8 → ¬(Sparse.get ((gath g.bytes).core 0).badLanes false (8 * g.word + j) = true ∧
        (Sparse.inRange g.bytes (64 * g.word + 8 * j) 8).length ≠ 0 ∧ (Sparse.inRange g.bytes (64 * g.word + 8 * j) 8).length ≠ 8)) ∧
    (∃ j, j < 8 ∧ Sparse.get ((gath [(64, 5)]).core 0).badLanes false (8 * 1 + j) = true ∧
      (Sparse.inRange [(64, (5 : Byte))] (64 * 1 + 8 * j) 8).length ≠ 0 ∧ (Sparse.inRange [(64, (5 : Byte))] (64 * 1 + 8 * j) 8).length ≠ 8) ∧
    Sparse.get (rst.core 0).gather [] (portOf .fe) = [] ∧ (rst.core 0).badLanes = [] ∧ 61 < 62 ∧ 62 + 5 ≤ 67 ∧
    Memory.wf ((src0 (rst.core 0)).sp) = true ∧
    ([(1 : Byte)] ≠ [] ∧ ((gath []).core 0).partlyBad 64 (min [(1 : Byte)].length (64 - 64 % 64)) = true) := by decide +kernel

/-! ## Witnesses: load, store, rows, vector and fine engines -/

/-- The command's head entry, as State.headIs says, decided. -/
def isHead (s : State) (e : Eng) (opc : Nat) (q : QEntry) : Bool :=
  decide ((s.core 0).nextStart e = some q) && decide (slotOpc q.slot = opc)

/-- State.turnOf, decided: the command comes next, and p is true of the state in which it runs. -/
def isTurn (s : State) (e : Eng) (opc : Nat) (holds : QEntry → Bool) (q : QEntry) (p : State → Bool) : Bool :=
  opt (s.pickReady 0 e opc holds) fun x => decide (x.1 = q) && p (x.2.begun 0 e q)

/-- What isTurn says is State.turnOf. -/
theorem turnOf_of_isTurn {s : State} {e : Eng} {opc : Nat} {holds : QEntry → Bool} {q : QEntry} {p : State → Bool}
    (h : isTurn s e opc holds q p = true) : ∃ t, s.turnOf 0 e opc holds q t ∧ p t = true := by
  unfold isTurn opt at h
  split at h
  · rename_i x hx
    simp only [Bool.and_eq_true, decide_eq_true_eq] at h
    obtain ⟨rfl, hp⟩ := h
    exact ⟨_, ⟨x.2, hx, rfl⟩, hp⟩
  · cases h

/-- Every store of a list was made. -/
def stored (r : State × Option Nat) : Bool := r.2.isNone

def fillHolds (s : State) (x : QEntry) : Bool := (s.core 0).walkHolds false (slotMid x.slot) (fld x.slot 110 105)
def lHolds (s : State) (x : QEntry) : Bool := (s.core 0).lcopyHolds x.slot
def sHolds (s : State) (x : QEntry) : Bool := (s.core 0).scopyHolds x.slot

def qFill : QEntry := ent .le (slot 0x11 [(105, 1), (32, 0x2000), (0, 0xAABBCCDD)])
def qFillBad : QEntry := ent .le (slot 0x11 [(111, 1), (32, 0x2000)])

/-- LoadStoreCommands, LFILL: the command that comes next, its pattern, checks and stores; and one whose reserved field is not 0. -/
theorem wit_LoadStoreCommands_fill :
    (let q := qFill; let s := cmdS q
     isTurn s .le 0x11 (fillHolds s) q fun t => decide (fld q.slot 119 111 = 0) && decide (fld q.slot 104 64 = 0) &&
      decide (fieldForm (slotMid q.slot) ≠ 3) && opt ((t.core 0).pat (fld q.slot 110 105)) fun dp =>
        let dst := walkOperand (resolveField q.handles (slotMid q.slot) q.xr1) dp false true
        decide (t.checkOps 0 true [dst] = 0) && stored (t.storeAll 0 0 q.id (dst.core 0)
          ((dp.addrs dst.base).map fun a => (a, fillElem dp.size (fld q.slot 31 0))))) = true ∧
    isTurn (cmdS qFillBad) .le 0x11 (fillHolds (cmdS qFillBad)) qFillBad (fun _ => decide (fld qFillBad.slot 119 111 ≠ 0)) = true ∧
    rst.pickReady 0 .le 0x11 (fillHolds rst) = none := by decide +kernel

/-- An LCOPY's checks, its reads from the scratchpad or another space, and its stores. -/
def lcopyGood (s : State) (q : QEntry) : Bool :=
  let w := q.slot
  isTurn s .le 0x10 (lHolds s) q fun t => !lcopyBad w && opt (copyPats (t.core 0) (fld w 116 111) (fld w 110 105)) fun p =>
    let src := walkOperand (resolveField q.handles (slotHi w) q.xr2) p.1 true false
    let dst := walkOperand (resolveField q.handles (slotMid w) q.xr1) p.2 false true
    let b := spaceBase (fld w 119 118) (fld w 95 64)
    let own := t.fetchAll 0 0 (src.core 0) p.1.size (p.1.addrs src.base)
    let bs := if fld w 119 118 = 0 then own.1 else t.remoteRead (t.core 0).part (fld w 119 118) p.1.size (p.1.addrs b)
    decide (fld w 104 102 ≠ 0 → p.1.elog = 6 ∧ p.1.count % 64 = 0) &&
      (if fld w 119 118 = 0 then decide (t.checkOps 0 true [src, dst] = 0) && own.2.isNone
       else decide (t.checkOps 0 true [dst] = 0) && regionOk p.1 b (t.spaceSize (t.core 0).part (fld w 119 118)) && p.1.aligned b &&
        (p.1.addrs b).all fun a => !t.ext.readBad (t.core 0).part a p.1.size) &&
      stored (t.storeAll 0 0 q.id (dst.core 0) ((p.2.addrs dst.base).zip
        (if fld w 104 102 = 0 then bs else transposeBlocks (2 ^ (fld w 104 102 - 1)) bs)))

def qCopy : QEntry := ent .le (slot 0x10 [(111, 0), (105, 1), (64, 0x1000), (32, 0x2000)])
def qCopyX : QEntry := ent .le (slot 0x10 [(111, 2), (105, 2), (102, 1), (64, 0x1000), (32, 0x8000)])
def qCopyL : QEntry := ent .le (slot 0x10 [(118, 2), (111, 0), (105, 1), (64, 1), (32, 0x2000)])
/-- Partition 0 with a region of LPDDR6. -/
def lp (s : State) : State := s.updHub fun h => { h with parts := [(0, { h.part 0 with lpsize := 0x10000 })] }

/-- LoadStoreCommands, LCOPY: within the scratchpad, transposed, from LPDDR6, and one whose reserved bit is set. -/
theorem wit_LoadStoreCommands_lcopy :
    lcopyGood (cmdS qCopy) qCopy = true ∧ lcopyGood ((cmdS qCopyX).updCore 0 (apt 2 6 [(64, 64)])) qCopyX = true ∧
    lcopyGood (lp (cmdS qCopyL)) qCopyL = true ∧
    (let q := ent .le (slot 0x10 [(117, 1)])
     isTurn (cmdS q) .le 0x10 (lHolds (cmdS q)) q fun _ => lcopyBad q.slot) = true ∧ rst.pickReady 0 .le 0x10 (lHolds rst) = none := by
  decide +kernel

def qSCopy (acen : Nat := 0) (hs : Sparse W128 := []) : QEntry :=
  ent .se (slot 0x20 [(112, 0), (106, 1), (105, acen), (100, 31), (64, 0x1000), (32, if hs = [] then 0x2000 else 0x40400000)]) hs
/-- The state of core 0 whose east neighbour admits its writes. -/
def nbOpen (s : State) : State := win0 .west (2 ^ 127 + 2 ^ 126 + 2 ^ 125 + 0x100000 * 2 ^ 32) s 1
/-- An SCOPY's checks, reads and stores in the own core or at a neighbour; p is asked of the state after the stores. -/
def scopyGood (s : State) (q : QEntry) (p : State → Nat → Bool) : Bool :=
  let w := q.slot
  isTurn s .se 0x20 (sHolds s) q fun t => !scopyBad w && decide (fld w 119 118 = 0) &&
    opt (copyPats (t.core 0) (fld w 117 112) (fld w 111 106)) fun x =>
      let src := walkOperand (resolveField q.handles (slotHi w) q.xr2) x.1 true false
      let dst := walkOperand (resolveField q.handles (slotMid w) q.xr1) x.2 false true
      let r := t.fetchAll 0 1 0 x.1.size (x.1.addrs src.base)
      let u := t.storeAll 0 1 q.id (dst.core 0) ((x.2.addrs dst.base).zip r.1)
      decide (t.checkOps 0 true [src, dst] = 0) && decide (src.core 0 = 0) && r.2.isNone && u.2.isNone && p u.1 (dst.core 0)

/-- LoadStoreCommands, SCOPY: to the own core without and with ACEN, to a neighbour with ACEN, to LPDDR6, and with a reserved bit. -/
theorem wit_LoadStoreCommands_scopy :
    scopyGood (cmdS (qSCopy 0)) (qSCopy 0) (fun _ _ => !bitOf (qSCopy 0).slot 105) = true ∧
    scopyGood (cmdS (qSCopy 1)) (qSCopy 1) (fun u o => bitOf (qSCopy 1).slot 105 && decide (o = 0) && decide ((u.core 0).badLanes = []) &&
      decide ((u.core 0).getDebt (fld (qSCopy 1).slot 104 100) = 0) &&
      decide ((u.core 0).getAc (fld (qSCopy 1).slot 104 100) + 1 < 2 ^ 24)) = true ∧
    (let q := qSCopy 1 [(1, htPack true 0 true true 1 0x1000 0x2000)]
     scopyGood (nbOpen (cmdS q)) q fun _ o => decide (o ≠ 0)) = true ∧
    (let q := ent .se (slot 0x20 [(118, 2), (112, 0), (106, 1), (64, 0x1000), (32, 1)]); let s := lp (cmdS q); let w := q.slot
     isTurn s .se 0x20 (sHolds s) q fun t => !scopyBad w && opt (copyPats (t.core 0) (fld w 117 112) (fld w 111 106)) fun x =>
      let src := walkOperand (resolveField q.handles (slotHi w) q.xr2) x.1 true false
      let b := spaceBase (fld w 119 118) (fld w 63 32)
      decide (t.checkOps 0 true [src] = 0) && (t.fetchAll 0 1 0 x.1.size (x.1.addrs src.base)).2.isNone &&
        regionOk x.2 b (t.spaceSize (t.core 0).part (fld w 119 118)) && x.2.aligned b) = true ∧
    (let q := ent .se (slot 0x20 [(118, 3)]); isTurn (cmdS q) .se 0x20 (sHolds (cmdS q)) q fun _ => scopyBad q.slot) = true ∧
    rst.pickReady 0 .se 0x20 (sHolds rst) = none := by decide +kernel

def qRoww : QEntry := ent .aeRow (slot 0x45 [(102, 2063), (86, 0xFFFF), (0, 0x1000)])
def qRowr : QEntry := ent .aeRow (slot 0x46 [(102, 2063), (0, 0x2000)])
/-- A macro in repair, one in a pass, and one that is OFFLINE, in a state. -/
def macIn (f : MacroState → MacroState) (s : State) : State := s.setMac 0 0 (f (s.mac 0 0))

/-- RowsAndAtomics, AROWW and AROWR: the last metadata row of logical macro 0, a macro in repair, one that holds an operation, and one that is OFFLINE. -/
theorem wit_RowsAndAtomics_rows :
    (let q := qRoww; let s := cmdS q; let t := s.begun 0 .aeRow q
     let src := fixedOperand (resolveField q.handles (slotLo q.slot) q.xr0) 512 true false 64
     isHead s .aeRow 0x45 q && decide ((s.core 0).ammap (fld q.slot 119 114) = some 0) && decide ((s.mac 0 0).rowFault 2063 = 0) &&
      decide (fieldForm (slotLo q.slot) ≠ 3) && !(s.mac 0 0).repairBusy && !(s.mac 0 0).passActive && decide ((s.mac 0 0).held = []) &&
      decide (fld q.slot 85 32 = 0) && decide (fld q.slot 101 86 = 0xFFFF) &&
      decide (t.checkOps 0 false [src] = 0) && okv (t.fetch 0 (portOf .aeRow) (src.core 0) src.lo.toNat 512) fun _ => true) = true ∧
    (let q := qRowr; let s := cmdS q; let t := s.begun 0 .aeRow q
     let dst := fixedOperand (resolveField q.handles (slotLo q.slot) q.xr0) 576 false true 64
     isHead s .aeRow 0x46 q && decide ((s.core 0).ammap (fld q.slot 119 114) = some 0) && decide ((s.mac 0 0).rowFault 2063 = 0) &&
      decide ((s.mac 0 0).failing 2063 = []) && decide (fld q.slot 101 32 = 0) && decide (t.checkOps 0 false [dst] = 0)) = true ∧
    ((macIn (fun k => { k with repairBusy := true }) (cmdS qRoww)).mac 0 0).repairBusy = true ∧
    (((macIn (fun k => { k with held := [.read 3] }) (cmdS qRowr)).mac 0 0).held ≠ [] ∧
      ((macIn (fun k => { k with st := .offline }) (cmdS qRoww)).mac 0 0).rowFault 2063 ≠ 0) := by decide +kernel
theorem wit_RowsAndAtomics_lanes : ∀ d : Nat, ((cmdS qRowr).core d).badLanes = [] := sound_lanes _ (by decide +kernel)

def qAtom : QEntry := ent .se (slot 0x21 [(32, 0x1000), (0, 0xFFFFFFFF)])
def qSc (o : Nat) : QEntry := ent .se (slot 0x22 [(32, o), (0, 5)])

/-- RowsAndAtomics, SATOM with and without its right and with a reserved bit, SCATOM at the last word of a commons bank, unaligned, and
with a reserved bit. -/
theorem wit_RowsAndAtomics_atomics :
    (let q := qAtom; let s := rights 1 (cmdS q)
     let o := fixedOperand (resolveField q.handles (slotMid q.slot) q.xr1) 4 false true 4
     isTurn s .se 0x21 (fun _ => false) q fun t => decide (fld q.slot 119 64 = 0) && decide (fieldForm (slotMid q.slot) ≠ 3) &&
      t.hub.right (t.core 0).part 0 && decide (t.checkOps 0 false [o] = 0) && t.cores.all fun e => decide (e.2.badLanes = [])) = true ∧
    isTurn (cmdS qAtom) .se 0x21 (fun _ => false) qAtom (fun t => !t.hub.right (t.core 0).part 0) = true ∧
    (let q := ent .se (slot 0x21 [(64, 1)]); isTurn (cmdS q) .se 0x21 (fun _ => false) q fun _ => decide (fld q.slot 119 64 ≠ 0)) = true ∧
    (let q := qSc 0x3FFFFC
     isTurn (commons (cmdS q)) .se 0x22 (fun _ => false) q fun t => decide (fld q.slot 119 64 = 0) && decide (fld q.slot 63 32 % 4 = 0) &&
      decide (fld q.slot 63 32 + 4 ≤ t.hub.commonsSize (t.core 0).part)) = true ∧
    (let q := qSc 0x3FFFFD
     isTurn (commons (cmdS q)) .se 0x22 (fun _ => false) q fun _ => decide (fld q.slot 119 64 = 0) && decide (fld q.slot 63 32 % 4 ≠ 0)) = true ∧
    (let q := ent .se (slot 0x22 [(64, 1)])
     isTurn (cmdS q) .se 0x22 (fun _ => false) q fun _ => decide (fld q.slot 119 64 ≠ 0)) = true := by decide +kernel

/-- A core with rows of FP32 numbers at 0x1000 and patterns of 4 (0 and 2) and of one 16-byte record (1). -/
def veS (q : QEntry) : State :=
  (cmdS q fun k => { apt 2 2 [(4, 4)] (apt 0 2 [(4, 4)] k) with
    sp := Memory.writeL k.sp 0x1000 ((List.range 64).flatMap fun i => leBytes 4 (0x3F800000 + i * 0x80000)) })
/-- A VE command over FP32 A (pattern 0), B where it has one, and D (pattern 2). -/
def qVe (opc bfmt : Nat) (p1 : Nat := 0) : QEntry :=
  ent .ve (slot opc [(114, 0), (110, 14), (106, bfmt), (102, 14), (97, 3), (64, 0x1000), (32, 0x1000), (0, 0x2000)]) [] 0
    (BitVec.ofNat 64 p1)

/-- State.veReady, decided. -/
def veReadyB (s : State) (opc : Nat) (q : QEntry) : Bool :=
  let t := s.begun 0 .ve q
  isHead s .ve opc q && !(s.core 0).veHolds q && !veSlotBad q.slot && !veParamBad opc q.par0 q.par1 &&
  opt (vePats (t.core 0) q.slot) fun p =>
    decide (t.checkOps 0 true (veOperands q p.1 p.2.1 p.2.2) = 0) && !isBN (veDfmt q.slot) &&
    okv (t.veRead 0 portVeA q (veOpA q p.1 0) p.1 (veAfmt q.slot) (fld q.par0 31 29) (veAxh q.par0)) (fun _ => true) &&
    match p.2.1 with
    | none => true
    | some b => okv (t.veRead 0 portVeB q (veOpB q b) b (veBfmt q.slot) (fld q.par0 28 26) (veBxh q.par0)) fun _ => true

theorem okv_iff {ε α : Type} {l : Except ε α} (h : okv l (fun _ => true) = true) : ∃ x, l = .ok x := by
  cases l with
  | ok x => exact ⟨x, rfl⟩
  | error e => cases h

theorem veReady_of_check {s : State} {opc : Nat} {q : QEntry} (h : veReadyB s opc q = true) :
    ∃ a b d va vb, s.veReady 0 opc q a b d va vb := by
  unfold veReadyB at h
  simp only [Bool.and_eq_true, Bool.not_eq_true', isHead, decide_eq_true_eq] at h
  obtain ⟨⟨⟨⟨hh, h2⟩, h3⟩, h4⟩, h5⟩ := h
  unfold opt at h5
  split at h5
  · rename_i p hp
    simp only [Bool.and_eq_true, Bool.not_eq_true', decide_eq_true_eq] at h5
    obtain ⟨⟨⟨h6, h7⟩, h8⟩, h9⟩ := h5
    obtain ⟨va, hva⟩ := okv_iff h8
    obtain ⟨a, b, d⟩ := p
    cases b with
    | none => exact ⟨a, none, d, va, [], hh, h2, h3, h4, hp, h6, fun x => (by rw [h7] at x; cases x), hva, rfl⟩
    | some pb =>
      obtain ⟨vb, hvb⟩ := okv_iff h9
      exact ⟨a, some pb, d, va, vb, hh, h2, h3, h4, hp, h6, fun x => (by rw [h7] at x; cases x), hva, hvb⟩
  · cases h5

/-- VectorElementwise: commands of each operation that pass every check. -/
theorem wit_VectorElementwise :
    (∀ o ∈ [0x00, 0x0A, 0x0B, 0x0C], veReadyB (veS (qVe o 12)) o (qVe o 12) = true) ∧
    (∀ o ∈ [0x01, 0x02, 0x03, 0x04, 0x05, 0x06, 0x07, 0x08, 0x09, 0x0D], veReadyB (veS (qVe o 14)) o (qVe o 14) = true) := by
  decide +kernel

def qVi (opc : Nat) : QEntry := ent .ve (slot opc [(114, 0), (110, 13), (106, 13), (102, 13), (97, 3), (64, 0x1000), (32, 0x1000), (0, 0x2000)])
theorem wit_VectorElementwise_integer : ∀ o ∈ [0x28, 0x29, 0x2A, 0x2B], veReadyB (veS (qVi o)) o (qVi o) = true := by decide +kernel

/-- VectorReductions: the three reductions into one element, and a softmax row. -/
def qVr (opc : Nat) : QEntry := ent .ve (slot opc [(114, 0), (110, 14), (106, 12), (102, 14), (97, 4), (64, 0x1000), (0, 0x2000)])
theorem wit_VectorReductions :
    (∀ o ∈ [0x10, 0x11, 0x12], veReadyB ((veS (qVr o)).updCore 0 (apt 2 2 [(1, 0)])) o (qVr o) = true) ∧
    veReadyB (veS (qVe 0x20 12 (0x3F800000 * 2 ^ 32))) 0x20 (qVe 0x20 12 (0x3F800000 * 2 ^ 32)) = true := by decide +kernel

/-! ## Witnesses: partials, FMM, drains, merges, registers -/

def qVf : QEntry := qVe 0x19 12 (2 * 2 ^ 48 + 64)
def qVx : QEntry :=
  ent .ve (slot 0x21 [(114, 0), (110, 14), (106, 14), (102, 14), (97, 3), (64, 0x1000), (32, 0x3000), (0, 0x2000)]) [] 0
    (BitVec.ofNat 64 (0x3F800000 * 2 ^ 32))
def vxS : State := (veS qVx).updCore 0 fun k => { apt 1 4 [(1, 0)] k with sp := Memory.writeL k.sp 0x3000 (leBytes 4 0xFF800000) }
/-- The checks that VFSUM and VSMXC pass before they read. -/
def partPasses (s : State) (opc : Nat) (q : QEntry) (p : Pat × Option Pat × Pat) : Bool :=
  isHead s .ve opc q && !(s.core 0).veHolds q && !veSlotBad q.slot && !veParamBad opc q.par0 q.par1 &&
    decide ((s.begun 0 .ve q).checkOps 0 true (veOperands q p.1 p.2.1 p.2.2) = 0) && !isBN (veDfmt q.slot)

/-- VectorPartials, VFSUM: two parts, each readable. -/
theorem wit_VectorPartials_vfsum :
    (let q := qVf; let s := veS q; let t := s.begun 0 .ve q
     opt (vePats (t.core 0) q.slot) fun p => partPasses s 0x19 q p && decide (veNpart q.par1 = 2) &&
      (List.range (veNpart q.par1)).all fun i =>
        okv (t.veRead 0 portVeA q (veOpA q p.1 i) p.1 (veAfmt q.slot) 0 0) fun _ => true) = true := by
  decide +kernel

/-- VectorPartials, VSMXC: a row and its record, readable. -/
theorem wit_VectorPartials_vsmxc :
    (let q := qVx; let s := vxS; let t := s.begun 0 .ve q
     opt (vePats (t.core 0) q.slot) fun p => partPasses s 0x21 q p && opt p.2.1 fun pb =>
       okv (t.veRead 0 portVeA q (veOpA q p.1 0) p.1 (veAfmt q.slot) (fld q.par0 31 29) (veAxh q.par0)) (fun _ => true) &&
         (t.fetchAll 0 portVeB ((veOpB q pb).core 0) 16 (pb.addrs (veOpB q pb).base)).2.isNone) = true := by decide +kernel

/-- VectorPartials, VPSUM: two partials of 64 lanes, readable, and a destination that takes the image. -/
def qVp : QEntry := ent .ve (slot 0x18 [(97, 3), (64, 0x1000), (0, 0x2000)]) [] 0 (BitVec.ofNat 64 (2 * 2 ^ 48 + 2 ^ 32 + 320))
theorem wit_VectorPartials_vpsum :
    (let q := qVp; let s := veS q; let t := s.begun 0 .ve q
     let l := veLanes q.par1
     let n := 4 * l + l / 4
     let ra := resolveField q.handles (slotHi q.slot) q.xr2
     let ins := (List.range (veNpart q.par1)).map fun i => fixedOperand (ra.1, ra.2 + (i * vePstride q.par1 : Nat)) n true false 64
     let od := fixedOperand (resolveField q.handles (slotLo q.slot) q.xr0) n false true 64
     let parts := ins.map fun o => match t.fetch 0 portVeA (o.core 0) o.lo.toNat n with | .ok b => b | .error _ => []
     let ims := parts.map (preloadImage l)
     let out := (List.range l).map fun i => combineLane (ims.map fun m => (m.1.getD i 0, m.2.getD i .normal))
     let src := (ins.map fun o => (o.core 0, o.lo.toNat, n)).filter fun r => decide (r ≠ (od.core 0, od.lo.toNat, n))
     decide (l = 64) && isHead s .ve 0x18 q && !(s.core 0).veHolds q && !veSlotBad q.slot && !veParamBad 0x18 q.par0 q.par1 &&
      decide (t.checkOps 0 true (ins.take 1 ++ [od] ++ ins.drop 1) = 0) &&
      (ins.all fun o => okv (t.fetch 0 portVeA (o.core 0) o.lo.toNat n) fun _ => true) &&
      ((t.bumpN n).veStore 0 q.id
        [freeOverlap src 1 t.free { core := od.core 0, addr := od.lo.toNat, bytes := imageBytes (out.map fun x => (x.1, x.2.1)) }]).2.isNone) =
      true := by decide +kernel

/-- CombineLanes: lists of each kind, at both ends of 32 bits. -/
theorem wit_CombineLanes :
    (∃ x ∈ [((0 : Int), LaneSt.inv)], x.2 = .inv) ∧
    ((∃ x ∈ [((0 : Int), LaneSt.posInf), (0, .negInf)], x.2 = .posInf) ∧ ∃ x ∈ [((0 : Int), LaneSt.posInf), (0, .negInf)], x.2 = .negInf) ∧
    (∀ x ∈ [((2147483647 : Int), LaneSt.posInf), (5, .normal)], x.2 = .normal ∨ x.2 = .posInf) ∧
    (∀ x ∈ [((-2147483648 : Int), LaneSt.negInf)], x.2 = .normal ∨ x.2 = .negInf) ∧
    (-2147483648 ≤ ([((-2147483648 : Int), LaneSt.normal)].map (·.1)).sum ∧ ([((2147483647 : Int), LaneSt.normal)].map (·.1)).sum ≤ 2147483647) ∧
    2147483647 < ([((2147483647 : Int), LaneSt.normal), (1, .normal)].map (·.1)).sum ∧
    ([((-2147483648 : Int), LaneSt.normal), (-1, .normal)].map (·.1)).sum < -2147483648 ∧
    List.Perm [((1 : Int), LaneSt.normal), (2, .inv)] [(2, .inv), (1, .normal)] := by
  refine ⟨by decide, by decide, by decide, by decide, by decide, by decide, by decide, List.Perm.swap _ _ _⟩

/-- FMM of K 3, M 2, N 2 with BF16 sources and an FP32 destination, without and with ADD. -/
def fp : W64 := BitVec.ofNat 64 (3 * 2 ^ 32 + 2 * 2 ^ 16 + 2)
def fr : W64 := BitVec.ofNat 64 (2 ^ 48 + 1 * 2 ^ 32 + 1 * 2 ^ 16)
def qF (add : Nat) : QEntry :=
  ent .fe (slot 0x60 [(118, 2), (116, 2), (113, 0), (111, add), (106, 1), (64, 0x1000), (32, 0x1000), (0, 0x2000)]) [] fp fr
def qVBad : QEntry := ent .ve (slot 0x01 [(96, 1)])
def qFBad : QEntry := ent .fe (slot 0x60 [(96, 15)])
def fmmGood (q : QEntry) : Bool :=
  let s := cmdS q
  let u := s.begun 0 .fe q
  let w := q.slot
  let p := q.par0
  let r := q.par1
  let m := feM p
  let n := feN p
  let oa := feOpA q
  let ob := feOpB q
  let od := feOpD q
  let dRow := fun i : Nat => od.lo.toNat + fePitchD r * i
  let ra := u.feRows 0 portFeA oa (feK p) (fePitchA r) 0 (m * feABytes w)
  let rb := u.feRows 0 portFeB ob (feK p) (fePitchB r) 0 (n * feBBytes w)
  let rd := u.fetchAll 0 portFeB (od.core 0) (n * feDBytes w) ((List.range m).map dRow)
  let xa := ra.1.map fun bs => (unpack (8 * feABytes w) m bs).map (decodeRaw (feSrc (fld w 119 118)) 0)
  let xb := rb.1.map fun bs => (unpack (8 * feBBytes w) n bs).map (decodeRaw (feSrc (fld w 117 116)) 0)
  let start := fun i j => if feAdds w then BitVec.ofNat 32 (leNat (((rd.1.getD i []).drop (4 * j)).take 4)) else (0 : W32)
  let accs := (List.range m).flatMap fun i => (List.range n).map fun j =>
    accumulate (decide (feABytes w = 1)) (start i j) ((xa.zip xb).map fun x => (x.1.getD i .nan).mul (x.2.getD j .nan))
  let cv := convAll ((u.core 0).win) (feDst (fld w 115 113)) 0 0 none (accs.map fp32)
  isHead s .fe 0x60 q && !feSlotBad w && !feParamBad w p r && decide (m ≤ 128) && decide (n ≤ 128) && !bitOf r 9 && !bitOf r 2 &&
    decide (u.checkOps 0 false [oa, ob, od] = 0) && ra.2.isNone && rb.2.isNone && rd.2.isNone &&
    stored ((u.bumpN (m * n * feDBytes w)).storeAll 0 portFeB q.id (od.core 0)
      ((chunks n (m * n) cv.raw).zipIdx.map fun x => (dRow x.2, pack (8 * feDBytes w) x.1)))
theorem wit_FineMatrixMultiply : (fmmGood (qF 0) = true ∧ feAdds (qF 0).slot = false) ∧ fmmGood (qF 1) = true ∧ feAdds (qF 1).slot = true := by
  decide +kernel
theorem wit_FineMatrixMultiply_lanes : ∀ d : Nat, ((cmdS (qF 0)).core d).badLanes = [] := sound_lanes _ (by decide +kernel)
/-- FineMatrixMultiply, the reserved bits of a VE and of an FE command. -/
theorem wit_FineMatrixMultiply_reserved :
    (isHead (cmdS qVBad) .ve 0x01 qVBad && !((cmdS qVBad).core 0).veHolds qVBad && bitOf qVBad.slot 96 &&
      isHead (cmdS qFBad) .fe 0x60 qFBad && decide (fld qFBad.slot 99 96 ≠ 0)) = true := by decide +kernel

def qRel : QEntry := ent .aeDrain (slot 0x42 [])
def qDr : QEntry := ent .aeDrain (slot 0x43 [(0, 0x2000)])
/-- A drain with a TOPK record of K 8 in buffer 2. -/
def qDrTop : QEntry := ent .aeDrain (slot 0x43 [(75, 1), (66, 7), (40, 2), (0, 0x2000)]) [(2, htPack true 0 true true 0 0x1000 0x4000)]
/-- A drain with a bias table in buffer 3. -/
def qDrBias : QEntry := ent .aeDrain (slot 0x43 [(87, 1), (56, 3), (0, 0x2000)]) [(3, htPack true 0 true true 0 0x1000 0x5000)]
def tileSt (st : TileSt) (s : State) : State := s.updCore 0 fun k => { k with ta := { k.ta with st := st } }
def full (s : State) : State := tileSt .full s
def draining (q : QEntry) : State := after (exec (.drainStart 0) (full (cmdS q)))
/-- What the start of a drain asks, up to its record. -/
def drainStarts (s : State) (q : QEntry) : Bool :=
  isHead s .aeDrain 0x43 q && !drainFieldBad q.slot && decide (((s.core 0).tile (adTile q.slot)).st = .full) &&
    decide (s.checkOps 0 false (drainOperands q) = 0) && !isBN (adFmt q.slot) && !adAccum q.slot && okv (s.readRecordFor 0 q) fun _ => true
/-- The end of a drain: its entry, its bias, and its writes, which succeed or fail. -/
def drainEnds (s : State) (sound : Bool) : Bool :=
  opt (s.core 0).drain fun d => opt ((s.core 0).queue.find? fun x => decide (x.id = d.id)) fun q =>
    let w := q.slot
    let k := s.core 0
    let b := s.biasRead 0 q
    let zs := (List.range b.1.length).map fun e => k.pipeZ w d.scale (b.1.getD e 0) e (s.free + e)
    let cv := convAll k.win (adFmt w) (adCode w) (adCode w) none (zs.map fp32)
    b.2.isNone && decide ((s.writeRuns 0 false (drainRuns 0 q cv)).2.1.isNone = sound) && decide (adRed w = 0) && !adCmp w

/-- DrainLife: releases and drains of a FULL tile, of an EMPTY one and of one in use, with a reserved field, with a record, and with an
operand that fails. -/
theorem wit_DrainLife_start :
    (isHead (full (cmdS qRel)) .aeDrain 0x42 qRel && !releaseFieldBad qRel.slot &&
      decide (((full (cmdS qRel)).core 0).ta.st = .full)) = true ∧
    (let q := ent .aeDrain (slot 0x42 [(0, 1)]); isHead (cmdS q) .aeDrain 0x42 q && releaseFieldBad q.slot) = true ∧
    (decide (((cmdS qRel).core 0).ta.st = .empty) && !((cmdS qRel).core 0).earlierPass (pcTile qRel.slot) qRel.id &&
      decide (((tileSt .filling (cmdS qRel)).core 0).ta.st = .filling) && decide (((tileSt .draining (cmdS qDr)).core 0).ta.st = .draining)) = true ∧
    drainStarts (full (cmdS qDr)) qDr = true ∧ drainStarts (full (cmdS qDrTop)) qDrTop = true ∧
    (let q := ent .aeDrain (slot 0x43 [(82, 31), (0, 0x2000)]); isHead (cmdS q) .aeDrain 0x43 q && drainFieldBad q.slot) = true ∧
    (let q := ent .aeDrain (slot 0x43 [(0, 0x3FFFFFFF)]); let s := full (cmdS q)
     isHead s .aeDrain 0x43 q && !drainFieldBad q.slot && decide (s.checkOps 0 false (drainOperands q) ≠ 0)) = true ∧
    (isHead (cmdS qDr) .aeDrain 0x43 qDr && decide (((cmdS qDr).core 0).ta.st = .empty) &&
      !((cmdS qDr).core 0).earlierPass (adTile qDr.slot) qDr.id) = true := by decide +kernel

/-- DrainLife: ends whose writes succeed, with and without a bias table, and one whose write covers a lane of wrong parity in part. -/
theorem wit_DrainLife_end :
    drainEnds (draining qDr) true = true ∧ drainEnds (draining qDrBias) true = true ∧
    (let q := ent .aeDrain (slot 0x43 [(0, 0x2004)])
     drainEnds ((draining q).updCore 0 fun k => { k with badLanes := [(0x2000 / 8, true)] }) false) = true ∧
    opt ((draining qDr).core 0).drain (fun d => match ((draining qDr).core 0).queue with
      | [q] => decide (q.id = d.id) && !bitOf q.slot 87 && decide ((adDst q).core 0 = 0) && decide ((adAux q).core 0 = 0) &&
        decide ((adRec q).core 0 = 0)
      | _ => false) = true := by decide +kernel
theorem wit_DrainLife_lanes : ∀ o : Nat, ((draining qDr).core o).badLanes = [] := sound_lanes _ (by decide +kernel)

def qMg : QEntry := ent .aeDrain (slot 0x44 [(117, 1), (40, 1)]) [(1, htPack true 0 true true 0 0x1000 0x3000)]
def pr (k v : Nat) : List Byte := leBytes 4 k ++ leBytes 4 v
/-- An AMERGE descriptor of two runs at 0x1000 and 0x1100, output of 8 pairs at 0x2000. -/
def mgDesc : List Byte := leBytes 4 0x1000 ++ leBytes 4 2 ++ List.replicate 8 0 ++ leBytes 4 0x1100 ++ leBytes 4 2 ++ List.replicate 104 0 ++
  leBytes 4 0x2000 ++ leBytes 4 8 ++ leBytes 8 0
def mgMem (first : List Byte) (m : Memory) : Memory :=
  Memory.writeL (Memory.writeL (Memory.writeL m 0x3000 mgDesc) 0x1000 first) 0x1100 (pr 6 4 ++ pr 7 3)
def mgS (first : List Byte) : State := (cmdS qMg).updCore 0 fun k => { k with sp := mgMem first k.sp }
def bytesOf {ε : Type} (v : Except ε (List Byte)) : List Byte := match v with | .ok x => x | .error _ => []

/-- CoreAndHubMerges: an AMERGE of two runs, in order (`bad` false) or with a run out of its order. -/
def mgGood (s : State) (bad : Bool) : Bool :=
  let q := qMg
  let t := s.begun 0 .aeDrain q
  let w := q.slot
  let desc := fixedOperand (resolveHandle q.handles (fld w 47 40)) 144 true true 64
  let bs := bytesOf (t.readOperand 0 desc)
  let ins := (List.range (amRuns w)).map fun r => descOperand (descWord bs (16 * r)) (8 * descWord bs (16 * r + 4)) true false 8
  let cap := descWord bs 0x84
  let out := descOperand (descWord bs 0x80) (8 * cap) false true 1
  let rd := ins.map fun o => bytesOf (t.readOperand 0 o)
  let m := mergeRuns (amOrder w) (amComb w) (amLim w) cap ((rd.zip ins).map fun p => bytePairs ((p.2.hi - p.2.lo).toNat / 8) p.1)
  isHead s .aeDrain 0x44 q && !mergeFieldBad w && decide (t.checkOps 0 false [desc] = 0) && okv (t.readOperand 0 desc) (fun _ => true) &&
    decide (t.checkOps 0 false ((ins ++ [out]).filter fun o => o.lo ≠ o.hi) = 0) && (ins.all fun o => okv (t.readOperand 0 o) fun _ => true) &&
    decide (m.bad = bad) && (t.writeRuns 0 false [{ core := 0, addr := out.lo.toNat, bytes := pairBytes m.out },
      { core := desc.core 0, addr := desc.lo.toNat + 0x88,
        bytes := leBytes 4 m.out.length ++ leBytes 4 (bitAt m.trunc 0 + bitAt m.sat 1) }]).2.1.isNone
theorem wit_CoreAndHubMerges_core :
    mgGood (mgS (pr 5 2 ++ pr 9 1)) false = true ∧ mgGood (mgS (pr 9 1 ++ pr 5 2)) true = true ∧
    (let q := ent .aeDrain (slot 0x44 [(0, 1)]); isHead (cmdS q) .aeDrain 0x44 q && mergeFieldBad q.slot) = true := by decide +kernel

/-- A hub merge descriptor at offset 0x40 of partition 0's region, of two runs. -/
def hm (st arrived : Nat) : State := (commons rst).updHub fun h =>
  ((((((((h.commonsPut 0 0x40 (leBytes 4 arrived)).commonsPut 0 0x44 [2]).commonsPut 0 0x46 (leBytes 2 0)).commonsPut 0 0x4C
    (leBytes 4 st)).commonsPut 0 0x50 (leBytes 4 0x2000)).commonsPut 0 0x54 (leBytes 4 100)).commonsPut 0 0x80
    (leBytes 4 0x1000 ++ leBytes 4 2 ++ leBytes 4 0x1100 ++ leBytes 4 1)).commonsPut 0 0x1000 (pr 5 2 ++ pr 9 1)).commonsPut 0 0x1100 (pr 7 3)
def mjob (fail : Nat) : HubJob := { part := 0, off := 0x40, coll := false, tenant := 0, waits := false, fail := fail }
/-- The pool of merge jobs, full. -/
def mjFull : State := (hm 0 2).updHub fun h => { h with jobs := (List.range 64).map fun i => { mjob 0 with off := 0x1000 * (i + 1) } }

/-- CoreAndHubMerges: a descriptor that starts a job and one that meets a full pool, descriptors that start none, a job that ends and one
that failed its check. -/
theorem wit_CoreAndHubMerges_hub :
    (let h := (hm 0 2).hub
     0x40 % 64 = 0 ∧ 0x40 + 0x440 ≤ h.commonsSize 0 ∧ h.mj 0 0x40 0xC 4 = 0 ∧ mjRuns h 0 0x40 ≠ 0 ∧ mjRuns h 0 0x40 ≤ 128 ∧
      mjRuns h 0 0x40 ≤ h.mj 0 0x40 0 4 ∧ (∀ j ∈ h.jobs, ¬(j.part = 0 ∧ j.off = 0x40)) ∧ h.poolOk 3 (h.mergeTenant 0) = true) ∧
    (let h := mjFull.hub
     h.poolOk 3 (h.mergeTenant 0) = false ∧ ∀ j ∈ h.jobs, ¬(j.part = 0 ∧ j.off = 0x40)) ∧
    (hm 1 2).hub.mj 0 0x40 0xC 4 ≠ 0 ∧ (hm 0 1).hub.mj 0 0x40 0 4 < mjRuns (hm 0 1).hub 0 0x40 ∧ (4 : Nat) % 64 ≠ 0 ∧
    (let h := ((hm 0 3).updHub fun h => { h with jobs := [mjob 0] }).hub
     let runs := (List.range (mjRuns h 0 0x40)).map fun r =>
       bytePairs (h.mj 0 0x40 (0x44 + 8 * r) 4) (h.commonsGet 0 (h.mj 0 0x40 (0x40 + 8 * r) 4) (8 * h.mj 0 0x40 (0x44 + 8 * r) 4))
     h.jobs = [mjob 0] ∧ bit (mjMode h 0 0x40) 4 = false ∧
      (mergeRuns (mjMode h 0 0x40 % 4) (mjMode h 0 0x40 / 4 % 4) (h.mj 0 0x40 6 2) (2 ^ 32) runs).bad = false) ∧ (mjob 4).fail ≠ 0 := by
  decide +kernel

def wop (a : BitVec 30) (n : Nat) : Operand :=
  { ent := none, base := a.toNat, lo := a.toNat, hi := a.toNat + n, rd := false, wr := true, aligned := true }
/-- RegisterWrites: the last byte of the scratchpad and a core that owns its region, a table that may be written and one that waits, an
address outside every region, and an engine's write that is refused. -/
theorem wit_RegisterWrites :
    [(7 : Byte)] ≠ [] ∧ (0x02FFFFFF : BitVec 30).toNat + [(7 : Byte)].length ≤ 0x03000000 ∧ (rst.core 0).badLanes = [] ∧
    (regionsTouched (0x02FFFFFF : BitVec 30).toNat ((0x02FFFFFF : BitVec 30).toNat + 1)).all (run0.core 0).ownsRegion = true ∧
    (regionFor 0x04074000 0x04074001 ≠ none ∧ (run0.core 0).writeWaits 0x04074000 1 = false ∧
      ((tileSt .draining run0).core 0).writeWaits 0x04074000 1 = true ∧ regionFor 0x05000000 0x05000001 = none) ∧
    (run0.checkOps 0 true [wop 0x04074000 1] = 0 ∧ run0.checkOps 0 false [wop 0x04074000 1] ≠ 0) := by decide +kernel

/-! ## Witnesses: the hub -/

/-- The control memories are with their blocks. -/
def kept (h : Hub) : Bool := (List.range 4).all fun k => decide (h.owner k = ownerReset k)
/-- A hub whose table k is with the island. -/
def lostTable (k : Nat) (s : State) : State := s.updHub fun h => h.setOwner k (some 0)
def ans : Answer := Answer.of 0
def cqw : CqWait := { ring := 0, tag := 7, fin := some 3, spec := false, ans := ans }
/-- Ring 0 whose completion ring of 16 entries is full, with a completion that waits. -/
def cqFull : State := hubS.updHub fun h => { h with cqWait := [cqw], rings := [(0, { ring0 with cqTail := 16, sqHead := 4 })] }

/-- CommandRings: a completion that waits and the CQ_HEAD that makes room for it; a ring that may fetch; a ring that is disabled, one
without room, and one out of its turn. -/
theorem wit_CommandRings :
    hubS.hub.cqWait = [] ∧
    (cqFull.hub.cqWait = [cqw] ∧ cqFull.hub.cqOf cqw.ring = (0 : Fin 64).val ∧ (cqFull.hub.ring cqw.ring).en = true ∧ cqw.fin = some 3 ∧
      ((cqFull.hub.ring 0).cqTail - 1).toNat < 2 ^ (cqFull.hub.ring 0).cqLog.toNat) ∧
    (hubS.hub.mayFetch 0 = true ∧ cmdBad (cmd 0x00 []) = false ∧ hubS.hub.tenantOf (hubS.hub.ringPart 0) 1 = true ∧ hubS.hub.wanted 0 1 = false ∧
      kept hubS.hub = true) ∧
    ((rst.hub.ring 63).en = false ∧ rst.hub.inService = false ∧ (hubS.updHub fun h => { h with paused := true }).hub.paused = true) ∧
    (hubS.hub.cmds.length < 16384 ∧ cqFull.hub.cqRoom 0 = false ∧ hubS.hub.turnRing ≠ some (1 : Fin 64).val) ∧
    cmdBad (cmd 0x05 []) = true ∧ hubS.hub.tenantOf (hubS.hub.ringPart 0) 9 = false ∧
    ((lostTable 3 hubS).hub.owner 3 ≠ some 3 ∧ (∀ k < 3, (lostTable 3 hubS).hub.owner k = ownerReset k) ∧ (lostTable 3 hubS).hub.mayFetch 0 = true) ∧
    ((withCmd (cmd 0 []) hubS).hub.cmdNext 0 0x00 = some (out (cmd 0 [])) ∧ (out (cmd 0 [])).ring = (0 : Fin 64).val ∧
      ((withCmd (cmd 0 []) hubS).hub.ring 0).en = true ∧
      ((withCmd (cmd 0 []) hubS).hub.ring ((withCmd (cmd 0 []) hubS).hub.cqOf 0)).cqUsed < 2 ^ 4) ∧
    2 ^ (cqFull.hub.ring 0).cqLog.toNat ≤ (cqFull.hub.ring 0).cqUsed := by decide +kernel

/-- A hub with n outstanding commands of tenant 1, and a pool that tenant 2 asks for. -/
def poolS (n : Nat) : State := hubS.updHub fun h => { h with cmds := List.replicate n (out (cmd 0 [])), poolAsk := [(0, 2)] }
theorem poolS_length (n : Nat) : (poolS n).hub.cmds.length = n := by simp [poolS, State.updHub]
theorem poolS_held (n : Nat) : (poolS n).hub.held 0 (some 1) = n := by
  have one : (out (cmd 0 [])).cmd.tenant.toNat = 1 := by decide +kernel
  simp [Hub.held, poolS, State.updHub, one]

/-- CommandRings: the pool of outstanding commands full, and a tenant at its eighth of a pool that another wants. -/
theorem wit_CommandRings_pools :
    (16384 ≤ (poolS 16384).hub.cmds.length ∧ (poolS 16384).hub.paused = false ∧ (poolS 16384).hub.inService = true ∧
      ((poolS 16384).hub.ring 0).en = true ∧ ((poolS 16384).hub.ring 0).sqHead ≠ ((poolS 16384).hub.ring 0).sqTail) ∧
    ((poolS 2048).hub.wanted 0 1 = true ∧ poolShare 0 ≤ (poolS 2048).hub.held 0 (some 1)) :=
  ⟨⟨(poolS_length 16384).ge, by decide +kernel, by decide +kernel, by decide +kernel, by decide +kernel⟩, by decide +kernel,
    (poolS_held 2048).ge⟩

def cOpen : HostCmd := cmd 0x10 [(8, 8, 9), (0x10, 1, 0), (0x12, 2, 5)]
def sOpen : State := withProg prog1 (withCmd cOpen hubS)
def strm (st : Nat) : Stream :=
  { Stream.reset with st := st, part := 0, tenant := 1, prog := 9, slot := 0, remain := 4, outstanding := decide (st ≠ 1) }
/-- Stream 0 in a state, and a command for it on the ring. -/
def withStream (x : Stream) (c : HostCmd) : State :=
  (withProg prog1 (withCmd c hubS)).updHub fun h => { h with streams := [(0, x)], parts := [(0, { h.part 0 with sused := 1 })] }

/-- StreamsAndTokens: an OPEN with room. -/
theorem wit_StreamsAndTokens_open :
    kept sOpen.hub = true ∧
    sOpen.hub.cmdNext 0 0x10 = some (out cOpen) ∧ sOpen.hub.progIn 0 (cmdN cOpen 8 8) = some prog1 ∧ sOpen.hub.loaderBusy 0 = false ∧
    sOpen.hub.poolOk 1 1 = true ∧ (sOpen.hub.part 0).sused < (sOpen.hub.part 0).squota ∧
    (sOpen.hub.openStreams fun x => x.tenant = 1).length < sOpen.mgmt.streamQuota 1 ∧
    (List.range prog1.slots).find? (fun k => (Sparse.find? prog1.slotUse k).isNone) = some 0 ∧ sOpen.admits 0 1 (cmdN cOpen 0x10 1) prog1 = true ∧
    (List.range 8192).find? (fun i => decide ((sOpen.hub.stream i).st = 0)) = some 0 := by decide +kernel

def cReq (r : Nat) : HostCmd := cmd 0x11 [(8, 2, 0), (0xC, 4, 3), (0x10, 4, 4), (0x14, 4, r)]
/-- StreamsAndTokens: requests with and without invocations in IDLE and in HELD. -/
theorem wit_StreamsAndTokens_requests :
    ∀ st ∈ [1, 4], ∀ r ∈ [0, 6], (withStream (strm st) (cReq r)).hub.cmdNext 0 0x11 = some (out (cReq r)) ∧
      (withStream (strm st) (cReq r)).streamOf 0 0 = true ∧ kept (withStream (strm st) (cReq r)).hub = true ∧
      ((withStream (strm st) (cReq r)).hub.stream 0).st = st ∧
      ((withStream (strm st) (cReq r)).hub.stream 0).outstanding = decide (st = 4) ∧
      (withStream (strm st) (cReq r)).hub.prog ((withStream (strm st) (cReq r)).hub.stream 0).prog = some prog1 ∧
      (bucketPair img1.buckets (cmdN (cReq r) 0xC 4) (cmdN (cReq r) 0x10 4)).isSome = true ∧ cmdN (cReq r) 0x14 4 = r := by
  decide +kernel

/-- StreamsAndTokens: STOP, CLOSE and RELEASE in the states of a stream, a queued request, no such stream, a table that another block owns,
a SIGNAL, and counters at their bound. -/
theorem wit_StreamsAndTokens_rest :
    (∀ st ∈ [1, 2, 3, 4], (withStream (strm st) (cmd 0x12 [])).hub.cmdNext 0 0x12 = some (out (cmd 0x12 [])) ∧
      (withStream (strm st) (cmd 0x12 [])).streamOf 0 0 = true ∧ ((withStream (strm st) (cmd 0x12 [])).hub.stream 0).st = st ∧
      ((withStream (strm st) (cmd 0x12 [])).hub.stream 0).queued = [] ∧ kept (withStream (strm st) (cmd 0x12 [])).hub = true) ∧
    ((withStream { strm 2 with queued := [cReq 6] } (cmd 0x12 [])).hub.stream 0).queued = cReq 6 :: [] ∧
    (∀ st ∈ [1, 2, 3, 4], (withStream (strm st) (cmd 0x13 [])).hub.cmdNext 0 0x13 = some (out (cmd 0x13 [])) ∧
      ((withStream (strm st) (cmd 0x13 [])).hub.stream 0).closeDue = false) ∧
    (∀ n ∈ [0, 0xFFFF], (withStream (strm 4) (cmd 0x14 [(8, 2, n)])).hub.cmdNext 0 0x14 = some (out (cmd 0x14 [(8, 2, n)])) ∧
      cmdN (cmd 0x14 [(8, 2, n)]) 8 2 = n) ∧
    (∀ o ∈ [0x11, 0x12, 0x13, 0x14], (withStream (strm 1) (cmd o [(8, 2, 1)])).streamOf 0 1 = false ∧
      cmdN (cmd o [(8, 2, 1)]) 8 2 = 1 ∧ (withStream (strm 1) (cmd o [(8, 2, 1)])).hub.cmdNext 0 (BitVec.ofNat 8 o) = some (out (cmd o [(8, 2, 1)]))) ∧
    (lostTable 0 (withStream (strm 1) (cReq 6))).hub.owner 0 ≠ some 3 ∧
    ((withProg prog1 (withCmd (cmd 0x20 [(8, 8, 9)]) hubS)).hub.cmdNext 0 0x20 = some (out (cmd 0x20 [(8, 8, 9)])) ∧
      (withProg prog1 (withCmd (cmd 0x20 [(8, 8, 9)]) hubS)).hub.progIn 0 9 = some prog1) ∧
    (63 < 64 ∧ (rst.core 0).getTok 63 + 255 ≤ 255 ∧ 255 < (rst.core 0).getTok 63 + 256) := by decide +kernel

def cInst (n : Nat) : HostCmd := cmd 0x01 [(8, 8, 0), (0x10, 4, n)]
def sInst (bs : List Byte) (n : Nat) : State := withImg bs (withCmd (cInst n) hubS)
def cRep (n : Nat) : HostCmd := cmd 0x01 [(8, 8, 0), (0x10, 4, n), (0x14, 1, 1), (0x18, 8, 9)]
def sRep (bs : List Byte) (n : Nat) : State := withImg bs (withProg prog1 (withCmd (cRep n) hubS))

/-- ProgramInstallation: a sound image, one without a header, and a full install queue. -/
theorem wit_ProgramInstallation_install :
    (let s := sInst (imgBytes (secs1 0)) (imgLen 0); let o := out (cInst (imgLen 0))
     s.hub.nextCmdIf 0 0x01 (fun c => cmdN c 0x14 1 = 0) = some o ∧ s.hub.poolOk 2 o.cmd.tenant.toNat = true ∧
      s.verify 0 1 0 (cmdN o.cmd 0x10 4) (s.imageAt 0 0 listed1) none none = .ok [0]) ∧
    (let s := sInst [] 64; errs (s.verify 0 1 0 64 (s.imageAt 0 0 listed1) none none) = true) ∧
    (hubS.updHub fun h => { h with cmds := List.replicate 4 { out (cInst 64) with taken := true } }).hub.poolOk 2 1 = false := by
  decide +kernel

/-- ProgramInstallation: a code replacement, a full one, and one whose retained sections are gone. -/
theorem wit_ProgramInstallation_replace :
    (let s := sRep (imgBytes (secs1 0)) (imgLen 0); let o := out (cRep (imgLen 0)); let img := s.imageAt 0 0 listed1
     s.hub.nextCmdIf 0 0x01 (fun c => cmdN c 0x14 1 = 1) = some o ∧ s.hub.progIn 0 (cmdN o.cmd 0x18 8) = some prog1 ∧
      s.hub.poolOk 2 o.cmd.tenant.toNat = true ∧ sameSections prog1.img img = true ∧ s.manifestGone 0 = false ∧
      s.verify 0 1 0 (cmdN o.cmd 0x10 4) img (some 9) (some prog1.lcores) = .ok [0]) ∧
    (let s := sRep (imgBytes (secs1 4)) (imgLen 4); let img := s.imageAt 0 0 listed1
     sameSections prog1.img img = false ∧ s.verify 0 1 0 (imgLen 4) img (some 9) none = .ok [0]) ∧
    { hubS with ext := { hubS.ext with copyAOff := [0], copyBOff := [0] } }.manifestGone 0 = true := by decide +kernel

/-- A program that a full replacement takes to another image. -/
def sFull (run : Bool) : State :=
  (withProg { prog1 with st := .fullReplacing, newImg := some img1 } hubS).updHub fun h => { h with invs := if run then [inv1] else [] }
def sSwitch : State := withProg { prog1 with st := .codeReplacing, newImg := some img1 } hubS
/-- ProgramInstallation: an installation that arms, the end of a full replacement with and without cores and while an invocation runs, a
switch that may and that may not happen, and an UNINSTALL. -/
theorem wit_ProgramInstallation_end :
    ((withProg { prog1 with st := .installing } hubS).hub.prog 9 = some { prog1 with st := .installing } ∧
      ((withProg { prog1 with st := .installing } hubS).armImage img1 [0]).2 = true) ∧
    ((sFull true).hub.runs 9 = true ∧ (sFull false).hub.runs 9 = false) ∧
    (let s := sFull false; let s1 := (prog1.lcores.foldl State.stopCore s).unloadImage img1 prog1.lcores 9
     s1.overOneRuntime (bindCores img1) (s1.freeCores 0 (some 9)) = some [0] ∧ ((s1.loadImage img1 [0] 0 9).armImage img1 [0]).2 = true) ∧
    (let s := (sFull false).updHub fun h => { h with parts := [(0, { h.part 0 with cores := 0 })] }
     let s1 := (prog1.lcores.foldl State.stopCore s).unloadImage img1 prog1.lcores 9
     s1.overOneRuntime (bindCores img1) (s1.freeCores 0 (some 9)) = none) ∧
    (sSwitch.hub.runs 9 = false ∧ prog1.lcores.Nodup) ∧ (sSwitch.updHub fun h => { h with invs := [inv1] }).hub.runs 9 = true ∧
    ((withProg prog1 (withCmd (cmd 0x02 [(8, 8, 9)]) hubS)).hub.cmdNext 0 0x02 = some (out (cmd 0x02 [(8, 8, 9)])) ∧
      (withProg prog1 (withCmd (cmd 0x02 [(8, 8, 9)]) hubS)).hub.loaderBusy 0 = false) := by decide +kernel

/-- HubMemories: aligned accesses at the last word, a misaligned one, a core outside its commons, the partition table, an owner and a
stranger, a bank with another owner. -/
theorem wit_HubMemories :
    (hubS.atomicFault .scheduler .creditPools 0xFFC 4 = 0 ∧ hubS.atomicFault .scheduler .tenantTable 0xFFF8 8 = 0 ∧
      (commons rst).atomicFault .island (.commonsBank 0) 0x3FFFF8 8 = 0) ∧
    4 % (if true then 8 else 4) ≠ 0 ∧ (HubAgent.fabric 5 = .fabric 5 ∧ ∀ k, CtlMem.creditPools ≠ .commonsBank k) ∧
    (HubAgent.loader ≠ .island ∧ (∀ c, HubAgent.loader ≠ .fabric c) ∧ 0xFF8 % (if true then 8 else 4) = 0 ∧
      0xFF8 + (if true then 8 else 4) ≤ 0x1000) ∧
    (hubS.ownsMem (.fabric 5) .creditPools = false ∧ HubAgent.fabric 5 ≠ .island ∧ hubS.ownsMem .scheduler .creditPools = true) ∧
    hubS.hub.owner (5 + (63 : Fin 64).val) ≠ some 2 := by
  refine ⟨by decide +kernel, by decide, ⟨rfl, ?_⟩, ⟨by decide, ?_, by decide, by decide⟩, by decide +kernel, by decide +kernel⟩
  · intro k h
    cases h
  · intro c h
    cases h

def sInv (rem : Nat) (f : Option Byte) (p : Bool) : State :=
  (if p then withProg prog1 hubS else hubS).updHub fun h => { h with
    invs := [{ inv1 with busy := [], fault := f }],
    streams := [(0, { Stream.reset with st := 3, part := 0, tenant := 1, prog := 9, remain := rem, outstanding := true })] }

/-- EpochsAndInvocations: a hub that does not admit, a step record with steps left, an invocation that ends and one that faulted. -/
theorem wit_EpochsAndInvocations :
    rst.hub.admitting = false ∧
    ((0 : CoreId).val ∈ inv1.busy ∧ Sparse.get inv1.granted 0 (0 : CoreId).val < inv1.nsteps) ∧
    (∀ r ∈ [1, 2], ((sInv r none true).hub.stream 0).queued = [] ∧ ((sInv r none true).hub.stream 0).closeDue = false ∧
      ((sInv r none true).hub.stream 0).holdDue = false ∧ ((sInv r none true).hub.stream 0).stopDue = false ∧
      ((sInv r none true).hub.stream 0).results = 0 ∧ kept (sInv r none true).hub = true) ∧
    ((sInv 2 (some 0x20) false).hub.prog 9 = none ∧ inv1.prog = 9 ∧ inv1.streams = [0]) := by decide +kernel

/-- A replica with a stream that waits. -/
def sReady : State := (withStream (strm 2) (cReq 6)).updHub fun h => { h with cmds := [] }
/-- BudgetsWithinGrant: a grant equal to the floors and one below them, a program that has nothing to run, one that is dispatched, and a
core that no hold waits for. -/
theorem wit_BudgetsWithinGrant :
    ([0].map hubS.hub.floor).sum ≤ hubS.hub.floor 0 ∧ 0 < hubS.hub.floor 0 ∧ hubS.idleReplica { prog1 with st := .held } = false ∧
    (sReady.idleReplica prog1 = true ∧ sReady.batchOf .fill prog1 ≠ [] ∧
      opt (sReady.hub.batchPair prog1 (sReady.batchOf .fill prog1)) (fun p => decide (batchEst prog1.img p ≤ 1)) = true) ∧
    (0 ∈ prog1.lcores ∧ (sReady.core 0).holdAt = false) := by
  decide +kernel

/-! ## Witnesses: dictionary writes, partitions, rebinding, dies -/

def onS : State := { hubS with power := { hubS.power with st := .on } }
/-- The rows of DictionaryWriteRows: role, object and value. -/
def writeRows : List (Nat × Nat × Nat × List Byte) :=
  [(2, 0x3000, 2, [1]), (2, 0x3000, 2, [2]), (2, 0x300F, 2, [3]), (2, 0x3000, 2, [4]), (2, 0x3000, 2, [5]), (2, 0x3000, 2, [6]),
   (2, 0x7200, 4, [1, 0, 0, 0]), (2, 0x7200, 8, [1]), (2, 0x7200, 8, [2]),
   (3, 0x8000, 2, [1]), (3, 0x8000, 2, [2]), (3, 0x8000, 2, [3]), (3, 0x8000, 3, [19]), (3, 0x8000, 3, [20]), (3, 0x8000, 3, [24]),
   (3, 0x8010, 1, [3]), (1, 0xB000, 3, [0, 0, 0, 0]),
   (2, 0x9000, 2, [0, 1, 1, 0, 64, 0, 1, 0] ++ List.replicate 8 0), (2, 0x9000, 7, [0]), (2, 0x9000, 8, [0]),
   (2, 0xA000, 3, [1, 1]), (2, 0xA000, 3, [2, 1]), (2, 0xA000, 3, [3, 1]), (2, 0xA000, 3, [4, 1]), (2, 0x2000, 1, [0xDC, 5])]
def unsigned (r : Nat × Nat × Nat × List Byte) : Frame :=
  frame0 2 r.2.1 r.2.2.1 ((findObj r.2.1 r.2.2.1).map (·.type) |>.getD 0) r.2.2.2

/-- DictionaryWriteRows: each row's frame is granted. -/
theorem wit_DictionaryWriteRows : ∀ r ∈ writeRows, ∃ o, (withSes r.1 onS).grants (wframe r.2.1 r.2.2.1 r.2.2.2) 0 (ses r.1) o := by
  intro r hr
  exact grants_of_check ((by decide +kernel : ∀ r ∈ writeRows, grantB (withSes r.1 onS) (unsigned r) 0 (ses r.1) = true) r hr) rfl

/-- DictionaryWriteRows: a write of the node ID in STANDBY. -/
theorem wit_DictionaryWriteRows_nodeId : ∃ o, (withSes 3 hubS).grants (wframe 0x1100 2 [7]) 0 (ses 3) o :=
  grants_of_check (by decide +kernel : grantB (withSes 3 hubS) (unsigned (3, 0x1100, 2, [7])) 0 (ses 3) = true) rfl

def w0 : Who := { role := 2, path := 0, slot := 0 }
/-- Partition 0 free. -/
def freeP : State :=
  hubS.updHub fun h => { h with parts := [(0, { h.part 0 with st := 0, cores := 0, squota := 0, lpsize := 0, tcount := 0, pmin := 0 })] }
/-- Partition 0 with a staged field. -/
def stagedS (key v : Nat) : State := hubS.updHub fun h => { h with
  parts := [(0, { h.part 0 with lpsize := 0 })], staged := [(0, { session := 0, fields := [(key, v)] })] }
def target (s : State) : Partition := targetEntry (s.hub.part 0) (((s.hub.stagedOf 0).map (·.fields)).getD [])
/-- A change of partition 0 whose conditions hold. -/
def chS (del : Bool) : State := hubS.updHub fun h => { h with
  changes := [(0, { target := { h.part 0 with cores := 6, cbanks := 2 }, deleting := del })],
  parts := [(0, { h.part 0 with st := 2, cgen := 4 })] }

/-- Partition 0 whose staged field takes core 0 away from a program that a load is under way beside. -/
def dispS : State :=
  (stagedS (256 * 0x3000 + 6) 2).updHub fun h => { h with programs := [{ prog1 with shadows := 0 }, { prog1 with handle := 10, lcores := [1], st := .installing, shadows := 0 }] }
/-- A rebinding of the partition under way beside a change. -/
def chBusy : State := withProg { prog1 with st := .rebinding } (chS false)

/-- PartitionChanges: create, delete of a partition with and without programs, commits of a share and of another field, one that displaces
a program while a load runs, both completions, and one that waits. -/
theorem wit_PartitionChanges :
    ((freeP.hub.part 0).st = 0 ∧ freeP.hub.stagedByOther 0 w0.slot = false ∧ freeP.changeRefused 0 (target freeP) = 0) ∧
    ((hubS.hub.part 0).st = 1 ∧ hubS.hub.openStreams (fun x => x.part = 0) = [] ∧ ∀ g ∈ hubS.hub.programs, g.part ≠ 0) ∧
    (∃ g ∈ (withProg prog1 hubS).hub.programs, g.part = 0) ∧
    ((stagedS (256 * 0x3100 + 6) 3).changeRefused 0 (target (stagedS (256 * 0x3100 + 6) 3)) = 0 ∧
      onlyShares ((stagedS (256 * 0x3100 + 6) 3).hub.part 0) (target (stagedS (256 * 0x3100 + 6) 3)) = true) ∧
    ((stagedS (256 * 0x3000 + 7) 3).changeRefused 0 (target (stagedS (256 * 0x3000 + 7) 3)) = 0 ∧
      onlyShares ((stagedS (256 * 0x3000 + 7) 3).hub.part 0) (target (stagedS (256 * 0x3000 + 7) 3)) = false ∧
      (stagedS (256 * 0x3000 + 7) 3).hub.displaced 0 (target (stagedS (256 * 0x3000 + 7) 3)) = []) ∧
    ((chS true).hub.changeReady 0 = true ∧ Sparse.find? rst.hub.changes 0 = none) := by decide +kernel
theorem wit_PartitionChanges_displaced :
    (dispS.hub.part 0).st = 1 ∧ dispS.changeRefused 0 (target dispS) = 0 ∧ onlyShares (dispS.hub.part 0) (target dispS) = false ∧
    dispS.hub.displaced 0 (target dispS) ≠ [] ∧ dispS.hub.loaderBusy 0 = true := by decide +kernel
theorem wit_PartitionChanges_complete :
    (∀ ch, Sparse.find? (chS false).hub.changes 0 = some ch → ch.deleting = false) ∧ (chS false).hub.changeReady 0 = true ∧
    chBusy.hub.changeReady 0 = false := by
  refine ⟨?_, by decide +kernel, by decide +kernel⟩
  intro ch h
  cases h
  rfl

/-- Two cores in the partition, and a program on core 0. -/
def rbS : State := (withProg prog1 hubS).updHub fun h => { h with parts := [(0, { h.part 0 with cores := 3 })] }
def rb2 : State := after (exec (.rebindStart 9 [0]) rbS)
def rbRun : State := rb2.updHub fun h => { h with invs := [inv1] }
/-- A test of the program's core under way. -/
def rbBusy : State := rbS.updMaint fun m => { m with ops := [{ MaintOp.of .march with die := some 0, cores := [0], part := some 0 }] }
/-- A core of the program that no resource set holds any longer. -/
def rbOut : State := (withProg prog1 hubS).updMaint fun m => { m with excluded := [0] }
def rbCode : State := rbRun.updHub fun h => { h with programs := h.programs ++ [{ prog1 with handle := 10, st := .codeReplacing }] }
/-- The source's die lost, and no copy of its shadow complete. -/
def rbGone : State :=
  let s := rb2.setDie 0 { rb2.die 0 with lost := true }
  { s with ext := { s.ext with copyAOff := [0], copyBOff := [0] } }

/-- Rebinding: room and no room, the arbiter's refusal, an excluded core, the hold with and without the partition's lock, and a copy that is
ready, with and without a shadow. -/
theorem wit_Rebinding :
    (rbS.hub.prog 9 = some prog1 ∧ prog1.lcores ≠ [] ∧ rbS.hub.rebindOf 9 = none ∧
      opt (rbS.newBinding prog1 [0] []) (fun b => (rbS.maint.blocker (rebindOp prog1 b)).isNone) = true) ∧
    opt (rbBusy.newBinding prog1 [0] []) (fun b => (rbBusy.maint.blocker (rebindOp prog1 b)).isSome) = true ∧
    ((withProg prog1 hubS).newBinding prog1 [0] [] = none ∧ prog1.lcores.getD 0 0 ∉ (withProg prog1 hubS).maint.excluded) ∧
    (rbOut.newBinding prog1 [0] [] = none ∧ prog1.lcores.getD 0 0 ∈ rbOut.maint.excluded ∧
      ((sReady.hub.stream 0).prog = 9 ∧ (sReady.hub.stream 0).st = 2)) := by decide +kernel
theorem wit_Rebinding_hold :
    (rbRun.hub.runs 9 = true ∧ rbRun.hub.rebindLocked 0 = true ∧
      opt (rbRun.hub.rebindOf 9) (fun r => !r.recover && decide (r.part = 0) && opt (rbRun.hub.prog 9) fun g => !rbRun.copyReady r g) = true) ∧
    rbCode.hub.rebindLocked 0 = false ∧ rb2.hub.runs 9 = false ∧
    opt (rb2.hub.rebindOf 9) (fun r => !r.recover && (r.moves.all fun m => !(rb2.die (coreDie m.1)).gone) &&
      opt (rb2.hub.prog 9) fun g => rb2.copyReady r g) = true ∧
    opt (rbGone.hub.rebindOf 9) (fun r => !r.recover && (r.moves.any fun m => (rbGone.die (coreDie m.1)).gone) && rbGone.manifestGone r.part &&
      opt (rbGone.hub.prog 9) fun g => rbGone.copyReady r g) = true := by decide +kernel

def s3 : State := { (hubS.setDie 3 { hubS.die 3 with reg := .on, inReset := false }) with power := { hubS.power with st := .on } }
/-- DieLossAndWatchdogs: a die that runs and one that does not, a lost one, a held one, a record to persist, a hub and an island in service. -/
theorem wit_DieLossAndWatchdogs :
    ((s3.die 3).runs = true ∧ (s3.die 19).runs = false ∧ (s3.die 3).reg = .on ∧ (s3.die 3).lost = false ∧ (s3.die 3).resetHold = false ∧
      s3.hub.programs = [] ∧ s3.hub.rebinds = []) ∧
    ((s3.loseDie 3).die 3).lost = true ∧ ((s3.setDie 3 { s3.die 3 with resetHold := true }).die 3).resetHold = true ∧
    ((hubS.journalDev 0xB1 2 3 4).hub.islandQ ≠ [] ∧ (hubS.journalDev 0xB1 2 3 4).hub.persistent.length < 262144) ∧
    hubS.hub.islandQ = [] ∧ hubS.hub.inService = true ∧ (withSes 2 hubS).mgmt.up = true := by decide +kernel

/-! ## Witnesses: power -/

def downOf (s : State) : State := after (exec (.offRequest false) s)
def down3 : State := after (exec .diesIdle (after (exec .graceEnd (downOf onState))))

def isl (b : Bool) (s : State) : State := { s with mgmt := { s.mgmt with up := b } }
/-- PowerSequence: every package state that a clause speaks of, up to ON. -/
theorem wit_PowerSequence_up :
    (ps .off).power.st = .off ∧ rst.power.st ≠ .off ∧
    (rst.power.aux = true ∧ (isl false rst).mgmt.up = false ∧ rst.power.gasp = [] ∧ rst.power.gaspTorn = false) ∧
    ((pw fun p => { p with aux := false }).power.aux = false ∧ (isl true rst).mgmt.up = true) ∧
    (hubS.power.st = .standby ∧ hubS.power.hold = false ∧ 2 ≤ bitsOn hubS.power.pdOn ∧ (isl true hubS).mgmt.up = true) ∧
    ((pw fun p => { p with hold := true }).power.hold = true ∧ (isl false hubS).mgmt.up = false) ∧
    (let s := pw fun p => { p with st := .up 0, mgmtRef := true, busTested := false }
     s.power.st = .up 0 ∧ s.power.busTested = false ∧ s.power.mgmtRef = true) ∧
    (let s := pw fun p => { p with st := .up 0, busTested := true, busOn := false }
     s.power.st = .up 0 ∧ s.power.busTested = true ∧ s.power.busOn = false) ∧
    (chain.power.st = .up 1 ∧ (∀ d ∈ chain.stepDies 1, (chain.die d).reg ≠ .hiccup) ∧ chain.power.offDue = false ∧
      (∃ d ∈ chain.stepDies 1, (chain.die d).reg = .attempt ∧ d ∉ chain.stepDies 2)) ∧
    (∃ d ∈ (dS 20 (fun x => { x with reg := .hiccup }) chain).stepDies 1, ((dS 20 (fun x => { x with reg := .hiccup }) chain).die d).reg = .hiccup) ∧
    onState.power.st = .on := by decide +kernel
/-- PowerSequence: the way down from ON, from a step under way, and from UP(0). -/
theorem wit_PowerSequence_down :
    ((downOf chain).power.st = .up 1 ∧ (downOf chain).power.offDue = true) ∧
    ((downOf onState).power.stage = 1 ∧ (downOf onState).hub.cmds = [] ∧ (downOf onState).hub.islandQ = []) ∧
    (let s := after (exec .graceEnd (downOf onState))
     s.power.stage = 2 ∧ (s.core (0 : CoreId).val).queue = [] ∧ (s.core (0 : CoreId).val).sigs = []) ∧
    (down3.power.st = .down 6 ∧ down3.power.stage = 3 ∧ (5 : Nat) < 6) ∧
    (ps (.down 0)).power.st = .down 0 ∧ ((ps .minOff).power.st = .minOff ∧ (ps .minOff).onHolds = false) ∧
    (let s := isl true (pw fun p => { p with st := .minOff, en := true, trayStopN := true, coolantOk := true, vinOk := true, hold := false })
     s.power.st = .minOff ∧ s.onHolds = true ∧ s.mgmt.up = true) ∧ (ps .latched).power.st = .latched := by decide +kernel

/-- PowerFaults: regulators in each state with the third and the fourth attempt, the hub die's, a bus before and after its test, phases at
the boundary, power dies left. -/
theorem wit_PowerFaults :
    (∀ n ∈ [3, 4], ((dS 4 fun x => { x with reg := .attempt, attempts := n }).die 4).reg = .attempt ∧
      ((dS 4 fun x => { x with reg := .attempt, attempts := n }).die 4).attempts = n ∧
      ((dS 4 fun x => { x with reg := .attempt, attempts := n }).die 4).lost = false) ∧
    ((dS 20 fun x => { x with reg := .attempt, attempts := 4 }).die 20).reg = .attempt ∧
    (onState.power.offDue = false ∧ (pw (fun p => { p with offDue := true }) onState).power.offDue = true) ∧
    (∀ k, k < 7 → onState.power.st ≠ .down k) ∧ ((dS 4 fun x => { x with reg := .hiccup }).die 4).reg = .hiccup ∧
    ((onState.die 4).reg = .on ∧ (onState.die 20).reg = .on ∧ (onState.die 4).lost = false) ∧
    (onState.power.busTested = true ∧ rst.power.busTested = false) ∧
    (bitOf (onState.die 4).inService 3 = true ∧ 12 ≤ phasesOn (onState.die 4).inService - 1) ∧
    (bitOf onState.power.pdOn 3 = true ∧ onState.power.st ≠ .off ∧ bitsOn (pw (fun p => { p with pdOn := 0xB }) onState).power.pdOn = 3 ∧
      bitsOn (pw (fun p => { p with pdOn := 0x9 }) onState).power.pdOn ≤ 2 ∧ bitOf (0xB : BitVec 4) 2 = false) := by decide +kernel

/-- PowerFaults: one bad phase in the readings of a die whose 49 readings before mismatched. -/
theorem wit_PowerFaults_sense :
    ((dS 4 fun x => { x with mismatch := 49 }).die 4).mismatch + 1 = 50 ∧
    badSense ((dS 4 fun x => { x with mismatch := 49 }).die 4).inService 0xFFFFFF ((List.replicate 24 60).set 3 100) = [3] := by decide +kernel

/-- SafetyTriggers: the package in ON, STANDBY and LATCHED, an image of the last gasp that is due, a die that is on and one that is lost. -/
theorem wit_SafetyTriggers :
    onState.power.st = .on ∧ hubS.power.st = .standby ∧ (pw fun p => { p with gaspDue := true }).power.gaspDue = true ∧
    (ps .latched).power.st = .latched ∧ onState.power.st ≠ .latched ∧ ((onState.die 4).reg = .on ∧ (onState.die 4).gone = false) ∧
    ((dS 4 fun x => { x with lost := true }).die 4).gone = true := by decide +kernel

/-- PowerFaults: readings that agree and that do not, whatever a regulator's efficiency is. -/
theorem wit_PowerFaults_sense_off (e : Nat) :
    ¬(132 * 0 < 0 - 0 * 1800 * e / 1000 ∨ 132 * 0 < 0 * 1800 * e / 1000 - 0) ∧
    ((dS 4 fun x => { x with mismatch := 48 }).die 4).mismatch + 1 < 50 := by
  refine ⟨by simp, by decide +kernel⟩

def staging (s : State) : State := s.setCore ((dieCores 3).headD 0) { s.core ((dieCores 3).headD 0) with
  pass := some { id := 1, before := Tile.reset, phase := .staged, macs := [0], wlog := 2, sparse := false, attempt := 0, staged := [], sats := 0, satAny := false,
                 maskOff := [], baseVal := [], baseSt := [], decided := [], planes := 0, stopped := [], ahsrc := 0, exitTab := [] } }
def paced : State := pw (fun p => { p with slack := 4 }) (dS 4 fun x => { x with paceCeil := 3 })
def jobOf (s : State) : State := { s with mgmt := s.mgmt.setObj 0x7200 1 5 }

/-- PowerControlAndRamp: a die that runs and one that does not, moves, a bus that is on, measured energy, sensors, monitors. -/
theorem wit_PowerControlAndRamp_loops :
    ((onState.die 4).runs = true ∧ (rst.die 4).runs = false) ∧
    (({ DieState.reset with point := 5, grant := 3 } : DieState).nextMove 4).pll = some 4 ∧ DieState.reset.move.pll = none ∧
      DieState.reset.move.ramp = none ∧
    ((dS 4 fun x => { x with move := { ramp := none, pll := some 3 } }).die 4).move.pll = some 3 ∧
    ((dS 4 fun x => { x with move := { ramp := some 33, pll := none } }).die 4).move.ramp = some 33 ∧
    onState.power.busOn = true ∧ 5 ≤ 2 * 3 ∧ 2 * 2 < 5 ∧
    (0 < (pw fun p => { p with buckets := List.replicate 250 100 }).power.buckets.sum ∧
      9 * (pw fun p => { p with buckets := List.replicate 250 100 }).power.buckets.sum ≤ 10 * 27500 ∧
      10 * 27500 ≤ 11 * (pw fun p => { p with buckets := List.replicate 250 100 }).power.buckets.sum) ∧
    16 < 64 - (validSensors (List.replicate 17 500 ++ List.replicate 47 80)).length ∧
    (64 - (validSensors (List.replicate 16 500 ++ List.replicate 48 89)).length ≤ 16 ∧
      ∀ x ∈ validSensors (List.replicate 16 500 ++ List.replicate 48 89), x < 90) ∧
    (∃ x ∈ validSensors (List.replicate 64 105), 105 ≤ x) ∧ ((5 : Fin 8).val < 6 ∧ 6 ≤ (6 : Fin 8).val) ∧
    (bitOf (onState.mon 5).cfg 31 = true ∧ bitOf ((onState.setMon 5 { onState.mon 5 with cfg := 0 }).mon 5).cfg 31 = false) := by
  decide +kernel

/-- PowerControlAndRamp: the ramp held, with and without a pass that waits, and a device with and without a job. -/
theorem wit_PowerControlAndRamp_ramp :
    ((staging onState).kraox.rampHold = false ∧ (staging onState).rampWaits 3 = true ∧ onState.rampWaits 3 = false) ∧
    { onState with kraox := { onState.kraox with rampHold := true } }.kraox.rampHold = true ∧
    ((jobOf paced).job ≠ 0 ∧ (jobOf paced).mgmt.obj 0x2100 7 = 0 ∧ (9 : BitVec 16) ≠ 0 ∧ paced.job = 0) := by decide +kernel

/-! ## Witnesses: Kraox and jobs -/

def flit0 (kind seq op : Nat) : Flit :=
  { fecOk := true, crcOk := true, seq := BitVec.ofNat 12 seq, ack := 0, kind := BitVec.ofNat 4 kind, vc := 0, dcl := false, cbuf := 0,
    cred := 0, dst := 0, src := 0x10, job := 0, ordered := false, detour := false, tree := false, op := BitVec.ofNat 8 op, msg := 0, payload := [] }
def port1 : Port :=
  { Port.reset with st := .up, h0 := { HalfLink.reset with up := true, good := 16, spares := 2 },
                    h1 := { HalfLink.reset with up := true, good := 9, spares := 0 }, rxSeq := 5, txSeq := 9,
                    unacked := [flit0 1 8 1, flit0 1 9 1], peerId := some 0x10 }
def portS (f : Port → Port) : State := rst.setPort 0 (f port1)
def upS : State := portS id

/-- KraoxLinks: a live port, flits in and out of order, a half with spares, one with 9 lanes and one with 8, and a port that is not live. -/
theorem wit_KraoxLinks :
    (((upS.port 0).half false).carries = true ∧ (upS.port 0).live = true ∧ (flit0 1 6 8).seq = (upS.port 0).rxSeq + 1 ∧
      (flit0 1 6 8).dst.toNat = upS.devId ∧ upS.inExtent upS.devId = true) ∧
    ((flit0 1 7 8).seq ≠ (upS.port 0).rxSeq + 1 ∧ (upS.port 0).waiting = []) ∧ { flit0 1 6 8 with crcOk := false }.crcOk = false ∧
    (∃ d, (upS.port 0).peerId = some d ∧ d ≠ { flit0 3 6 0 with src := 0x11 }.src) ∧ ((rst.port 0).half false).carries = false ∧
    ((upS.port 0).carries = true ∧ (upS.port 0).unacked = [] ++ flit0 1 8 1 :: [flit0 1 9 1]) ∧
    (0 < ((upS.port 0).half false).spares ∧ ((upS.port 0).half false).training = false) ∧
    (((upS.port 0).half true).spares = 0 ∧ 9 ≤ ((upS.port 0).half true).good) ∧
    (((portS fun x => { x with h1 := { x.h1 with good := 8 } }).port 0).half true).good < 9 ∧
    ((((portS fun x => { x with h1 := { x.h1 with training := true } }).port 0).half true).training = true ∧
      (((portS fun x => { x with h1 := { x.h1 with training := true } }).port 0).half true).dieLost = false) ∧
    ((upS.port 0).h0.carries = true ∧ (upS.port 0).h1.carries = true) ∧
    (((portS fun x => { x with st := .draining }).port 0).live = false ∧ ((portS fun x => { x with st := .draining }).port 0).st = .draining ∧
      ((portS fun x => { x with st := .draining }).port 0).h0.dieLost = false) := by
  refine ⟨by decide +kernel, by decide +kernel, by decide +kernel, ⟨0x10, by decide +kernel, by decide +kernel⟩, by decide +kernel,
    by decide +kernel, by decide +kernel, by decide +kernel, by decide +kernel, by decide +kernel, by decide +kernel, by decide +kernel⟩

def tree1 : Tree := { group := 3, members := [0, 0x10], parent := some 0x10, children := [] }
/-- Node 0 as the anchor of a job with a lease and one tree. -/
def jobS : State :=
  let s := rights 255 rst
  { withProg prog1 s with kraox := { s.kraox with trees := [tree1], anchor := some 0, lease := true, jobState := 1 },
                          mgmt := { s.mgmt with od := Sparse.set (Sparse.set s.mgmt.od 0 (256 * 0x7200 + 1) 5) 0 (256 * 0x7200 + 2) 0 } }
def jobM : State := { jobS with kraox := { jobS.kraox with anchor := some 0x10 } }
def jobF : State := { jobM with kraox := { jobM.kraox with frozen := true } }
/-- A collective descriptor at offset 64 of partition 0's region. -/
def collS (op : Nat) (count : Nat) : State :=
  let s : State := { jobS with hub := ({ jobS.hub with
    parts := [(0, { Partition.reset with st := 1, cores := 1, cbanks := 1, rights := 255 })] }).setOwner 10 (some 0) }
  s.updHub fun h => ([(0, 4, count), (4, 1, 1), (5, 1, op), (7, 1, 3), (8, 2, 5), (0xA, 2, 0x10), (0x10, 4, 0x100), (0x14, 4, 4),
    (0x18, 4, 0x200), (0x20, 8, 2 ^ 64 - 1), (0x28, 8, 2 ^ 64 - 1)]).foldl
      (fun (h : Hub) (f : Nat × Nat × Nat) => h.commonsPut 0 (64 + f.1) (leBytes f.2.1 f.2.2)) h

/-- CollectivesAndLeases: a descriptor that passes and one that fails, a job under way, the anchor and another device of a job. -/
theorem wit_CollectivesAndLeases :
    (let h := (collS 1 1).hub
     64 + 0x30 ≤ h.commonsSize 0 ∧ h.mj 0 64 0xC 4 = 0 ∧ h.mj 0 64 4 1 ≠ 0 ∧ h.mj 0 64 4 1 ≤ h.mj 0 64 0 4 ∧ h.jobs = [] ∧
      (collS 1 1).collCheck 0 64 = 0 ∧ collGroup h 0 64 ∉ (collS 1 1).kraox.blocked ∧ collOp h 0 64 = 1) ∧
    (collS 5 1).collCheck 0 64 ≠ 0 ∧ (collS 1 2).hub.mj 0 64 4 1 < (collS 1 2).hub.mj 0 64 0 4 ∧
    ((0x10 : BitVec 13).toNat ∉ jobS.kraox.lostNbr ∧ ∃ tr ∈ jobS.kraox.trees, (0x10 : BitVec 13).toNat ∈ tr.nbrs) ∧
    (jobS.isAnchor = true ∧ jobS.kraox.lease = true ∧ jobS.kraox.frozen = false ∧ jobS.hub.jobs = []) ∧
    (jobM.isAnchor = false ∧ jobM.job ≠ 0 ∧ jobM.kraox.frozen = false) ∧ jobF.kraox.frozen = true := by decide +kernel

/-! ## Witnesses: host ports, mailbox, external memory -/

def hset (f : HostPort → HostPort) (s : State) : State := s.setHost 0 (f (s.host 0))
def dies6 : State := [8, 1, 11, 18].foldl (fun s d => s.setDie d { s.die d with reg := .on, inReset := false }) hubS

/-- HostPortEvents: a port in reset, lanes with and without a spare, the attention pulse, a hub that may pause and one that is paused. -/
theorem wit_HostPortEvents :
    ((hset (fun h => { h with hrdy := .reset }) hubS).host 0).hrdy = .reset ∧
    ((3 : Fin 16).val ∉ (dies6.host 0).onSpare ∧ (dies6.die (spareDie 0 3)).gone = false ∧ dies6.spareTaken (spareDie 0 3) 3 = false) ∧
    ((3 : Fin 16).val ∈ ((hset (fun h => { h with onSpare := [3] }) dies6).host 0).onSpare ∧
      (3 : Fin 16).val ∉ (dies6.host 0).badLanes ∧ widestOf ((dies6.host 0).badLanes ++ [3]) ≠ 0) ∧
    ((hset (fun h => { h with hrdy := .attn }) hubS).host 0).hrdy = .attn ∧
    (hubS.hub.inService = true ∧ (hubS.updHub fun h => { h with admitting := false }).hub.admitting = false ∧ hubS.hub.paused = false) ∧
    ((hubS.updHub fun h => { h with paused := true }).hub.paused = true ∧ hubS.hub.admitting = true) := by decide +kernel

def opS : State := hset (fun h => { h with mbox := { h.mbox with operator := true } }) hubS
/-- MailboxCommands: a runtime that runs, a challenge, the failure that locks, an operator's write. -/
theorem wit_MailboxCommands :
    hubS.hub.paused = false ∧ (hubS.host 0).mbox.locked = false ∧
    ((hset (fun h => { h with mbox := { h.mbox with nonce := some [1, 2], fails := 4 } }) hubS).host 0).mbox.nonce = some [1, 2] ∧
    hubS.mgmt.obj 0x1200 7 ≤ 4 + 1 ∧ 126 ≤ 126 ∧
    (opt (findObj 0x2300 2) (fun o => decide (valueBad o [1, 0, 0, 0] = 0)) = true ∧ opS.judge (opS.mailboxWho 0) 0x2300 2 true = 0 ∧
      opS.mgmt.stagedElsewhere 10 (objKey 0x2300 2) = false) ∧ (hubS.updHub fun h => { h with paused := true }).hub.paused = true := by
  decide +kernel
/-- MailboxCommands: the proof is one tag, and a tag of another length is not it. -/
theorem wit_MailboxCommands_proof : ([] : List Byte) ≠ roleProof (hubS.mgmt.roleKey 1) [1, 2] 1 := by
  intro h
  have := congrArg List.length h
  simp [roleProof, hmac, leBytes] at this

def exS : State :=
  let s := after (execLpddrTrainingDone (List.replicate 16 4) dies6)
  let s := [0, 1, 2, 3, 7, 8, 11, 12, 16, 17, 18, 19].foldl (fun s d => s.setDie d { s.die d with reg := .on, inReset := false }) s
  { s with ext := { s.ext with hsh := 8 } }
def exF : State := exS.failChannel 0
/-- ExternalMemory: the last bytes of a port's memory and the first beyond, poison after a failed channel, a channel that works, one that
retrains, and copies that are and are not complete. -/
theorem wit_ExternalMemory :
    ((exS.hdmSize 0 - 5) % 64 + 5 ≤ 64 ∧ 0 < exS.hdmSize 0 ∧ exS.hdmSize 0 - 5 + [1, 2, 3, 4, (5 : Byte)].length ≤ exS.hdmSize 0) ∧
    ((exS.hdmSize 0 - 64) / 64 * 64 + 64 ≤ exS.hdmSize 0 ∧ exS.ext.unitBad (exS.host 0).poison ((exS.hdmSize 0 - 64) / 64 * 64) = false) ∧
    exF.ext.unitBad (exF.host 0).poison 0 = true ∧ exS.hdmSize 0 < exS.hdmSize 0 / 64 * 64 + 64 ∧
    ((exS.ext.chan 3).st = .ok ∧ (exS.die (chanDie 3)).gone = false ∧ exS.maint.blocker { MaintOp.of .lpddr with chan := some 3 } = none) ∧
    ((∃ o ∈ exF.maint.ops, o.kind = .lpddr ∧ o.chan = some (0 : Chan).val) ∧ exF.maint.again = []) ∧
    (exS.ext.setOk true = true ∧ (5 : PartId).val ∉ exS.ext.copyAOff ∧ exF.ext.setOk false = false ∧ (5 : PartId).val ∉ exS.ext.copyBOff) := by
  decide +kernel

/-! ## Witnesses: the object dictionary -/

def up1 : State := { rst with mgmt := { rst.mgmt with up := true } }
def chal : Frame := plain (frame0 3 0 0 0 [2])
def challenge0 : Challenge := { src := 5, service := false, role := 2, nonce := [1, 2] }
/-- The island with a challenge to answer. -/
def chS1 : State := { up1 with mgmt := { up1.mgmt with challenges := [challenge0] } }
def proof0 (s : State) : Frame := plain (frame0 4 0 0 0 (roleProof (s.mgmt.roleKey 2) [1, 2] 2))
def sw : State := withSes 2 rst

/-- A plain frame to the Q25 is received. -/
theorem plain_received {s : State} {f : Frame} (up : s.mgmt.up = true) (dst : f.dstAddr = Config.macAddr) (len : f.data.length = f.len.toNat) :
    s.receives (plain f) = true := by
  simp [State.receives, plain, up, dst, len, bitOf, bit]

/-- DictionarySessions, the challenge. -/
theorem wit_DictionarySessions_challenge :
    chal.op = 3 ∧ up1.receives chal = true ∧ chal.session = 0 ∧ frameBad chal = false ∧ chal.srcAddr ∉ up1.mgmt.lockouts ∧ chal.data = [2] ∧
    1 ≤ (2 : Byte).toNat ∧ (2 : Byte).toNat ≤ 3 ∧ (chal.service = true → (2 : Byte).toNat ≠ 3) ∧
    up1.mgmt.freeSlot chal.service (2 : Byte).toNat ≠ none ∧ Sparse.find? up1.mgmt.sessions 12 = none := by
  refine ⟨rfl, plain_received (by decide +kernel) rfl (by decide +kernel), rfl, by decide +kernel, by decide +kernel, rfl, by decide,
    by decide, by decide, by decide +kernel, by decide +kernel⟩

/-- DictionarySessions, the response: the right proof and a wrong one. -/
theorem wit_DictionarySessions_response :
    (proof0 chS1).op = 4 ∧ chS1.receives (proof0 chS1) = true ∧ (proof0 chS1).session = 0 ∧ frameBad (proof0 chS1) = false ∧
    chS1.mgmt.challenges.find? (fun x => decide (x.src = (proof0 chS1).srcAddr) && decide (x.service = (proof0 chS1).service)) = some challenge0 ∧
    Sparse.find? chS1.mgmt.sessions 12 = none ∧ (proof0 chS1).data = roleProof (chS1.mgmt.roleKey 2) challenge0.nonce challenge0.role ∧
    chS1.mgmt.freeSlot (proof0 chS1).service challenge0.role = some 0 ∧
    (plain (frame0 4 0 0 0 [])).data ≠ roleProof (chS1.mgmt.roleKey 2) challenge0.nonce challenge0.role := by
  refine ⟨rfl, plain_received (by decide +kernel) rfl ?_, rfl, by decide +kernel, by decide +kernel, by decide +kernel, rfl,
    by decide +kernel, ?_⟩
  · simp [frame0, roleProof, hmac, leBytes]
  · intro h
    have := congrArg List.length h
    simp [roleProof, hmac, leBytes, plain, frame0] at this

/-- DictionarySessions, a counter that has not moved, a CLOSE, an idle session. -/
theorem wit_DictionarySessions_rest :
    (sw.mgmt.sessionOf { frame0 1 0x1000 1 0 [] with ctr := 4 } = some (0, ses 2) ∧
      (ses 2).accepts (signed_ { frame0 1 0x1000 1 0 [] with ctr := 4 }) = false ∧
      sw.receives (signed_ { frame0 1 0x1000 1 0 [] with ctr := 4 }) = true ∧ (frame0 1 0x1000 1 0 []).session ≠ 0) ∧
    (sw.requests (signed_ (frame0 5 0 0 0 [])) 0 (ses 2) ∧ (frame0 5 0 0 0 []).op = 5 ∧ (0 : Nat) ≠ 12) ∧
    (Sparse.find? sw.mgmt.sessions (0 : Fin 10).val).isSome = true := by
  refine ⟨⟨by decide +kernel, ?_, ?_, by decide⟩, ⟨requests_of_check (by decide +kernel) rfl, rfl, by decide⟩, by decide +kernel⟩
  · simp [Session.accepts, signed_, frame0, ses]
  · simp [State.receives, signed_, frame0, tagOf_length, sw, withSes, bitOf, bit]

def wv : Who := { role := 2, path := 0, slot := 0 }
/-- DictionaryAccess: a read, a staged field of one session and of another, acknowledgements at the bounds, a key write, DISCOVER. -/
theorem wit_DictionaryAccess :
    sw.requests (signed_ (frame0 1 0x1000 1 0 [])) 0 (ses 2) ∧ sw.judge wv 0xB000 2 false = 0 ∧ (findObj 0xB000 2).isSome = true ∧
    (sw.hub.stagedByOther (0x3105 % 16) wv.slot = false ∧
      (sw.updHub fun h => { h with staged := [(5, { session := 1, fields := [] })] }).hub.stagedByOther (0x3105 % 16) wv.slot = true) ∧
    ((sw.journalDev 0xB1 2 3 4).hub.acked.toNat ≤ 1 ∧ 1 ≤ (sw.journalDev 0xB1 2 3 4).hub.seq.toNat ∧
      (sw.journalDev 0xB1 2 3 4).hub.seq.toNat < 2) ∧
    (Sparse.find? sw.mgmt.sessions wv.slot = some (ses 2) ∧ wv.path = 0 ∧ ({ wv with path := 2 } : Who).path ≠ 0) ∧
    (4 % 4 = 0 ∧ 3 % 4 ≠ 0) ∧ (sw.receives (plain (frame0 0x12 0 0 0 [])) = true ∧ frameBad (plain (frame0 0x12 0 0 0 [])) = false) ∧
    (sw.mgmt.up = true ∧ { sw with mgmt := { sw.mgmt with nodeId := 3 } }.mgmt.nodeId ≠ 0 ∧ rst.mgmt.nodeId = 0) := by
  refine ⟨requests_of_check (by decide +kernel) rfl, by decide +kernel, by decide +kernel, by decide +kernel, by decide +kernel,
    by decide +kernel, by decide, ⟨plain_received (by decide +kernel) rfl (by decide +kernel), by decide +kernel⟩, by decide +kernel⟩

def keyData : List Byte := List.replicate 40 1
def swKey : State := withSes 3 onP0 where onP0 : State := { hubS with power := { hubS.power with st := .standby } }
/-- DictionaryAccess: a key written from the bus. -/
theorem wit_DictionaryAccess_key :
    (∃ o, swKey.grants (signed_ (frame0 2 0x1200 3 ((findObj 0x1200 3).map (·.type) |>.getD 0) keyData)) 0 (ses 3) o) ∧
    isKeyWrite (frame0 2 0x1200 3 ((findObj 0x1200 3).map (·.type) |>.getD 0) keyData) = true :=
  ⟨grants_of_check (by decide +kernel) rfl, by decide +kernel⟩

/-- RolesAndLockedRange: a read without a session, roles in order, and the first index of the vendor range. -/
theorem wit_RolesAndLockedRange :
    (sw.receives (plain (frame0 1 0x1000 1 0 [])) = true ∧ (plain (frame0 1 0x1000 1 0 [])).session = 0 ∧
      frameBad (plain (frame0 1 0x1000 1 0 [])) = false ∧ (plain (frame0 1 0x1000 1 0 [])).op = 1) ∧
    (({ wv with role := 1 } : Who).role ≤ wv.role ∧ sw.judge { wv with role := 1 } 0x1000 1 false = 0) ∧
    ({ wv with role := 0 } : Who).role = 0 ∧ 0xF000 ≤ 0xF000 := by
  refine ⟨⟨plain_received (by decide +kernel) rfl (by decide +kernel), rfl, by decide +kernel, rfl⟩, by decide +kernel, rfl, by decide⟩

/-! ## Witnesses: maintenance, firmware, boot -/

def rstD : State := (List.range 21).foldl (fun s d => s.setDie d { s.die d with reg := .on, inReset := false, inService := 0xFFFFFF }) rst
def mOff (st : MacroSt) : State := rstD.setMac 3 7 { rstD.mac 3 7 with st := st }
def mop : MaintOp := { MaintOp.of .march with die := some (coreDie 3), cores := [3], units := [7], mode := 1, unitKind := 1 }
def withOp (o : MaintOp) (s : State) : State := { s with maint := { s.maint with ops := [o] } }
/-- MaintenanceTests: a macro that may be tested, a test that conflicts, one that ends, a die's retest, a failing row with its shadow, a
phase calibration with and without margin. -/
theorem wit_MaintenanceTests :
    ((rstD.die (coreDie 3)).runs = true ∧ ((mOff .offline).mac 3 7).st = .offline ∧ (mOff .offline).maint.blocker mop = none ∧
      ((withOp mop (mOff .offline)).maint.blocker mop).isSome = true) ∧
    ((1 : DieId).val = coreDie 3 ∧ (withOp mop (mOff .retired)).maint.again = [] ∧ ((withOp mop (mOff .retired)).mac 3 7).st = .retired) ∧
    (({ MaintOp.of .march with die := some 0, unitKind := 4 } : MaintOp).kind = .march ∧ (rstD.die 0).lost = false) ∧
    (5 < 2064 ∧ (badRow.mac 0 0).rawWrite = false ∧ (badRow.mac 0 0).failing 5 ≠ [] ∧ badRow.shadowRow 0 0 5 = some 77) ∧
    (rstD.maint.blocker { MaintOp.of .phaseCal with die := some 0 } = none ∧
      (rst.setDie 3 { rst.die 3 with inService := 0xFFF, reg := .on, inReset := false }).spareMargin 3 = false) ∧
    (∃ o ∈ (withOp { MaintOp.of .phaseCal with die := some 0 } rstD).maint.ops, o.kind = .phaseCal ∧ o.die = some 0) := by decide +kernel
/-- MaintenanceTests: 24 phases leave the margin wherever the die's current, which the spec leaves to the implementation, fits 23 of them. -/
theorem wit_MaintenanceTests_margin (h : 10 * icur 0 0 ≤ 54 * 23) : rstD.spareMargin 0 = true := by
  have n : phasesOn (rstD.die 0).inService = 24 := by decide +kernel
  have g : (rstD.die 0).grant = 0 := by decide +kernel
  unfold State.spareMargin
  simp only [n, g]
  simpa using h
/-- MaintenanceTests: a row that failed before in the cycle, with a spare row left, and the end of a bank's test. -/
def failedS : State := { badRow with macros := (badRow.setMac 0 0 { badRow.mac 0 0 with failedRows := [(5, [])] }).macros }
theorem wit_MaintenanceTests_row :
    (badRow.mac 0 0).takesRows ∧ (badRow.mac 0 0).failedRows = [] ∧
    ((failedS.mac 0 0).takesRows ∧ (failedS.mac 0 0).failing 5 ≠ [] ∧ failedS.shadowRow 0 0 5 = some 77 ∧
      (∃ e ∈ (failedS.mac 0 0).failedRows, e.1 = 5) ∧ repairNames (rowRepair 5) = true ∧
      (((failedS.mac 0 0).noteRead 5).fitSpare (rowRepair 5)).isSome = true) ∧
    (∃ o, (withOp { MaintOp.of .march with die := some (1 : DieId).val, cores := [(3 : CoreId).val], units := [2], mode := 1, unitKind := 0 } rstD).maint.ops = [o] ∧
      (withOp o rstD).maint.again = []) ∧ (rst.updHub fun h => { h with paused := true }).hub.paused = true ∧ rst.hub.paused = false := by
  unfold MacroState.takesRows
  refine ⟨by decide +kernel, by decide +kernel, by decide +kernel, ⟨_, rfl, by decide +kernel⟩, by decide +kernel, by decide +kernel⟩

def wf8 : Who := { role := 2, path := 1, slot := 8 }
def seg0 : List Byte := [0, 0, 0, 0, 0, 0, 5]
def whole5 : State := ((rst.fwSegment wf8 0 true seg0).1.fwSegment wf8 7 false [9]).1
def valS (c : Nat) : State := rst.setComp c { rst.comp c with b := { st := .valid, ver := 5, svn := 2, compat := [] } }
def actS (c : Nat) : State := ((valS c).actActivate c).1
def trialS : State := after (execActivationUnitDone 0 (actS 1))
/-- An image segment through the service port. -/
def dl : Frame := frame0 2 0xA000 2 10 seg0 true

/-- FirmwareUpdate: a first segment of component 5 and the next, an image to verify, a slot to activate, units left and none, a trial. -/
theorem wit_FirmwareUpdate :
    ((withSes 2 rst 8).requests (signed_ dl) 8 (ses 2) ∧
      ((withSes 2 rst 8).heard dl 8 (ses 2)).judge (frameWho dl 8 (ses 2)) 0xA000 2 true = 0) ∧
    (rst.maint.download = none ∧ rst.fwBar = 0 ∧ (seg0.getD 6 0).toNat = 5 ∧ (rst.comp 5).trial = false ∧ (rst.comp 5).activating = false) ∧
    ((rst.fwSegment wf8 0 true seg0).1.maint.download = some (5, wf8.slot) ∧ ((rst.fwSegment wf8 0 true seg0).1.comp 5).whole = false ∧
      ((rst.fwSegment wf8 0 true seg0).1.comp 5).image ≠ []) ∧ (whole5.comp ((4 : Fin 5).val + 1)).whole = true ∧
    (∀ c ∈ [1, 2, 3, 5], ((valS c).comp c).other.st = .valid ∧ (valS c).compatOk c = true ∧ (valS c).maint.blocker (actOp c) = none) ∧
    (∀ d, 1 ≤ d → d ≤ 5 → ((valS 5).comp d).activating = false ∧ ((valS 5).comp d).trial = false) ∧
    ((valS 3).updMgmt fun m => m.setObj 0x8010 1 2).fwBar ≠ 0 ∧
    ((trialS.comp 1).trial = true ∧ (trialS.comp 1).activating = false ∧ (rst.comp 1).trial = false) := by
  refine ⟨⟨requests_of_check (by decide +kernel) rfl, by decide +kernel⟩, by decide +kernel, by decide +kernel, by decide +kernel,
    by decide +kernel, ?_, by decide +kernel, by decide +kernel⟩
  intro d h1 h2
  have : ∀ d ∈ [1, 2, 3, 4, 5], ((valS 5).comp d).activating = false ∧ ((valS 5).comp d).trial = false := by decide +kernel
  exact this d (by simp; omega)

/-- Activations: the second power die's unit, the last batch of the core runtime, the last but one, a stop, the hub's unit before its pause. -/
def act3 (n : Nat) : State := (actS 3).setComp 3 { (actS 3).comp 3 with rtNew := List.range n, batch := [n] }
/-- FirmwareUpdate: units that end an activation, that go on, that stop it, and one that is not ready. -/
theorem wit_FirmwareUpdate_units :
    (((actS 1).comp 1).activating = true ∧ (actS 1).unitReady 1 = true ∧ unitsOf 1 ≤ ((actS 1).comp 1).done + 1) ∧
    (((act3 79).comp 3).activating = true ∧ (act3 79).unitReady 3 = true ∧
      (List.range 80).all (fun j => decide (j ∈ ((act3 79).comp 3).rtNew ∨ j ∈ ((act3 79).comp 3).batch)) = true) ∧
    ((act3 78).unitReady 3 = true ∧ 79 ∉ ((act3 78).comp 3).rtNew ∧ 79 ∉ ((act3 78).comp 3).batch ∧ ((act3 78).comp 3).stop = false) ∧
    ((valS 4).power.pdOn = 0xF#4 ∧ ((actS 4).comp 4).activating = true ∧ ((actS 4).comp 4).done = 0 ∧
      (actS 4).power.pdOn ||| BitVec.ofNat 4 (2 ^ ((actS 4).comp 4).done) = 0xF#4 ∧ ((actS 4).comp 4).stop = false) ∧
    (let s := pw (fun p => { p with pdOn := 0xC }) (actS 4)
     ((s.comp 4).activating = true ∧ s.power.pdOn ||| BitVec.ofNat 4 (2 ^ (s.comp 4).done) ≠ 0xF#4)) ∧
    (((actS 5).setComp 5 { (actS 5).comp 5 with stop := true }).comp 5).stop = true ∧ (((actS 5).comp 5).done + 1 < unitsOf 5) ∧
    (((actS 2).comp 2).activating = true ∧ (actS 2).unitReady 2 = false) := by decide +kernel

def onP (s : State) : State := { s with power := { s.power with st := .on } }
/-- BootAndTestPort: a package in ON whose hub is not in service, a retired macro of the store, a boot march that is switched on. -/
theorem wit_BootAndTestPort :
    ((onP rstD).power.st = .on ∧ rst.hub.inService = false ∧ rst.maint.repairLog = [] ∧ rst.maint.banks = [] ∧
      ({ rstD.maint with retired := [macKey 3 7] } : Maint).retired = [macKey 3 7] ∧ (rstD.die (coreDie 3)).runs = true) ∧
    (rst.updMgmt fun m => m.setObj 0x9000 1 1).mgmt.obj 0x9000 1 ≠ 0 ∧
    (((rst.setHost 0 { rst.host 0 with hrdy := .boot, perstN := true }).host 0).hrdy = .boot ∧ hubS.hub.inService = true) := by decide +kernel

/-- MemoriesStayBounded, CommandQueueOnlyShortens, StepRunsFrontCommand: the reset state is within the bounds, and a step with a command
at the front answers a next state. -/
theorem wit_Steps :
    rst.Bounded ∧ { rst with pending := [Instr.bypass] }.pending = [Instr.bypass] ∧ rst.pending = [] ∧
    ∃ t, step { rst with pending := [Instr.bypass] } = .next t :=
  ⟨by unfold State.Bounded; decide +kernel, rfl, rfl, _, rfl⟩

/-! ## Ill-formed commands: one for each check of WellFormed -/

def longFrame : Frame := { frame0 1 0x1000 1 0 [] with data := List.replicate 1441 0 }
theorem test_illformed_frame_data : WellFormed (.read longFrame) = false := by decide +kernel
theorem test_illformed_frame_tag : WellFormed (.read { frame0 1 0x1000 1 0 [] with tag := [1] }) = false := by decide +kernel
theorem test_wellformed_frame : WellFormed (.read (frame0 1 0x1000 1 0 [])) = true := by decide +kernel
theorem test_illformed_flit : WellFormed (.flitReceived 0 false { flit0 1 6 8 with payload := List.replicate 225 0 }) = false := by decide +kernel
def pad0 : Pad := ⟨0, 0, 0, 0, 0, 0, 0, false, 0, 0⟩
theorem test_illformed_image : WellFormed (.install 0 { listed1 with pads := List.replicate 17 pad0 }) = false ∧
    WellFormed (.installReplace 0 { listed1 with datainit := [⟨0, 0, 0, [], 2 ^ 31⟩] }) = false := by decide +kernel
theorem test_illformed_array_slots : WellFormed (.apass 0 0 (slot 0x41 [])) = false ∧ WellFormed (.apred 0 0 (slot 0x40 [])) = false ∧
    WellFormed (.arelease 0 0 (slot 0x43 [])) = false ∧ WellFormed (.adrain 0 0 (slot 0x42 [])) = false := by decide +kernel
theorem test_illformed_empty_writes : WellFormed (.tileWindowWrite 0 .le 0 []) = false ∧ WellFormed (.outputTableWrite 0 0 []) = false ∧
    WellFormed (.registerWrite (.core 0 0) .hub []) = false ∧ WellFormed (.hdmWrite 0 0 []) = false := by decide +kernel
theorem test_illformed_arguments : WellFormed (.coreStart 0 false 0 (List.replicate 32 0)) = false := by decide +kernel
theorem test_illformed_command : WellFormed (.commandFetch 0 { cmd 0 [] with ops := [] }) = false := by decide +kernel
theorem test_illformed_readings : WellFormed (.phaseSenseCheck 0 [] 0 0 0) = false ∧ WellFormed (.estimationInterval 4 (List.replicate 32 0) 0) = false ∧
    WellFormed (.estimationInterval 20 (List.replicate 80 0) 0) = false ∧ WellFormed (.thermalLoop 0 []) = false := by decide +kernel
theorem test_illformed_gcorr : WellFormed (.gcorrUpdate 0 0 0) = false ∧ WellFormed (.gcorrUpdate 0 2 1) = false := by decide +kernel
theorem test_illformed_lanes : WellFormed (.halfLinkRetrained 0 false 21) = false ∧ WellFormed (.portTrained 0 21 0) = false ∧
    WellFormed (.portTrained 0 0 21) = false := by decide +kernel
theorem test_illformed_lengths : WellFormed (.getLog 0 []) = false ∧ WellFormed (.mailboxAuthResponse 0 []) = false ∧
    WellFormed (.lpddrTrainingDone []) = false := by decide +kernel

/-! ## Worked examples of the spec -/

/-- Table 3.4: 0.3 in E4M3, E5M2 and BF16. -/
theorem test_convert_0_3 : (convRaw 3 0 none (fp32 0x3E99999A)).1 = 0x2A ∧ (convRaw 4 0 none (fp32 0x3E99999A)).1 = 0x35 ∧
    (convRaw 5 0 none (fp32 0x3E99999A)).1 = 0x3E9A := by decide +kernel
/-- Table 5.4: the words of the header, its tag, length and fields. -/
theorem test_header : okv (((wordCore [0x14000123, 0x320C0215, 0, 0, 0, 0x40000000, 0, 0, 0, 0x11000000]).core 0).decodeWord 0)
    (fun w => decide (w.len = 10 ∧ w.tag = 0x0123 ∧ w.wait0 = 0x83 ∧ w.wait1 = 0 ∧ w.sig = 0x85 ∧ w.sigsrc = 2) && w.mSlot.isSome &&
      w.lSlot.isSome && w.vSlot.isNone && w.tSlot.isNone && w.sSlot.isNone && w.ySlot.isNone) = true := by decide +kernel
/-- Table 5.15: the addresses of source pattern 7. -/
theorem test_pattern_7 : ({ elog := 6, levels := [(2, 64), (3, 1024), (2, 16384)] } : Pat).addrs 0x00200100 =
    [0x200100, 0x200140, 0x200500, 0x200540, 0x200900, 0x200940, 0x204100, 0x204140, 0x204500, 0x204540, 0x204900, 0x204940] := by
  decide +kernel
/-- Table 1.7: the check values of two rows of a CW4 group with set (1, 2, 4, −8). -/
def cw4Mac : MacroState := { (MacroState.reset 0) with wfmt := 2, mgsel := 0, mcoef := [(0, 0xF8040201)] }
theorem test_check_values : cw4Mac.checkOf (0x7 + 0xD * 16 + 0x5 * 256) 0 = 0b11110111 ∧ cw4Mac.checkOf (0x8 + 0x6 * 16 + 0xF * 256) 0 = 3 := by
  decide +kernel
/-- Table 1.2: −7 and 6 in the set (1, 2, 6, −9), −5 in (1, 3, 5, −11), −1 in CW2. -/
theorem test_grids : cwLevel 0xF7060201 4 0b1010 = -7 ∧ cwLevel 0xF7060201 4 0b0100 = 6 ∧ cwLevel 0xF5050301 4 0b1101 = -5 ∧
    cwLevel 0xFF01 2 0b10 = -1 := by decide +kernel
/-- The overflow example of the passes chapter: a sum above 2^31 − 1 saturates at +INF. -/
theorem test_overflow_lane : finishLane .normal 2200000246 = (2147483647, .posInf, true) := by decide +kernel
/-- The rescaling example: 1,100,000,117 with TSHIFT 1, MULT 0x400000 and SHIFT 24 converts to INT8 66. -/
def rescaled : CoreState :=
  (({ (rst.core 0) with ta := { (rst.core 0).ta with st := .full, tshift := 1 } }).putW32 (0x04060000) (BitVec.ofNat 32 (24 * 2 ^ 24 + 0x400000))).putLane
    .ta 0 1100000117 .normal
theorem test_rescale : (convRaw 0 0 none (fp32 (rescaled.rescale .ta 0x3F800000 0))).1 = 66 := by decide +kernel
/-- Table 3.6: the first four elements of a BN4 block, E 129. -/
def bt4 : List Int := [-16384, -11264, -8448, -6144, -4096, -2560, -1280, 0, 1024, 2304, 3840, 5632, 7680, 10240, 13056, 16384]
def bn4Block : Nat × List Nat × Nat := bnBlock bt4 none 0 (([0xC0400000, 0x3FA66666, 0x3DCCCCCD, 0xBF000000] : List W32).map fp32)
theorem test_bn4 : bn4Block.1 = 129 ∧ bn4Block.2.1.take 4 = [1, 11, 7, 5] := by decide +kernel
/-- The MATCH example: at OP7 with 780 µs left and a lateness of 114 µs the member takes OP5. -/
theorem test_match : paceCeil 7 780 114 = 5 := by decide +kernel

end Sys2Proof.Tests
end

/-! PROOFS. The lanes of partials that VPSUM and the root of a collective combine (R102): the lane of each combination of states, as an
equation, and that the order of the partials does not matter. -/

namespace Sys2Proof.Machine

section

variable {xs ys : List (Int × LaneSt)}

/-! ### Which states occur among the partials -/

theorem any_state_eq_true {st : LaneSt} (h : ∃ x ∈ xs, x.2 = st) : (xs.any fun x => x.2 = st) = true := by
  simpa using h

/-- No lane has a state that differs from the two that every lane has one of. -/
theorem any_state_eq_false {a b st : LaneSt} (h : ∀ x ∈ xs, x.2 = a ∨ x.2 = b) (ha : a ≠ st) (hb : b ≠ st) :
    (xs.any fun x => x.2 = st) = false := by
  rw [List.any_eq_false]
  intro x hx
  rcases h x hx with e | e <;> simpa [e]

/-! ### The lane of each combination of states -/

theorem combineLane_of_inv (h : ∃ x ∈ xs, x.2 = .inv) : combineLane xs = (-2147483648, .inv, false) := by
  simp only [combineLane, any_state_eq_true h, Bool.true_or, if_true]

theorem combineLane_of_both_inf (hp : ∃ x ∈ xs, x.2 = .posInf) (hn : ∃ x ∈ xs, x.2 = .negInf) :
    combineLane xs = (-2147483648, .inv, false) := by
  simp only [combineLane, any_state_eq_true hp, any_state_eq_true hn, Bool.and_self, Bool.or_true, if_true]

theorem combineLane_of_posInf (h : ∀ x ∈ xs, x.2 = .normal ∨ x.2 = .posInf) (hp : ∃ x ∈ xs, x.2 = .posInf) :
    combineLane xs = (2147483647, .posInf, false) := by
  have noInv := any_state_eq_false h (st := .inv) (by decide) (by decide)
  have noNeg := any_state_eq_false h (st := .negInf) (by decide) (by decide)
  simp [combineLane, noInv, noNeg, any_state_eq_true hp]

theorem combineLane_of_negInf (h : ∀ x ∈ xs, x.2 = .normal ∨ x.2 = .negInf) (hn : ∃ x ∈ xs, x.2 = .negInf) :
    combineLane xs = (-2147483648, .negInf, false) := by
  have noInv := any_state_eq_false h (st := .inv) (by decide) (by decide)
  have noPos := any_state_eq_false h (st := .posInf) (by decide) (by decide)
  simp [combineLane, noInv, noPos, any_state_eq_true hn]

/-- Numbers alone: the exact sum, tested once against the 32-bit range. -/
theorem combineLane_of_normal (h : ∀ x ∈ xs, x.2 = .normal) :
    combineLane xs = if 2147483647 < (xs.map (·.1)).sum then (2147483647, .posInf, true)
      else if (xs.map (·.1)).sum < -2147483648 then (-2147483648, .negInf, true) else ((xs.map (·.1)).sum, .normal, false) := by
  have no (st : LaneSt) (hst : .normal ≠ st) : (xs.any fun x => x.2 = st) = false :=
    any_state_eq_false (fun x hx => .inl (h x hx)) hst hst
  simp [combineLane, no .inv (by decide), no .posInf (by decide), no .negInf (by decide)]

/-! ### The order of the partials -/

/-- Which states occur and the exact sum, all that the combination reads, are the same in every order. -/
theorem combineLane_perm (h : xs.Perm ys) : combineLane xs = combineLane ys := by
  have states (st : LaneSt) : (xs.any fun x => x.2 = st) = ys.any fun x => x.2 = st := h.any_eq
  have sums : (xs.map (·.1)).sum = (ys.map (·.1)).sum := (h.map _).sum_eq
  simp only [combineLane, states, sums]

end

/-- Settles O28: an equation of combineLane for each combination of states, and the sum's range. -/
theorem combineLanes : Obligations.CombineLanes := by
  intro xs
  refine ⟨fun h => ?inv, fun hp hn => ?bothInf, combineLane_of_posInf, combineLane_of_negInf, fun h lo hi => ?inRange,
    fun h hi => ?above, fun h lo => ?below, fun _ => combineLane_perm⟩
  case inv => rw [combineLane_of_inv h]
  case bothInf => rw [combineLane_of_both_inf hp hn]
  case inRange => rw [combineLane_of_normal h, if_neg (by omega), if_neg (by omega)]
  case above => rw [combineLane_of_normal h, if_pos hi]
  case below => rw [combineLane_of_normal h, if_neg (by omega), if_pos lo]

end Sys2Proof.Machine

/-! PROOFS. The object dictionary: what a request that is heard does (R348 to R356), the checks that every request to an object meets
(R353, R354, R364, R365, R370), reads and snapshots (R349), the writes of the journal's acknowledgement, of a role key and of the tray's
state (R359, R368, R369), and presence (R346, R362). -/

namespace Sys2Proof.Machine

section

variable {s : State} {f : Frame} {slot : Nat} {x : Session} {o : Obj} {w v : Who} {i sub off n : Nat} {write : Bool}

/-! ### A request that is heard -/

theorem State.receive_of_requests (h : s.requests f slot x) (act : State → Who → State × Ans) :
    s.receive f act = (act (s.heard f slot x) (frameWho f slot x)).1.replyTo f slot f.session
      (act (s.heard f slot x) (frameWho f slot x)).2 := by
  obtain ⟨received, named, session, accepted, sound⟩ := h
  unfold State.receive
  rw [if_neg (by simp [received]), if_neg named, session]
  simp [accepted, sound, State.heard, frameWho]

/-- Who a frame without a session speaks for (R354). -/
def observer (f : Frame) : Who := { role := 0, path := if f.service then 1 else 0, slot := 12 }

theorem State.receive_of_observer (received : s.receives f = true) (unnamed : f.session = 0) (sound : frameBad f = false)
    (act : State → Who → State × Ans) :
    s.receive f act = (act s (observer f)).1.replyTo f 12 0 (act s (observer f)).2 := by
  simp [State.receive, received, unnamed, sound, observer]

/-! ### The checks of a request to an object -/

theorem findObj_eq_none_of_no_objects (h : objectsOf i = []) : findObj i sub = none := by
  simp [findObj, h]

/-- A check that refuses with a status of its own lets the next one decide where it does not apply. -/
theorem check_passes_iff {p : Prop} [Decidable p] {status rest : Nat} (h : status ≠ 0) :
    (if p then status else rest) = 0 ↔ ¬ p ∧ rest = 0 := by
  by_cases hp : p <;> simp [hp, h]

/-- What a request has to meet, and all of it. -/
theorem State.judge_eq_zero_iff :
    s.judge w i sub write = 0 ↔
      i < 0xF000 ∧ s.mailboxBar w i sub = 0 ∧ ¬ (write ∧ i = 0xA000 ∧ sub = 2 ∧ w.path ≠ 1) ∧
      ∃ o, findObj i sub = some o ∧
        ¬ (write ∧ (o.acc = .ro ∨ o.acc = .const) ∨ write = false ∧ o.acc = .wo) ∧
        (if write then writeRole i sub else readRole i) ≤ w.role ∧
        ¬ (write ∧ o.acc = .rws ∧ s.safeState = false) ∧
        ¬ (islandServes i sub = false ∧ s.runtimeUp = false) := by
  have bar (rest : Nat) : (if s.mailboxBar w i sub ≠ 0 then s.mailboxBar w i sub else rest) = 0 ↔
      s.mailboxBar w i sub = 0 ∧ rest = 0 := by
    by_cases h : s.mailboxBar w i sub = 0 <;> simp [h]
  unfold State.judge
  rw [check_passes_iff (by decide), bar, check_passes_iff (by decide), check_passes_iff (by decide), Nat.not_le]
  cases found : findObj i sub with
  | none => simp [dNoSub]
  | some o =>
    have listed : objectsOf i ≠ [] := fun empty => by simp [findObj_eq_none_of_no_objects empty] at found
    simp only
    rw [check_passes_iff (by decide), check_passes_iff (by decide), check_passes_iff (by decide), check_passes_iff (by decide), Nat.not_lt]
    simp [listed]

theorem State.mailboxBar_congr (h : w.path = v.path) : s.mailboxBar w i sub = s.mailboxBar v i sub := by
  simp only [State.mailboxBar, h]

/-- What a mailbox reaches lies outside the objects that R365 keeps from it. -/
theorem State.reachable_of_mailboxBar_eq_zero (h : s.mailboxBar w i sub = 0) (mailbox : 2 ≤ w.path) :
    i ≠ 0x1200 ∧ i ≠ 0x8000 ∧ i ≠ 0x8010 ∧ ¬ (i = 0xB000 ∧ sub = 3) := by
  rw [State.mailboxBar, if_neg (by omega), check_passes_iff (by decide)] at h
  simpa only [not_or] using h.1

theorem writeRole_pos : 0 < writeRole i sub := by
  unfold writeRole
  split_ifs <;> decide

/-- A role may do what a lower one on the same path may (R354). -/
theorem State.judge_eq_zero_of_role_le (path : w.path = v.path) (role : w.role ≤ v.role) (h : s.judge w i sub write = 0) :
    s.judge v i sub write = 0 := by
  rw [State.judge_eq_zero_iff] at h ⊢
  obtain ⟨locked, bar, download, o, found, access, enough, rest⟩ := h
  exact ⟨locked, State.mailboxBar_congr path ▸ bar, path ▸ download, o, found, access, enough.trans role, rest⟩

/-- OBSERVER never writes (R354). -/
theorem State.judge_write_of_observer (h : w.role = 0) : s.judge w i sub true ≠ 0 := by
  intro passes
  obtain ⟨-, -, -, o, -, -, enough, -⟩ := State.judge_eq_zero_iff.1 passes
  have positive := writeRole_pos (i := i) (sub := sub)
  simp only [h, if_true] at enough
  omega

/-! ### The vendor range (R370) -/

theorem State.judge_vendor (h : 0xF000 ≤ i) : s.judge w i sub write = dLocked := if_pos h

theorem State.readValue_vendor (h : 0xF000 ≤ i) : s.readValue w i sub off n = (s, Ans.of dLocked) := by
  simp [State.readValue, State.judge_vendor h, dLocked]

theorem State.writeValue_vendor {type : Nat} {more : Bool} {data : List Byte} {act : State → List Byte → State × Nat} (h : 0xF000 ≤ i) :
    s.writeValue w i sub type off more data act = (s, Ans.of dLocked) := by
  simp [State.writeValue, State.judge_vendor h, dLocked]

/-! ### Reads and snapshots (R349) -/

/-- The row READ answers a READ by the value read. -/
theorem exec_read (h : f.op = 1) :
    exec (.read f) s = .next (s.receive f fun s w => s.readValue w f.index.toNat f.sub.toNat f.offset.toNat 1440) := by
  show execRead f s = _
  simp [execRead, h]

theorem segmentOf_of_le {value : List Byte} (h : off ≤ value.length) :
    segmentOf value off n = { status := dOk, data := (value.drop off).take n, more := decide (off + n < value.length) } :=
  if_neg (by omega)

/-- A read at offset 0 takes the whole value as the slot's snapshot. -/
theorem State.readValue_start (passes : s.judge w i sub false = 0) (found : findObj i sub = some o) :
    s.readValue w i sub 0 n =
      ((s.updMgmt fun m => { m with snaps := Sparse.insert m.snaps w.slot (objKey i sub, s.valueOf w i sub o) }).bump,
        segmentOf (s.valueOf w i sub o) 0 n) := by
  simp [State.readValue, passes, found]

/-- A read at another offset is served from the slot's snapshot of that object. -/
theorem State.readValue_further {value : List Byte} (passes : s.judge w i sub false = 0) (found : findObj i sub = some o)
    (h : 0 < off) (kept : Sparse.find? s.mgmt.snaps w.slot = some (objKey i sub, value)) :
    s.readValue w i sub off n = (s, segmentOf value off n) := by
  simp [State.readValue, passes, found, Nat.ne_of_gt h, kept]

/-! ### A value written in one segment (R350) -/

theorem State.segment_whole {key : Nat} {data : List Byte} (h : s.mgmt.stagedElsewhere slot key = false) :
    s.segment slot key 0 false data = (s.updMgmt fun m => m.unstage slot key, .whole data) := by
  simp [State.segment, h]

/-- A granted WRITE acts on its data, in the state in which nothing of the object is staged by its session. -/
theorem State.writeValue_of_grants (h : s.grants f slot x o) (act : State → List Byte → State × Nat) :
    (s.heard f slot x).writeValue (frameWho f slot x) f.index.toNat f.sub.toNat f.type.toNat f.offset.toNat (bitOf f.flags 1) f.data act =
      ((act (s.taken f slot x) f.data).1, Ans.of (act (s.taken f slot x) f.data).2) := by
  obtain ⟨-, -, found, type, offset, last, passes, free, fits⟩ := h
  have whole : (s.heard f slot x).segment slot (objKey f.index.toNat f.sub.toNat) 0 false f.data = (s.taken f slot x, .whole f.data) :=
    State.segment_whole free
  unfold State.writeValue
  rw [if_neg (by simp [passes]), found, offset, last]
  simp [type, frameWho, whole, fits]

theorem State.stageField_of_other {data : List Byte} (h : s.hub.stagedByOther (i % 16) w.slot = true) :
    s.stageField w i sub data = (s, dObjectBusy) := if_pos h

/-- The first session to stage a field of a partition owns its staging (R366). -/
theorem State.stageField_of_own {data : List Byte} (h : s.hub.stagedByOther (i % 16) w.slot = false) :
    (s.stageField w i sub data).2 = dOk ∧
      ∃ staged, (s.stageField w i sub data).1.hub.stagedOf (i % 16) = some staged ∧ staged.session = w.slot ∧
        Sparse.find? staged.fields (objKey i sub) = some (leNat data) := by
  simp [State.stageField, h, Hub.stagedOf, Sparse.find?_insert_self]

/-! ### Acknowledgement of the journal (R369) -/

theorem State.actAck_of_outside (h : n < s.hub.acked.toNat ∨ s.hub.seq.toNat < n) : s.actAck n = (s, dRange) := if_pos h

theorem State.actAck_of_inside (low : s.hub.acked.toNat ≤ n) (high : n ≤ s.hub.seq.toNat) :
    s.actAck n = (s.updHub fun h => { h with acked := BitVec.ofNat 32 n, unacked := h.recordsAfter n }, dOk) :=
  if_neg (by omega)

/-! ### Role keys (R359) -/

theorem State.actKey_of_other_path {role : Nat} {data : List Byte} (opened : Sparse.find? s.mgmt.sessions w.slot = some x)
    (h : w.path ≠ 0) : s.actKey w role data = (s, dPath) := by
  simp [State.actKey, opened, h]

theorem State.actKey_of_bad_wrap {role : Nat} {data : List Byte} (opened : Sparse.find? s.mgmt.sessions w.slot = some x)
    (bus : w.path = 0) (h : Config.aesUnwrap x.key data = none) : s.actKey w role data = (s, dRange) := by
  simp [State.actKey, opened, bus, h]

/-- Where the persistent store took the key, it is the role's. -/
theorem State.roleKey_actKey {role : Nat} {data key : List Byte} (opened : Sparse.find? s.mgmt.sessions w.slot = some x)
    (bus : w.path = 0) (h : Config.aesUnwrap x.key data = some key) (ok : (s.actKey w role data).2 = dOk) :
    (s.actKey w role data).1.mgmt.roleKey role = key := by
  simp only [State.actKey, opened, bus, h, ne_eq, not_true_eq_false, if_false] at ok ⊢
  split at ok
  · cases ok
  next stored => rw [if_neg stored]; simp [Mgmt.roleKey, Sparse.find?_insert_self]

theorem isKeyWrite_iff : isKeyWrite f = true ↔ f.op = 2 ∧ f.index = 0x1200 ∧ f.sub.toNat ∈ [2, 3, 4] := by
  simp [isKeyWrite, and_assoc]

theorem State.writeObj_key {data : List Byte} (h : sub ∈ [2, 3, 4]) : s.writeObj w 0x1200 sub data = s.actKey w (sub - 1) data := by
  simp [State.writeObj, h]

/-- A key write keeps to the object's checks; the sessions of the role end where the key changed. -/
theorem State.writeFrame_key (h : isKeyWrite f = true) :
    s.writeFrame f =
      let t := s.receive f fun s w =>
        s.writeValue w f.index.toNat f.sub.toNat f.type.toNat f.offset.toNat (bitOf f.flags 1) f.data fun s data =>
          s.writeObj w f.index.toNat f.sub.toNat data
      if t.mgmt.keys ≠ s.mgmt.keys then t.endRole (f.sub.toNat - 1) else t := by
  have index := (isKeyWrite_iff.1 h).2.1
  simp [State.writeFrame, h, index]

theorem exec_keyReplace (h : isKeyWrite f = true) : exec (.keyReplace f) s = .next (s.writeFrame f) := by
  show execKeyReplace f s = _
  simp [execKeyReplace, h]

theorem exec_write (h : f.op = 2) : exec (.write f) s = .next (s.writeFrame f) := by
  show execWrite f s = _
  simp [execWrite, h]

/-- A download segment sent as a WRITE is one sent by the row of its own (R379). -/
theorem exec_write_download (op : f.op = 2) (index : f.index = 0xA000) (sub : f.sub = 2) :
    exec (.write f) s = exec (.imageDownload f) s := by
  rw [exec_write op]
  show _ = execImageDownload f s
  simp [State.writeFrame, execImageDownload, op, index, sub]

theorem exec_keyReplace_of_grants (h : s.grants f slot x o) (key : isKeyWrite f = true) :
    exec (.keyReplace f) s = .next (
      let r := (s.taken f slot x).actKey (frameWho f slot x) (f.sub.toNat - 1) f.data
      let t := r.1.replyTo f slot f.session (Ans.of r.2)
      if t.mgmt.keys ≠ s.mgmt.keys then t.endRole (f.sub.toNat - 1) else t) := by
  obtain ⟨-, index, role⟩ := isKeyWrite_iff.1 key
  have index' : f.index.toNat = 0x1200 := by rw [index]; rfl
  rw [exec_keyReplace key, State.writeFrame_key key, State.receive_of_requests h.1, State.writeValue_of_grants h, index',
    State.writeObj_key role]

/-! ### Downloads and the tray's state (R368, R381) -/

theorem State.dropDownload_download : s.dropDownload.maint.download = none := by
  unfold State.dropDownload
  split
  · assumption
  · rfl

/-- After the tray's write only maintenance differs, and no download is left where the tray is busy. -/
theorem State.trayWritten_frame (s : State) :
    ∃ m, s.trayWritten = { s with maint := m } ∧ (s.trayBusy = true → m.download = none) := by
  unfold State.trayWritten
  split
  next =>
    refine List.foldlRecOn (motive := fun t : State => ∃ m, t = { s with maint := m } ∧ (s.trayBusy = true → m.download = none))
      _ _ ?dropped ?stopped
    case dropped =>
      obtain ⟨m, dropped⟩ := State.dropDownload_frame s
      refine ⟨m, dropped, fun _ => ?_⟩
      simpa [dropped] using State.dropDownload_download (s := s)
    case stopped =>
      rintro t ⟨m, rfl, cleared⟩ c -
      split
      · exact ⟨_, rfl, cleared⟩
      · exact ⟨m, rfl, cleared⟩
  next idle => exact ⟨s.maint, rfl, fun busy => absurd busy idle⟩

theorem Mgmt.obj_setObj (m : Mgmt) (i sub value : Nat) : (m.setObj i sub value).obj i sub = value := by
  simp [Mgmt.obj, Mgmt.setObj]

/-- A write of OD 8010.01 keeps its two low bits and, where one is set, ends a download. -/
theorem State.actTray_effect (s : State) (n : Nat) :
    (s.actTray n).2 = dOk ∧ (s.actTray n).1.mgmt.obj 0x8010 1 = n % 4 ∧ (n % 4 ≠ 0 → (s.actTray n).1.maint.download = none) := by
  obtain ⟨m, written, dropped⟩ := State.trayWritten_frame
    ((s.updMgmt fun m => m.setObj 0x8010 1 (n % 4)).updMaint fun m => { m with trayTime := s.now }).bump
  have value : (s.actTray n).1.mgmt.obj 0x8010 1 = n % 4 := by
    simp [State.actTray, written, Mgmt.obj_setObj]
  refine ⟨rfl, value, fun busy => ?_⟩
  simp only [State.actTray, written]
  exact dropped (by simpa [State.trayBusy, Mgmt.obj_setObj] using busy)

/-! ### Presence (R346, R362) -/

theorem exec_discover_of_observer (op : f.op = 0x12) (received : s.receives f = true) (sound : frameBad f = false)
    (unnamed : f.session = 0) : exec (.discover f) s = .next (s.announceTo f.srcAddr) := by
  show execDiscover f s = _
  simp [execDiscover, op, received, sound, unnamed]

theorem exec_announce (h : s.mgmt.up = true) : exec .announce s = .next (s.announceTo s.mgmt.group) := by
  show execAnnounce s = _
  simp [execAnnounce, h]

/-- A node that follows the coordinator falls back when no beacon comes. -/
theorem exec_beaconTimeout (up : s.mgmt.up = true) (follower : s.mgmt.nodeId ≠ 0) :
    exec .beaconTimeout s = .next (s.updMgmt fun m => { m with csma := true, beaconLost := m.beaconLost + 1 }) := by
  show execBeaconTimeout s = _
  simp [execBeaconTimeout, up, follower]

theorem exec_beaconTimeout_of_coordinator (h : s.mgmt.nodeId = 0) : exec .beaconTimeout s = .next s := by
  show execBeaconTimeout s = _
  simp [execBeaconTimeout, h]

/-! ### Snapshots and stagings that expire (R349, R350) -/

theorem exec_snapshotExpire (k : Fin 13) :
    exec (.snapshotExpire k) s = .next (s.updMgmt fun m => { m with snaps := Sparse.erase m.snaps k }) := rfl

/-- With its staging a slot's download ends. -/
theorem exec_stagingExpire (s : State) (k : Fin 13) :
    ∃ t, exec (.stagingExpire k) s = .next t ∧ Sparse.find? t.mgmt.staging k.val = none ∧
      ∀ c, t.maint.download ≠ some (c, k.val) := by
  refine ⟨_, rfl, Sparse.find?_erase_self _ _, fun c held => ?_⟩
  simp only [State.updMgmt_maint] at held
  split at held
  next => simp [State.dropDownload_download] at held
  next other => exact other (by simp [held])

end

/-- Settles O57: the role is one check of many and bounds from below only; index 0xF000 is refused before anything else is looked at. -/
theorem rolesAndLockedRange : Obligations.RolesAndLockedRange := by
  refine ⟨fun s w v i sub write => State.judge_eq_zero_of_role_le,
    fun s w i sub => State.judge_write_of_observer,
    fun s f received unnamed sound op => ?read,
    fun s w i sub off n => State.readValue_vendor,
    fun s w i sub ty off more v act => State.writeValue_vendor⟩
  case read =>
    rw [exec_read op, State.receive_of_observer received unnamed sound]
    rfl

/-- Settles O53: the checks are inverted as one conjunction, and each access is the one equation of its operation. -/
theorem dictionaryAccess : Obligations.DictionaryAccess := by
  refine ⟨fun s f slot x request op => ?read,
    fun s w i sub n o passes found => ?snapshot,
    fun s w i sub write passes => ?checks,
    fun s w i sub data => ⟨State.stageField_of_other, State.stageField_of_own⟩,
    fun s n => ⟨State.actAck_of_outside, fun low high => ?acked⟩,
    fun s f slot x o => exec_keyReplace_of_grants,
    fun s f => ⟨fun key => ?keyRow, exec_write_download⟩,
    fun s w role data x opened => ⟨State.actKey_of_other_path opened, State.actKey_of_bad_wrap opened,
      fun key => State.roleKey_actKey opened⟩,
    State.actTray_effect,
    fun s f => exec_discover_of_observer,
    fun s up => ⟨exec_announce up, fun follower => ⟨_, exec_beaconTimeout up follower, rfl, rfl⟩⟩,
    fun s => exec_beaconTimeout_of_coordinator,
    fun s => rfl,
    fun s k => ⟨⟨_, exec_snapshotExpire k, Sparse.find?_erase_self _ _, rfl, rfl⟩, exec_stagingExpire s k⟩⟩
  case read => rw [exec_read op, State.receive_of_requests request]
  case snapshot =>
    rw [State.readValue_start passes found, segmentOf_of_le (Nat.zero_le _)]
    refine ⟨by simp, by simp [Sparse.find?_insert_self], fun u k passes' positive inside kept => ?_⟩
    rw [State.readValue_further passes' found positive kept, segmentOf_of_le inside]
  case checks =>
    obtain ⟨unlocked, reach, download, o, found, access, role, safe, -⟩ := State.judge_eq_zero_iff.1 passes
    refine ⟨unlocked, by simp [found], role, fun mailbox => ?_, fun writes index second => ?_, fun o' found' writes => ?_⟩
    · obtain ⟨keys, safety, tray, -⟩ := State.reachable_of_mailboxBar_eq_zero reach mailbox
      exact ⟨keys, safety, tray⟩
    · by_contra other
      exact download ⟨writes, index, second, other⟩
    · obtain rfl : o = o' := by simpa [found] using found'
      subst writes
      simpa [not_or, and_assoc] using And.intro access safe
  case acked =>
    rw [State.actAck_of_inside low high]
    have fits : n < 2 ^ 32 := high.trans_lt s.hub.seq.isLt
    exact ⟨rfl, Nat.mod_eq_of_lt fits, rfl, decide_eq_true_iff, rfl⟩
  case keyRow => rw [exec_keyReplace key, exec_write (isKeyWrite_iff.1 key).1]

end Sys2Proof.Machine

/-! PROOFS. What every command keeps of the state it starts from: its queue, and the bounded memories of the hub within their sizes (R243,
Table 9.13). One equation per operation of the model: an operation keeps both just where the state before it does, for it appends to
the journal and the trace within their sizes and leaves the queue alone. Only a power loss (R271) gives an implication: it empties
the journal. -/

namespace Sys2Proof.Machine

/-- The bounded memories of a hub hold no more than the spec gives them. -/
def Hub.Bounded (h : Hub) : Prop := h.journal.length ≤ 8192 ∧ h.persistent.length ≤ 262144 ∧ h.trace.length ≤ poolSize 4

/-- The state has the queue of the state a command starts from, and its memories are within their sizes where they were at the start. -/
def State.Keeps (s start : State) : Prop := s.pending = start.pending ∧ (start.Bounded → s.hub.Bounded)

def Out.Keeps (start : State) : Out → Prop
  | .next t => t.Keeps start
  | _ => True

section

variable {start : State}

theorem State.keeps_self (s : State) : s.Keeps s := ⟨rfl, id⟩

@[simp] theorem Out.keeps_next (t : State) : Out.Keeps start (.next t) ↔ t.Keeps start := Iff.rfl

/-! ### What stays: states and hubs written field by field, choices and folds -/

@[simp] theorem Hub.bounded_mk (h : Hub)
    {programs nextProg invs streams tenants tenantMem accounts rings cqs cqWait turn turnUsed cmds nextCmd commons arrayChecks arrayInfs
      owners credits poolAsk poolPrev epoch budget granted parts staged changes rebinds steps barriers jobs mergeSeen overwritten seq
      islandQ unwritten acked unacked checks swapDue swapHeld traceDrops lateSet paused inService admitting} :
    Hub.Bounded (Hub.mk programs nextProg invs streams tenants tenantMem accounts rings cqs cqWait turn turnUsed cmds nextCmd commons
      arrayChecks arrayInfs owners credits poolAsk poolPrev epoch budget granted parts staged changes rebinds steps barriers jobs
      mergeSeen h.journal overwritten seq h.persistent islandQ unwritten acked unacked checks swapDue swapHeld h.trace traceDrops
      lateSet paused inService admitting) ↔ h.Bounded := Iff.rfl

@[simp] theorem State.keeps_mk (s : State) {cores macros nb power dies mons kraox hosts ext mgmt maint tapId reply free} :
    State.Keeps (State.mk s.pending cores macros nb s.hub power dies mons kraox hosts ext mgmt maint tapId reply free) start ↔
      s.Keeps start := Iff.rfl

theorem State.keeps_mk_hub (s : State) {h : Hub} (same : h.Bounded ↔ s.hub.Bounded)
    {cores macros nb power dies mons kraox hosts ext mgmt maint tapId reply free} :
    State.Keeps (State.mk s.pending cores macros nb h power dies mons kraox hosts ext mgmt maint tapId reply free) start ↔
      s.Keeps start := by simp [State.Keeps, same]

@[simp] theorem State.keeps_setHub (s : State) (h : Hub) (same : h.Bounded ↔ s.hub.Bounded) :
    (s.setHub h).Keeps start ↔ s.Keeps start := by simp [State.Keeps, State.setHub, same]

theorem State.keeps_updHub_at {s : State} {f : Hub → Hub} (same : (f s.hub).Bounded ↔ s.hub.Bounded) :
    (s.updHub f).Keeps start ↔ s.Keeps start := by simp [State.Keeps, State.updHub, same]

@[simp] theorem State.keeps_updHub (s : State) (f : Hub → Hub) (same : ∀ h : Hub, (f h).Bounded ↔ h.Bounded) :
    (s.updHub f).Keeps start ↔ s.Keeps start := State.keeps_updHub_at (same s.hub)

@[simp] theorem State.keeps_ite (p : Prop) [Decidable p] (s t : State) :
    State.Keeps (if p then s else t) start ↔ if p then s.Keeps start else t.Keeps start := by split <;> rfl

@[simp] theorem State.keeps_ite_fst (p : Prop) {α : Type} [Decidable p] (s t : State × α) :
    State.Keeps (if p then s else t).1 start ↔ if p then s.1.Keeps start else t.1.Keeps start := by split <;> rfl

@[simp] theorem Hub.bounded_ite (p : Prop) [Decidable p] (h k : Hub) :
    Hub.Bounded (if p then h else k) ↔ if p then h.Bounded else k.Bounded := by split <;> rfl

@[simp] theorem State.keeps_foldl {α : Type} {f : State → α → State} (each : ∀ s x, (f s x).Keeps start ↔ s.Keeps start) (l : List α)
    (s : State) : (l.foldl f s).Keeps start ↔ s.Keeps start := by
  induction l generalizing s with
  | nil => rfl
  | cons x l ih => rw [List.foldl_cons, ih, each]

theorem State.keeps_foldl_fst {α β : Type} {f : State × β → α → State × β} (each : ∀ a x, (f a x).1.Keeps start ↔ a.1.Keeps start)
    (l : List α) (a : State × β) : (l.foldl f a).1.Keeps start ↔ a.1.Keeps start := by
  induction l generalizing a with
  | nil => rfl
  | cons x l ih => rw [List.foldl_cons, ih, each]

@[simp] theorem Hub.bounded_foldl {α : Type} {f : Hub → α → Hub} (each : ∀ h x, (f h x).Bounded ↔ h.Bounded) (l : List α) (h : Hub) :
    (l.foldl f h).Bounded ↔ h.Bounded := by
  induction l generalizing h with
  | nil => rfl
  | cons x l ih => rw [List.foldl_cons, ih, each]

/-! ### What stays: the shared operations -/

@[simp] theorem State.keeps_setCore (s : State) (c : Nat) (v : CoreState) : (s.setCore c v).Keeps start ↔ s.Keeps start := Iff.rfl
@[simp] theorem State.keeps_updCore (s : State) (c : Nat) (f : CoreState → CoreState) :
    (s.updCore c f).Keeps start ↔ s.Keeps start := Iff.rfl
@[simp] theorem State.keeps_setMac (s : State) (c m : Nat) (v : MacroState) : (s.setMac c m v).Keeps start ↔ s.Keeps start := Iff.rfl
@[simp] theorem State.keeps_updMac (s : State) (c m : Nat) (f : MacroState → MacroState) :
    (s.updMac c m f).Keeps start ↔ s.Keeps start := Iff.rfl
@[simp] theorem State.keeps_updDie (s : State) (d : Nat) (f : DieState → DieState) : (s.updDie d f).Keeps start ↔ s.Keeps start := Iff.rfl
@[simp] theorem State.keeps_updPower (s : State) (f : Power → Power) : (s.updPower f).Keeps start ↔ s.Keeps start := Iff.rfl
@[simp] theorem State.keeps_updKraox (s : State) (f : Kraox → Kraox) : (s.updKraox f).Keeps start ↔ s.Keeps start := Iff.rfl
@[simp] theorem State.keeps_updExt (s : State) (f : ExtMem → ExtMem) : (s.updExt f).Keeps start ↔ s.Keeps start := Iff.rfl
@[simp] theorem State.keeps_updMgmt (s : State) (f : Mgmt → Mgmt) : (s.updMgmt f).Keeps start ↔ s.Keeps start := Iff.rfl
@[simp] theorem State.keeps_updMaint (s : State) (f : Maint → Maint) : (s.updMaint f).Keeps start ↔ s.Keeps start := Iff.rfl
@[simp] theorem State.keeps_answer (s : State) (status : Nat) (data : List Byte) :
    (s.answer status data).Keeps start ↔ s.Keeps start := Iff.rfl
@[simp] theorem State.keeps_bump (s : State) : s.bump.Keeps start ↔ s.Keeps start := Iff.rfl
@[simp] theorem State.keeps_bumpN (s : State) (n : Nat) : (s.bumpN n).Keeps start ↔ s.Keeps start := Iff.rfl
@[simp] theorem State.keeps_setHost (s : State) (p : Nat) (v : HostPort) : (s.setHost p v).Keeps start ↔ s.Keeps start := Iff.rfl
@[simp] theorem State.keeps_updHost (s : State) (p : Nat) (f : HostPort → HostPort) : (s.updHost p f).Keeps start ↔ s.Keeps start := Iff.rfl
@[simp] theorem State.keeps_raiseVec (s : State) (p v : Nat) : (s.raiseVec p v).Keeps start ↔ s.Keeps start := Iff.rfl
@[simp] theorem State.keeps_attend (s : State) (p bitNo : Nat) : (s.attend p bitNo).Keeps start ↔ s.Keeps start := by simp [State.attend]
@[simp] theorem State.keeps_setComp (s : State) (c : Nat) (v : Component) : (s.setComp c v).Keeps start ↔ s.Keeps start := Iff.rfl
@[simp] theorem State.keeps_dropDownload (s : State) : s.dropDownload.Keeps start ↔ s.Keeps start := by
  simp only [State.dropDownload]
  split <;> simp
@[simp] theorem State.keeps_send (s : State) (t : TxFrame) : (s.send t).Keeps start ↔ s.Keeps start := Iff.rfl
@[simp] theorem State.keeps_event (s : State) (code : Byte) (idx sub : Nat) (seq : W32) :
    (s.event code idx sub seq).Keeps start ↔ s.Keeps start := by simp [State.event]
theorem Hub.bounded_congr {h k : Hub} (j : k.journal.length ≤ 8192 ↔ h.journal.length ≤ 8192)
    (p : k.persistent.length ≤ 262144 ↔ h.persistent.length ≤ 262144) (t : k.trace.length ≤ poolSize 4 ↔ h.trace.length ≤ poolSize 4) :
    k.Bounded ↔ h.Bounded := and_congr j (and_congr p t)
theorem length_ring_append {α : Type} (l : List α) (x : α) (n : Nat) (hn : 0 < n) :
    ((if n ≤ l.length then l.drop 1 else l) ++ [x]).length ≤ n ↔ l.length ≤ n := by
  split <;> simp <;> omega
@[simp] theorem State.keeps_journal (s : State) (code : Byte) (part srcKind srcId : Nat) (tag : BitVec 16) (stepno addr : W32)
    (detail : W64) : (s.journal code part srcKind srcId tag stepno addr detail).Keeps start ↔ s.Keeps start := by
  have recorded (h : Hub) (j : h.journal.length ≤ 8192 ↔ s.hub.journal.length ≤ 8192) (p : h.persistent = s.hub.persistent)
      (t : h.trace = s.hub.trace) : (s.setHub h).Keeps start ↔ s.Keeps start :=
    State.keeps_setHub s h (Hub.bounded_congr j (by rw [p]) (by rw [t]))
  unfold State.journal
  extract_lets h cls r full s1
  have appended : s1.Keeps start ↔ s.Keeps start := recorded _ (length_ring_append _ _ _ (by decide)) rfl rfl
  split <;> simp [appended]
@[simp] theorem State.keeps_journalDev (s : State) (code : Byte) (srcKind srcId : Nat) (detail : W64) :
    (s.journalDev code srcKind srcId detail).Keeps start ↔ s.Keeps start := by simp [State.journalDev]
@[simp] theorem State.keeps_journalBare (s : State) (code : Byte) (srcKind srcId : Nat) :
    (s.journalBare code srcKind srcId).Keeps start ↔ s.Keeps start := by simp [State.journalBare]
@[simp] theorem State.keeps_exhausted (s : State) (c detail : Nat) :
    (s.exhausted c detail).Keeps start ↔ s.Keeps start := by simp [State.exhausted]
@[simp] theorem Hub.bounded_setPart (h : Hub) (p : Nat) (v : Partition) : (h.setPart p v).Bounded ↔ h.Bounded := Iff.rfl
@[simp] theorem Hub.bounded_setStream (h : Hub) (n : Nat) (v : Stream) : (h.setStream n v).Bounded ↔ h.Bounded := Iff.rfl
@[simp] theorem Hub.bounded_updStream (h : Hub) (n : Nat) (f : Stream → Stream) : (h.updStream n f).Bounded ↔ h.Bounded := Iff.rfl
@[simp] theorem State.keeps_holdProg (s : State) (prog : Nat) : (s.holdProg prog).Keeps start ↔ s.Keeps start := by simp [State.holdProg]
@[simp] theorem Hub.bounded_ask (h : Hub) (k t : Nat) : (h.ask k t).Bounded ↔ h.Bounded := Iff.rfl
theorem Hub.held_trace (h : Hub) : h.held 4 none = h.trace.length := by simp [Hub.held]
@[simp] theorem State.keeps_traceEv (s : State) (c en : Nat) (tag : BitVec 16) (slot event : Nat) (data : W32) :
    (s.traceEv c en tag slot event data).Keeps start ↔ s.Keeps start := by
  simp only [State.traceEv]
  split
  · split
    next room =>
      have free : s.hub.trace.length < poolSize 4 := by simpa [Hub.poolOk, Hub.held_trace] using (Bool.and_eq_true_iff.1 room).1
      rw [State.keeps_bump]
      refine State.keeps_updHub_at (Hub.bounded_congr Iff.rfl Iff.rfl ?_)
      simp; omega
    next => split <;> simp [Hub.ask]
  · rfl

/-! ### What stays: macros -/

@[simp] theorem State.keeps_cfgWrite (s : State) (c m : Nat) (by_ : Writer) (f : MacroState → MacroState) :
    (s.cfgWrite c m by_ f).Keeps start ↔ s.Keeps start := by simp [State.cfgWrite]
@[simp] theorem State.keeps_putShadow (s : State) (c m row : Nat) (d : BitVec 4096) :
    (s.putShadow c m row d).Keeps start ↔ s.Keeps start := Iff.rfl

/-! ### What stays: operands -/

@[simp] theorem State.keeps_parityAt (s : State) (c port o a : Nat) : (s.parityAt c port o a).Keeps start ↔ s.Keeps start := Iff.rfl

/-! ### What stays: the window space -/

@[simp] theorem State.keeps_winWriteGo (c : Nat) (hub : Bool) (by_ : Writer) (n : Nat) : ∀ (s : State) (a : Nat) (bs : List Byte),
    (s.winWriteGo c hub by_ n a bs).Keeps start ↔ s.Keeps start := by
  induction n with
  | zero => intros; rfl
  | succ n ih =>
    intro s a bs
    simp only [State.winWriteGo]
    (repeat' split) <;> simp [ih]
@[simp] theorem State.keeps_winWrite (s : State) (c : Nat) (hub : Bool) (by_ : Writer) (a : Nat) (bs : List Byte) :
    (s.winWrite c hub by_ a bs).Keeps start ↔ s.Keeps start := by
  exact State.keeps_winWriteGo ..

/-! ### What stays: queues -/

@[simp] theorem RunResult.keeps_fail (s : State) (f : Byte) : (RunResult.fail s f).s.Keeps start ↔ s.Keeps start := Iff.rfl
@[simp] theorem RunResult.keeps_ok (s : State) (e : BitVec 16) : (RunResult.ok s e).s.Keeps start ↔ s.Keeps start := Iff.rfl
@[simp] theorem RunResult.keeps_parity (s : State) (c port o a : Nat) :
    (RunResult.parity s c port o a).s.Keeps start ↔ s.Keeps start := Iff.rfl
@[simp] theorem RunResult.keeps_ended (r : RunResult) (c : Nat) (q : QEntry) : (r.ended c q).Keeps start ↔ r.s.Keeps start := by
  simp [RunResult.ended]
theorem State.keeps_of_pickReady {s u : State} {c opc : Nat} {e : Eng} {holds : QEntry → Bool} {q : QEntry}
    (h : s.pickReady c e opc holds = some (q, u)) :
    u.Keeps start ↔ s.Keeps start := by
  unfold State.pickReady at h
  split at h <;> cases h <;> simp
@[simp] theorem State.keeps_runEntry (s : State) (c : Nat) (e : Eng) (q : QEntry) (run : State → QEntry → RunResult)
    (h : ∀ s q, (run s q).s.Keeps start ↔ s.Keeps start) : (s.runEntry c e q run).Keeps start ↔ s.Keeps start := by
  simp [State.runEntry, h]
@[simp] theorem State.keeps_runNext (s : State) (c : Nat) (e : Eng) (opc : Nat) (holds : QEntry → Bool) (run : State → QEntry → RunResult)
    (h : ∀ s q, (run s q).s.Keeps start ↔ s.Keeps start) : (s.runNext c e opc holds run).Keeps start ↔ s.Keeps start := by
  simp only [State.runNext]
  split
  next picked => simp [h, State.keeps_of_pickReady picked]
  next => rfl
@[simp] theorem State.keeps_settle (s : State) (c : Nat) : (s.settle c).Keeps start ↔ s.Keeps start := by
  simp only [State.settle]
  (repeat' split) <;> simp [Hub.coreReports]
@[simp] theorem State.keeps_retire (s : State) (c : Nat) (q : QEntry) (fault : Byte) (estat : BitVec 16) :
    (s.retire c q fault estat).Keeps start ↔ s.Keeps start := by simp [State.retire]
@[simp] theorem State.keeps_completeEntry (s : State) (c : Nat) (q : QEntry) : (s.completeEntry c q).Keeps start ↔ s.Keeps start := by
  simp only [State.completeEntry]
  (repeat' split) <;> simp
@[simp] theorem State.keeps_bprepHint (s : State) (c bid lead : Nat) : (s.bprepHint c bid lead).Keeps start ↔ s.Keeps start := Iff.rfl
@[simp] theorem State.keeps_suRun (s : State) (c : Nat) (q : QEntry) : (s.suRun c q).Keeps start ↔ s.Keeps start := by
  simp only [State.suRun]
  (repeat' split) <;> simp
@[simp] theorem State.keeps_suStart (s : State) (c : Nat) : (s.suStart c).Keeps start ↔ s.Keeps start := by
  simp only [State.suStart]
  split <;> simp

/-! ### What stays: row operations -/

@[simp] theorem State.keeps_retireRecord (s : State) (key : Nat) (on : Bool) :
    (s.retireRecord key on).Keeps start ↔ s.Keeps start := Iff.rfl
@[simp] theorem State.keeps_wantSwap (s : State) (key : Nat) : (s.wantSwap key).Keeps start ↔ s.Keeps start := Iff.rfl
@[simp] theorem State.keeps_fieldRepair (s : State) (c m : Nat) (what : RepairKind) :
    (s.fieldRepair c m what).Keeps start ↔ s.Keeps start := by
  simp only [State.fieldRepair]
  (repeat' split) <;> simp
@[simp] theorem State.keeps_rewriteRow (s : State) (c m row : Nat) (mask : BitVec 16) :
    (s.rewriteRow c m row mask).Keeps start ↔ s.Keeps start := by
  simp only [State.rewriteRow]
  split <;> simp
@[simp] theorem State.keeps_rewriteRepair (s : State) (c m : Nat) (what : RepairKind) :
    (s.rewriteRepair c m what).Keeps start ↔ s.Keeps start := by
  simp only [State.rewriteRepair]
  split <;> simp
@[simp] theorem State.keeps_readFailed (s : State) (c m row : Nat) : (s.readFailed c m row).Keeps start ↔ s.Keeps start := by
  simp only [State.readFailed]
  (repeat' split) <;> simp
@[simp] theorem State.keeps_rowOp (s : State) (c m : Nat) (op : HeldOp) : (s.rowOp c m op).Keeps start ↔ s.Keeps start := by
  simp only [State.rowOp]
  (repeat' split) <;> simp
@[simp] theorem State.keeps_flushGo (c m n : Nat) : ∀ s : State, (s.flushGo c m n).Keeps start ↔ s.Keeps start := by
  induction n with
  | zero => intros; rfl
  | succ n ih =>
    intro s
    simp only [State.flushGo]
    (repeat' split) <;> simp [ih]
@[simp] theorem State.keeps_flushHeld (s : State) (c m : Nat) : (s.flushHeld c m).Keeps start ↔ s.Keeps start := by
  exact State.keeps_flushGo ..
@[simp] theorem State.keeps_passEnds (s : State) (c m : Nat) : (s.passEnds c m).Keeps start ↔ s.Keeps start := by
  simp only [State.passEnds]
  split <;> simp
@[simp] theorem State.keeps_arriveRow (s : State) (c m : Nat) (op : HeldOp) :
    (s.arriveRow c m op).Keeps start ↔ s.Keeps start := by simp [State.arriveRow]
@[simp] theorem State.keeps_recordRepair (s : State) (c m : Nat) (what : RepairKind) :
    (s.recordRepair c m what).Keeps start ↔ s.Keeps start := by simp [State.recordRepair]
@[simp] theorem keeps_execFieldRepairRewriteDone (c : CoreId) (m : MacId) (s : State) :
    Out.Keeps start (execFieldRepairRewriteDone c m s) ↔ s.Keeps start := by
  simp only [execFieldRepairRewriteDone]
  split <;> simp
theorem State.keeps_of_arowwOp {s : State} {c : Nat} {q : QEntry} {r : RunResult} (h : s.arowwOp c q = .error r) :
    r.s.Keeps start ↔ s.Keeps start := by
  simp only [State.arowwOp] at h
  (repeat' split at h) <;> cases h <;> simp
theorem State.keeps_of_arowrOp {s : State} {c : Nat} {q : QEntry} {r : RunResult} (h : s.arowrOp c q = .error r) :
    r.s.Keeps start ↔ s.Keeps start := by
  simp only [State.arowrOp] at h
  (repeat' split at h) <;> cases h <;> simp
@[simp] theorem State.keeps_startRow (s : State) (c opc : Nat) (op : State → QEntry → Except RunResult (Nat × HeldOp))
    (h : ∀ s q r, op s q = .error r → (r.s.Keeps start ↔ s.Keeps start)) : (s.startRow c opc op).Keeps start ↔ s.Keeps start := by
  simp only [State.startRow]
  split
  · rfl
  · split
    · split
      next failed => simp [h _ _ _ failed]
      next => simp
    · rfl
@[simp] theorem keeps_execAroww (c : CoreId) (s : State) : Out.Keeps start (execAroww c s) ↔ s.Keeps start :=
  State.keeps_startRow s c 0x45 _ fun _ _ _ => State.keeps_of_arowwOp
@[simp] theorem keeps_execArowr (c : CoreId) (s : State) : Out.Keeps start (execArowr c s) ↔ s.Keeps start :=
  State.keeps_startRow s c 0x46 _ fun _ _ _ => State.keeps_of_arowrOp

/-! ### What stays: the array engine -/

@[simp] theorem State.keeps_passFail (s : State) (c : Nat) (q : QEntry) (wlog attempt : Nat) (satBefore : Bool) (f : ReadFail) :
    (s.passFail c q wlog attempt satBefore f).Keeps start ↔ s.Keeps start := by simp [State.passFail]
@[simp] theorem State.keeps_monitor (s : State) (c ctx l : Nat) (decided : Sparse Int) (t : TileId) :
    (s.monitor c ctx l decided t).Keeps start ↔ s.Keeps start := by
  unfold State.monitor
  extract_lets
  split
  · rfl
  · split
    · split
      · exact State.keeps_setCore ..
      · rw [State.keeps_journal]; exact State.keeps_setCore ..
    · exact State.keeps_setCore ..
@[simp] theorem State.keeps_aeWrite (s : State) (o a : Nat) (bs : List Byte) : (s.aeWrite o a bs).1.Keeps start ↔ s.Keeps start := Iff.rfl
@[simp] theorem State.keeps_maskWrite (s : State) (c : Nat) (q : QEntry) (o : Operand) (bytes : List Byte) (ok : Byte) (es : BitVec 16)
    (det : W64) : (s.maskWrite c q o bytes ok es det).Keeps start ↔ s.Keeps start := by
  simp only [State.maskWrite]
  (repeat' split) <;> simp
@[simp] theorem State.keeps_passDone (s : State) (c : Nat) (q : QEntry) (r : PassRun) (bad : List (Nat × Nat × Bool)) (newInf : Nat)
    (kf : CoreState) : (s.passDone c q r bad newInf kf).Keeps start ↔ s.Keeps start := by simp [State.passDone]
@[simp] theorem State.keeps_enterQueue (s : State) (c : Nat) (e : Eng) (tag : BitVec 16) (slot : W128) :
    (s.enterQueue c e tag slot).Keeps start ↔ s.Keeps start := by simp [State.enterQueue]
@[simp] theorem State.keeps_takeTile (s : State) (c : Nat) (q : QEntry) (x : HeadXlat) :
    (s.takeTile c q x).Keeps start ↔ s.Keeps start := by
  simp only [State.takeTile]
  split <;> simp
@[simp] theorem keeps_execPassCmdAtHead (c : CoreId) (s : State) : Out.Keeps start (execPassCmdAtHead c s) ↔ s.Keeps start := by
  simp only [execPassCmdAtHead]
  (repeat' split) <;> simp
@[simp] theorem keeps_execPassRelease (c : CoreId) (s : State) : Out.Keeps start (execPassRelease c s) ↔ s.Keeps start := by
  simp only [execPassRelease]
  split <;> simp
@[simp] theorem keeps_execPlaneComplete (c : CoreId) (s : State) : Out.Keeps start (execPlaneComplete c s) ↔ s.Keeps start := by
  simp only [execPlaneComplete]
  split <;> simp
@[simp] theorem keeps_execTileFinish (c : CoreId) (s : State) : Out.Keeps start (execTileFinish c s) ↔ s.Keeps start := by
  simp only [execTileFinish]
  split <;> simp
@[simp] theorem keeps_execRetryRestart (c : CoreId) (s : State) : Out.Keeps start (execRetryRestart c s) ↔ s.Keeps start := by
  simp only [execRetryRestart]
  (repeat' split) <;> simp
@[simp] theorem State.keeps_loadSpare (s : State) (c failed spare : Nat) :
    (s.loadSpare c failed spare).Keeps start ↔ s.Keeps start := by simp [State.loadSpare]

/-! ### What stays: the commons -/

@[simp] theorem Hub.bounded_setOwner (h : Hub) (key : Nat) (v : Option Nat) : (h.setOwner key v).Bounded ↔ h.Bounded := Iff.rfl
@[simp] theorem Hub.bounded_commonsPut (p : Nat) (bs : List Byte) : ∀ (h : Hub) (o : Nat), (h.commonsPut p o bs).Bounded ↔ h.Bounded := by
  induction bs with
  | nil => intros; rfl
  | cons b bs ih =>
    intro h o
    simp only [Hub.commonsPut]
    simp [ih]

/-! ### What stays: routes -/

@[simp] theorem State.keeps_setPort (s : State) (p : Nat) (v : Port) : (s.setPort p v).Keeps start ↔ s.Keeps start := Iff.rfl
@[simp] theorem State.keeps_updPort (s : State) (p : Nat) (f : Port → Port) : (s.updPort p f).Keeps start ↔ s.Keeps start := Iff.rfl
@[simp] theorem State.keeps_pumpGo (p : Nat) (ws : List WaitFlit) : ∀ s : State, (s.pumpGo p ws).Keeps start ↔ s.Keeps start := by
  induction ws with
  | nil => intros; rfl
  | cons w ws ih =>
    intro s
    simp only [State.pumpGo]
    (repeat' split) <;> simp [ih]
@[simp] theorem State.keeps_pump (s : State) (p : Nat) : (s.pump p).Keeps start ↔ s.Keeps start := by
  exact State.keeps_pumpGo ..
@[simp] theorem State.keeps_queueFlit (s : State) (f : Flit) (from_ : Option (Nat × Nat)) :
    (s.queueFlit f from_).1.Keeps start ↔ s.Keeps start := by
  simp only [State.queueFlit]
  (repeat' split) <;> simp
@[simp] theorem State.keeps_countDiscard (s : State) : s.countDiscard.Keeps start ↔ s.Keeps start := Iff.rfl
@[simp] theorem State.keeps_dispatchFlit (s : State) (f : Flit) (from_ : Option (Nat × Nat)) :
    (s.dispatchFlit f from_).Keeps start ↔ s.Keeps start := by
  have queued {s t : State} {f : Flit} {from_ : Option (Nat × Nat)} {b : Bool} (h : s.queueFlit f from_ = (t, b)) :
      t.Keeps start ↔ s.Keeps start := by
    rw [← State.keeps_queueFlit s f from_, h]
  unfold State.dispatchFlit
  split
  next h => exact queued h
  next s1 h =>
    rw [← queued h]
    dsimp only
    have returned : (match from_ with
      | some (q, b) => s1.updPort q fun y => y.giveCredit b
      | none => s1).Keeps start ↔ s1.Keeps start := by
      split <;> simp
    split
    · split
      next h2 => rw [queued h2]; exact returned
      next h2 => rw [State.keeps_countDiscard, queued h2]; exact returned
    · rw [State.keeps_countDiscard]; exact returned
@[simp] theorem State.keeps_setJobState (s : State) (v : Nat) : (s.setJobState v).Keeps start ↔ s.Keeps start := by simp [State.setJobState]
@[simp] theorem State.keeps_sendTree (s : State) (vc : BitVec 2) (op : Byte) (tos : List Nat) (msg : W64) (payload : List Byte) :
    (s.sendTree vc op tos msg payload).Keeps start ↔ s.Keeps start := by
  exact State.keeps_foldl (fun s x => State.keeps_dispatchFlit ..) tos s
@[simp] theorem State.keeps_barrierOver (s : State) : s.barrierOver.Keeps start ↔ s.Keeps start := by simp [State.barrierOver]
@[simp] theorem State.keeps_torusRelease (s : State) (g : Nat) :
    (s.torusRelease g).Keeps start ↔ s.Keeps start := by simp [State.torusRelease]
@[simp] theorem State.keeps_torusUp (s : State) (g : Nat) : (s.torusUp g).Keeps start ↔ s.Keeps start := by
  simp only [State.torusUp]
  (repeat' split) <;> simp
@[simp] theorem State.keeps_torusKid (s : State) (g child : Nat) :
    (s.torusKid g child).Keeps start ↔ s.Keeps start := by simp [State.torusKid]

/-! ### What stays: scalar instructions -/

@[simp] theorem State.keeps_scalar (s : State) (c : Nat) (o : ScalarOp) (tag : BitVec 16) :
    (s.scalar c o tag).Keeps start ↔ s.Keeps start := by simp [State.scalar]

/-! ### What stays: the sync slot -/

@[simp] theorem State.keeps_stepAct (s : State) (c : Nat) (tag stepid : BitVec 16) :
    (s.stepAct c tag stepid).Keeps start ↔ s.Keeps start := by
  simp [State.stepAct]
@[simp] theorem State.keeps_barArrive (s : State) (c bid : Nat) (torus : Bool) :
    (s.barArrive c bid torus).Keeps start ↔ s.Keeps start := by simp [State.barArrive]
@[simp] theorem State.keeps_holdBlocked (s : State) (c : Nat) : (s.holdBlocked c).Keeps start ↔ s.Keeps start := by simp [State.holdBlocked]
@[simp] theorem State.keeps_barrierTry (s : State) (c bid : Nat) (torus : Bool) :
    (s.barrierTry c bid torus).1.Keeps start ↔ s.Keeps start := by
  simp only [State.barrierTry]
  (repeat' split) <;> simp
@[simp] theorem State.keeps_suEnter (s : State) (c : Nat) (tag : BitVec 16) (y : W64) :
    (s.suEnter c tag y).Keeps start ↔ s.Keeps start := by simp [State.suEnter]
@[simp] theorem keeps_execNeighbourArrival (owner : CoreId) (d : Dir) (s : State) :
    Out.Keeps start (execNeighbourArrival owner d s) ↔ s.Keeps start := by
  simp only [execNeighbourArrival]
  split <;> simp
@[simp] theorem keeps_execArriveAck (c : CoreId) (d : Dir) (s : State) : Out.Keeps start (execArriveAck c d s) ↔ s.Keeps start := by
  simp only [execArriveAck]
  split <;> simp

/-! ### What stays: issue and completion -/

@[simp] theorem State.keeps_issue (s : State) (c : Nat) (w : LongWord) : (s.issue c w).Keeps start ↔ s.Keeps start := by
  simp only [State.issue]
  (repeat' split) <;> simp
@[simp] theorem keeps_execLongWordIssue (c : CoreId) (s : State) : Out.Keeps start (execLongWordIssue c s) ↔ s.Keeps start := by
  simp only [execLongWordIssue]
  (repeat' split) <;> simp
@[simp] theorem keeps_execCoreWaitTimeout (c : CoreId) (s : State) : Out.Keeps start (execCoreWaitTimeout c s) ↔ s.Keeps start := by
  simp only [execCoreWaitTimeout]
  (repeat' split) <;> simp
@[simp] theorem keeps_execSigRaise (c : CoreId) (s : State) : Out.Keeps start (execSigRaise c s) ↔ s.Keeps start := by
  simp only [execSigRaise]
  split <;> simp
@[simp] theorem State.keeps_reapReserved (s : State) (c : Nat) (e : Eng) : (s.reapReserved c e).Keeps start ↔ s.Keeps start := by
  simp only [State.reapReserved]
  split <;> simp
@[simp] theorem keeps_execCommandComplete (c : CoreId) (e : Eng) (s : State) :
    Out.Keeps start (execCommandComplete c e s) ↔ s.Keeps start := by
  simp only [execCommandComplete]
  split <;> simp

/-! ### What stays: copies -/

@[simp] theorem State.keeps_storeElem (s : State) (c port id o a : Nat) (bs : List Byte) :
    (s.storeElem c port id o a bs).1.Keeps start ↔ s.Keeps start := by simp [State.storeElem]
@[simp] theorem State.keeps_storeAll (c port id o : Nat) (ws : List (Nat × List Byte)) :
    ∀ s : State, (s.storeAll c port id o ws).1.Keeps start ↔ s.Keeps start := by
  induction ws with
  | nil => intros; rfl
  | cons w ws ih =>
    intro s
    simp only [State.storeAll]
    split <;> simp [ih]
@[simp] theorem State.keeps_remoteWrite (s : State) (p space : Nat) (ws : List (Nat × List Byte)) :
    (s.remoteWrite p space ws).Keeps start ↔ s.Keeps start := by
  refine State.keeps_foldl (fun s x => ?_) ws s
  split <;> simp
@[simp] theorem State.keeps_poisonWords (s : State) (o n : Nat) (ws : List (Nat × Bool)) :
    (s.poisonWords o n ws).Keeps start ↔ s.Keeps start := by simp [State.poisonWords]
@[simp] theorem State.keeps_runLcopy (s : State) (c : Nat) (q : QEntry) : (s.runLcopy c q).s.Keeps start ↔ s.Keeps start := by
  unfold State.runLcopy
  extract_lets
  split
  · rfl
  · split
    · rfl
    · split
      · rfl
      · extract_lets src dst f rd data wr0 fs wr
        have written : wr.1.Keeps start ↔ s.Keeps start := by
          simp only [wr, wr0]
          split <;> simp
        split
        · simp
        · split
          · simp
          · split
            · simp
            · split <;> simp [written]
@[simp] theorem State.keeps_runLfill (s : State) (c : Nat) (q : QEntry) : (s.runLfill c q).s.Keeps start ↔ s.Keeps start := by
  simp only [State.runLfill]
  (repeat' split) <;> simp
@[simp] theorem State.keeps_runScopy (s : State) (c : Nat) (q : QEntry) : (s.runScopy c q).1.s.Keeps start ↔ s.Keeps start := by
  simp only [State.runScopy]
  (repeat' split) <;> simp
@[simp] theorem State.keeps_scopyEnds (s : State) (c : Nat) (q : QEntry) (o : Nat) :
    (s.scopyEnds c q o).Keeps start ↔ s.Keeps start := by simp [State.scopyEnds]
@[simp] theorem keeps_execScopy (c : CoreId) (s : State) : Out.Keeps start (execScopy c s) ↔ s.Keeps start := by
  simp only [execScopy]
  split
  · simp
  next picked => split <;> simp [State.keeps_of_pickReady picked]

/-! ### What stays: drains -/

@[simp] theorem State.keeps_noteFail (s : State) (c : Nat) (f : ReadFail) :
    (s.noteFail c f).Keeps start ↔ s.Keeps start := by simp [State.noteFail]
@[simp] theorem State.keeps_startDrain (s : State) (c : Nat) (q : QEntry) : (s.startDrain c q).Keeps start ↔ s.Keeps start := by
  simp only [State.startDrain]
  (repeat' split) <;> simp
@[simp] theorem keeps_execDrainStart (c : CoreId) (s : State) : Out.Keeps start (execDrainStart c s) ↔ s.Keeps start := by
  simp only [execDrainStart]
  (repeat' split) <;> simp
@[simp] theorem State.keeps_putRun (s : State) (c : Nat) (r : Run) : (s.putRun c r).1.Keeps start ↔ s.Keeps start := by
  simp only [State.putRun]
  split <;> simp
@[simp] theorem State.keeps_writeRuns (c : Nat) (rs : List Run) :
    ∀ (s : State) (done : Bool), (s.writeRuns c done rs).1.Keeps start ↔ s.Keeps start := by
  induction rs with
  | nil => intros; rfl
  | cons r rs ih =>
    intro s done
    simp only [State.writeRuns]
    split <;> simp [ih]
@[simp] theorem keeps_execDrainComplete (c : CoreId) (s : State) : Out.Keeps start (execDrainComplete c s) ↔ s.Keeps start := by
  simp only [execDrainComplete]
  (repeat' split) <;> simp

/-! ### What stays: merges -/

@[simp] theorem RunResult.keeps_readFail (s : State) (c : Nat) (x : ReadFail) :
    (RunResult.readFail s c x).s.Keeps start ↔ s.Keeps start := by simp [RunResult.readFail]
@[simp] theorem State.keeps_runMerge (s : State) (c : Nat) (q : QEntry) : (s.runMerge c q).s.Keeps start ↔ s.Keeps start := by
  simp only [State.runMerge]
  (repeat' split) <;> simp
@[simp] theorem State.keeps_startWaiting (s : State) (p : Nat) : (s.startWaiting p).Keeps start ↔ s.Keeps start := Iff.rfl
@[simp] theorem Hub.bounded_rewriteMerges (h : Hub) (p : Nat) (moves : List (Nat × Nat)) :
    (h.rewriteMerges p moves).Bounded ↔ h.Bounded := by
  refine Hub.bounded_foldl (fun h off => ?_) _ h
  split
  · refine Hub.bounded_foldl (fun h d => ?_) _ h
    split <;> simp
  · rfl
@[simp] theorem Hub.bounded_noteAdd (h : Hub) (p o : Nat) : (h.noteAdd p o).Bounded ↔ h.Bounded := by simp [Hub.noteAdd]
@[simp] theorem State.keeps_deliver (s : State) (p off d : Nat) (pairs : List (Nat × Nat)) :
    (s.deliver p off d pairs).Keeps start ↔ s.Keeps start := by simp [State.deliver]
@[simp] theorem keeps_execHubMergeDone (p : PartId) (off : Nat) (s : State) :
    Out.Keeps start (execHubMergeDone p off s) ↔ s.Keeps start := by
  simp only [execHubMergeDone]
  split <;> simp
@[simp] theorem State.keeps_runSatom (s : State) (c : Nat) (q : QEntry) : (s.runSatom c q).s.Keeps start ↔ s.Keeps start := by
  simp only [State.runSatom]
  (repeat' split) <;> simp
@[simp] theorem State.keeps_runScatom (s : State) (c : Nat) (q : QEntry) : (s.runScatom c q).s.Keeps start ↔ s.Keeps start := by
  simp only [State.runScatom]
  (repeat' split) <;> simp

/-! ### What stays: the vector engine -/

@[simp] theorem State.keeps_veStore (c id : Nat) (rs : List Run) : ∀ s : State, (s.veStore c id rs).1.Keeps start ↔ s.Keeps start := by
  induction rs with
  | nil => intros; rfl
  | cons r rs ih =>
    intro s
    simp only [State.veStore]
    split <;> simp [ih]
@[simp] theorem State.keeps_veFinish (s : State) (c : Nat) (q : QEntry) (a : Pat) (b : Option Pat) (d : Pat) (vs seen : List FV)
    (recs : List Run) (nonfin empty : Bool) : (s.veFinish c q a b d vs seen recs nonfin empty).s.Keeps start ↔ s.Keeps start := by
  simp only [State.veFinish]
  split <;> simp
@[simp] theorem State.keeps_veFloat (s : State) (c : Nat) (q : QEntry) (a : Pat) (b : Option Pat) (d : Pat) :
    (s.veFloat c q a b d).s.Keeps start ↔ s.Keeps start := by
  simp only [State.veFloat]
  (repeat' split) <;> simp
@[simp] theorem State.keeps_vePsum (s : State) (c : Nat) (q : QEntry) : (s.vePsum c q).s.Keeps start ↔ s.Keeps start := by
  simp only [State.vePsum]
  (repeat' split) <;> simp
@[simp] theorem State.keeps_runVe (s : State) (c : Nat) (q : QEntry) : (s.runVe c q).s.Keeps start ↔ s.Keeps start := by
  simp only [State.runVe]
  (repeat' split) <;> simp
@[simp] theorem State.keeps_veStart (s : State) (c opc : Nat) : (s.veStart c opc).Keeps start ↔ s.Keeps start := by simp [State.veStart]

/-! ### What stays: the fine engine -/

@[simp] theorem FmmRun.keeps_block (r : FmmRun) (c : Nat) (q : QEntry) (i j : Nat) : (r.block c q i j).s.Keeps start ↔ r.s.Keeps start := by
  simp only [FmmRun.block]
  split <;> simp
@[simp] theorem State.keeps_runFmm (s : State) (c : Nat) (q : QEntry) : (s.runFmm c q).s.Keeps start ↔ s.Keeps start := by
  have blocks (r : FmmRun) (bs : List (Nat × Nat)) :
      (bs.foldl (fun r b => if r.fail.isSome then r else r.block c q b.1 b.2) r).s.Keeps start ↔ r.s.Keeps start := by
    induction bs generalizing r with
    | nil => rfl
    | cons b bs ih => rw [List.foldl_cons, ih]; split <;> simp
  simp only [State.runFmm]
  (repeat' split) <;> simp [blocks]

/-! ### What stays: replay -/

@[simp] theorem keeps_execRollbackApply (owner : CoreId) (d : Dir) (s : State) :
    Out.Keeps start (execRollbackApply owner d s) ↔ s.Keeps start := by
  simp only [execRollbackApply]
  split <;> simp
@[simp] theorem keeps_execRollbackAck (c : CoreId) (s : State) : Out.Keeps start (execRollbackAck c s) ↔ s.Keeps start := by
  simp only [execRollbackAck]
  split <;> simp
@[simp] theorem Hub.bounded_invFault (h : Hub) (c : Nat) (code : Byte) : (h.invFault c code).Bounded ↔ h.Bounded := Iff.rfl
@[simp] theorem State.keeps_mendMeta (s : State) (c m : Nat) : (s.mendMeta c m).Keeps start ↔ s.Keeps start := by
  refine State.keeps_foldl (fun s r => ?_) _ s
  split <;> simp
@[simp] theorem State.keeps_checkReported (s : State) (c : Nat) (r : FaultRec) :
    (s.checkReported c r).Keeps start ↔ s.Keeps start := by simp [State.checkReported]
@[simp] theorem keeps_execFaultRecordTaken (c : CoreId) (s : State) : Out.Keeps start (execFaultRecordTaken c s) ↔ s.Keeps start := by
  simp only [execFaultRecordTaken]
  split <;> simp
@[simp] theorem State.keeps_releaseCore (s : State) (c : Nat) : (s.releaseCore c).Keeps start ↔ s.Keeps start := by simp [State.releaseCore]

/-! ### What stays: rings -/

@[simp] theorem Hub.bounded_setRing (h : Hub) (r : Nat) (v : Ring) : (h.setRing r v).Bounded ↔ h.Bounded := Iff.rfl
@[simp] theorem Hub.bounded_updRing (h : Hub) (r : Nat) (f : Ring → Ring) : (h.updRing r f).Bounded ↔ h.Bounded := Iff.rfl
@[simp] theorem State.keeps_postNow (s : State) (w : CqWait) : (s.postNow w).Keeps start ↔ s.Keeps start := by simp [State.postNow]
@[simp] theorem State.keeps_post (s : State) (w : CqWait) : (s.post w).Keeps start ↔ s.Keeps start := by simp [State.post]
@[simp] theorem State.keeps_postWaiting (p : Nat) (ws : List CqWait) : ∀ s : State, (s.postWaiting p ws).Keeps start ↔ s.Keeps start := by
  induction ws with
  | nil => intros; rfl
  | cons w ws ih =>
    intro s
    simp only [State.postWaiting]
    (repeat' split) <;> simp [ih]
@[simp] theorem State.keeps_finishCmd (s : State) (o : OutCmd) (a : Answer) :
    (s.finishCmd o a).Keeps start ↔ s.Keeps start := by simp [State.finishCmd]
@[simp] theorem Hub.bounded_take (h : Hub) (id : Nat) : (h.take id).Bounded ↔ h.Bounded := Iff.rfl
@[simp] theorem Hub.bounded_updProg (h : Hub) (handle : Nat) (f : Program → Program) : (h.updProg handle f).Bounded ↔ h.Bounded := Iff.rfl
@[simp] theorem Hub.bounded_updTenant (h : Hub) (t : Nat) (f : Tenant → Tenant) : (h.updTenant t f).Bounded ↔ h.Bounded := Iff.rfl
@[simp] theorem State.keeps_admitBusy (s : State) (o : OutCmd) (pool : Nat) (detail : W32) :
    (s.admitBusy o pool detail).Keeps start ↔ s.Keeps start := by simp [State.admitBusy]
@[simp] theorem State.keeps_endRequest (s : State) (n : Nat) (status : Nat) (detail : W32) (spec : Bool) :
    (s.endRequest n status detail spec).Keeps start ↔ s.Keeps start := by
  simp only [State.endRequest]
  split <;> simp
@[simp] theorem State.keeps_endQueued (s : State) (n status : Nat) : (s.endQueued n status).Keeps start ↔ s.Keeps start := by
  simp only [State.endQueued, State.keeps_updHub, Hub.bounded_updStream, implies_true]
  exact State.keeps_foldl (fun s c => by split <;> simp) _ s
@[simp] theorem State.keeps_freeStream (s : State) (n : Nat) : (s.freeStream n).Keeps start ↔ s.Keeps start := by
  simp only [State.freeStream]
  (repeat' split) <;> simp
@[simp] theorem State.keeps_dropStream (s : State) (n status : Nat) :
    (s.dropStream n status).Keeps start ↔ s.Keeps start := by simp [State.dropStream]
@[simp] theorem State.keeps_nextQueued (s : State) (n : Nat) : (s.nextQueued n).Keeps start ↔ s.Keeps start := by
  simp only [State.nextQueued]
  split <;> simp
@[simp] theorem State.keeps_releaseStream (s : State) (n : Nat) :
    (s.releaseStream n).Keeps start ↔ s.Keeps start := by simp [State.releaseStream]

/-! ### What stays: installation -/

@[simp] theorem State.keeps_bindMacros (s : State) (c : Nat) : (s.bindMacros c).Keeps start ↔ s.Keeps start := by
  refine State.keeps_foldl (fun s r => ?_) _ s
  dsimp only
  (repeat' split) <;> simp
@[simp] theorem State.keeps_loadMacro (s : State) (c m : Nat) (w : MacroImage) :
    (s.loadMacro c m w).Keeps start ↔ s.Keeps start := by simp [State.loadMacro]
@[simp] theorem State.keeps_loadData (s : State) (i : Image) (b : List Nat) (l : Nat) (d : DataInit) :
    (s.loadData i b l d).Keeps start ↔ s.Keeps start := by
  simp only [State.loadData]
  split <;> simp
@[simp] theorem State.keeps_loadCore (s : State) (i : Image) (b : List Nat) (part l : Nat) :
    (s.loadCore i b part l).Keeps start ↔ s.Keeps start := by simp [State.loadCore]
@[simp] theorem State.keeps_loadWindows (s : State) (i : Image) (b : List Nat) (part : Nat) :
    (s.loadWindows i b part).Keeps start ↔ s.Keeps start := by
  refine State.keeps_foldl (fun s r => State.keeps_foldl (fun s r => ?_) _ s) _ s
  split <;> simp
@[simp] theorem State.keeps_loadRest (s : State) (i : Image) (b : List Nat) (l : Nat) :
    (s.loadRest i b l).Keeps start ↔ s.Keeps start := by simp [State.loadRest]
@[simp] theorem State.keeps_loadImage (s : State) (i : Image) (b : List Nat) (part handle : Nat) :
    (s.loadImage i b part handle).Keeps start ↔ s.Keeps start := by simp [State.loadImage]
@[simp] theorem State.keeps_unloadImage (s : State) (i : Image) (b : List Nat) (handle : Nat) :
    (s.unloadImage i b handle).Keeps start ↔ s.Keeps start := by simp [State.unloadImage]
@[simp] theorem State.keeps_stopCore (s : State) (c : Nat) : (s.stopCore c).Keeps start ↔ s.Keeps start := by simp [State.stopCore]
@[simp] theorem State.keeps_removeProgram (s : State) (g : Program) :
    (s.removeProgram g).Keeps start ↔ s.Keeps start := by simp [State.removeProgram]
@[simp] theorem keeps_execInstall (ring : Fin 64) (recs : Listed) (s : State) :
    Out.Keeps start (execInstall ring recs s) ↔ s.Keeps start := by
  simp only [execInstall]
  (repeat' split) <;> simp
@[simp] theorem State.keeps_loadInactive (s : State) (g : Program) (i : Image) :
    (s.loadInactive g i).Keeps start ↔ s.Keeps start := by simp [State.loadInactive]
@[simp] theorem keeps_execInstallReplace (ring : Fin 64) (recs : Listed) (s : State) :
    Out.Keeps start (execInstallReplace ring recs s) ↔ s.Keeps start := by
  simp only [execInstallReplace]
  (repeat' split) <;> simp
@[simp] theorem State.keeps_finishProg (s : State) (g : Program) (a : Answer) : (s.finishProg g a).Keeps start ↔ s.Keeps start := by
  simp only [State.finishProg]
  split <;> simp
@[simp] theorem keeps_execCodeBankSwitch (prog : Nat) (s : State) : Out.Keeps start (execCodeBankSwitch prog s) ↔ s.Keeps start := by
  simp only [execCodeBankSwitch]
  (repeat' split) <;> simp
@[simp] theorem keeps_execUninstall (ring : Fin 64) (s : State) : Out.Keeps start (execUninstall ring s) ↔ s.Keeps start := by
  simp only [execUninstall]
  (repeat' split) <;> simp
@[simp] theorem State.keeps_armImage (s : State) (i : Image) (b : List Nat) :
    (s.armImage i b).1.Keeps start ↔ s.Keeps start := by simp [State.armImage]
@[simp] theorem State.keeps_failHeld (s : State) (prog status : Nat) (detail : W32) :
    (s.failHeld prog status detail).Keeps start ↔ s.Keeps start := by simp [State.failHeld]
@[simp] theorem State.keeps_failReplace (s : State) (g : Program) (status : Nat) (detail : W32) :
    (s.failReplace g status detail).Keeps start ↔ s.Keeps start := by simp [State.failReplace]
@[simp] theorem State.keeps_replaceFull (s : State) (g : Program) (i : Image) (ok : Bool) :
    (s.replaceFull g i ok).Keeps start ↔ s.Keeps start := by
  simp only [State.replaceFull]
  split <;> simp
@[simp] theorem keeps_execInstallComplete (prog : Nat) (ok : Bool) (s : State) :
    Out.Keeps start (execInstallComplete prog ok s) ↔ s.Keeps start := by
  simp only [execInstallComplete]
  (repeat' split) <;> simp

/-! ### What stays: the hub's commands -/

@[simp] theorem State.keeps_writeSqTail (s : State) (r : Nat) (v : W32) : (s.writeSqTail r v).Keeps start ↔ s.Keeps start := Iff.rfl
@[simp] theorem State.keeps_writeCqHead (s : State) (q : Nat) (v : W32) :
    (s.writeCqHead q v).Keeps start ↔ s.Keeps start := by simp [State.writeCqHead]
@[simp] theorem State.keeps_ownWrites (old new : State) : (State.ownWrites old new).Keeps start ↔ new.Keeps start := by
  simp [State.ownWrites]
@[simp] theorem Hub.bounded_fetch (h : Hub) (r : Nat) (c : HostCmd) : (h.fetch r c).1.Bounded ↔ h.Bounded := by
  simp [Hub.fetch]
@[simp] theorem Hub.bounded_noteWaiting (h : Hub) (r : Nat) (c : HostCmd) :
    (h.noteWaiting r c).Bounded ↔ h.Bounded := by simp [Hub.noteWaiting]
@[simp] theorem State.keeps_fetchCmd (s : State) (ring : Fin 64) (cmd : HostCmd) :
    (s.fetchCmd ring cmd).Keeps start ↔ s.Keeps start := by simp [State.fetchCmd]
@[simp] theorem keeps_execHostNop (ring : Fin 64) (s : State) : Out.Keeps start (execHostNop ring s) ↔ s.Keeps start := by
  simp only [execHostNop]
  split <;> simp
@[simp] theorem keeps_execStreamOpen (ring : Fin 64) (s : State) : Out.Keeps start (execStreamOpen ring s) ↔ s.Keeps start := by
  simp only [execStreamOpen]
  (repeat' split) <;> simp
@[simp] theorem keeps_execStreamReq (ring : Fin 64) (s : State) : Out.Keeps start (execStreamReq ring s) ↔ s.Keeps start := by
  simp only [execStreamReq]
  (repeat' split) <;> simp
@[simp] theorem keeps_execStreamStop (ring : Fin 64) (s : State) : Out.Keeps start (execStreamStop ring s) ↔ s.Keeps start := by
  simp only [execStreamStop]
  split <;> simp
@[simp] theorem keeps_execStreamClose (ring : Fin 64) (s : State) : Out.Keeps start (execStreamClose ring s) ↔ s.Keeps start := by
  simp only [execStreamClose]
  split <;> simp
@[simp] theorem keeps_execStreamRelease (ring : Fin 64) (s : State) : Out.Keeps start (execStreamRelease ring s) ↔ s.Keeps start := by
  simp only [execStreamRelease]
  split <;> simp
@[simp] theorem State.keeps_grantTok (s : State) (c ch n : Nat) :
    (s.grantTok c ch n).Keeps start ↔ s.Keeps start := by simp [State.grantTok]
@[simp] theorem keeps_execSignal (ring : Fin 64) (s : State) : Out.Keeps start (execSignal ring s) ↔ s.Keeps start := by
  simp only [execSignal]
  (repeat' split) <;> simp
@[simp] theorem State.keeps_memPut (s : State) (m : CtlMem) (a : Nat) (bs : List Byte) : (s.memPut m a bs).Keeps start ↔ s.Keeps start := by
  simp only [State.memPut]
  split <;> simp
@[simp] theorem State.keeps_atomic (s : State) (who : HubAgent) (m : CtlMem) (a : Nat) (wide : Bool) (f : Nat → Nat) :
    (s.atomic who m a wide f).Keeps start ↔ s.Keeps start := by simp [State.atomic]
@[simp] theorem State.keeps_noteArrival (s : State) (who : HubAgent) (m : CtlMem) (a n : Nat) :
    (s.noteArrival who m a n).Keeps start ↔ s.Keeps start := by
  simp only [State.noteArrival]
  (repeat' split) <;> simp
@[simp] theorem Hub.bounded_zeroBank (h : Hub) (k : Nat) : (h.zeroBank k).Bounded ↔ h.Bounded := Iff.rfl
@[simp] theorem Hub.bounded_handOver (h : Hub) (m : CtlMem) (v : Option Nat) : (h.handOver m v).Bounded ↔ h.Bounded := by
  simp only [Hub.handOver]
  split <;> simp

/-! ### What stays: the scheduler -/

@[simp] theorem Hub.bounded_credit (h : Hub) (t : Nat) (v : Int) : (h.credit t v).Bounded ↔ h.Bounded := Iff.rfl
@[simp] theorem Hub.bounded_chargeAll (h : Hub) (neg : Bool) (total : Nat) (ns : List Nat) :
    (h.chargeAll neg total ns).Bounded ↔ h.Bounded := by simp [Hub.chargeAll]
@[simp] theorem State.keeps_padWrite (s : State) (b : List Nat) (h : HandleInit) (o : Nat) (bs : List Byte) :
    (s.padWrite b h o bs).Keeps start ↔ s.Keeps start := Iff.rfl
@[simp] theorem State.keeps_padCore (s : State) (g : Program) (p : Pad) (l n size : Nat) :
    (s.padCore g p l n size).Keeps start ↔ s.Keeps start := by
  simp only [State.padCore]
  (repeat' split) <;> simp
@[simp] theorem State.keeps_writePads (s : State) (g : Program) (c : Nat × Nat) (n0 n1 : Nat) :
    (s.writePads g c n0 n1).Keeps start ↔ s.Keeps start := by
  simp only [State.writePads]
  simp
@[simp] theorem State.keeps_writeBatch (s : State) (c slots seq : Nat) (bat : List Nat) :
    (s.writeBatch c slots seq bat).Keeps start ↔ s.Keeps start := by simp [State.writeBatch]
@[simp] theorem State.keeps_dispatch (s : State) (g : Program) (bat : List Nat) (pair : Nat × Nat) (e : Nat) :
    (s.dispatch g bat pair e).Keeps start ↔ s.Keeps start := by simp [State.dispatch]
@[simp] theorem Hub.bounded_setLate (h : Hub) (n : Nat) : (h.setLate n).Bounded ↔ h.Bounded := by simp [Hub.setLate]
@[simp] theorem State.keeps_tryReplica (p : Pass) (a : State × Nat) (g : Program) :
    (State.tryReplica p a g).1.Keeps start ↔ a.1.Keeps start := by
  simp only [State.tryReplica]
  (repeat' split) <;> simp
@[simp] theorem State.keeps_runPass (s : State) (part rem : Nat) (p : Pass) : (s.runPass part rem p).1.Keeps start ↔ s.Keeps start := by
  simp only [State.runPass]
  rw [State.keeps_foldl_fst (State.keeps_tryReplica p)]
@[simp] theorem State.keeps_quanta (s : State) (p bp : Nat) : (s.quanta p bp).Keeps start ↔ s.Keeps start := by
  simp only [State.quanta]
  split
  · simp
  · split <;> simp
@[simp] theorem Hub.bounded_noteMissed (h : Hub) (p bp : Nat) : (h.noteMissed p bp).Bounded ↔ h.Bounded := by simp [Hub.noteMissed]
@[simp] theorem State.keeps_schedulePart (s : State) (p bp : Nat) : (s.schedulePart p bp).Keeps start ↔ s.Keeps start := by
  simp only [State.schedulePart]
  split <;> simp
@[simp] theorem Hub.bounded_applyShares (h : Hub) : h.applyShares.Bounded ↔ h.Bounded := by
  refine Hub.bounded_foldl (fun h p => ?_) _ h
  split <;> simp
@[simp] theorem keeps_execEpochBoundary (s : State) : Out.Keeps start (execEpochBoundary s) ↔ s.Keeps start := by
  unfold execEpochBoundary
  extract_lets s0 s1 ps b s2 s3
  have begun : s1.Keeps start ↔ s.Keeps start := by simp [s1, s0]
  have lost : s3.Keeps start ↔ s.Keeps start := by simp [s3, s2, begun]
  rw [Out.keeps_next]
  split
  · exact begun
  · simp [lost]
@[simp] theorem keeps_execStepRecordReceived (c : CoreId) (s : State) : Out.Keeps start (execStepRecordReceived c s) ↔ s.Keeps start := by
  simp only [execStepRecordReceived]
  (repeat' split) <;> simp
@[simp] theorem State.keeps_noteGap (s : State) (n : Nat) : (s.noteGap n).Keeps start ↔ s.Keeps start := by simp [State.noteGap]
@[simp] theorem State.keeps_afterInv (s : State) (n : Nat) : (s.afterInv n).Keeps start ↔ s.Keeps start := by simp [State.afterInv]
@[simp] theorem State.keeps_streamResult (s : State) (n code : Nat) (spec : Bool) :
    (s.streamResult n code spec).Keeps start ↔ s.Keeps start := by
  simp only [State.streamResult]
  (repeat' split) <;> simp
@[simp] theorem State.keeps_streamFault (s : State) (n code : Nat) (spec : Bool) :
    (s.streamFault n code spec).Keeps start ↔ s.Keeps start := by simp [State.streamFault]
@[simp] theorem Hub.bounded_settleEnergy (h : Hub) (v : Invocation) (m : Nat) :
    (h.settleEnergy v m).Bounded ↔ h.Bounded := by simp [Hub.settleEnergy]
@[simp] theorem State.keeps_endInvocation (s : State) (prog : Nat) (v : Invocation) :
    (s.endInvocation prog v).Keeps start ↔ s.Keeps start := by
  simp only [State.endInvocation]
  (repeat' split) <;> simp
@[simp] theorem keeps_execInvocationComplete (prog : Nat) (s : State) :
    Out.Keeps start (execInvocationComplete prog s) ↔ s.Keeps start := by
  simp only [execInvocationComplete]
  split <;> simp

/-! ### What stays: frames -/

@[simp] theorem State.keeps_replyTo (s : State) (f : Frame) (slot : Nat) (num : BitVec 16) (a : Ans) :
    (s.replyTo f slot num a).Keeps start ↔ s.Keeps start := by
  simp only [State.replyTo]
  split <;> simp
@[simp] theorem State.keeps_receive (s : State) (f : Frame) (act : State → Who → State × Ans)
    (h : ∀ s w, (act s w).1.Keeps start ↔ s.Keeps start) :
    (s.receive f act).Keeps start ↔ s.Keeps start := by
  simp only [State.receive]
  (repeat' split) <;> simp [h]
@[simp] theorem State.keeps_segment (s : State) (slot key offset : Nat) (more : Bool) (data : List Byte) :
    (s.segment slot key offset more data).1.Keeps start ↔ s.Keeps start := by simp [State.segment]
@[simp] theorem State.keeps_writeValue (s : State) (w : Who) (idx sub type offset : Nat) (more : Bool) (data : List Byte)
    (act : State → List Byte → State × Nat) (h : ∀ s v, (act s v).1.Keeps start ↔ s.Keeps start) :
    (s.writeValue w idx sub type offset more data act).1.Keeps start ↔ s.Keeps start := by
  have segmented {t : State} {g : Segment} (e : s.segment w.slot (objKey idx sub) offset more data = (t, g)) :
      t.Keeps start ↔ s.Keeps start := by
    rw [← State.keeps_segment s w.slot (objKey idx sub) offset more data, e]
  simp only [State.writeValue]
  split
  · rfl
  · split
    · rfl
    · split
      · rfl
      · split
        next e => exact segmented e
        next e => exact segmented e
        next e => split <;> simp [h, segmented e]
@[simp] theorem State.keeps_onWrite (s : State) (f : Frame) (idx : Nat → Bool) (sub : Nat) (is : List Byte → Bool)
    (act : State → Who → Nat → List Byte → State × Nat) (h : ∀ s w n v, (act s w n v).1.Keeps start ↔ s.Keeps start) :
    (s.onWrite f idx sub is act).Keeps start ↔ s.Keeps start := by
  simp only [State.onWrite]
  split <;> simp [h]
@[simp] theorem State.keeps_endSession (s : State) (slot : Nat) :
    (s.endSession slot).Keeps start ↔ s.Keeps start := by simp [State.endSession]

/-! ### What stays: the arbiter -/

@[simp] theorem State.keeps_noteBusy (s : State) (a r : MaintKind) : (s.noteBusy a r).Keeps start ↔ s.Keeps start := Iff.rfl
@[simp] theorem State.keeps_maintRefused (s : State) (a r : MaintKind) :
    (s.maintRefused a r).Keeps start ↔ s.Keeps start := by simp [State.maintRefused]
@[simp] theorem State.keeps_markTest (s : State) (o : MaintOp) (on : Bool) :
    (s.markTest o on).Keeps start ↔ s.Keeps start := by simp [State.markTest]
@[simp] theorem State.keeps_beginOp (s : State) (o : MaintOp) : (s.beginOp o).Keeps start ↔ s.Keeps start := by simp [State.beginOp]
@[simp] theorem State.keeps_raiseOp (s : State) (o : MaintOp) : (s.raiseOp o).Keeps start ↔ s.Keeps start := by
  simp only [State.raiseOp]
  split <;> simp
@[simp] theorem State.keeps_endOps (s : State) (p : MaintOp → Bool) : (s.endOps p).Keeps start ↔ s.Keeps start := by
  simp only [State.endOps]
  rw [State.keeps_foldl fun s o => by split <;> simp]
  simp

/-! ### What stays: rebinding -/

@[simp] theorem State.keeps_moveMacro (s0 s : State) (c m c2 m2 : Nat) :
    (State.moveMacro s0 s c m c2 m2).Keeps start ↔ s.Keeps start := by simp [State.moveMacro]
@[simp] theorem State.keeps_reloadMacro (s0 s : State) (w : MacroImage) (c m c2 m2 : Nat) :
    (State.reloadMacro s0 s w c m c2 m2).Keeps start ↔ s.Keeps start := by simp [State.reloadMacro]
@[simp] theorem State.keeps_offlineCore (s : State) (c : Nat) : (s.offlineCore c).Keeps start ↔ s.Keeps start := by simp [State.offlineCore]
@[simp] theorem State.keeps_vacate (s : State) (c : Nat) : (s.vacate c).Keeps start ↔ s.Keeps start := by simp [State.vacate]
@[simp] theorem State.keeps_enterRebind (s : State) (g : Program) (b : List Nat) (recover result : Bool) :
    (s.enterRebind g b recover result).Keeps start ↔ s.Keeps start := Iff.rfl
@[simp] theorem State.keeps_partResult (s : State) (p v : Nat) :
    (s.partResult p v).Keeps start ↔ s.Keeps start := by simp [State.partResult]
@[simp] theorem State.keeps_releaseProg (s : State) (prog : Nat) :
    (s.releaseProg prog).Keeps start ↔ s.Keeps start := by simp [State.releaseProg]
@[simp] theorem State.keeps_parkProgram (s : State) (g : Program) :
    (s.parkProgram g).Keeps start ↔ s.Keeps start := by simp [State.parkProgram]
@[simp] theorem State.keeps_startRebind (s : State) (g : Program) (ls : List Nat) : (s.startRebind g ls).Keeps start ↔ s.Keeps start := by
  simp only [State.startRebind]
  (repeat' split) <;> simp
@[simp] theorem keeps_execRebindStart (prog : Nat) (lcores : List Nat) (s : State) :
    Out.Keeps start (execRebindStart prog lcores s) ↔ s.Keeps start := by
  simp only [execRebindStart]
  split <;> simp
@[simp] theorem State.keeps_exhaustCore (s : State) (c detail : Nat) : (s.exhaustCore c detail).Keeps start ↔ s.Keeps start := by
  simp only [State.exhaustCore]
  split <;> simp
@[simp] theorem State.keeps_actRebind (s : State) (p : Nat) : (s.actRebind p).1.Keeps start ↔ s.Keeps start := by
  simp only [State.actRebind]
  (repeat' split) <;> simp
@[simp] theorem keeps_execRebindHoldTimeout (prog : Nat) (s : State) : Out.Keeps start (execRebindHoldTimeout prog s) ↔ s.Keeps start := by
  simp only [execRebindHoldTimeout]
  split <;> simp
@[simp] theorem State.keeps_moveMacros (s0 s : State) (g : Program) (l : Nat) (c c2 : Nat) (reload : Bool) :
    (State.moveMacros s0 s g l c c2 reload).Keeps start ↔ s.Keeps start := by simp [State.moveMacros]
@[simp] theorem State.keeps_applyMoves (s0 : State) (g : Program) (moves : List (Nat × Nat)) (held : Bool) :
    (State.applyMoves s0 g moves held).Keeps start ↔ s0.Keeps start := by
  simp only [State.applyMoves]
  simp
  rw [State.keeps_foldl fun s x => by split <;> simp]
  rw [State.keeps_foldl fun s x => by split <;> simp]
  simp
@[simp] theorem State.keeps_movedSwaps (s : State) (moves : List (Nat × Nat)) :
    (s.movedSwaps moves).Keeps start ↔ s.Keeps start := by simp [State.movedSwaps]
@[simp] theorem keeps_execRebindCopyDone (prog : Nat) (s : State) : Out.Keeps start (execRebindCopyDone prog s) ↔ s.Keeps start := by
  simp only [execRebindCopyDone]
  split <;> simp
@[simp] theorem State.keeps_passCores (s : State) (from_ to_ : Nat) (cs : List Nat) :
    (s.passCores from_ to_ cs).Keeps start ↔ s.Keeps start := by simp [State.passCores]
@[simp] theorem State.keeps_borrow (s : State) (g : Program) (ls : List Nat) : (s.borrow g ls).1.Keeps start ↔ s.Keeps start := by
  simp only [State.borrow]
  (repeat' split) <;> simp
theorem State.keeps_of_borrow {s t : State} {g : Program} {ls : List Nat} {o : Option (List Nat)} (h : s.borrow g ls = (t, o)) :
    t.Keeps start ↔ s.Keeps start := by
  rw [← State.keeps_borrow s g ls, h]
@[simp] theorem State.keeps_recover (s : State) (g : Program) : (s.recover g).Keeps start ↔ s.Keeps start := by
  simp only [State.recover]
  split
  · simp
  · split
    next e => simp only [State.keeps_enterRebind]; rw [State.keeps_of_borrow e]; simp
    next e => simp only [State.keeps_parkProgram]; rw [State.keeps_of_borrow e]; simp
theorem State.keeps_of_retarget {s t : State} {r : Rebind} (h : s.retarget r = some t) : t.Keeps start ↔ s.Keeps start := by
  unfold State.retarget at h
  split at h
  · cases h
  · obtain ⟨b, -, rfl⟩ := Option.map_eq_some_iff.1 h
    simp
@[simp] theorem State.keeps_cancelChange (s : State) (p why : Nat) : (s.cancelChange p why).Keeps start ↔ s.Keeps start := by
  simp only [State.cancelChange]
  split <;> simp
@[simp] theorem State.keeps_dropRebind (s : State) (r : Rebind) : (s.dropRebind r).Keeps start ↔ s.Keeps start := by
  simp only [State.dropRebind]
  (repeat' split) <;> simp
@[simp] theorem State.keeps_dropInstall (s : State) (g : Program) : (s.dropInstall g).Keeps start ↔ s.Keeps start := by
  simp only [State.dropInstall]
  split <;> simp
@[simp] theorem State.keeps_abandon (s : State) (d : Nat) (ps : List Nat) : (s.abandon d ps).Keeps start ↔ s.Keeps start := by
  simp only [State.abandon]
  rw [State.keeps_foldl fun s g => State.keeps_dropInstall ..]
  refine State.keeps_foldl (fun s r => ?_) _ s
  split
  · split
    · simp
    · split
      next e => exact State.keeps_of_retarget e
      next => simp
  · split <;> simp

/-! ### What stays: partitions -/

@[simp] theorem State.keeps_stageField (s : State) (w : Who) (idx sub : Nat) (v : List Byte) :
    (s.stageField w idx sub v).1.Keeps start ↔ s.Keeps start := by simp [State.stageField]
theorem State.keeps_of_displace {t : Partition} {ps : List (Program × List Nat)} : ∀ {s u : State}, s.displace t ps = some u →
    (u.Keeps start ↔ s.Keeps start) := by
  induction ps with
  | nil => rintro s u ⟨⟩; rfl
  | cons p ps ih =>
    intro s u h
    simp only [State.displace] at h
    split at h
    · cases h
    · simp [ih h]
@[simp] theorem State.keeps_actCommit (s : State) (w : Who) (p : Nat) : (s.actCommit w p).1.Keeps start ↔ s.Keeps start := by
  simp only [State.actCommit]
  (repeat' split)
  any_goals simp
  next e => simp [State.keeps_of_displace e]
@[simp] theorem State.keeps_actCreate (s : State) (w : Who) (p : Nat) :
    (s.actCreate w p).1.Keeps start ↔ s.Keeps start := by simp [State.actCreate]
@[simp] theorem State.keeps_actDelete (s : State) (p : Nat) (force : Bool) :
    (s.actDelete p force).1.Keeps start ↔ s.Keeps start := by simp [State.actDelete]
@[simp] theorem State.keeps_actDiscard (s : State) (w : Who) (p : Nat) :
    (s.actDiscard w p).1.Keeps start ↔ s.Keeps start := by simp [State.actDiscard]
@[simp] theorem State.keeps_freeCore (s : State) (c : Nat) : (s.freeCore c).Keeps start ↔ s.Keeps start := by simp [State.freeCore]
@[simp] theorem State.keeps_giveCore (s : State) (c p : Nat) : (s.giveCore c p).Keeps start ↔ s.Keeps start := Iff.rfl
@[simp] theorem keeps_execPartitionChangeComplete (p : PartId) (s : State) :
    Out.Keeps start (execPartitionChangeComplete p s) ↔ s.Keeps start := by
  simp only [execPartitionChangeComplete]
  split <;> simp
@[simp] theorem State.keeps_actPartition (s : State) (w : Who) (p v : Nat) : (s.actPartition w p v).1.Keeps start ↔ s.Keeps start := by
  simp only [State.actPartition]
  split <;> simp

/-! ### What stays: external memory -/

@[simp] theorem State.keeps_mediaEvent (s : State) (p kind : Nat) :
    (s.mediaEvent p kind).Keeps start ↔ s.Keeps start := by simp [State.mediaEvent]
@[simp] theorem State.keeps_failChannel (s : State) (c : Nat) : (s.failChannel c).Keeps start ↔ s.Keeps start := by simp [State.failChannel]
@[simp] theorem State.keeps_actLpddr (s : State) (c : Nat) : (s.actLpddr c).1.Keeps start ↔ s.Keeps start := by
  simp only [State.actLpddr]
  (repeat' split) <;> simp
@[simp] theorem keeps_execLpddrRetrainDone (ch : Chan) (ok : Bool) (s : State) :
    Out.Keeps start (execLpddrRetrainDone ch ok s) ↔ s.Keeps start := by
  simp only [execLpddrRetrainDone]
  (repeat' split) <;> simp

/-! ### What stays: host ports -/

@[simp] theorem State.keeps_endMailbox (s : State) (p : Nat) : (s.endMailbox p).Keeps start ↔ s.Keeps start := by simp [State.endMailbox]
@[simp] theorem State.keeps_stopStream (s : State) (n : Nat) : (s.stopStream n).Keeps start ↔ s.Keeps start := by simp [State.stopStream]
@[simp] theorem State.keeps_portReset (s : State) (p : Nat) : (s.portReset p).Keeps start ↔ s.Keeps start := by simp [State.portReset]
@[simp] theorem State.keeps_replaceLane (s : State) (p lane : Nat) :
    (s.replaceLane p lane).Keeps start ↔ s.Keeps start := by simp [State.replaceLane]
@[simp] theorem State.keeps_lanesLost (s : State) (d : Nat) : (s.lanesLost d).Keeps start ↔ s.Keeps start := by simp [State.lanesLost]
@[simp] theorem State.keeps_mailbox (s : State) (act : State → State) (h : (act s).Keeps start ↔ s.Keeps start) :
    (s.mailbox act).Keeps start ↔ s.Keeps start := by
  simp only [State.mailbox]
  split <;> simp [h]
@[simp] theorem State.keeps_cxlAnswer (s : State) (cmd : Nat) : (s.cxlAnswer cmd).Keeps start ↔ s.Keeps start := Iff.rfl
@[simp] theorem State.keeps_vendorAnswer (s : State) (status : Nat) (data : List Byte) :
    (s.vendorAnswer status data).Keeps start ↔ s.Keeps start := Iff.rfl

/-! ### What stays: links -/

@[simp] theorem State.keeps_reroute (s : State) (p : Nat) : (s.reroute p).Keeps start ↔ s.Keeps start := by
  simp only [State.reroute]
  split
  · rfl
  · simp
@[simp] theorem State.keeps_portDown (s : State) (p cause : Nat) :
    (s.portDown p cause).Keeps start ↔ s.Keeps start := by simp [State.portDown]
@[simp] theorem State.keeps_halvesChanged (s : State) (p : Nat) :
    (s.halvesChanged p).Keeps start ↔ s.Keeps start := by simp [State.halvesChanged]
@[simp] theorem State.keeps_kxDieLost (s : State) (d : Nat) : (s.kxDieLost d).Keeps start ↔ s.Keeps start := by simp [State.kxDieLost]
@[simp] theorem State.keeps_retrainHalf (s : State) (p : Nat) (half : Bool) : (s.retrainHalf p half).Keeps start ↔ s.Keeps start := Iff.rfl
@[simp] theorem State.keeps_peerResetting (s : State) (p : Nat) :
    (s.peerResetting p).Keeps start ↔ s.Keeps start := by simp [State.peerResetting]
@[simp] theorem State.keeps_peerDraining (s : State) (p : Nat) :
    (s.peerDraining p).Keeps start ↔ s.Keeps start := by simp [State.peerDraining]
@[simp] theorem State.keeps_sendSet (s : State) (kind p : Nat) : (s.sendSet kind p).Keeps start ↔ s.Keeps start := Iff.rfl
@[simp] theorem State.keeps_retry (s : State) (p : Nat) (seq : BitVec 12) :
    (s.retry p seq).Keeps start ↔ s.Keeps start := by simp [State.retry]
@[simp] theorem State.keeps_collStatus (s : State) (p off v : Nat) : (s.collStatus p off v).Keeps start ↔ s.Keeps start := by
  simp [State.collStatus]
@[simp] theorem State.keeps_collEnd (s : State) (p off status : Nat) (out : List Byte) :
    (s.collEnd p off status out).Keeps start ↔ s.Keeps start := by simp [State.collEnd]
@[simp] theorem State.keeps_collUnreachable (s : State) (g id : Nat) : (s.collUnreachable g id).Keeps start ↔ s.Keeps start := by
  simp only [State.collUnreachable]
  split <;> simp
@[simp] theorem State.keeps_sendColl (s : State) (f : Flit) : (s.sendColl f).Keeps start ↔ s.Keeps start := by
  unfold State.sendColl
  split
  next e => rw [← State.keeps_queueFlit s f none, e]
  next e =>
    rw [← State.keeps_queueFlit s f none, e]
    split <;> simp
@[simp] theorem State.keeps_collLost (s : State) (p off : Nat) : (s.collLost p off).Keeps start ↔ s.Keeps start := by simp [State.collLost]
@[simp] theorem State.keeps_sendChunks (s : State) (g colid : Nat) (tos : List Nat) (bs : List Byte) :
    (s.sendChunks g colid tos bs).Keeps start ↔ s.Keeps start := by
  exact State.keeps_foldl (fun s x => State.keeps_foldl (fun s d => State.keeps_sendColl ..) _ s) _ s
@[simp] theorem State.keeps_sendData (s : State) (g colid dev : Nat) (bs : List Byte) :
    (s.sendData g colid dev bs).Keeps start ↔ s.Keeps start := by
  exact State.keeps_foldl (fun s x => State.keeps_sendColl ..) _ s
@[simp] theorem keeps_execCollectiveStart (p : PartId) (off : Nat) (s : State) :
    Out.Keeps start (execCollectiveStart p off s) ↔ s.Keeps start := by
  simp only [execCollectiveStart]
  (repeat' split) <;> simp
@[simp] theorem keeps_execCollectiveDone (p : PartId) (off : Nat) (arrived : List Arrived) (s : State) :
    Out.Keeps start (execCollectiveDone p off arrived s) ↔ s.Keeps start := by
  simp only [execCollectiveDone]
  (repeat' split) <;> simp
@[simp] theorem State.keeps_freezeStream (s : State) (n : Nat) :
    (s.freezeStream n).Keeps start ↔ s.Keeps start := by simp [State.freezeStream]
@[simp] theorem State.keeps_freeze (s : State) : s.freeze.Keeps start ↔ s.Keeps start := by simp [State.freeze]
@[simp] theorem State.keeps_actResume (s : State) : s.actResume.1.Keeps start ↔ s.Keeps start := by simp [State.actResume]
@[simp] theorem State.keeps_discardJob (s : State) : s.discardJob.Keeps start ↔ s.Keeps start := by simp [State.discardJob]
@[simp] theorem State.keeps_actDiscardJob (s : State) : s.actDiscardJob.1.Keeps start ↔ s.Keeps start := by simp [State.actDiscardJob]
@[simp] theorem State.keeps_actJobCmd (s : State) (v : Nat) : (s.actJobCmd v).1.Keeps start ↔ s.Keeps start := by simp [State.actJobCmd]
@[simp] theorem State.keeps_actLease (s : State) : s.actLease.1.Keeps start ↔ s.Keeps start := by simp [State.actLease]
@[simp] theorem State.keeps_actAnchor (s : State) (v : Nat) : (s.actAnchor v).1.Keeps start ↔ s.Keeps start := by simp [State.actAnchor]
@[simp] theorem State.keeps_leaseIn (s : State) (f : Flit) : (s.leaseIn f).Keeps start ↔ s.Keeps start := by simp [State.leaseIn]
@[simp] theorem State.keeps_actTrees (s : State) (v : List Byte) : (s.actTrees v).1.Keeps start ↔ s.Keeps start := by simp [State.actTrees]
@[simp] theorem State.keeps_jobWritten (s : State) : s.jobWritten.Keeps start ↔ s.Keeps start := by simp [State.jobWritten]
@[simp] theorem State.keeps_sendIn (s : State) (f : Flit) : (s.sendIn f).Keeps start ↔ s.Keeps start := by simp [State.sendIn]
@[simp] theorem State.keeps_floodOn (s : State) (f : Flit) : (s.floodOn f).Keeps start ↔ s.Keeps start := by simp [State.floodOn]
@[simp] theorem State.keeps_chunkIn (s : State) (f : Flit) : (s.chunkIn f).Keeps start ↔ s.Keeps start := by
  simp only [State.chunkIn]
  split
  · rfl
  · exact State.keeps_foldl (fun s d => State.keeps_sendColl ..) _ s
@[simp] theorem State.keeps_deliverFlit (s : State) (f : Flit) : (s.deliverFlit f).Keeps start ↔ s.Keeps start := by
  simp only [State.deliverFlit]
  split <;> simp
@[simp] theorem State.keeps_dataIn (s : State) (p : Nat) (f : Flit) : (s.dataIn p f).Keeps start ↔ s.Keeps start := by simp [State.dataIn]
@[simp] theorem State.keeps_discardFlit (s : State) (p : Nat) : (s.discardFlit p).Keeps start ↔ s.Keeps start := Iff.rfl
@[simp] theorem State.keeps_heartbeatIn (s : State) (p : Nat) (f : Flit) : (s.heartbeatIn p f).Keeps start ↔ s.Keeps start := by
  simp only [State.heartbeatIn]
  split <;> simp
@[simp] theorem keeps_execFlitReceived (p : KPort) (half : Bool) (f : Flit) (s : State) :
    Out.Keeps start (execFlitReceived p half f s) ↔ s.Keeps start := by
  simp only [execFlitReceived]
  (repeat' split) <;> simp

/-! ### What stays: firmware -/

@[simp] theorem State.keeps_fwResult (s : State) (c cause : Nat) : (s.fwResult c cause).Keeps start ↔ s.Keeps start := Iff.rfl
@[simp] theorem State.keeps_fwRefuse (s : State) (c cause : Nat) : (s.fwRefuse c cause).1.Keeps start ↔ s.Keeps start := Iff.rfl
@[simp] theorem State.keeps_failDownload (s : State) : s.failDownload.Keeps start ↔ s.Keeps start := by
  simp only [State.failDownload]
  split <;> simp
@[simp] theorem State.keeps_fwSegment (s : State) (w : Who) (offset : Nat) (more : Bool) (data : List Byte) :
    (s.fwSegment w offset more data).1.Keeps start ↔ s.Keeps start := by
  simp only [State.fwSegment]
  (repeat' split) <;> simp
@[simp] theorem State.keeps_islandRestart (s : State) : s.islandRestart.Keeps start ↔ s.Keeps start := by simp [State.islandRestart]
@[simp] theorem State.keeps_nextBatch (s : State) : s.nextBatch.Keeps start ↔ s.Keeps start := by
  simp only [State.nextBatch]
  (repeat' split) <;> simp
@[simp] theorem State.keeps_endBatch (s : State) : s.endBatch.Keeps start ↔ s.Keeps start := by simp [State.endBatch]
@[simp] theorem State.keeps_beginUnit (s : State) (c i : Nat) : (s.beginUnit c i).Keeps start ↔ s.Keeps start := by
  simp only [State.beginUnit]
  split <;> simp
@[simp] theorem State.keeps_endUnit (s : State) (c i : Nat) : (s.endUnit c i).Keeps start ↔ s.Keeps start := by
  simp only [State.endUnit]
  split <;> simp
@[simp] theorem State.keeps_actActivate (s : State) (c : Nat) : (s.actActivate c).1.Keeps start ↔ s.Keeps start := by
  simp only [State.actActivate]
  (repeat' split) <;> simp
@[simp] theorem State.keeps_fwInstalled (s : State) (c : Nat) : (s.fwInstalled c).Keeps start ↔ s.Keeps start := by simp [State.fwInstalled]
@[simp] theorem State.keeps_fwPartial (s : State) (c : Nat) : (s.fwPartial c).Keeps start ↔ s.Keeps start := by simp [State.fwPartial]
@[simp] theorem State.keeps_fwConfirm (s : State) (c : Nat) : (s.fwConfirm c).1.Keeps start ↔ s.Keeps start := by simp [State.fwConfirm]
@[simp] theorem State.keeps_fwBack (s : State) (c : Nat) : (s.fwBack c).Keeps start ↔ s.Keeps start := by simp [State.fwBack]
@[simp] theorem State.keeps_bootSlots (s : State) : s.bootSlots.Keeps start ↔ s.Keeps start := by simp [State.bootSlots]
@[simp] theorem State.keeps_fwRevert (s : State) (c : Nat) : (s.fwRevert c).1.Keeps start ↔ s.Keeps start := by simp [State.fwRevert]
@[simp] theorem State.keeps_actFirmware (s : State) (v : List Byte) : (s.actFirmware v).1.Keeps start ↔ s.Keeps start := by
  simp only [State.actFirmware]
  (repeat' split) <;> simp
@[simp] theorem State.keeps_trayWritten (s : State) : s.trayWritten.Keeps start ↔ s.Keeps start := by simp [State.trayWritten]
@[simp] theorem State.keeps_downloadFrame (s : State) (f : Frame) :
    (s.downloadFrame f).Keeps start ↔ s.Keeps start := by simp [State.downloadFrame]

/-! ### What stays: the island -/

@[simp] theorem State.keeps_abortMarch (s : State) (d : Nat) : (s.abortMarch d).Keeps start ↔ s.Keeps start := by simp [State.abortMarch]
@[simp] theorem Hub.bounded_dropCores (h : Hub) (cs : List Nat) : (h.dropCores cs).Bounded ↔ h.Bounded := Iff.rfl
@[simp] theorem State.keeps_isolate (s : State) (d : Nat) : (s.isolate d).Keeps start ↔ s.Keeps start := by
  simp only [State.isolate]
  rw [State.keeps_foldl fun s g => by split <;> [split <;> simp; rfl]]
  simp
  rw [State.keeps_mk_hub _ (by simp)]
  simp
@[simp] theorem State.keeps_loseDie (s : State) (d : Nat) : (s.loseDie d).Keeps start ↔ s.Keeps start := by simp [State.loseDie]
@[simp] theorem State.keeps_resetDie (s : State) (d : Nat) : (s.resetDie d).1.Keeps start ↔ s.Keeps start := by simp [State.resetDie]
@[simp] theorem State.keeps_dieBack (s : State) (d : Nat) : (s.dieBack d).Keeps start ↔ s.Keeps start := by simp [State.dieBack]
@[simp] theorem Hub.bounded_persist (h : Hub) (r : JournalRec) : (h.persist r).Bounded ↔ h.Bounded := by
  refine Hub.bounded_congr (by simp [Hub.persist]) ?_ Iff.rfl
  simp only [Hub.persist]
  split
  next full => simp
  next room => simp at room ⊢; omega
/-- A power loss empties the journal and the trace; the persistent journal stays. -/
theorem Hub.bounded_afterLoss {h : Hub} : h.Bounded → h.afterLoss.Bounded :=
  fun ⟨_, persistent, _⟩ => ⟨Nat.zero_le _, persistent, Nat.zero_le _⟩
@[simp] theorem Hub.bounded_auxLost (h : Hub) : h.auxLost.Bounded ↔ h.Bounded := Iff.rfl
theorem State.keeps_powerLoss {s : State} : s.Keeps start → s.powerLoss.Keeps start :=
  fun ⟨queue, bounds⟩ => ⟨queue, fun b => Hub.bounded_afterLoss (bounds b)⟩
theorem State.keeps_allOff {s : State} {to_ : PkgState} {cause : Nat} : s.Keeps start → (s.allOff to_ cause).Keeps start :=
  State.keeps_powerLoss
@[simp] theorem keeps_execJournalPersist (s : State) : Out.Keeps start (execJournalPersist s) ↔ s.Keeps start := by
  simp only [execJournalPersist]
  split <;> simp
@[simp] theorem State.keeps_hubRestart (s : State) : s.hubRestart.Keeps start ↔ s.Keeps start := by simp [State.hubRestart]

/-! ### What stays: power delivery -/

@[simp] theorem State.keeps_railShort (s : State) (srcKind src where_ attempts : Nat) :
    (s.railShort srcKind src where_ attempts).Keeps start ↔ s.Keeps start := by simp [State.railShort]
@[simp] theorem State.keeps_startUp (s : State) : s.startUp.Keeps start ↔ s.Keeps start := by simp [State.startUp]
@[simp] theorem State.keeps_stopHub (s : State) : s.stopHub.Keeps start ↔ s.Keeps start := Iff.rfl
@[simp] theorem State.keeps_farewell (s : State) : s.farewell.Keeps start ↔ s.Keeps start := by simp [State.farewell]
@[simp] theorem State.keeps_offRequest (s : State) (cause : Nat) (grace : Bool) :
    (s.offRequest cause grace).Keeps start ↔ s.Keeps start := by
  simp only [State.offRequest]
  split <;> simp
@[simp] theorem State.keeps_actPowerOff (s : State) : s.actPowerOff.1.Keeps start ↔ s.Keeps start := by simp [State.actPowerOff]
@[simp] theorem State.keeps_actPowerOn (s : State) : s.actPowerOn.1.Keeps start ↔ s.Keeps start := by simp [State.actPowerOn]
@[simp] theorem State.keeps_actClearLatched (s : State) :
    s.actClearLatched.1.Keeps start ↔ s.Keeps start := by simp [State.actClearLatched]
theorem keeps_execBusShortTestDone {s : State} {short : Bool} (h : s.Keeps start) : Out.Keeps start (execBusShortTestDone short s) := by
  simp only [execBusShortTestDone, Out.keeps_next]
  (repeat' split)
  · exact State.keeps_allOff (by simpa using h)
  all_goals simpa using h
@[simp] theorem State.keeps_startStep (s : State) (k : Nat) : (s.startStep k).Keeps start ↔ s.Keeps start := by simp [State.startStep]
@[simp] theorem keeps_execDieStepComplete (s : State) : Out.Keeps start (execDieStepComplete s) ↔ s.Keeps start := by
  simp only [execDieStepComplete]
  split <;> simp
@[simp] theorem State.keeps_supplyOff (s : State) (ds : List Nat) : (s.supplyOff ds).Keeps start ↔ s.Keeps start := Iff.rfl
theorem State.keeps_latchOff {s : State} {d where_ : Nat} (h : s.Keeps start) : (s.latchOff d where_).Keeps start := by
  simp only [State.latchOff]
  (repeat' split)
  · exact State.keeps_allOff (by simpa using h)
  all_goals simpa using h
theorem keeps_execSoftStartFail {s : State} {d : DieId} (h : s.Keeps start) : Out.Keeps start (execSoftStartFail d s) := by
  simp only [execSoftStartFail, Out.keeps_next]
  (repeat' split)
  case isFalse.isFalse.isFalse => exact State.keeps_latchOff h
  all_goals simpa using h
theorem keeps_execRegulatorLatchOff {s : State} {d : DieId} (h : s.Keeps start) : Out.Keeps start (execRegulatorLatchOff d s) := by
  simp only [execRegulatorLatchOff, Out.keeps_next]
  split
  · exact State.keeps_latchOff h
  · exact h
@[simp] theorem State.keeps_drainCmd (s : State) (o : OutCmd) : (s.drainCmd o).Keeps start ↔ s.Keeps start := by simp [State.drainCmd]
@[simp] theorem keeps_execDieStepOff (s : State) : Out.Keeps start (execDieStepOff s) ↔ s.Keeps start := by
  simp only [execDieStepOff]
  split <;> simp
theorem keeps_execBusDischarged {s : State} (h : s.Keeps start) : Out.Keeps start (execBusDischarged s) := by
  simp only [execBusDischarged, Out.keeps_next]
  split
  · exact State.keeps_allOff h
  · exact h
theorem keeps_execComparatorBackstop {s : State} (h : s.Keeps start) : Out.Keeps start (execComparatorBackstop s) := by
  simp only [execComparatorBackstop, Out.keeps_next]
  split
  · exact State.keeps_allOff h
  · split
    · exact State.keeps_allOff h
    · exact h
  · exact h
theorem keeps_execBusShort {s : State} (h : s.Keeps start) : Out.Keeps start (execBusShort s) := by
  simp only [execBusShort, Out.keeps_next]
  split
  · exact State.keeps_allOff (by simpa using h)
  · exact h
theorem State.keeps_dropPhase {s : State} {d ph cause : Nat} (h : s.Keeps start) : (s.dropPhase d ph cause).Keeps start := by
  unfold State.dropPhase
  extract_lets x used out spare now n cap s1 s2
  have told : s2.Keeps start := by simpa [s2, s1] using h
  split
  · exact State.keeps_latchOff told
  · exact told
theorem keeps_execPhaseFailOpen {s : State} {d : DieId} {ph : Fin 24} (h : s.Keeps start) : Out.Keeps start (execPhaseFailOpen d ph s) := by
  simp only [execPhaseFailOpen, Out.keeps_next]
  split
  · exact State.keeps_dropPhase h
  · exact h
theorem keeps_execPhaseSenseCheck {s : State} {d : DieId} {currents : List Nat} {vout ibus : Nat} {ripple : BitVec 24} (h : s.Keeps start) :
    Out.Keeps start (execPhaseSenseCheck d currents vout ibus ripple s) := by
  unfold execPhaseSenseCheck
  extract_lets x sum a b off s1
  have reset : s1.Keeps start := by simpa [s1] using h
  rw [Out.keeps_next]
  split
  · exact h
  · split
    · exact reset
    · split
      · simpa using h
      · split
        · exact State.keeps_dropPhase reset
        · simpa using reset
@[simp] theorem State.keeps_resetPowerDie (s : State) : s.resetPowerDie.1.Keeps start ↔ s.Keeps start := by simp [State.resetPowerDie]
theorem State.keeps_trigger {s : State} {cause : Nat} (h : s.Keeps start) : (s.trigger cause).Keeps start := by
  simp only [State.trigger]
  split
  · exact State.keeps_allOff h
  · exact State.keeps_allOff h
  · exact State.keeps_allOff h
  · exact h
theorem State.keeps_vinLost {s : State} {high : Bool} {vin : BitVec 16} {power : W32} (h : s.Keeps start) :
    (s.vinLost high vin power).Keeps start := by
  simp only [State.vinLost]
  split
  · exact h
  · exact State.keeps_trigger (by simpa using h)
theorem keeps_execVinFail {s : State} {vin : BitVec 16} {power : W32} (h : s.Keeps start) :
    Out.Keeps start (execVinFail vin power s) := State.keeps_vinLost h
theorem keeps_execOvervoltage {s : State} {vin : BitVec 16} {power : W32} (h : s.Keeps start) :
    Out.Keeps start (execOvervoltage vin power s) := State.keeps_vinLost h
theorem keeps_execCoolantStop {s : State} {history : W64} (h : s.Keeps start) : Out.Keeps start (execCoolantStop history s) := by
  simp only [execCoolantStop, Out.keeps_next]
  split
  · exact h
  · exact State.keeps_trigger (by simpa using h)
theorem keeps_execThermalTrip {s : State} {d : DieId} {sensor : BitVec 6} (h : s.Keeps start) :
    Out.Keeps start (execThermalTrip d sensor s) := by
  simp only [execThermalTrip, Out.keeps_next]
  split
  · exact h
  · exact State.keeps_trigger (by simpa using h)
theorem keeps_execAuxStop {s : State} (h : s.Keeps start) : Out.Keeps start (execAuxStop s) := by
  obtain ⟨queue, bounds⟩ : (s.dropDownload.islandRestart.allOff .off s.power.cause).Keeps start := State.keeps_allOff (by simpa using h)
  exact ⟨queue, fun b => (Hub.bounded_auxLost _).2 (bounds b)⟩
@[simp] theorem State.keeps_readGasp (s : State) : s.readGasp.Keeps start ↔ s.Keeps start := by simp [State.readGasp]

/-! ### What stays: power control -/

@[simp] theorem State.keeps_clearActs (s : State) (d : Nat) : (s.clearActs d).Keeps start ↔ s.Keeps start := by simp [State.clearActs]
@[simp] theorem State.keeps_addCoreEnergy (s : State) (d : Nat) (counts : List Nat) (celsius : Int) :
    (s.addCoreEnergy d counts celsius).Keeps start ↔ s.Keeps start := by simp [State.addCoreEnergy]
@[simp] theorem State.keeps_ageHints (s : State) (d : Nat) : (s.ageHints d).Keeps start ↔ s.Keeps start := by simp [State.ageHints]
@[simp] theorem State.keeps_noteThrottle (s : State) (d : Nat) :
    (s.noteThrottle d).Keeps start ↔ s.Keeps start := by simp [State.noteThrottle]
@[simp] theorem keeps_execPllStepDone (d : DieId) (s : State) : Out.Keeps start (execPllStepDone d s) ↔ s.Keeps start := by
  simp only [execPllStepDone]
  split <;> simp
@[simp] theorem keeps_execVoltageSettled (d : DieId) (s : State) : Out.Keeps start (execVoltageSettled d s) ↔ s.Keeps start := by
  simp only [execVoltageSettled]
  split <;> simp
@[simp] theorem State.keeps_ballastStep (s : State) (d e real : Nat) :
    (s.ballastStep d e real).Keeps start ↔ s.Keeps start := by simp [State.ballastStep]
@[simp] theorem State.keeps_paceSend (s : State) (d : Nat) : (s.paceSend d).Keeps start ↔ s.Keeps start := by
  simp only [State.paceSend]
  (repeat' split) <;> simp
@[simp] theorem keeps_execEstimationInterval (d : DieId) (cycles : List Nat) (celsius : Int) (s : State) :
    Out.Keeps start (execEstimationInterval d cycles celsius s) ↔ s.Keeps start := by
  simp only [execEstimationInterval]
  split <;> simp
@[simp] theorem State.keeps_stepDown (s : State) : s.stepDown.Keeps start ↔ s.Keeps start := by simp [State.stepDown]
@[simp] theorem State.keeps_stepUp (s : State) : s.stepUp.Keeps start ↔ s.Keeps start := by simp [State.stepUp]
@[simp] theorem Hub.bounded_ageBpreps (h : Hub) : h.ageBpreps.Bounded ↔ h.Bounded := Iff.rfl
@[simp] theorem keeps_execPeakLoopTick (s : State) : Out.Keeps start (execPeakLoopTick s) ↔ s.Keeps start := by
  simp only [execPeakLoopTick]
  (repeat' split) <;> simp
@[simp] theorem State.keeps_pacePolicy (s : State) (l : Nat) : (s.pacePolicy l).Keeps start ↔ s.Keeps start := by
  simp only [State.pacePolicy]
  split
  · simp
  · split
    · exact State.keeps_foldl (fun s d => by split <;> simp) _ s
    · simp
    · rfl
@[simp] theorem State.keeps_setMon (s : State) (m : Nat) (v : Monitor) : (s.setMon m v).Keeps start ↔ s.Keeps start := Iff.rfl
@[simp] theorem State.keeps_actTmcfg (s : State) (m : Nat) (v : W32) : (s.actTmcfg m v).Keeps start ↔ s.Keeps start := Iff.rfl

/-! ### What stays: the scratchpad -/

@[simp] theorem State.keeps_ringWrite (s : State) (p r o : Nat) (bs : List Byte) :
    (s.ringWrite p r o bs).Keeps start ↔ s.Keeps start := by simp [State.ringWrite]
@[simp] theorem State.keeps_outsideRegs (s : State) (p o n : Nat) : (s.outsideRegs p o n).Keeps start ↔ s.Keeps start := Iff.rfl
@[simp] theorem State.keeps_devstatWrite (s : State) (p : Nat) (v : Byte) : (s.devstatWrite p v).Keeps start ↔ s.Keeps start := Iff.rfl
@[simp] theorem State.keeps_barWrite (s : State) (p o : Nat) (bs : List Byte) :
    (s.barWrite p o bs).Keeps start ↔ s.Keeps start := by simp [State.barWrite]
@[simp] theorem State.keeps_engineWrite (s : State) (c : Nat) (e : Eng) (a : Nat) (bs : List Byte) :
    (s.engineWrite c e a bs).Keeps start ↔ s.Keeps start := by
  simp only [State.engineWrite]
  (repeat' split) <;> simp
@[simp] theorem State.keeps_hubWrite (s : State) (c a : Nat) (bs : List Byte) : (s.hubWrite c a bs).Keeps start ↔ s.Keeps start := by
  simp only [State.hubWrite]
  (repeat' split) <;> simp
@[simp] theorem keeps_execRegisterWrite (t : RegTarget) (w : RegWriter) (data : List Byte) (s : State) :
    Out.Keeps start (execRegisterWrite t w data s) ↔ s.Keeps start := by
  simp only [execRegisterWrite]
  (repeat' split) <;> simp

/-! ### What stays: maintenance -/

@[simp] theorem State.keeps_wreck (s : State) (kind c u : Nat) : (s.wreck kind c u).Keeps start ↔ s.Keeps start := by
  simp only [State.wreck]
  split <;> simp
@[simp] theorem State.keeps_actMarch (s : State) (v : List Byte) : (s.actMarch v).1.Keeps start ↔ s.Keeps start := by
  simp only [State.actMarch]
  (repeat' split) <;> simp
@[simp] theorem State.keeps_retireMacro (s : State) (c m : Nat) :
    (s.retireMacro c m).Keeps start ↔ s.Keeps start := by simp [State.retireMacro]
@[simp] theorem State.keeps_fitAtTest (s : State) (c m : Nat) (what : RepairKind) :
    (s.fitAtTest c m what).1.Keeps start ↔ s.Keeps start := by
  simp only [State.fitAtTest]
  split <;> simp
@[simp] theorem State.keeps_macroTested (s : State) (c m mode : Nat) (codes : List Nat) (repaired : Bool) :
    (s.macroTested c m mode codes repaired).Keeps start ↔ s.Keeps start := by
  simp only [State.macroTested]
  have fitted (codes : List Nat) :
      (codes.foldl (fun (a : State × Bool) x => if a.2 then a.1.fitAtTest c m (failKind x) else a) (s, true)).1.Keeps start ↔
      s.Keeps start := State.keeps_foldl_fst (fun a x => by split <;> simp) codes (s, true)
  (repeat' split) <;> simp [fitted]
@[simp] theorem State.keeps_bankFailed (s : State) (c b : Nat) : (s.bankFailed c b).Keeps start ↔ s.Keeps start := by
  simp only [State.bankFailed]
  split <;> simp
@[simp] theorem State.keeps_readmit (s : State) (c : Nat) : (s.readmit c).Keeps start ↔ s.Keeps start := Iff.rfl
@[simp] theorem State.keeps_unitTested (s : State) (o : MaintOp) (u : Nat) (codes : List Nat) (repaired : Bool) :
    (s.unitTested o u codes repaired).Keeps start ↔ s.Keeps start := by
  simp only [State.unitTested]
  split <;> simp
@[simp] theorem keeps_execMarchTestDone (d : DieId) (failures : List (Nat × Nat)) (repaired : Bool) (s : State) :
    Out.Keeps start (execMarchTestDone d failures repaired s) ↔ s.Keeps start := by
  simp only [execMarchTestDone]
  split <;> simp
@[simp] theorem State.keeps_giveUp (s : State) (kind c u : Nat) : (s.giveUp kind c u).Keeps start ↔ s.Keeps start := by simp [State.giveUp]
theorem State.keeps_of_takeSpare {s t : State} {c m : Nat} (h : s.takeSpare c = some (m, t)) : t.Keeps start ↔ s.Keeps start := by
  simp only [State.takeSpare] at h
  split at h
  · cases h; rfl
  · split at h <;> cases h
    simp
@[simp] theorem State.keeps_swapOver (s : State) (c m : Nat) : (s.swapOver c m).Keeps start ↔ s.Keeps start := by simp [State.swapOver]
@[simp] theorem State.keeps_putSpare (s : State) (c m sp : Nat) :
    (s.putSpare c m sp).Keeps start ↔ s.Keeps start := by simp [State.putSpare]
@[simp] theorem keeps_execMacroSpareSwap (c : CoreId) (m : MacId) (s : State) :
    Out.Keeps start (execMacroSpareSwap c m s) ↔ s.Keeps start := by
  simp only [execMacroSpareSwap]
  split
  · simp
  · split
    · simp
    · split
      · simp
      next e => split <;> simp [State.keeps_of_takeSpare e]
@[simp] theorem keeps_execSpareBankCopyDone (c : CoreId) (k : Fin 4) (s : State) :
    Out.Keeps start (execSpareBankCopyDone c k s) ↔ s.Keeps start := by
  simp only [execSpareBankCopyDone]
  split <;> simp
@[simp] theorem State.keeps_scrubRow (s : State) (c m row : Nat) :
    (s.scrubRow c m row).Keeps start ↔ s.Keeps start := by simp [State.scrubRow]
@[simp] theorem State.keeps_scrubMacro (s : State) (c m : Nat) :
    (s.scrubMacro c m).Keeps start ↔ s.Keeps start := by simp [State.scrubMacro]
@[simp] theorem State.keeps_actPhaseCal (s : State) (d : Nat) : (s.actPhaseCal d).1.Keeps start ↔ s.Keeps start := by
  simp only [State.actPhaseCal]
  (repeat' split) <;> simp
@[simp] theorem keeps_execRepairRecordsApplied (s : State) : Out.Keeps start (execRepairRecordsApplied s) ↔ s.Keeps start := by
  simp only [execRepairRecordsApplied]
  split
  · simp
  · simp
    refine State.keeps_foldl (fun s e => ?_) _ s
    split
    · split <;> simp
    · rfl
@[simp] theorem State.keeps_marchPassed (s : State) (d : Nat) : (s.marchPassed d).Keeps start ↔ s.Keeps start := Iff.rfl

/-! ### What stays: the dictionary -/

@[simp] theorem State.keeps_readValue (s : State) (w : Who) (idx sub offset n : Nat) :
    (s.readValue w idx sub offset n).1.Keeps start ↔ s.Keeps start := by
  simp only [State.readValue]
  (repeat' split) <;> simp
@[simp] theorem State.keeps_storeObj (s : State) (idx sub v : Nat) :
    (s.storeObj idx sub v).1.Keeps start ↔ s.Keeps start := by simp [State.storeObj]
@[simp] theorem State.keeps_actAck (s : State) (v : Nat) : (s.actAck v).1.Keeps start ↔ s.Keeps start := by simp [State.actAck]
@[simp] theorem State.keeps_actKey (s : State) (w : Who) (role : Nat) (v : List Byte) :
    (s.actKey w role v).1.Keeps start ↔ s.Keeps start := by
  simp only [State.actKey]
  (repeat' split) <;> simp
@[simp] theorem State.keeps_actSafety (s : State) (v : Nat) : (s.actSafety v).1.Keeps start ↔ s.Keeps start := by
  simp only [State.actSafety]
  split <;> simp
@[simp] theorem State.keeps_actReset (s : State) (v : Nat) : (s.actReset v).1.Keeps start ↔ s.Keeps start := by simp [State.actReset]
@[simp] theorem State.keeps_actTray (s : State) (v : Nat) : (s.actTray v).1.Keeps start ↔ s.Keeps start := by simp [State.actTray]
@[simp] theorem State.keeps_writeObj (s : State) (w : Who) (idx sub : Nat) (v : List Byte) :
    (s.writeObj w idx sub v).1.Keeps start ↔ s.Keeps start := by simp [State.writeObj]
@[simp] theorem State.keeps_endRole (s : State) (role : Nat) : (s.endRole role).Keeps start ↔ s.Keeps start := by simp [State.endRole]
@[simp] theorem State.keeps_takeNodeId (s : State) : s.takeNodeId.Keeps start ↔ s.Keeps start := Iff.rfl
@[simp] theorem State.keeps_writeFrame (s : State) (f : Frame) : (s.writeFrame f).Keeps start ↔ s.Keeps start := by simp [State.writeFrame]
@[simp] theorem State.keeps_noteAuthFail (s : State) (src : BitVec 48) : (s.noteAuthFail src).Keeps start ↔ s.Keeps start := Iff.rfl
@[simp] theorem State.keeps_actChallenge (s : State) (f : Frame) :
    (s.actChallenge f).1.Keeps start ↔ s.Keeps start := by simp [State.actChallenge]
@[simp] theorem State.keeps_authResponse (s : State) (f : Frame) : (s.authResponse f).Keeps start ↔ s.Keeps start := by
  simp only [State.authResponse]
  (repeat' split) <;> simp
@[simp] theorem keeps_execClose (f : Frame) (s : State) : Out.Keeps start (execClose f s) ↔ s.Keeps start := by
  simp only [execClose]
  (repeat' split) <;> simp
@[simp] theorem State.keeps_announceTo (s : State) (dst : BitVec 48) : (s.announceTo dst).Keeps start ↔ s.Keeps start := Iff.rfl
@[simp] theorem keeps_execDiscover (f : Frame) (s : State) : Out.Keeps start (execDiscover f s) ↔ s.Keeps start := by
  simp only [execDiscover]
  (repeat' split) <;> simp

/-! ### What stays: every command -/

/-- Every command keeps its queue and the bounds. -/
theorem exec_keeps {i : Instr} {s : State} (h : s.Keeps start) : Out.Keeps start (exec i s) := by
  cases i
  case auxStop => exact keeps_execAuxStop h
  case busShortTestDone => exact keeps_execBusShortTestDone h
  case softStartFail => exact keeps_execSoftStartFail h
  case regulatorLatchOff => exact keeps_execRegulatorLatchOff h
  case busDischarged => exact keeps_execBusDischarged h
  case comparatorBackstop => exact keeps_execComparatorBackstop h
  case busShort => exact keeps_execBusShort h
  case vinFail => exact keeps_execVinFail h
  case overvoltage => exact keeps_execOvervoltage h
  case phaseFailOpen => exact keeps_execPhaseFailOpen h
  case coolantStop => exact keeps_execCoolantStop h
  case thermalTrip => exact keeps_execThermalTrip h
  case phaseSenseCheck => exact keeps_execPhaseSenseCheck h
  all_goals simpa [exec, execMcfgConfigWrite, execMgselWrite, execMcoefWrite, execStateToArmed, execStateToLoading, execStateToOffline,
    execStateToRetired, execRecheckSweep, execMacroRowWrite, execMacroRowRead, execFieldRepair, execApass, execApred, execArelease,
    execAmmapWrite, execTileWindowWrite, execMarkFull, execTdescWrite, execRmcfgWrite, execVsfWrite, execAhcfgWrite, execRescaleTableWrite,
    execOutputTableWrite, execNop, execAdd, execSub, execAnd, execOr, execXor, execShl, execShr, execSra, execMul, execMin, execMax,
    execAddi, execLi, execLih, execBeq, execBne, execBlt, execBge, execJmp, execLoop, execCsrr, execCsrw, execFset, execFclr, execTrap,
    execDone, execSyncNop, execFence, execWait, execArrive, execStep, execBarrier, execBprep, execOphint, execGatherFlush, execIbankLoad,
    execLcopy, execLfill, execAdrain, execAmerge, execHubMergeStart, execSatom, execScatom, execVcopy, execVadd, execVsub, execVmul,
    execVmax, execVmin, execVfma, execVlerp, execVlerpsq, execVdivsq, execVexp, execVrsqrt, execVact, execVdiv, execVrsum, execVrmax,
    execVrssq, execVpsum, execVfsum, execVsmx, execVsmxc, execViadd, execVisub, execVimul, execVimax, execFmm, execCoreStart, execCoreHold,
    execCoreRelease, execCoreStop, execReplayStart, execReplayRestore, execPatrolRead, execSpownWrite, execRegionScrubDone, execHinvWrite,
    execHinvDone, execSqDoorbell, execCqHeadWrite, execCommandFetch, execCtrlMemAdd, execCtrlMemSwap, execOwnerWrite, execPartitionRebind,
    execPartitionCreate, execPartitionDelete, execPartitionDeleteForce, execPartitionCommit, execPartitionDiscard, execLpddrRetrainTick,
    execLpddrRetraining, execShadowRebuildDone, execLpddrTrainingDone, execHdmRead, execHdmWrite, execPerstAssert, execPerstDeassert,
    execHostLinkDown, execHostLaneReplace, execAttnPulseEnd, execPauseBegin, execPauseEnd, execIdentifyMemoryDevice, execGetSupportedLogs,
    execGetLog, execGetEventRecords, execGetPoisonList, execGetHealthInfo, execClearEventRecords, execMailboxAuthChallenge,
    execMailboxAuthResponse, execJournalRead, execMailboxSessionTimeout, execLaneSwap, execHalfLinkRetrained, execHeartbeatSend,
    execPortHeartbeatTimeout, execResettingSet, execDrainingSet, execPortTrained, execPortTrainTimeout, execRetryRequest, execResume,
    execDiscard, execFreezeRetentionExpire, execLeaseRenew, execLeaseSend, execLeaseExpire, execLeaseLossFreeze, execKeepaliveSend,
    execKeepaliveTimeout, execImageVerifyDone, execActivationUnitDone, execTrialExpire, execUnitStartTimeout, execActivate, execConfirm,
    execRevert, execAbortDownload, execImageDownload, execDieHeartbeat, execDieHeartbeatTimeout, execLeaveResetTimeout, execDieResetRelease,
    execHubRuntimeWatchdog, execIslandWatchdog, execOnRequest, execOffRequest, execBusInRegulation, execHiccupExpire, execGraceEnd,
    execDiesIdle, execMinOffExpire, execPowerDieFault, execLastGaspDone, execMgmtClkSwitch, execRefclkLoss, execAuxStart,
    execIslandBootDone, execBudgetGrant, execGcorrUpdate, execThermalLoop, execThermalLimit, execRampUpdate, execRampHoldExpire,
    execPaceReceived,
    execPaceCeilingExpire, execOphintExpire, execTmcfgWrite, execMonitorSample, execMarchRequest, execSpareBankSwap, execScrubCycle,
    execPhaseCalibration, execPhaseCalibrationDone, execBootMarchDone, execRuntimeInService, execIdcode, execBypass, execRead, execWrite,
    execKeyReplace, execSafetyPowerOff, execSafetyPowerOn, execClearLatched, execResetArrayDie, execResetHubDie, execResetPowerDie,
    execTrayStateWrite, execJournalAck, execOdRead, execOdWrite, execAuthChallenge, execAuthResponse, execSessionIdleTimeout,
    execSnapshotExpire, execStagingExpire, execLockoutExpire, execAnnounce, execBeaconTimeout, execBeaconReceived] using h

/-- A step takes the front command off the queue, and what it leaves keeps its bounds. -/
theorem step_next {s t : State} (stepped : step s = .next t) : t.pending = s.pending.drop 1 ∧ (s.Bounded → t.Bounded) := by
  unfold step at stepped
  split at stepped
  next idle => cases stepped; simp [idle]
  next i rest front =>
    obtain ⟨queue, bounds⟩ : t.Keeps (s.setPending rest) := by
      simpa [stepped] using exec_keeps (i := i) (State.keeps_self (s.setPending rest))
    exact ⟨by simp [queue, front], bounds⟩

end

/-- Settles O59: every command keeps the bounds of the state it starts from. -/
theorem memoriesStayBounded : Obligations.MemoriesStayBounded :=
  fun _ _ bounded stepped => (step_next stepped).2 bounded

/-- Settles O60: no command touches the queue that the step leaves it. -/
theorem commandQueueOnlyShortens : Obligations.CommandQueueOnlyShortens :=
  fun _ _ stepped => (step_next stepped).1

end Sys2Proof.Machine

/-! PROOFS. Array macros: the check lanes of R21 to R23, row operations, configuration and states. -/

namespace Sys2Proof.Machine

section

variable {m : MacroState} {g row : Nat} {x : Nat → Int}

/-! ### Check lanes (R21 to R23) -/

theorem signed_emod (w v : Nat) : signed w v % 2 ^ w = v % 2 ^ w := by
  unfold signed
  split <;> simp

theorem fld_lt {w : Nat} (v : BitVec w) (hi lo : Nat) : fld v hi lo < 2 ^ (hi + 1 - lo) := Nat.mod_lt _ (by positivity)

/-- A group that passes R23 holds the check byte of the row's data. -/
theorem MacroState.check_of_not_failing (group : g < 16) (passes : g ∉ m.failing row) :
    fld (m.row row).check (8 * g + 7) (8 * g) = m.checkByte row (m.row row).data.toNat g := by
  simpa [MacroState.failing, group] using passes

/-- The weights of a group and its check value sum to 0 modulo 256 (R21). -/
theorem MacroState.groupSum_add_check_emod (weights : row < 2048) (group : g < 16) (passes : g ∉ m.failing row) :
    (groupSum (m.groupSet g) (wfmtWidth m.wfmt) (m.row row).data.toNat g +
      signed 8 (fld (m.row row).check (8 * g + 7) (8 * g))) % 256 = 0 := by
  have weightRow : isMeta row = false := by simp [isMeta]; omega
  rw [MacroState.check_of_not_failing group passes, MacroState.checkByte, weightRow, Int.add_emod]
  have check := signed_emod 8 (m.checkOf (m.row row).data.toNat g)
  simp only [MacroState.checkOf, Int.reducePow] at check
  simp only [Bool.false_eq_true, if_false, MacroState.checkOf, check]
  omega

theorem MacroState.lt_of_mem_weightRows (h : row ∈ m.weightRows) : row < 2048 := by
  unfold MacroState.weightRows at h
  split at h
  · rcases List.mem_append.1 h with listed | spare
    · obtain ⟨e, inside, rfl⟩ := List.mem_map.1 listed
      simpa using (List.mem_filter.1 inside).2
    · obtain ⟨i, group, served⟩ := List.mem_filterMap.1 spare
      have field := fld_lt (Sparse.get m.mrepRow 0 i) 5 0
      simp only [Option.ite_none_right_eq_some, Option.some.injEq, List.mem_range] at served group
      omega
  · exact List.mem_range.1 h

/-- Terms that are 0 modulo n sum to 0 modulo n. -/
theorem sum_map_emod_eq_zero {α : Type} (n : Int) (f : α → Int) {l : List α} (h : ∀ a ∈ l, f a % n = 0) : (l.map f).sum % n = 0 :=
  Int.emod_eq_zero_of_dvd <| List.dvd_sum fun _ member => by
    obtain ⟨a, inside, rfl⟩ := List.mem_map.1 member
    exact Int.dvd_of_emod_eq_zero (h a inside)

end

/-- Settles O9: the residue is a sum of multiples of weights and check value, which is 0 modulo 256 row by row. -/
theorem soundRowsHaveNoResidue : Obligations.SoundRowsHaveNoResidue := by
  intro m g x _ group sound
  refine sum_map_emod_eq_zero 256 _ fun r contributes => ?_
  have weights := MacroState.lt_of_mem_weightRows contributes
  dsimp only
  split
  · rfl
  · rw [Int.mul_emod, MacroState.groupSum_add_check_emod weights group (sound r weights)]
    simp

end Sys2Proof.Machine

/-! PROOFS. One rule per state operation: what a core, macro, die or host port is after an operation on another component. -/

namespace Sys2Proof.Machine

@[simp] theorem State.mac_setCore (s : State) (c : Nat) (v : CoreState) (e n : Nat) : (s.setCore c v).mac e n = s.mac e n := rfl
@[simp] theorem State.die_setCore (s : State) (c : Nat) (v : CoreState) (e : Nat) : (s.setCore c v).die e = s.die e := rfl
@[simp] theorem State.host_setCore (s : State) (c : Nat) (v : CoreState) (e : Nat) : (s.setCore c v).host e = s.host e := rfl

@[simp] theorem State.mac_updCore (s : State) (c : Nat) (f : CoreState → CoreState) (e n : Nat) : (s.updCore c f).mac e n = s.mac e n := rfl
@[simp] theorem State.die_updCore (s : State) (c : Nat) (f : CoreState → CoreState) (e : Nat) : (s.updCore c f).die e = s.die e := rfl
@[simp] theorem State.host_updCore (s : State) (c : Nat) (f : CoreState → CoreState) (e : Nat) : (s.updCore c f).host e = s.host e := rfl

@[simp] theorem State.core_setMac (s : State) (c m : Nat) (v : MacroState) (e : Nat) : (s.setMac c m v).core e = s.core e := rfl
@[simp] theorem State.die_setMac (s : State) (c m : Nat) (v : MacroState) (e : Nat) : (s.setMac c m v).die e = s.die e := rfl
@[simp] theorem State.host_setMac (s : State) (c m : Nat) (v : MacroState) (e : Nat) : (s.setMac c m v).host e = s.host e := rfl

@[simp] theorem State.core_updMac (s : State) (c m : Nat) (f : MacroState → MacroState) (e : Nat) : (s.updMac c m f).core e = s.core e := rfl
@[simp] theorem State.die_updMac (s : State) (c m : Nat) (f : MacroState → MacroState) (e : Nat) : (s.updMac c m f).die e = s.die e := rfl
@[simp] theorem State.host_updMac (s : State) (c m : Nat) (f : MacroState → MacroState) (e : Nat) : (s.updMac c m f).host e = s.host e := rfl

@[simp] theorem State.core_setDie (s : State) (d : Nat) (v : DieState) (e : Nat) : (s.setDie d v).core e = s.core e := rfl
@[simp] theorem State.mac_setDie (s : State) (d : Nat) (v : DieState) (e n : Nat) : (s.setDie d v).mac e n = s.mac e n := rfl
@[simp] theorem State.host_setDie (s : State) (d : Nat) (v : DieState) (e : Nat) : (s.setDie d v).host e = s.host e := rfl

@[simp] theorem State.core_updDie (s : State) (d : Nat) (f : DieState → DieState) (e : Nat) : (s.updDie d f).core e = s.core e := rfl
@[simp] theorem State.mac_updDie (s : State) (d : Nat) (f : DieState → DieState) (e n : Nat) : (s.updDie d f).mac e n = s.mac e n := rfl
@[simp] theorem State.host_updDie (s : State) (d : Nat) (f : DieState → DieState) (e : Nat) : (s.updDie d f).host e = s.host e := rfl

@[simp] theorem State.core_setHost (s : State) (p : Nat) (v : HostPort) (e : Nat) : (s.setHost p v).core e = s.core e := rfl
@[simp] theorem State.mac_setHost (s : State) (p : Nat) (v : HostPort) (e n : Nat) : (s.setHost p v).mac e n = s.mac e n := rfl
@[simp] theorem State.die_setHost (s : State) (p : Nat) (v : HostPort) (e : Nat) : (s.setHost p v).die e = s.die e := rfl

@[simp] theorem State.core_updHost (s : State) (p : Nat) (f : HostPort → HostPort) (e : Nat) : (s.updHost p f).core e = s.core e := rfl
@[simp] theorem State.mac_updHost (s : State) (p : Nat) (f : HostPort → HostPort) (e n : Nat) : (s.updHost p f).mac e n = s.mac e n := rfl
@[simp] theorem State.die_updHost (s : State) (p : Nat) (f : HostPort → HostPort) (e : Nat) : (s.updHost p f).die e = s.die e := rfl

@[simp] theorem State.core_setHub (s : State) (h : Hub) (e : Nat) : (s.setHub h).core e = s.core e := rfl
@[simp] theorem State.mac_setHub (s : State) (h : Hub) (e n : Nat) : (s.setHub h).mac e n = s.mac e n := rfl
@[simp] theorem State.die_setHub (s : State) (h : Hub) (e : Nat) : (s.setHub h).die e = s.die e := rfl
@[simp] theorem State.host_setHub (s : State) (h : Hub) (e : Nat) : (s.setHub h).host e = s.host e := rfl

@[simp] theorem State.core_updHub (s : State) (f : Hub → Hub) (e : Nat) : (s.updHub f).core e = s.core e := rfl
@[simp] theorem State.mac_updHub (s : State) (f : Hub → Hub) (e n : Nat) : (s.updHub f).mac e n = s.mac e n := rfl
@[simp] theorem State.die_updHub (s : State) (f : Hub → Hub) (e : Nat) : (s.updHub f).die e = s.die e := rfl
@[simp] theorem State.host_updHub (s : State) (f : Hub → Hub) (e : Nat) : (s.updHub f).host e = s.host e := rfl

@[simp] theorem State.core_updPower (s : State) (f : Power → Power) (e : Nat) : (s.updPower f).core e = s.core e := rfl
@[simp] theorem State.mac_updPower (s : State) (f : Power → Power) (e n : Nat) : (s.updPower f).mac e n = s.mac e n := rfl
@[simp] theorem State.die_updPower (s : State) (f : Power → Power) (e : Nat) : (s.updPower f).die e = s.die e := rfl
@[simp] theorem State.host_updPower (s : State) (f : Power → Power) (e : Nat) : (s.updPower f).host e = s.host e := rfl

@[simp] theorem State.core_updKraox (s : State) (f : Kraox → Kraox) (e : Nat) : (s.updKraox f).core e = s.core e := rfl
@[simp] theorem State.mac_updKraox (s : State) (f : Kraox → Kraox) (e n : Nat) : (s.updKraox f).mac e n = s.mac e n := rfl
@[simp] theorem State.die_updKraox (s : State) (f : Kraox → Kraox) (e : Nat) : (s.updKraox f).die e = s.die e := rfl
@[simp] theorem State.host_updKraox (s : State) (f : Kraox → Kraox) (e : Nat) : (s.updKraox f).host e = s.host e := rfl

@[simp] theorem State.core_updExt (s : State) (f : ExtMem → ExtMem) (e : Nat) : (s.updExt f).core e = s.core e := rfl
@[simp] theorem State.mac_updExt (s : State) (f : ExtMem → ExtMem) (e n : Nat) : (s.updExt f).mac e n = s.mac e n := rfl
@[simp] theorem State.die_updExt (s : State) (f : ExtMem → ExtMem) (e : Nat) : (s.updExt f).die e = s.die e := rfl
@[simp] theorem State.host_updExt (s : State) (f : ExtMem → ExtMem) (e : Nat) : (s.updExt f).host e = s.host e := rfl

@[simp] theorem State.core_updMgmt (s : State) (f : Mgmt → Mgmt) (e : Nat) : (s.updMgmt f).core e = s.core e := rfl
@[simp] theorem State.mac_updMgmt (s : State) (f : Mgmt → Mgmt) (e n : Nat) : (s.updMgmt f).mac e n = s.mac e n := rfl
@[simp] theorem State.die_updMgmt (s : State) (f : Mgmt → Mgmt) (e : Nat) : (s.updMgmt f).die e = s.die e := rfl
@[simp] theorem State.host_updMgmt (s : State) (f : Mgmt → Mgmt) (e : Nat) : (s.updMgmt f).host e = s.host e := rfl

@[simp] theorem State.core_updMaint (s : State) (f : Maint → Maint) (e : Nat) : (s.updMaint f).core e = s.core e := rfl
@[simp] theorem State.mac_updMaint (s : State) (f : Maint → Maint) (e n : Nat) : (s.updMaint f).mac e n = s.mac e n := rfl
@[simp] theorem State.die_updMaint (s : State) (f : Maint → Maint) (e : Nat) : (s.updMaint f).die e = s.die e := rfl
@[simp] theorem State.host_updMaint (s : State) (f : Maint → Maint) (e : Nat) : (s.updMaint f).host e = s.host e := rfl

@[simp] theorem State.core_setPending (s : State) (p : List Instr) (e : Nat) : (s.setPending p).core e = s.core e := rfl
@[simp] theorem State.mac_setPending (s : State) (p : List Instr) (e n : Nat) : (s.setPending p).mac e n = s.mac e n := rfl
@[simp] theorem State.die_setPending (s : State) (p : List Instr) (e : Nat) : (s.setPending p).die e = s.die e := rfl
@[simp] theorem State.host_setPending (s : State) (p : List Instr) (e : Nat) : (s.setPending p).host e = s.host e := rfl

@[simp] theorem State.core_answer (s : State) (st : Nat) (d : List Byte) (e : Nat) : (s.answer st d).core e = s.core e := rfl
@[simp] theorem State.mac_answer (s : State) (st : Nat) (d : List Byte) (e n : Nat) : (s.answer st d).mac e n = s.mac e n := rfl
@[simp] theorem State.die_answer (s : State) (st : Nat) (d : List Byte) (e : Nat) : (s.answer st d).die e = s.die e := rfl
@[simp] theorem State.host_answer (s : State) (st : Nat) (d : List Byte) (e : Nat) : (s.answer st d).host e = s.host e := rfl

@[simp] theorem State.core_bump (s : State) (e : Nat) : s.bump.core e = s.core e := rfl
@[simp] theorem State.mac_bump (s : State) (e n : Nat) : s.bump.mac e n = s.mac e n := rfl
@[simp] theorem State.die_bump (s : State) (e : Nat) : s.bump.die e = s.die e := rfl
@[simp] theorem State.host_bump (s : State) (e : Nat) : s.bump.host e = s.host e := rfl

@[simp] theorem State.core_bumpN (s : State) (i : Nat) (e : Nat) : (s.bumpN i).core e = s.core e := rfl
@[simp] theorem State.mac_bumpN (s : State) (i : Nat) (e n : Nat) : (s.bumpN i).mac e n = s.mac e n := rfl
@[simp] theorem State.die_bumpN (s : State) (i : Nat) (e : Nat) : (s.bumpN i).die e = s.die e := rfl
@[simp] theorem State.host_bumpN (s : State) (i : Nat) (e : Nat) : (s.bumpN i).host e = s.host e := rfl

@[simp] theorem State.updCore_pending (s : State) (c : Nat) (f : CoreState → CoreState) : (s.updCore c f).pending = s.pending := rfl
@[simp] theorem State.updCore_macros (s : State) (c : Nat) (f : CoreState → CoreState) : (s.updCore c f).macros = s.macros := rfl
@[simp] theorem State.updCore_nb (s : State) (c : Nat) (f : CoreState → CoreState) : (s.updCore c f).nb = s.nb := rfl
@[simp] theorem State.updCore_hub (s : State) (c : Nat) (f : CoreState → CoreState) : (s.updCore c f).hub = s.hub := rfl
@[simp] theorem State.updCore_power (s : State) (c : Nat) (f : CoreState → CoreState) : (s.updCore c f).power = s.power := rfl
@[simp] theorem State.updCore_dies (s : State) (c : Nat) (f : CoreState → CoreState) : (s.updCore c f).dies = s.dies := rfl
@[simp] theorem State.updCore_mons (s : State) (c : Nat) (f : CoreState → CoreState) : (s.updCore c f).mons = s.mons := rfl
@[simp] theorem State.updCore_kraox (s : State) (c : Nat) (f : CoreState → CoreState) : (s.updCore c f).kraox = s.kraox := rfl
@[simp] theorem State.updCore_hosts (s : State) (c : Nat) (f : CoreState → CoreState) : (s.updCore c f).hosts = s.hosts := rfl
@[simp] theorem State.updCore_ext (s : State) (c : Nat) (f : CoreState → CoreState) : (s.updCore c f).ext = s.ext := rfl
@[simp] theorem State.updCore_mgmt (s : State) (c : Nat) (f : CoreState → CoreState) : (s.updCore c f).mgmt = s.mgmt := rfl
@[simp] theorem State.updCore_maint (s : State) (c : Nat) (f : CoreState → CoreState) : (s.updCore c f).maint = s.maint := rfl
@[simp] theorem State.updCore_tapId (s : State) (c : Nat) (f : CoreState → CoreState) : (s.updCore c f).tapId = s.tapId := rfl
@[simp] theorem State.updCore_reply (s : State) (c : Nat) (f : CoreState → CoreState) : (s.updCore c f).reply = s.reply := rfl
@[simp] theorem State.updCore_free (s : State) (c : Nat) (f : CoreState → CoreState) : (s.updCore c f).free = s.free := rfl

@[simp] theorem State.updMac_pending (s : State) (c m : Nat) (f : MacroState → MacroState) : (s.updMac c m f).pending = s.pending := rfl
@[simp] theorem State.updMac_cores (s : State) (c m : Nat) (f : MacroState → MacroState) : (s.updMac c m f).cores = s.cores := rfl
@[simp] theorem State.updMac_nb (s : State) (c m : Nat) (f : MacroState → MacroState) : (s.updMac c m f).nb = s.nb := rfl
@[simp] theorem State.updMac_hub (s : State) (c m : Nat) (f : MacroState → MacroState) : (s.updMac c m f).hub = s.hub := rfl
@[simp] theorem State.updMac_power (s : State) (c m : Nat) (f : MacroState → MacroState) : (s.updMac c m f).power = s.power := rfl
@[simp] theorem State.updMac_dies (s : State) (c m : Nat) (f : MacroState → MacroState) : (s.updMac c m f).dies = s.dies := rfl
@[simp] theorem State.updMac_mons (s : State) (c m : Nat) (f : MacroState → MacroState) : (s.updMac c m f).mons = s.mons := rfl
@[simp] theorem State.updMac_kraox (s : State) (c m : Nat) (f : MacroState → MacroState) : (s.updMac c m f).kraox = s.kraox := rfl
@[simp] theorem State.updMac_hosts (s : State) (c m : Nat) (f : MacroState → MacroState) : (s.updMac c m f).hosts = s.hosts := rfl
@[simp] theorem State.updMac_ext (s : State) (c m : Nat) (f : MacroState → MacroState) : (s.updMac c m f).ext = s.ext := rfl
@[simp] theorem State.updMac_mgmt (s : State) (c m : Nat) (f : MacroState → MacroState) : (s.updMac c m f).mgmt = s.mgmt := rfl
@[simp] theorem State.updMac_maint (s : State) (c m : Nat) (f : MacroState → MacroState) : (s.updMac c m f).maint = s.maint := rfl
@[simp] theorem State.updMac_tapId (s : State) (c m : Nat) (f : MacroState → MacroState) : (s.updMac c m f).tapId = s.tapId := rfl
@[simp] theorem State.updMac_reply (s : State) (c m : Nat) (f : MacroState → MacroState) : (s.updMac c m f).reply = s.reply := rfl
@[simp] theorem State.updMac_free (s : State) (c m : Nat) (f : MacroState → MacroState) : (s.updMac c m f).free = s.free := rfl

@[simp] theorem State.updDie_pending (s : State) (d : Nat) (f : DieState → DieState) : (s.updDie d f).pending = s.pending := rfl
@[simp] theorem State.updDie_cores (s : State) (d : Nat) (f : DieState → DieState) : (s.updDie d f).cores = s.cores := rfl
@[simp] theorem State.updDie_macros (s : State) (d : Nat) (f : DieState → DieState) : (s.updDie d f).macros = s.macros := rfl
@[simp] theorem State.updDie_nb (s : State) (d : Nat) (f : DieState → DieState) : (s.updDie d f).nb = s.nb := rfl
@[simp] theorem State.updDie_hub (s : State) (d : Nat) (f : DieState → DieState) : (s.updDie d f).hub = s.hub := rfl
@[simp] theorem State.updDie_power (s : State) (d : Nat) (f : DieState → DieState) : (s.updDie d f).power = s.power := rfl
@[simp] theorem State.updDie_mons (s : State) (d : Nat) (f : DieState → DieState) : (s.updDie d f).mons = s.mons := rfl
@[simp] theorem State.updDie_kraox (s : State) (d : Nat) (f : DieState → DieState) : (s.updDie d f).kraox = s.kraox := rfl
@[simp] theorem State.updDie_hosts (s : State) (d : Nat) (f : DieState → DieState) : (s.updDie d f).hosts = s.hosts := rfl
@[simp] theorem State.updDie_ext (s : State) (d : Nat) (f : DieState → DieState) : (s.updDie d f).ext = s.ext := rfl
@[simp] theorem State.updDie_mgmt (s : State) (d : Nat) (f : DieState → DieState) : (s.updDie d f).mgmt = s.mgmt := rfl
@[simp] theorem State.updDie_maint (s : State) (d : Nat) (f : DieState → DieState) : (s.updDie d f).maint = s.maint := rfl
@[simp] theorem State.updDie_tapId (s : State) (d : Nat) (f : DieState → DieState) : (s.updDie d f).tapId = s.tapId := rfl
@[simp] theorem State.updDie_reply (s : State) (d : Nat) (f : DieState → DieState) : (s.updDie d f).reply = s.reply := rfl
@[simp] theorem State.updDie_free (s : State) (d : Nat) (f : DieState → DieState) : (s.updDie d f).free = s.free := rfl

@[simp] theorem State.updHost_pending (s : State) (p : Nat) (f : HostPort → HostPort) : (s.updHost p f).pending = s.pending := rfl
@[simp] theorem State.updHost_cores (s : State) (p : Nat) (f : HostPort → HostPort) : (s.updHost p f).cores = s.cores := rfl
@[simp] theorem State.updHost_macros (s : State) (p : Nat) (f : HostPort → HostPort) : (s.updHost p f).macros = s.macros := rfl
@[simp] theorem State.updHost_nb (s : State) (p : Nat) (f : HostPort → HostPort) : (s.updHost p f).nb = s.nb := rfl
@[simp] theorem State.updHost_hub (s : State) (p : Nat) (f : HostPort → HostPort) : (s.updHost p f).hub = s.hub := rfl
@[simp] theorem State.updHost_power (s : State) (p : Nat) (f : HostPort → HostPort) : (s.updHost p f).power = s.power := rfl
@[simp] theorem State.updHost_dies (s : State) (p : Nat) (f : HostPort → HostPort) : (s.updHost p f).dies = s.dies := rfl
@[simp] theorem State.updHost_mons (s : State) (p : Nat) (f : HostPort → HostPort) : (s.updHost p f).mons = s.mons := rfl
@[simp] theorem State.updHost_kraox (s : State) (p : Nat) (f : HostPort → HostPort) : (s.updHost p f).kraox = s.kraox := rfl
@[simp] theorem State.updHost_ext (s : State) (p : Nat) (f : HostPort → HostPort) : (s.updHost p f).ext = s.ext := rfl
@[simp] theorem State.updHost_mgmt (s : State) (p : Nat) (f : HostPort → HostPort) : (s.updHost p f).mgmt = s.mgmt := rfl
@[simp] theorem State.updHost_maint (s : State) (p : Nat) (f : HostPort → HostPort) : (s.updHost p f).maint = s.maint := rfl
@[simp] theorem State.updHost_tapId (s : State) (p : Nat) (f : HostPort → HostPort) : (s.updHost p f).tapId = s.tapId := rfl
@[simp] theorem State.updHost_reply (s : State) (p : Nat) (f : HostPort → HostPort) : (s.updHost p f).reply = s.reply := rfl
@[simp] theorem State.updHost_free (s : State) (p : Nat) (f : HostPort → HostPort) : (s.updHost p f).free = s.free := rfl

/-! ### Records, events and traces -/

@[simp] theorem State.raiseVec_pending (s : State) (p v : Nat) :
    (s.raiseVec p v).pending = s.pending := by
  obtain ⟨_, e⟩ := s.raiseVec_frame p v
  rw [e]

@[simp] theorem State.raiseVec_cores (s : State) (p v : Nat) :
    (s.raiseVec p v).cores = s.cores := by
  obtain ⟨_, e⟩ := s.raiseVec_frame p v
  rw [e]

@[simp] theorem State.raiseVec_macros (s : State) (p v : Nat) :
    (s.raiseVec p v).macros = s.macros := by
  obtain ⟨_, e⟩ := s.raiseVec_frame p v
  rw [e]

@[simp] theorem State.raiseVec_nb (s : State) (p v : Nat) :
    (s.raiseVec p v).nb = s.nb := by
  obtain ⟨_, e⟩ := s.raiseVec_frame p v
  rw [e]

@[simp] theorem State.raiseVec_hub (s : State) (p v : Nat) :
    (s.raiseVec p v).hub = s.hub := by
  obtain ⟨_, e⟩ := s.raiseVec_frame p v
  rw [e]

@[simp] theorem State.raiseVec_power (s : State) (p v : Nat) :
    (s.raiseVec p v).power = s.power := by
  obtain ⟨_, e⟩ := s.raiseVec_frame p v
  rw [e]

@[simp] theorem State.raiseVec_dies (s : State) (p v : Nat) :
    (s.raiseVec p v).dies = s.dies := by
  obtain ⟨_, e⟩ := s.raiseVec_frame p v
  rw [e]

@[simp] theorem State.raiseVec_mons (s : State) (p v : Nat) :
    (s.raiseVec p v).mons = s.mons := by
  obtain ⟨_, e⟩ := s.raiseVec_frame p v
  rw [e]

@[simp] theorem State.raiseVec_kraox (s : State) (p v : Nat) :
    (s.raiseVec p v).kraox = s.kraox := by
  obtain ⟨_, e⟩ := s.raiseVec_frame p v
  rw [e]

@[simp] theorem State.raiseVec_ext (s : State) (p v : Nat) :
    (s.raiseVec p v).ext = s.ext := by
  obtain ⟨_, e⟩ := s.raiseVec_frame p v
  rw [e]

@[simp] theorem State.raiseVec_mgmt (s : State) (p v : Nat) :
    (s.raiseVec p v).mgmt = s.mgmt := by
  obtain ⟨_, e⟩ := s.raiseVec_frame p v
  rw [e]

@[simp] theorem State.raiseVec_maint (s : State) (p v : Nat) :
    (s.raiseVec p v).maint = s.maint := by
  obtain ⟨_, e⟩ := s.raiseVec_frame p v
  rw [e]

@[simp] theorem State.raiseVec_tapId (s : State) (p v : Nat) :
    (s.raiseVec p v).tapId = s.tapId := by
  obtain ⟨_, e⟩ := s.raiseVec_frame p v
  rw [e]

@[simp] theorem State.raiseVec_reply (s : State) (p v : Nat) :
    (s.raiseVec p v).reply = s.reply := by
  obtain ⟨_, e⟩ := s.raiseVec_frame p v
  rw [e]

@[simp] theorem State.raiseVec_free (s : State) (p v : Nat) :
    (s.raiseVec p v).free = s.free := by
  obtain ⟨_, e⟩ := s.raiseVec_frame p v
  rw [e]

@[simp] theorem State.core_raiseVec (s : State) (p v : Nat) (e : Nat) :
    (s.raiseVec p v).core e = s.core e := by
  simp only [State.core, State.raiseVec_cores]

@[simp] theorem State.mac_raiseVec (s : State) (p v : Nat) (e n : Nat) :
    (s.raiseVec p v).mac e n = s.mac e n := by
  simp only [State.mac, State.raiseVec_macros]

@[simp] theorem State.die_raiseVec (s : State) (p v : Nat) (e : Nat) :
    (s.raiseVec p v).die e = s.die e := by
  simp only [State.die, State.raiseVec_dies]

@[simp] theorem State.attend_pending (s : State) (p b : Nat) :
    (s.attend p b).pending = s.pending := by
  obtain ⟨_, e⟩ := s.attend_frame p b
  rw [e]

@[simp] theorem State.attend_cores (s : State) (p b : Nat) :
    (s.attend p b).cores = s.cores := by
  obtain ⟨_, e⟩ := s.attend_frame p b
  rw [e]

@[simp] theorem State.attend_macros (s : State) (p b : Nat) :
    (s.attend p b).macros = s.macros := by
  obtain ⟨_, e⟩ := s.attend_frame p b
  rw [e]

@[simp] theorem State.attend_nb (s : State) (p b : Nat) :
    (s.attend p b).nb = s.nb := by
  obtain ⟨_, e⟩ := s.attend_frame p b
  rw [e]

@[simp] theorem State.attend_hub (s : State) (p b : Nat) :
    (s.attend p b).hub = s.hub := by
  obtain ⟨_, e⟩ := s.attend_frame p b
  rw [e]

@[simp] theorem State.attend_power (s : State) (p b : Nat) :
    (s.attend p b).power = s.power := by
  obtain ⟨_, e⟩ := s.attend_frame p b
  rw [e]

@[simp] theorem State.attend_dies (s : State) (p b : Nat) :
    (s.attend p b).dies = s.dies := by
  obtain ⟨_, e⟩ := s.attend_frame p b
  rw [e]

@[simp] theorem State.attend_mons (s : State) (p b : Nat) :
    (s.attend p b).mons = s.mons := by
  obtain ⟨_, e⟩ := s.attend_frame p b
  rw [e]

@[simp] theorem State.attend_kraox (s : State) (p b : Nat) :
    (s.attend p b).kraox = s.kraox := by
  obtain ⟨_, e⟩ := s.attend_frame p b
  rw [e]

@[simp] theorem State.attend_ext (s : State) (p b : Nat) :
    (s.attend p b).ext = s.ext := by
  obtain ⟨_, e⟩ := s.attend_frame p b
  rw [e]

@[simp] theorem State.attend_mgmt (s : State) (p b : Nat) :
    (s.attend p b).mgmt = s.mgmt := by
  obtain ⟨_, e⟩ := s.attend_frame p b
  rw [e]

@[simp] theorem State.attend_maint (s : State) (p b : Nat) :
    (s.attend p b).maint = s.maint := by
  obtain ⟨_, e⟩ := s.attend_frame p b
  rw [e]

@[simp] theorem State.attend_tapId (s : State) (p b : Nat) :
    (s.attend p b).tapId = s.tapId := by
  obtain ⟨_, e⟩ := s.attend_frame p b
  rw [e]

@[simp] theorem State.attend_reply (s : State) (p b : Nat) :
    (s.attend p b).reply = s.reply := by
  obtain ⟨_, e⟩ := s.attend_frame p b
  rw [e]

@[simp] theorem State.attend_free (s : State) (p b : Nat) :
    (s.attend p b).free = s.free := by
  obtain ⟨_, e⟩ := s.attend_frame p b
  rw [e]

@[simp] theorem State.core_attend (s : State) (p b : Nat) (e : Nat) :
    (s.attend p b).core e = s.core e := by
  simp only [State.core, State.attend_cores]

@[simp] theorem State.mac_attend (s : State) (p b : Nat) (e n : Nat) :
    (s.attend p b).mac e n = s.mac e n := by
  simp only [State.mac, State.attend_macros]

@[simp] theorem State.die_attend (s : State) (p b : Nat) (e : Nat) :
    (s.attend p b).die e = s.die e := by
  simp only [State.die, State.attend_dies]

@[simp] theorem State.event_pending (s : State) (code : Byte) (idx sub : Nat) (seq : W32) :
    (s.event code idx sub seq).pending = s.pending := by
  obtain ⟨_, _, e⟩ := s.event_frame code idx sub seq
  rw [e]

@[simp] theorem State.event_cores (s : State) (code : Byte) (idx sub : Nat) (seq : W32) :
    (s.event code idx sub seq).cores = s.cores := by
  obtain ⟨_, _, e⟩ := s.event_frame code idx sub seq
  rw [e]

@[simp] theorem State.event_macros (s : State) (code : Byte) (idx sub : Nat) (seq : W32) :
    (s.event code idx sub seq).macros = s.macros := by
  obtain ⟨_, _, e⟩ := s.event_frame code idx sub seq
  rw [e]

@[simp] theorem State.event_nb (s : State) (code : Byte) (idx sub : Nat) (seq : W32) :
    (s.event code idx sub seq).nb = s.nb := by
  obtain ⟨_, _, e⟩ := s.event_frame code idx sub seq
  rw [e]

@[simp] theorem State.event_hub (s : State) (code : Byte) (idx sub : Nat) (seq : W32) :
    (s.event code idx sub seq).hub = s.hub := by
  obtain ⟨_, _, e⟩ := s.event_frame code idx sub seq
  rw [e]

@[simp] theorem State.event_power (s : State) (code : Byte) (idx sub : Nat) (seq : W32) :
    (s.event code idx sub seq).power = s.power := by
  obtain ⟨_, _, e⟩ := s.event_frame code idx sub seq
  rw [e]

@[simp] theorem State.event_dies (s : State) (code : Byte) (idx sub : Nat) (seq : W32) :
    (s.event code idx sub seq).dies = s.dies := by
  obtain ⟨_, _, e⟩ := s.event_frame code idx sub seq
  rw [e]

@[simp] theorem State.event_mons (s : State) (code : Byte) (idx sub : Nat) (seq : W32) :
    (s.event code idx sub seq).mons = s.mons := by
  obtain ⟨_, _, e⟩ := s.event_frame code idx sub seq
  rw [e]

@[simp] theorem State.event_kraox (s : State) (code : Byte) (idx sub : Nat) (seq : W32) :
    (s.event code idx sub seq).kraox = s.kraox := by
  obtain ⟨_, _, e⟩ := s.event_frame code idx sub seq
  rw [e]

@[simp] theorem State.event_hosts (s : State) (code : Byte) (idx sub : Nat) (seq : W32) :
    (s.event code idx sub seq).hosts = s.hosts := by
  obtain ⟨_, _, e⟩ := s.event_frame code idx sub seq
  rw [e]

@[simp] theorem State.event_ext (s : State) (code : Byte) (idx sub : Nat) (seq : W32) :
    (s.event code idx sub seq).ext = s.ext := by
  obtain ⟨_, _, e⟩ := s.event_frame code idx sub seq
  rw [e]

@[simp] theorem State.event_maint (s : State) (code : Byte) (idx sub : Nat) (seq : W32) :
    (s.event code idx sub seq).maint = s.maint := by
  obtain ⟨_, _, e⟩ := s.event_frame code idx sub seq
  rw [e]

@[simp] theorem State.event_tapId (s : State) (code : Byte) (idx sub : Nat) (seq : W32) :
    (s.event code idx sub seq).tapId = s.tapId := by
  obtain ⟨_, _, e⟩ := s.event_frame code idx sub seq
  rw [e]

@[simp] theorem State.event_reply (s : State) (code : Byte) (idx sub : Nat) (seq : W32) :
    (s.event code idx sub seq).reply = s.reply := by
  obtain ⟨_, _, e⟩ := s.event_frame code idx sub seq
  rw [e]

@[simp] theorem State.core_event (s : State) (code : Byte) (idx sub : Nat) (seq : W32) (e : Nat) :
    (s.event code idx sub seq).core e = s.core e := by
  simp only [State.core, State.event_cores]

@[simp] theorem State.mac_event (s : State) (code : Byte) (idx sub : Nat) (seq : W32) (e n : Nat) :
    (s.event code idx sub seq).mac e n = s.mac e n := by
  simp only [State.mac, State.event_macros]

@[simp] theorem State.die_event (s : State) (code : Byte) (idx sub : Nat) (seq : W32) (e : Nat) :
    (s.event code idx sub seq).die e = s.die e := by
  simp only [State.die, State.event_dies]

@[simp] theorem State.host_event (s : State) (code : Byte) (idx sub : Nat) (seq : W32) (e : Nat) :
    (s.event code idx sub seq).host e = s.host e := by
  simp only [State.host, State.event_hosts]

@[simp] theorem State.journal_pending (s : State) (code : Byte) (part sk si : Nat) (tag : BitVec 16) (st addr : W32) (d : W64) :
    (s.journal code part sk si tag st addr d).pending = s.pending := by
  obtain ⟨_, _, _, _, _, _, _, _, _, _, e, -⟩ := s.journal_frame code part sk si tag st addr d
  rw [e]

@[simp] theorem State.journal_cores (s : State) (code : Byte) (part sk si : Nat) (tag : BitVec 16) (st addr : W32) (d : W64) :
    (s.journal code part sk si tag st addr d).cores = s.cores := by
  obtain ⟨_, _, _, _, _, _, _, _, _, _, e, -⟩ := s.journal_frame code part sk si tag st addr d
  rw [e]

@[simp] theorem State.journal_macros (s : State) (code : Byte) (part sk si : Nat) (tag : BitVec 16) (st addr : W32) (d : W64) :
    (s.journal code part sk si tag st addr d).macros = s.macros := by
  obtain ⟨_, _, _, _, _, _, _, _, _, _, e, -⟩ := s.journal_frame code part sk si tag st addr d
  rw [e]

@[simp] theorem State.journal_nb (s : State) (code : Byte) (part sk si : Nat) (tag : BitVec 16) (st addr : W32) (d : W64) :
    (s.journal code part sk si tag st addr d).nb = s.nb := by
  obtain ⟨_, _, _, _, _, _, _, _, _, _, e, -⟩ := s.journal_frame code part sk si tag st addr d
  rw [e]

@[simp] theorem State.journal_power (s : State) (code : Byte) (part sk si : Nat) (tag : BitVec 16) (st addr : W32) (d : W64) :
    (s.journal code part sk si tag st addr d).power = s.power := by
  obtain ⟨_, _, _, _, _, _, _, _, _, _, e, -⟩ := s.journal_frame code part sk si tag st addr d
  rw [e]

@[simp] theorem State.journal_dies (s : State) (code : Byte) (part sk si : Nat) (tag : BitVec 16) (st addr : W32) (d : W64) :
    (s.journal code part sk si tag st addr d).dies = s.dies := by
  obtain ⟨_, _, _, _, _, _, _, _, _, _, e, -⟩ := s.journal_frame code part sk si tag st addr d
  rw [e]

@[simp] theorem State.journal_mons (s : State) (code : Byte) (part sk si : Nat) (tag : BitVec 16) (st addr : W32) (d : W64) :
    (s.journal code part sk si tag st addr d).mons = s.mons := by
  obtain ⟨_, _, _, _, _, _, _, _, _, _, e, -⟩ := s.journal_frame code part sk si tag st addr d
  rw [e]

@[simp] theorem State.journal_kraox (s : State) (code : Byte) (part sk si : Nat) (tag : BitVec 16) (st addr : W32) (d : W64) :
    (s.journal code part sk si tag st addr d).kraox = s.kraox := by
  obtain ⟨_, _, _, _, _, _, _, _, _, _, e, -⟩ := s.journal_frame code part sk si tag st addr d
  rw [e]

@[simp] theorem State.journal_ext (s : State) (code : Byte) (part sk si : Nat) (tag : BitVec 16) (st addr : W32) (d : W64) :
    (s.journal code part sk si tag st addr d).ext = s.ext := by
  obtain ⟨_, _, _, _, _, _, _, _, _, _, e, -⟩ := s.journal_frame code part sk si tag st addr d
  rw [e]

@[simp] theorem State.journal_maint (s : State) (code : Byte) (part sk si : Nat) (tag : BitVec 16) (st addr : W32) (d : W64) :
    (s.journal code part sk si tag st addr d).maint = s.maint := by
  obtain ⟨_, _, _, _, _, _, _, _, _, _, e, -⟩ := s.journal_frame code part sk si tag st addr d
  rw [e]

@[simp] theorem State.journal_tapId (s : State) (code : Byte) (part sk si : Nat) (tag : BitVec 16) (st addr : W32) (d : W64) :
    (s.journal code part sk si tag st addr d).tapId = s.tapId := by
  obtain ⟨_, _, _, _, _, _, _, _, _, _, e, -⟩ := s.journal_frame code part sk si tag st addr d
  rw [e]

@[simp] theorem State.journal_reply (s : State) (code : Byte) (part sk si : Nat) (tag : BitVec 16) (st addr : W32) (d : W64) :
    (s.journal code part sk si tag st addr d).reply = s.reply := by
  obtain ⟨_, _, _, _, _, _, _, _, _, _, e, -⟩ := s.journal_frame code part sk si tag st addr d
  rw [e]

@[simp] theorem State.core_journal (s : State) (code : Byte) (part sk si : Nat) (tag : BitVec 16) (st addr : W32) (d : W64) (e : Nat) :
    (s.journal code part sk si tag st addr d).core e = s.core e := by
  simp only [State.core, State.journal_cores]

@[simp] theorem State.mac_journal (s : State) (code : Byte) (part sk si : Nat) (tag : BitVec 16) (st addr : W32) (d : W64) (e n : Nat) :
    (s.journal code part sk si tag st addr d).mac e n = s.mac e n := by
  simp only [State.mac, State.journal_macros]

@[simp] theorem State.die_journal (s : State) (code : Byte) (part sk si : Nat) (tag : BitVec 16) (st addr : W32) (d : W64) (e : Nat) :
    (s.journal code part sk si tag st addr d).die e = s.die e := by
  simp only [State.die, State.journal_dies]

@[simp] theorem State.traceEv_pending (s : State) (c en : Nat) (tag : BitVec 16) (slot event : Nat) (data : W32) :
    (s.traceEv c en tag slot event data).pending = s.pending := by
  obtain ⟨_, _, _, _, e⟩ := s.traceEv_frame c en tag slot event data
  rw [e]

@[simp] theorem State.traceEv_cores (s : State) (c en : Nat) (tag : BitVec 16) (slot event : Nat) (data : W32) :
    (s.traceEv c en tag slot event data).cores = s.cores := by
  obtain ⟨_, _, _, _, e⟩ := s.traceEv_frame c en tag slot event data
  rw [e]

@[simp] theorem State.traceEv_macros (s : State) (c en : Nat) (tag : BitVec 16) (slot event : Nat) (data : W32) :
    (s.traceEv c en tag slot event data).macros = s.macros := by
  obtain ⟨_, _, _, _, e⟩ := s.traceEv_frame c en tag slot event data
  rw [e]

@[simp] theorem State.traceEv_nb (s : State) (c en : Nat) (tag : BitVec 16) (slot event : Nat) (data : W32) :
    (s.traceEv c en tag slot event data).nb = s.nb := by
  obtain ⟨_, _, _, _, e⟩ := s.traceEv_frame c en tag slot event data
  rw [e]

@[simp] theorem State.traceEv_power (s : State) (c en : Nat) (tag : BitVec 16) (slot event : Nat) (data : W32) :
    (s.traceEv c en tag slot event data).power = s.power := by
  obtain ⟨_, _, _, _, e⟩ := s.traceEv_frame c en tag slot event data
  rw [e]

@[simp] theorem State.traceEv_dies (s : State) (c en : Nat) (tag : BitVec 16) (slot event : Nat) (data : W32) :
    (s.traceEv c en tag slot event data).dies = s.dies := by
  obtain ⟨_, _, _, _, e⟩ := s.traceEv_frame c en tag slot event data
  rw [e]

@[simp] theorem State.traceEv_mons (s : State) (c en : Nat) (tag : BitVec 16) (slot event : Nat) (data : W32) :
    (s.traceEv c en tag slot event data).mons = s.mons := by
  obtain ⟨_, _, _, _, e⟩ := s.traceEv_frame c en tag slot event data
  rw [e]

@[simp] theorem State.traceEv_kraox (s : State) (c en : Nat) (tag : BitVec 16) (slot event : Nat) (data : W32) :
    (s.traceEv c en tag slot event data).kraox = s.kraox := by
  obtain ⟨_, _, _, _, e⟩ := s.traceEv_frame c en tag slot event data
  rw [e]

@[simp] theorem State.traceEv_ext (s : State) (c en : Nat) (tag : BitVec 16) (slot event : Nat) (data : W32) :
    (s.traceEv c en tag slot event data).ext = s.ext := by
  obtain ⟨_, _, _, _, e⟩ := s.traceEv_frame c en tag slot event data
  rw [e]

@[simp] theorem State.traceEv_maint (s : State) (c en : Nat) (tag : BitVec 16) (slot event : Nat) (data : W32) :
    (s.traceEv c en tag slot event data).maint = s.maint := by
  obtain ⟨_, _, _, _, e⟩ := s.traceEv_frame c en tag slot event data
  rw [e]

@[simp] theorem State.traceEv_tapId (s : State) (c en : Nat) (tag : BitVec 16) (slot event : Nat) (data : W32) :
    (s.traceEv c en tag slot event data).tapId = s.tapId := by
  obtain ⟨_, _, _, _, e⟩ := s.traceEv_frame c en tag slot event data
  rw [e]

@[simp] theorem State.traceEv_reply (s : State) (c en : Nat) (tag : BitVec 16) (slot event : Nat) (data : W32) :
    (s.traceEv c en tag slot event data).reply = s.reply := by
  obtain ⟨_, _, _, _, e⟩ := s.traceEv_frame c en tag slot event data
  rw [e]

@[simp] theorem State.core_traceEv (s : State) (c en : Nat) (tag : BitVec 16) (slot event : Nat) (data : W32) (e : Nat) :
    (s.traceEv c en tag slot event data).core e = s.core e := by
  simp only [State.core, State.traceEv_cores]

@[simp] theorem State.mac_traceEv (s : State) (c en : Nat) (tag : BitVec 16) (slot event : Nat) (data : W32) (e n : Nat) :
    (s.traceEv c en tag slot event data).mac e n = s.mac e n := by
  simp only [State.mac, State.traceEv_macros]

@[simp] theorem State.die_traceEv (s : State) (c en : Nat) (tag : BitVec 16) (slot event : Nat) (data : W32) (e : Nat) :
    (s.traceEv c en tag slot event data).die e = s.die e := by
  simp only [State.die, State.traceEv_dies]

@[simp] theorem State.journalDev_pending (s : State) (code : Byte) (sk si : Nat) (d : W64) : (s.journalDev code sk si d).pending = s.pending := by
  simp [State.journalDev]

@[simp] theorem State.journalDev_cores (s : State) (code : Byte) (sk si : Nat) (d : W64) : (s.journalDev code sk si d).cores = s.cores := by
  simp [State.journalDev]

@[simp] theorem State.journalDev_macros (s : State) (code : Byte) (sk si : Nat) (d : W64) : (s.journalDev code sk si d).macros = s.macros := by
  simp [State.journalDev]

@[simp] theorem State.journalDev_nb (s : State) (code : Byte) (sk si : Nat) (d : W64) : (s.journalDev code sk si d).nb = s.nb := by
  simp [State.journalDev]

@[simp] theorem State.journalDev_power (s : State) (code : Byte) (sk si : Nat) (d : W64) : (s.journalDev code sk si d).power = s.power := by
  simp [State.journalDev]

@[simp] theorem State.journalDev_dies (s : State) (code : Byte) (sk si : Nat) (d : W64) : (s.journalDev code sk si d).dies = s.dies := by
  simp [State.journalDev]

@[simp] theorem State.journalDev_mons (s : State) (code : Byte) (sk si : Nat) (d : W64) : (s.journalDev code sk si d).mons = s.mons := by
  simp [State.journalDev]

@[simp] theorem State.journalDev_kraox (s : State) (code : Byte) (sk si : Nat) (d : W64) : (s.journalDev code sk si d).kraox = s.kraox := by
  simp [State.journalDev]

@[simp] theorem State.journalDev_ext (s : State) (code : Byte) (sk si : Nat) (d : W64) : (s.journalDev code sk si d).ext = s.ext := by
  simp [State.journalDev]

@[simp] theorem State.journalDev_maint (s : State) (code : Byte) (sk si : Nat) (d : W64) : (s.journalDev code sk si d).maint = s.maint := by
  simp [State.journalDev]

@[simp] theorem State.journalDev_tapId (s : State) (code : Byte) (sk si : Nat) (d : W64) : (s.journalDev code sk si d).tapId = s.tapId := by
  simp [State.journalDev]

@[simp] theorem State.journalDev_reply (s : State) (code : Byte) (sk si : Nat) (d : W64) : (s.journalDev code sk si d).reply = s.reply := by
  simp [State.journalDev]

@[simp] theorem State.core_journalDev (s : State) (code : Byte) (sk si : Nat) (d : W64) (e : Nat) : (s.journalDev code sk si d).core e = s.core e := by
  simp [State.journalDev]

@[simp] theorem State.mac_journalDev (s : State) (code : Byte) (sk si : Nat) (d : W64) (e n : Nat) : (s.journalDev code sk si d).mac e n = s.mac e n := by
  simp [State.journalDev]

@[simp] theorem State.die_journalDev (s : State) (code : Byte) (sk si : Nat) (d : W64) (e : Nat) : (s.journalDev code sk si d).die e = s.die e := by
  simp [State.journalDev]

@[simp] theorem State.journalBare_pending (s : State) (code : Byte) (sk si : Nat) : (s.journalBare code sk si).pending = s.pending := by
  simp [State.journalBare]

@[simp] theorem State.journalBare_cores (s : State) (code : Byte) (sk si : Nat) : (s.journalBare code sk si).cores = s.cores := by
  simp [State.journalBare]

@[simp] theorem State.journalBare_macros (s : State) (code : Byte) (sk si : Nat) : (s.journalBare code sk si).macros = s.macros := by
  simp [State.journalBare]

@[simp] theorem State.journalBare_nb (s : State) (code : Byte) (sk si : Nat) : (s.journalBare code sk si).nb = s.nb := by
  simp [State.journalBare]

@[simp] theorem State.journalBare_power (s : State) (code : Byte) (sk si : Nat) : (s.journalBare code sk si).power = s.power := by
  simp [State.journalBare]

@[simp] theorem State.journalBare_dies (s : State) (code : Byte) (sk si : Nat) : (s.journalBare code sk si).dies = s.dies := by
  simp [State.journalBare]

@[simp] theorem State.journalBare_mons (s : State) (code : Byte) (sk si : Nat) : (s.journalBare code sk si).mons = s.mons := by
  simp [State.journalBare]

@[simp] theorem State.journalBare_kraox (s : State) (code : Byte) (sk si : Nat) : (s.journalBare code sk si).kraox = s.kraox := by
  simp [State.journalBare]

@[simp] theorem State.journalBare_ext (s : State) (code : Byte) (sk si : Nat) : (s.journalBare code sk si).ext = s.ext := by
  simp [State.journalBare]

@[simp] theorem State.journalBare_maint (s : State) (code : Byte) (sk si : Nat) : (s.journalBare code sk si).maint = s.maint := by
  simp [State.journalBare]

@[simp] theorem State.journalBare_tapId (s : State) (code : Byte) (sk si : Nat) : (s.journalBare code sk si).tapId = s.tapId := by
  simp [State.journalBare]

@[simp] theorem State.journalBare_reply (s : State) (code : Byte) (sk si : Nat) : (s.journalBare code sk si).reply = s.reply := by
  simp [State.journalBare]

@[simp] theorem State.core_journalBare (s : State) (code : Byte) (sk si : Nat) (e : Nat) : (s.journalBare code sk si).core e = s.core e := by
  simp [State.journalBare]

@[simp] theorem State.mac_journalBare (s : State) (code : Byte) (sk si : Nat) (e n : Nat) : (s.journalBare code sk si).mac e n = s.mac e n := by
  simp [State.journalBare]

@[simp] theorem State.die_journalBare (s : State) (code : Byte) (sk si : Nat) (e : Nat) : (s.journalBare code sk si).die e = s.die e := by
  simp [State.journalBare]

/-- The hub after a record: the journal, its counts, what the island and the host still have to take. -/
theorem State.hub_journal (s : State) (code : Byte) (part sk si : Nat) (tag : BitVec 16) (st addr : W32) (d : W64) :
    (s.journal code part sk si tag st addr d).hub =
      let r : JournalRec := { time := s.now, seq := s.hub.seq + 1, code := code, cls := clsOf code.toNat, persisted := false, part := part,
                              srcKind := sk, srcId := si, tag := tag, stepno := st, addr := addr, detail := d }
      { s.hub with
        journal := (if s.hub.journal.length ≥ 8192 then s.hub.journal.drop 1 else s.hub.journal) ++ [r], seq := s.hub.seq + 1,
        overwritten := s.hub.overwritten + (if s.hub.journal.length ≥ 8192 then 1 else 0),
        islandQ := if 4 ≤ clsOf code.toNat then s.hub.islandQ ++ [r] else s.hub.islandQ,
        unacked := s.hub.unacked + (if 4 ≤ clsOf code.toNat then 1 else 0),
        arrayChecks := s.hub.arrayChecks + (if code = fArrayCheck then 1 else 0),
        arrayInfs := s.hub.arrayInfs + (if code = eArrayInf then 1 else 0) } := by
  unfold State.journal
  dsimp only
  split
  · obtain ⟨hs, h⟩ := State.attendAll_frame part 0 (List.range 2) _
    rw [h]
    obtain ⟨m, n, e⟩ := State.event_frame _ code 0xB000 2 (s.hub.seq + 1)
    rw [e]
    rfl
  · rfl

end Sys2Proof.Machine

/-! PROOFS. The control core's scalar slot (R108, R111, R112, Tables 5.5 to 5.7) and the queue rule. -/

namespace Sys2Proof.Machine

section

variable {s : State} {c : CoreId} {k : CoreState} {o : ScalarOp} {tag : BitVec 16} {n : Nat} {v : W64}

/-! ### A core that issues -/

theorem CoreState.mayIssue_iff : k.mayIssue = true ↔
    k.st = .run ∧ k.doneReq = none ∧ k.stopReq = false ∧ k.replayDue = false ∧ k.faultQ.length < 16 := by
  simp [CoreState.mayIssue, and_assoc]

/-- A core that waits for no drain has nothing to settle. -/
theorem State.settle_of_no_drain {c : Nat} (done : (s.core c).doneReq = none) (stop : (s.core c).stopReq = false) : s.settle c = s := by
  simp only [State.settle]
  split <;> simp [done, stop]

theorem State.keepTrc_of_same {c : Nat} (h : k.trccfg = (s.core c).trccfg) : s.keepTrc c k = k := by
  unfold State.keepTrc
  split
  · rfl
  · rw [← h]

/-- A scalar instruction that asks for no drain, leaves TRCCFG and draws nothing is its effect on the core. -/
theorem State.scalar_of_issuing {c : Nat} (issuing : s.issuing c)
    (run : (s.core c).runScalar c o tag (BitVec.ofNat 32 (s.core c).pc) s.free = k) (trace : k.trccfg = (s.core c).trccfg)
    (done : k.doneReq = (s.core c).doneReq) (stop : k.stopReq = (s.core c).stopReq) (draws : drawsFree o = false) :
    s.scalar c o tag = s.setCore c k := by
  obtain ⟨-, noDone, noStop, -⟩ := CoreState.mayIssue_iff.1 issuing
  have may : (s.core c).mayIssue = true := issuing
  simp only [State.scalar, if_pos may, run, State.keepTrc_of_same trace, draws, Bool.false_eq_true, ↓reduceIte]
  exact State.settle_of_no_drain (by simp [done, noDone]) (by simp [stop, noStop])

/-! ### Effects on the core -/

theorem CoreState.putX_frame (k : CoreState) (n : Nat) (v : W64) : ∃ x, k.putX n v = { k with x := x } := by
  unfold CoreState.putX
  split
  · exact ⟨k.x, rfl⟩
  · exact ⟨_, rfl⟩

/-- A scalar instruction that writes one register. -/
theorem State.scalar_putX {c : Nat} (issuing : s.issuing c)
    (run : (s.core c).runScalar c o tag (BitVec.ofNat 32 (s.core c).pc) s.free = (s.core c).putX n v) (draws : drawsFree o = false) :
    s.scalar c o tag = s.setCore c ((s.core c).putX n v) := by
  obtain ⟨x, written⟩ := (s.core c).putX_frame n v
  exact State.scalar_of_issuing issuing run (by rw [written]) (by rw [written]) (by rw [written]) draws

theorem drawsFree_of_ne (h : o.opc ≠ 0x30) : drawsFree o = false := by simp [drawsFree, h]

/-- A three-register operation (Table 5.6). -/
theorem State.scalar_alu (issuing : s.issuing c) (opc : Nat) (xd xa xb : BitVec 5) (pos : 0 < opc) (alu : opc ≤ 0x0B) :
    s.scalar c (r3 opc xd xa xb) tag =
      s.setCore c ((s.core c).putX xd.toNat (aluResult opc ((s.core c).getX xa.toNat) ((s.core c).getX xb.toNat))) := by
  refine State.scalar_putX issuing ?_ (drawsFree_of_ne (by simp [r3]; omega))
  simp [CoreState.runScalar, r3, alu, Nat.ne_of_gt pos]

theorem slt_eq_decide (a b : W64) : a.slt b = decide (a.toInt < b.toInt) := rfl

theorem fld_setWidth_low (t : BitVec 16) : fld (t.setWidth 32) 15 0 = t.toNat := by
  simp [fld, bits]; omega

theorem fld_setWidth_high (t : BitVec 16) : fld (t.setWidth 32) 31 16 = 0 := by
  simp [fld, bits]; omega

/-- A branch within the bank, taken or not (R111). -/
theorem CoreState.branch_target (k : CoreState) (opc : Nat) (xa xb : BitVec 5) (t : BitVec 16) (tag : BitVec 16) (addr : W32) :
    k.branch (brOp opc xa xb t) tag addr = { k with pc := t.toNat } := by
  simp [CoreState.branch, brOp, fld_setWidth_low, fld_setWidth_high]

theorem State.scalar_branch (issuing : s.issuing c) (opc : Nat) (xa xb : BitVec 5) (t : BitVec 16) (low : 0x20 ≤ opc) (high : opc ≤ 0x24) :
    s.scalar c (brOp opc xa xb t) tag = s.setCore c
      (if branchTaken opc ((s.core c).getX xa.toNat) ((s.core c).getX xb.toNat) then { s.core c with pc := t.toNat } else s.core c) := by
  refine State.scalar_of_issuing issuing ?run ?_ ?_ ?_ (drawsFree_of_ne (by simp [brOp]; omega))
  case run =>
    have opcode : (brOp opc xa xb t).opc = opc := rfl
    simp only [CoreState.runScalar, opcode, CoreState.branch_target]
    rw [if_neg (by omega), if_neg (by omega), if_neg (by omega), if_neg (by omega), if_neg (by omega), if_pos high]
    rfl
  all_goals split <;> rfl

/-- LOOP: XA loses 1, and while that is not 0 the branch is taken. -/
theorem State.scalar_loop (issuing : s.issuing c) (xa : BitVec 5) (t : BitVec 16) :
    s.scalar c { brOp 0x25 xa 0 t with xd := xa.toNat } tag = s.setCore c
      (if (s.core c).getX xa.toNat - 1 = 0 then (s.core c).putX xa.toNat ((s.core c).getX xa.toNat - 1)
       else { (s.core c).putX xa.toNat ((s.core c).getX xa.toNat - 1) with pc := t.toNat }) := by
  obtain ⟨x, written⟩ := (s.core c).putX_frame xa.toNat ((s.core c).getX xa.toNat - 1)
  refine State.scalar_of_issuing issuing ?run ?_ ?_ ?_ (drawsFree_of_ne (by simp [brOp]))
  case run =>
    simp only [CoreState.runScalar, brOp, CoreState.branch, fld_setWidth_low, fld_setWidth_high]
    by_cases zero : (s.core c).getX xa.toNat - 1 = 0 <;> simp
  all_goals split <;> rw [written]

/-- LIH's value: the immediate above the register's lower half. -/
theorem lih_eq_append (imm : W32) (v : W64) : BitVec.ofNat 64 (imm.toNat * 2 ^ 32 + fld v 31 0) = imm ++ v.setWidth 32 := by
  apply BitVec.eq_of_toNat_eq
  have low := Nat.mod_lt v.toNat (y := 2 ^ 32) (by decide)
  rw [BitVec.toNat_append, ← Nat.shiftLeft_add_eq_or_of_lt (by simpa using low)]
  simp [fld, bits, Nat.shiftLeft_eq]
  omega

/-! ### CSRs, flags, TRAP and DONE -/

theorem fld_setWidth_csr (n : BitVec 12) : fld (n.setWidth 32) 11 0 = n.toNat := by
  simp [fld, bits]; omega

theorem State.scalar_csrr (issuing : s.issuing c) (xd : BitVec 5) (n : BitVec 12) (cycle : n ≠ 4) (time : n ≠ 5) :
    s.scalar c { r3 0x30 xd 0 0 with imm := n.setWidth 32 } tag =
      s.setCore c ((s.core c).putX xd.toNat ((s.core c).csr c n.toNat s.free)) := by
  have cycle' : n.toNat ≠ 4 := fun e => cycle (BitVec.eq_of_toNat_eq e)
  have time' : n.toNat ≠ 5 := fun e => time (BitVec.eq_of_toNat_eq e)
  refine State.scalar_putX issuing ?_ ?_
  · simp [CoreState.runScalar, r3, fld_setWidth_csr]
  · simp only [drawsFree, r3, fld_setWidth_csr]
    simp [cycle', time']

theorem State.scalar_csrw (issuing : s.issuing c) (xa : BitVec 5) (n : BitVec 12) (k : CoreState)
    (write : (s.core c).csrWrite n.toNat ((s.core c).getX xa.toNat) = k) (trace : k.trccfg = (s.core c).trccfg)
    (done : k.doneReq = (s.core c).doneReq) (stop : k.stopReq = (s.core c).stopReq) :
    s.scalar c { r3 0x31 0 xa 0 with imm := n.setWidth 32 } tag = s.setCore c k := by
  refine State.scalar_of_issuing issuing ?_ trace done stop (drawsFree_of_ne (by simp [r3]))
  simp [CoreState.runScalar, r3, fld_setWidth_csr, write]

theorem fld_setWidth_flag (f : BitVec 6) : fld (f.setWidth 32) 5 0 = f.toNat := by
  simp [fld, bits]; omega

/-- A core fault in RUN (Table 5.20). -/
theorem CoreState.coreFault_of_run (running : k.st = .run) (code : Byte) (tag : BitVec 16) (addr : W32) (d : W64) :
    k.coreFault code tag addr d = { k with
      st := .faulted, hint := none,
      faultQ := k.faultQ ++ [{ code := code, tag := tag, addr := addr, stepno := k.stepno, detail := d, again := false }] } := by
  simp [CoreState.coreFault, running, CoreState.pushFault]

theorem State.scalar_trap (issuing : s.issuing c) (detail : BitVec 16) :
    s.scalar c { r3 0x3D 0 0 0 with imm := detail.setWidth 32 } tag = s.setCore c { s.core c with
      st := .faulted, hint := none,
      faultQ := (s.core c).faultQ ++ [{ code := fProgramTrap, tag := tag, addr := BitVec.ofNat 32 (s.core c).pc,
                                        stepno := (s.core c).stepno, detail := detail.setWidth 64, again := false }] } := by
  obtain ⟨running, -⟩ := CoreState.mayIssue_iff.1 issuing
  have low : BitVec.ofNat 64 (fld (detail.setWidth 32) 15 0) = detail.setWidth 64 := by
    rw [fld_setWidth_low]
    exact BitVec.eq_of_toNat_eq (by simp)
  refine State.scalar_of_issuing issuing ?_ rfl rfl rfl (drawsFree_of_ne (by simp [r3]))
  simp [CoreState.runScalar, r3, low, CoreState.coreFault_of_run running]

/-- DONE as the core issues it, before the drain is looked at. -/
theorem State.scalar_done (issuing : s.issuing c) (xa : BitVec 5) :
    s.scalar c (r3 0x3E 0 xa 0) tag =
      (s.setCore c { s.core c with doneReq := some (tag, ((s.core c).getX xa.toNat).setWidth 16) }).settle c := by
  have may : (s.core c).mayIssue = true := issuing
  have draws : drawsFree (r3 0x3E 0 xa 0) = false := drawsFree_of_ne (by simp [r3])
  simp only [State.scalar, if_pos may, draws, Bool.false_eq_true, ↓reduceIte]
  rw [State.keepTrc_of_same] <;> rfl

/-- DONE on a core with nothing in flight (R129). -/
theorem State.settle_of_drained {t : State} {c : CoreId} {tag code : BitVec 16} (queue : (t.core c).queue = []) (sigs : (t.core c).sigs = [])
    (done : (t.core c).doneReq = some (tag, code)) (running : (t.core c).st = .run) (noReplay : (t.core c).replayDue = false) :
    t.settle c = (t.setCore c { t.core c with st := .idle, doneReq := none, stopReq := false }).updHub fun h => h.coreReports c tag code := by
  simp [State.settle, queue, sigs, done, running, noReplay]

/-- What still runs or has a SIG to raise keeps the core from draining. -/
theorem State.settle_of_busy {t : State} {c : Nat} (busy : (t.core c).queue ≠ [] ∨ (t.core c).sigs ≠ []) : t.settle c = t := by
  have open' : ¬((t.core c).queue = [] ∧ (t.core c).sigs = []) := by rintro ⟨queue, sigs⟩; simp [queue, sigs] at busy
  simp only [State.settle, if_neg open']

end

/-- Settles O1: the step's two cases. -/
theorem stepRunsFrontCommand : Obligations.StepRunsFrontCommand :=
  ⟨step_front, fun s idle => by simp [step, idle]⟩

/-- Settles O11: each operation is the ALU's result of its opcode. -/
theorem scalarArithmetic : Obligations.ScalarArithmetic := by
  intro s c xd xa xb issuing
  have alu (opc : Nat) (pos : 0 < opc) (high : opc ≤ 0x0B) := congrArg (Host.Outcome.next (φ := Fault) (ρ := Refusal))
    (State.scalar_alu (tag := 0) issuing opc xd xa xb pos high)
  refine ⟨alu 1 ?_ ?_, alu 2 ?_ ?_, alu 3 ?_ ?_, alu 4 ?_ ?_, alu 5 ?_ ?_, alu 6 ?_ ?_, alu 7 ?_ ?_, alu 8 ?_ ?_,
    (alu 9 ?_ ?_).trans ?mul, (alu 10 ?_ ?_).trans ?min, (alu 11 ?_ ?_).trans ?max⟩
  case mul => simp [aluResult, BitVec.ofNat_mul]
  case min => simp [aluResult, slt_eq_decide]
  case max => simp [aluResult, slt_eq_decide]
  all_goals decide

/-- Settles O12: each row is one write of a register, or a branch within the bank. -/
theorem scalarImmediatesAndBranches : Obligations.ScalarImmediatesAndBranches := by
  intro s c xd xa xb imm target issuing
  have next {t u : State} (h : t = u) : (Host.Outcome.next t : Out) = .next u := congrArg _ h
  have branch (opc : Nat) (xa xb : BitVec 5) (low : 0x20 ≤ opc) (high : opc ≤ 0x24) :=
    next (State.scalar_branch (tag := 0) issuing opc xa xb target low high)
  refine ⟨next ?nop, next ?addi, next ?li, next ?lih, (branch 0x20 xa xb ?_ ?_).trans ?beq, (branch 0x21 xa xb ?_ ?_).trans ?bne,
    (branch 0x22 xa xb ?_ ?_).trans ?blt, (branch 0x23 xa xb ?_ ?_).trans ?bge, branch 0x24 0 0 ?_ ?_,
    next (State.scalar_loop issuing xa target)⟩
  case nop => exact State.scalar_of_issuing issuing rfl rfl rfl rfl rfl
  case addi => exact State.scalar_putX issuing rfl rfl
  case li => exact State.scalar_putX issuing rfl rfl
  case lih => rw [← lih_eq_append]; exact State.scalar_putX issuing rfl rfl
  case beq => rfl
  case bne => simp [branchTaken, bne]
  case blt => rfl
  case bge => simp [branchTaken, slt_eq_decide]
  all_goals decide

/-- Settles O14: the CSR map at the numbers named, and DONE with and without commands in flight. -/
theorem controlRegistersAndFlags : Obligations.ControlRegistersAndFlags := by
  intro s c xd xa f i issuing k go
  have next {t u : State} (h : t = u) : (Host.Outcome.next t : Out) = .next u := congrArg _ h
  have read (n : BitVec 12) (v : W64) (cycle : n ≠ 4) (time : n ≠ 5) (value : k.csr c n.toNat s.free = v) :
      exec (.csrr c xd n) s = go (k.putX xd.toNat v) :=
    value ▸ next (State.scalar_csrr issuing xd n cycle time)
  have write (n : BitVec 12) (k' : CoreState) (value : k.csrWrite n.toNat (k.getX xa.toNat) = k') (trace : k'.trccfg = k.trccfg)
      (done : k'.doneReq = k.doneReq) (stop : k'.stopReq = k.stopReq) : exec (.csrw c n xa) s = go k' :=
    next (State.scalar_csrw issuing xa n k' value trace done stop)
  obtain ⟨running, -, noStop, noReplay, -⟩ := CoreState.mayIssue_iff.1 issuing
  have index (n : Nat) (small : n < 4096) : (BitVec.ofNat 12 n).toNat = n := by simpa using small
  refine ⟨read _ _ ?_ ?_ rfl, read _ _ ?_ ?_ rfl, read _ _ ?_ ?_ rfl, read _ _ ?acNotCycle ?acNotTime ?ac, read _ _ ?_ ?_ rfl,
    write _ _ rfl rfl rfl rfl, write _ _ rfl rfl rfl rfl, write _ _ ?acexp rfl rfl rfl, write _ _ rfl rfl rfl rfl,
    write _ _ rfl rfl rfl rfl, next ?fset, next ?fclr, fun tag detail => next (State.scalar_trap issuing detail), ?drained, ?busy⟩
  case acNotCycle => intro e; have := congrArg BitVec.toNat e; rw [index _ (by omega)] at this; simp at this; omega
  case acNotTime => intro e; have := congrArg BitVec.toNat e; rw [index _ (by omega)] at this; simp at this; omega
  case ac =>
    rw [index _ (by omega), CoreState.csr, if_neg (by omega), if_neg (by omega), if_neg (by omega), if_neg (by omega), if_neg (by omega),
      if_neg (by omega), if_pos (by omega), Nat.add_sub_cancel_left]
  case acexp =>
    rw [index _ (by omega), CoreState.csrWrite, if_neg (by omega), if_neg (by omega), if_pos (by omega), Nat.add_sub_cancel_left]
  case fset =>
    refine State.scalar_of_issuing issuing ?_ rfl rfl rfl rfl
    simp [CoreState.runScalar, r3, fld_setWidth_flag, CoreState.setFlag, k]
  case fclr =>
    refine State.scalar_of_issuing issuing ?_ rfl rfl rfl rfl
    simp [CoreState.runScalar, r3, fld_setWidth_flag, CoreState.clrFlag, k]
  case drained =>
    intro tag queue sigs
    refine ⟨_, next ((State.scalar_done issuing xa).trans
      (State.settle_of_drained (tag := tag) (code := (k.getX xa.toNat).setWidth 16) ?_ ?_ ?_ ?_ ?_)), ?_, ?_⟩
    all_goals simp [k, queue, sigs, running, noReplay]
  case busy =>
    intro tag busy
    refine next ((State.scalar_done issuing xa).trans (State.settle_of_busy ?_))
    simpa using busy
  all_goals decide

end Sys2Proof.Machine

/-! PROOFS. Rows of an array macro: what a row written through the repair registers reads back as (R21, R23, R25, R29). -/

namespace Sys2Proof.Machine

/-! ### Numbers made of fields -/

section

variable {p n i g w v lo hi : Nat} {f : Nat → Nat}

theorem bit_eq_testBit (v n : Nat) : bit v n = v.testBit n := by simp [bit, Nat.testBit_eq_decide_div_mod_eq]

theorem bitOf_eq_getLsbD (x : BitVec w) (n : Nat) : bitOf x n = x.getLsbD n := bit_eq_testBit _ _

theorem sum_fields_succ : ((List.range (n + 1)).map fun g => f g * 2 ^ (p * g)).sum =
    2 ^ (p * n) * f n + ((List.range n).map fun g => f g * 2 ^ (p * g)).sum := by
  simp [List.range_succ, Nat.add_comm, Nat.mul_comm]

/-- n fields of p bits make a number of p·n bits. -/
theorem sum_fields_lt (small : ∀ g, f g < 2 ^ p) : ((List.range n).map fun g => f g * 2 ^ (p * g)).sum < 2 ^ (p * n) := by
  induction n with
  | zero => simp
  | succ n ih =>
    have top : 2 ^ (p * n) * f n + 2 ^ (p * n) ≤ 2 ^ (p * n) * 2 ^ p := by
      rw [← Nat.mul_succ]; exact Nat.mul_le_mul_left _ (small n)
    rw [sum_fields_succ, Nat.mul_succ, Nat.pow_add]
    omega

theorem testBit_sum_fields (small : ∀ g, f g < 2 ^ p) (inside : i < p * n) :
    ((List.range n).map fun g => f g * 2 ^ (p * g)).sum.testBit i = (f (i / p)).testBit (i % p) := by
  induction n with
  | zero => simp at inside
  | succ n ih =>
    rw [sum_fields_succ, Nat.testBit_two_pow_mul_add _ (sum_fields_lt small)]
    split
    · next below => exact ih below
    · next above =>
      have pos : 0 < p := by rcases Nat.eq_zero_or_pos p with rfl | h; · simp at inside
                             · exact h
      have quotient : i / p = n := Nat.div_eq_of_lt_le (by rw [Nat.mul_comm]; omega) (by rw [Nat.mul_comm]; exact inside)
      have remainder : i % p = i - p * n := by rw [Nat.mod_def, quotient]
      rw [quotient, remainder]

theorem testBit_bits : (bits v hi lo).testBit i = (decide (i < hi + 1 - lo) && v.testBit (lo + i)) := by
  rw [bits, Nat.testBit_mod_two_pow, Nat.testBit_div_two_pow, Nat.add_comm i lo]

theorem bits_lt : bits v hi lo < 2 ^ (hi + 1 - lo) := Nat.mod_lt _ (by positivity)

/-- Field g of a number made of fields. -/
theorem bits_sum_fields (small : ∀ g, f g < 2 ^ p) (pos : 0 < p) (inside : g < n) :
    bits ((List.range n).map fun g => f g * 2 ^ (p * g)).sum (p * g + p - 1) (p * g) = f g := by
  have width : p * g + p - 1 + 1 - p * g = p := by omega
  have last : p * g + p ≤ p * n := by rw [← Nat.mul_succ]; exact Nat.mul_le_mul_left p inside
  refine Nat.eq_of_testBit_eq fun i => ?_
  rw [testBit_bits, width]
  rcases Nat.lt_or_ge i p with h | h
  · rw [testBit_sum_fields small (by omega)]
    simp [h, Nat.mul_add_div pos, Nat.div_eq_of_lt h, Nat.mod_eq_of_lt h]
  · rw [Nat.testBit_lt_two_pow (Nat.lt_of_lt_of_le (small g) (Nat.pow_le_pow_right (by decide) h))]
    simp [Nat.not_lt.2 h]

/-- A masked write: the new bits in the segments the mask selects, the old ones elsewhere. -/
theorem testBit_mergeSegs {mask : BitVec 16} {old new : Nat} (pos : 0 < p) (inside : i < p * 16) :
    (mergeSegs p mask old new).testBit i = if mask.getLsbD (i / p) then new.testBit i else old.testBit i := by
  have width (g : Nat) : p * g + p - 1 + 1 - p * g = p := by omega
  have place : p * (i / p) + i % p = i := Nat.div_add_mod i p
  rw [mergeSegs, testBit_sum_fields (fun g => Nat.lt_of_lt_of_eq bits_lt (by rw [width])) inside, testBit_bits, width, place,
    bitOf_eq_getLsbD]
  simp only [Nat.mod_lt i pos, decide_true, Bool.true_and]
  split <;> rfl

theorem mergeSegs_full {old new : Nat} (pos : 0 < p) (total : w = p * 16) (small : new < 2 ^ w) : mergeSegs p 0xFFFF#16 old new = new := by
  subst total
  have width (g : Nat) : p * g + p - 1 + 1 - p * g = p := by omega
  refine Nat.eq_of_testBit_eq fun i => ?_
  rcases Nat.lt_or_ge i (p * 16) with inside | outside
  · have group : i / p < 16 := Nat.div_lt_of_lt_mul inside
    have selected : (0xFFFF#16 : BitVec 16).getLsbD (i / p) = true := by
      generalize i / p = q at group
      revert q; decide
    rw [testBit_mergeSegs pos inside, selected, if_pos rfl]
  · have large := Nat.pow_le_pow_right (n := 2) (by decide) outside
    rw [Nat.testBit_lt_two_pow (Nat.lt_of_lt_of_le small large)]
    exact Nat.testBit_lt_two_pow
      (Nat.lt_of_lt_of_le (sum_fields_lt fun g => Nat.lt_of_lt_of_eq bits_lt (by rw [width])) large)

theorem mergeSegs_full_toNat {old : Nat} (x : BitVec w) (pos : 0 < p) (total : w = p * 16) :
    mergeSegs p 0xFFFF#16 old x.toNat = x.toNat := mergeSegs_full pos total x.isLt

end

/-! ### Check bytes -/

section

variable {k : MacroState} {row data g : Nat}

theorem crc8Bit_lt (crc : Nat) (b : Bool) : crc8Bit crc b < 256 := by
  have shifted : crc * 2 % 256 < 2 ^ 8 := Nat.mod_lt _ (by decide)
  unfold crc8Bit
  dsimp only
  split
  · exact Nat.xor_lt_two_pow shifted (by decide)
  · exact shifted

theorem crc8Byte_lt (crc byte : Nat) : crc8Byte crc byte < 256 := crc8Bit_lt _ _

theorem metaCrc_lt (data c : Nat) : metaCrc data c < 256 :=
  List.foldlRecOn (motive := (· < 256)) _ _ (by decide) fun crc _ _ _ => crc8Byte_lt crc _

theorem MacroState.checkByte_lt (k : MacroState) (row data g : Nat) : k.checkByte row data g < 256 := by
  unfold MacroState.checkByte
  split
  · exact metaCrc_lt _ _
  · unfold MacroState.checkOf
    omega

theorem MacroState.checkWord_lt (k : MacroState) (row data : Nat) : k.checkWord row data < 2 ^ 128 :=
  sum_fields_lt (p := 8) (n := 16) fun g => k.checkByte_lt row data g

/-- Byte g of the check word is the check byte of group g. -/
theorem MacroState.fld_checkWord (group : g < 16) :
    fld (BitVec.ofNat 128 (k.checkWord row data)) (8 * g + 7) (8 * g) = k.checkByte row data g := by
  rw [fld, BitVec.toNat_ofNat, Nat.mod_eq_of_lt (k.checkWord_lt row data)]
  exact bits_sum_fields (p := 8) (fun g => k.checkByte_lt row data g) (by decide) group

end

/-! ### Columns -/

section

variable {w : Nat} {x y : Row} {j l : Nat} {b : Bool} {routes : List (Nat × Nat)}

theorem getLsbD_setBit (v : BitVec w) {n i : Nat} (inside : n < w) : (setBit v n b).getLsbD i = if i = n then b else v.getLsbD i := by
  have power : BitVec.ofNat w (2 ^ n) = BitVec.twoPow w n := BitVec.eq_of_toNat_eq (by simp only [BitVec.toNat_twoPow, BitVec.toNat_ofNat])
  unfold setBit
  rw [power]
  rcases eq_or_ne i n with rfl | other
  · cases b <;> simp [inside]
  · cases b <;> simp [other, Ne.symm other]
    intro h; exact BitVec.lt_of_getLsbD h

theorem Row.col_setCol (inside : j < 4224) : (x.setCol j b).col l = if l = j then b else x.col l := by
  unfold Row.setCol Row.col
  by_cases low : j < 4096 <;> by_cases here : l < 4096 <;> simp only [low, here, if_true, if_false]
  · exact getLsbD_setBit _ low
  · rw [if_neg (by omega)]
  · rw [if_neg (by omega)]
  · rw [getLsbD_setBit _ (by omega)]
    exact if_congr (by omega) rfl rfl

theorem Row.ext_col (same : ∀ j, x.col j = y.col j) : x = y := by
  obtain ⟨d, c⟩ := x
  obtain ⟨d', c'⟩ := y
  have data : d = d' := BitVec.eq_of_getLsbD_eq fun i inside => by simpa [Row.col, inside] using same i
  have check : c = c' := BitVec.eq_of_getLsbD_eq fun i _ => by simpa [Row.col] using same (4096 + i)
  rw [data, check]

/-- Columns set one after the other, outside the ones set. -/
theorem Row.col_foldl_setCol_ne {value : Nat × Nat → Bool} (columns : ∀ e ∈ routes, e.1 < 4224) (other : ∀ e ∈ routes, e.1 ≠ j) :
    (routes.foldl (fun y e => y.setCol e.1 (value e)) x).col j = x.col j := by
  induction routes generalizing x with
  | nil => rfl
  | cons e routes ih =>
    rw [List.foldl_cons, ih (fun e' h => columns e' (List.mem_cons_of_mem _ h)) (fun e' h => other e' (List.mem_cons_of_mem _ h)),
      Row.col_setCol (columns e List.mem_cons_self), if_neg (other e List.mem_cons_self).symm]

/-- Columns set to what a row holds, on a row that agrees with it elsewhere, give that row. -/
theorem Row.foldl_setCol_eq {value : Nat × Nat → Bool} (columns : ∀ e ∈ routes, e.1 < 4224) (values : ∀ e ∈ routes, value e = y.col e.1)
    (others : ∀ j, (∀ e ∈ routes, e.1 ≠ j) → x.col j = y.col j) : routes.foldl (fun z e => z.setCol e.1 (value e)) x = y := by
  induction routes generalizing x with
  | nil => exact Row.ext_col fun j => others j (by simp)
  | cons e routes ih =>
    refine ih (fun e' h => columns e' (List.mem_cons_of_mem _ h)) (fun e' h => values e' (List.mem_cons_of_mem _ h)) fun j free => ?_
    rw [Row.col_setCol (columns e List.mem_cons_self)]
    split
    · next here => rw [here, values e List.mem_cons_self]
    · next away => exact others j (by simpa [Ne.symm away] using free)

/-- Spare bits set one after the other, each once. -/
theorem getLsbD_foldl_setBit {value : Nat × Nat → Bool} {v : BitVec w} (spares : ∀ e ∈ routes, e.2 < w)
    (distinct : routes.Pairwise fun a b => a.2 ≠ b.2) : ∀ e ∈ routes, (routes.foldl (fun v e => setBit v e.2 (value e)) v).getLsbD e.2 = value e := by
  have kept {routes : List (Nat × Nat)} (spares : ∀ e ∈ routes, e.2 < w) (i : Nat) (other : ∀ e ∈ routes, i ≠ e.2) (v : BitVec w) :
      (routes.foldl (fun v e => setBit v e.2 (value e)) v).getLsbD i = v.getLsbD i := by
    induction routes generalizing v with
    | nil => rfl
    | cons e routes ih =>
      rw [List.foldl_cons, ih (fun e' h => spares e' (List.mem_cons_of_mem _ h)) (fun e' h => other e' (List.mem_cons_of_mem _ h)),
        getLsbD_setBit _ (spares e List.mem_cons_self), if_neg (other e List.mem_cons_self)]
  induction routes generalizing v with
  | nil => simp
  | cons e routes ih =>
    obtain ⟨first, rest⟩ := List.pairwise_cons.1 distinct
    have spares' : ∀ e' ∈ routes, e'.2 < w := fun e' h => spares e' (List.mem_cons_of_mem _ h)
    intro e' member
    rcases List.mem_cons.1 member with rfl | later
    · rw [List.foldl_cons, kept spares' _ first, getLsbD_setBit _ (spares e' List.mem_cons_self), if_pos rfl]
    · exact ih spares' rest e' later

end

/-! ### Rows through the repair registers -/

section

variable {k : MacroState} {r q row : Nat} {x : Row}

theorem MacroState.colRoutes_column {e : Nat × Nat} (member : e ∈ k.colRoutes) : e.1 < 4224 ∧ e.2 < 64 := by
  obtain ⟨i, inside, route⟩ := List.mem_filterMap.1 member
  dsimp only at route
  split at route
  · next enabled =>
    obtain ⟨-, position⟩ := enabled
    obtain rfl := Option.some.inj route
    have := List.mem_range.1 inside
    refine ⟨?_, this⟩
    dsimp only [columnOf]
    split <;> omega
  · cases route

theorem MacroState.colRoutes_distinct : k.colRoutes.Pairwise fun a b => a.2 ≠ b.2 := by
  refine List.pairwise_filterMap.2 (List.nodup_range.imp fun {i j} differ a first b second => ?_)
  dsimp only at first second
  split at first <;> cases first
  split at second <;> cases second
  exact differ

theorem MacroState.physRow_inj (inside : r < 0x810) (inside' : q < 0x810) (same : k.physRow r = k.physRow q) : r = q := by
  unfold MacroState.physRow at same
  dsimp only at same
  rcases eq_or_ne (r / 64) (q / 64) with group | group
  · rw [group] at same
    split at same <;> split at same <;> split at same <;> split at same <;> omega
  · split at same <;> split at same <;> split at same <;> split at same <;> omega

theorem MacroState.cells_insert_self (k : MacroState) (p : Nat) (x : Cells) :
    MacroState.cells { k with rows := Sparse.insert k.rows p x } p = x := by
  simp [MacroState.cells, Sparse.find?_insert_self]

theorem MacroState.cells_insert_ne (k : MacroState) {p q : Nat} (x : Cells) (other : q ≠ p) :
    MacroState.cells { k with rows := Sparse.insert k.rows p x } q = k.cells q := by
  simp only [MacroState.cells, Sparse.find?_insert_ne _ _ other]

theorem MacroState.putRow_frame (k : MacroState) (r : Nat) (x : Row) : ∃ rows, k.putRow r x = { k with rows := rows } := ⟨_, rfl⟩

/-- A row reads back as it was written, whatever spare row and columns serve it. -/
theorem MacroState.row_putRow_self (k : MacroState) (r : Nat) (x : Row) : (k.putRow r x).row r = x := by
  have cells : (k.putRow r x).cells (k.physRow r) = _ := MacroState.cells_insert_self _ _ _
  have phys : (k.putRow r x).physRow r = k.physRow r := rfl
  have same : (k.putRow r x).colRoutes = k.colRoutes := rfl
  rw [MacroState.row, phys, cells, same]
  dsimp only
  split
  · next weights =>
    refine Row.foldl_setCol_eq (fun e h => (MacroState.colRoutes_column h).1) (fun e h => ?_) fun j free => ?_
    · exact getLsbD_foldl_setBit (fun e h => (MacroState.colRoutes_column h).2) MacroState.colRoutes_distinct e h
    · exact Row.col_foldl_setCol_ne (fun e h => (MacroState.colRoutes_column h).1) free
  · rfl

theorem MacroState.row_putRow_ne (k : MacroState) (x : Row) (inside : r < 0x810) (inside' : q < 0x810) (other : q ≠ r) :
    (k.putRow r x).row q = k.row q := by
  have phys : (k.putRow r x).physRow q = k.physRow q := rfl
  have same : (k.putRow r x).colRoutes = k.colRoutes := rfl
  have cells : (k.putRow r x).cells (k.physRow q) = k.cells (k.physRow q) :=
    MacroState.cells_insert_ne _ _ fun h => other (MacroState.physRow_inj inside' inside h)
  rw [MacroState.row, phys, cells, same]
  rfl

end

end Sys2Proof.Machine

/-! PROOFS. Array macros: row operations, configuration and states, recheck and repair (R23 to R30, Table 1.14). -/

namespace Sys2Proof.Machine

/-! ### Row writes (R26) -/

section

variable {k : MacroState} {by_ : Writer} {row r : Nat} {mask : BitVec 16} {data : BitVec 4096} {check : W128} {x : Row} {i : Nat}

/-- What a row write stores. -/
def MacroState.stored (k : MacroState) (by_ : Writer) (row : Nat) (mask : BitVec 16) (data : BitVec 4096) (check : W128) : Row :=
  let d := mergeSegs 256 mask (k.row row).data.toNat data.toNat
  let c := if k.rawWrite then (if by_ = .arbiter then check.toNat else 0) else k.checkWord row d
  { data := BitVec.ofNat 4096 d, check := BitVec.ofNat 128 (mergeSegs 8 mask (k.row row).check.toNat c) }

theorem MacroState.store_eq : k.store by_ row mask data check =
    { k.putRow row (k.stored by_ row mask data check) with rowsWritten := k.rowsWritten || decide (k.st = .loading) } := by
  unfold MacroState.store
  dsimp only
  split
  · next loading => simp [loading, MacroState.stored]
  · next other => simp [other, MacroState.stored]; rfl

theorem MacroState.row_store_self : (k.store by_ row mask data check).row row = k.stored by_ row mask data check := by
  rw [MacroState.store_eq]
  exact MacroState.row_putRow_self _ _ _

theorem MacroState.row_store_ne (inside : row < 0x810) (inside' : r < 0x810) (other : r ≠ row) :
    (k.store by_ row mask data check).row r = k.row r := by
  rw [MacroState.store_eq]
  exact MacroState.row_putRow_ne _ _ inside inside' other

theorem MacroState.data_stored (inside : i < 4096) : (k.stored by_ row mask data check).data.getLsbD i =
    if mask.getLsbD (i / 256) then data.getLsbD i else (k.row row).data.getLsbD i := by
  rw [MacroState.stored, BitVec.getLsbD_ofNat, testBit_mergeSegs (by decide) inside]
  simp [inside, BitVec.getLsbD]

/-- A row written whole holds the data written. -/
theorem MacroState.data_row_store : ((k.store by_ row 0xFFFF#16 data check).row row).data = data := by
  rw [MacroState.row_store_self, MacroState.stored]
  dsimp only
  rw [mergeSegs_full_toNat data (by decide) rfl, BitVec.ofNat_toNat, BitVec.setWidth_eq]

/-- Check bytes that are the check word leave no failing group (R23). -/
theorem MacroState.failing_eq_nil (agrees : (k.row row).check = BitVec.ofNat 128 (k.checkWord row (k.row row).data.toNat)) :
    k.failing row = [] := by
  refine List.filter_eq_nil_iff.2 fun g group => ?_
  rw [agrees, MacroState.fld_checkWord (List.mem_range.1 group)]
  simp

theorem MacroState.failing_store (checked : k.rawWrite = false) : (k.store by_ row 0xFFFF#16 data check).failing row = [] := by
  have word (d : Nat) : (k.store by_ row 0xFFFF#16 data check).checkWord row d = k.checkWord row d := by rw [MacroState.store_eq]; rfl
  refine MacroState.failing_eq_nil ?_
  rw [MacroState.data_row_store, word, MacroState.row_store_self, MacroState.stored]
  simp only [checked, Bool.false_eq_true, if_false]
  rw [mergeSegs_full_toNat data (by decide) rfl, mergeSegs_full (w := 128) (by decide) rfl (k.checkWord_lt _ _)]

end

/-- Settles O3: the row written reads back as the merged row, whose check word is computed over the same data. -/
theorem rowWriteStoresAndChecks : Obligations.RowWriteStoresAndChecks := by
  intro k by_ row mask data check inside
  refine ⟨fun i bound => ?_, fun r inside' other => MacroState.row_store_ne inside inside' other, fun checked whole => ?_⟩
  · rw [MacroState.row_store_self, MacroState.data_stored bound]
  · rw [whole]; exact MacroState.failing_store checked

/-! ### Arrival and order (R26, Table 1.14) -/

section

variable {s : State} {c m row : Nat} {k : MacroState} {op : HeldOp} {what : RepairKind}

theorem MacroState.rowFault_eq_zero (inside : row < 0x810) (open' : k.st = .loading ∨ k.st = .armed) : k.rowFault row = 0 := by
  rw [MacroState.rowFault, if_neg (by omega)]
  rcases open' with h | h <;> simp only [h]

theorem MacroState.rowFault_of_outside (outside : 0x810 ≤ row) : k.rowFault row = fMacroAddr := if_pos outside

theorem MacroState.rowFault_of_closed (inside : row < 0x810) (closed : k.st = .offline ∨ k.st = .retired) : k.rowFault row = fMacroState := by
  rw [MacroState.rowFault, if_neg (by omega)]
  rcases closed with h | h <;> simp only [h]

/-- Nothing repairs the macro and nothing waits there. -/
theorem MacroState.mustHold_of_free (repair : k.repairBusy = false) (held : k.held = []) (pass : k.passActive = false) : k.mustHold op = false := by
  simp [MacroState.mustHold, repair, held, pass]

theorem MacroState.mustHold_read_of_free {a : BitVec 12} (repair : k.repairBusy = false) (held : k.held = []) :
    k.mustHold (.read a) = false := by
  simp [MacroState.mustHold, repair, held]

theorem MacroState.mustHold_of_repair_or_held (busy : k.repairBusy = true ∨ k.held ≠ []) : k.mustHold op = true := by
  rcases busy with h | h <;> simp [MacroState.mustHold, h]

theorem State.arriveRow_of_open (h : (s.mac c m).mustHold op = false) : s.arriveRow c m op = s.rowOp c m op := by
  simp [State.arriveRow, h]

theorem State.arriveRow_of_held (h : (s.mac c m).mustHold op = true) :
    s.arriveRow c m op = s.setMac c m { s.mac c m with held := (s.mac c m).held ++ [op] } := by
  rw [State.arriveRow, if_pos h]; rfl

theorem State.rowOp_write {by_ : Writer} {a : BitVec 12} {mask : BitVec 16} {data : BitVec 4096} {check : W128}
    (h : (s.mac c m).rowFault a.toNat = 0) :
    s.rowOp c m (.write by_ a mask data check) = (s.setMac c m ((s.mac c m).store by_ a.toNat mask data check)).answer 0 [] := if_pos h

theorem State.rowOp_write_fault {by_ : Writer} {a : BitVec 12} {mask : BitVec 16} {data : BitVec 4096} {check : W128} {f : Byte}
    (h : (s.mac c m).rowFault a.toNat = f) (fault : f ≠ 0) : s.rowOp c m (.write by_ a mask data check) = s.answer f.toNat [] := by
  subst h; exact if_neg fault

theorem State.rowOp_read_fault {a : BitVec 12} {f : Byte} (h : (s.mac c m).rowFault a.toNat = f) (fault : f ≠ 0) :
    s.rowOp c m (.read a) = s.answer f.toNat [] := by
  subst h; exact if_neg fault

/-- A read of a row: its record, and a failing row handed to the hub (R30). -/
theorem State.rowOp_read {a : BitVec 12} (h : (s.mac c m).rowFault a.toNat = 0) :
    s.rowOp c m (.read a) =
      let s1 := (s.setMac c m ((s.mac c m).noteRead a.toNat)).answer 0 ((s.mac c m).readRecord a.toNat)
      if (s.mac c m).failing a.toNat = [] then s1 else s1.readFailed c m a.toNat := if_pos h

theorem MacroState.noteRead_of_sound (h : k.failing row = []) : k.noteRead row = k := by
  simp [MacroState.noteRead, h]

/-- Noting a failing row changes status registers only. -/
theorem MacroState.noteRead_frame (k : MacroState) (row : Nat) :
    ∃ lr lg me rc rm, k.noteRead row = { k with lastRow := lr, lastGroup := lg, metaErr := me, rowCheckErr := rc, rowMismatch := rm } := by
  unfold MacroState.noteRead
  split
  · exact ⟨_, _, _, _, _, rfl⟩
  · dsimp only
    split
    · exact ⟨_, _, _, _, _, rfl⟩
    · exact ⟨_, _, _, _, _, rfl⟩

@[simp] theorem State.fieldRepair_reply : (s.fieldRepair c m what).reply = s.reply := by
  unfold State.fieldRepair
  dsimp only
  split
  · split
    · rfl
    · simp [State.retireRecord, State.wantSwap]
  · rfl

@[simp] theorem State.readFailed_reply : (s.readFailed c m row).reply = s.reply := by
  unfold State.readFailed
  dsimp only
  split
  · exact State.fieldRepair_reply
  · split
    · rfl
    · split
      · rfl
      · split <;> rfl

/-- The first failing read of a row is answered from the weight shadow (R30). -/
theorem State.readFailed_of_first {d : BitVec 4096} (first : (s.mac c m).failedRows = []) (shadow : s.shadowRow c m row = some d)
    (free : ∀ op, (s.mac c m).mustHold op = false) (fault : (s.mac c m).rowFault row = 0) :
    (s.readFailed c m row).mac c m =
      MacroState.store { s.mac c m with failedRows := [(row, s.rowDiffs c m row)] } .repair row 0xFFFF d 0 := by
  have none : (s.mac c m).repairFor row (s.rowDiffs c m row) = none := by simp [MacroState.repairFor, first]
  have shadow' (f : MacroState → MacroState) : (s.updMac c m f).shadowRow c m row = some d := shadow
  simp only [State.readFailed, none, shadow', free, fault, Bool.false_eq_true, if_false, if_true, State.mac_updMac_self, first,
    List.nil_append]

end

/-- A device that lists macro 0 of core 0 at its reset value, which a write of that value takes off the list again. -/
def listedMacro : State := { State.reset with macros := [(0, MacroState.reset 0)] }

/-- Refutes O2: a read of a sound row writes the macro back as it was, and in a state that lists a macro at its reset value the list
is shorter afterwards, so that the state is not the one before with an answer. -/
theorem not_macroRowOperations : ¬ Obligations.MacroRowOperations := by
  intro holds
  obtain ⟨-, reads, -⟩ := holds listedMacro 0 0 .program 0 0 0 0
  obtain ⟨t, run, -, unchanged, -⟩ := reads (by decide +kernel)
  have sound : (listedMacro.mac 0 0).failing 0 = [] := by decide +kernel
  have kept : t.macros = listedMacro.macros := by
    have same := unchanged sound
    rw [same, State.answer_macros]
  have written : (listedMacro.arriveRow (0 : CoreId) (0 : MacId) (.read 0)).macros = [] := by decide +kernel
  rw [Host.Outcome.next.inj run, kept] at written
  exact absurd written (by decide +kernel)

end Sys2Proof.Machine

/-! PROOFS. The configuration block of a macro and its states (R24, R26, R27, Table 1.14). -/

namespace Sys2Proof.Machine

section

variable {s : State} {c m : Nat} {by_ : Writer} {f : MacroState → MacroState} {k k' : MacroState} {draw : Nat} {target : MacroSt}

theorem State.cfgWrite_of_program : s.cfgWrite c m .program f =
    (s.updCore c fun k => k.pushFault fSpPerm (BitVec.ofNat 16 (Config.freeNat s.free)) (Config.freeW32 s.free) (Config.freeW64 s.free)).bump.answer
      fSpPerm.toNat [] := if_pos rfl

/-- A configuration write by a writer that is no core program. -/
theorem State.cfgWrite_of_writer (writer : by_ ≠ .program) (written : f (s.mac c m) = k') :
    s.cfgWrite c m by_ f = (s.setMac c m k').bump.answer 0 [] := by
  rw [State.cfgWrite, if_neg writer, State.updMac, written]

theorem MacroState.cfgOpen_iff : k.cfgOpen = true ↔ k.st = .offline ∨ k.st = .loading := by
  unfold MacroState.cfgOpen
  split <;> simp_all

theorem MacroState.cfgOpen_eq_false (closed : k.st = .armed ∨ k.st = .retired) : k.cfgOpen = false := by
  rcases closed with h | h <;> simp [MacroState.cfgOpen, h]

theorem MacroState.noteCfg_eq : k.noteCfg = { k with checkStale := k.checkStale || k.rowsWritten } := by
  unfold MacroState.noteCfg
  split
  · next written => rw [written, Bool.or_true]
  · next none =>
    have same : (k.checkStale || k.rowsWritten) = k.checkStale := by rw [Bool.eq_false_iff.2 none, Bool.or_false]
    rw [same]

/-- A write of STATE with nothing before it at the macro, and no pass that it would take the macro from. -/
theorem MacroState.writeState_of_free (held : k.held = []) (pass : k.passActive = true → k.st = .armed → target = .armed) :
    k.writeState by_ draw target = k.stepState by_ draw target := by
  refine if_neg ?_
  rintro (h | ⟨active, armed, leaves⟩)
  · exact h held
  · exact leaves (pass active armed)

theorem MacroState.writeState_of_busy (busy : k.held ≠ [] ∨ (k.passActive = true ∧ k.st = .armed ∧ target ≠ .armed)) :
    k.writeState by_ draw target = { k with held := k.held ++ [.state by_ target] } := if_pos busy

theorem MacroState.arm_of_dense (h : k.sparse = false) : k.arm = { k with st := .armed } := by simp [MacroState.arm, h]

/-- Arming a sparse macro: the metadata decide, and may leave the first failing row noted (R20, R27 step 2). -/
theorem MacroState.arm_of_sparse (h : k.sparse = true) : ∃ row group,
    k.arm = if k.metaErrors.1 then { k with lastRow := row, lastGroup := group, metaErr := true, cfgLockedErr := true }
            else { k with lastRow := row, lastGroup := group, st := .armed } := by
  rcases e : k.metaErrors.2 with _ | ⟨r, g⟩
  · exact ⟨k.lastRow, k.lastGroup, by simp only [MacroState.arm, if_pos h, e]⟩
  · exact ⟨_, _, by simp only [MacroState.arm, if_pos h, e]; rfl⟩

theorem metaErrors_some {r g : Nat} (h : k.metaErrors.2 = some (r, g)) : k.metaErrors.1 = true := by
  simp only [MacroState.metaErrors] at h ⊢
  have : (List.flatMap (fun r => (k.failing (0x800 + r)).map fun g => (0x800 + r, g)) (List.range 16)) ≠ [] := by
    intro e; rw [e] at h; cases h
  simp [List.isEmpty_eq_false_iff.2 this]

/-- Arming with sound metadata. -/
theorem MacroState.arm_of_sound (h : k.sparse = false ∨ k.metaErrors.1 = false) : k.arm = { k with st := .armed } := by
  rcases Bool.eq_false_or_eq_true k.sparse with sparse | dense
  · have sound := h.resolve_left (by simp [sparse])
    have none : k.metaErrors.2 = none := by
      rcases e : k.metaErrors.2 with _ | ⟨r, g⟩
      · rfl
      · rw [metaErrors_some e] at sound; cases sound
    simp only [MacroState.arm, if_pos sparse, none, sound, Bool.false_eq_true, if_false]
  · exact MacroState.arm_of_dense dense

theorem MacroState.arm_of_bad_meta (sparse : k.sparse = true) (bad : k.metaErrors.1 = true) :
    ∃ row group, k.arm = { k with lastRow := row, lastGroup := group, metaErr := true, cfgLockedErr := true } := by
  obtain ⟨row, group, arm⟩ := MacroState.arm_of_sparse sparse
  exact ⟨row, group, by rw [arm, if_pos bad]⟩

/-- A write of MCFG where it may be made: WFMT, SPARSE and RAW_WRITE, then the state asked for (R27, Table 1.9). -/
theorem MacroState.writeMcfg_of_open {u : W32} (open' : k.cfgOpen = true) :
    k.writeMcfg by_ draw u =
      MacroState.writeState { k with
        wfmt := BitVec.ofNat 2 (fld u 17 16), sparse := bitOf u 15,
        rawWrite := bitOf u 18 && (k.rawWrite || decide (by_ = .arbiter)),
        checkStale := k.checkStale || (k.rowsWritten && (decide (fld u 17 16 ≠ k.wfmt.toNat) || (bitOf u 15 != k.sparse))) }
        by_ draw (stOf (fld u 31 30)) := by
  have small : fld u 17 16 < 4 := Nat.mod_lt _ (by decide)
  have width : BitVec.ofNat 2 (fld u 17 16) = k.wfmt ↔ fld u 17 16 = k.wfmt.toNat := by
    rw [← BitVec.toNat_inj, BitVec.toNat_ofNat, Nat.mod_eq_of_lt small]
  have raw : (if bitOf u 18 then (k.rawWrite || decide (by_ = .arbiter)) else false) = (bitOf u 18 && (k.rawWrite || decide (by_ = .arbiter))) := by
    cases bitOf u 18 <;> rfl
  unfold MacroState.writeMcfg
  simp only [open', Bool.true_eq_false, and_false, if_false]
  by_cases same : BitVec.ofNat 2 (fld u 17 16) = k.wfmt ∧ bitOf u 15 = k.sparse
  · obtain ⟨wfmt, sparse⟩ := same
    simp [sparse, width.1 wfmt, raw]
  · have change : (decide (fld u 17 16 ≠ k.wfmt.toNat) || (bitOf u 15 != k.sparse)) = true := by
      simpa [← width, imp_iff_not_or] using same
    rw [if_pos (not_and_or.1 same), MacroState.noteCfg_eq, change, Bool.and_true]
    simp only [raw]

theorem MacroState.writeMcfg_of_locked {u : W32} (closed : k.cfgOpen = false)
    (changes : fld u 17 16 ≠ k.wfmt.toNat ∨ bitOf u 15 ≠ k.sparse) : k.writeMcfg by_ draw u = k.locked := by
  refine if_pos ⟨changes.imp_left fun h e => h ?_, closed⟩
  have small : fld u 17 16 < 4 := Nat.mod_lt _ (by decide)
  rw [← e, BitVec.toNat_ofNat, Nat.mod_eq_of_lt small]

end

/-- Settles O4: each write is one case of the register's rule or of Table 1.14. -/
theorem macroConfigurationAndState : Obligations.MacroConfigurationAndState := by
  have next {t u : State} (h : t = u) : (Host.Outcome.next t : Out) = .next u := congrArg _ h
  constructor
  · intro s c m by_ set v u k
    refine ⟨?program, ?configure, ?locked, ?mcfg, ?load⟩
    case program =>
      rintro rfl i member
      have discarded (f : MacroState → MacroState) : ∃ t r, (Host.Outcome.next (s.cfgWrite c m .program f) : Out) = .next t ∧
          t.reply = { status := fSpPerm.toNat, data := [] } ∧ t.macros = s.macros ∧
          t.core c = { s.core c with faultQ := (s.core c).faultQ ++ [r] } ∧ r.code = fSpPerm :=
        ⟨_, _, next State.cfgWrite_of_program, rfl, rfl,
          by rw [State.core_answer, State.core_bump, State.core_updCore_self, CoreState.pushFault], rfl⟩
      simp only [List.mem_cons, List.not_mem_nil, or_false] at member
      rcases member with rfl | rfl | rfl | rfl | rfl | rfl | rfl <;> exact discarded _
    case configure =>
      rintro ⟨writer, open'⟩
      have cfg := MacroState.cfgOpen_iff.2 open'
      constructor <;> refine next (State.cfgWrite_of_writer writer ?_)
      · rw [MacroState.writeMgsel, if_pos cfg, MacroState.noteCfg_eq]
      · rw [MacroState.writeMcoef, if_pos cfg, MacroState.noteCfg_eq]
    case locked =>
      rintro ⟨writer, closed⟩
      have cfg := MacroState.cfgOpen_eq_false closed
      refine ⟨next (State.cfgWrite_of_writer writer ?_), next (State.cfgWrite_of_writer writer ?_),
        fun changes => next (State.cfgWrite_of_writer writer (MacroState.writeMcfg_of_locked cfg changes))⟩
      · simp [MacroState.writeMgsel, cfg, MacroState.locked, k]
      · simp [MacroState.writeMcoef, cfg, MacroState.locked, k]
    case mcfg =>
      rintro ⟨writer, loading, held, target⟩
      refine next (State.cfgWrite_of_writer writer ?_)
      rw [MacroState.writeMcfg_of_open (MacroState.cfgOpen_iff.2 (.inr loading)), target,
        MacroState.writeState_of_free]
      · simp [MacroState.stepState, stOf, loading]
      · exact held
      · exact fun _ armed => absurd (loading.symm.trans armed) (by decide)
    case load =>
      rintro ⟨writer, offline, held, target⟩
      have small : fld u 17 16 < 4 := Nat.mod_lt _ (by decide)
      refine ⟨_, next (State.cfgWrite_of_writer writer rfl), ?_⟩
      rw [MacroState.writeMcfg_of_open (MacroState.cfgOpen_iff.2 (.inl offline)), target,
        MacroState.writeState_of_free]
      · simp [MacroState.stepState, stOf, offline, MacroState.enterLoading, Nat.mod_eq_of_lt small]
      · exact held
      · exact fun _ armed => absurd (offline.symm.trans armed) (by decide)
  · intro s c m by_ writer k put waits
    have go {target : MacroSt} {k' : MacroState} (h : k.writeState by_ s.free target = k') :
        (Host.Outcome.next (s.cfgWrite c m by_ fun k => k.writeState by_ s.free target) : Out) = put k' :=
      next (State.cfgWrite_of_writer writer h)
    have wait {target : MacroSt} (busy : k.held ≠ [] ∨ (k.passActive = true ∧ k.st = .armed ∧ target ≠ .armed)) :=
      go (MacroState.writeState_of_busy busy)
    refine ⟨fun held => ?_, fun ⟨armed, pass⟩ => ⟨wait (.inr ⟨pass, armed, by decide⟩), wait (.inr ⟨pass, armed, by decide⟩),
      wait (.inr ⟨pass, armed, by decide⟩)⟩, fun held => ⟨wait (.inl held), wait (.inl held), wait (.inl held), wait (.inl held)⟩⟩
    have free {target : MacroSt} {k' : MacroState} (pass : k.passActive = true → k.st = .armed → target = .armed)
        (h : k.stepState by_ s.free target = k') := go ((MacroState.writeState_of_free held pass).trans h)
    have off {target : MacroSt} {k' : MacroState} {st : MacroSt} (here : k.st = st) (other : st ≠ .armed)
        (h : k.stepState by_ s.free target = k') := free (fun _ armed => absurd (here.symm.trans armed) other) h
    refine ⟨fun ⟨st, stale⟩ => off st (by decide) ?_, fun ⟨st, stale, sound⟩ => off st (by decide) ?_,
      fun ⟨st, stale, sparse, bad⟩ => ?_, fun st => free (fun _ _ => rfl) ?_, fun st => ?_, fun st => off st (by decide) ?_,
      fun st => off st (by decide) ?_, fun st => off st (by decide) ?_, fun ⟨st, pass⟩ => free (by simp [pass]) ?_,
      fun ⟨st, pass⟩ => free (by simp [pass]) ?_, fun st => off st (by decide) ?_,
      fun st => ⟨off st (by decide) ?_, off st (by decide) ?_⟩, fun st => off st (by decide) ?_, fun st => off st (by decide) ?_,
      fun ⟨st, pass⟩ => free (by simp [pass]) ?_, fun ⟨st, other⟩ => off st (by decide) ?_,
      fun ⟨st, arbiter⟩ => off st (by decide) ?_⟩
    case refine_3 =>
      obtain ⟨row, group, arm⟩ := MacroState.arm_of_bad_meta sparse bad
      refine ⟨_, off st (by decide) (k' := k.arm) (by simp [MacroState.stepState, st, stale]), ?_⟩
      simp [arm, st]
    case refine_5 =>
      rcases st with st | st <;> exact off st (by decide) (by simp [MacroState.stepState, st, MacroState.locked])
    case refine_2 => simp only [MacroState.stepState, st, stale, Bool.false_eq_true, if_false, MacroState.arm_of_sound sound]
    all_goals simp only [MacroState.stepState, st]
    all_goals simp_all [MacroState.locked, MacroState.enterLoading]

end Sys2Proof.Machine

/-! PROOFS. The recheck sweep, field repair and the swap of a failed macro (R27 to R30, R56). -/

namespace Sys2Proof.Machine

section

variable {s t : State} {c m row r n : Nat} {k : MacroState} {mask : BitVec 16} {what : RepairKind}

/-! ### The recheck sweep -/

/-- A row's check bits recomputed (R27 step 1). -/
def MacroState.recheckRow (k : MacroState) (r : Nat) : MacroState :=
  k.putRow r { k.row r with check := BitVec.ofNat 128 (k.checkWord r (k.row r).data.toNat) }

/-- The first n rows of a sweep. -/
def MacroState.sweep (k : MacroState) (n : Nat) : MacroState := (List.range n).foldl MacroState.recheckRow k

theorem MacroState.recheck_eq : k.recheck = { k.sweep 2064 with checkStale := false, recheckBusy := false } := rfl

theorem MacroState.sweep_succ : k.sweep (n + 1) = (k.sweep n).recheckRow n := by
  simp [MacroState.sweep, List.range_succ]

theorem MacroState.sweep_frame (k : MacroState) (n : Nat) : ∃ rows, k.sweep n = { k with rows := rows } := by
  induction n with
  | zero => exact ⟨k.rows, rfl⟩
  | succ n ih =>
    obtain ⟨rows, e⟩ := ih
    exact ⟨_, by rw [MacroState.sweep_succ, e]; rfl⟩

/-- A sweep's n first rows agree with R23 and hold their data; the others are as they were. -/
theorem MacroState.sweep_rows (k : MacroState) (bound : n ≤ 0x810) : ∀ r, r < 0x810 →
    ((k.sweep n).row r).data = (k.row r).data ∧ (r < n → (k.sweep n).failing r = []) ∧ (n ≤ r → (k.sweep n).row r = k.row r) := by
  induction n with
  | zero => exact fun r _ => ⟨rfl, fun h => absurd h (Nat.not_lt_zero r), fun _ => rfl⟩
  | succ n ih =>
    intro r inside
    obtain ⟨data, sound, later⟩ := ih (by omega) r inside
    rw [MacroState.sweep_succ]
    rcases eq_or_ne r n with rfl | other
    · have here : ((k.sweep r).recheckRow r).row r = _ := MacroState.row_putRow_self _ _ _
      have word (d : Nat) : ((k.sweep r).recheckRow r).checkWord r d = (k.sweep r).checkWord r d := rfl
      refine ⟨by rw [here]; exact data, fun _ => MacroState.failing_eq_nil (by rw [here, word]), fun h => absurd h (by omega)⟩
    · have kept : ((k.sweep n).recheckRow n).row r = (k.sweep n).row r := MacroState.row_putRow_ne _ _ (by omega) inside other
      have sound' : ((k.sweep n).recheckRow n).failing r = (k.sweep n).failing r := by
        simp only [MacroState.failing, kept]; rfl
      exact ⟨by rw [kept, data], fun h => by rw [sound', sound (by omega)], fun h => by rw [kept, later (by omega)]⟩

theorem MacroState.recheck_rows (inside : r < 0x810) : (k.recheck.row r).data = (k.row r).data ∧ k.recheck.failing r = [] := by
  obtain ⟨data, sound, -⟩ := MacroState.sweep_rows k (Nat.le_refl 0x810) r inside
  have row (k : MacroState) : MacroState.row { k with checkStale := false, recheckBusy := false } r = k.row r := rfl
  have failing (k : MacroState) : MacroState.failing { k with checkStale := false, recheckBusy := false } r = k.failing r := rfl
  rw [MacroState.recheck_eq, row, failing]
  exact ⟨data, sound inside⟩

/-- Arming changes the state and the status registers, never a row. -/
theorem MacroState.arm_frame (k : MacroState) : ∃ st lr lg me ce,
    k.arm = { k with st := st, lastRow := lr, lastGroup := lg, metaErr := me, cfgLockedErr := ce } := by
  rcases Bool.eq_false_or_eq_true k.sparse with sparse | dense
  · obtain ⟨row, group, arm⟩ := MacroState.arm_of_sparse sparse
    rw [arm]
    split
    · exact ⟨_, _, _, _, _, rfl⟩
    · exact ⟨_, _, _, _, _, rfl⟩
  · exact ⟨_, _, _, _, _, MacroState.arm_of_dense dense⟩

theorem MacroState.arm_row (k : MacroState) (r : Nat) : k.arm.row r = k.row r ∧ k.arm.failing r = k.failing r := by
  obtain ⟨st, lr, lg, me, ce, arm⟩ := k.arm_frame
  rw [arm]
  exact ⟨rfl, rfl⟩

theorem State.exec_recheckSweep {c : CoreId} {m : MacId} (busy : (s.mac c m).recheckBusy = true) :
    exec (.recheckSweep c m) s = .next (s.setMac c m (s.mac c m).recheck.arm) := by
  show Host.Outcome.next (if _ then _ else _) = _
  rw [if_pos busy]; rfl

/-! ### Field repair -/

theorem State.rewriteRow_of_shadow {d : BitVec 4096} (h : s.shadowRow c m row = some d) :
    s.rewriteRow c m row mask = s.updMac c m fun k => k.store .repair row mask d 0 := by
  simp only [State.rewriteRow, h]

/-- What a rewrite from the shadow leaves as it is. -/
def State.rewrites (s t : State) (c m : Nat) : Prop :=
  (t.maint = s.maint ∧ t.hub = s.hub ∧ t.cores = s.cores ∧ t.power = s.power) ∧
    (t.mac c m).held = (s.mac c m).held ∧ (t.mac c m).passActive = (s.mac c m).passActive

theorem State.rewrites_rewriteRow (s : State) (c m row : Nat) (mask : BitVec 16) : s.rewrites (s.rewriteRow c m row mask) c m := by
  unfold State.rewriteRow
  split
  · refine ⟨⟨rfl, rfl, rfl, rfl⟩, ?_, ?_⟩ <;> rw [State.mac_updMac_self, MacroState.store_eq] <;> rfl
  · exact ⟨⟨rfl, rfl, rfl, rfl⟩, rfl, rfl⟩

theorem State.rewrites_trans {u : State} (first : s.rewrites t c m) (second : t.rewrites u c m) : s.rewrites u c m := by
  obtain ⟨⟨a, b, d, e⟩, held, pass⟩ := first
  obtain ⟨⟨a', b', d', e'⟩, held', pass'⟩ := second
  exact ⟨⟨a'.trans a, b'.trans b, d'.trans d, e'.trans e⟩, held'.trans held, pass'.trans pass⟩

theorem State.rewrites_rewriteRepair (s : State) (c m : Nat) (what : RepairKind) : s.rewrites (s.rewriteRepair c m what) c m := by
  unfold State.rewriteRepair
  split
  · exact s.rewrites_rewriteRow c m _ _
  · exact List.foldlRecOn (motive := fun t => s.rewrites t c m) _ _ ⟨⟨rfl, rfl, rfl, rfl⟩, rfl, rfl⟩
      fun t before e _ => State.rewrites_trans before (t.rewrites_rewriteRow c m _ _)
  · exact s.rewrites_rewriteRow c m _ _

theorem State.flushHeld_of_none (none : (s.mac c m).held = []) : s.flushHeld c m = s := by
  rw [State.flushHeld, none]; rfl

/-- The sweep changes contents and its own two status bits, no more. -/
theorem MacroState.recheck_frame (k : MacroState) : ∃ rows, k.recheck = { k with rows := rows, checkStale := false, recheckBusy := false } := by
  obtain ⟨rows, e⟩ := k.sweep_frame 0x810
  exact ⟨rows, by rw [MacroState.recheck_eq, e]⟩

theorem mem_add_once (x : Nat) (xs : List Nat) [Decidable (x ∈ xs)] : x ∈ if x ∈ xs then xs else xs ++ [x] := by
  by_cases h : x ∈ xs <;> simp [h]

/-- A repair that finds no spare retires the macro and asks for a swap (R29). -/
theorem State.fieldRepair_of_no_spare (working : (s.mac c m).st = .armed ∨ (s.mac c m).st = .loading) (free : (s.mac c m).repairBusy = false)
    (named : repairNames what = true) (none : (s.mac c m).fitSpare what = none) :
    s.fieldRepair c m what = (((s.setMac c m ((s.mac c m).writeState .repair s.free .retired)).retireRecord (macKey c m) true).wantSwap
      (macKey c m)).journal 0xAC 0xFF 0 c 0 0 0 (BitVec.ofNat 64 m) := by
  have asked : ((s.mac c m).st = .armed ∨ (s.mac c m).st = .loading) ∧ (s.mac c m).repairBusy = false ∧ repairNames what = true :=
    ⟨working, free, named⟩
  simp only [State.fieldRepair, if_pos asked, none]

theorem State.fieldRepair_of_spare {k1 : MacroState} (working : (s.mac c m).st = .armed ∨ (s.mac c m).st = .loading)
    (free : (s.mac c m).repairBusy = false) (named : repairNames what = true) (spare : (s.mac c m).fitSpare what = some k1) :
    s.fieldRepair c m what =
      s.setMac c m { (if (s.mac c m).passActive then s.mac c m else k1) with repairBusy := true, repairing := some what } := by
  have asked : ((s.mac c m).st = .armed ∨ (s.mac c m).st = .loading) ∧ (s.mac c m).repairBusy = false ∧ repairNames what = true :=
    ⟨working, free, named⟩
  simp only [State.fieldRepair, if_pos asked, spare]

theorem State.fieldRepair_of_idle (idle : ¬(((s.mac c m).st = .armed ∨ (s.mac c m).st = .loading) ∧ (s.mac c m).repairBusy = false ∧
    repairNames what = true)) : s.fieldRepair c m what = s := if_neg idle

/-- An armed or loading macro with nothing before it is retired at once. -/
theorem MacroState.writeState_retired {by_ : Writer} {draw : Nat} (working : k.st = .armed ∨ k.st = .loading) (held : k.held = [])
    (pass : k.passActive = false) : (k.writeState by_ draw .retired).st = .retired := by
  rw [MacroState.writeState_of_free held (by simp [pass])]
  rcases working with h | h <;> simp [MacroState.stepState, h]

/-- The state in which the rewrite of a repair is over and the macro given back (R28 steps 3 and 4). -/
def State.givenBack (s : State) (c m : Nat) (what : RepairKind) : State :=
  (s.rewriteRepair c m what).updMac c m fun k => { k with repairBusy := false, repairing := none }

theorem State.exec_rewriteDone {c : CoreId} {m : MacId} (repairing : (s.mac c m).repairing = some what) (pass : (s.mac c m).passActive = false)
    (held : (s.mac c m).held = []) :
    exec (.fieldRepairRewriteDone c m) s = .next ((s.givenBack c m what).recordRepair c m what) := by
  obtain ⟨-, heldSame, -⟩ := s.rewrites_rewriteRepair c m what
  have nothing : ((s.givenBack c m what).mac c m).held = [] := by
    rw [State.givenBack, State.mac_updMac_self]; exact heldSame.trans held
  show execFieldRepairRewriteDone c m s = _
  unfold execFieldRepairRewriteDone
  simp only [repairing, pass, Bool.false_eq_true, if_false]
  exact congrArg (fun t : State => Host.Outcome.next (t.recordRepair c m what)) (State.flushHeld_of_none nothing)

/-- What a recorded repair changes: the repair log, the store's count, the journal and its attention. -/
theorem State.recordRepair_effect (s : State) (c m : Nat) (what : RepairKind) :
    (s.recordRepair c m what).maint = { s.maint with repairLog := s.maint.repairLog ++ [(macKey c m, what)],
                                                     storeWrites := s.maint.storeWrites + 1 } ∧
    (s.recordRepair c m what).macros = s.macros ∧ (s.recordRepair c m what).hub.seq = s.hub.seq + 1 ∧
    (s.recordRepair c m what).cores = s.cores ∧ (s.recordRepair c m what).power = s.power := by
  unfold State.recordRepair
  simp [State.hub_journal]

/-- A row rewritten whole from its shadow holds the shadow's image once the macro is given back. -/
theorem State.row_givenBack {d : BitVec 4096} (rewrite : s.rewriteRepair c m what = s.rewriteRow c m row 0xFFFF)
    (shadow : s.shadowRow c m row = some d) : (((s.givenBack c m what).mac c m).row row).data = d := by
  rw [State.givenBack, State.mac_updMac_self, rewrite, State.rewriteRow_of_shadow shadow, State.mac_updMac_self]
  exact MacroState.data_row_store

/-! ### The swap of a macro (R56) -/

theorem Win.read_write (w : Memory) (a x : Nat) (b : Byte) : Win.read (Win.write w a b) x = if x = a then b else Win.read w x := by
  split
  · next here => rw [here]; exact Win.read_write_self _ _ _
  · next other => exact Win.read_write_ne _ _ other

theorem macKey_inj {c m n : Nat} (h : macKey c m = macKey c n) : m = n := Nat.add_left_cancel h

theorem State.mac_updMac_ne {n : Nat} {f : MacroState → MacroState} (other : n ≠ m) : (s.updMac c m f).mac c n = s.mac c n :=
  State.mac_setMac_ne s _ fun h => other (macKey_inj h)

/-- Nothing of the cores, the hub or another macro of the core has changed. -/
def State.onlyMac (s t : State) (c n : Nat) : Prop := t.cores = s.cores ∧ t.hub = s.hub ∧ ∀ m, m ≠ n → t.mac c m = s.mac c m

theorem State.onlyMac_updMac {n : Nat} {f : MacroState → MacroState} (h : s.onlyMac t c n) : s.onlyMac (t.updMac c n f) c n := by
  obtain ⟨cores, hub, macs⟩ := h
  exact ⟨cores, hub, fun m other => (State.mac_updMac_ne other).trans (macs m other)⟩

theorem State.onlyMac_bump {n : Nat} (h : s.onlyMac t c n) : s.onlyMac t.bump c n := h

theorem State.onlyMac_loadSpare (s : State) (c failed spare : Nat) : s.onlyMac (s.loadSpare c failed spare) c spare := by
  refine State.onlyMac_updMac (List.foldlRecOn (motive := fun t => s.onlyMac t c spare) _ _ ?first fun t before e _ => ?row)
  case first => exact State.onlyMac_bump (State.onlyMac_updMac ⟨rfl, rfl, fun _ _ => rfl⟩)
  case row =>
    have stored := State.onlyMac_updMac (f := fun m => m.store .loader (e.1 - shadowKey c failed 0) 0xFFFF e.2 0) before
    exact stored

/-- AMMAP entries written one after the other. -/
def State.mapEntries (s : State) (c : Nat) (p : Nat → Bool) (b : Byte) (n : Nat) : State :=
  (List.range n).foldl (fun s j => if p j then s.updCore c fun k => { k with win := Win.write k.win (0x040C0000 + j) b } else s) s

theorem State.mapEntries_effect (s : State) (c : Nat) (p : Nat → Bool) (b : Byte) (n : Nat) :
    (∃ cs, s.mapEntries c p b n = { s with cores := cs }) ∧ ∃ w, (s.mapEntries c p b n).core c = { s.core c with win := w } ∧
      ∀ j, Win.read w (0x040C0000 + j) = if j < n ∧ p j = true then b else Win.read (s.core c).win (0x040C0000 + j) := by
  induction n with
  | zero => exact ⟨⟨s.cores, rfl⟩, (s.core c).win, rfl, fun j => by simp⟩
  | succ n ih =>
    obtain ⟨⟨cs, frame⟩, w, core, reads⟩ := ih
    have last : s.mapEntries c p b (n + 1) = if p n then (s.mapEntries c p b n).updCore c
        (fun k => { k with win := Win.write k.win (0x040C0000 + n) b }) else s.mapEntries c p b n := by
      simp [State.mapEntries, List.range_succ]
    rw [last]
    split
    · next mapped =>
      refine ⟨⟨_, by rw [frame]; rfl⟩, Win.write w (0x040C0000 + n) b, by rw [State.core_updCore_self, core], fun j => ?_⟩
      rw [Win.read_write, reads]
      rcases eq_or_ne j n with rfl | other
      · simp [mapped]
      · rw [if_neg (by omega)]
        exact if_congr (by constructor <;> rintro ⟨h, q⟩ <;> exact ⟨by omega, q⟩) rfl rfl
    · next free =>
      refine ⟨⟨cs, frame⟩, w, core, fun j => ?_⟩
      rw [reads]
      refine if_congr ⟨fun ⟨h, q⟩ => ⟨by omega, q⟩, fun ⟨h, q⟩ => ⟨?_, q⟩⟩ rfl rfl
      have : j ≠ n := fun e => free (e ▸ q)
      omega

theorem CoreState.ammap_of_byte {k : CoreState} {j sp : Nat} (h : Win.read k.win (0x040C0000 + j) = BitVec.ofNat 8 (0x80 + sp)) (small : sp < 72) :
    k.ammap j = some sp := by
  have value : (BitVec.ofNat 8 (0x80 + sp)).toNat = 0x80 + sp := by rw [BitVec.toNat_ofNat]; exact Nat.mod_eq_of_lt (by omega)
  have high : bit (0x80 + sp) 7 = true := by simp [bit]; omega
  simp only [CoreState.ammap, h, value, high, if_true]
  exact congrArg some (by omega)

theorem CoreState.ammap_congr {k k' : CoreState} {j : Nat} (h : Win.read k.win (0x040C0000 + j) = Win.read k'.win (0x040C0000 + j)) :
    k.ammap j = k'.ammap j := by simp only [CoreState.ammap, h]

theorem State.releaseCore_effect (s : State) (c : Nat) : (s.releaseCore c).macros = s.macros ∧
    ∃ st h, (s.releaseCore c).core c = { s.core c with st := st, holdAt := h } := by
  unfold State.releaseCore
  split
  · refine ⟨rfl, ?_⟩
    rw [State.core_updCore_self]
    unfold CoreState.release
    split
    · exact ⟨_, _, rfl⟩
    · exact ⟨_, _, rfl⟩
  · exact ⟨rfl, _, _, rfl⟩

/-- The localising test of a macro: raised at once or kept for later, it changes no core and no state of the macro. -/
theorem State.raiseOp_effect (s : State) (o : MaintOp) (cores : o.cores = [c]) (units : o.units = [m]) :
    (s.raiseOp o).cores = s.cores ∧ ((s.raiseOp o).mac c m).st = (s.mac c m).st := by
  unfold State.raiseOp
  split
  · exact ⟨by simp [State.maintRefused, State.noteBusy], by simp [State.maintRefused, State.noteBusy]⟩
  · unfold State.beginOp State.markTest
    split
    · rw [cores, units]
      exact ⟨rfl, by simp⟩
    · exact ⟨rfl, rfl⟩

theorem State.takeSpare_of_spare {sp : Nat} (h : s.spareMacro c = some sp) : s.takeSpare c = some (sp, s) := by
  simp only [State.takeSpare, h]

theorem State.spareMacro_lt {sp : Nat} (h : s.spareMacro c = some sp) : sp < 72 := by
  unfold State.spareMacro at h
  exact List.mem_range.1 (List.mem_of_find?_eq_some h)

/-- A swap made: AMMAP names the spare, the failed macro, armed before, is OFFLINE, and the core goes on with its replays' count less 1. -/
def State.swapped (s : State) (c m sp : Nat) : State :=
  ((s.putSpare c m sp).updCore c fun k => { k with replays := k.replays - 1 }).swapOver c m

theorem State.putSpare_eq {sp : Nat} (armed : (s.mac c m).st ≠ .retired) : s.putSpare c m sp =
    ((((s.loadSpare c m sp).mapEntries c (fun j => ((s.loadSpare c m sp).core c).ammap j = some m) (BitVec.ofNat 8 (0x80 + sp)) 64).updMac c m
      fun x => x.writeState .repair
        ((s.loadSpare c m sp).mapEntries c (fun j => ((s.loadSpare c m sp).core c).ammap j = some m) (BitVec.ofNat 8 (0x80 + sp)) 64).free
        .offline).bump).journal 0xAA 0xFF 0 c 0 0 0 (BitVec.ofNat 64 (m + 256 * sp)) := by
  simp only [State.putSpare, if_neg armed, State.mapEntries, decide_eq_true_eq]

theorem State.swapped_effect {sp : Nat} (other : sp ≠ m) (armed : (s.mac c m).st = .armed) (pass : (s.mac c m).passActive = false)
    (held : (s.mac c m).held = []) : ((s.swapped c m sp).mac c m).st = .offline ∧ ∃ w st h,
      (s.swapped c m sp).core c = { s.core c with win := w, replays := (s.core c).replays - 1, st := st, holdAt := h } ∧
      ∀ j, Win.read w (0x040C0000 + j) =
        if j < 64 ∧ (s.core c).ammap j = some m then BitVec.ofNat 8 (0x80 + sp) else Win.read (s.core c).win (0x040C0000 + j) := by
  obtain ⟨cores, -, macs⟩ := s.onlyMac_loadSpare c m sp
  have core := State.core_congr cores c
  obtain ⟨⟨cs, frame⟩, w, entries, reads⟩ := (s.loadSpare c m sp).mapEntries_effect c
    (fun j => ((s.loadSpare c m sp).core c).ammap j = some m) (BitVec.ofNat 8 (0x80 + sp)) 64
  have mac : ((s.loadSpare c m sp).mapEntries c (fun j => ((s.loadSpare c m sp).core c).ammap j = some m)
      (BitVec.ofNat 8 (0x80 + sp)) 64).mac c m = s.mac c m := by rw [frame]; exact macs m other.symm
  obtain ⟨macrosKept, st, h, released⟩ := State.releaseCore_effect
    (((s.putSpare c m sp).updCore c fun k => { k with replays := k.replays - 1 }).updHub fun h =>
      { h with swapDue := h.swapDue.erase (macKey c m), swapHeld := h.swapHeld.erase (macKey c m), checks := Sparse.erase h.checks (macKey c m) }) c
  have put := State.putSpare_eq (s := s) (c := c) (m := m) (sp := sp) (by rw [armed]; decide)
  refine ⟨?_, w, st, h, ?_, fun j => ?_⟩
  · have offline : (s.swapped c m sp).mac c m = (s.putSpare c m sp).mac c m := State.mac_congr macrosKept c m
    rw [offline, put, State.mac_journal, State.mac_bump, State.mac_updMac_self, mac, MacroState.writeState_of_free held (by simp [pass])]
    simp [MacroState.stepState, armed]
  · rw [State.swapped, State.swapOver, released, State.core_updHub, State.core_updCore_self, put, State.core_journal, State.core_bump,
      State.core_updMac, entries, core]
  · rw [reads, core]
    simp only [decide_eq_true_eq]

end

/-- Settles O5: the sweep row by row, a repair by whether a spare is fitted, and a swap as a rewrite of AMMAP. -/
theorem macroRepairAndSwap : Obligations.MacroRepairAndSwap := by
  refine ⟨fun s c m => ⟨fun busy => ?sweep, fun idle => ?noSweep⟩, fun s c m what => ?repair, fun s c m free => ⟨?swap, ?hold, ?idle⟩⟩
  case sweep =>
    obtain ⟨rows, recheck⟩ := (s.mac c m).recheck_frame
    refine ⟨_, State.exec_recheckSweep busy, by rw [State.mac_setMac_self], ?_⟩
    rw [State.mac_setMac_self]
    obtain ⟨st, lr, lg, me, ce, arm⟩ := (s.mac c m).recheck.arm_frame
    refine ⟨fun r inside => ?_, by rw [arm, recheck], by rw [arm, recheck], fun sound => ?_, fun sparse bad => ?_⟩
    · obtain ⟨row, failing⟩ := (s.mac c m).recheck.arm_row r
      rw [row, failing]
      exact MacroState.recheck_rows inside
    · rw [MacroState.arm_of_sound (sound.imp_left fun h => by rw [recheck]; exact h)]
    · obtain ⟨row, group, armed⟩ := MacroState.arm_of_bad_meta (k := (s.mac c m).recheck) (by rw [recheck]; exact sparse) bad
      rw [armed]
      exact ⟨by rw [recheck], rfl, rfl⟩
  case noSweep =>
    show execRecheckSweep c m s = _
    rw [execRecheckSweep, if_neg (by simp [idle])]
  case repair =>
    refine ⟨fun k1 working free named spare => ?_, fun working free pass held named none => ?_, fun idle => ?_, fun repairing pass held => ?_,
      fun waits => ?_⟩
    · have fitted := State.fieldRepair_of_spare working free named spare
      refine ⟨fun pass => ?_, fun pass => ?_⟩ <;> refine congrArg Host.Outcome.next (fitted.trans ?_) <;> simp [pass]
    · refine ⟨_, congrArg Host.Outcome.next (State.fieldRepair_of_no_spare working free named none), ?_⟩
      refine ⟨?_, ?_, ?_, ?_, ?_⟩
      · simpa [State.wantSwap, State.retireRecord] using MacroState.writeState_retired working held pass
      · simp only [State.wantSwap, State.retireRecord, State.journal_maint, State.updHub_maint, State.updMaint_maint, if_true]
        exact mem_add_once _ _
      · simp only [State.wantSwap, State.retireRecord, State.hub_journal, State.updHub_hub]
        exact mem_add_once _ _
      · simp [State.hub_journal, State.wantSwap, State.retireRecord]
      · simp [State.wantSwap, State.retireRecord]
    · refine congrArg Host.Outcome.next (State.fieldRepair_of_idle ?_)
      rintro ⟨working, free, named⟩
      rcases idle with h | h | h | h <;> simp_all
    · obtain ⟨⟨maint, hub, cores, power⟩, -⟩ := s.rewrites_rewriteRepair c m what
      obtain ⟨recorded, macros, seq, coresKept, powerKept⟩ := (s.givenBack c m what).recordRepair_effect c m what
      refine ⟨_, State.exec_rewriteDone repairing pass held, ?_⟩
      rw [State.mac_congr macros]
      refine ⟨?_, ?_, ?_, ?_, ?_, fun a d row shadow => ?_, fun r d row shadow => ?_, coresKept.trans cores, powerKept.trans power⟩
      · rw [recorded, State.givenBack, State.updMac_maint, maint]
      · rw [recorded, State.givenBack, State.updMac_maint, maint]
      · rw [State.givenBack, State.mac_updMac_self]
      · rw [State.givenBack, State.mac_updMac_self]
      · rw [seq, State.givenBack, State.updMac_hub, hub]
      · exact State.row_givenBack (by rw [row]; rfl) shadow
      · exact State.row_givenBack (by rw [row]; rfl) shadow
    · show execFieldRepairRewriteDone c m s = _
      unfold execFieldRepairRewriteDone
      rcases waits with pass | none
      · dsimp only
        split
        · rw [if_pos pass]
        · rfl
      · simp only [none]
  case swap =>
    intro sp due rest spare other armed pass held
    obtain ⟨offline, w, st, h, core, reads⟩ := State.swapped_effect other armed pass held
    have small := State.spareMacro_lt spare
    have asked : ¬(macKey c m ∉ s.hub.swapDue ∨ s.rebindHolds c = true) := by simp [due, free]
    have run : exec (.macroSpareSwap c m) s = .next ((s.swapped c m sp).raiseOp
        { MaintOp.of .march with die := some (coreDie c), cores := [c.val], units := [m.val], mode := 1, unitKind := 1, localising := true }) := by
      show execMacroSpareSwap c m s = _
      simp only [execMacroSpareSwap, if_neg asked, rest, Bool.true_eq_false, if_false, State.takeSpare_of_spare spare, armed, reduceCtorEq]
      rfl
    obtain ⟨cores, mac⟩ := State.raiseOp_effect (s.swapped c m sp) { MaintOp.of .march with
      die := some (coreDie c), cores := [c.val], units := [m.val], mode := 1, unitKind := 1, localising := true } rfl rfl
    refine ⟨_, run, ?_⟩
    rw [State.core_congr cores, core, mac]
    refine ⟨fun j inside mapped => CoreState.ammap_of_byte ?_ small, fun j inside free => CoreState.ammap_congr ?_, offline, rfl, rfl⟩
    · rw [reads, if_pos ⟨inside, mapped⟩]
    · rw [reads, if_neg fun h => free h.2]
  case hold =>
    intro due busy running
    have asked : ¬(macKey c m ∉ s.hub.swapDue ∨ s.rebindHolds c = true) := by simp [due, free]
    have run : exec (.macroSpareSwap c m) s = .next ((s.updCore c CoreState.holdAtMark).updHub fun h =>
        { h with swapHeld := if macKey c m ∈ h.swapHeld then h.swapHeld else h.swapHeld ++ [macKey c m] }) := by
      show execMacroSpareSwap c m s = _
      simp only [execMacroSpareSwap, if_neg asked, busy, if_true]
    refine ⟨_, run, ?_, rfl⟩
    rw [State.core_updHub, State.core_updCore_self, CoreState.holdAtMark, if_pos (.inl running)]
  case idle =>
    intro notDue
    show execMacroSpareSwap c m s = _
    simp only [execMacroSpareSwap, if_pos (Or.inl notDue)]

end Sys2Proof.Machine

/-! PROOFS. The reset state. -/

namespace Sys2Proof.Machine

/-- Settles O58: the reset state lists nothing, so every read gives the reset value of its table. -/
theorem resetValues : Obligations.ResetValues := by
  exact ⟨rfl, ⟨by decide, by decide, by decide⟩, rfl, rfl, rfl, fun c m => ⟨rfl, rfl, rfl, rfl, fun _ => rfl, rfl, rfl, rfl, rfl, rfl⟩,
    fun n => ⟨rfl, rfl, rfl, rfl, rfl, rfl⟩, rfl, rfl⟩

end Sys2Proof.Machine

/-! PROOFS. Commands that enter an engine queue (R107, R111, R114, R145). -/

namespace Sys2Proof.Machine

section

variable {s : State} {c : CoreId} {k : CoreState} {e : Eng} {tag : BitVec 16} {addr : W32} {slot : W128} {inStep : Bool}

/-- Two cores that differ in the engines' handle caches alone. -/
def CoreState.sameButCaches (k k' : CoreState) : Prop :=
  ∃ ve ae fe le se, k' = { k with hcVe := ve, hcAe := ae, hcFe := fe, hcLe := le, hcSe := se }

theorem CoreState.copyHandle_sameButCaches (k : CoreState) (e : Eng) (h : Nat) : k.sameButCaches (k.copyHandle e h).1 := by
  have cache (l : List (Nat × W128)) : k.sameButCaches (k.setCache e l) := by
    cases e <;> exact ⟨_, _, _, _, _, rfl⟩
  unfold CoreState.copyHandle
  dsimp only
  split
  · exact cache _
  · exact cache _

/-- The handle entries that a command copies as it enters. -/
theorem CoreState.copyHandles_sameButCaches (e : Eng) (hs : List Nat) : ∀ (k : CoreState) (m : Sparse W128), k.sameButCaches
    (hs.foldl (fun (a : CoreState × Sparse W128) h => let c := a.1.copyHandle e h; (c.1, Sparse.insert a.2 h c.2)) (k, m)).1 := by
  induction hs with
  | nil => exact fun k _ => ⟨_, _, _, _, _, rfl⟩
  | cons h hs ih =>
    intro k m
    obtain ⟨_, _, _, _, _, first⟩ := k.copyHandle_sameButCaches e h
    obtain ⟨_, _, _, _, _, rest⟩ := ih (k.copyHandle e h).1 (Sparse.insert m h (k.copyHandle e h).2)
    exact ⟨_, _, _, _, _, rest.trans (by rw [first])⟩

/-- A command entered: one waiting entry behind the others, with the registers of its address fields at that moment. -/
theorem CoreState.enqueue_effect (k : CoreState) (e : Eng) (tag : BitVec 16) (addr : W32) (slot : W128) (inStep : Bool) :
    ∃ ve ae fe le se q, k.enqueue e tag addr slot inStep =
        { k with hcVe := ve, hcAe := ae, hcFe := fe, hcLe := le, hcSe := se, queue := k.queue ++ [q], nextId := k.nextId + 1 } ∧
      q.id = k.nextId ∧ q.eng = e ∧ q.tag = tag ∧ q.addr = addr ∧ q.slot = slot ∧ q.inStep = inStep ∧ q.st = .waiting ∧
      q.xr2 = k.fieldReg (slotHi slot) ∧ q.xr1 = k.fieldReg (slotMid slot) ∧ q.xr0 = k.fieldReg (slotLo slot) := by
  obtain ⟨ve, ae, fe, le, se, same⟩ := CoreState.copyHandles_sameButCaches e
    (namedHandles e slot (if paramReg e slot = 0 then 0 else k.getX (paramReg e slot))) k []
  unfold CoreState.enqueue
  dsimp only at same ⊢
  generalize List.foldl _ (k, ([] : Sparse W128)) _ = copied at same ⊢
  obtain ⟨k1, handles⟩ := copied
  obtain rfl : k1 = _ := same
  exact ⟨ve, ae, fe, le, se, _, rfl, rfl, rfl, rfl, rfl, rfl, rfl, rfl, rfl, rfl, rfl⟩

theorem CoreState.room_aeDrain (k : CoreState) (n : Nat) : k.room .aeDrain n = k.room .aePass n := by
  have same (a : Eng) : sameQueue a .aeDrain = sameQueue a .aePass := by cases a <;> rfl
  have count : k.inQueue .aeDrain = k.inQueue .aePass := by simp only [CoreState.inQueue, same]
  rw [CoreState.room, CoreState.room, count]

end

/-- A command of the array engine enters its queue. -/
theorem State.enterQueue_of_room {s : State} {c : CoreId} {e : Eng} (tag : BitVec 16) (slot : W128) (issuing : s.issuing c)
    (room : (s.core c).room e 1 = true) : s.enterQueue c e tag slot = s.setCore c ((s.core c).enqueue e tag 0 slot true) := by
  have may : (s.core c).mayIssue = true := issuing
  rw [State.enterQueue, if_pos ⟨may, room⟩]; rfl

/-- Settles O6: the four commands differ in their class alone, and the classes share one queue. -/
theorem arrayCommandsEnterQueue : Obligations.ArrayCommandsEnterQueue := by
  intro s c tag slot k i member
  have entered (e : Eng) (same : k.room e 1 = k.room .aePass 1) (i : Instr) (run : exec i s = .next (s.enterQueue c e tag slot)) :
      (s.issuing c → k.room .aePass 1 = true →
        ∃ t q, exec i s = .next t ∧ (t.core c).queue = k.queue ++ [q] ∧ q.eng = e ∧ q.tag = tag ∧ q.slot = slot ∧ q.st = .waiting ∧
          q.xr1 = k.fieldReg (slotMid slot) ∧ q.xr0 = k.fieldReg (slotLo slot) ∧
          (t.core c).x = k.x ∧ (t.core c).ac = k.ac ∧ (t.core c).flags = k.flags ∧ (t.core c).sp = k.sp ∧ (t.core c).win = k.win ∧
          (t.core c).ta = k.ta ∧ (t.core c).tb = k.tb ∧ (t.core c).pass = k.pass ∧ (t.core c).nextPass = k.nextPass ∧
          (∀ d : Nat, d ≠ c → t.core d = s.core d) ∧ t.macros = s.macros ∧ t.hub = s.hub ∧ t.ext = s.ext) ∧
      (k.mayIssue = false ∨ k.room .aePass 1 = false → exec i s = .next s) := by
    refine ⟨fun issuing room => ?_, fun shut => ?_⟩
    · obtain ⟨ve, ae, fe, le, se, q, entry, -, eng, tagged, -, slotted, -, waiting, -, xr1, xr0⟩ := k.enqueue_effect e tag 0 slot true
      refine ⟨_, q, run.trans (congrArg _ (State.enterQueue_of_room tag slot issuing (same.trans room))), ?_⟩
      rw [State.core_setCore_self, entry]
      exact ⟨rfl, eng, tagged, slotted, waiting, xr1, xr0, rfl, rfl, rfl, rfl, rfl, rfl, rfl, rfl, rfl,
        fun d other => State.core_setCore_ne s _ other, rfl, rfl, rfl⟩
    · rw [run, State.enterQueue, if_neg]
      rintro ⟨may, room⟩
      rcases shut with h | h
      · exact absurd (may.symm.trans h) (by decide)
      · exact absurd (room.symm.trans (same.trans h)) (by decide)
  simp only [List.mem_cons, List.not_mem_nil, or_false] at member
  rcases member with rfl | rfl | rfl | rfl
  · exact entered .aePass rfl _ rfl
  · exact entered .aePass rfl _ rfl
  · exact entered .aeDrain (k.room_aeDrain 1) _ rfl
  · exact entered .aeDrain (k.room_aeDrain 1) _ rfl

end Sys2Proof.Machine

/-! PROOFS. Core states: START, HOLD, RELEASE, STOP, and step replay (R128, R129, R153, Table 5.20). -/

namespace Sys2Proof.Machine

section

variable {k : CoreState} {s : State} {c : Nat}

/-- X registers set from X1 up. -/
def CoreState.putFrom (k : CoreState) (n : Nat) (x : List W64) : CoreState :=
  (x.zipIdx n).foldl (fun k p => k.putX (p.2 + 1) p.1) k

theorem CoreState.setArgs_eq (k : CoreState) (x : List W64) : k.setArgs x = k.putFrom 0 x := rfl

theorem CoreState.putFrom_cons (k : CoreState) (n : Nat) (v : W64) (x : List W64) :
    k.putFrom n (v :: x) = (k.putX (n + 1) v).putFrom (n + 1) x := by simp [CoreState.putFrom, List.zipIdx_cons]

theorem CoreState.putFrom_frame (x : List W64) : ∀ (k : CoreState) (n : Nat), ∃ xs, k.putFrom n x = { k with x := xs } := by
  induction x with
  | nil => exact fun k _ => ⟨k.x, rfl⟩
  | cons v x ih =>
    intro k n
    obtain ⟨xs, first⟩ := k.putX_frame (n + 1) v
    obtain ⟨ys, rest⟩ := ih (k.putX (n + 1) v) (n + 1)
    exact ⟨ys, by rw [CoreState.putFrom_cons, rest, first]⟩

theorem CoreState.getX_putFrom_below (x : List W64) : ∀ (k : CoreState) (n m : Nat), m ≤ n → n + x.length < 32 →
    (k.putFrom n x).getX m = k.getX m := by
  induction x with
  | nil => exact fun _ _ _ _ _ => rfl
  | cons v x ih =>
    intro k n m below short
    simp only [List.length_cons] at short
    rw [CoreState.putFrom_cons, ih _ _ _ (by omega) (by omega), CoreState.getX_putX_ne _ _ (by omega)]

/-- The arguments read back (R196). -/
theorem CoreState.getX_putFrom (x : List W64) : ∀ (k : CoreState) (n i : Nat), n + x.length < 32 → i < x.length →
    (k.putFrom n x).getX (n + i + 1) = x.getD i 0 := by
  induction x with
  | nil => exact fun _ _ _ _ h => absurd h (Nat.not_lt_zero _)
  | cons v x ih =>
    intro k n i short inside
    simp only [List.length_cons] at short inside
    rw [CoreState.putFrom_cons]
    cases i with
    | zero => rw [CoreState.getX_putFrom_below _ _ _ _ (by omega) (by omega), CoreState.getX_putX_self _ _ (by omega)]; rfl
    | succ i =>
      have rest := ih (k.putX (n + 1) v) (n + 1) i (by omega) (by omega)
      rw [show n + (i + 1) + 1 = n + 1 + i + 1 from by omega, rest]
      rfl

theorem CoreState.hold_of_run (h : k.st = .run) : k.hold = { k with st := .held, hint := none } := by simp only [CoreState.hold, h]

theorem CoreState.hold_of_replay (h : k.st = .replay) : k.hold = { k with st := .held } := by simp only [CoreState.hold, h]

theorem CoreState.release_of_held (h : k.st = .held) :
    k.release = { k with st := if k.replayDue = true ∨ k.replaying = true then .replay else .run } := if_pos h

/-- A core that was stopped and has nothing in flight (Table 5.20). -/
theorem State.settle_of_stopped (queue : (s.core c).queue = []) (sigs : (s.core c).sigs = []) (done : (s.core c).doneReq = none)
    (stop : (s.core c).stopReq = true) :
    s.settle c = s.setCore c { s.core c with st := .idle, stopReq := false, replayDue := false, replaying := false } := by
  simp [State.settle, queue, sigs, done, stop]

theorem exec_coreStart {c : CoreId} {bank : Bool} {entry : BitVec 16} {x : List W64} (idle : (s.core c).st = .idle) :
    exec (.coreStart c bank entry x) s = .next ((s.setCore c ((s.core c).start bank entry.toNat x)).answer 0 []) :=
  congrArg Host.Outcome.next (if_pos idle)

theorem exec_coreStop {c : CoreId} (started : (s.core c).st ≠ .idle) :
    exec (.coreStop c) s = .next ((s.setCore c { s.core c with stopReq := true, doneReq := none }).settle c) :=
  congrArg Host.Outcome.next (if_neg started)

theorem exec_coreRelease {c : CoreId} (sound : (s.core c).st ≠ .faulted) :
    exec (.coreRelease c) s = .next ((s.setCore c (s.core c).release).answer 0 []) :=
  congrArg Host.Outcome.next (if_neg sound)

theorem exec_ibankLoad {c : CoreId} {bank : Bool} {a : BitVec 16} {ws : List W32} (free : (s.core c).st = .idle ∨ (s.core c).bank ≠ bank) :
    exec (.ibankLoad c bank a ws) s = .next ((s.setCore c ((s.core c).loadBank bank a.toNat ws)).answer 0 []) := by
  refine congrArg Host.Outcome.next (if_neg ?_)
  rintro ⟨started, active⟩
  exact free.elim started fun h => h active

end

/-- Settles O19: the transitions of Table 5.20 one by one. -/
theorem coreControl : Obligations.CoreControl := by
  intro s c k
  refine ⟨fun bank entry x idle short => ?start, fun bank entry x started => congrArg Host.Outcome.next (if_neg started), fun run => ?hold,
    fun held due replaying => ?release, fun replay => ?holdReplay, fun held due => ?releaseReplay, fun started busy => ?stop,
    fun faulted => congrArg Host.Outcome.next (if_pos faulted), fun started queue sigs => ?drained, fun bank a w free => ?load,
    fun bank a ws started active => congrArg Host.Outcome.next (if_pos ⟨started, active⟩)⟩
  case start =>
    obtain ⟨xs, args⟩ := CoreState.putFrom_frame x k 0
    refine ⟨_, exec_coreStart idle, ?_⟩
    rw [State.core_answer, State.core_setCore_self, CoreState.start, CoreState.setArgs_eq]
    have reads (i : Nat) (inside : i < x.length) := CoreState.getX_putFrom x k 0 i (by omega) inside
    rw [args] at reads ⊢
    refine ⟨by simp [CoreState.markStep], rfl, rfl, rfl, fun i inside => ?_, rfl, rfl, rfl⟩
    have read := reads i inside
    rw [Nat.zero_add] at read
    exact read
  case hold => exact congrArg (fun k' => Host.Outcome.next (s.setCore c k')) (CoreState.hold_of_run run)
  case holdReplay => exact congrArg (fun k' => Host.Outcome.next (s.setCore c k')) (CoreState.hold_of_replay replay)
  case release =>
    have fresh : ¬(k.replayDue = true ∨ k.replaying = true) := by simp [due, replaying]
    have release : k.release = { k with st := .run } := by rw [CoreState.release_of_held held, if_neg fresh]
    exact (exec_coreRelease (by rw [held]; decide)).trans (congrArg (fun k' => Host.Outcome.next ((s.setCore c k').answer 0 [])) release)
  case releaseReplay =>
    have release : k.release = { k with st := .replay } := by rw [CoreState.release_of_held held, if_pos due]
    exact (exec_coreRelease (by rw [held]; decide)).trans (congrArg (fun k' => Host.Outcome.next ((s.setCore c k').answer 0 [])) release)
  case stop => rw [exec_coreStop started, State.settle_of_busy]; simpa using busy
  case drained =>
    refine ⟨_, (exec_coreStop started).trans (congrArg _ (State.settle_of_stopped ?_ ?_ ?_ ?_)), ?_, ?_, ?_, ?_⟩
    all_goals simp [k, (queue : (s.core c).queue = []), (sigs : (s.core c).sigs = [])]
  case load =>
    refine ⟨_, exec_ibankLoad free, ?_⟩
    rw [State.core_answer, State.core_setCore_self]
    cases bank <;> simp [CoreState.loadBank, a.isLt, k]

/-- A core in RUN with an operating-point hint, and a replay due. -/
def hintedReplay : State := State.reset.setCore 0 { CoreState.reset with st := .run, replayDue := true, hint := some (0, 0) }

/-- Refutes O20: entering REPLAY drops the core's operating-point hint, and the statement keeps it. -/
theorem not_stepReplay : ¬ Obligations.StepReplay := by
  rintro ⟨start, -⟩
  obtain ⟨enters, -⟩ := start hintedReplay 0 (by decide +kernel) (by decide +kernel)
  have dropped : (hintedReplay.setCore (0 : CoreId) { hintedReplay.core (0 : CoreId) with
      st := .replay, replayDue := false, replaying := true, restored := false, doneReq := none }).core (0 : CoreId) = _ :=
    congrArg (fun t => State.core t (0 : CoreId)) (Host.Outcome.next.inj (enters (by decide +kernel) (by decide +kernel))).symm
  exact absurd (congrArg CoreState.hint dropped) (by decide +kernel)

end Sys2Proof.Machine

/-! PROOFS. Scratchpad writes and gather buffers (R137, R138). -/

namespace Sys2Proof.Machine

section

variable {k : CoreState} {a n port : Nat} {bs : List Byte} {g : GatherEntry} {s : State} {c : CoreId} {e : Eng}

/-! ### Runs of bytes -/

theorem Memory.writeL_append (xs ys : List Byte) : ∀ (m : Memory) (a : Nat),
    Memory.writeL m a (xs ++ ys) = Memory.writeL (Memory.writeL m a xs) (a + xs.length) ys := by
  induction xs with
  | nil => exact fun _ _ => rfl
  | cons x xs ih =>
    intro m a
    rw [List.cons_append, Memory.writeL, Memory.writeL, ih, List.length_cons, Nat.add_right_comm, Nat.add_assoc]

/-- Where no lane has wrong parity a run is its bytes, one after the other. -/
theorem CoreState.spWrite_of_sound (fuel : Nat) : ∀ (k : CoreState) (a : Nat) (bs : List Byte), k.badLanes = [] → bs.length ≤ fuel →
    k.spWrite fuel a bs = ({ k with sp := Memory.writeL k.sp a bs }, none) := by
  induction fuel with
  | zero =>
    intro k a bs _ short
    obtain rfl := List.length_eq_zero_iff.1 (Nat.le_zero.1 short)
    rfl
  | succ fuel ih =>
    intro k a bs sound short
    unfold CoreState.spWrite
    split
    · next empty =>
      obtain rfl := List.isEmpty_iff.1 empty
      rfl
    · next more =>
      have pos : 0 < bs.length := List.length_pos_iff.2 fun h => more (by simp [h])
      have whole (n : Nat) : k.partlyBad a n = false := by simp [CoreState.partlyBad, sound, Sparse.get]
      have clean (m : Memory) (n : Nat) : CoreState.cleanLanes { k with sp := m } a n = { k with sp := m } := by
        simp [CoreState.cleanLanes, sound]
      have split := Memory.writeL_append (bs.take (min bs.length (64 - a % 64))) (bs.drop (min bs.length (64 - a % 64))) k.sp a
      rw [List.take_append_drop, List.length_take_of_le (Nat.min_le_left ..)] at split
      dsimp only
      rw [whole, if_neg (by decide), clean, ih, split]
      · exact sound
      · rw [List.length_drop]; omega

/-- What a run of bytes leaves in the scratchpad. -/
theorem CoreState.read_writeL (m : Memory) (a : Nat) (bs : List Byte) :
    (∀ i, i < bs.length → Memory.read (Memory.writeL m a bs) (a + i) = bs.getD i 0) ∧
      ∀ x, x < a ∨ a + bs.length ≤ x → Memory.read (Memory.writeL m a bs) x = Memory.read m x :=
  ⟨fun _ inside => Memory.read_writeL_inside bs m a _ inside, fun _ outside => Memory.read_writeL_outside bs m a _ outside⟩

/-! ### Gather buffers -/

/-- A lane of a gathered word of wrong parity that the word covers in part (R138). -/
def CoreState.coversPart (k : CoreState) (g : GatherEntry) (j : Nat) : Prop :=
  Sparse.get k.badLanes false (8 * g.word + j) = true ∧
    (Sparse.inRange g.bytes (64 * g.word + 8 * j) 8).length ≠ 0 ∧ (Sparse.inRange g.bytes (64 * g.word + 8 * j) 8).length ≠ 8

theorem CoreState.any_coversPart_iff : ((List.range 8).any fun j => Sparse.get k.badLanes false (8 * g.word + j) &&
      decide ((Sparse.inRange g.bytes (64 * g.word + 8 * j) 8).length ≠ 0) &&
      decide ((Sparse.inRange g.bytes (64 * g.word + 8 * j) 8).length ≠ 8)) = true ↔ ∃ j, j < 8 ∧ k.coversPart g j := by
  simp [CoreState.coversPart, and_assoc]

/-- A gathered word that covers every lane of wrong parity whole is written. -/
theorem CoreState.drainEntry_of_whole (whole : ∀ j, j < 8 → ¬k.coversPart g j) : ∃ bad,
    k.drainEntry port g = ({ k with sp := g.bytes.foldl (fun m p => Memory.write m p.1 p.2) k.sp, badLanes := bad }, false) := by
  have none : ¬∃ j, j < 8 ∧ k.coversPart g j := fun ⟨j, inside, part⟩ => whole j inside part
  have lanes (p : Nat → Prop) [DecidablePred p] (js : List Nat) : ∀ k' : CoreState, ∃ bad,
      js.foldl (fun k j => if p j then { k with badLanes := Sparse.erase k.badLanes (8 * g.word + j) } else k) k' = { k' with badLanes := bad } := by
    induction js with
    | nil => exact fun k' => ⟨k'.badLanes, rfl⟩
    | cons j js ih =>
      intro k'
      rw [List.foldl_cons]
      split
      · obtain ⟨bad, rest⟩ := ih { k' with badLanes := Sparse.erase k'.badLanes (8 * g.word + j) }
        exact ⟨bad, rest⟩
      · exact ih k'
  obtain ⟨bad, lanes⟩ := lanes (fun j => (Sparse.inRange g.bytes (64 * g.word + 8 * j) 8).length = 8) (List.range 8)
    { k with sp := g.bytes.foldl (fun m p => Memory.write m p.1 p.2) k.sp }
  refine ⟨bad, ?_⟩
  unfold CoreState.drainEntry
  dsimp only
  rw [if_neg (fun h => none (CoreState.any_coversPart_iff.1 h)), lanes]

/-- One that covers such a lane in part is not. -/
theorem CoreState.drainEntry_of_part (part : ∃ j, j < 8 ∧ k.coversPart g j) :
    k.drainEntry port g = (k.noteParity port (64 * g.word) false, true) :=
  if_pos (CoreState.any_coversPart_iff.2 part)

/-- Bytes written one after the other: the last of an address stands. -/
theorem Memory.read_foldl_write_ne {x : Nat} (ps : List (Nat × Byte)) (other : ∀ q ∈ ps, q.1 ≠ x) : ∀ m : Memory,
    Memory.read (ps.foldl (fun m p => Memory.write m p.1 p.2) m) x = Memory.read m x := by
  induction ps with
  | nil => exact fun _ => rfl
  | cons p ps ih =>
    intro m
    rw [List.foldl_cons, ih (fun q h => other q (List.mem_cons_of_mem _ h)),
      Memory.read_write_ne _ _ (other p List.mem_cons_self).symm]

theorem Memory.read_foldl_write (as bs : List (Nat × Byte)) (p : Nat × Byte) (last : ∀ q ∈ bs, q.1 ≠ p.1) (m : Memory) :
    Memory.read ((as ++ p :: bs).foldl (fun m p => Memory.write m p.1 p.2) m) p.1 = p.2 := by
  rw [List.foldl_append, List.foldl_cons, Memory.read_foldl_write_ne bs last, Memory.read_write_self]

/-- A command whose buffered write met a parity error is finished with a fault (R138). -/
theorem CoreState.parityEntry_of_owner {id : Nat} {q : QEntry} (member : q ∈ (k.parityEntry id a).queue) (owner : q.id = id) :
    ∃ f x, q.st = .finished f x ∧ f ≠ 0 := by
  obtain ⟨q', -, rfl⟩ := List.mem_map.1 member
  split at owner
  · next own =>
    rw [if_pos own]
    split
    · next f x finished =>
      split
      · exact ⟨_, _, rfl, by decide⟩
      · next bad => exact ⟨f, x, finished, bad⟩
    · exact ⟨_, _, rfl, by decide⟩
  · next other => exact absurd owner other

theorem CoreState.noteParity_frame (k : CoreState) (port a : Nat) (latent : Bool) :
    ∃ w b, k.noteParity port a latent = { k with win := w, bankErrs := b } := ⟨_, _, rfl⟩

theorem CoreState.parityEntry_frame (k : CoreState) (id a : Nat) : ∃ q, k.parityEntry id a = { k with queue := q } := ⟨_, rfl⟩

theorem CoreState.flushOne_of_entry {rest : List GatherEntry} (oldest : Sparse.get k.gather [] port = g :: rest) :
    k.flushOne port = let r := CoreState.drainEntry { k with gather := Sparse.set k.gather [] port rest } port g
      if r.2 then r.1.parityEntry g.owner (64 * g.word) else r.1 := by
  simp only [CoreState.flushOne, oldest]

end

/-- Settles O22: a flush writes its word whole or not at all, and a run of bytes on sound lanes is its bytes. -/
theorem scratchpadWrites : Obligations.ScratchpadWrites := by
  refine ⟨fun s c e g rest oldest => ⟨fun whole => ?whole, fun part => ?part⟩, fun s c e empty => ?empty, fun k a bs sound => ?sound,
    fun k a bs more bad => ?bad⟩
  case whole =>
    obtain ⟨bad, drained⟩ := CoreState.drainEntry_of_whole (port := portOf e) (g := g)
      (k := { s.core c with gather := Sparse.set (s.core c).gather [] (portOf e) rest }) whole
    refine ⟨_, rfl, ?_⟩
    rw [State.core_updCore_self, CoreState.flushOne_of_entry oldest, drained]
    dsimp only
    rw [if_neg (by decide)]
    exact ⟨Sparse.get_set_self _ _ _ _, fun as p bs bytes last => by rw [bytes]; exact Memory.read_foldl_write as bs p last _,
      fun a other => Memory.read_foldl_write_ne _ other _, rfl, rfl, rfl⟩
  case part =>
    refine ⟨_, rfl, ?_⟩
    have drained := CoreState.drainEntry_of_part (port := portOf e) (g := g)
      (k := { s.core c with gather := Sparse.set (s.core c).gather [] (portOf e) rest }) part
    have flushed : (s.core c).flushOne (portOf e) = (CoreState.noteParity { s.core c with
        gather := Sparse.set (s.core c).gather [] (portOf e) rest } (portOf e) (64 * g.word) false).parityEntry g.owner (64 * g.word) := by
      rw [CoreState.flushOne_of_entry oldest, drained]; rfl
    rw [State.core_updCore_self, flushed]
    obtain ⟨w, b, noted⟩ := CoreState.noteParity_frame { s.core c with gather := Sparse.set (s.core c).gather [] (portOf e) rest }
      (portOf e) (64 * g.word) false
    rw [noted]
    exact ⟨Sparse.get_set_self _ _ _ _, rfl, fun q member owner => CoreState.parityEntry_of_owner member owner⟩
  case empty =>
    have same : (s.core c).flushOne (portOf e) = s.core c := by simp only [CoreState.flushOne, empty]
    exact congrArg (fun k => Host.Outcome.next (s.setCore c k)) same
  case sound =>
    intro r
    have run : r = ({ k with sp := Memory.writeL k.sp a bs }, none) := CoreState.spWrite_of_sound _ k a bs sound (Nat.le_refl _)
    obtain ⟨inside, outside⟩ := CoreState.read_writeL k.sp a bs
    rw [run]
    exact ⟨rfl, inside, outside, fun wf => Memory.wf_writeL bs a wf, rfl, rfl⟩
  case bad =>
    obtain ⟨b, bs, rfl⟩ := List.exists_cons_of_ne_nil more
    show CoreState.spWrite k (bs.length + 1) a (b :: bs) = _
    rw [CoreState.spWrite, if_neg (by simp)]
    exact if_pos bad

end Sys2Proof.Machine

/-! PROOFS. Registers in the window space of a core, and memories rewritten from their own listing (R131, R132). -/

namespace Sys2Proof.Machine

section

variable {m : Memory} {a b n p v x : Nat} {w : W32} {k : CoreState}

@[simp] theorem leBytes_length (n : Nat) : ∀ v, (leBytes n v).length = n := by
  induction n with
  | zero => exact fun _ => rfl
  | succ n ih => exact fun v => by simp [leBytes, ih]

theorem leNat_leBytes (n : Nat) : ∀ v, leNat (leBytes n v) = v % 256 ^ n := by
  induction n with
  | zero => exact fun v => by simp [leBytes, leNat, Nat.mod_one]
  | succ n ih =>
    intro v
    have byte : (BitVec.ofNat 8 v).toNat = v % 256 := BitVec.toNat_ofNat ..
    rw [leBytes, leNat, ih, byte, Nat.pow_succ', Nat.mod_mul]

theorem Win.read_writeL_outside (bs : List Byte) : ∀ (m : Memory) (a x : Nat), x < a ∨ a + bs.length ≤ x →
    Win.read (Win.writeL m a bs) x = Win.read m x := by
  induction bs with
  | nil => exact fun _ _ _ _ => rfl
  | cons b bs ih =>
    intro m a x outside
    simp only [List.length_cons] at outside
    rw [Win.writeL, ih _ _ _ (by omega), Win.read_write_ne _ _ (by omega)]

theorem Win.readN_writeL_self (bs : List Byte) : ∀ (m : Memory) (a : Nat), Win.readN (Win.writeL m a bs) a bs.length = bs := by
  induction bs with
  | nil => exact fun _ _ => rfl
  | cons b bs ih =>
    intro m a
    rw [Win.writeL, List.length_cons, Win.readN, ih, Win.read_writeL_outside _ _ _ _ (.inl (Nat.lt_succ_self a)), Win.read_write_self]

theorem Win.readN_congr {m m' : Memory} (same : ∀ x, a ≤ x → x < a + n → Win.read m x = Win.read m' x) : Win.readN m a n = Win.readN m' a n := by
  induction n generalizing a with
  | zero => rfl
  | succ n ih =>
    rw [Win.readN, Win.readN, same a (Nat.le_refl a) (by omega), ih fun x low high => same x (by omega) (by omega)]

/-- A register reads back as it was written. -/
theorem Win.getN_putN_self (small : v < 256 ^ n) : Win.getN (Win.putN m a n v) a n = v := by
  have bytes := Win.readN_writeL_self (leBytes n v) m a
  rw [leBytes_length] at bytes
  rw [Win.getN, Win.putN, bytes, leNat_leBytes, Nat.mod_eq_of_lt small]

theorem Win.read_putN_ne (apart : x < a ∨ a + n ≤ x) : Win.read (Win.putN m a n v) x = Win.read m x :=
  Win.read_writeL_outside _ _ _ _ (by rwa [leBytes_length])

theorem Win.getN_putN_ne (apart : b + p ≤ a ∨ a + n ≤ b) : Win.getN (Win.putN m a n v) b p = Win.getN m b p :=
  congrArg leNat (Win.readN_congr fun x low high => Win.read_putN_ne (by omega))

theorem CoreState.w32_putW32_self : (k.putW32 a w).w32 a = w := by
  rw [CoreState.w32, CoreState.putW32, Win.getN_putN_self (n := 4) w.isLt, BitVec.ofNat_toNat, BitVec.setWidth_eq]

theorem CoreState.w32_putW32_ne (apart : b + 4 ≤ a ∨ a + 4 ≤ b) : (k.putW32 a w).w32 b = k.w32 b := by
  rw [CoreState.w32, CoreState.putW32, Win.getN_putN_ne apart, CoreState.w32]

/-! ### Memories by their listing -/

theorem Sparse.find?_filter {α : Type} (q : Nat → Bool) (k : Nat) : ∀ m : Sparse α,
    Sparse.find? (m.filter fun e => q e.1) k = if q k then Sparse.find? m k else none := by
  intro m
  induction m with
  | nil => simp
  | cons e m ih =>
    obtain ⟨j, v⟩ := e
    rw [List.filter_cons]
    rcases eq_or_ne j k with rfl | other
    · cases h : q j <;> simp [Sparse.find?, h, ih]
    · split
      · simp [Sparse.find?, other, ih]
      · simp [Sparse.find?, other, ih]

theorem Memory.read_clearRange (m : Memory) (a n x : Nat) :
    Memory.read (Sparse.clearRange m a n) x = if a ≤ x ∧ x < a + n then 0 else Memory.read m x := by
  have found := Sparse.find?_filter (fun y => decide ¬(a ≤ y ∧ y < a + n)) x m
  unfold Memory.read Sparse.get Sparse.clearRange
  rw [found]
  by_cases h : a ≤ x ∧ x < a + n <;> simp [h]

/-- Strictly rising keys are distinct. -/
theorem Sparse.keys_of_wfFrom {α : Type} [DecidableEq α] {d : Nat → α} : ∀ {m : Sparse α} {lo : Nat}, Sparse.wfFrom d lo m = true →
    (∀ e ∈ m, lo ≤ e.1) ∧ m.Pairwise fun e f => e.1 ≠ f.1 := by
  intro m
  induction m with
  | nil => exact fun _ => ⟨by simp, List.Pairwise.nil⟩
  | cons e m ih =>
    intro lo wf
    simp only [Sparse.wfFrom, Bool.and_eq_true, decide_eq_true_eq] at wf
    obtain ⟨⟨low, -⟩, rest⟩ := wf
    obtain ⟨above, apart⟩ := ih rest
    refine ⟨fun f member => ?_, List.pairwise_cons.2 ⟨fun f member => ?_, apart⟩⟩
    · rcases List.mem_cons.1 member with rfl | later
      · exact low
      · have := above f later; omega
    · have := above f member; omega

/-- Entries with distinct keys written one after the other. -/
theorem Memory.read_writes (es : List (Nat × Byte)) (apart : es.Pairwise fun e f => e.1 ≠ f.1) : ∀ (m : Memory) (x : Nat),
    Memory.read (es.foldl (fun m e => Memory.write m e.1 e.2) m) x = (Sparse.find? es x).getD (Memory.read m x) := by
  induction es with
  | nil => exact fun _ _ => rfl
  | cons e es ih =>
    obtain ⟨j, v⟩ := e
    obtain ⟨first, rest⟩ := List.pairwise_cons.1 apart
    intro m x
    rw [List.foldl_cons]
    rcases eq_or_ne x j with rfl | other
    · rw [Memory.read_foldl_write_ne es fun q member => (first q member).symm, Memory.read_write_self]
      simp [Sparse.find?]
    · rw [ih rest, Memory.read_write_ne _ _ other]
      simp [Sparse.find?, Ne.symm other]

/-- A memory whose entries of some keys are written anew where they stood. -/
theorem Memory.read_rewritten (wf : Memory.wf m = true) (q : Nat → Bool) (x : Nat) :
    Memory.read ((m.filter fun e => q e.1).foldl (fun m e => Memory.write m e.1 e.2) (m.filter fun e => !q e.1)) x = Memory.read m x := by
  obtain ⟨-, apart⟩ := Sparse.keys_of_wfFrom wf
  rw [Memory.read_writes _ (apart.filter _), Sparse.find?_filter]
  unfold Memory.read Sparse.get
  rw [Sparse.find?_filter (fun y => !q y)]
  cases q x
  · simp
  · cases Sparse.find? m x <;> simp

end

end Sys2Proof.Machine

/-! PROOFS. Region owners and scrubs, handle invalidation, patrol and spare banks (R141, R142, R146, R157, R158). -/

namespace Sys2Proof.Machine

section

variable {s : State} {k : CoreState} {r : Nat} {v : W32} {c : CoreId}

/-! ### Owners and scrubs -/

theorem CoreState.spown_eq (k : CoreState) (r : Nat) : k.spown r = k.w32 (0x040B0200 + 4 * r) := rfl

theorem CoreState.spown_putW32 (k : CoreState) (r : Nat) (v : W32) : (k.putW32 (0x040B0200 + 4 * r) v).spown r = v :=
  CoreState.w32_putW32_self

/-- Closing accept windows leaves the owners and all but the window registers alone. -/
theorem CoreState.closeWindows_frame (k : CoreState) (r : Nat) : ∃ w, k.closeWindows r = { k with win := w } ∧
    ∀ q, (k.closeWindows r).spown q = k.spown q := by
  unfold CoreState.closeWindows
  refine List.foldlRecOn (motive := fun k' : CoreState => ∃ w, k' = { k with win := w } ∧ ∀ q, k'.spown q = k.spown q) _ _
    ⟨k.win, rfl, fun _ => rfl⟩ fun k' ⟨w, frame, owners⟩ d member => ?_
  dsimp only
  split
  · refine ⟨_, by rw [frame], fun q => Eq.trans ?_ (owners q)⟩
    have direction : d ≤ 4 := by simp at member; omega
    exact congrArg (BitVec.ofNat 32) (Win.getN_putN_ne (.inr (by omega)))
  · exact ⟨w, frame, owners⟩

/-- A region that a first owner gets. -/
theorem CoreState.writeSpown_first (rest : (k.st = .idle ∨ k.st = .held) ∧ k.queue = []) (enabled : bitOf v 31 = true)
    (unowned : Sparse.find? k.lastOwner r = none) (unmarched : Sparse.get k.marched false r = false) :
    k.writeSpown r v = { k.putW32 (0x040B0200 + 4 * r) (BitVec.ofNat 32 (2 ^ 31 + bitAt (Sparse.get k.scrubs false r) 30 + fld v 3 0)) with
      lastOwner := Sparse.insert k.lastOwner r (fld v 3 0) } := by
  unfold CoreState.writeSpown
  dsimp only
  rw [if_pos rest, if_pos enabled, unowned, unmarched]
  rfl

/-- A region that passes to another owner: a scrub begins, and the handles are dropped. -/
theorem CoreState.writeSpown_other {p : Nat} (rest : (k.st = .idle ∨ k.st = .held) ∧ k.queue = []) (enabled : bitOf v 31 = true)
    (owned : Sparse.find? k.lastOwner r = some p) (other : p ≠ fld v 3 0) :
    k.writeSpown r v = (CoreState.closeWindows
      { k.putW32 (0x040B0200 + 4 * r) (BitVec.ofNat 32 (2 ^ 31 + 2 ^ 30 + fld v 3 0)) with
        lastOwner := Sparse.insert k.lastOwner r (fld v 3 0), scrubs := Sparse.insert k.scrubs r true } r).dropHandles none := by
  have scrub : (Sparse.get k.marched false r || (decide (some p ≠ none) && decide (some p ≠ some (fld v 3 0)))) = true := by simp [other]
  unfold CoreState.writeSpown
  dsimp only
  rw [if_pos rest, if_pos enabled, owned, scrub]
  rfl

theorem CoreState.writeSpown_of_busy (busy : ¬((k.st = .idle ∨ k.st = .held) ∧ k.queue = [])) : k.writeSpown r v = k := if_neg busy

theorem CoreState.writeSpown_off (rest : (k.st = .idle ∨ k.st = .held) ∧ k.queue = []) (off : bitOf v 31 = false) :
    k.writeSpown r v = k.putW32 (0x040B0200 + 4 * r) (BitVec.ofNat 32 (bitAt (bitOf (k.spown r) 30) 30 + fld v 3 0)) := by
  unfold CoreState.writeSpown
  dsimp only
  rw [if_pos rest, off, if_neg (by decide)]

theorem CoreState.scrubDone_of_scrub (scrub : Sparse.get k.scrubs false r = true) : ∃ sc ma bl w,
    k.scrubDone r = { k with sp := Sparse.clearRange k.sp (r * 0x100000) 0x100000, badLanes := bl, scrubs := sc, marched := ma, win := w } ∧
      (k.scrubDone r).spown r = k.spown r &&& 0xBFFFFFFF := by
  unfold CoreState.scrubDone
  rw [if_pos scrub]
  exact ⟨_, _, _, _, rfl, CoreState.spown_putW32 _ _ _⟩

/-! ### Spare banks -/

theorem CoreState.bankCells_bytes (k : CoreState) (b : Nat) : (k.bankCells b).bytes =
    (k.sp.filter fun e => decide (e.1 / 64 % 64 = b)).map fun e => (e.1 / 4096 * 64 + e.1 % 64, e.2) := rfl

/-- A bank's own contents put back at its addresses. -/
theorem CoreState.read_putBank_self (wf : Memory.wf k.sp = true) {b : Nat} {cells : BankCells}
    (own : cells.bytes = (k.bankCells b).bytes) (x : Nat) : Memory.read (k.putBank b cells).sp x = Memory.read k.sp x := by
  have place : ∀ e ∈ k.sp.filter (fun e => decide (e.1 / 64 % 64 = b)),
      4096 * ((e.1 / 4096 * 64 + e.1 % 64) / 64) + 64 * b + (e.1 / 4096 * 64 + e.1 % 64) % 64 = e.1 := by
    intro e member
    have bank : e.1 / 64 % 64 = b := by simpa using (List.mem_filter.1 member).2
    omega
  have put : (k.putBank b cells).sp =
      (k.sp.filter fun e => decide (e.1 / 64 % 64 = b)).foldl (fun m e => Memory.write m e.1 e.2)
        (k.sp.filter fun e => !decide (e.1 / 64 % 64 = b)) := by
    unfold CoreState.putBank
    dsimp only
    rw [own, CoreState.bankCells_bytes, List.foldl_map, List.foldl_ext _ _ _ fun m e member => by rw [place e member]]
    simp only [decide_not]
  rw [put]
  exact Memory.read_rewritten wf (fun a => decide (a / 64 % 64 = b)) x

/-- Two searches whose predicates differ at one place only, where the first does not hold. -/
theorem find?_eq_or_some {p q : Nat → Bool} {i : Nat} (same : ∀ j, j ≠ i → q j = p j) (not : p i = false) : ∀ l : List Nat,
    l.find? q = l.find? p ∨ l.find? q = some i := by
  intro l
  induction l with
  | nil => exact .inl rfl
  | cons j l ih =>
    rw [List.find?_cons, List.find?_cons]
    rcases eq_or_ne j i with rfl | other
    · rw [not]
      cases q j
      · exact ih
      · exact .inr rfl
    · rw [same j other]
      cases p j
      · exact ih
      · exact .inl rfl

theorem CoreState.exchange_frame (k : CoreState) (b x y : Nat) :
    ∃ sp bl hid, k.exchange b x y = { k with sp := sp, badLanes := bl, hidden := hid } := by
  unfold CoreState.exchange
  split
  · exact ⟨_, _, _, rfl⟩
  · exact ⟨_, _, _, rfl⟩

/-- A bank served by another bank that holds a copy of it reads as before. -/
theorem CoreState.read_exchange (wf : Memory.wf k.sp = true) {b x y : Nat}
    (copy : x ≠ y → (k.hiddenOf y).bytes = (k.bankCells b).bytes) (a : Nat) :
    Memory.read (k.exchange b x y).sp a = Memory.read k.sp a := by
  unfold CoreState.exchange
  split
  · rfl
  · next differ =>
    have kept : CoreState.hiddenOf { k with hidden := Sparse.set k.hidden BankCells.empty x (k.bankCells b) } y = k.hiddenOf y :=
      Sparse.get_set_ne _ _ _ _ (Ne.symm differ)
    dsimp only
    rw [kept]
    exact CoreState.read_putBank_self (k := { k with hidden := Sparse.set k.hidden BankCells.empty x (k.bankCells b) }) wf (copy differ) a

/-- SPSPARE as a swap writes it. -/
theorem spspare_value (b : Fin 64) : bitOf (BitVec.ofNat 32 (2 ^ 31 + b.val) &&& 0x8000003F) 31 = true ∧
    fld (BitVec.ofNat 32 (2 ^ 31 + b.val) &&& 0x8000003F) 5 0 = b.val ∧ fld (BitVec.ofNat 32 (2 ^ 31 + b.val)) 5 0 = b.val := by
  revert b; decide

/-- A spare that holds a copy of a bank takes its place: the register names the bank, and every address reads as before (R132, R158). -/
theorem CoreState.writeSpare_of_copy (wf : Memory.wf k.sp = true) (i : Fin 4) (b : Fin 64) (off : bitOf (k.spspare i) 31 = false)
    (copy : (k.hiddenOf (64 + i)).bytes = (k.bankCells b).bytes) :
    ∃ sp bl hid w, k.writeSpare i (BitVec.ofNat 32 (2 ^ 31 + b.val)) = { k with sp := sp, badLanes := bl, hidden := hid, win := w } ∧
      (∀ a, Memory.read sp a = Memory.read k.sp a) ∧
      (k.writeSpare i (BitVec.ofNat 32 (2 ^ 31 + b.val))).spspare i = BitVec.ofNat 32 (2 ^ 31 + b.val) &&& 0x8000003F := by
  obtain ⟨on, names, field⟩ := spspare_value b
  have new : (k.putW32 (0x040B0300 + 4 * i.val) (BitVec.ofNat 32 (2 ^ 31 + b.val) &&& 0x8000003F)).spspare i =
      BitVec.ofNat 32 (2 ^ 31 + b.val) &&& 0x8000003F := CoreState.w32_putW32_self
  have others (j : Nat) (other : j ≠ i.val) :
      (k.putW32 (0x040B0300 + 4 * i.val) (BitVec.ofNat 32 (2 ^ 31 + b.val) &&& 0x8000003F)).spspare j = k.spspare j :=
    CoreState.w32_putW32_ne (by omega)
  have frame : ∃ w, k.putW32 (0x040B0300 + 4 * i.val) (BitVec.ofNat 32 (2 ^ 31 + b.val) &&& 0x8000003F) = { k with win := w } := ⟨_, rfl⟩
  unfold CoreState.writeSpare
  dsimp only
  rw [field]
  generalize k.putW32 (0x040B0300 + 4 * i.val) (BitVec.ofNat 32 (2 ^ 31 + b.val) &&& 0x8000003F) = k1 at new others frame ⊢
  obtain ⟨w, rfl⟩ := frame
  have served (a : Nat) : CoreState.servedBy { k with win := w } a = k.servedBy a ∨
      (a = b.val ∧ CoreState.servedBy { k with win := w } a = 64 + i.val) := by
    rcases eq_or_ne a b.val with rfl | other
    · have search := find?_eq_or_some (i := i.val) (p := fun j => bitOf (k.spspare j) 31 && decide (fld (k.spspare j) 5 0 = b.val))
        (q := fun j => bitOf (CoreState.spspare { k with win := w } j) 31 && decide (fld (CoreState.spspare { k with win := w } j) 5 0 = b.val))
        (fun j other => by rw [others j other]) (by rw [off]; rfl) (List.range 4)
      unfold CoreState.servedBy
      rcases search with same | found
      · rw [same]; exact .inl rfl
      · rw [found]; exact .inr ⟨rfl, rfl⟩
    · have same (j : Nat) : (bitOf (CoreState.spspare { k with win := w } j) 31 && decide (fld (CoreState.spspare { k with win := w } j) 5 0 = a)) =
          (bitOf (k.spspare j) 31 && decide (fld (k.spspare j) 5 0 = a)) := by
        rcases eq_or_ne j i.val with rfl | j'
        · rw [new, off, names, decide_eq_false (Ne.symm other), Bool.and_false, Bool.false_and]
        · rw [others j j']
      left
      unfold CoreState.servedBy
      simp only [same]
  have placed : ∃ sp bl hid, CoreState.exchange { k with win := w } b (k.servedBy b) (CoreState.servedBy { k with win := w } b) =
      { k with win := w, sp := sp, badLanes := bl, hidden := hid } ∧ ∀ a, Memory.read sp a = Memory.read k.sp a := by
    obtain ⟨sp, bl, hid, e⟩ := CoreState.exchange_frame { k with win := w } b (k.servedBy b) (CoreState.servedBy { k with win := w } b)
    refine ⟨sp, bl, hid, e, fun a => ?_⟩
    have reads := CoreState.read_exchange (k := { k with win := w }) (b := b) (x := k.servedBy b)
      (y := CoreState.servedBy { k with win := w } b) wf (fun differ => ?_) a
    · rw [e] at reads; exact reads
    · rcases served b with same | ⟨-, spare⟩
      · exact absurd same.symm differ
      · rw [spare]; exact copy
  obtain ⟨sp, bl, hid, placed, reads⟩ := placed
  by_cases same : b.val = fld (k.spspare i) 5 0
  · rw [if_pos same, ← same, placed]
    exact ⟨sp, bl, hid, w, rfl, reads, new⟩
  · have stays : CoreState.exchange { k with win := w } (fld (k.spspare i) 5 0) (k.servedBy (fld (k.spspare i) 5 0))
        (CoreState.servedBy { k with win := w } (fld (k.spspare i) 5 0)) = { k with win := w } := by
      rcases served (fld (k.spspare i) 5 0) with unchanged | ⟨h, -⟩
      · exact if_pos unchanged.symm
      · exact absurd h.symm same
    rw [if_neg same, stays, placed]
    exact ⟨sp, bl, hid, w, rfl, reads, new⟩

/-- A handle dropped leaves the other cached handles (R146). -/
theorem CoreState.mem_cache_dropHandles {h : Nat} {e : Eng} {x : Nat × W128} (member : x ∈ (k.dropHandles (some h)).cache e) :
    x ∈ k.cache e ∧ x.1 ≠ h := by
  cases e <;> simpa [CoreState.dropHandles, CoreState.cache] using member

/-- Noting failing words changes SPERR and the counts of the banks' errors. -/
theorem CoreState.noteCopy_frame (k : CoreState) (b : Nat) : ∃ w be, k.noteCopy b = { k with win := w, bankErrs := be } ∧
    ∀ i, (k.noteCopy b).spspare i = k.spspare i := by
  unfold CoreState.noteCopy
  refine List.foldlRecOn (motive := fun k' : CoreState => ∃ w be, k' = { k with win := w, bankErrs := be } ∧ ∀ i, k'.spspare i = k.spspare i)
    _ _ ⟨k.win, k.bankErrs, rfl, fun _ => rfl⟩ fun k' ⟨w, be, frame, spares⟩ a _ => ?_
  exact ⟨_, _, by rw [frame]; rfl, fun i => (congrArg (BitVec.ofNat 32) (Win.getN_putN_ne (.inr (by omega)))).trans (spares i)⟩

theorem State.giveUp_frame (s : State) (kind c u : Nat) : ∃ m, s.giveUp kind c u = { s with maint := m } := by
  unfold State.giveUp
  dsimp only
  split
  · exact ⟨_, rfl⟩
  · exact ⟨s.maint, rfl⟩

end

/-- A held core that nothing holds any longer goes on (R158 step 4). -/
theorem State.releaseCore_of_held {s : State} {c : Nat} (copies : (s.core c).spareCopy = []) (swaps : s.hub.swapHeld = [])
    (rebinds : s.hub.rebinds = []) (held : (s.core c).st = .held) (due : (s.core c).replayDue = false)
    (replaying : (s.core c).replaying = false) : ((s.releaseCore c).core c).st = .run := by
  have may : s.mayRelease c = true := by simp [State.mayRelease, copies, swaps, rebinds]
  rw [State.releaseCore, if_pos may, State.core_updCore_self, CoreState.release, if_pos held]
  simp [due, replaying]

/-- A spare's copy over: the bank's contents in the spare, which takes its place, and the core released (R158 steps 2 to 4). -/
theorem State.exec_copyDone {s : State} {c : CoreId} {i : Fin 4} {b : Nat} (copying : Sparse.find? (s.core c).spareCopy i = some b)
    (rest : (s.core c).atRest = true) (still : (s.core c).st ≠ .replay) :
    exec (.spareBankCopyDone c i) s = .next (((s.setCore c (CoreState.writeSpare { (s.core c).noteCopy b with
        hidden := Sparse.set ((s.core c).noteCopy b).hidden BankCells.empty (64 + i.val) (((s.core c).noteCopy b).bankCells b),
        spareCopy := Sparse.erase ((s.core c).noteCopy b).spareCopy i,
        bankErrs := Sparse.set ((s.core c).noteCopy b).bankErrs 0 b 0 } i (BitVec.ofNat 32 (2 ^ 31 + b)))).releaseCore c).journal
          0xAB 0xFF 0 c.val 0 0 0 (BitVec.ofNat 64 b)) := by
  have ready : ¬((s.core c).atRest = false ∨ (s.core c).st = .replay) := by simp [rest, still]
  show execSpareBankCopyDone c i s = _
  simp only [execSpareBankCopyDone, copying, if_neg ready]

/-- Settles O21: owners, scrubs and handles are window registers; a spare bank takes its place with a copy of the bank. -/
theorem scratchpadOwnership : Obligations.ScratchpadOwnership := by
  intro s c k
  refine ⟨fun r v state drained => ?owner, fun r v busy => ?busy, fun r scrub => ?scrub, fun v all => ?hinv, fun v one => ?hinvOne, ?hinvDone,
    fun b on => ?patrol, fun b off => ?noPatrol, fun i b errors off free => ?swap, fun i b few => ?noSwap,
    fun i b copying rest still off wf => ?copied, fun i waits => ?waits⟩
  case owner =>
    have rest := And.intro state drained
    refine ⟨fun enabled unowned unmarched => ?_, fun p enabled owned other => ?_, fun disabled => ?_⟩
    · refine ⟨_, rfl, ?_⟩
      rw [State.core_updCore_self, CoreState.writeSpown_first rest enabled unowned unmarched]
      exact ⟨rfl, rfl, CoreState.spown_putW32 _ _ _⟩
    · refine ⟨_, rfl, ?_⟩
      rw [State.core_updCore_self, CoreState.writeSpown_other rest enabled owned other]
      obtain ⟨w, frame, owners⟩ := CoreState.closeWindows_frame
        { k.putW32 (0x040B0200 + 4 * r.val) (BitVec.ofNat 32 (2 ^ 31 + 2 ^ 30 + fld v 3 0)) with
          lastOwner := Sparse.insert k.lastOwner r (fld v 3 0), scrubs := Sparse.insert k.scrubs r true } r
      have owner := (owners r).trans (CoreState.spown_putW32 _ _ _)
      rw [frame] at owner ⊢
      exact ⟨owner, by simp [CoreState.dropHandles, Sparse.get, Sparse.find?_insert_self], rfl, rfl, rfl⟩
    · refine ⟨_, rfl, ?_⟩
      rw [State.core_updCore_self, CoreState.writeSpown_off rest disabled]
      exact ⟨rfl, CoreState.spown_putW32 _ _ _⟩
  case busy =>
    refine congrArg (fun k => Host.Outcome.next (s.setCore c k)) (CoreState.writeSpown_of_busy ?_)
    rintro ⟨state, drained⟩
    rcases busy with ⟨notIdle, notHeld⟩ | queue
    · exact state.elim notIdle notHeld
    · exact queue drained
  case scrub =>
    obtain ⟨sc, ma, bl, w, frame, owner⟩ := CoreState.scrubDone_of_scrub (k := k) scrub
    refine ⟨_, rfl, ?_⟩
    rw [State.core_updCore_self]
    refine ⟨?_, fun a low high => ?_, fun a outside => ?_⟩
    · rw [owner, bitOf_eq_getLsbD, BitVec.getLsbD_and]
      simp
    · rw [frame]
      exact (Memory.read_clearRange ..).trans (if_pos ⟨low, by omega⟩)
    · rw [frame]
      exact (Memory.read_clearRange ..).trans (if_neg (by omega))
  case hinv =>
    refine ⟨_, rfl, ?_⟩
    rw [State.core_updCore_self, CoreState.writeHinv, if_pos all]
    exact ⟨CoreState.w32_putW32_self, rfl, rfl, rfl, rfl, rfl, rfl⟩
  case hinvOne =>
    refine ⟨_, rfl, ?_⟩
    rw [State.core_updCore_self, CoreState.writeHinv, if_neg (by simp [one])]
    refine ⟨CoreState.w32_putW32_self, fun e x member => CoreState.mem_cache_dropHandles (k := k) ?_, rfl⟩
    cases e <;> exact member
  case hinvDone =>
    refine ⟨_, rfl, ?_⟩
    rw [State.core_updCore_self]
    exact ⟨CoreState.w32_putW32_self, rfl, rfl⟩
  case patrol =>
    refine ⟨fun sound => ?_, fun failing => ?_⟩
    · exact congrArg Host.Outcome.next ((if_neg on).trans (if_pos sound))
    · refine ⟨_, congrArg Host.Outcome.next ((if_neg on).trans (if_neg failing)), ?_, ?_⟩
      · rw [State.hub_journal]; rfl
      · rw [State.core_journal, State.core_updCore_self, State.core_setCore_self]
  case noPatrol => exact congrArg Host.Outcome.next (if_pos off)
  case swap =>
    obtain ⟨m, gaveUp⟩ := s.giveUp_frame 0 c (64 + i.val)
    have unused : (bitOf ((s.core c).spspare i) 31 || (Sparse.find? (s.core c).spareCopy i).isSome) = false := by
      rw [show bitOf ((s.core c).spspare i) 31 = false from off, show Sparse.find? (s.core c).spareCopy i = none from free]; rfl
    have some : ¬((List.range 4).all fun j => bitOf ((s.core c).spspare j) 31 || (Sparse.find? (s.core c).spareCopy j).isSome) = true := by
      rw [List.all_eq_true]
      exact fun all => absurd ((all i (List.mem_range.2 i.isLt)).symm.trans unused) (by decide)
    have due : ¬Sparse.get (s.core c).bankErrs 0 b.val < 2 := Nat.not_lt.2 errors
    refine ⟨(s.giveUp 0 c (64 + i.val)).updCore c fun x => { x.holdAtMark with spareCopy := Sparse.insert x.spareCopy i b.val }, ?_, ?_, ?_⟩
    · show execSpareBankSwap c i b s = _
      simp only [execSpareBankSwap, if_neg due, if_neg some, unused, Bool.false_eq_true, if_false]
    · rw [State.core_updCore_self, gaveUp]; rfl
    · rw [gaveUp]; rfl
  case noSwap => exact congrArg Host.Outcome.next (if_pos few)
  case copied =>
    have found : Sparse.find? (s.core c).spareCopy i = some b.val := by
      rw [show (s.core c).spareCopy = [(i.val, b.val)] from copying]; simp [Sparse.find?]
    obtain ⟨w, be, noted, spares⟩ := CoreState.noteCopy_frame (s.core c) b.val
    obtain ⟨sp, bl, hid, w', placed, reads, register⟩ := CoreState.writeSpare_of_copy
      (k := { (s.core c).noteCopy b with
        hidden := Sparse.set ((s.core c).noteCopy b).hidden BankCells.empty (64 + i.val) (((s.core c).noteCopy b).bankCells b),
        spareCopy := Sparse.erase ((s.core c).noteCopy b).spareCopy i,
        bankErrs := Sparse.set ((s.core c).noteCopy b).bankErrs 0 b.val 0 })
      (by rw [noted]; exact wf) i b ((congrArg (bitOf · 31) (spares i)).trans off)
      (congrArg BankCells.bytes (Sparse.get_set_self _ _ _ _))
    obtain ⟨on, names, -⟩ := spspare_value b
    obtain ⟨-, st, h, released⟩ := State.releaseCore_effect (s.setCore c (CoreState.writeSpare { (s.core c).noteCopy b.val with
      hidden := Sparse.set ((s.core c).noteCopy b).hidden BankCells.empty (64 + i.val) (((s.core c).noteCopy b).bankCells b),
      spareCopy := Sparse.erase ((s.core c).noteCopy b).spareCopy i,
      bankErrs := Sparse.set ((s.core c).noteCopy b).bankErrs 0 b.val 0 } i (BitVec.ofNat 32 (2 ^ 31 + b.val)))) c
    have erased : Sparse.erase ((s.core c).noteCopy b).spareCopy i = [] := by
      rw [noted]; show Sparse.erase (s.core c).spareCopy i = []
      rw [show (s.core c).spareCopy = [(i.val, b.val)] from copying]; simp [Sparse.erase]
    refine ⟨_, State.exec_copyDone found rest still, ?_⟩
    rw [State.core_journal]
    refine ⟨?_, ?_, ?_, ?_, ?_⟩
    · rw [released, State.core_setCore_self, placed]; exact erased
    · rw [released, State.core_setCore_self]; exact (congrArg (bitOf · 31) register).trans on
    · rw [released, State.core_setCore_self]; exact (congrArg (fld · 5 0) register).trans names
    · rw [released, State.core_setCore_self, placed]; intro a; exact (reads a).trans (by rw [noted])
    · intro held due replaying swaps rebinds
      refine State.releaseCore_of_held ?_ swaps rebinds ?_ ?_ ?_
      · rw [State.core_setCore_self, placed]; exact erased
      · rw [State.core_setCore_self, placed]; exact (congrArg CoreState.st noted).trans held
      · rw [State.core_setCore_self, placed]; exact (congrArg CoreState.replayDue noted).trans due
      · rw [State.core_setCore_self, placed]; exact (congrArg CoreState.replaying noted).trans replaying
  case waits =>
    show execSpareBankCopyDone c i s = _
    unfold execSpareBankCopyDone
    rcases waits with busy | none
    · split
      · rfl
      · rw [if_pos (.inl busy)]
    · simp only [show Sparse.find? (s.core c).spareCopy i = Option.none from none]

end Sys2Proof.Machine

/-! PROOFS. Neighbour arrivals and their acknowledgement; completions, fault records and time limits (R109, R110, R117, R120, R127). -/

namespace Sys2Proof.Machine

/-! ### The trace buffer -/

/-- A trace record, or the drop of one, touches the trace, the pools asked for and the journal of the hub only. -/
theorem State.hub_traceEv_frame (s : State) (c en : Nat) (tag : BitVec 16) (slot event : Nat) (data : W32) :
    ∃ tr ask drops j q o iq a ac ai, (s.traceEv c en tag slot event data).hub = { s.hub with
      trace := tr, poolAsk := ask, traceDrops := drops, journal := j, seq := q, overwritten := o, islandQ := iq, unacked := a,
      arrayChecks := ac, arrayInfs := ai } := by
  unfold State.traceEv
  dsimp only
  split
  · split
    · exact ⟨_, _, _, _, _, _, _, _, _, _, rfl⟩
    · split
      · rw [State.hub_journal]; exact ⟨_, _, _, _, _, _, _, _, _, _, rfl⟩
      · exact ⟨_, _, _, _, _, _, _, _, _, _, rfl⟩
  · exact ⟨_, _, _, _, _, _, _, _, _, _, rfl⟩

theorem State.hub_traceEv_invs (s : State) (c en : Nat) (tag : BitVec 16) (slot event : Nat) (data : W32) :
    (s.traceEv c en tag slot event data).hub.invs = s.hub.invs := by
  obtain ⟨_, _, _, _, _, _, _, _, _, _, e⟩ := s.hub_traceEv_frame c en tag slot event data
  rw [e]

/-! ### Counters -/

/-- An increment that finds no debt and stays in range (R109, R154). -/
theorem CoreState.addAc_of_fits {k : CoreState} {i n : Nat} (tag : BitVec 16) (dir : Nat) (debt : k.getDebt i = 0)
    (fits : k.getAc i + n < 2 ^ 24) : k.addAc i n tag dir = k.putAc i (k.getAc i + n) := by
  have fits' : k.getAc i + (n - min 0 n) < 2 ^ 24 := by simpa using fits
  simp only [CoreState.addAc, debt, if_pos fits']
  simp

/-! ### Neighbour messages -/

/-- The only message on its way, an arrival not yet delivered, is the one that comes next. -/
theorem find?_undelivered {m : NbMsg} {o : Nat} {src : Option Nat} (dst : m.dst = o) (from_ : some m.src = src) (kind : m.kind = .arrive)
    (fresh : m.arrived = false) (sound : m.refused = false) :
    [m].find? (fun m => decide (m.dst = o) && decide (some m.src = src) && decide (m.kind ≠ .rollback) && !m.arrived && !m.refused) =
      some m := by
  simp [dst, from_, kind, fresh, sound]

theorem exec_neighbourArrival_of_admitted {s : State} {o : CoreId} {d : Dir} {m : NbMsg} (only : s.nb = [m]) (dst : m.dst = o.val)
    (from_ : some m.src = neighbour o d) (kind : m.kind = .arrive) (fresh : m.arrived = false) (sound : m.refused = false)
    (admitted : s.admitsArrival o m.src m.part m.ac = true) :
    let t := { s with nb := [{ m with arrived := true }] }.updCore o fun k => k.addAc m.ac m.amount m.tag (dirNum d)
    exec (.neighbourArrival o d) s =
      .next (if m.inStep then t.updCore m.src fun k => k.ledgerOut (dirNum (dirBack d)) m.ac m.amount else t) := by
  show execNeighbourArrival o d s = _
  simp only [execNeighbourArrival, only, find?_undelivered dst from_ kind fresh sound, admitted]
  simp [sound]

theorem exec_neighbourArrival_of_refused {s : State} {o : CoreId} {d : Dir} {m : NbMsg} (only : s.nb = [m]) (dst : m.dst = o.val)
    (from_ : some m.src = neighbour o d) (kind : m.kind = .arrive) (fresh : m.arrived = false) (sound : m.refused = false)
    (refused : s.admitsArrival o m.src m.part m.ac = false) :
    exec (.neighbourArrival o d) s = .next ({ s with nb := [{ m with refused := true }] }.updCore o fun k =>
      k.pushFault fNbDenied m.tag 0 (BitVec.ofNat 64 (dirNum d))) := by
  show execNeighbourArrival o d s = _
  simp only [execNeighbourArrival, only, find?_undelivered dst from_ kind fresh sound, refused]
  simp [fresh]

/-- The acknowledgement finishes the command that waits for it. -/
theorem exec_arriveAck_of_executing {s : State} {c : CoreId} {d : Dir} {m : NbMsg} {q : QEntry} (only : s.nb = [m]) (src : m.src = c.val)
    (to_ : some m.dst = neighbour c d) (kind : m.kind = .arrive) (delivered : m.arrived = true ∨ m.refused = true)
    (queue : (s.core c).queue = [q]) (entry : q.id = m.entry) (running : q.st = .executing) :
    ∃ t, exec (.arriveAck c d) s = .next t ∧ t.nb = [] ∧
      (t.core c).queue = [{ q with st := .finished (if m.refused then fNbDenied else 0) 0 }] := by
  have next : s.nb.find? (fun m => decide (m.src = c.val) && decide (some m.dst = neighbour c d) && decide (m.kind ≠ .rollback) &&
      (m.arrived || m.refused)) = some m := by
    simp [only, src, to_, kind, delivered]
  show ∃ t, execArriveAck c d s = .next t ∧ _
  simp only [execArriveAck, next]
  refine ⟨_, rfl, by simp [State.updCore, only], ?_⟩
  have same : ({ s with nb := s.nb.erase m } : State).core c = s.core c := rfl
  rw [State.core_updCore_self, same]
  simp [CoreState.updEntry, queue, entry, running]

/-- Settles O16. -/
theorem neighbourArrivals : Obligations.NeighbourArrivals := by
  unfold Obligations.NeighbourArrivals
  refine ⟨fun s o d m only dst from_ kind fresh sound => ⟨fun admitted other debt fits => ?_, fun refused _ => ?_⟩,
    fun s c d m q only src to_ kind delivered queue entry running =>
      exec_arriveAck_of_executing only src to_ kind delivered queue entry running⟩
  · have counted : ({ s with nb := [{ m with arrived := true }] }.updCore o fun k => k.addAc m.ac m.amount m.tag (dirNum d)).core o =
        (s.core o).putAc m.ac ((s.core o).getAc m.ac + m.amount) := by
      rw [State.core_updCore_self]
      exact CoreState.addAc_of_fits m.tag (dirNum d) debt fits
    refine ⟨_, exec_neighbourArrival_of_admitted only dst from_ kind fresh sound admitted, ?_⟩
    split
    · refine ⟨by simp only [State.updCore_nb], ?_, ?_, by simp only [State.updCore_hub]⟩ <;>
        rw [State.core_updCore_ne _ _ (Ne.symm other), counted]
      · exact CoreState.getAc_putAc_self _ _ _ fits
      · rfl
    · refine ⟨by simp only [State.updCore_nb], ?_, ?_, by simp only [State.updCore_hub]⟩ <;> rw [counted]
      · exact CoreState.getAc_putAc_self _ _ _ fits
      · rfl
  · refine ⟨_, exec_neighbourArrival_of_refused only dst from_ kind fresh sound refused, by simp only [State.updCore_nb], ?_⟩
    rw [State.core_updCore_self]
    exact ⟨rfl, _, rfl, rfl, rfl⟩

/-! ### SIG -/

theorem exec_sigRaise {s : State} {c : CoreId} {w : SigWait} (sigs : (s.core c).sigs = [w]) (due : w.waits = []) :
    exec (.sigRaise c) s = .next ((s.setCore c ({ s.core c with sigs := [] }.applySig w)).settle c) := by
  show execSigRaise c s = _
  simp [execSigRaise, sigs, due]

theorem CoreState.ledgerOut_ac (k : CoreState) (t i n : Nat) : (k.ledgerOut t i n).ac = k.ac ∧ (k.ledgerOut t i n).x = k.x ∧
    (k.ledgerOut t i n).sigs = k.sigs ∧ (k.ledgerOut t i n).doneReq = k.doneReq ∧ (k.ledgerOut t i n).stopReq = k.stopReq := by
  obtain ⟨l, b, e⟩ := k.ledgerOut_frame t i n
  rw [e]
  exact ⟨rfl, rfl, rfl, rfl, rfl⟩

/-- A SIG that counts, on a counter without debt and in range. -/
theorem CoreState.applySig_count {k : CoreState} {w : SigWait} (count : fld w.sig 7 6 = 2) (debt : k.getDebt (fld w.sig 5 0) = 0)
    (fits : k.getAc (fld w.sig 5 0) + 1 < 2 ^ 24) :
    (k.applySig w).getAc (fld w.sig 5 0) = k.getAc (fld w.sig 5 0) + 1 ∧ (k.applySig w).x = k.x ∧ (k.applySig w).sigs = k.sigs ∧
      (k.applySig w).doneReq = k.doneReq ∧ (k.applySig w).stopReq = k.stopReq := by
  simp only [CoreState.applySig, count, CoreState.ownIncrement, CoreState.addAc_of_fits w.tag 0 debt fits]
  have raised := k.getAc_putAc_self (fld w.sig 5 0) _ fits
  split
  · obtain ⟨ac, x, sigs, done, stop⟩ := (k.putAc (fld w.sig 5 0) (k.getAc (fld w.sig 5 0) + 1)).ledgerOut_ac 0 (fld w.sig 5 0) 1
    refine ⟨?_, x, sigs, done, stop⟩
    rw [CoreState.getAc, ac]
    exact raised
  · exact ⟨raised, rfl, rfl, rfl, rfl⟩

/-! ### Completion -/

theorem CoreState.flushPort_of_empty {k : CoreState} {port : Nat} (empty : Sparse.get k.gather [] port = []) : k.flushPort port = k := by
  have one : k.flushOne port = k := by simp [CoreState.flushOne, empty]
  simp only [CoreState.flushPort, one]

theorem CoreState.nextStart_of_finished {k : CoreState} {q : QEntry} {f : Byte} {x : BitVec 16} (e : Eng) (queue : k.queue = [q])
    (done : q.st = .finished f x) : k.nextStart e = none := by
  simp only [CoreState.nextStart, queue]
  split
  · by_cases h : q.eng = e <;> simp [h, done]
  · rfl

theorem CoreState.nextStart_of_empty {k : CoreState} (e : Eng) (queue : k.queue = []) : k.nextStart e = none := by
  simp only [CoreState.nextStart, queue]
  split <;> rfl

theorem State.suStart_of_none {s : State} {c : Nat} (none_ : (s.core c).nextStart .su = none) : s.suStart c = s := by
  simp only [State.suStart, none_]

theorem State.reapReserved_of_none {s : State} {c : Nat} {e : Eng} (none_ : (s.core c).nextStart e = none) : s.reapReserved c e = s := by
  simp only [State.reapReserved, none_]

/-- Settling touches the core's state and requests only. -/
theorem State.settle_core_of {s : State} {c : Nat} {k : CoreState} (core : s.core c = k) : ∃ st d p r g, (s.settle c).core c =
    { k with st := st, doneReq := d, stopReq := p, replayDue := r, replaying := g } := by
  subst core
  unfold State.settle
  dsimp only
  split
  · split
    · split
      · rw [State.core_updHub]
        exact ⟨_, _, _, _, _, State.core_setCore_self _ _ _⟩
      · exact ⟨_, _, _, _, _, rfl⟩
    · split
      · exact ⟨_, _, _, _, _, State.core_setCore_self _ _ _⟩
      · exact ⟨_, _, _, _, _, rfl⟩
  · exact ⟨_, _, _, _, _, rfl⟩

/-- The note of an ARRAY_CHECK is on the newest record and in the step's list of macros. -/
theorem CoreState.noteCheck_newest (k : CoreState) {q : List FaultRec} {r : FaultRec} (f : Byte) (d : W64) (newest : k.faultQ = q ++ [r]) :
    ∃ l again, k.noteCheck f d = { k with checked := l, faultQ := q ++ [{ r with again := again }] } := by
  unfold CoreState.noteCheck
  split
  · simp [newest]
  · exact ⟨k.checked, r.again, by cases k; simp_all⟩

theorem CoreState.noteCheck_pushFault (k : CoreState) (f : Byte) (tag : BitVec 16) (addr : W32) (d : W64) : ∃ l again,
    (k.pushFault f tag addr d).noteCheck f d = { k with
      checked := l, faultQ := k.faultQ ++ [{ code := f, tag := tag, addr := addr, stepno := k.stepno, detail := d, again := again }] } :=
  (k.pushFault f tag addr d).noteCheck_newest (q := k.faultQ) f d rfl

theorem CoreState.noteReplay_frame (k : CoreState) (f : Byte) : ∃ d n, k.noteReplay f = { k with replayDue := d, replays := n } := by
  unfold CoreState.noteReplay
  split
  · split
    · exact ⟨_, _, rfl⟩
    · exact ⟨_, _, rfl⟩
    · exact ⟨_, _, rfl⟩
  · exact ⟨_, _, rfl⟩

/-- The core once a command has left its queue, before it settles (R110, R114, R127). -/
def CoreState.completed (k : CoreState) (q : QEntry) (f : Byte) (x : BitVec 16) : CoreState :=
  let k1 := { k with queue := k.queue.filter (fun y => y.id ≠ q.id),
                     lastcr := Sparse.set k.lastcr 0 (engNum q.eng) (completionRecord q.tag f q.eng x),
                     stepOr := Sparse.set k.stepOr 0 (engNum q.eng) (Sparse.get k.stepOr 0 (engNum q.eng) ||| x),
                     sigs := k.sigs.map (fun w : SigWait => { w with waits := w.waits.filter (fun y => decide (y ≠ q.id)) }) }
  let k2 := if f = 0 then k1 else (k1.pushFault f q.tag q.addr q.detail).noteCheck f q.detail
  k2.noteReplay f

theorem State.core_retire (s : State) (c : Nat) (q : QEntry) (f : Byte) (x : BitVec 16) : ∃ st d p r g, (s.retire c q f x).core c =
    { (s.core c).completed q f x with st := st, doneReq := d, stopReq := p, replayDue := r, replaying := g } := by
  simp only [State.retire]
  refine State.settle_core_of ?_
  split <;> rename_i zero <;> simp only [State.core_traceEv, State.core_setCore_self, CoreState.completed, if_pos, if_neg, zero, not_false_eq_true]

/-- The completion's effect on the queue, LASTCR, the registers and the fault queue (R114, R127). -/
theorem CoreState.completed_effect (k : CoreState) (q : QEntry) (f : Byte) (x : BitVec 16) :
    let t := k.completed q f x
    t.queue = k.queue.filter (fun y => y.id ≠ q.id) ∧
      t.lastcr = Sparse.set k.lastcr 0 (engNum q.eng) (completionRecord q.tag f q.eng x) ∧ t.x = k.x ∧
      (f = 0 → t.faultQ = k.faultQ) ∧
      (f ≠ 0 → ∃ r, t.faultQ = k.faultQ ++ [r] ∧ r.code = f ∧ r.tag = q.tag ∧ r.detail = q.detail) := by
  simp only [CoreState.completed]
  by_cases zero : f = 0
  · obtain ⟨d, n, e⟩ := CoreState.noteReplay_frame _ f
    rw [if_pos zero, e]
    exact ⟨rfl, rfl, rfl, fun _ => rfl, fun h => absurd zero h⟩
  · obtain ⟨l, again, newest⟩ := CoreState.noteCheck_pushFault { k with
      queue := k.queue.filter (fun y => y.id ≠ q.id),
      lastcr := Sparse.set k.lastcr 0 (engNum q.eng) (completionRecord q.tag f q.eng x),
      stepOr := Sparse.set k.stepOr 0 (engNum q.eng) (Sparse.get k.stepOr 0 (engNum q.eng) ||| x),
      sigs := k.sigs.map (fun w : SigWait => { w with waits := w.waits.filter (fun y => decide (y ≠ q.id)) }) } f q.tag q.addr q.detail
    obtain ⟨d, n, e⟩ := CoreState.noteReplay_frame _ f
    rw [if_neg zero, newest, e]
    exact ⟨rfl, rfl, rfl, fun h => absurd h zero, fun _ => ⟨_, rfl, rfl, rfl, rfl⟩⟩

/-- The only command of a core, finished and with nothing of its port left to write, completes. -/
theorem exec_commandComplete {s : State} {c : CoreId} {e : Eng} {q : QEntry} {f : Byte} {x : BitVec 16} (queue : (s.core c).queue = [q])
    (eng : q.eng = e) (done : q.st = .finished f x) (written : Sparse.get (s.core c).gather [] (portOf e) = []) :
    ∃ t, exec (.commandComplete c e) s = .next t ∧ ∃ st d p r g, t.core c =
      { (s.core c).completed q f x with st := st, doneReq := d, stopReq := p, replayDue := r, replaying := g } := by
  subst eng
  have idle : (s.reapReserved c q.eng).suStart c = s := by
    rw [State.reapReserved_of_none (CoreState.nextStart_of_finished _ queue done),
      State.suStart_of_none (CoreState.nextStart_of_finished _ queue done)]
  have finished : (s.core c).finished q.eng = [q] := by simp [CoreState.finished, queue, done]
  have flushed : (s.updCore c fun k => k.flushPort (portOf q.eng)).core c = s.core c := by
    rw [State.core_updCore_self, CoreState.flushPort_of_empty written]
  have completes : s.completeEntry c q = (s.updCore c fun k => k.flushPort (portOf q.eng)).retire c q f x := by
    have found : (s.core c).queue.find? (fun y => y.id = q.id) = some q := by simp [queue]
    simp only [State.completeEntry, flushed, found]
    rw [done]
  obtain ⟨st, d, p, r, g, left⟩ := State.core_retire (s.updCore c fun k => k.flushPort (portOf q.eng)) c q f x
  rw [flushed] at left
  refine ⟨s.completeEntry c q, ?_, st, d, p, r, g, by rw [completes, left]⟩
  show execCommandComplete c q.eng s = _
  have empty : ((s.completeEntry c q).core c).queue = [] := by
    rw [completes, left]
    simpa [queue] using ((s.core c).completed_effect q f x).1
  simp only [execCommandComplete, idle, finished]
  rw [State.suStart_of_none (CoreState.nextStart_of_empty _ empty)]

/-! ### Fault records -/

/-- The state after the oldest fault record of a core is journalled. -/
def State.recordTaken (s : State) (c : Nat) (r : FaultRec) (rest : List FaultRec) : State :=
  (s.setCore c { s.core c with faultQ := rest }).journal r.code (s.core c).part 0 c r.tag r.stepno r.addr r.detail

theorem State.core_recordTaken (s : State) (c : Nat) (r : FaultRec) (rest : List FaultRec) :
    ((s.recordTaken c r rest).core c) = { s.core c with faultQ := rest } := by
  simp [State.recordTaken]

theorem State.hub_recordTaken (s : State) (c : Nat) (r : FaultRec) (rest : List FaultRec) :
    (s.recordTaken c r rest).hub = (s.journal r.code (s.core c).part 0 c r.tag r.stepno r.addr r.detail).hub := by
  simp only [State.recordTaken, State.hub_journal]
  rfl

theorem exec_faultRecordTaken {s : State} {c : CoreId} {r : FaultRec} {rest : List FaultRec} (queue : (s.core c).faultQ = r :: rest) :
    exec (.faultRecordTaken c) s = .next (
      let s1 := s.recordTaken c r rest
      if r.code = fArrayCheck then s1.checkReported c r
      else if clsOf r.code.toNat = 2 then
        (s1.updHub fun h => h.invFault c r.code).traceEv c 5 r.tag 0 3 (BitVec.ofNat 32 r.code.toNat)
      else s1) := by
  show execFaultRecordTaken c s = _
  simp only [execFaultRecordTaken, queue]
  rfl

/-- A report of a cause other than META is counted for its macro, which a second report in the step makes due for a swap (R56). -/
theorem State.checkReported_effect {s : State} {c : Nat} {r : FaultRec} (cause : bitOf r.detail 12 = false) :
    (s.checkReported c r).core c = s.core c ∧
      (s.checkReported c r).hub.checks =
        Sparse.set s.hub.checks 0 (macKey c (fld r.detail 7 0)) (Sparse.get s.hub.checks 0 (macKey c (fld r.detail 7 0)) + 1) ∧
      (r.again = true → macKey c (fld r.detail 7 0) ∈ (s.checkReported c r).hub.swapDue) := by
  simp only [State.checkReported, cause, Bool.false_eq_true, ↓reduceIte]
  refine ⟨?_, ?_, fun again => ?_⟩
  · split <;> rfl
  · split <;> rfl
  · simp only [again, Bool.true_or, ↓reduceIte]
    exact mem_add_once _ _

/-- Settles O18. -/
theorem completionAndFaults : Obligations.CompletionAndFaults := by
  unfold Obligations.CompletionAndFaults
  intro s c k
  refine ⟨fun w sigs due noDone noStop => ⟨fun flag => ?_, fun count _ debt fits => ?_⟩, fun e q f x queue eng done written => ?_,
    fun r rest queue => ⟨fun low other room => ?_, fun fault other => ?_, fun check cause => ?_⟩, fun queue => ?_,
    fun w issuing enabled decoded waits => ?_, fun disabled => ?_, rfl⟩
  case refine_1 =>
    rw [exec_sigRaise sigs due, State.settle_of_no_drain]
    · simp only [CoreState.applySig, flag]; rfl
    · simpa [CoreState.applySig, flag, CoreState.setFlag] using noDone
    · simpa [CoreState.applySig, flag, CoreState.setFlag] using noStop
  case refine_2 =>
    obtain ⟨ac, x, none_, done, stop⟩ := CoreState.applySig_count (k := { k with sigs := [] }) count debt fits
    refine ⟨_, exec_sigRaise sigs due, ?_⟩
    rw [State.settle_of_no_drain, State.core_setCore_self]
    · exact ⟨none_, ac, x⟩
    · rw [State.core_setCore_self]; exact done.trans noDone
    · rw [State.core_setCore_self]; exact stop.trans noStop
  case refine_3 =>
    obtain ⟨t, next, st, d, p, r, g, left⟩ := exec_commandComplete queue eng done written
    obtain ⟨gone, record, x, sound, faulty⟩ := (s.core c).completed_effect q f x
    rw [eng] at record
    refine ⟨t, next, ?_⟩
    rw [left]
    exact ⟨by rw [gone, show (s.core c).queue = [q] from queue]; simp, record, x, sound, faulty⟩
  case refine_4 =>
    have cls : clsOf r.code.toNat ≠ 2 := by unfold clsOf; split <;> simp_all
    have taken := (exec_faultRecordTaken queue).trans (congrArg _ ((if_neg other).trans (if_neg cls)))
    have notFull : ¬s.hub.journal.length ≥ 8192 := by omega
    have kept := s.hub_recordTaken c r rest
    simp only [State.hub_journal, if_neg notFull] at kept
    exact ⟨_, _, taken, by rw [State.core_recordTaken], by rw [kept], rfl, rfl, rfl, rfl, rfl, by rw [kept]⟩
  case refine_5 =>
    refine ⟨_, (exec_faultRecordTaken queue).trans (congrArg _ ((if_neg other).trans (if_pos fault))), ?_, ?_⟩
    · rw [State.core_traceEv, State.core_updHub, State.core_recordTaken]
    · rw [State.hub_traceEv_invs, State.updHub_hub, State.hub_recordTaken, State.hub_journal]; rfl
  case refine_6 =>
    obtain ⟨core, checks, due⟩ := State.checkReported_effect (s := s.recordTaken c r rest) (c := c) cause
    refine ⟨_, (exec_faultRecordTaken queue).trans (congrArg _ (if_pos check)), ?_, ?_, due⟩
    · rw [core, State.core_recordTaken]
    · rw [checks, Sparse.get_set_self, State.hub_recordTaken, State.hub_journal]
  case refine_7 =>
    show execFaultRecordTaken c s = _
    simp only [execFaultRecordTaken, show (s.core c).faultQ = [] from queue]
  case refine_8 =>
    obtain ⟨running, noDone, noStop, noReplay, -⟩ := CoreState.mayIssue_iff.1 issuing
    have waiting : (s.core c).st = .run ∧ (s.core c).doneReq = none ∧ (s.core c).stopReq = false ∧ (s.core c).cto ≠ 0 ∧
        (s.core c).replayDue = false := ⟨running, noDone, noStop, enabled, noReplay⟩
    refine ⟨s.updCore c fun k => k.coreFault fCoreWaitTimeout w.tag (BitVec.ofNat 32 k.pc) (BitVec.ofNat 64 (k.headWait w)), ?_⟩
    have next : exec (.coreWaitTimeout c) s = .next (s.updCore c fun k =>
        k.coreFault fCoreWaitTimeout w.tag (BitVec.ofNat 32 k.pc) (BitVec.ofNat 64 (k.headWait w))) := by
      show execCoreWaitTimeout c s = _
      simp only [execCoreWaitTimeout, if_pos waiting, show (s.core c).decodeWord c = .ok w from decoded,
        if_neg (show ¬(s.core c).headWait w = 0 from waits)]
    rw [State.core_updCore_self, CoreState.coreFault_of_run running]
    exact ⟨_, next, rfl, rfl, rfl, rfl, rfl⟩
  case refine_9 =>
    show execCoreWaitTimeout c s = _
    simp [execCoreWaitTimeout, show (s.core c).cto = 0 from disabled]

end Sys2Proof.Machine

/-! PROOFS. The sync slot and the long word (R107, R116 to R119, R137, R153). -/

namespace Sys2Proof.Machine

/-! ### What an issue leaves as it is -/

/-- Two cores with as many commands and the same signals, registers, place in the program and requests to drain. -/
structure CoreState.Alike (k t : CoreState) : Prop where
  queue : t.queue.length = k.queue.length
  sigs : t.sigs = k.sigs
  x : t.x = k.x
  pc : t.pc = k.pc
  doneReq : t.doneReq = k.doneReq
  stopReq : t.stopReq = k.stopReq

theorem CoreState.Alike.refl (k : CoreState) : k.Alike k := ⟨rfl, rfl, rfl, rfl, rfl, rfl⟩

theorem CoreState.Alike.trans {k t u : CoreState} (h : k.Alike t) (g : t.Alike u) : k.Alike u :=
  ⟨g.queue.trans h.queue, g.sigs.trans h.sigs, g.x.trans h.x, g.pc.trans h.pc, g.doneReq.trans h.doneReq, g.stopReq.trans h.stopReq⟩

theorem CoreState.Alike.of_eq {k t : CoreState} (h : t = k) : k.Alike t := h ▸ .refl k

theorem CoreState.alike_foldl {α : Type} {f : CoreState → α → CoreState} (step : ∀ k a, CoreState.Alike k (f k a)) (as : List α) :
    ∀ k : CoreState, k.Alike (as.foldl f k) := by
  induction as with
  | nil => exact .refl
  | cons a as ih => exact fun k => (step k a).trans (ih (f k a))

theorem CoreState.alike_putAc (k : CoreState) (i v : Nat) : k.Alike (k.putAc i v) := ⟨rfl, rfl, rfl, rfl, rfl, rfl⟩

theorem CoreState.alike_putTok (k : CoreState) (i v : Nat) : k.Alike (k.putTok i v) := ⟨rfl, rfl, rfl, rfl, rfl, rfl⟩

theorem CoreState.alike_ledgerOut (k : CoreState) (t i n : Nat) : k.Alike (k.ledgerOut t i n) := by
  obtain ⟨_, _, e⟩ := k.ledgerOut_frame t i n
  rw [e]; exact ⟨rfl, rfl, rfl, rfl, rfl, rfl⟩

theorem CoreState.alike_ledgerCons (k : CoreState) (key n : Nat) : k.Alike (k.ledgerCons key n) := by
  obtain ⟨_, _, e⟩ := k.ledgerCons_frame key n
  rw [e]; exact ⟨rfl, rfl, rfl, rfl, rfl, rfl⟩

theorem CoreState.alike_addAc (k : CoreState) (i n : Nat) (tag : BitVec 16) (dir : Nat) : k.Alike (k.addAc i n tag dir) := by
  obtain ⟨_, _, _, _, _, e⟩ := k.addAc_frame i n tag dir
  rw [e]; exact ⟨rfl, rfl, rfl, rfl, rfl, rfl⟩

theorem CoreState.alike_ownIncrement (k : CoreState) (i n : Nat) (tag : BitVec 16) (inStep : Bool) :
    k.Alike (k.ownIncrement i n tag inStep) := by
  unfold CoreState.ownIncrement
  dsimp only
  split
  · exact (k.alike_addAc i n tag 0).trans (CoreState.alike_ledgerOut _ 0 i n)
  · exact k.alike_addAc i n tag 0

theorem CoreState.ownIncrement_queue (k : CoreState) (i n : Nat) (tag : BitVec 16) (inStep : Bool) :
    (k.ownIncrement i n tag inStep).queue = k.queue := by
  obtain ⟨_, _, _, _, _, e⟩ := k.addAc_frame i n tag 0
  simp only [CoreState.ownIncrement, e]
  split
  · obtain ⟨_, _, e⟩ := CoreState.ledgerOut_frame { k with ac := _, win := _, faultQ := _, st := _, hint := _ } 0 i n
    rw [e]
  · rfl

theorem CoreState.ownIncrement_getAc {k : CoreState} {i n : Nat} (tag : BitVec 16) (inStep : Bool) (debt : k.getDebt i = 0)
    (fits : k.getAc i + n < 2 ^ 24) : (k.ownIncrement i n tag inStep).getAc i = k.getAc i + n := by
  have raised := k.getAc_putAc_self i _ fits
  simp only [CoreState.ownIncrement, CoreState.addAc_of_fits tag 0 debt fits]
  split
  · rw [CoreState.getAc, ((k.putAc i (k.getAc i + n)).ledgerOut_ac 0 i n).1]
    exact raised
  · exact raised

theorem CoreState.alike_updEntry (k : CoreState) (id : Nat) (f : QEntry → QEntry) : k.Alike (k.updEntry id f) :=
  ⟨by simp [CoreState.updEntry], rfl, rfl, rfl, rfl, rfl⟩

theorem CoreState.alike_finish (k : CoreState) (id : Nat) (f : Byte) (x : BitVec 16) (d : W64) : k.Alike (k.finish id f x d) :=
  k.alike_updEntry id _

theorem CoreState.alike_waitTake (k : CoreState) (w : Nat) : k.Alike (k.waitTake w) := by
  unfold CoreState.waitTake
  dsimp only
  split
  · exact .refl k
  · exact ⟨rfl, rfl, rfl, rfl, rfl, rfl⟩
  · exact (k.alike_putAc _ _).trans (CoreState.alike_ledgerCons _ _ _)
  · exact (k.alike_putTok _ _).trans (CoreState.alike_ledgerCons _ _ _)

theorem CoreState.alike_parityEntry (k : CoreState) (id a : Nat) : k.Alike (k.parityEntry id a) :=
  ⟨by simp [CoreState.parityEntry], rfl, rfl, rfl, rfl, rfl⟩

theorem CoreState.alike_drainEntry (k : CoreState) (port : Nat) (g : GatherEntry) : k.Alike (k.drainEntry port g).1 := by
  by_cases part : ∃ j, j < 8 ∧ k.coversPart g j
  · rw [CoreState.drainEntry_of_part part]
    obtain ⟨_, _, e⟩ := k.noteParity_frame port (64 * g.word) false
    rw [e]; exact ⟨rfl, rfl, rfl, rfl, rfl, rfl⟩
  · obtain ⟨_, e⟩ := CoreState.drainEntry_of_whole (port := port) fun j inside h => part ⟨j, inside, h⟩
    rw [e]; exact ⟨rfl, rfl, rfl, rfl, rfl, rfl⟩

theorem CoreState.alike_flushOne (k : CoreState) (port : Nat) : k.Alike (k.flushOne port) := by
  cases oldest : Sparse.get k.gather [] port with
  | nil => exact .of_eq (by simp only [CoreState.flushOne, oldest])
  | cons g rest =>
    have drained : k.Alike (CoreState.drainEntry { k with gather := Sparse.set k.gather [] port rest } port g).1 :=
      .trans (t := { k with gather := Sparse.set k.gather [] port rest }) ⟨rfl, rfl, rfl, rfl, rfl, rfl⟩ (CoreState.alike_drainEntry _ _ _)
    rw [CoreState.flushOne_of_entry oldest]
    dsimp only
    split
    · exact drained.trans (CoreState.alike_parityEntry _ _ _)
    · exact drained

theorem CoreState.alike_fenceFlush (k : CoreState) (mask : Nat) : k.Alike (k.fenceFlush mask) :=
  CoreState.alike_foldl (fun k _ => (((k.alike_flushOne _).trans (CoreState.alike_flushOne _ _)).trans
    (CoreState.alike_flushOne _ _)).trans (CoreState.alike_flushOne _ _)) _ k

/-! ### The amax unit's commit -/

/-- Two cores that differ in the window space and the held track configurations alone. -/
def CoreState.sameButTracks (k t : CoreState) : Prop := ∃ w h, t = { k with win := w, ahHeld := h }

theorem CoreState.sameButTracks.refl (k : CoreState) : k.sameButTracks k := ⟨k.win, k.ahHeld, rfl⟩

theorem CoreState.sameButTracks.trans {k t u : CoreState} (h : k.sameButTracks t) (g : t.sameButTracks u) : k.sameButTracks u := by
  obtain ⟨_, _, rfl⟩ := h
  obtain ⟨w, l, rfl⟩ := g
  exact ⟨w, l, rfl⟩

theorem CoreState.sameButTracks_foldl {α : Type} {f : CoreState → α → CoreState} (step : ∀ k a, CoreState.sameButTracks k (f k a))
    (as : List α) : ∀ k : CoreState, k.sameButTracks (as.foldl f k) := by
  induction as with
  | nil => exact .refl
  | cons a as ih => exact fun k => (step k a).trans (ih (f k a))

theorem CoreState.sameButTracks_putW32 (k : CoreState) (a : Nat) (v : W32) : k.sameButTracks (k.putW32 a v) := ⟨_, k.ahHeld, rfl⟩

theorem CoreState.sameButTracks_ahClear (k : CoreState) (t : Nat) : k.sameButTracks (k.ahClear t) :=
  ((k.sameButTracks_putW32 _ _).trans (CoreState.sameButTracks_putW32 _ _ _)).trans (CoreState.sameButTracks_putW32 _ _ _)

theorem CoreState.sameButTracks_setAhcfg (k : CoreState) (t : Nat) (v : W32) : k.sameButTracks (k.setAhcfg t v) := by
  unfold CoreState.setAhcfg
  dsimp only
  split
  · exact (k.sameButTracks_putW32 _ _).trans (CoreState.sameButTracks_putW32 _ _ _)
  · exact k.sameButTracks_putW32 _ _

theorem CoreState.sameButTracks_applyHeld (k : CoreState) : k.sameButTracks k.applyHeld := by
  have applied := CoreState.sameButTracks_foldl (f := fun k (p : Nat × W32) =>
    let k1 := k.setAhcfg p.1 p.2
    if ahEn p.2 then k1 else k1.ahClear p.1) (fun k p => by
      dsimp only
      split
      · exact k.sameButTracks_setAhcfg _ _
      · exact (k.sameButTracks_setAhcfg _ _).trans (CoreState.sameButTracks_ahClear _ _)) k.ahHeld k
  exact applied.trans ⟨_, [], rfl⟩

theorem CoreState.sameButTracks_writeVsf (k : CoreState) (i : Nat) (v : W32) : k.sameButTracks (k.writeVsf i v) := by
  unfold CoreState.writeVsf
  split
  · exact (k.sameButTracks_putW32 _ _).trans (CoreState.sameButTracks_putW32 _ _ _)
  · exact .refl k

theorem CoreState.sameButTracks_writeVsf_if (k : CoreState) (p : Prop) [Decidable p] (i : Nat) (v : W32) :
    k.sameButTracks (if p then k.writeVsf i v else k) := by
  split
  · exact k.sameButTracks_writeVsf i v
  · exact .refl k

theorem CoreState.sameButTracks_commitTrack (k : CoreState) (t : Nat) (bound : W32) : k.sameButTracks (k.commitTrack t bound) := by
  unfold CoreState.commitTrack
  dsimp only
  refine .trans ?_ (CoreState.sameButTracks_ahClear _ t)
  refine .trans ?_ (CoreState.sameButTracks_writeVsf_if _ _ _ _)
  refine .trans (.trans ?_ (CoreState.sameButTracks_putW32 _ _ _)) (CoreState.sameButTracks_putW32 _ _ _)
  exact CoreState.sameButTracks_foldl (fun k _ => k.sameButTracks_putW32 _ _) _ k

/-- The commit at a STEP mark touches the unit's registers and held configurations only (R78). -/
theorem CoreState.sameButTracks_commitAmax (k : CoreState) : k.sameButTracks k.commitAmax := by
  unfold CoreState.commitAmax
  dsimp only
  refine k.sameButTracks_applyHeld.trans ?_
  generalize k.applyHeld = k0
  generalize List.map _ _ = bounds
  refine CoreState.sameButTracks_foldl (fun k p => ?_) bounds k0
  exact k.sameButTracks_commitTrack p.1 p.2

theorem CoreState.alike_commitAmax (k : CoreState) : k.Alike k.commitAmax := by
  obtain ⟨_, _, e⟩ := k.sameButTracks_commitAmax
  rw [e]; exact ⟨rfl, rfl, rfl, rfl, rfl, rfl⟩

/-! ### The trace buffer -/

theorem State.hub_traceEv_steps (s : State) (c en : Nat) (tag : BitVec 16) (slot event : Nat) (data : W32) :
    (s.traceEv c en tag slot event data).hub.steps = s.hub.steps := by
  obtain ⟨_, _, _, _, _, _, _, _, _, _, e⟩ := s.hub_traceEv_frame c en tag slot event data
  rw [e]

theorem State.hub_traceEv_barriers (s : State) (c en : Nat) (tag : BitVec 16) (slot event : Nat) (data : W32) :
    (s.traceEv c en tag slot event data).hub.barriers = s.hub.barriers := by
  obtain ⟨_, _, _, _, _, _, _, _, _, _, e⟩ := s.hub_traceEv_frame c en tag slot event data
  rw [e]

/-! ### STEP -/

/-- What a STEP does before the word's scalar slot (R118). -/
theorem State.stepAct_effect (s : State) (c : Nat) (tag stepid : BitVec 16) :
    (s.stepAct c tag stepid).core c = { (s.core c).commitAmax with stepno := (s.core c).commitAmax.stepno + 1 } ∧
      (s.stepAct c tag stepid).hub.steps = s.hub.steps ++
        [(c, CoreState.stepRecord { (s.core c).commitAmax with stepno := (s.core c).commitAmax.stepno + 1 } stepid)] := by
  refine ⟨?_, ?_⟩
  · simp only [State.stepAct, State.core_traceEv, State.core_updHub, State.core_setCore_self]
  · simp only [State.stepAct, State.hub_traceEv_steps, State.updHub_hub, State.setCore_hub]

theorem CoreState.take_stepRecord (k : CoreState) (stepid : BitVec 16) :
    (k.stepRecord stepid).take 6 = leBytes 4 k.stepno.toNat ++ leBytes 2 stepid.toNat := by
  have head : (leBytes 4 k.stepno.toNat ++ leBytes 2 stepid.toNat).length = 6 := by simp [leBytes_length]
  simp only [CoreState.stepRecord, List.append_assoc]
  rw [← List.append_assoc, ← head, List.take_left]

theorem exec_step_of_open {s : State} {c : CoreId} (issuing : s.issuing c) (queue : (s.core c).queue = []) (sigs : (s.core c).sigs = [])
    (stepid : BitVec 16) : exec (.step c stepid) s = .next ((s.stepAct c 0 stepid).updCore c fun k => k.markStep k.pc) := by
  have may : (s.core c).mayIssue = true ∧ (s.core c).stepOpen = true := ⟨issuing, by simp [CoreState.stepOpen, queue, sigs]⟩
  exact congrArg Host.Outcome.next (if_pos may)

theorem exec_step_of_busy {s : State} {c : CoreId} (busy : (s.core c).queue ≠ [] ∨ (s.core c).sigs ≠ []) (stepid : BitVec 16) :
    exec (.step c stepid) s = .next s := by
  have shut : ¬((s.core c).mayIssue = true ∧ (s.core c).stepOpen = true) := by
    rintro ⟨-, h⟩
    simp only [CoreState.stepOpen, Bool.and_eq_true, List.isEmpty_iff] at h
    exact busy.elim (fun f => f h.1) (fun f => f h.2)
  exact congrArg Host.Outcome.next (if_neg shut)

/-! ### The queued sync commands -/

theorem suOp_of_slot {q : QEntry} {y : W64} (slot : q.slot = suSlot y) : suOp q = y := by
  apply BitVec.eq_of_toNat_eq
  simp only [suOp, slot, suSlot, fld, bits, BitVec.toNat_ofNat]
  omega

theorem fld_ofNat {v : Nat} (hi lo : Nat) (fits : v < 2 ^ 64) : fld (BitVec.ofNat 64 v) hi lo = v / 2 ^ lo % 2 ^ (hi + 1 - lo) := by
  simp only [fld, bits, BitVec.toNat_ofNat, Nat.mod_eq_of_lt fits]

theorem syncWord_fits {opc rest : Nat} (small : opc < 2 ^ 8) (body : rest < 2 ^ 56) : opc * 2 ^ 56 + rest < 2 ^ 64 := by omega

/-- A queued sync command that enters the queue of an idle core starts at once (Table 5.9). -/
theorem State.suEnter_effect {s : State} {c : CoreId} (issuing : s.issuing c) (idle : (s.core c).queue = []) (tag : BitVec 16) (y : W64) :
    ∃ (r : State) (q : QEntry) (ve ae fe le se : List (Nat × W128)), s.suEnter c tag y = r.suRun c q ∧
      r.core c = { s.core c with
        hcVe := ve, hcAe := ae, hcFe := fe, hcLe := le, hcSe := se, queue := [q], nextId := (s.core c).nextId + 1 } ∧
      r.nb = s.nb ∧ r.hub.barriers = s.hub.barriers ∧ q.eng = .su ∧ q.tag = tag ∧ suOp q = y := by
  have room : (s.core c).room .su 1 = true := by simp [CoreState.room, CoreState.inQueue, idle]
  obtain ⟨ve, ae, fe, le, se, q, entered, -, eng, tagged, -, slot, -, waiting, -⟩ :=
    (s.core c).enqueue_effect .su tag (BitVec.ofNat 32 (s.core c).pc) (suSlot y) true
  have core : (s.updCore c fun k => k.enqueue .su tag (BitVec.ofNat 32 k.pc) (suSlot y) true).core c = { s.core c with
      hcVe := ve, hcAe := ae, hcFe := fe, hcLe := le, hcSe := se, queue := [q], nextId := (s.core c).nextId + 1 } := by
    rw [State.core_updCore_self, entered, idle]; rfl
  refine ⟨(s.updCore c fun k => k.enqueue .su tag (BitVec.ofNat 32 k.pc) (suSlot y) true).traceEv c 1 tag (slotNum .su) 1 0,
    q, ve, ae, fe, le, se, ?_, ?_, ?_, ?_, eng, tagged, suOp_of_slot slot⟩
  · have next : ((s.updCore c fun k => k.enqueue .su tag (BitVec.ofNat 32 k.pc) (suSlot y) true).core c).nextStart .su = some q := by
      rw [core]
      simp [CoreState.nextStart, eng, startRoom, waiting]
    have free : ((s.updCore c fun k => k.enqueue .su tag (BitVec.ofNat 32 k.pc) (suSlot y) true).core c).suWaits c q = false := by
      rw [core]
      simp only [CoreState.suWaits]
      split
      · rfl
      · simp [CoreState.seDone, eng]
    have enters : s.suEnter c tag y =
        (s.updCore c fun k => k.enqueue .su tag (BitVec.ofNat 32 k.pc) (suSlot y) true).suStart c :=
      if_pos ⟨issuing, room⟩
    rw [enters]
    simp only [State.suStart, next, free, tagged]
    rfl
  · rw [State.core_traceEv, core]
  · rw [State.traceEv_nb, State.updCore_nb]
  · rw [State.hub_traceEv_barriers, State.updCore_hub]

/-! What a started sync command of each kind does. -/

section

variable {r : State} {c : Nat} {q : QEntry}

theorem State.suRun_own (opc : fld (suOp q) 63 56 = 3) (own : dirOf (fld (suOp q) 55 53) = none) :
    r.suRun c q = r.setCore c (((r.core c).ownIncrement (fld (suOp q) 52 48) (fld (suOp q) 47 24) q.tag q.inStep).finish q.id 0 0 0) := by
  simp only [State.suRun, opc, own, ↓reduceIte]

theorem State.suRun_toward {d : Dir} {o : Nat} (opc : fld (suOp q) 63 56 = 3) (dir : dirOf (fld (suOp q) 55 53) = some d)
    (neighbour_ : neighbour c d = some o) :
    r.suRun c q =
      { r.setCore c ((r.core c).updEntry q.id fun x => { x with st := .executing }) with nb := r.nb ++
        [{ src := c, dst := o, kind := .arrive, ac := fld (suOp q) 52 48, amount := fld (suOp q) 47 24, tag := q.tag,
           part := some (r.core c).part, entry := q.id, inStep := q.inStep, arrived := false, refused := false }] } := by
  simp only [State.suRun, opc, dir, neighbour_, ↓reduceIte]

theorem State.suRun_bprep (opc : fld (suOp q) 63 56 = 6) :
    r.suRun c q = (r.bprepHint c (fld (suOp q) 53 48) (fld (suOp q) 47 32)).updCore c fun k => k.finish q.id 0 0 0 := by
  simp [State.suRun, opc]

theorem State.suRun_ophint (opc : fld (suOp q) 63 56 = 7) :
    r.suRun c q = r.setCore c ({ r.core c with hint := some (fld (suOp q) 50 48, fld (suOp q) 47 32) }.finish q.id 0 0 0) := by
  simp [State.suRun, opc]

theorem State.suRun_nop (opc : fld (suOp q) 63 56 = 0) : r.suRun c q = r.setCore c ((r.core c).finish q.id 0 0 0) := by
  simp [State.suRun, opc]

/-- The only command of a core that finishes. -/
theorem CoreState.queue_finish {k : CoreState} (only : k.queue = [q]) (f : Byte) (x : BitVec 16) (d : W64) :
    (k.finish q.id f x d).queue = [{ q with st := .finished f x, detail := d }] := by
  simp [CoreState.finish, CoreState.updEntry, only]

end

/-! ### ARRIVE -/

/-- The fields of an ARRIVE's slot (Table 5.11). -/
theorem fld_arrive (dir : BitVec 3) (i : BitVec 5) (n : BitVec 24) :
    let y := syncWord 3 (dir.toNat * 2 ^ 53 + i.toNat * 2 ^ 48 + n.toNat * 2 ^ 24)
    fld y 63 56 = 3 ∧ fld y 55 53 = dir.toNat ∧ fld y 52 48 = i.toNat ∧ fld y 47 24 = n.toNat := by
  have d := dir.isLt
  have j := i.isLt
  have m := n.isLt
  simp only [syncWord]
  rw [fld_ofNat, fld_ofNat, fld_ofNat, fld_ofNat] <;> omega

theorem fld_ophint (op : BitVec 3) (phase : BitVec 16) :
    let y := syncWord 7 (op.toNat * 2 ^ 48 + phase.toNat * 2 ^ 32)
    fld y 63 56 = 7 ∧ fld y 50 48 = op.toNat ∧ fld y 47 32 = phase.toNat := by
  have o := op.isLt
  have p := phase.isLt
  simp only [syncWord]
  rw [fld_ofNat, fld_ofNat, fld_ofNat] <;> omega

theorem fld_bprep (bid : BitVec 6) (lead : BitVec 16) :
    let y := syncWord 6 (bid.toNat * 2 ^ 48 + lead.toNat * 2 ^ 32)
    fld y 63 56 = 6 ∧ fld y 53 48 = bid.toNat ∧ fld y 47 32 = lead.toNat := by
  have b := bid.isLt
  have l := lead.isLt
  simp only [syncWord]
  rw [fld_ofNat, fld_ofNat, fld_ofNat] <;> omega

/-- An ARRIVE that passes its checks enters the sync unit's queue. -/
theorem exec_arrive_of_sound {s : State} {c : CoreId} (issuing : s.issuing c) {dir : BitVec 3} {n : BitVec 24} (amount : n ≠ 0)
    (target : (∃ d o, dirOf dir.toNat = some d ∧ neighbour c d = some o) ∨ dir = 0) (tag : BitVec 16) (i : BitVec 5) :
    exec (.arrive c tag dir i n) s =
      .next (s.suEnter c tag (syncWord 3 (dir.toNat * 2 ^ 53 + i.toNat * 2 ^ 48 + n.toNat * 2 ^ 24))) := by
  have may : (s.core c).mayIssue = true := issuing
  show execArrive c tag dir i n s = _
  have some_ : ¬n = 0#24 := amount
  rcases target with ⟨d, o, dir_, neighbour_⟩ | rfl
  · simp [execArrive, may, dir_, neighbour_, some_]
  · simp [execArrive, may, some_, dirOf]

/-- An ARRIVE without a neighbour, with a reserved direction or with AMOUNT 0 is a core fault (R116, R117). -/
theorem exec_arrive_of_bad {s : State} {c : CoreId} (issuing : s.issuing c) {dir : BitVec 3} {n : BitVec 24}
    (bad : n = 0 ∨ (∃ d, dirOf dir.toNat = some d ∧ neighbour c d = none) ∨ (dirOf dir.toNat = none ∧ dir ≠ 0)) (tag : BitVec 16)
    (i : BitVec 5) :
    exec (.arrive c tag dir i n) s = .next (s.updCore c fun k => k.coreFault fCoreDecode tag (BitVec.ofNat 32 k.pc) 0) := by
  have may : (s.core c).mayIssue = true := issuing
  show execArrive c tag dir i n s = _
  rcases bad with rfl | ⟨d, dir_, neighbour_⟩ | ⟨dir_, other⟩
  · simp [execArrive, may]
  · simp [execArrive, may, dir_, neighbour_]
  · have nonzero : dir.toNat ≠ 0 := fun h => other (BitVec.eq_of_toNat_eq h)
    simp [execArrive, may, dir_, nonzero]

/-- A running core that meets a core fault. -/
theorem State.st_updCore_coreFault {s : State} {c : CoreId} (issuing : s.issuing c) (code : Byte) (tag : BitVec 16) :
    ((s.updCore c fun k => k.coreFault code tag (BitVec.ofNat 32 k.pc) 0).core c).st = .faulted := by
  obtain ⟨running, -⟩ := CoreState.mayIssue_iff.1 issuing
  rw [State.core_updCore_self, CoreState.coreFault_of_run running]

/-! ### BARRIER -/

section

variable {s : State} {c : CoreId} {b : Barrier} {bid : Nat} {torus : Bool}

theorem Hub.barrierOf_only {h : Hub} (only : h.barriers = [b]) (id : b.bid = bid) (scope : b.torus = torus) (member : c.val ∈ b.members) :
    h.barrierOf c bid torus = some b := by
  simp [Hub.barrierOf, only, id, scope, member]

theorem exec_barrier {scope : BitVec 2} {bid : BitVec 6} (issuing : s.issuing c) (low : scope.toNat < 2) :
    exec (.barrier c scope bid) s = .next (s.barrierTry c bid.toNat (decide (scope = 1))).1 := by
  have may : ¬(s.core c).mayIssue = false := by rw [show (s.core c).mayIssue = true from issuing]; simp
  exact congrArg Host.Outcome.next ((if_neg may).trans (if_neg (by omega)))

/-- The barrier as it is once the core has arrived at it. -/
def Barrier.arrive (b : Barrier) (c : Nat) : Barrier :=
  { b with arrived := b.arrived ++ [c], bpreps := b.bpreps.filter fun x => decide (x.1 ≠ c) }

theorem State.barArrive_package (only : s.hub.barriers = [b]) (id : b.bid = bid) (scope : b.torus = false) (member : c.val ∈ b.members)
    (fresh : c.val ∉ b.arrived) : s.barArrive c bid false = s.updHub fun h => { h with barriers := [b.arrive c] } := by
  simp [State.barArrive, State.updHub, only, id, scope, member, fresh, Barrier.arrive]

/-- Arriving at a package barrier: the members that are there decide whether it opens. -/
theorem State.barrierTry_package (only : s.hub.barriers = [b]) (id : b.bid = bid) (scope : b.torus = false) (member : c.val ∈ b.members)
    (fresh : c.val ∉ b.arrived) (inside : c.val ∉ b.left) (new : bid ∉ (s.core c).barsLeft) :
    s.barrierTry c bid false =
      let s1 := s.updHub fun h => { h with barriers := [b.arrive c] }
      if (b.arrive c).open_ then
        ((s1.updHub fun h => { h with barriers := h.barriers.map fun x => if x = b.arrive c then (b.arrive c).leave c else x }).updCore c
          fun k => { k with barsDone := k.barsDone ++ [bid] }, true)
      else (s1, false) := by
  have found : s.hub.barrierOf c bid false = some b := Hub.barrierOf_only only id scope member
  have again : (s.updHub fun h => { h with barriers := [b.arrive c] }).hub.barrierOf c bid false = some (b.arrive c) :=
    Hub.barrierOf_only rfl id scope member
  have inside' : c.val ∉ (b.arrive c).left := inside
  simp only [State.barrierTry, if_neg new, found, decide_eq_false fresh, decide_eq_false inside, Bool.or_false,
    Bool.false_eq_true, ↓reduceIte, State.barArrive_package only id scope member fresh, again, decide_eq_false inside', Bool.not_false,
    Bool.and_true, false_and]

/-- A core that has arrived at a torus barrier leaves it once it is released, and is held where its group is blocked (R119, R323). -/
theorem State.barrierTry_torus (only : s.hub.barriers = [b]) (id : b.bid = bid) (scope : b.torus = true) (member : c.val ∈ b.members)
    (there : c.val ∈ b.arrived) (inside : c.val ∉ b.left) (new : bid ∉ (s.core c).barsLeft) :
    s.barrierTry c bid true =
      if b.released then
        ((s.updHub fun h => { h with barriers := h.barriers.map fun x => if x = b then b.leave c else x }).updCore c
          fun k => { k with barsDone := k.barsDone ++ [bid] }, true)
      else if bid ∈ s.kraox.blocked then (s.holdBlocked c, false)
      else (s, false) := by
  have found : s.hub.barrierOf c bid true = some b := Hub.barrierOf_only only id scope member
  simp only [State.barrierTry, if_neg new, found, decide_eq_true there, decide_eq_false inside, Bool.not_false, Bool.and_true,
    Bool.or_false, ↓reduceIte, Barrier.open_, scope, true_and]

end

/-- Holding a program's streams leaves the cores and the barriers. -/
theorem State.holdProg_frame (s : State) (prog : Nat) : ∃ m, s.holdProg prog = s.updHub fun h => { h with streams := m } := by
  have held (ns : List Nat) : ∀ h : Hub, ∃ m, ns.foldl (fun h n => h.updStream n Stream.hold) h = { h with streams := m } := by
    induction ns with
    | nil => exact fun h => ⟨_, rfl⟩
    | cons n ns ih => exact fun h => ih (h.updStream n Stream.hold)
  obtain ⟨m, e⟩ := held (s.hub.openStreams fun x => x.prog = prog) s.hub
  exact ⟨m, congrArg s.setHub e⟩

theorem State.holdBlocked_frame (s : State) (c : Nat) :
    (s.holdBlocked c).cores = (s.updCore c CoreState.hold).cores ∧ (s.holdBlocked c).hub.barriers = s.hub.barriers := by
  have held (gs : List Program) : ∀ t : State, (gs.foldl (fun s g => s.holdProg g.handle) t).cores = t.cores ∧
      (gs.foldl (fun s g => s.holdProg g.handle) t).hub.barriers = t.hub.barriers := by
    induction gs with
    | nil => exact fun _ => ⟨rfl, rfl⟩
    | cons g gs ih =>
      intro t
      obtain ⟨m, e⟩ := t.holdProg_frame g.handle
      obtain ⟨cores, barriers⟩ := ih (t.holdProg g.handle)
      rw [e] at cores barriers
      rw [List.foldl_cons, e]
      exact ⟨cores, barriers⟩
  exact held _ _

/-- Settles O15. -/
theorem syncCommands : Obligations.SyncCommands := by
  unfold Obligations.SyncCommands
  intro s c issuing k
  have may : (s.core c).mayIssue = true := issuing
  obtain ⟨running, -⟩ := CoreState.mayIssue_iff.1 issuing
  refine ⟨fun mask ready => ?fenced, fun mask busy => ?fence, fun i v enough => ⟨?consumed, ?seen⟩, fun i v b few => ?waits,
    fun stepid queue sigs => ?step, fun stepid busy => exec_step_of_busy busy stepid, fun idle tag i n amount => ?own,
    fun idle tag dir d o i n amount dir_ neighbour_ => ?toward, fun tag dir i n bad => ⟨_, exec_arrive_of_bad issuing bad tag i, ?bad⟩,
    fun idle => ?nop, fun idle op phase => ?ophint, fun idle bid lead => ?bprep,
    fun bid b only id scope member fresh inside new => ⟨fun others => ?opens, fun ⟨m, far, other, missing⟩ => ?arrives⟩,
    fun bid b only id scope member there inside new => ⟨fun released => ?released, fun shut free => ?shut, fun shut blocked => ?blocked⟩,
    fun scope bid reserved => ?reserved⟩
  case fenced => exact congrArg Host.Outcome.next (if_pos ⟨may, ready⟩)
  case fence =>
    have shut : ¬((s.core c).mayIssue = true ∧ (s.core c).fenceOpen mask.toNat = true) :=
      fun h => absurd (h.2.symm.trans busy) (by decide)
    exact congrArg Host.Outcome.next (if_neg shut)
  case consumed => exact congrArg Host.Outcome.next (if_pos ⟨may, enough, rfl⟩)
  case seen => exact congrArg Host.Outcome.next (if_neg fun h => absurd h.2.2 (by decide))
  case waits => exact congrArg Host.Outcome.next (if_neg fun h => absurd h.2.1 (Nat.not_le.2 few))
  case step =>
    obtain ⟨core, steps⟩ := s.stepAct_effect c 0 stepid
    obtain ⟨w, h, committed⟩ := (s.core c).sameButTracks_commitAmax
    refine ⟨_, exec_step_of_open issuing queue sigs stepid, ?_⟩
    rw [State.core_updCore_self, core, committed]
    refine ⟨rfl, rfl, rfl, rfl, rfl, rfl, rfl, rfl, rfl, ?_, _, steps, ?_⟩
    · simp only [CoreState.markStep, running, and_true]
      rfl
    · rw [CoreState.take_stepRecord, committed]
  case own =>
    obtain ⟨opc, dir, ac, amount_⟩ := fld_arrive 0 i n
    obtain ⟨r, q, ve, ae, fe, le, se, entered, core, -, -, eng, tagged, slot⟩ := State.suEnter_effect issuing idle tag
      (syncWord 3 ((0 : BitVec 3).toNat * 2 ^ 53 + i.toNat * 2 ^ 48 + n.toNat * 2 ^ 24))
    rw [← slot] at opc dir ac amount_
    have ran := State.suRun_own (r := r) (c := c) opc (by rw [dir]; rfl)
    refine ⟨_, { q with st := .finished 0 0, detail := 0 },
      (exec_arrive_of_sound issuing amount (.inr rfl) tag i).trans (congrArg _ (entered.trans ran)), ?_, eng, tagged, rfl,
      fun debt fits => ?_⟩
    · rw [State.core_setCore_self]
      exact CoreState.queue_finish (by rw [CoreState.ownIncrement_queue, core]) 0 0 0
    · rw [State.core_setCore_self, core, ac, amount_]
      exact CoreState.ownIncrement_getAc (k := { s.core c with
        hcVe := ve, hcAe := ae, hcFe := fe, hcLe := le, hcSe := se, queue := [q], nextId := (s.core c).nextId + 1 }) _ _ debt fits
  case toward =>
    obtain ⟨opc, dirf, ac, amount_⟩ := fld_arrive dir i n
    obtain ⟨r, q, ve, ae, fe, le, se, entered, core, nb, -, eng, tagged, slot⟩ := State.suEnter_effect issuing idle tag
      (syncWord 3 (dir.toNat * 2 ^ 53 + i.toNat * 2 ^ 48 + n.toNat * 2 ^ 24))
    rw [← slot] at opc dirf ac amount_
    have ran := State.suRun_toward (r := r) (c := c) opc (by rw [dirf]; exact dir_) neighbour_
    refine ⟨_, { q with st := .executing }, _,
      (exec_arrive_of_sound issuing amount (.inl ⟨d, o, dir_, neighbour_⟩) tag i).trans (congrArg _ (entered.trans ran)), ?_, eng, rfl,
      by rw [nb], rfl, rfl, rfl, ac, amount_, tagged, rfl, rfl, rfl⟩
    exact (congrArg CoreState.queue (State.core_setCore_self _ _ _)).trans (by simp [CoreState.updEntry, core])
  case bad => exact State.st_updCore_coreFault issuing _ _
  case nop =>
    obtain ⟨r, q, ve, ae, fe, le, se, entered, core, -, -, eng, -, slot⟩ := State.suEnter_effect issuing idle 0 (syncWord 0 0)
    have ran := State.suRun_nop (r := r) (c := c) (q := q) (by rw [slot]; rfl)
    refine ⟨_, { q with st := .finished 0 0, detail := 0 }, congrArg Host.Outcome.next (entered.trans ran), ?_, eng, rfl⟩
    rw [State.core_setCore_self]
    exact CoreState.queue_finish (by rw [core]) 0 0 0
  case ophint =>
    obtain ⟨r, q, ve, ae, fe, le, se, entered, core, -, -, -, -, slot⟩ := State.suEnter_effect issuing idle 0
      (syncWord 7 (op.toNat * 2 ^ 48 + phase.toNat * 2 ^ 32))
    obtain ⟨opc, point, lead⟩ := fld_ophint op phase
    rw [← slot] at opc point lead
    have ran := State.suRun_ophint (r := r) (c := c) opc
    refine ⟨_, { q with st := .finished 0 0, detail := 0 }, congrArg Host.Outcome.next (entered.trans ran), ?_, rfl, ?_⟩
    · rw [State.core_setCore_self]
      exact CoreState.queue_finish (by rw [core]) 0 0 0
    · rw [State.core_setCore_self, point, lead]
      rfl
  case bprep =>
    obtain ⟨r, q, ve, ae, fe, le, se, entered, core, -, barriers, -, -, slot⟩ := State.suEnter_effect issuing idle 0
      (syncWord 6 (bid.toNat * 2 ^ 48 + lead.toNat * 2 ^ 32))
    obtain ⟨opc, id, time⟩ := fld_bprep bid lead
    rw [← slot] at opc id time
    have ran := State.suRun_bprep (r := r) (c := c) opc
    rw [id, time] at ran
    refine ⟨_, { q with st := .finished 0 0, detail := 0 }, congrArg Host.Outcome.next (entered.trans ran), ?_, rfl,
      fun b member same among package =>
        ⟨{ b with bpreps := b.bpreps.filter (fun x => x.1 ≠ c.val) ++ [(c.val, lead.toNat)] }, ?_, rfl, rfl, by simp⟩⟩
    · rw [State.core_updCore_self]
      exact CoreState.queue_finish (by rw [State.bprepHint, State.core_updHub, core]) 0 0 0
    · rw [State.updCore_hub]
      refine List.mem_map.2 ⟨b, by rw [barriers]; exact member, ?_⟩
      exact if_pos ⟨same, among, package⟩
  case opens =>
    have met : (b.arrive c).open_ = true := by
      simp only [Barrier.open_, Barrier.arrive, scope, Bool.false_eq_true, ↓reduceIte, List.all_eq_true, decide_eq_true_eq, List.mem_append,
        List.mem_singleton]
      exact fun m member => (Decidable.em (m = c.val)).elim .inr fun far => .inl (others m member far)
    refine ⟨_, exec_barrier issuing (by decide), ?_⟩
    rw [show decide ((0 : BitVec 2) = 1) = false from rfl, State.barrierTry_package only id scope member fresh inside new]
    dsimp only
    rw [if_pos met, State.core_updCore_self]
    exact ⟨rfl, rfl⟩
  case arrives =>
    have shut : ¬(b.arrive c).open_ = true := by
      simp only [Barrier.open_, Barrier.arrive, scope, Bool.false_eq_true, ↓reduceIte, List.all_eq_true, decide_eq_true_eq, List.mem_append,
        List.mem_singleton]
      exact fun all => (all m far).elim missing other
    refine ⟨_, b.arrive c, exec_barrier issuing (by decide), ?_⟩
    rw [show decide ((0 : BitVec 2) = 1) = false from rfl, State.barrierTry_package only id scope member fresh inside new]
    dsimp only
    rw [if_neg shut]
    exact ⟨rfl, rfl, rfl, rfl⟩
  case released =>
    refine ⟨_, exec_barrier issuing (by decide), ?_⟩
    rw [show decide ((1 : BitVec 2) = 1) = true from rfl, State.barrierTry_torus only id scope member there inside new, if_pos released,
      State.core_updCore_self]
    exact ⟨rfl, rfl⟩
  case shut =>
    rw [exec_barrier issuing (by decide), show decide ((1 : BitVec 2) = 1) = true from rfl,
      State.barrierTry_torus only id scope member there inside new, shut, if_neg (by decide), if_neg free]
  case blocked =>
    obtain ⟨cores, barriers⟩ := s.holdBlocked_frame c
    refine ⟨_, exec_barrier issuing (by decide), ?_⟩
    rw [show decide ((1 : BitVec 2) = 1) = true from rfl, State.barrierTry_torus only id scope member there inside new, shut,
      if_neg (by decide), if_pos blocked]
    dsimp only
    rw [State.core_congr cores, State.core_updCore_self, CoreState.hold_of_run running]
    exact ⟨rfl, barriers⟩
  case reserved =>
    have bad : ¬(s.core c).mayIssue = false := by rw [may]; decide
    exact ⟨_, congrArg Host.Outcome.next ((if_neg bad).trans (if_pos reserved)), State.st_updCore_coreFault issuing _ _⟩

end Sys2Proof.Machine

/-! PROOFS. The long word's issue (R106, R107). -/

namespace Sys2Proof.Machine

/-- What passes the checks of a decode is the word itself. -/
theorem decoded_of_checks {p1 p2 p3 p4 : Prop} [Decidable p1] [Decidable p2] [Decidable p3] [Decidable p4] {e1 e2 e3 e4 e5 : Byte × BitVec 16}
    {w0 w : LongWord}
    (h : (if p1 then Except.error e1 else if p2 then .error e2 else if p3 then .error e3 else if w0.opcodesOk = false then .error e4
      else if p4 then .error e5 else .ok w0) = .ok w) : w.opcodesOk = true := by
  split at h
  · cases h
  · split at h
    · cases h
    · split at h
      · cases h
      · split at h
        · cases h
        · rename_i ok
          split at h
          · cases h
          · cases h
            simpa using ok

/-- A word that decodes holds assigned opcodes (R113). -/
theorem CoreState.opcodesOk_of_decodeWord {k : CoreState} {c : Nat} {w : LongWord} (decoded : k.decodeWord c = .ok w) :
    w.opcodesOk = true := by
  unfold CoreState.decodeWord at decoded
  exact decoded_of_checks decoded

theorem LongWord.scalarKnown_of_opcodesOk {w : LongWord} (ok : w.opcodesOk = true) {o : W64} (slot : w.sSlot = some o) :
    scalarKnown (scalarOf o).opc = true := by
  simp only [LongWord.opcodesOk, slot, Bool.and_eq_true] at ok
  exact ok.1.2

/-- A scalar operation that computes writes a register, from the registers alone (Table 5.6). -/
theorem CoreState.runScalar_of_computes {k t : CoreState} (c : Nat) {o : ScalarOp} (tag : BitVec 16) (addr : W32) (draw : Nat)
    (registers : t.x = k.x) (known : scalarKnown o.opc = true) (computes : o.opc ≤ 0x12) :
    t.runScalar c o tag addr draw = { t with x := (k.runScalar c o 0 0 0).x } := by
  have get (n : Nat) : t.getX n = k.getX n := by simp only [CoreState.getX, registers]
  have put (n : Nat) (v : W64) : t.putX n v = { t with x := (k.putX n v).x } := by
    unfold CoreState.putX
    split
    · simp only [← registers]
    · simp only [registers]
  have assigned : o.opc = 0 ∨ (o.opc ≠ 0 ∧ o.opc ≤ 0x0B) ∨ o.opc = 0x10 ∨ o.opc = 0x11 ∨ o.opc = 0x12 := by
    simp [scalarKnown] at known
    omega
  unfold CoreState.runScalar
  rcases assigned with h | ⟨nonzero, alu⟩ | h | h | h
  · simp only [h, ↓reduceIte, ← registers]
  · simp only [nonzero, alu, ↓reduceIte, get, put]
  · simp only [h, get, put]; rfl
  · simp only [h, put]; rfl
  · simp only [h, get, put]; rfl

/-- The commands of a word's engine slots enter their queues one behind the other. -/
theorem CoreState.enqueue_feeds (tag : BitVec 16) (addr : W32) (inStep : Bool) (fs : List (Nat × Eng × W128)) :
    ∀ (k : CoreState) (ids : List (Nat × Nat)),
      let r := fs.foldl (fun (a : CoreState × List (Nat × Nat)) f =>
        (a.1.enqueue f.2.1 tag addr f.2.2 inStep, a.2 ++ [(f.1, a.1.nextId)])) (k, ids)
      r.1.queue.length = k.queue.length + fs.length ∧ r.1.sigs = k.sigs ∧ r.1.x = k.x ∧ r.1.doneReq = k.doneReq ∧
        r.1.stopReq = k.stopReq := by
  induction fs with
  | nil => exact fun k ids => ⟨rfl, rfl, rfl, rfl, rfl⟩
  | cons f fs ih =>
    intro k ids
    obtain ⟨_, _, _, _, _, q, entered, -⟩ := k.enqueue_effect f.2.1 tag addr f.2.2 inStep
    obtain ⟨queue, sigs, x, done, stop⟩ := ih (k.enqueue f.2.1 tag addr f.2.2 inStep) (ids ++ [(f.1, k.nextId)])
    rw [entered] at queue sigs x done stop
    rw [List.foldl_cons, entered]
    refine ⟨queue.trans ?_, sigs, x, done, stop⟩
    simp
    omega

theorem CoreState.alike_markStep (k : CoreState) (pc : Nat) : k.Alike (k.markStep pc) := ⟨rfl, rfl, rfl, rfl, rfl, rfl⟩

theorem CoreState.alike_hint (k : CoreState) (h : Option (Nat × Nat)) : k.Alike { k with hint := h } := ⟨rfl, rfl, rfl, rfl, rfl, rfl⟩

theorem State.alike_keepTrc (s : State) (c : Nat) (k : CoreState) : k.Alike (s.keepTrc c k) := by
  unfold State.keepTrc
  split
  · exact .refl k
  · exact ⟨rfl, rfl, rfl, rfl, rfl, rfl⟩

/-- A sync command that starts leaves its place in the queue. -/
theorem State.alike_suRun (s : State) (c : Nat) (q : QEntry) : (s.core c).Alike ((s.suRun c q).core c) := by
  unfold State.suRun
  dsimp only
  split
  · split
    · rw [State.core_setCore_self]
      exact (CoreState.alike_ownIncrement _ _ _ _ _).trans (CoreState.alike_finish _ _ _ _ _)
    · split
      · rw [State.core_setCore_self]
        exact CoreState.alike_finish _ _ _ _ _
      · exact .trans (CoreState.alike_updEntry (s.core c) q.id fun x => { x with st := .executing })
          (.of_eq (State.core_setCore_self _ _ _))
  · split
    · rw [State.core_updCore_self, State.bprepHint, State.core_updHub]
      exact CoreState.alike_finish _ _ _ _ _
    · split
      · rw [State.core_setCore_self]
        exact (CoreState.alike_hint _ _).trans (CoreState.alike_finish _ _ _ _ _)
      · rw [State.core_setCore_self]
        exact CoreState.alike_finish _ _ _ _ _

theorem State.alike_suStart (s : State) (c : Nat) : (s.core c).Alike ((s.suStart c).core c) := by
  unfold State.suStart
  split
  · exact .refl _
  · split
    · exact .refl _
    · exact .trans (.of_eq (State.core_traceEv _ _ _ _ _ _ _ _)) (State.alike_suRun _ _ _)

/-- The core once the waits have consumed and the word's blocking sync command has acted (R107, R116). -/
def State.syncActed (s : State) (c : Nat) (w : LongWord) : State :=
  let k0 := ((s.core c).waitTake w.wait0).waitTake w.wait1
  let s1 := (s.setCore c (k0.count 13)).traceEv c 0 w.tag 0 0 0
  let y := w.ySlot.getD 0
  match w.syncOpc with
  | some 1 => s1.updCore c fun k => k.fenceFlush (fld y 55 48)
  | some 2 =>
    let i := fld y 52 48
    let v := fld y 47 24
    if bitOf y 23 then s1.updCore c fun k => (k.putAc i (k.getAc i - v)).ledgerCons i v else s1
  | some 4 => s1.stepAct c w.tag (BitVec.ofNat 16 (fld y 47 32))
  | _ => s1

theorem State.alike_syncActed (s : State) (c : Nat) (w : LongWord) : (s.core c).Alike ((s.syncActed c w).core c) := by
  have taken : (s.core c).Alike (((s.setCore c ((((s.core c).waitTake w.wait0).waitTake w.wait1).count 13)).traceEv c 0 w.tag 0 0 0).core c) := by
    rw [State.core_traceEv, State.core_setCore_self]
    exact ((CoreState.alike_waitTake _ _).trans (CoreState.alike_waitTake _ _)).trans ⟨rfl, rfl, rfl, rfl, rfl, rfl⟩
  unfold State.syncActed
  dsimp only
  generalize (s.setCore c _).traceEv c 0 w.tag 0 0 0 = s1 at taken ⊢
  split
  · rw [State.core_updCore_self]
    exact taken.trans (CoreState.alike_fenceFlush _ _)
  · split
    · rw [State.core_updCore_self]
      exact taken.trans ((CoreState.alike_putAc _ _ _).trans (CoreState.alike_ledgerCons _ _ _))
    · exact taken
  · rw [(s1.stepAct_effect c w.tag _).1]
    exact taken.trans ((CoreState.alike_commitAmax _).trans ⟨rfl, rfl, rfl, rfl, rfl, rfl⟩)
  · exact taken

/-- The core once the word's commands have entered their queues, with the identifiers by slot (R111). -/
def CoreState.fed (k : CoreState) (w : LongWord) : CoreState × List (Nat × Nat) :=
  let inStep := !decide (w.syncOpc = some 4)
  let r := w.feeds.foldl (fun (a : CoreState × List (Nat × Nat)) f =>
    (a.1.enqueue f.2.1 w.tag (BitVec.ofNat 32 w.pc) f.2.2 inStep, a.2 ++ [(f.1, a.1.nextId)])) (k, [])
  match w.queuedSync with
  | some y => (r.1.enqueue .su w.tag (BitVec.ofNat 32 w.pc) (suSlot y) inStep, r.2 ++ [(5, r.1.nextId)])
  | none => r

/-- The word's SIG, armed for the commands that it names (R110). -/
def LongWord.signal (w : LongWord) (ids : List (Nat × Nat)) : List SigWait :=
  if w.sig / 64 = 0 then []
  else [{ sig := BitVec.ofNat 8 w.sig, waits := sigWaits w.sigsrc ids, tag := w.tag, inStep := !decide (w.syncOpc = some 4) }]

/-- The core past the word, before its scalar slot (R111). -/
def CoreState.passed (k : CoreState) (w : LongWord) : CoreState :=
  { (k.fed w).1 with pc := w.pc + w.len, sigs := (k.fed w).1.sigs ++ w.signal (k.fed w).2 }

/-- The core once the word's scalar slot and its step mark have acted. -/
def State.executed (s : State) (c : Nat) (w : LongWord) : CoreState :=
  let k1 := (s.core c).passed w
  let k2 := match w.sSlot with
    | some o => s.keepTrc c (k1.runScalar c (scalarOf o) w.tag (BitVec.ofNat 32 w.pc) s.free)
    | none => k1
  if decide (w.syncOpc = some 4) then k2.markStep k2.pc else k2

theorem State.issue_eq (s : State) (c : Nat) (w : LongWord) :
    s.issue c w =
      let s2 := s.syncActed c w
      let s3 := s2.setCore c (s2.executed c w)
      ((match w.sSlot with
        | some o => if drawsFree (scalarOf o) then s3.bump else s3
        | none => s3).suStart c).settle c := rfl

theorem CoreState.fed_effect (k : CoreState) (w : LongWord) :
    (k.fed w).1.queue.length = k.queue.length + w.feeds.length + (if w.queuedSync.isSome then 1 else 0) ∧ (k.fed w).1.sigs = k.sigs ∧
      (k.fed w).1.x = k.x ∧ (k.fed w).1.doneReq = k.doneReq ∧ (k.fed w).1.stopReq = k.stopReq := by
  obtain ⟨queue, sigs, x, done, stop⟩ :=
    CoreState.enqueue_feeds w.tag (BitVec.ofNat 32 w.pc) (!decide (w.syncOpc = some 4)) w.feeds k []
  unfold CoreState.fed
  dsimp only
  generalize w.feeds.foldl _ (k, []) = r at queue sigs x done stop ⊢
  split
  · rename_i y some_
    obtain ⟨_, _, _, _, _, q, entered, -⟩ :=
      r.1.enqueue_effect .su w.tag (BitVec.ofNat 32 w.pc) (suSlot y) (!decide (w.syncOpc = some 4))
    rw [entered, some_]
    exact ⟨by simp [queue], sigs, x, done, stop⟩
  · rename_i none_
    rw [none_]
    exact ⟨by simp [queue], sigs, x, done, stop⟩

theorem LongWord.length_signal (w : LongWord) (ids : List (Nat × Nat)) : (w.signal ids).length = if w.sig / 64 = 0 then 0 else 1 := by
  unfold LongWord.signal
  split <;> rfl

/-- A word whose scalar slot computes changes the registers by that slot alone. -/
theorem State.executed_effect {s : State} {c : Nat} {w : LongWord}
    (computes : ∀ o, w.sSlot = some o → scalarKnown (scalarOf o).opc = true ∧ (scalarOf o).opc ≤ 0x12) :
    ∃ x, CoreState.Alike { (s.core c).passed w with x := x } (s.executed c w) ∧ (w.sSlot = none → x = (s.core c).x) ∧
      ∀ o, w.sSlot = some o → x = ((s.core c).runScalar c (scalarOf o) 0 0 0).x := by
  obtain ⟨-, -, registers, -⟩ := (s.core c).fed_effect w
  have marked (k : CoreState) : k.Alike (if decide (w.syncOpc = some 4) then k.markStep k.pc else k) := by
    split
    · exact k.alike_markStep _
    · exact .refl k
  unfold State.executed
  dsimp only
  cases slot : w.sSlot with
  | none => exact ⟨(s.core c).x, .trans (.of_eq (by rw [← registers]; rfl)) (marked _), fun _ => rfl, fun o h => by cases h⟩
  | some o =>
    obtain ⟨known, low⟩ := computes o slot
    refine ⟨((s.core c).runScalar c (scalarOf o) 0 0 0).x, .trans ?_ (marked _), (fun h => absurd h (by simp)), fun o' h => ?_⟩
    rotate_left
    · rw [Option.some.inj h]
    dsimp only
    rw [CoreState.runScalar_of_computes (k := s.core c) (t := (s.core c).passed w) c w.tag (BitVec.ofNat 32 w.pc) s.free registers known low]
    exact s.alike_keepTrc c _

/-- The issue of a word on a core that waits for no drain (R107, R110, R111). -/
theorem State.issue_effect {s : State} {c : Nat} {w : LongWord} (done : (s.core c).doneReq = none) (stop : (s.core c).stopReq = false)
    (computes : ∀ o, w.sSlot = some o → scalarKnown (scalarOf o).opc = true ∧ (scalarOf o).opc ≤ 0x12) :
    let k := s.core c
    let t := (s.issue c w).core c
    t.pc = w.pc + w.len ∧
      t.queue.length = k.queue.length + w.feeds.length + (if w.queuedSync.isSome then 1 else 0) ∧
      t.sigs.length = k.sigs.length + (if w.sig / 64 = 0 then 0 else 1) ∧
      (w.sSlot = none → t.x = k.x) ∧ ∀ o, w.sSlot = some o → t.x = (k.runScalar c (scalarOf o) 0 0 0).x := by
  intro k t
  have acted := s.alike_syncActed c w
  obtain ⟨x, executed, unwritten, written⟩ := State.executed_effect (s := s.syncActed c w) (c := c) computes
  obtain ⟨queue, sigs, -, noDone, noStop⟩ := ((s.syncActed c w).core c).fed_effect w
  have started : CoreState.Alike { ((s.syncActed c w).core c).passed w with x := x }
      (((match w.sSlot with
        | some o => if drawsFree (scalarOf o) then ((s.syncActed c w).setCore c ((s.syncActed c w).executed c w)).bump
          else (s.syncActed c w).setCore c ((s.syncActed c w).executed c w)
        | none => (s.syncActed c w).setCore c ((s.syncActed c w).executed c w)).suStart c).core c) := by
    refine executed.trans (.trans (.of_eq ?_) (State.alike_suStart _ c))
    split
    · split
      · rw [State.core_bump, State.core_setCore_self]
      · rw [State.core_setCore_self]
    · rw [State.core_setCore_self]
  have settled : t = ((match w.sSlot with
        | some o => if drawsFree (scalarOf o) then ((s.syncActed c w).setCore c ((s.syncActed c w).executed c w)).bump
          else (s.syncActed c w).setCore c ((s.syncActed c w).executed c w)
        | none => (s.syncActed c w).setCore c ((s.syncActed c w).executed c w)).suStart c).core c := by
    simp only [t, State.issue_eq]
    rw [State.settle_of_no_drain]
    · exact started.doneReq.trans (noDone.trans (acted.doneReq.trans done))
    · exact started.stopReq.trans (noStop.trans (acted.stopReq.trans stop))
  rw [settled]
  refine ⟨started.pc, ?_, ?_, fun none_ => ?_, fun o slot => ?_⟩
  · exact started.queue.trans (queue.trans (by rw [acted.queue]))
  · refine (congrArg List.length started.sigs).trans ?_
    simp only [CoreState.passed, List.length_append, sigs, acted.sigs, LongWord.length_signal]
    rfl
  · exact started.x.trans ((unwritten none_).trans acted.x)
  · refine started.x.trans ((written o slot).trans ?_)
    obtain ⟨known, low⟩ := computes o slot
    rw [CoreState.runScalar_of_computes (k := k) c 0 0 0 acted.x known low]

/-- Settles O17. -/
theorem longWordIssue : Obligations.LongWordIssue := by
  unfold Obligations.LongWordIssue
  intro s c issuing k
  have may : (s.core c).mayIssue = true := issuing
  obtain ⟨running, noDone, noStop, -⟩ := CoreState.mayIssue_iff.1 issuing
  have next : exec (.longWordIssue c) s = execLongWordIssue c s := rfl
  refine ⟨fun f bad => ?bad, fun w decoded shut => ?shut, fun w decoded waits queues sync free computes => ?issues⟩
  case bad =>
    refine ⟨s.updCore c fun k => k.coreFault f.1 f.2 (BitVec.ofNat 32 k.pc) 0,
      { code := f.1, tag := f.2, addr := BitVec.ofNat 32 k.pc, stepno := k.stepno, detail := 0, again := false }, ?_⟩
    rw [State.core_updCore_self, CoreState.coreFault_of_run running]
    refine ⟨?_, rfl, rfl, rfl, rfl, rfl, rfl⟩
    simp only [next, execLongWordIssue, if_pos may, show (s.core c).decodeWord c = .error f from bad]
  case shut =>
    have closed : (s.core c).wordWaits w = false ∨ (s.core c).queuesOpen w = false ∨ (s.core c).syncOpen w = false := shut
    simp only [next, execLongWordIssue, if_pos may, show (s.core c).decodeWord c = .ok w from decoded, if_pos closed]
  case issues =>
    have opened : ¬((s.core c).wordWaits w = false ∨ (s.core c).queuesOpen w = false ∨ (s.core c).syncOpen w = false) := by
      rintro (h | h | h)
      · exact absurd (h.symm.trans waits) (by decide)
      · exact absurd (h.symm.trans queues) (by decide)
      · exact absurd (h.symm.trans sync) (by decide)
    refine ⟨s.issue c w, ?_, State.issue_effect noDone noStop fun o slot =>
      ⟨LongWord.scalarKnown_of_opcodesOk (CoreState.opcodesOk_of_decodeWord decoded) slot, computes o slot⟩⟩
    simp only [next, execLongWordIssue, if_pos may, show (s.core c).decodeWord c = .ok w from decoded, if_neg opened, if_neg free]

end Sys2Proof.Machine

/-! PROOFS. Writes of registers, windows and BAR0 (R42, R52, R74, R75, R82, R90, R131, R334). -/

namespace Sys2Proof.Machine

/-! ### A whole register -/

theorem leNat_eq_sum (bs : List Byte) : leNat bs = ((List.range bs.length).map fun j => (bs.getD j 0).toNat * 256 ^ j).sum := by
  induction bs with
  | nil => rfl
  | cons b bs ih =>
    have shift : (List.range bs.length).map (fun j => ((b :: bs).getD (j + 1) 0).toNat * 256 ^ (j + 1)) =
        (List.range bs.length).map fun j => 256 * ((bs.getD j 0).toNat * 256 ^ j) :=
      List.map_congr_left fun j _ => by rw [List.getD_cons_succ, Nat.pow_succ]; ring
    rw [leNat, ih, List.length_cons, List.range_succ_eq_map, List.map_cons, List.map_map, List.sum_cons]
    simp only [Function.comp_def, Nat.succ_eq_add_one, shift, List.sum_map_mul_left]
    simp

/-- The bytes of a register that a write covers whole. -/
theorem State.merged_whole (s : State) (c a : Nat) (bs : List Byte) :
    ((List.range bs.length).map fun j => s.mergeByte c a j a bs * 256 ^ j).sum = leNat bs := by
  rw [leNat_eq_sum]
  refine congrArg List.sum (List.map_congr_left fun j inside => ?_)
  have low : a ≤ a + j ∧ a + j < a + bs.length := ⟨Nat.le_add_right a j, by have := List.mem_range.1 inside; omega⟩
  rw [State.mergeByte, if_pos low, Nat.add_sub_cancel_left]

/-- A write of one whole register that is neither a macro's nor an accept window's. -/
theorem State.winWrite_whole {s : State} {c : Nat} {hub : Bool} {by_ : Writer} {a : Nat} {bs : List Byte} (some_ : bs ≠ [])
    (span : regSpan a = (a, bs.length)) (core : a < 0x04100000) (window : a < 0x040B0110 ∨ 0x040B0150 ≤ a) :
    s.winWrite c hub by_ a bs =
      s.updCore c fun k => k.regEffect hub a (leNat bs) fun j => decide (a ≤ a + j) && decide (a + j < a + bs.length) := by
  obtain ⟨b, rest, rfl⟩ := List.exists_cons_of_ne_nil some_
  have done (fuel x : Nat) (t : State) : State.winWriteGo t c hub by_ fuel x [] = t := by
    cases fuel <;> simp [State.winWriteGo]
  have whole : min (rest.length + 1) (a + (rest.length + 1) - a) = rest.length + 1 := by omega
  have macro_ : ¬(0x04100000 ≤ a ∧ a < 0x04148000) := by omega
  have accept : ¬(0x040B0110 ≤ a ∧ a < 0x040B0150 ∧ s.nbwinOpen c a = false) := by omega
  have all : (b :: rest).take (rest.length + 1) = b :: rest := List.take_of_length_le (by simp)
  have nothing : (b :: rest).drop (rest.length + 1) = [] := List.drop_eq_nil_of_le (by simp)
  have merged := s.merged_whole c a (b :: rest)
  rw [List.length_cons] at merged
  simp only [State.winWrite, State.winWriteGo, List.length_cons, List.isEmpty_cons, span, Bool.false_eq_true, ↓reduceIte, macro_,
    accept]
  rw [whole, all, nothing, done, merged]

/-! ### Registers of the array engine -/

section

variable {k : CoreState} {v : Nat} {cov : Nat → Bool}

theorem CoreState.regEffect_ammap (j : Fin 64) : k.regEffect true (0x040C0000 + j.val) v cov =
    { k with win := Win.write k.win (0x040C0000 + j.val) (BitVec.ofNat 8 (bitAt (bit v 7) 7 +
      if v % 128 < 72 then v % 128 else (Win.read k.win (0x040C0000 + j.val)).toNat % 128)) } := by
  have h := j.isLt
  unfold CoreState.regEffect
  dsimp only
  repeat rw [if_neg (by omega)]
  rw [if_neg (by decide)]
  repeat rw [if_neg (by omega)]
  rw [if_pos (by omega)]

theorem CoreState.regEffect_rescale (i : Fin 16384) (hub : Bool) : k.regEffect hub (0x04060000 + 4 * i.val) v cov =
    k.putW32 (0x04060000 + 4 * i.val) (BitVec.ofNat 32 (v % 2 ^ 30)) := by
  have h := i.isLt
  unfold CoreState.regEffect
  dsimp only
  repeat rw [if_neg (by omega)]
  rw [if_pos (by omega)]

theorem CoreState.regEffect_bn8 (i : Fin 2048) (hub : Bool) (other : v ≠ 0x8000) : k.regEffect hub (0x04074000 + 2 * i.val) v cov =
    { k with win := Win.putN k.win (0x04074000 + 2 * i.val) 2 v } := by
  have h := i.isLt
  unfold CoreState.regEffect
  dsimp only
  repeat rw [if_neg (by omega)]
  rw [if_pos (by omega), if_neg other]

theorem CoreState.regEffect_tile (T : TileId) (i : Fin 16384) (hub : Bool) : k.regEffect hub (tileVal T i) v cov =
    { k with win := Win.putN k.win (tileVal T i) 4 v }.putLaneSt T i .normal := by
  have h := i.isLt
  cases T with
  | ta =>
    have lane : (0x04000000 + 4 * i.val - 0x04000000) / 4 = i.val := by omega
    unfold CoreState.regEffect tileVal
    dsimp only
    rw [if_pos (by omega), lane]
  | tb =>
    have lane : (0x04010000 + 4 * i.val - 0x04010000) / 4 = i.val := by omega
    unfold CoreState.regEffect tileVal
    dsimp only
    rw [if_neg (by omega), if_pos (by omega), lane]

end

/-! ### Range monitors (R52) -/

theorem Win.read_clearRange (m : Memory) (a n x : Nat) :
    Win.read (Sparse.clearRange m a n) x = if a ≤ x ∧ x < a + n then winDefault x else Win.read m x := by
  have found := Sparse.find?_filter (fun y => decide ¬(a ≤ y ∧ y < a + n)) x m
  unfold Win.read Sparse.get Sparse.clearRange
  rw [found]
  by_cases inside : a ≤ x ∧ x < a + n <;> simp [inside]

/-- The two top bits of RMCFG as a write packs them. -/
theorem rmcfg_bits (e l d : Bool) (v : W32) :
    let w := BitVec.ofNat 32 (bitAt e 31 + bitAt l 30 + bitAt d 29 + fld v 28 2 * 4)
    bitOf w 31 = e ∧ bitOf w 30 = l := by
  have low : fld v 28 2 < 2 ^ 27 := bits_lt
  simp only [bitOf, bit, BitVec.toNat_ofNat]
  cases e <;> cases l <;> cases d <;> simp [bitAt] <;> omega

theorem CoreState.writeRmcfg_of_start {k : CoreState} {x : Nat} {v : W32} (some_ : x ≠ 0) (en : bitOf v 31 = true)
    (off : bitOf (k.w32 (rmAddr x)) 31 = false) : ∃ w, bitOf w 31 = true ∧ bitOf w 30 = true ∧
      k.writeRmcfg x v true = { k.putW32 (rmAddr x) w with
        win := Sparse.clearRange (k.putW32 (rmAddr x) w).win (rmRec x 0) 0x8000, rmDone := Sparse.erase k.rmDone x } := by
  obtain ⟨top, learn⟩ := rmcfg_bits true true (bitOf (k.w32 (rmAddr x)) 29 && !(true && bitOf v 29)) v
  refine ⟨_, top, learn, ?_⟩
  simp only [CoreState.writeRmcfg, if_neg some_, en, off, Bool.not_false, Bool.and_true, Bool.true_or, ↓reduceIte]
  rfl

theorem CoreState.writeRmcfg_of_kept {k : CoreState} {x : Nat} {v : W32} (some_ : x ≠ 0)
    (kept : bitOf v 31 = false ∨ bitOf (k.w32 (rmAddr x)) 31 = true) : ∃ w, bitOf w 31 = bitOf v 31 ∧
      bitOf w 30 = bitOf (k.w32 (rmAddr x)) 30 ∧ k.writeRmcfg x v true = k.putW32 (rmAddr x) w := by
  have same : (bitOf v 31 && !bitOf (k.w32 (rmAddr x)) 31) = false := by rcases kept with h | h <;> simp [h]
  obtain ⟨top, learn⟩ := rmcfg_bits (bitOf v 31) (bitOf (k.w32 (rmAddr x)) 30)
    (bitOf (k.w32 (rmAddr x)) 29 && !(true && bitOf v 29)) v
  refine ⟨_, top, learn, ?_⟩
  simp only [CoreState.writeRmcfg, if_neg some_, same, Bool.false_or, Bool.false_eq_true, ↓reduceIte]

theorem exec_rmcfgWrite (s : State) (c : CoreId) (x : Fin 16) (v : W32) :
    exec (.rmcfgWrite c x v) s = .next (s.updCore c fun k => k.writeRmcfg x v true) := rfl

/-! ### Tile windows and lane states -/

theorem CoreState.lane_putLaneSt (k : CoreState) (T : TileId) (i : Fin 16384) (x : LaneSt) : (k.putLaneSt T i x).lane T i = k.lane T i := by
  have h := i.isLt
  have apart (y : Nat) (low : tileVal T i ≤ y) (high : y < tileVal T i + 4) : y ≠ tileStAddr T i := by
    cases T <;> simp only [tileVal, tileStAddr] at * <;> omega
  exact congrArg (fun bs => signed 32 (leNat bs)) (Win.readN_congr fun y low high => Win.read_write_ne _ _ (apart y low high))

theorem CoreState.laneSt_putLaneSt (k : CoreState) (T : TileId) (i : Fin 16384) (x : LaneSt) : (k.putLaneSt T i x).laneSt T i = x := by
  have old := (Win.read k.win (tileStAddr T i)).isLt
  have num : laneStNum x < 4 := by cases x <;> decide
  have place : (BitVec.ofNat 8 ((Win.read k.win (tileStAddr T i)).toNat -
      (Win.read k.win (tileStAddr T i)).toNat / 4 ^ (i.val % 4) % 4 * 4 ^ (i.val % 4) +
      laneStNum x * 4 ^ (i.val % 4))).toNat / 4 ^ (i.val % 4) % 4 = laneStNum x := by
    have four : i.val % 4 = 0 ∨ i.val % 4 = 1 ∨ i.val % 4 = 2 ∨ i.val % 4 = 3 := by omega
    rw [BitVec.toNat_ofNat]
    rcases four with h | h | h | h <;> rw [h] <;> omega
  simp only [CoreState.laneSt, CoreState.putLaneSt, Win.read_write_self]
  rw [laneStOf, place]
  cases x <;> rfl

/-! ### Which writes wait -/

section

variable {k : CoreState} {a n lo hi : Nat}

theorem touches_of_apart (apart : hi ≤ a ∨ a + n ≤ lo) : touches a n lo hi = false := by
  simp only [touches, Bool.and_eq_false_iff, decide_eq_false_iff_not]
  omega

theorem touches_of_inside (low : lo ≤ a) (high : a + n ≤ hi) (some_ : 0 < n) : touches a n lo hi = true := by
  simp only [touches, Bool.and_eq_true, decide_eq_true_eq]
  omega

/-- Outside the tile windows no tile keeps a write waiting. -/
theorem CoreState.tileWaits_of_outside (outside : 0x04022000 ≤ a) : k.tileWaits a n = false := by
  simp only [CoreState.tileWaits, touches_of_apart (.inl (by omega : 0x04010000 ≤ a)), touches_of_apart (.inl (by omega : 0x04021000 ≤ a)),
    touches_of_apart (.inl (by omega : 0x04020000 ≤ a)), touches_of_apart (.inl outside), Bool.or_false, Bool.and_false]

/-- A write of the rescale table waits for a drain, and for nothing else (R74). -/
theorem CoreState.writeWaits_rescale (i : Fin 16384) : k.writeWaits (0x04060000 + 4 * i.val) 4 =
    (decide (k.ta.st = .draining) || decide (k.tb.st = .draining)) := by
  have h := i.isLt
  simp only [CoreState.writeWaits, CoreState.tileWaits_of_outside (k := k) (by omega : 0x04022000 ≤ 0x04060000 + 4 * i.val),
    touches_of_inside (by omega : 0x04060000 ≤ 0x04060000 + 4 * i.val) (by omega : _ ≤ 0x04070000) (by omega : 0 < 4),
    touches_of_apart (hi := 0x04075100) (.inr (by omega : 0x04060000 + 4 * i.val + 4 ≤ 0x04074000)),
    touches_of_apart (hi := 0x04082080) (.inr (by omega : 0x04060000 + 4 * i.val + 4 ≤ 0x04080000)),
    Bool.false_or, Bool.or_false, Bool.and_true, Bool.false_and]

/-- A write of a BN8 entry waits for a drain, and for a started VE command that reads the table (R90, R176). -/
theorem CoreState.writeWaits_bn8 (i : Fin 2048) : k.writeWaits (0x04074000 + 2 * i.val) 2 =
    (decide (k.ta.st = .draining) || decide (k.tb.st = .draining) ||
      k.queue.any fun q => decide (q.eng = .ve) && decide (q.st ≠ .waiting) && veReadsTable q (0x04074000 + 2 * i.val) 2) := by
  have h := i.isLt
  simp only [CoreState.writeWaits, CoreState.tileWaits_of_outside (k := k) (by omega : 0x04022000 ≤ 0x04074000 + 2 * i.val),
    touches_of_apart (lo := 0x04060000) (.inl (by omega : 0x04070000 ≤ 0x04074000 + 2 * i.val)),
    touches_of_inside (by omega : 0x04074000 ≤ 0x04074000 + 2 * i.val) (by omega : _ ≤ 0x04075100) (by omega : 0 < 2),
    Bool.false_or, Bool.true_or, Bool.and_true, Bool.true_and]

/-- A lane's value is written while its tile is FULL or EMPTY (Table 2.6). -/
theorem CoreState.writeWaits_tile (T : TileId) (i : Fin 16384) :
    k.writeWaits (tileVal T i) 4 = (decide ((k.tile T).st = .filling) || decide ((k.tile T).st = .draining)) := by
  have h := i.isLt
  cases T with
  | ta =>
    simp only [CoreState.writeWaits, CoreState.tileWaits, tileVal, CoreState.tile,
      touches_of_inside (by omega : 0x04000000 ≤ 0x04000000 + 4 * i.val) (by omega : _ ≤ 0x04010000) (by omega : 0 < 4),
      touches_of_apart (hi := 0x04020000) (.inr (by omega : 0x04000000 + 4 * i.val + 4 ≤ 0x04010000)),
      touches_of_apart (hi := 0x04022000) (.inr (by omega : 0x04000000 + 4 * i.val + 4 ≤ 0x04021000)),
      touches_of_apart (hi := 0x04070000) (.inr (by omega : 0x04000000 + 4 * i.val + 4 ≤ 0x04060000)),
      touches_of_apart (hi := 0x04075100) (.inr (by omega : 0x04000000 + 4 * i.val + 4 ≤ 0x04074000)),
      touches_of_apart (hi := 0x04082080) (.inr (by omega : 0x04000000 + 4 * i.val + 4 ≤ 0x04080000)),
      Bool.true_or, Bool.and_true, Bool.or_false, Bool.and_false, Bool.false_and]
    rfl
  | tb =>
    simp only [CoreState.writeWaits, CoreState.tileWaits, tileVal, CoreState.tile,
      touches_of_inside (by omega : 0x04010000 ≤ 0x04010000 + 4 * i.val) (by omega : _ ≤ 0x04020000) (by omega : 0 < 4),
      touches_of_apart (lo := 0x04000000) (.inl (by omega : 0x04010000 ≤ 0x04010000 + 4 * i.val)),
      touches_of_apart (hi := 0x04021000) (.inr (by omega : 0x04010000 + 4 * i.val + 4 ≤ 0x04020000)),
      touches_of_apart (hi := 0x04070000) (.inr (by omega : 0x04010000 + 4 * i.val + 4 ≤ 0x04060000)),
      touches_of_apart (hi := 0x04075100) (.inr (by omega : 0x04010000 + 4 * i.val + 4 ≤ 0x04074000)),
      touches_of_apart (hi := 0x04082080) (.inr (by omega : 0x04010000 + 4 * i.val + 4 ≤ 0x04080000)),
      Bool.true_or, Bool.and_true, Bool.or_false, Bool.and_false, Bool.false_and, Bool.false_or]
    rfl

end

/-! ### The statements -/

theorem regSpan_ammap (j : Fin 64) : regSpan (0x040C0000 + j.val) = (0x040C0000 + j.val, 1) := by
  have h := j.isLt
  unfold regSpan
  dsimp only
  repeat rw [if_neg (by omega)]
  rw [if_pos (by omega)]

theorem regSpan_rescale (i : Fin 16384) : regSpan (0x04060000 + 4 * i.val) = (0x04060000 + 4 * i.val, 4) := by
  have h := i.isLt
  unfold regSpan
  dsimp only
  repeat rw [if_neg (by omega)]
  rw [if_pos (by omega), show (0x04060000 + 4 * i.val) / 4 * 4 = 0x04060000 + 4 * i.val by omega]

theorem regSpan_bn8 (i : Fin 2048) : regSpan (0x04074000 + 2 * i.val) = (0x04074000 + 2 * i.val, 2) := by
  have h := i.isLt
  unfold regSpan
  dsimp only
  repeat rw [if_neg (by omega)]
  rw [if_pos (by omega), show (0x04074000 + 2 * i.val) / 2 * 2 = 0x04074000 + 2 * i.val by omega]

theorem tileVal_bounds (T : TileId) (i : Fin 16384) : 0x04000000 ≤ tileVal T i ∧ tileVal T i + 4 ≤ 0x04020000 ∧ tileVal T i % 4 = 0 := by
  have h := i.isLt
  cases T <;> simp only [tileVal] <;> omega

theorem regSpan_tile (T : TileId) (i : Fin 16384) : regSpan (tileVal T i) = (tileVal T i, 4) := by
  obtain ⟨low, high, aligned⟩ := tileVal_bounds T i
  unfold regSpan
  dsimp only
  rw [if_pos (by omega), show tileVal T i / 4 * 4 = tileVal T i by omega]

theorem leNat_leBytes_toNat {n : Nat} (v : BitVec (8 * n)) : leNat (leBytes n v.toNat) = v.toNat := by
  have small := v.isLt
  rw [Nat.pow_mul] at small
  rw [leNat_leBytes, Nat.mod_eq_of_lt small]

/-- MARK_FULL beside the present fields leaves them (R42, Table 2.8). -/
theorem Tile.write_markFull {x : Tile} (open_ : x.st = .empty ∨ x.st = .full) (shift : x.tshift ≤ 5) :
    x.write (x.desc % 2 ^ 30 + 2 ^ 29) true = { x with st := .full } := by
  have fields : bit (x.desc % 2 ^ 30 + 2 ^ 29) 29 = true ∧ bit (x.desc % 2 ^ 30 + 2 ^ 29) 28 = x.spec ∧
      bits (x.desc % 2 ^ 30 + 2 ^ 29) 27 25 = x.tshift := by
    unfold Tile.desc bit bits bitAt
    generalize tileStNum x.st = n
    cases x.spec
    · exact ⟨decide_eq_true (by simp only [Bool.false_eq_true, ↓reduceIte]; omega),
        decide_eq_false (by simp only [Bool.false_eq_true, ↓reduceIte]; omega), by simp only [Bool.false_eq_true, ↓reduceIte]; omega⟩
    · exact ⟨decide_eq_true (by simp only [↓reduceIte]; omega), decide_eq_true (by simp only [↓reduceIte]; omega),
        by simp only [↓reduceIte]; omega⟩
  obtain ⟨mark, spec, tshift⟩ := fields
  rw [Tile.write, if_pos ⟨rfl, open_⟩, mark, spec, tshift, if_pos shift]
  rcases open_ with h | h <;> simp [h]

theorem Tile.write_of_full {x : Tile} (full : x.st = .full) (v : W32) : x.write v.toNat true =
    { st := .full, spec := bitOf v 28, tshift := if fld v 27 25 ≤ 5 then fld v 27 25 else x.tshift } := by
  have stays : (if bit v.toNat 29 = true ∧ x.st = .empty then TileSt.full else x.st) = .full := by simp [full]
  rw [Tile.write, if_pos ⟨rfl, .inr full⟩, stays]
  rfl

theorem Tile.write_of_empty {x : Tile} (empty : x.st = .empty) (v : W32) : x.write v.toNat true =
    { st := if bitOf v 29 then .full else .empty, spec := bitOf v 28,
      tshift := if fld v 27 25 ≤ 5 then fld v 27 25 else x.tshift } := by
  have marked : (if bit v.toNat 29 = true ∧ x.st = .empty then TileSt.full else x.st) = if bitOf v 29 then .full else .empty := by
    simp only [empty, and_true]
    rfl
  rw [Tile.write, if_pos ⟨rfl, .inl empty⟩, marked]
  rfl

theorem Tile.write_of_busy {x : Tile} (busy : x.st = .filling ∨ x.st = .draining) (v : Nat) (cov3 : Bool) : x.write v cov3 = x := by
  refine if_neg ?_
  rcases busy with h | h <;> simp [h]

/-- Settles O10. -/
theorem arrayRegisterAndWindowWrites : Obligations.ArrayRegisterAndWindowWrites := by
  unfold Obligations.ArrayRegisterAndWindowWrites
  refine ⟨fun s c => ⟨fun j v phys => ?ammap, fun T v => ?tile, fun i scale => ⟨fun normal => ?scale, fun other => ?refused⟩,
    fun t v none_ => ?now, fun t v pending => ?held, fun i v ta tb => ?rescale, fun i v draining => ?drains⟩,
    fun s c => ⟨fun x v => ⟨fun some_ en off => ?start, fun some_ kept => ?kept, fun zero => ?zero⟩, fun T e i v eng => ⟨fun free => ?lane,
      fun busy => ?busy⟩, fun e addr data le se ve => ?others, fun i v => ⟨fun other ta tb idle => ?bn8, fun used => ?used⟩⟩⟩
  case ammap =>
    have value : BitVec.ofNat 8 (bitAt (bit v.toNat 7) 7 + if v.toNat % 128 < 72 then v.toNat % 128 else
        (Win.read (s.core c).win (0x040C0000 + j.val)).toNat % 128) = v := by
      rw [if_pos phys]
      apply BitVec.eq_of_toNat_eq
      have small := v.isLt
      by_cases top : v.toNat / 2 ^ 7 % 2 = 1
      · simp only [bit, bitAt, top, decide_true, ↓reduceIte, BitVec.toNat_ofNat]
        omega
      · simp only [bit, bitAt, top, decide_false, Bool.false_eq_true, ↓reduceIte, BitVec.toNat_ofNat]
        omega
    have written := State.winWrite_whole (s := s) (c := c) (hub := true) (by_ := .loader) (bs := [v]) (by simp) (regSpan_ammap j)
      (by omega) (by omega)
    refine ⟨_, congrArg Host.Outcome.next written, ?_⟩
    rw [State.core_updCore_self, CoreState.regEffect_ammap, show leNat [v] = v.toNat by simp [leNat], value]
    exact ⟨Win.read_write_self _ _ _, fun a other => Win.read_write_ne _ _ other, rfl, rfl⟩
  case tile =>
    intro x put
    refine ⟨fun empty shift => ?_, fun full shift => ?_, fun busy => ?_, fun full => ?_, fun empty => ?_, fun busy => ?_⟩
    · exact congrArg put (Tile.write_markFull (.inl empty) shift)
    · exact congrArg put ((Tile.write_markFull (.inr full) shift).trans (by rw [← full]))
    · exact congrArg put (Tile.write_of_busy busy _ _)
    · exact congrArg put (Tile.write_of_full full v)
    · exact congrArg put (Tile.write_of_empty empty v)
    · exact congrArg put (Tile.write_of_busy busy _ _)
  case scale => exact congrArg (fun k => Host.Outcome.next (s.setCore c k)) (if_pos normal)
  case refused =>
    exact congrArg (fun k => Host.Outcome.next (s.setCore c k)) (if_neg (by rw [other]; decide))
  case now => exact congrArg (fun k => Host.Outcome.next (s.setCore c k)) (if_pos none_)
  case held => exact congrArg (fun k => Host.Outcome.next (s.setCore c k)) (if_neg pending)
  case rescale =>
    have free : ¬(s.core c).writeWaits (0x04060000 + 4 * i.val) 4 = true := by rw [CoreState.writeWaits_rescale]; simp [ta, tb]
    have written := State.winWrite_whole (s := s) (c := c) (hub := false) (by_ := .program) (bs := leBytes 4 v.toNat)
      (List.ne_nil_of_length_pos (by simp)) (by rw [leBytes_length]; exact regSpan_rescale i) (by omega) (by omega)
    refine ⟨_, congrArg Host.Outcome.next ((if_neg free).trans written), ?_⟩
    rw [State.core_updCore_self, CoreState.regEffect_rescale, leNat_leBytes_toNat (n := 4) v, CoreState.w32_putW32_self]
    refine ⟨?_, rfl, rfl⟩
    apply BitVec.eq_of_toNat_eq
    rw [BitVec.toNat_and]
    have mask : v.toNat &&& BitVec.toNat (0x3FFFFFFF : BitVec 32) = v.toNat % 2 ^ 30 := Nat.and_two_pow_sub_one_eq_mod _ 30
    rw [mask, BitVec.toNat_ofNat]
    omega
  case drains =>
    have waits : (s.core c).writeWaits (0x04060000 + 4 * i.val) 4 = true := by
      rw [CoreState.writeWaits_rescale]; simpa using draining
    exact congrArg Host.Outcome.next (if_pos waits)
  case start =>
    obtain ⟨w, en', learn, e⟩ := CoreState.writeRmcfg_of_start (k := s.core c) some_ en off
    refine ⟨_, exec_rmcfgWrite s c x v, ?_⟩
    have low := x.isLt
    have kept : CoreState.w32 { (s.core c).putW32 (rmAddr x) w with
        win := Sparse.clearRange ((s.core c).putW32 (rmAddr x) w).win (rmRec x 0) 0x8000,
        rmDone := Sparse.erase (s.core c).rmDone x } (rmAddr x) = w := by
      refine Eq.trans ?_ (CoreState.w32_putW32_self (k := s.core c) (a := rmAddr x))
      refine congrArg (fun bs => BitVec.ofNat 32 (leNat bs)) (Win.readN_congr fun y first last => ?_)
      rw [Win.read_clearRange, if_neg]
      simp only [rmAddr, rmRec] at *
      omega
    rw [State.core_updCore_self, e, kept]
    refine ⟨en', learn, rfl, fun a inside => ?_⟩
    rw [Win.read_clearRange, if_pos (by omega)]
  case kept =>
    obtain ⟨w, en', learn, e⟩ := CoreState.writeRmcfg_of_kept (k := s.core c) some_ kept
    refine ⟨_, exec_rmcfgWrite s c x v, ?_⟩
    have low := x.isLt
    rw [State.core_updCore_self, e, CoreState.w32_putW32_self]
    refine ⟨en', learn, rfl, fun a inside => Win.read_putN_ne ?_⟩
    simp only [rmAddr, rmRec]
    omega
  case zero =>
    exact congrArg (fun k => Host.Outcome.next (s.setCore c k)) (if_pos zero)
  case lane =>
    obtain ⟨low, high, -⟩ := tileVal_bounds T i
    have addr : (BitVec.ofNat 30 (tileVal T i)).toNat = tileVal T i := by rw [BitVec.toNat_ofNat]; omega
    have idle : ¬(s.core c).writeWaits (tileVal T i) (leBytes 4 v.toNat).length = true := by
      rw [leBytes_length, CoreState.writeWaits_tile]
      rcases free with h | h <;> simp [h]
    have inside : (e = .le ∨ e = .se ∨ e = .ve) ∧ 0x04000000 ≤ tileVal T i ∧ tileVal T i + (leBytes 4 v.toNat).length ≤ 0x04022000 :=
      ⟨eng, low, by rw [leBytes_length]; omega⟩
    have written := State.winWrite_whole (s := s) (c := c) (hub := false) (by_ := .program) (bs := leBytes 4 v.toNat)
      (List.ne_nil_of_length_pos (by simp)) (by rw [leBytes_length]; exact regSpan_tile T i) (by omega) (.inl (by omega))
    refine ⟨s.updCore c fun k => { k with win := Win.putN k.win (tileVal T i) 4 v.toNat }.putLaneSt T i .normal, ?_, ?_, ?_, ?_⟩
    · show execTileWindowWrite c e _ _ s = _
      simp only [execTileWindowWrite, addr, if_pos inside, if_neg idle, written, CoreState.regEffect_tile,
        leNat_leBytes_toNat (n := 4) v]
    · rw [State.core_updCore_self, CoreState.lane_putLaneSt]
      exact congrArg (signed 32) (Win.getN_putN_self (n := 4) v.isLt)
    · rw [State.core_updCore_self, CoreState.laneSt_putLaneSt]
    · rw [State.core_updCore_self]
      rfl
  case busy =>
    obtain ⟨low, high, -⟩ := tileVal_bounds T i
    have addr : (BitVec.ofNat 30 (tileVal T i)).toNat = tileVal T i := by rw [BitVec.toNat_ofNat]; omega
    have waits : (s.core c).writeWaits (tileVal T i) (leBytes 4 v.toNat).length = true := by
      rw [leBytes_length, CoreState.writeWaits_tile]
      simpa using busy
    have inside : (e = .le ∨ e = .se ∨ e = .ve) ∧ 0x04000000 ≤ tileVal T i ∧ tileVal T i + (leBytes 4 v.toNat).length ≤ 0x04022000 :=
      ⟨eng, low, by rw [leBytes_length]; omega⟩
    show execTileWindowWrite c e _ _ s = _
    simp only [execTileWindowWrite, addr, if_pos inside, if_pos waits]
  case others =>
    refine congrArg Host.Outcome.next (if_neg ?_)
    rintro ⟨h | h | h, -⟩
    · exact le h
    · exact se h
    · exact ve h
  case bn8 =>
    have low := i.isLt
    have addr : (BitVec.ofNat 30 (0x04074000 + 2 * i.val)).toNat = 0x04074000 + 2 * i.val := by rw [BitVec.toNat_ofNat]; omega
    have free : ¬(s.core c).writeWaits (0x04074000 + 2 * i.val) (leBytes 2 v.toNat).length = true := by
      rw [leBytes_length, CoreState.writeWaits_bn8]
      simp only [ta, tb, decide_false, Bool.false_or, Bool.not_eq_true, List.any_eq_false, Bool.and_eq_true, decide_eq_true_eq, not_and]
      rintro q member ⟨ve, started⟩
      simpa using (idle q member ve).resolve_left started
    have inside : (0x04074000 ≤ 0x04074000 + 2 * i.val ∧ 0x04074000 + 2 * i.val + (leBytes 2 v.toNat).length ≤ 0x04075100) ∨
        (0x04080000 ≤ 0x04074000 + 2 * i.val ∧ 0x04074000 + 2 * i.val + (leBytes 2 v.toNat).length ≤ 0x04082080) :=
      .inl ⟨by omega, by rw [leBytes_length]; omega⟩
    have some_ : v.toNat ≠ 0x8000 := fun h => other (BitVec.eq_of_toNat_eq h)
    have written := State.winWrite_whole (s := s) (c := c) (hub := false) (by_ := .program) (bs := leBytes 2 v.toNat)
      (List.ne_nil_of_length_pos (by simp)) (by rw [leBytes_length]; exact regSpan_bn8 i) (by omega) (by omega)
    refine ⟨s.updCore c fun k => { k with win := Win.putN k.win (0x04074000 + 2 * i.val) 2 v.toNat }, ?_, ?_, ?_⟩
    · show execOutputTableWrite c _ _ s = _
      simp only [execOutputTableWrite, addr, if_pos inside, if_neg free, written, leNat_leBytes_toNat (n := 2) v,
        CoreState.regEffect_bn8 i false some_]
    · rw [State.core_updCore_self]
      exact Win.getN_putN_self (n := 2) v.isLt
    · rw [State.core_updCore_self]
  case used =>
    have low := i.isLt
    have addr : (BitVec.ofNat 30 (0x04074000 + 2 * i.val)).toNat = 0x04074000 + 2 * i.val := by rw [BitVec.toNat_ofNat]; omega
    have waits : (s.core c).writeWaits (0x04074000 + 2 * i.val) (leBytes 2 v.toNat).length = true := by
      rw [leBytes_length, CoreState.writeWaits_bn8]
      simp only [Bool.or_eq_true, decide_eq_true_eq, List.any_eq_true, Bool.and_eq_true, and_assoc, or_assoc]
      exact used
    have inside : (0x04074000 ≤ 0x04074000 + 2 * i.val ∧ 0x04074000 + 2 * i.val + (leBytes 2 v.toNat).length ≤ 0x04075100) ∨
        (0x04080000 ≤ 0x04074000 + 2 * i.val ∧ 0x04074000 + 2 * i.val + (leBytes 2 v.toNat).length ≤ 0x04082080) :=
      .inl ⟨by omega, by rw [leBytes_length]; omega⟩
    show execOutputTableWrite c _ _ s = _
    simp only [execOutputTableWrite, addr, if_pos inside, if_pos waits]

end Sys2Proof.Machine

/-! PROOFS. Register writes without a row of their own (R131, R144, R334). -/

namespace Sys2Proof.Machine

section

variable {s : State} {c : CoreId} {a : Nat} {bs : List Byte}

/-- Bytes written to a sound scratchpad are those bytes and no others (R138). -/
theorem State.pad_written (sound : (s.core c).badLanes = []) :
    let t := (s.setCore c ((s.core c).spWrite bs.length a bs).1).answer 0 []
    ((s.core c).spWrite bs.length a bs).2 = none ∧
      (∀ i, i < bs.length → Memory.read (t.core c).sp (a + i) = bs.getD i 0) ∧
      (∀ x, x < a ∨ a + bs.length ≤ x → Memory.read (t.core c).sp x = Memory.read (s.core c).sp x) ∧
      (t.core c).win = (s.core c).win ∧ t.reply = { status := 0, data := [] } := by
  obtain ⟨inside, outside⟩ := CoreState.read_writeL (s.core c).sp a bs
  rw [CoreState.spWrite_of_sound bs.length (s.core c) a bs sound (Nat.le_refl _)]
  dsimp only
  rw [State.core_answer, State.core_setCore_self]
  exact ⟨rfl, inside, outside, rfl, rfl⟩

theorem State.hubWrite_of_pad (low : a + bs.length ≤ 0x03000000) :
    s.hubWrite c a bs = (s.setCore c ((s.core c).spWrite bs.length a bs).1).answer 0 [] := by
  rw [State.hubWrite, if_neg (by omega), if_pos low]

/-- A register write of an engine, as the checks of R144 see it. -/
def writeOperand (a n : Nat) : Operand :=
  { ent := none, base := a, lo := a, hi := a + n, rd := false, wr := true, aligned := true }

theorem regionFor_of_pad {n : Nat} (low : a + n ≤ 0x03000000) : regionFor (a : Int) ((a : Int) + n) = some (0, 0x03000000, .engines) := by
  have inside : (decide (((0 : Nat) : Int) ≤ (a : Int)) && decide ((a : Int) + n ≤ ((0x03000000 : Nat) : Int))) = true := by
    simp only [Bool.and_eq_true, decide_eq_true_eq]
    omega
  simp only [regionFor, regionsOf61, List.find?_cons, inside]

/-- A write inside regions that the core owns passes (R141, R144). -/
theorem State.checkOps_of_owned {n : Nat} (win : Bool) (low : a + n ≤ 0x03000000)
    (owned : (regionsTouched (a : Int) ((a : Int) + n)).all (s.core c).ownsRegion = true) : s.checkOps c win [writeOperand a n] = 0 := by
  have passes : s.opFail c win (writeOperand a n) = none := by
    simp only [State.opFail, writeOperand, regionFor_of_pad low, owned, ↓reduceIte, Bool.true_eq_false]
  simp only [State.checkOps, List.filterMap_cons, passes, List.filterMap_nil]
  rfl

end

theorem exec_registerWrite_hub {c : CoreId} {a : BitVec 30} {data : List Byte} (some_ : data ≠ []) (s : State) :
    exec (.registerWrite (.core c a) .hub data) s = .next (s.hubWrite c a.toNat data) :=
  congrArg Host.Outcome.next (if_neg (by simpa using some_))

theorem exec_registerWrite_engine {c : CoreId} {a : BitVec 30} {e : Eng} {data : List Byte} (some_ : data ≠ []) (s : State) :
    exec (.registerWrite (.core c a) (.engine e) data) s = .next (s.engineWrite c e a.toNat data) :=
  congrArg Host.Outcome.next (if_neg (by simpa using some_))

theorem exec_registerWrite_bar0 {p : HPort} {o : BitVec 21} {w : RegWriter} {data : List Byte} (some_ : data ≠ []) (s : State) :
    exec (.registerWrite (.bar0 p o) w data) s = .next (s.barWrite p o.toNat data) := by
  cases w <;> exact congrArg Host.Outcome.next (if_neg (by simpa using some_))

/-- Settles O32. -/
theorem registerWrites : Obligations.RegisterWrites := by
  unfold Obligations.RegisterWrites
  intro s c p w k op
  refine ⟨fun a data some_ low sound => ⟨?pad, fun e owned => ?owned⟩,
    fun a data some_ high => ⟨fun listed free => ?written, fun listed busy => ?waits, fun unlisted => ?unlisted,
      fun e => ?engine⟩, fun b => ?gap, fun b => ?devstat, fun b => ?reserved⟩
  case pad =>
    obtain ⟨-, written⟩ := State.pad_written (s := s) (c := c) (a := a.toNat) (bs := data) sound
    exact ⟨_, (exec_registerWrite_hub some_ s).trans (congrArg _ (State.hubWrite_of_pad low)), written⟩
  case owned =>
    obtain ⟨clean, written⟩ := State.pad_written (s := s) (c := c) (a := a.toNat) (bs := data) sound
    refine ⟨_, (exec_registerWrite_engine some_ s).trans (congrArg _ ?_), written⟩
    have passes : ¬s.checkOps c (decide (e = .le) || decide (e = .se) || decide (e = .ve)) [writeOperand a.toNat data.length] ≠ 0 :=
      not_not_intro (State.checkOps_of_owned _ low owned)
    refine (if_neg passes).trans ((if_neg (by omega)).trans ((if_neg (by omega)).trans ?_))
    dsimp only
    rw [clean]
  case written =>
    rw [exec_registerWrite_hub some_, State.hubWrite, if_pos high]
    obtain ⟨r, region⟩ := Option.ne_none_iff_exists'.1 listed
    rw [region]
    exact congrArg _ (if_neg (by rw [show (s.core c).writeWaits a.toNat data.length = false from free]; decide))
  case waits =>
    rw [exec_registerWrite_hub some_, State.hubWrite, if_pos high]
    obtain ⟨r, region⟩ := Option.ne_none_iff_exists'.1 listed
    rw [region]
    exact congrArg _ (if_pos busy)
  case unlisted =>
    rw [exec_registerWrite_hub some_, State.hubWrite, if_pos high, unlisted]
  case engine =>
    rw [exec_registerWrite_engine some_]
    refine ⟨fun fails => congrArg _ (if_pos fails),
      fun passes busy => congrArg _ ((if_neg (not_not_intro passes)).trans (if_pos ⟨high, busy⟩)),
      fun passes free => congrArg _ ((if_neg (not_not_intro passes)).trans ((if_neg ?_).trans (if_pos high)))⟩
    rintro ⟨-, h⟩
    exact absurd (h.symm.trans free) (by decide)
  case gap =>
    rw [exec_registerWrite_hub (by simp)]
    exact congrArg _ ((if_neg (by decide)).trans (if_neg (by simp)))
  case devstat => exact exec_registerWrite_bar0 (by simp) s
  case reserved => exact exec_registerWrite_bar0 (by simp) s

end Sys2Proof.Machine

/-! PROOFS. LFILL, LCOPY and SCOPY (R115, R124, R137, R139, R154). -/

namespace Sys2Proof.Machine

section

variable {s t u : State} {c : CoreId} {q : QEntry} {e : Eng} {opc : Nat} {holds : QEntry → Bool}

/-! ### The command whose turn it is -/

/-- The command whose turn it is runs, and its entry is finished with what the run yields. -/
theorem State.runNext_of_turn (turn : s.turnOf c e opc holds q t) (run : State → QEntry → RunResult) :
    s.runNext c e opc holds run = (run t q).ended c q := by
  obtain ⟨v, picked, rfl⟩ := turn
  simp only [State.runNext, picked]
  rfl

theorem State.runNext_of_none (none_ : s.pickReady c e opc holds = none) (run : State → QEntry → RunResult) :
    s.runNext c e opc holds run = s := by
  simp only [State.runNext, none_]

theorem RunResult.ended_fail (f : Byte) : (RunResult.fail t f).ended c q = t.updCore c fun k => k.finish q.id f 0 0 := rfl

theorem RunResult.ended_ok (x : BitVec 16) : (RunResult.ok t x).ended c q = t.updCore c fun k => k.finish q.id 0 x 0 := rfl

/-! ### LFILL -/

theorem exec_lfill_of_turn (turn : s.turnOf c .le 0x11 (fun x => (s.core c).walkHolds false (slotMid x.slot) (fld x.slot 110 105)) q t) :
    exec (.lfill c) s = .next ((t.runLfill c q).ended c q) :=
  congrArg Host.Outcome.next (State.runNext_of_turn turn fun s q => s.runLfill c q)

theorem State.runLfill_of_bad (bad : fld q.slot 119 111 ≠ 0 ∨ fld q.slot 104 64 ≠ 0 ∨ fieldForm (slotMid q.slot) = 3) :
    t.runLfill c q = .fail t fLeField := if_pos bad

theorem State.runLfill_of_sound {dp : Pat} (sound : ¬(fld q.slot 119 111 ≠ 0 ∨ fld q.slot 104 64 ≠ 0 ∨ fieldForm (slotMid q.slot) = 3))
    (pat : (t.core c).pat (fld q.slot 110 105) = some dp) :
    let dst := walkOperand (resolveField q.handles (slotMid q.slot) q.xr1) dp false true
    t.checkOps c true [dst] = 0 →
      t.storeAll c 0 q.id (dst.core c) ((dp.addrs dst.base).map fun a => (a, fillElem dp.size (fld q.slot 31 0))) = (u, none) →
      t.runLfill c q = .ok u 0 := by
  intro dst passes stored
  unfold State.runLfill
  rw [if_neg sound, pat]
  dsimp only
  rw [if_neg (not_not_intro passes), stored]

/-! ### LCOPY -/

theorem exec_lcopy_of_turn (turn : s.turnOf c .le 0x10 (fun x => (s.core c).lcopyHolds x.slot) q t) :
    exec (.lcopy c) s = .next ((t.runLcopy c q).ended c q) :=
  congrArg Host.Outcome.next (State.runNext_of_turn turn fun s q => s.runLcopy c q)

theorem State.runLcopy_of_bad (bad : lcopyBad q.slot = true) : t.runLcopy c q = .fail t fLeField := if_pos bad

/-- What an LCOPY of sound fields reads and writes: the scratchpad, or the commons or LPDDR6 (R124, R139, R343). -/
theorem State.runLcopy_of_sound {sp dp : Pat} {bs : List (List Byte)} (sound : lcopyBad q.slot = false)
    (pats : copyPats (t.core c) (fld q.slot 116 111) (fld q.slot 110 105) = some (sp, dp))
    (blocks : fld q.slot 104 102 ≠ 0 → sp.elog = 6 ∧ sp.count % 64 = 0) :
    let w := q.slot
    let src := walkOperand (resolveField q.handles (slotHi w) q.xr2) sp true false
    let dst := walkOperand (resolveField q.handles (slotMid w) q.xr1) dp false true
    let base := spaceBase (fld w 119 118) (fld w 95 64)
    t.checkOps c true (if fld w 119 118 = 0 then [src, dst] else [dst]) = 0 →
      (fld w 119 118 ≠ 0 → regionOk sp base (t.spaceSize (t.core c).part (fld w 119 118)) = true ∧ sp.aligned base = true) →
      (if fld w 119 118 = 0 then t.fetchAll c 0 (src.core c) sp.size (sp.addrs src.base)
        else (t.remoteRead (t.core c).part (fld w 119 118) sp.size (sp.addrs base), none)) = (bs, none) →
      (fld w 119 118 = 2 → ∀ a ∈ sp.addrs base, t.ext.readBad (t.core c).part a sp.size = false) →
      t.storeAll c 0 q.id (dst.core c) ((dp.addrs dst.base).zip
        (if fld w 104 102 = 0 then bs else transposeBlocks (2 ^ (fld w 104 102 - 1)) bs)) = (u, none) →
      t.runLcopy c q = .ok u 0 := by
  intro w src dst base passes region read clean stored
  have shape : ¬(fld w 104 102 ≠ 0 ∧ (sp.elog ≠ 6 ∨ sp.count % 64 ≠ 0)) := by
    rintro ⟨xpose, h⟩
    obtain ⟨words, runs⟩ := blocks xpose
    exact h.elim (fun f => f words) (fun f => f runs)
  have inside : ¬(fld w 119 118 ≠ 0 ∧ regionOk sp base (t.spaceSize (t.core c).part (fld w 119 118)) = false) := by
    rintro ⟨space, h⟩
    exact absurd (h.symm.trans (region space).1) (by decide)
  have aligned : ¬(fld w 119 118 ≠ 0 ∧ sp.aligned base = false) := by
    rintro ⟨space, h⟩
    exact absurd (h.symm.trans (region space).2) (by decide)
  have whole : ¬(if fld w 119 118 = 2 then (sp.addrs base).map fun a => t.ext.readBad (t.core c).part a sp.size else []).any id = true := by
    split
    · rename_i lp
      simpa using clean lp
    · simp
  unfold State.runLcopy
  dsimp only
  rw [if_neg (by rw [sound]; decide), pats]
  dsimp only
  rw [if_neg shape, if_neg (not_not_intro passes), if_neg inside, if_neg aligned, read, stored, if_neg whole]

/-! ### SCOPY -/

/-- What SCOPY's run yields is finished, or the increment that it owes is on its way (R115). -/
theorem exec_scopy_of_turn (turn : s.turnOf c .se 0x20 (fun x => (s.core c).scopyHolds x.slot) q t) :
    exec (.scopy c) s = .next (match (t.runScopy c q).2 with
      | none => (t.runScopy c q).1.ended c q
      | some o => (t.runScopy c q).1.s.scopyEnds c q o) := by
  obtain ⟨v, picked, rfl⟩ := turn
  show execScopy c s = _
  simp only [execScopy, picked]
  rfl

theorem State.runScopy_of_bad (bad : scopyBad q.slot = true) : t.runScopy c q = (.fail t fSeField, none) := if_pos bad

section

variable {sp dp : Pat} {bs : List (List Byte)} (sound : scopyBad q.slot = false)
  (pats : copyPats (t.core c) (fld q.slot 117 112) (fld q.slot 111 106) = some (sp, dp))
  (own : (walkOperand (resolveField q.handles (slotHi q.slot) q.xr2) sp true false).core c = c.val)
  (read : t.fetchAll c 1 c sp.size (sp.addrs (walkOperand (resolveField q.handles (slotHi q.slot) q.xr2) sp true false).base) = (bs, none))

include sound pats own read

/-- An SCOPY to the scratchpad or a neighbour. -/
theorem State.runScopy_to_core :
    let src := walkOperand (resolveField q.handles (slotHi q.slot) q.xr2) sp true false
    let dst := walkOperand (resolveField q.handles (slotMid q.slot) q.xr1) dp false true
    fld q.slot 119 118 = 0 → t.checkOps c true [src, dst] = 0 →
      t.storeAll c 1 q.id (dst.core c) ((dp.addrs dst.base).zip bs) = (u, none) →
      t.runScopy c q = (.ok u 0, if bitOf q.slot 105 then some (dst.core c) else none) := by
  intro src dst space passes stored
  have here : ¬ownOnly c src = false := by simp only [ownOnly, src, own, decide_true]; decide
  unfold State.runScopy
  dsimp only
  rw [if_neg (by rw [sound]; decide), pats]
  dsimp only
  rw [if_neg here, space, if_pos rfl, if_neg (not_not_intro passes), if_neg (by simp), if_neg (by simp), if_neg (by simp), read, stored]

/-- An SCOPY to the commons or the partition's LPDDR6 region. -/
theorem State.runScopy_to_region :
    let src := walkOperand (resolveField q.handles (slotHi q.slot) q.xr2) sp true false
    let base := spaceBase (fld q.slot 119 118) (fld q.slot 63 32)
    fld q.slot 119 118 ≠ 0 → t.checkOps c true [src] = 0 →
      regionOk dp base (t.spaceSize (t.core c).part (fld q.slot 119 118)) = true → dp.aligned base = true →
      t.runScopy c q = (.ok (t.remoteWrite (t.core c).part (fld q.slot 119 118) ((dp.addrs base).zip bs)) 0, none) := by
  intro src base space passes inside aligned
  have here : ¬ownOnly c src = false := by simp only [ownOnly, src, own, decide_true]; decide
  unfold State.runScopy
  dsimp only
  rw [if_neg (by rw [sound]; decide), pats]
  dsimp only
  rw [if_neg here, if_neg space, if_neg (not_not_intro passes), if_neg (by rw [inside]; simp), if_neg (by rw [aligned]; simp), read,
    if_pos space]

end

end

/-! ### The increment that an SCOPY owes (R115, R154) -/

section

variable {k : CoreState} {port : Nat}

/-- A buffered word goes to a sound bank whole, and the lanes stay sound. -/
theorem CoreState.drainEntry_of_sound (sound : k.badLanes = []) (g : GatherEntry) :
    ∃ m, k.drainEntry port g = ({ k with sp := m }, false) := by
  have lanes (js : List Nat) (p : Nat → Prop) [DecidablePred p] : ∀ k : CoreState, k.badLanes = [] →
      js.foldl (fun k j => if p j then { k with badLanes := Sparse.erase k.badLanes (8 * g.word + j) } else k) k = k := by
    induction js with
    | nil => exact fun _ _ => rfl
    | cons j js ih =>
      intro k sound
      have same : (if p j then { k with badLanes := Sparse.erase k.badLanes (8 * g.word + j) } else k) = k := by
        split
        · rw [sound]
          simp only [Sparse.erase, ← sound]
        · rfl
      rw [List.foldl_cons, same]
      exact ih k sound
  have good : ¬∃ j, j < 8 ∧ k.coversPart g j := by
    rintro ⟨j, -, part⟩
    simp [CoreState.coversPart, sound, Sparse.get] at part
  have kept := lanes (List.range 8) (fun j => (Sparse.inRange g.bytes (64 * g.word + 8 * j) 8).length = 8)
    { k with sp := g.bytes.foldl (fun m p => Memory.write m p.1 p.2) k.sp } sound
  unfold CoreState.drainEntry
  dsimp only
  rw [if_neg (fun h => good (CoreState.any_coversPart_iff.1 h)), kept]
  exact ⟨_, rfl⟩

theorem CoreState.flushOne_of_sound (sound : k.badLanes = []) : ∃ m g, k.flushOne port = { k with sp := m, gather := g } := by
  cases oldest : Sparse.get k.gather [] port with
  | nil => exact ⟨k.sp, k.gather, by simp only [CoreState.flushOne, oldest]⟩
  | cons g rest =>
    obtain ⟨m, drained⟩ := CoreState.drainEntry_of_sound (k := { k with gather := Sparse.set k.gather [] port rest }) (port := port) sound g
    rw [CoreState.flushOne_of_entry oldest, drained]
    exact ⟨m, _, rfl⟩

/-- Emptying a gather buffer over a sound scratchpad touches bytes and buffers only. -/
theorem CoreState.flushPort_of_sound (sound : k.badLanes = []) : ∃ m g, k.flushPort port = { k with sp := m, gather := g } := by
  obtain ⟨_, _, first⟩ := CoreState.flushOne_of_sound (port := port) sound
  obtain ⟨_, _, second⟩ := CoreState.flushOne_of_sound (k := k.flushOne port) (port := port) (by rw [first]; exact sound)
  obtain ⟨_, _, third⟩ := CoreState.flushOne_of_sound (k := (k.flushOne port).flushOne port) (port := port) (by rw [second, first]; exact sound)
  obtain ⟨m, g, fourth⟩ := CoreState.flushOne_of_sound (k := ((k.flushOne port).flushOne port).flushOne port) (port := port)
    (by rw [third, second, first]; exact sound)
  refine ⟨m, g, fourth.trans ?_⟩
  rw [third, second, first]

end

theorem CoreState.mem_finish {k : CoreState} {id : Nat} {f : Byte} {x : BitVec 16} {d : W64} {e : QEntry} (member : e ∈ (k.finish id f x d).queue)
    (same : e.id = id) : e.st = .finished f x := by
  obtain ⟨q, -, rfl⟩ := List.mem_map.1 member
  by_cases h : q.id = id
  · simp [h]
  · rw [if_neg h] at same
    exact absurd same h

theorem CoreState.mem_started {k : CoreState} {id : Nat} {e : QEntry}
    (member : e ∈ (k.updEntry id fun x => { x with st := .executing }).queue) (same : e.id = id) : e.st = .executing := by
  obtain ⟨q, -, rfl⟩ := List.mem_map.1 member
  by_cases h : q.id = id
  · simp [h]
  · rw [if_neg h] at same
    exact absurd same h

section

variable {u : State} {c : CoreId} {q : QEntry} {o : Nat}

/-- An increment of the own core, on a sound scratchpad and a counter without debt and in range. -/
theorem State.scopyEnds_own (here : o = c.val) (sound : (u.core c).badLanes = []) (debt : (u.core c).getDebt (fld q.slot 104 100) = 0)
    (fits : (u.core c).getAc (fld q.slot 104 100) + 1 < 2 ^ 24) :
    ((u.scopyEnds c q o).core c).getAc (fld q.slot 104 100) = (u.core c).getAc (fld q.slot 104 100) + 1 ∧
      ∀ e ∈ ((u.scopyEnds c q o).core c).queue, e.id = q.id → e.st = .finished 0 0 := by
  obtain ⟨m, g, flushed⟩ := CoreState.flushPort_of_sound (k := (u.core c).updEntry q.id fun x => { x with st := .executing })
    (port := portOf .se) sound
  have core : ((u.updCore c fun k => k.updEntry q.id fun x => { x with st := .executing }).updCore c fun k =>
      k.flushPort (portOf .se)).core c = { (u.core c).updEntry q.id fun x => { x with st := .executing } with sp := m, gather := g } := by
    rw [State.core_updCore_self, State.core_updCore_self, flushed]
  have kept : ¬((((u.updCore c fun k => k.updEntry q.id fun x => { x with st := .executing }).updCore c fun k =>
      k.flushPort (portOf .se)).core c).queue.any fun x => decide (x.id = q.id) && decide (x.st ≠ .executing)) = true := by
    rw [core]
    simp only [List.any_eq_true, Bool.and_eq_true, decide_eq_true_eq, not_exists, not_and, not_not]
    exact fun e member same => CoreState.mem_started member same
  have ends : (u.scopyEnds c q o).core c = (CoreState.ownIncrement
      { (u.core c).updEntry q.id fun x => { x with st := .executing } with sp := m, gather := g } (fld q.slot 104 100) 1 q.tag
      q.inStep).finish q.id 0 0 0 := by
    unfold State.scopyEnds
    dsimp only
    rw [if_pos here, if_neg kept, State.core_updCore_self, core]
  rw [ends]
  exact ⟨CoreState.ownIncrement_getAc
    (k := { (u.core c).updEntry q.id fun x => { x with st := .executing } with sp := m, gather := g }) q.tag q.inStep debt fits,
    fun e member same => CoreState.mem_finish member same⟩

/-- An increment of a neighbour's counter travels, and its command waits for it. -/
theorem State.scopyEnds_toward (away : o ≠ c.val) :
    ∃ m, (u.scopyEnds c q o).nb = u.nb ++ [m] ∧ m.src = c.val ∧ m.dst = o ∧ m.kind = .increment ∧ m.ac = fld q.slot 104 100 ∧ m.amount = 1 ∧
      m.entry = q.id ∧ ∀ e ∈ ((u.scopyEnds c q o).core c).queue, e.id = q.id → e.st = .executing := by
  unfold State.scopyEnds
  dsimp only
  rw [if_neg away]
  refine ⟨_, rfl, rfl, rfl, rfl, rfl, rfl, rfl, fun e member same => ?_⟩
  have core := State.core_updCore_self u c fun k => k.updEntry q.id fun x => { x with st := .executing }
  exact CoreState.mem_started (k := u.core c) (core ▸ member) same

end

/-- Settles O23. -/
theorem loadStoreCommands : Obligations.LoadStoreCommands := by
  unfold Obligations.LoadStoreCommands
  intro s c q t w fails src dst fillHolds lHolds sHolds
  refine ⟨fun turn => ⟨fun dp u head tail form pat passes stored => ?fill, fun bad => ?fillBad⟩,
    fun turn => ⟨fun sp dp bs u sound pats blocks pad region clean stored => ?copy, fun bad => ?copyBad⟩,
    fun turn => ⟨fun sp dp bs sound pats own read => ⟨fun u space passes stored => ⟨fun still => ?still, fun counts here good debt fits => ?own,
      fun counts away => ?toward⟩, fun space passes inside aligned => ?remote⟩, fun bad => ?scopyBad⟩,
    fun none_ => ?noFill, fun none_ => ?noCopy, fun none_ => ?noScopy⟩
  case fill =>
    rw [exec_lfill_of_turn turn, State.runLfill_of_sound (by simp only [not_or, not_not]; exact ⟨head, tail, form⟩) pat passes stored,
      RunResult.ended_ok]
  case fillBad => rw [exec_lfill_of_turn turn, State.runLfill_of_bad bad, RunResult.ended_fail]
  case copy =>
    rw [exec_lcopy_of_turn turn, State.runLcopy_of_sound sound pats blocks ?passes ?region ?read ?clean stored, RunResult.ended_ok]
    case passes =>
      split
      · rename_i space; exact (pad space).1
      · rename_i space; exact (region space).1
    case region => exact fun space => ⟨(region space).2.1, (region space).2.2.1⟩
    case read =>
      split
      · rename_i space; exact (pad space).2
      · rename_i space; exact congrArg (·, none) (region space).2.2.2
    case clean =>
      intro space
      rw [show fld q.slot 119 118 = 2 from space]
      exact clean space
  case copyBad => rw [exec_lcopy_of_turn turn, State.runLcopy_of_bad bad, RunResult.ended_fail]
  case still =>
    rw [exec_scopy_of_turn turn, State.runScopy_to_core sound pats own read space passes stored,
      if_neg (by rw [show bitOf q.slot 105 = false from still]; decide)]
    rfl
  case own =>
    refine ⟨_, exec_scopy_of_turn turn, ?_⟩
    rw [State.runScopy_to_core sound pats own read space passes stored, if_pos counts]
    exact State.scopyEnds_own here good debt fits
  case toward =>
    obtain ⟨m, message⟩ := State.scopyEnds_toward (u := u) (c := c) (q := q) away
    refine ⟨_, m, exec_scopy_of_turn turn, ?_⟩
    rw [State.runScopy_to_core sound pats own read space passes stored, if_pos counts]
    exact message
  case remote =>
    rw [exec_scopy_of_turn turn, State.runScopy_to_region sound pats own read space passes inside aligned]
    rfl
  case scopyBad =>
    rw [exec_scopy_of_turn turn, State.runScopy_of_bad bad]
    rfl
  case noFill => exact congrArg Host.Outcome.next (State.runNext_of_none none_ _)
  case noCopy => exact congrArg Host.Outcome.next (State.runNext_of_none none_ _)
  case noScopy =>
    show execScopy c s = _
    simp only [execScopy, show s.pickReady c .se 0x20 (fun q => (s.core c).scopyHolds q.slot) = none from none_]

end Sys2Proof.Machine

/-! PROOFS. Row commands and atomic adds (R104, R124 to R126, R202). -/

namespace Sys2Proof.Machine

section

variable {s t : State} {c : CoreId} {q : QEntry} {m row : Nat}

@[simp] theorem CoreState.sp_finish (k : CoreState) (id : Nat) (f : Byte) (x : BitVec 16) (d : W64) : (k.finish id f x d).sp = k.sp := rfl

/-! ### Row commands at their macro -/

/-- A row command at the head starts: a fault ends it, else it arrives at its macro. -/
theorem State.startRow_of_head {opc : Nat} (head : s.headIs c .aeRow opc q) {op : State → QEntry → Except RunResult (Nat × HeldOp)}
    {x : Nat × HeldOp} (ok : op (s.begun c .aeRow q) q = .ok x) :
    s.startRow c opc op = ((s.begun c .aeRow q).updCore c fun k => k.updEntry q.id fun e => { e with st := .executing }).arriveRow c x.1 x.2 := by
  obtain ⟨next, code⟩ := head
  simp only [State.startRow, next, if_pos code]
  rw [show op (s.traceEv c 1 q.tag (slotNum .aeRow) 1 0) q = .ok x from ok]
  rfl

theorem State.arowwOp_ok (fields : fld q.slot 85 32 = 0) (form : fieldForm (slotLo q.slot) ≠ 3) (mapped : (t.core c).ammap (fld q.slot 119 114) = some m)
    {bs : List Byte} :
    let src := fixedOperand (resolveField q.handles (slotLo q.slot) q.xr0) 512 true false 64
    t.checkOps c false [src] = 0 → t.fetch c (portOf .aeRow) (src.core c) src.lo.toNat 512 = .ok bs →
      t.arowwOp c q = .ok (m, .aroww q.id (fld q.slot 113 102) (BitVec.ofNat 16 (fld q.slot 101 86)) (BitVec.ofNat 4096 (leNat bs))) := by
  intro src passes read
  have good : ¬(fld q.slot 85 32 ≠ 0 ∨ fieldForm (slotLo q.slot) = 3) := by simp [fields, form]
  unfold State.arowwOp
  dsimp only
  rw [if_neg good, mapped]
  dsimp only
  rw [if_neg (not_not_intro passes), read]

theorem State.arowrOp_ok (fields : fld q.slot 101 32 = 0) (form : fieldForm (slotLo q.slot) ≠ 3) (mapped : (t.core c).ammap (fld q.slot 119 114) = some m) :
    let dst := fixedOperand (resolveField q.handles (slotLo q.slot) q.xr0) 576 false true 64
    t.checkOps c false [dst] = 0 → t.arowrOp c q = .ok (m, .arowr q.id (fld q.slot 113 102) (dst.core c) dst.lo.toNat) := by
  intro dst passes
  have good : ¬(fld q.slot 101 32 ≠ 0 ∨ fieldForm (slotLo q.slot) = 3) := by simp [fields, form]
  unfold State.arowrOp
  dsimp only
  rw [if_neg good, mapped]
  dsimp only
  rw [if_neg (not_not_intro passes)]

/-- The state in which a row command arrives at its macro: the command executes, and nothing else of what the macro sees has changed. -/
theorem State.row_begun (s : State) (c : Nat) (q : QEntry) :
    let t := (s.begun c .aeRow q).updCore c fun k => k.updEntry q.id fun e => { e with st := .executing }
    t.core c = (s.core c).updEntry q.id (fun e => { e with st := .executing }) ∧ t.macros = s.macros ∧ t.ext = s.ext ∧
      ∀ d : Nat, (t.core d).sp = (s.core d).sp ∧ (t.core d).win = (s.core d).win ∧ (t.core d).badLanes = (s.core d).badLanes ∧
        (t.core d).part = (s.core d).part := by
  intro t
  have begun : ∀ d, (s.begun c .aeRow q).core d = s.core d := fun d => State.core_traceEv s c 1 q.tag (slotNum .aeRow) 1 0 d
  refine ⟨?_, ?_, ?_, fun d => ?_⟩
  · rw [State.core_updCore_self, begun]
  · exact State.traceEv_macros s c 1 q.tag (slotNum .aeRow) 1 0
  · exact State.traceEv_ext s c 1 q.tag (slotNum .aeRow) 1 0
  · by_cases same : d = c
    · subst same
      rw [State.core_updCore_self, begun]
      exact ⟨rfl, rfl, rfl, rfl⟩
    · rw [State.core_updCore_ne _ _ same, begun]
      exact ⟨rfl, rfl, rfl, rfl⟩

/-! ### AROWW -/

theorem State.rowOp_aroww {id : Nat} {mask : BitVec 16} {data : BitVec 4096} (fault : (s.mac c m).rowFault row = 0) :
    s.rowOp c m (.aroww id row mask data) =
      ((s.setMac c m ((s.mac c m).store .program row mask data 0)).putShadow c m row
        (BitVec.ofNat 4096 (mergeSegs 256 mask ((s.shadowRow c m row).getD ((s.mac c m).row row).data).toNat data.toNat))).updCore c
        fun k => (k.finish id 0 0 0).count 2 := if_pos fault

theorem State.rowOp_aroww_fault {id : Nat} {mask : BitVec 16} {data : BitVec 4096} (fault : (s.mac c m).rowFault row ≠ 0) :
    s.rowOp c m (.aroww id row mask data) = s.updCore c fun k => k.finish id ((s.mac c m).rowFault row) 0 0 := if_neg fault

theorem State.rowOp_arowr_fault {id o a : Nat} (fault : (s.mac c m).rowFault row ≠ 0) :
    s.rowOp c m (.arowr id row o a) = s.updCore c fun k => k.finish id ((s.mac c m).rowFault row) 0 0 := if_neg fault

/-- What an AROWW leaves in the macro, the shadow and the core (R125). -/
theorem State.rowOp_aroww_effect {id : Nat} {mask : BitVec 16} {data : BitVec 4096} (fault : (s.mac c m).rowFault row = 0) :
    let u := s.rowOp c m (.aroww id row mask data)
    u.mac c m = (s.mac c m).store .program row mask data 0 ∧
      u.shadowRow c m row = some (BitVec.ofNat 4096
        (mergeSegs 256 mask ((s.shadowRow c m row).getD ((s.mac c m).row row).data).toNat data.toNat)) ∧
      (u.core c).sp = (s.core c).sp ∧ (u.core c).win = (s.core c).win ∧ ∀ e ∈ (u.core c).queue, e.id = id → e.st = .finished 0 0 := by
  intro u
  have ran : u = _ := State.rowOp_aroww fault
  rw [ran, State.core_updCore_self, State.putShadow, State.core_updExt, State.core_setMac]
  refine ⟨?_, Sparse.find?_insert_self _ _ _, rfl, rfl, fun e member same => CoreState.mem_finish (k := s.core c) member same⟩
  rw [State.mac_updCore, State.mac_updExt, State.mac_setMac_self]

theorem mergeSegs_whole (old : Nat) (data : BitVec 4096) : BitVec.ofNat 4096 (mergeSegs 256 0xFFFF#16 old data.toNat) = data := by
  rw [mergeSegs_full_toNat data (by decide) rfl, BitVec.ofNat_toNat, BitVec.setWidth_eq]

theorem State.shadowRow_putShadow (d : BitVec 4096) : (s.putShadow c m row d).shadowRow c m row = some d :=
  Sparse.find?_insert_self _ _ _

/-! ### AROWR -/

theorem State.fieldRepair_cores (what : RepairKind) : (s.fieldRepair c m what).cores = s.cores := by
  unfold State.fieldRepair
  dsimp only
  split
  · split
    · rfl
    · rw [State.journal_cores]; rfl
  · rfl

theorem State.readFailed_cores : (s.readFailed c m row).cores = s.cores := by
  unfold State.readFailed
  dsimp only
  split
  · exact State.fieldRepair_cores _
  · split
    · rfl
    · split
      · rfl
      · split <;> rfl

theorem MacroState.length_readRecord (k : MacroState) (row : Nat) : (k.readRecord row).length = 576 := by
  simp only [MacroState.readRecord, List.length_append, leBytes_length, List.length_replicate]

/-- Admission looks at the cores alone. -/
theorem State.nbAdmits_congr {u : State} {o : Nat} {lo hi : Int} {rd wr : Bool} (cores : ∀ d : Nat, (u.core d).win = (t.core d).win)
    (part : (u.core c).part = (t.core c).part) : u.nbAdmits c o lo hi rd wr = t.nbAdmits c o lo hi rd wr := by
  have window (d : Dir) : (u.core o).nbwin d = (t.core o).nbwin d := by simp only [CoreState.nbwin, cores]
  unfold State.nbAdmits
  cases dirTo o c with
  | none => rfl
  | some d =>
    dsimp only
    rw [window, part]

/-- A fault of R144 is one of its six steps' and not 0. -/
theorem State.opFail_range {win : Bool} {o : Operand} {f : Nat × Byte} (fails : t.opFail c win o = some f) :
    f.1 ∈ [1, 2, 3, 4, 5, 6] ∧ f.2 ≠ 0 := by
  unfold State.opFail at fails
  dsimp only at fails
  repeat' split at fails
  all_goals cases fails
  all_goals decide

/-- An operand alone that passes the checks fails no step. -/
theorem State.opFail_of_checkOps {win : Bool} {o : Operand} (passes : t.checkOps c win [o] = 0) : t.opFail c win o = none := by
  cases fails : t.opFail c win o with
  | none => rfl
  | some f =>
    obtain ⟨step, code⟩ := State.opFail_range fails
    have found : [1, 2, 3, 4, 5, 6].findSome? (fun n => [f].find? fun f => f.1 = n) = some f := by
      simp only [List.mem_cons, List.not_mem_nil, or_false] at step
      rcases step with h | h | h | h | h | h <;> simp [List.findSome?, h]
    simp only [State.checkOps, List.filterMap_cons, fails, List.filterMap_nil, found] at passes
    exact absurd passes code

/-- An operand at a neighbour that passes the checks is admitted there (R149). -/
theorem State.nbAdmits_of_checkOps {win : Bool} {o : Operand} (passes : t.checkOps c win [o] = 0) (away : o.core c ≠ c.val) :
    t.nbAdmits c (o.core c) o.lo o.hi o.rd o.wr = true := by
  have none_ := State.opFail_of_checkOps passes
  cases ent : o.ent with
  | none => simp only [Operand.core, ent] at away; exact absurd rfl away
  | some h =>
    have core : o.core c = htCore h := by simp only [Operand.core, ent]
    simp only [State.opFail, ent, core] at none_
    rw [core] at away ⊢
    split at none_
    · cases none_
    split at none_
    · cases none_
    split at none_
    · cases none_
    split at none_
    · cases none_
    split at none_
    · cases none_
    simpa using none_

/-- The record of a row read goes whole to a sound scratchpad that admits it (R126). -/
theorem State.rowOp_arowr {id o a : Nat} (fault : (s.mac c m).rowFault row = 0) (sound : (s.core o).badLanes = [])
    (admitted : o ≠ c.val → s.nbAdmits c o a ((a : Int) + 576) false true = true) :
    let u := s.rowOp c m (.arowr id row o a)
    ((s.mac c m).failing row = [] → u.mac c m = (s.mac c m).noteRead row) ∧
      (u.core o).sp = Memory.writeL (s.core o).sp a ((s.mac c m).readRecord row) ∧
      ∀ e ∈ (u.core c).queue, e.id = id → e.st = .finished 0 0 := by
  intro u
  have frame (s2 : State) (cores : s2.cores = ((s.setMac c m ((s.mac c m).noteRead row)).updCore c fun k => k.count 2).cores) :
      (∀ d : Nat, (s2.core d).sp = (s.core d).sp ∧ (s2.core d).win = (s.core d).win ∧ (s2.core d).badLanes = (s.core d).badLanes ∧
        (s2.core d).part = (s.core d).part) := by
    intro d
    rw [State.core_congr cores]
    by_cases same : d = c
    · subst same
      rw [State.core_updCore_self]
      exact ⟨rfl, rfl, rfl, rfl⟩
    · rw [State.core_updCore_ne _ _ same]
      exact ⟨rfl, rfl, rfl, rfl⟩
  have opened : u = (let s1 := (s.setMac c m ((s.mac c m).noteRead row)).updCore c fun k => k.count 2
      let s2 := if (s.mac c m).failing row = [] then s1 else s1.readFailed c m row
      if o ≠ c ∧ s2.nbAdmits c o a ((a : Int) + 576) false true = false then s2.updCore c fun k => k.finish id fNbDenied 0 (BitVec.ofNat 64 a)
      else
        let r := (s2.core o).spWrite 576 a ((s.mac c m).readRecord row)
        match r.2 with
        | some x => ((s2.setCore o r.1).parityAt c (portOf .aeRow) o x).updCore c fun k => k.finish id fSpParity 0 (BitVec.ofNat 64 x)
        | none => (s2.setCore o r.1).updCore c fun k => k.finish id 0 0 0) := if_pos fault
  dsimp only at opened
  generalize two : (if (s.mac c m).failing row = [] then (s.setMac c m ((s.mac c m).noteRead row)).updCore c fun k => k.count 2
    else ((s.setMac c m ((s.mac c m).noteRead row)).updCore c fun k => k.count 2).readFailed c m row) = s2 at opened
  have cores : s2.cores = ((s.setMac c m ((s.mac c m).noteRead row)).updCore c fun k => k.count 2).cores := by
    rw [← two]
    split
    · rfl
    · exact State.readFailed_cores
  obtain ⟨pad, -, lanes, -⟩ := frame s2 cores o
  have admits : ¬(o ≠ c ∧ s2.nbAdmits c o a ((a : Int) + 576) false true = false) := by
    rintro ⟨away, refused⟩
    rw [State.nbAdmits_congr (t := s) (fun d => (frame s2 cores d).2.1) (frame s2 cores c).2.2.2, admitted away] at refused
    cases refused
  rw [if_neg admits, CoreState.spWrite_of_sound 576 _ a _ (lanes.trans sound) (Nat.le_of_eq (MacroState.length_readRecord _ _)), pad] at opened
  dsimp only at opened
  rw [opened]
  refine ⟨fun clean => ?_, ?_, fun e member same => ?_⟩
  · rw [State.mac_updCore, State.mac_setCore, ← two, if_pos clean, State.mac_updCore, State.mac_setMac_self]
  · by_cases here : o = c
    · subst here
      rw [State.core_updCore_self, State.core_setCore_self, CoreState.sp_finish]
    · rw [State.core_updCore_ne _ _ here, State.core_setCore_self]
  · rw [State.core_updCore_self] at member
    exact CoreState.mem_finish member same

end

/-! ### SATOM and SCATOM -/

theorem Memory.readN_writeL_self (bs : List Byte) : ∀ (m : Memory) (a : Nat), Memory.readN (Memory.writeL m a bs) a bs.length = bs := by
  induction bs with
  | nil => exact fun _ _ => rfl
  | cons b bs ih =>
    intro m a
    have first : Memory.read (Memory.writeL (Memory.write m a b) (a + 1) bs) a = b :=
      (Memory.read_writeL_outside bs _ _ _ (.inl (Nat.lt_succ_self a))).trans (Memory.read_write_self _ _ _)
    rw [Memory.writeL, List.length_cons, Memory.readN, first, ih]

theorem resolveField_nonneg (hs : Sparse W128) (f : W32) (x : W64) : 0 ≤ (resolveField hs f x).2 := by
  unfold resolveField
  split
  · exact Int.natCast_nonneg _
  · exact Int.natCast_nonneg _
  · exact Int.natCast_nonneg _

section

variable {t : State} {c : CoreId} {q : QEntry}

theorem State.runSatom_of_bad (bad : fld q.slot 119 64 ≠ 0 ∨ fieldForm (slotMid q.slot) = 3) : t.runSatom c q = .fail t fSeField := if_pos bad

theorem State.runSatom_of_denied (fields : fld q.slot 119 64 = 0) (form : fieldForm (slotMid q.slot) ≠ 3)
    (denied : t.hub.right (t.core c).part 0 = false) : t.runSatom c q = .fail t fAtomicDenied :=
  (if_neg (by simp [fields, form])).trans (if_pos denied)

/-- An atomic add at a sound bank (R104). -/
theorem State.runSatom_of_sound (fields : fld q.slot 119 64 = 0) (form : fieldForm (slotMid q.slot) ≠ 3)
    (right : t.hub.right (t.core c).part 0 = true) :
    let o := fixedOperand (resolveField q.handles (slotMid q.slot) q.xr1) 4 false true 4
    t.checkOps c false [o] = 0 → (t.core (o.core c)).badLanes = [] →
      t.runSatom c q = .ok (t.setCore (o.core c) { (t.core (o.core c)) with
        sp := Memory.writeL (t.core (o.core c)).sp o.lo.toNat
          (leBytes 4 ((leNat (Memory.readN (t.core (o.core c)).sp o.lo.toNat 4) + fld q.slot 31 0) % 2 ^ 32)) }) 0 := by
  intro o passes sound
  unfold State.runSatom
  dsimp only
  rw [if_neg (by simp [fields, form]), if_neg (by rw [right]; decide), if_neg (not_not_intro passes),
    CoreState.spWrite_of_sound 4 _ _ _ sound (by simp)]

end

/-- Settles O24. -/
theorem rowsAndAtomics : Obligations.RowsAndAtomics := by
  unfold Obligations.RowsAndAtomics
  refine ⟨?rows, fun s c q t => ⟨fun turn => ⟨?add, ?denied, ?bad⟩, fun turn => ?commons⟩⟩
  case rows =>
    intro s c q m t row k mask src dst busy mapped form
    have mapped' : (t.core c).ammap (fld q.slot 119 114) = some m := (congrArg (fun k : CoreState => k.ammap (fld q.slot 119 114))
      (State.core_traceEv s c 1 q.tag (slotNum .aeRow) 1 0 c)).trans mapped
    obtain ⟨core, macros, ext, frame⟩ := s.row_begun c q
    generalize begun : (s.begun c .aeRow q).updCore c (fun k => k.updEntry q.id fun e => { e with st := .executing }) = b at core macros ext frame
    have same : b.mac c m = s.mac c m := State.mac_congr macros c m
    refine ⟨fun bs head fields passes read => ?_, fun head fields passes => ?_⟩
    · intro data
      have arrives : exec (.aroww c) s = .next (b.arriveRow c m (.aroww q.id row mask data)) := by
        rw [← begun]
        exact congrArg Host.Outcome.next (State.startRow_of_head (op := fun s q => s.arowwOp c q) head (State.arowwOp_ok fields form mapped' passes read))
      refine ⟨fun fault repair pass held => ?_, fun waits => ?_, fun fault repair pass held => ?_⟩
      · have opened : (b.mac c m).mustHold (.aroww q.id row mask data) = false := by
          rw [same]; exact MacroState.mustHold_of_free repair held pass
        have merged : (b.shadowRow c m row).getD ((b.mac c m).row row).data = (s.shadowRow c m row).getD (k.row row).data := by
          simp only [State.shadowRow, ext, same, k]
        obtain ⟨stored, shadow, pad, win, done⟩ := State.rowOp_aroww_effect (s := b) (c := c) (m := m) (id := q.id) (mask := mask) (data := data)
          (by rw [same]; exact fault)
        rw [merged] at shadow
        refine ⟨_, arrives.trans (congrArg _ (State.arriveRow_of_open opened)), stored.trans (by rw [same]), fun whole => ?_, shadow,
          pad.trans (frame c).1, win.trans (frame c).2.1, done⟩
        rw [shadow, show mask = 0xFFFF#16 from congrArg (BitVec.ofNat 16) whole, mergeSegs_whole]
      · have shut : (b.mac c m).mustHold (.aroww q.id row mask data) = true := by
          rw [same]
          rcases waits with h | h | h
          · exact MacroState.mustHold_of_repair_or_held (.inl h)
          · simp [MacroState.mustHold, k, h]
          · exact MacroState.mustHold_of_repair_or_held (.inr h)
        refine ⟨_, arrives.trans (congrArg _ (State.arriveRow_of_held shut)), ?_, ?_, ext⟩
        · rw [State.mac_setMac_self, same]
        · rw [State.core_setMac, core]
      · have opened : (b.mac c m).mustHold (.aroww q.id row mask data) = false := by
          rw [same]; exact MacroState.mustHold_of_free repair held pass
        refine ⟨_, arrives.trans (congrArg _ ((State.arriveRow_of_open opened).trans
          (State.rowOp_aroww_fault (by rw [same]; exact fault)))), ?_, macros, ext⟩
        rw [State.core_updCore_self, core, same]
    · have arrives : exec (.arowr c) s = .next (b.arriveRow c m (.arowr q.id row (dst.core c) dst.lo.toNat)) := by
        rw [← begun]
        exact congrArg Host.Outcome.next (State.startRow_of_head (op := fun s q => s.arowrOp c q) head (State.arowrOp_ok fields form mapped' passes))
      have free (repair : k.repairBusy = false) (held : k.held = []) :
          (b.mac c m).mustHold (.arowr q.id row (dst.core c) dst.lo.toNat) = false := by
        rw [same]; simp [MacroState.mustHold, show (s.mac c m).repairBusy = false from repair, show (s.mac c m).held = [] from held]
      refine ⟨fun fault repair held sound => ?_, fun waits => ?_, fun fault repair held => ?_⟩
      · have admitted : dst.core c ≠ c.val → b.nbAdmits c (dst.core c) dst.lo.toNat ((dst.lo.toNat : Int) + 576) false true = true := by
          intro away
          have low : ((dst.lo.toNat : Nat) : Int) = dst.lo := Int.toNat_of_nonneg (resolveField_nonneg _ _ _)
          have begun' : (s.begun c .aeRow q).nbAdmits c (dst.core c) dst.lo (dst.lo + 576) false true = true :=
            State.nbAdmits_of_checkOps passes away
          have wins (d : Nat) : (b.core d).win = ((s.begun c .aeRow q).core d).win := by
            rw [(frame d).2.1, State.begun, State.core_traceEv]
          have parts : (b.core c).part = ((s.begun c .aeRow q).core c).part := by
            rw [(frame c).2.2.2, State.begun, State.core_traceEv]
          rw [low, State.nbAdmits_congr wins parts]
          exact begun'
        obtain ⟨noted, written, done⟩ := State.rowOp_arowr (s := b) (c := c) (m := m) (id := q.id) (by rw [same]; exact fault)
          ((frame _).2.2.1.trans (sound _)) admitted
        rw [same] at noted written
        obtain ⟨inside, outside⟩ := CoreState.read_writeL (b.core (dst.core c)).sp dst.lo.toNat ((s.mac c m).readRecord row)
        rw [MacroState.length_readRecord] at inside outside
        refine ⟨_, arrives.trans (congrArg _ (State.arriveRow_of_open (free repair held))), noted, ?_, ?_, done⟩
        · rw [written]; exact inside
        · rw [written, ← (frame (dst.core c)).1]; exact outside
      · have shut : (b.mac c m).mustHold (.arowr q.id row (dst.core c) dst.lo.toNat) = true := by
          rw [same]; exact MacroState.mustHold_of_repair_or_held waits
        refine ⟨_, arrives.trans (congrArg _ (State.arriveRow_of_held shut)), ?_, ?_⟩
        · rw [State.mac_setMac_self, same]
        · rw [State.core_setMac, core]
      · refine ⟨_, arrives.trans (congrArg _ ((State.arriveRow_of_open (free repair held)).trans
          (State.rowOp_arowr_fault (by rw [same]; exact fault)))), ?_, macros⟩
        rw [State.core_updCore_self, core, same]
  case add =>
    intro fields form right o passes sound
    obtain ⟨inside, outside⟩ := CoreState.read_writeL (t.core (o.core c)).sp o.lo.toNat
      (leBytes 4 ((leNat (Memory.readN (t.core (o.core c)).sp o.lo.toNat 4) + fld q.slot 31 0) % 2 ^ 32))
    have ran := State.runSatom_of_sound fields form right passes (sound _)
    refine ⟨_, congrArg Host.Outcome.next ((State.runNext_of_turn turn _).trans ((congrArg (fun r => RunResult.ended r c q) ran).trans
      (RunResult.ended_ok 0))), ?_⟩
    have pad : ∀ k : CoreState, (((t.setCore (o.core c) k).updCore c fun k => k.finish q.id 0 0 0).core (o.core c)).sp = k.sp := by
      intro k
      by_cases here : o.core c = c.val
      · rw [here, State.core_updCore_self, State.core_setCore_self, CoreState.sp_finish]
      · rw [State.core_updCore_ne _ _ here, State.core_setCore_self]
    rw [pad]
    refine ⟨?_, fun x far => outside x (by simpa using far), fun e member same => ?_⟩
    · have bytes := Memory.readN_writeL_self
        (leBytes 4 ((leNat (Memory.readN (t.core (o.core c)).sp o.lo.toNat 4) + fld q.slot 31 0) % 2 ^ 32)) (t.core (o.core c)).sp o.lo.toNat
      rw [leBytes_length] at bytes
      rw [bytes, leNat_leBytes]
      exact Nat.mod_mod _ _
    · rw [State.core_updCore_self] at member
      exact CoreState.mem_finish member same
  case denied =>
    exact fun fields form denied => congrArg Host.Outcome.next
      ((State.runNext_of_turn turn _).trans (by rw [State.runSatom_of_denied fields form denied]; rfl))
  case bad =>
    exact fun bad => congrArg Host.Outcome.next ((State.runNext_of_turn turn _).trans (by rw [State.runSatom_of_bad bad]; rfl))
  case commons =>
    intro p o
    have ran := State.runNext_of_turn turn fun s q => s.runScatom c q
    refine ⟨fun fields aligned inside => ?_, fun fields bad => ?_, fun bad => ?_⟩
    · refine congrArg Host.Outcome.next (ran.trans ?_)
      have good : ¬(fld q.slot 63 32 % 4 ≠ 0 ∨ t.hub.commonsSize (t.core c).part < fld q.slot 63 32 + 4) := by
        rintro (h | h)
        · exact h aligned
        · exact absurd inside (Nat.not_le.2 h)
      unfold State.runScatom
      dsimp only
      rw [if_neg (not_not_intro fields), if_neg good]
      rfl
    · refine congrArg Host.Outcome.next (ran.trans ?_)
      unfold State.runScatom
      dsimp only
      rw [if_neg (not_not_intro fields), if_pos bad]
      rfl
    · refine congrArg Host.Outcome.next (ran.trans ?_)
      unfold State.runScatom
      dsimp only
      rw [if_pos bad]
      rfl

end Sys2Proof.Machine

/-! PROOFS. Vector commands: element-wise and integer operations, reductions, softmax and partials (R102, R165 to R176). -/

namespace Sys2Proof.Machine

section

variable {s t : State} {c : CoreId} {q : QEntry} {a : Pat} {b : Option Pat} {d : Pat} {va vb : List FV} {opc : Nat}

/-! ### A command at the head of an engine that runs one at a time -/

/-- Elsewhere than at the load and the store engine, the command at the head is the one whose turn it is. -/
theorem State.turnOf_of_head {e : Eng} {holds : QEntry → Bool} (single : ¬(e = .le ∨ e = .se)) (head : s.headIs c e opc q)
    (free : holds q = false) : s.turnOf c e opc holds q (s.begun c e q) := by
  obtain ⟨next, code⟩ := head
  have ready : (s.core c).ready e opc holds = [q] := by
    simp [CoreState.ready, CoreState.startable, if_neg single, next, code, free]
  exact ⟨s, by simp only [State.pickReady, ready], rfl⟩

/-- A VE command that may start runs. -/
theorem State.veStart_of_head (head : s.headIs c .ve opc q) (free : (s.core c).veHolds q = false) :
    s.veStart c opc = ((s.begun c .ve q).runVe c q).ended c q :=
  State.runNext_of_turn (State.turnOf_of_head (by decide) head free) fun s q => s.runVe c q

@[simp] theorem State.core_begun (s : State) (c : Nat) (e : Eng) (q : QEntry) (d : Nat) : (s.begun c e q).core d = s.core d :=
  State.core_traceEv s c 1 q.tag (slotNum e) 1 0 d

/-! ### The checks -/

theorem State.runVe_of_bad (bad : veSlotBad q.slot = true) : t.runVe c q = .fail t fVeField := if_pos (Or.inl bad)

/-- A VE command other than VPSUM that passes its checks does its work. -/
theorem State.runVe_of_passes (slot : veSlotBad q.slot = false) (param : veParamBad (slotOpc q.slot) q.par0 q.par1 = false)
    (walks : slotOpc q.slot ≠ 0x18) (pats : vePats (t.core c) q.slot = some (a, b, d)) (owned : t.checkOps c true (veOperands q a b d) = 0)
    (table : isBN (veDfmt q.slot) = true → ascending (bnTable (t.core c).win (veDfmt q.slot = 6) (fld q.par0 25 23)) = true) :
    t.runVe c q = t.veFloat c q a b d := by
  have good : ¬(veSlotBad q.slot = true ∨ veParamBad (slotOpc q.slot) q.par0 q.par1 = true) := by simp [slot, param]
  have sorted : ¬(isBN (veDfmt q.slot) = true ∧
      ascending (bnTable (t.core c).win (veDfmt q.slot = 6) (fld q.par0 25 23)) = false) := by
    rintro ⟨bell, falls⟩
    rw [table bell] at falls
    exact Bool.noConfusion falls
  unfold State.runVe
  dsimp only
  rw [if_neg good, if_neg walks, pats]
  dsimp only
  rw [if_neg (not_not_intro owned), if_neg sorted]

/-! ### The work of a command on its values -/

/-- The FP32 results of a command on the values of A and B, and whether a softmax row was empty (R168, R170, R173). -/
def CoreState.veResults (k : CoreState) (q : QEntry) (a : Pat) (va vb : List FV) (draw : Nat) : List W32 × Bool :=
  let opc := slotOpc q.slot
  let group := (a.levels.headD (1, 0)).1 * a.per (veAfmt q.slot)
  let as := va.map (k.veDeq q)
  let bs := vb.map FV.toFP32
  let rows := chunks group as.length as
  if veReduces opc then (rows.map fun g => if opc = 0x11 then maxOf g else sum170 (decide (opc = 0x12)) g, false)
  else if opc = 0x20 then
    let out := (List.range rows.length).map fun i => softmaxRow (scores (veK q.par1) (veCausal q.par0) (signed 32 (fld q.par1 31 0)) i
      (rows.getD i []) ((chunks group bs.length bs).getD i []))
    (out.flatMap (·.1), out.any (·.2))
  else ((List.range as.length).map fun e =>
    k.veOp opc (fld q.par0 11 9) (veK q.par1) (as.getD e 0) (bs.getD e 0) (draw + e), false)

/-- A command whose operands were read: its results, converted and written (R165 to R169). -/
def State.veWork (t : State) (c : Nat) (q : QEntry) (a : Pat) (b : Option Pat) (d : Pat) (va vb : List FV) : RunResult :=
  if veInt (slotOpc q.slot) then
    let rs := (List.range va.length).map fun e => FV.ofInt (intOp (slotOpc q.slot) (va.getD e .nan).toInt (vb.getD e .nan).toInt)
    t.veFinish c q a b d rs rs [] false false
  else
    let r := (t.core c).veResults q a va vb t.free
    t.veFinish c q a b d (r.1.map ((t.core c).veQuant q)) (r.1.map fp32) []
      ((va.any fun v => !v.isFin) || (vb.any fun v => !v.isFin) || r.1.any fun x => !fFinite x) r.2

theorem State.veFloat_of_reads (sums : slotOpc q.slot ≠ 0x19) (chunk : slotOpc q.slot ≠ 0x21)
    (ra : t.veRead c portVeA q (veOpA q a 0) a (veAfmt q.slot) (fld q.par0 31 29) (veAxh q.par0) = .ok va)
    (rb : match b with
      | none => vb = []
      | some p => t.veRead c portVeB q (veOpB q p) p (veBfmt q.slot) (fld q.par0 28 26) (veBxh q.par0) = .ok vb) :
    t.veFloat c q a b d = t.veWork c q a b d va vb := by
  unfold State.veFloat State.veWork
  dsimp only
  rw [if_neg sums, ra]
  dsimp only
  rw [if_neg chunk]
  rcases b with _ | p
  on_goal 1 => subst rb
  on_goal 2 =>
    dsimp only
    rw [show t.veRead c portVeB q (veOpB q ((some p).getD a)) p (veBfmt q.slot) (fld q.par0 28 26) (veBxh q.par0) = .ok vb from rb]
  all_goals
    dsimp only
    by_cases int : veInt (slotOpc q.slot) = true
    · rw [if_pos int, if_pos int]
    · rw [if_neg int, if_neg int]
      unfold CoreState.veResults
      dsimp only
      by_cases reduces : veReduces (slotOpc q.slot) = true
      · simp only [if_pos reduces]
        rfl
      · by_cases soft : slotOpc q.slot = 0x20
        · simp only [if_neg reduces, if_pos soft]
          rfl
        · simp only [if_neg reduces, if_neg soft]
          rfl

/-- A VE command at the head whose checks pass and whose operands were read does its work, and its entry is finished. -/
theorem State.veStart_of_ready (walks : opc ≠ 0x18) (sums : opc ≠ 0x19) (chunk : opc ≠ 0x21) (ready : s.veReady c opc q a b d va vb) :
    s.veStart c opc = ((s.begun c .ve q).veWork c q a b d va vb).ended c q := by
  obtain ⟨⟨next, rfl⟩, free, slot, param, pats, owned, table, ra, rb⟩ := ready
  rw [State.veStart_of_head ⟨next, rfl⟩ free, State.runVe_of_passes slot param walks pats owned table,
      State.veFloat_of_reads sums chunk ra rb]

/-- A command of FP32 results ends with the results that its opcode gives. -/
theorem State.veStart_of_results {out : List W32 × Bool} (float : veInt opc = false) (walks : opc ≠ 0x18) (sums : opc ≠ 0x19) (chunk :
    opc ≠ 0x21)
    (results : slotOpc q.slot = opc → (s.core c).veResults q a va vb (s.begun c .ve q).free = out) (ready : s.veReady c opc q a b d va vb) :
    Host.Outcome.next (s.veStart c opc) = (Host.Outcome.next (s.veEnds c q a b d va vb out.1 out.2) : Out) := by
  have code : slotOpc q.slot = opc := ready.1.2
  rw [State.veStart_of_ready walks sums chunk ready, State.veWork, if_neg (by rw [code, float]; exact Bool.noConfusion),
    State.core_begun, results code]
  rfl

/-- The results of an element-wise operation (Table 7.4). -/
theorem CoreState.veResults_elementwise {k : CoreState} {draw : Nat} (code : slotOpc q.slot = opc) (low : opc ≤ 0x0D) :
    k.veResults q a va vb draw = ((List.range va.length).map fun e => k.veOp opc (fld q.par0 11 9) (veK q.par1)
      ((va.map (k.veDeq q)).getD e 0) ((vb.map FV.toFP32).getD e 0) (draw + e), false) := by
  have reduces : ¬ veReduces opc = true := by
    simp only [veReduces, Bool.and_eq_true, decide_eq_true_eq]
    omega
  unfold CoreState.veResults
  dsimp only
  rw [code, if_neg reduces, if_neg (show ¬ opc = 0x20 by omega), List.length_map]

/-- An element-wise operation ends with its result of each element. -/
theorem State.veStart_elementwise {f : Nat → W32} (low : opc ≤ 0x0D) (ready : s.veReady c opc q a b d va vb)
    (each : ∀ e, (s.core c).veOp opc (fld q.par0 11 9) (veK q.par1) ((va.map ((s.core c).veDeq q)).getD e 0)
      ((vb.map FV.toFP32).getD e 0) ((s.begun c .ve q).free + e) = f e) :
    (Host.Outcome.next (s.veStart c opc) : Out) = .next (s.veEnds c q a b d va vb ((List.range va.length).map f) false) := by
  have float : veInt opc = false := by
    simp only [veInt, Bool.and_eq_false_iff, decide_eq_false_iff_not]
    omega
  refine State.veStart_of_results (out := ((List.range va.length).map f, false)) float (by omega) (by omega) (by omega)
      (fun code => ?_) ready
  rw [CoreState.veResults_elementwise code low, funext each]

/-- An integer operation ends with its exact result of each pair (R169). -/
theorem State.veStart_integer (int : veInt opc = true) (ready : s.veReady c opc q a b d va vb) :
    let rs := (List.range va.length).map fun e => FV.ofInt (intOp opc (va.getD e .nan).toInt (vb.getD e .nan).toInt)
    (Host.Outcome.next (s.veStart c opc) : Out) = .next (((s.begun c .ve q).veFinish c q a b d rs rs [] false false).ended c q) := by
  intro rs
  have code : slotOpc q.slot = opc := ready.1.2
  have range : 0x28 ≤ opc := by
    simp only [veInt, Bool.and_eq_true, decide_eq_true_eq] at int
    exact int.1
  rw [State.veStart_of_ready (by omega) (by omega) (by omega) ready, State.veWork, code, if_pos int]

/-- Settles O25: each opcode is one of the element-wise or the integer operations, with its own result of an element. -/
theorem vectorElementwise : Obligations.VectorElementwise := by
  unfold Obligations.VectorElementwise
  refine ⟨?_, ?_⟩
  · intro s c q a b d va vb k kc n x y ends
    refine ⟨?_, ?_, ?_, ?_, ?_, ?_, ?_, ?_, ?_, ?_, ?_, ?_, ?_, ?_⟩ <;>
      exact fun ready => State.veStart_elementwise (by decide) ready fun e => rfl
  · intro s c q a b d va vb t ends
    exact ⟨State.veStart_integer rfl, State.veStart_integer rfl, State.veStart_integer rfl, State.veStart_integer rfl⟩

/-- The results of a reduction, one for each group (R170). -/
theorem CoreState.veResults_reduction {k : CoreState} {draw : Nat} {f : List W32 → W32} (code : slotOpc q.slot = opc) (reduces :
    veReduces opc = true)
    (each : ∀ g, (if opc = 0x11 then maxOf g else sum170 (decide (opc = 0x12)) g) = f g) :
    let as := va.map (k.veDeq q)
    k.veResults q a va vb draw = ((chunks ((a.levels.headD (1, 0)).1 * a.per (veAfmt q.slot)) as.length as).map f, false) := by
  intro as
  unfold CoreState.veResults
  dsimp only
  rw [code, if_pos reduces, funext each]

/-- A reduction ends with its result of each group. -/
theorem State.veStart_reduction {f : List W32 → W32} (reduces : veReduces opc = true)
    (each : ∀ g, (if opc = 0x11 then maxOf g else sum170 (decide (opc = 0x12)) g) = f g) (ready : s.veReady c opc q a b d va vb) :
    let as := va.map ((s.core c).veDeq q)
    (Host.Outcome.next (s.veStart c opc) : Out) = .next (s.veEnds c q a b d va vb
      ((chunks ((a.levels.headD (1, 0)).1 * a.per (veAfmt q.slot)) as.length as).map f) false) := by
  have range : 0x10 ≤ opc ∧ opc ≤ 0x12 := by simpa [veReduces] using reduces
  have float : veInt opc = false := by
    simp only [veInt, Bool.and_eq_false_iff, decide_eq_false_iff_not]
    omega
  intro as
  refine State.veStart_of_results (out := ((chunks ((a.levels.headD (1, 0)).1 * a.per (veAfmt q.slot)) as.length as).map f, false))
    float (by omega) (by omega) (by omega) (fun code => ?_) ready
  exact CoreState.veResults_reduction code reduces each

/-- Settles O26: a reduction gives its result of each group, softmax its row of each. -/
theorem vectorReductions : Obligations.VectorReductions := by
  unfold Obligations.VectorReductions
  intro s c q a b d va vb k group as rows ends
  refine ⟨?_, ?_, ?_, ?_⟩
  · exact State.veStart_reduction rfl fun g => rfl
  · exact State.veStart_reduction rfl fun g => rfl
  · exact State.veStart_reduction rfl fun g => rfl
  · intro ready out
    have results (draw : Nat) (code : slotOpc q.slot = 0x20) :
        (s.core c).veResults q a va vb draw = (out.flatMap (·.1), out.any (·.2)) := by
      unfold CoreState.veResults
      dsimp only
      rw [code, if_neg (by decide), if_pos rfl, List.length_map (f := FV.toFP32)]
    have done := State.veStart_of_results rfl (by decide) (by decide) (by decide) (results _) ready
    exact done

end

end Sys2Proof.Machine

/-! PROOFS. Vector partials: VFSUM, VSMXC and VPSUM (R102, R171, R172, R174). -/

namespace Sys2Proof.Machine

section

variable {s t : State} {c : CoreId} {q : QEntry} {a : Pat} {b : Option Pat} {d : Pat}

/-- Among results that are all values, what looks for errors finds none. -/
theorem findSome?_map_ok {ε α β : Type} {f : Except ε α → Option β} (skip : ∀ v, f (.ok v) = none) (xs : List α) :
    (xs.map Except.ok).findSome? f = none :=
  List.findSome?_eq_none_iff.2 fun r member => by
    obtain ⟨v, -, rfl⟩ := List.mem_map.1 member
    exact skip v

/-- VFSUM whose parts were read: element e is the sum of the parts' elements e in order, from the first (R172). -/
theorem State.veFloat_vfsum {vss : List (List FV)} (code : slotOpc q.slot = 0x19)
    (read : ((List.range (veNpart q.par1)).map fun i => t.veRead c portVeA q (veOpA q a i) a (veAfmt q.slot) 0 0) = vss.map Except.ok) :
    let xs := vss.map fun v => v.map ((t.core c).veDeq q)
    let sums := (List.range (a.elems (veAfmt q.slot))).map fun e =>
      (xs.drop 1).foldl (fun acc l => fAdd acc (l.getD e 0)) ((xs.headD []).getD e 0)
    t.veFloat c q a b d = t.veFinish c q a b d (sums.map ((t.core c).veQuant q)) (sums.map fp32) []
      ((xs.any fun l => l.any fun x => !fFinite x) || sums.any fun x => !fFinite x) false := by
  intro xs sums
  unfold State.veFloat
  dsimp only
  rw [if_pos code, read]
  rw [findSome?_map_ok fun v => rfl]
  have deq : (t.core c).veDeq q = fun v => if veSclm q.par0 = 1 then fMul v.toFP32 ((t.core c).vsfScale (fld q.par0 39 34))
      else v.toFP32 := rfl
  have quant : (t.core c).veQuant q = fun r => if veSclm q.par0 = 2 then fp32 (fMul r ((t.core c).vsfInv (fld q.par0 39 34)))
      else fp32 r := rfl
  simp only [List.map_map, Function.comp_def, xs, sums, deq, quant]

/-- VSMXC whose A and records were read: each row folded into its record (R174). -/
theorem State.veFloat_vsmxc {va : List FV} {pb : Pat} {recs : List (List Byte)} (code : slotOpc q.slot = 0x21)
    (ra : t.veRead c portVeA q (veOpA q a 0) a (veAfmt q.slot) (fld q.par0 31 29) (veAxh q.par0) = .ok va)
    (rb : t.fetchAll c portVeB ((veOpB q pb).core c) 16 (pb.addrs (veOpB q pb).base) = (recs, none)) :
    let as := va.map ((t.core c).veDeq q)
    let rows := chunks ((a.levels.headD (1, 0)).1 * a.per (veAfmt q.slot)) as.length as
    let word := fun (i j : Nat) => BitVec.ofNat 32 (leNat (((recs.getD i []).drop (4 * j)).take 4))
    let out := (List.range rows.length).map fun i => softmaxChunk (word i 0) (word i 1)
      (scores (veK q.par1) (veCausal q.par0) (signed 32 (fld q.par1 31 0)) i (rows.getD i []) [])
    ∃ nf, t.veFloat c q a (some pb) d = t.veFinish c q a (some pb) d ((out.flatMap (·.2.2.2)).map ((t.core c).veQuant q))
        ((out.flatMap (·.2.2.2)).map fp32) (((pb.addrs (veOpB q pb).base).zip out).map fun x =>
          ({ core := (veOpB q pb).core c, addr := x.1, bytes := leBytes 4 x.2.1.toNat ++ leBytes 4 x.2.2.1.toNat ++
            leBytes 4 x.2.2.2.1.toNat } : Run)) nf (out.any fun x => x.1 = 0xFF800000) := by
  intro as rows word out
  unfold State.veFloat
  dsimp only
  rw [if_neg (by rw [code]; decide), ra]
  dsimp only
  rw [if_pos code]
  rw [show t.fetchAll c portVeB ((veOpB q ((some pb).getD a)).core c) 16 (pb.addrs (veOpB q ((some pb).getD a)).base) = (recs,
      none) from rb]
  exact ⟨_, rfl⟩

/-- Elements beside what they map to, where that is what the elements of another list map to. -/
theorem map_pair_of_map_eq {α β γ : Type} {f : α → γ} {g : β → γ} {xs : List α} {ys : List β} (same : xs.map f = ys.map g) :
    xs.map (fun x => (x, f x)) = (xs.zip ys).map fun p => (p.1, g p.2) := by
  induction xs generalizing ys with
  | nil => rfl
  | cons x xs ih =>
    cases ys with
    | nil => exact absurd same (List.cons_ne_nil _ _)
    | cons y ys =>
      obtain ⟨head, tail⟩ := List.cons.inj same
      simp only [List.map_cons, List.zip_cons_cons, head, ih tail]

/-- VPSUM whose partials were read and whose image was written: the image of the combined lanes (R102, R171). -/
theorem State.vePsum_of_reads {parts : List (List Byte)} {u : State} :
    let l := veLanes q.par1
    let n := 4 * l + l / 4
    let ra := resolveField q.handles (slotHi q.slot) q.xr2
    let ins := (List.range (veNpart q.par1)).map fun i => fixedOperand (ra.1, ra.2 + (i * vePstride q.par1 : Nat)) n true false 64
    let od := fixedOperand (resolveField q.handles (slotLo q.slot) q.xr0) n false true 64
    t.checkOps c true (ins.take 1 ++ [od] ++ ins.drop 1) = 0 →
    (ins.map fun o => t.fetch c portVeA (o.core c) o.lo.toNat n) = parts.map Except.ok →
    let ims := parts.map (preloadImage l)
    let out := (List.range l).map fun i => combineLane (ims.map fun m => (m.1.getD i 0, m.2.getD i .normal))
    let src := (ins.map fun o => (o.core c, o.lo.toNat, n)).filter fun r => decide (r ≠ (od.core c, od.lo.toNat, n))
    (t.bumpN n).veStore c q.id [freeOverlap src 1 t.free
        { core := od.core c, addr := od.lo.toNat, bytes := imageBytes (out.map fun x => (x.1, x.2.1)) }] = (u, none) →
    ∃ nf, t.vePsum c q = .ok u (estatVe false nf false (out.any (·.2.2))) := by
  intro l n ra ins od owned read ims out src stored
  have pairs : (ins.map fun o => (o, t.fetch c portVeA (o.core c) o.lo.toNat n)) =
      (ins.zip parts).map fun p => (p.1, Except.ok p.2) := map_pair_of_map_eq read
  have count : parts.length ≤ ins.length := by simpa using (congrArg List.length read).ge
  have images (g : Operand × Except Nat (List Byte) → List Int × List LaneSt) (each : ∀ p :
      Operand × List Byte, g (p.1, .ok p.2) = preloadImage l p.2) :
      ((ins.zip parts).map fun p : Operand × List Byte => (p.1, Except.ok p.2)).map g = ims := by
    have : (g ∘ fun p : Operand × List Byte => (p.1, Except.ok p.2)) = preloadImage l ∘ Prod.snd := funext each
    rw [List.map_map, this, ← List.map_map, List.map_snd_zip count]
  unfold State.vePsum
  dsimp only
  rw [if_neg (not_not_intro owned), pairs, List.findSome?_eq_none_iff.2 fun x member => ?_]
  on_goal 2 =>
    obtain ⟨p, -, rfl⟩ := List.mem_map.1 member
    rfl
  dsimp only
  rw [images _ fun p => ?_, stored]
  on_goal 2 => rfl
  exact ⟨_, rfl⟩

/-- Settles O27: VFSUM and VSMXC do their work on what they read, VPSUM combines the lanes of its partials. -/
theorem vectorPartials : Obligations.VectorPartials := by
  unfold Obligations.VectorPartials
  refine ⟨?_, ?_⟩
  · intro s c q a b d k t group passes
    have ends {opc : Nat} (walks : opc ≠ 0x18) (passed : passes opc) : s.veStart c opc = (t.veFloat c q a b d).ended c q := by
      obtain ⟨⟨next, rfl⟩, free, slot, param, pats, owned, table⟩ := passed
      rw [State.veStart_of_head ⟨next, rfl⟩ free, State.runVe_of_passes slot param walks pats owned table]
    have core : t.core c = k := State.core_begun s c .ve q c
    refine ⟨?_, ?_⟩
    · intro vss passed read xs sums
      have done := State.veFloat_vfsum (b := b) (d := d) passed.1.2 read
      rw [core] at done
      exact congrArg Host.Outcome.next ((ends (by decide) passed).trans (congrArg (RunResult.ended · c q) done))
    · intro va pb recs passed here ra ob rb as rows word out
      subst here
      obtain ⟨nf, done⟩ := State.veFloat_vsmxc (d := d) passed.1.2 ra rb
      rw [core] at done
      exact ⟨nf, congrArg Host.Outcome.next ((ends (by decide) passed).trans (congrArg (RunResult.ended · c q) done))⟩
  · intro s c q parts t l n ra ins od head free slot param owned read ims out src u stored
    obtain ⟨nf, done⟩ := State.vePsum_of_reads owned read stored
    refine ⟨nf, congrArg Host.Outcome.next ((State.veStart_of_head head free).trans (congrArg (RunResult.ended · c q) (Eq.trans ?_ done)))⟩
    have code : slotOpc q.slot = 0x18 := head.2
    have good : ¬(veSlotBad q.slot = true ∨ veParamBad (slotOpc q.slot) q.par0 q.par1 = true) := by simp [slot, code, param]
    exact (if_neg good).trans (if_pos code)

end

end Sys2Proof.Machine

/-! PROOFS. A scratchpad of good parity: reads meet no error, and writes of commands keep it good (R137, R138, R152). -/

namespace Sys2Proof.Machine

/-- No lane of any core's scratchpad has wrong parity. -/
def State.padsSound (s : State) : Prop := ∀ d : Nat, (s.core d).badLanes = []

section

variable {k : CoreState} {s : State}

/-! ### Register writes of commands -/

theorem CoreState.badLanes_putW32 (a : Nat) (v : W32) : (k.putW32 a v).badLanes = k.badLanes := by
  unfold CoreState.putW32
  rfl

theorem CoreState.badLanes_putLaneSt (T : TileId) (i : Nat) (x : LaneSt) : (k.putLaneSt T i x).badLanes = k.badLanes := by
  unfold CoreState.putLaneSt
  rfl

theorem CoreState.badLanes_writeAhcfg (t : Nat) (v : W32) : (k.writeAhcfg t v).badLanes = k.badLanes := by
  simp only [CoreState.writeAhcfg, CoreState.setAhcfg, CoreState.ahEmpty, apply_ite CoreState.badLanes, CoreState.badLanes_putW32, ite_self]

theorem CoreState.badLanes_writeVsf (i : Nat) (v : W32) : (k.writeVsf i v).badLanes = k.badLanes := by
  simp only [CoreState.writeVsf, apply_ite CoreState.badLanes, CoreState.badLanes_putW32, ite_self]

theorem CoreState.badLanes_writeRmcfg (i : Nat) (v : W32) (cov : Bool) : (k.writeRmcfg i v cov).badLanes = k.badLanes := by
  simp only [CoreState.writeRmcfg, apply_ite CoreState.badLanes, CoreState.badLanes_putW32, ite_self]

/-- A register that a command may write has no hand in parity: only the hub's bank registers do. -/
theorem CoreState.badLanes_regEffect (a v : Nat) (cov : Nat → Bool) : (k.regEffect false a v cov).badLanes = k.badLanes := by
  simp only [CoreState.regEffect, apply_ite CoreState.badLanes, CoreState.badLanes_putLaneSt, CoreState.badLanes_putW32,
    CoreState.badLanes_writeAhcfg, CoreState.badLanes_writeVsf, CoreState.badLanes_writeRmcfg, ite_self, if_true]

theorem State.badLanes_winWriteGo (c : Nat) (by_ : Writer) (fuel : Nat) : ∀ (s : State) (a : Nat) (bs : List Byte) (d : Nat),
    ((s.winWriteGo c false by_ fuel a bs).core d).badLanes = (s.core d).badLanes := by
  induction fuel with
  | zero => exact fun _ _ _ _ => rfl
  | succ fuel ih =>
    intro s a bs d
    unfold State.winWriteGo
    split
    · rfl
    · dsimp only
      rw [ih]
      split
      · rw [State.core_bump, State.core_updMac]
      · split
        · rfl
        · by_cases same : d = c
          · rw [same, State.core_updCore_self, CoreState.badLanes_regEffect]
          · rw [State.core_updCore_ne _ _ same]

/-! ### Reads -/

theorem CoreState.badWord_of_sound (sound : k.badLanes = []) (a n : Nat) : k.badWord a n = none := by
  simp [CoreState.badWord, sound, Sparse.inRange]

theorem State.fetch_of_sound {o : Nat} (sound : (s.core o).badLanes = []) (c port a n : Nat) : ∃ bs, s.fetch c port o a n = .ok bs := by
  unfold State.fetch
  rw [CoreState.badWord_of_sound sound]
  dsimp only
  split <;> exact ⟨_, rfl⟩

theorem State.fetchAll_of_sound {o : Nat} (sound : (s.core o).badLanes = []) (c port n : Nat) (as : List Nat) :
    (s.fetchAll c port o n as).2 = none := by
  induction as with
  | nil => rfl
  | cons a as ih =>
    obtain ⟨bs, read⟩ := State.fetch_of_sound sound c port a n
    simp only [State.fetchAll, read, ih]

/-! ### Writes -/

theorem CoreState.gatherByte_of_sound (sound : k.badLanes = []) (port id a : Nat) (b : Byte) :
    (k.gatherByte port id a b).2 = none ∧ (k.gatherByte port id a b).1.badLanes = [] := by
  unfold CoreState.gatherByte
  dsimp only
  split
  · exact ⟨rfl, sound⟩
  · split
    · exact ⟨rfl, sound⟩
    · split
      · exact ⟨rfl, sound⟩
      · next g _ _ =>
        obtain ⟨m, drained⟩ := CoreState.drainEntry_of_sound (port := port) sound g
        rw [drained]
        exact ⟨rfl, sound⟩

theorem CoreState.gatherBytes_of_sound (port id : Nat) (ps : List (Nat × Byte)) : ∀ k : CoreState, k.badLanes = [] →
    (k.gatherBytes port id ps).2 = none ∧ (k.gatherBytes port id ps).1.badLanes = [] := by
  induction ps with
  | nil => exact fun k sound => ⟨rfl, sound⟩
  | cons p ps ih =>
    intro k sound
    obtain ⟨through, kept⟩ := k.gatherByte_of_sound sound port id p.1 p.2
    simp only [CoreState.gatherBytes, through]
    exact ih _ kept

theorem State.padsSound_setCore (sound : s.padsSound) {c : Nat} (kept : k.badLanes = []) : (s.setCore c k).padsSound := by
  intro d
  by_cases same : d = c
  · rw [same, State.core_setCore_self, kept]
  · rw [State.core_setCore_ne _ _ same, sound]

theorem State.storeElem_of_sound (sound : s.padsSound) (c port id o a : Nat) (bs : List Byte) :
    (s.storeElem c port id o a bs).2 = none ∧ (s.storeElem c port id o a bs).1.padsSound := by
  unfold State.storeElem
  split
  · exact ⟨rfl, fun d => (State.badLanes_winWriteGo o .program bs.length s a bs d).trans (sound d)⟩
  · split
    · obtain ⟨through, kept⟩ := CoreState.gatherBytes_of_sound port id (bs.zipIdx.map fun p => (a + p.2, p.1)) _ (sound c)
      exact ⟨through, State.padsSound_setCore sound kept⟩
    · rw [CoreState.spWrite_of_sound bs.length _ a bs (sound o) le_rfl]
      exact ⟨rfl, State.padsSound_setCore sound (sound o)⟩

theorem State.storeAll_of_sound (c port id o : Nat) (ps : List (Nat × List Byte)) : ∀ s : State, s.padsSound →
    (s.storeAll c port id o ps).2 = none ∧ (s.storeAll c port id o ps).1.padsSound := by
  induction ps with
  | nil => exact fun s sound => ⟨rfl, sound⟩
  | cons p ps ih =>
    intro s sound
    obtain ⟨through, kept⟩ := State.storeElem_of_sound sound c port id o p.1 p.2
    simp only [State.storeAll, through]
    exact ih _ kept

end

end Sys2Proof.Machine

/-! PROOFS. The fine engine's FMM (R180 to R183). -/

namespace Sys2Proof.Machine

section

variable {s u : State} {c : CoreId} {q : QEntry}

/-- An FMM at the head runs. -/
theorem exec_fmm_of_head (head : s.headIs c .fe 0x60 q) : exec (.fmm c) s = .next (((s.begun c .fe q).runFmm c q).ended c q) :=
  congrArg Host.Outcome.next (State.runNext_of_turn (State.turnOf_of_head (by decide) head rfl) fun s q => s.runFmm c q)

theorem State.runFmm_of_bad (bad : feSlotBad q.slot = true) : u.runFmm c q = .fail u fFeField := if_pos (Or.inl bad)

/-- What an FMM starts from. -/
def State.fmmStart (u : State) : FmmRun := { s := u, seen := [], clips := 0, clip := false, nonfin := false, clash := false, fail := none }

/-- The blocks of an FMM, up to one that fails. -/
def State.fmmRun (u : State) (c : Nat) (q : QEntry) : FmmRun :=
  (feBlocks (feM q.par0) (feN q.par0)).foldl (fun r b => if r.fail.isSome then r else r.block c q b.1 b.2) u.fmmStart

/-- An FMM of valid fields and operands whose blocks all pass tells its track and ends without a fault. -/
theorem State.runFmm_of_passes (slot : feSlotBad q.slot = false) (param : feParamBad q.slot q.par0 q.par1 = false)
    (owned : u.checkOps c false [feOpA q, feOpB q, feOpD q] = 0) (through : (u.fmmRun c q).fail = none) :
    let r := u.fmmRun c q
    u.runFmm c q = .ok (if bitOf q.slot 105 then
      r.s.updCore c fun k => k.observe (fld q.slot 104 100) (some (finMax r.seen)) r.seen.length r.clips else r.s)
          (estatFe r.clip r.nonfin) := by
  have good : ¬(feSlotBad q.slot = true ∨ feParamBad q.slot q.par0 q.par1 = true) := by simp [slot, param]
  unfold State.fmmRun State.fmmStart at *
  unfold State.runFmm
  dsimp only
  rw [if_neg good, if_neg (not_not_intro owned), through]

/-! ### One block -/

/-- Valid parameters name at least one row and one column. -/
theorem feParamBad_dims {w : W128} {p r : W64} (param : feParamBad w p r = false) : 0 < feM p ∧ 0 < feN p := by
  simp only [feParamBad, decide_eq_false_iff_not, not_or] at param
  obtain ⟨-, n, m, -⟩ := param
  exact ⟨Nat.pos_of_ne_zero m, Nat.pos_of_ne_zero n⟩

theorem feBlocks_of_small {m n : Nat} (rows : 0 < m ∧ m ≤ 128) (cols : 0 < n ∧ n ≤ 128) : feBlocks m n = [(0, 0)] := by
  have one {x : Nat} (h : 0 < x ∧ x ≤ 128) : (x + 127) / 128 = 1 := by omega
  simp [feBlocks, one rows, one cols]

/-- The only block of an output of at most 128 by 128: its operands read, accumulated, scaled, converted and written by rows (R182). -/
theorem FmmRun.block_whole (rows : feM q.par0 ≤ 128) (cols : feN q.par0 ≤ 128) {ra rb rd : List (List Byte)} {t : State} :
    let w := q.slot
    let p := q.par0
    let r := q.par1
    let m := feM p
    let n := feN p
    let oa := feOpA q
    let ob := feOpB q
    let od := feOpD q
    let dRow := fun i : Nat => od.lo.toNat + fePitchD r * i
    u.feRows c portFeA oa (feK p) (fePitchA r) 0 (m * feABytes w) = (ra, none) →
    u.feRows c portFeB ob (feK p) (fePitchB r) 0 (n * feBBytes w) = (rb, none) →
    (feAdds w = true → u.fetchAll c portFeB (od.core c) (n * feDBytes w) ((List.range m).map dRow) = (rd, none)) →
    let xa := ra.map fun bs => (unpack (8 * feABytes w) m bs).map (decodeRaw (feSrc (fld w 119 118)) 0)
    let xb := rb.map fun bs => (unpack (8 * feBBytes w) n bs).map (decodeRaw (feSrc (fld w 117 116)) 0)
    let start := fun i j => if feAdds w then BitVec.ofNat 32 (leNat (((rd.getD i []).drop (4 * j)).take 4)) else (0 : W32)
    let accs := (List.range m).flatMap fun i => (List.range n).map fun j =>
      accumulate (decide (feABytes w = 1)) (start i j) ((xa.zip xb).map fun x => (x.1.getD i .nan).mul (x.2.getD j .nan))
    let out := if bitOf r 9 then accs.map fun a => fMul a ((u.core c).vsfScale (fld r 15 10)) else accs
    let vs := (if bitOf r 2 then out.map fun a => fMul a ((u.core c).vsfInv (fld r 8 3)) else out).map fp32
    let cv := convAll (u.core c).win (feDst (fld w 115 113)) 0 0 none vs
    (u.bumpN (m * n * feDBytes w)).storeAll c portFeB q.id (od.core c)
      ((chunks n (m * n) cv.raw).zipIdx.map fun x => (dRow x.2, pack (8 * feDBytes w) x.1)) = (t, none) →
    let b := u.fmmStart.block c q 0 0
    b.s = t ∧ b.seen = out.map fp32 ∧ b.clips = cv.clips + cv.rep ∧ b.clip = decide (cv.clips ≠ 0) ∧
      b.nonfin = (accs.any fun a => !fFinite a) ∧ b.fail = none := by
  intro w p r m n oa ob od dRow readA readB readD xa xb start accs out vs cv stored
  have m' : min 128 (feM q.par0) = feM q.par0 := Nat.min_eq_right rows
  have n' : min 128 (feN q.par0) = feN q.par0 := Nat.min_eq_right cols
  by_cases adds : feAdds q.slot = true
  · have readD' := readD adds
    unfold FmmRun.block State.fmmStart
    simp only [Nat.mul_zero, Nat.sub_zero, Nat.zero_add, Nat.add_zero, m', n', Bool.false_eq_true, if_false]
    rw [readA, readB, if_pos adds, readD']
    dsimp only
    rw [stored]
    exact ⟨rfl, rfl, rfl, rfl, rfl, rfl⟩
  · unfold FmmRun.block State.fmmStart
    simp only [Nat.mul_zero, Nat.sub_zero, Nat.zero_add, Nat.add_zero, m', n', Bool.false_eq_true, if_false]
    rw [readA, readB, if_neg adds]
    dsimp only
    have same : start = fun i j => if feAdds w then BitVec.ofNat 32 (leNat (((([] : List (List Byte)).getD i []).drop
        (4 * j)).take 4)) else (0 : W32) :=
      funext fun i => funext fun j => (if_neg adds).trans (if_neg adds).symm
    clear_value start
    subst same
    rw [stored]
    exact ⟨rfl, rfl, rfl, rfl, rfl, rfl⟩

/-! ### A sound scratchpad -/

/-- A block over a sound scratchpad fails at no read and at no write, and leaves the scratchpad sound (R152). -/
theorem FmmRun.block_of_sound {r : FmmRun} (sound : r.s.padsSound) (i j : Nat) :
    (r.block c q i j).fail = none ∧ (r.block c q i j).s.padsSound := by
  have readA := State.fetchAll_of_sound (sound ((feOpA q).core c)) c portFeA
  have readB := State.fetchAll_of_sound (sound ((feOpB q).core c)) c portFeB
  have readD (n : Nat) (as : List Nat) : (if feAdds q.slot then r.s.fetchAll c portFeB ((feOpD q).core c) n as else ([], none)).2 =
      none := by
    split
    · exact State.fetchAll_of_sound (sound _) c portFeB n as
    · rfl
  unfold FmmRun.block
  simp only [State.feRows, readA, readB, readD]
  have wrote (n : Nat) (ps : List (Nat × List Byte)) := State.storeAll_of_sound c portFeB q.id ((feOpD q).core c) ps (r.s.bumpN n) sound
  refine ⟨?_, (wrote _ _).2⟩
  rw [(wrote _ _).1]
  rfl

/-- Every block of an FMM over a sound scratchpad passes. -/
theorem State.fmmRun_of_sound (sound : u.padsSound) : (u.fmmRun c q).fail = none := by
  have each (bs : List (Nat × Nat)) : ∀ r : FmmRun, r.fail = none → r.s.padsSound →
      (bs.foldl (fun r b => if r.fail.isSome then r else r.block c q b.1 b.2) r).fail = none := by
    induction bs with
    | nil => exact fun r through _ => through
    | cons b bs ih =>
      intro r through sound
      obtain ⟨through', sound'⟩ := FmmRun.block_of_sound (c := c) (q := q) sound b.1 b.2
      rw [List.foldl_cons, if_neg (by simp [through])]
      exact ih _ through' sound'
  exact each _ u.fmmStart rfl sound

/-- Settles O29: the one block by its parts, an FMM of any size by induction over its blocks, reserved bits by the field checks. -/
theorem fineMatrixMultiply : Obligations.FineMatrixMultiply := by
  unfold Obligations.FineMatrixMultiply
  intro s c q u w p r m n oa ob od dRow good
  refine ⟨?_, ?_, ?_, ?_⟩
  · rintro ra rb rd t ⟨head, slot, param, owned⟩ rows cols readA readB readD xa xb start accs out vs cv stored
    obtain ⟨rows', cols'⟩ := feParamBad_dims param
    have blocks := feBlocks_of_small ⟨rows', rows⟩ ⟨cols', cols⟩
    obtain ⟨at_, seen, clips, clip, nonfin, none_⟩ := FmmRun.block_whole rows cols readA readB readD stored
    have run : u.fmmRun c q = u.fmmStart.block c q 0 0 := by
      rw [State.fmmRun, blocks]
      rfl
    rw [exec_fmm_of_head head, State.runFmm_of_passes slot param owned (by rw [run]; exact none_), run, at_, seen, clips, clip, nonfin]
    rfl
  · rintro ⟨head, slot, param, owned⟩ sound
    have begun : u.padsSound := fun d => (congrArg CoreState.badLanes (State.core_begun s c .fe q d)).trans (sound d)
    refine ⟨_, estatFe (u.fmmRun c q).clip (u.fmmRun c q).nonfin, exec_fmm_of_head head, fun e member same => ?_⟩
    rw [State.runFmm_of_passes slot param owned (State.fmmRun_of_sound begun), RunResult.ended_ok, State.core_updCore_self] at member
    exact CoreState.mem_finish member same
  · intro head free reserved
    have bad : veSlotBad q.slot = true := decide_eq_true (.inr (.inr (.inl reserved)))
    exact congrArg Host.Outcome.next ((State.veStart_of_head head free).trans (by rw [State.runVe_of_bad bad, RunResult.ended_fail]))
  · intro head reserved
    have bad : feSlotBad q.slot = true :=
      decide_eq_true (.inr (.inr (.inr (.inr (.inr (.inr (.inr (.inl reserved))))))))
    rw [exec_fmm_of_head head, State.runFmm_of_bad bad, RunResult.ended_fail]

end

end Sys2Proof.Machine

/-! PROOFS. Drains: their start at the head of the class, and their end (R42, R86, R149, Table 2.6). -/

namespace Sys2Proof.Machine

section

variable {s : State} {c : CoreId} {q : QEntry} {k : CoreState} {T : TileId} {id : Nat}

/-! ### Table 2.6 for a drain -/

theorem CoreState.drainGate_of_full (full : (k.tile T).st = .full) : k.drainGate T id = some true := by
  simp only [CoreState.drainGate, full]

theorem CoreState.drainGate_of_empty (empty : (k.tile T).st = .empty) (pass : k.earlierPass T id = false) : k.drainGate T id = none := by
  simp only [CoreState.drainGate, empty, pass, Bool.false_eq_true, if_false]

theorem CoreState.drainGate_of_busy (busy : (k.tile T).st = .filling ∨ (k.tile T).st = .draining) : k.drainGate T id = some false := by
  rcases busy with busy | busy <;> simp only [CoreState.drainGate, busy]

/-! ### ARELEASE and ADRAIN at the head -/

theorem exec_drainStart_release_bad (head : s.headIs c .aeDrain 0x42 q) (bad : releaseFieldBad q.slot = true) :
    exec (.drainStart c) s = .next (s.updCore c fun k => k.finish q.id fAeField 0 0) := by
  obtain ⟨next, code⟩ := head
  show execDrainStart c s = _
  simp only [execDrainStart, CoreState.drainHead, next, code, bad, ↓reduceIte]

theorem exec_drainStart_release {gate : Option Bool} (head : s.headIs c .aeDrain 0x42 q) (fields : releaseFieldBad q.slot = false)
    (gates : (s.core c).drainGate (pcTile q.slot) q.id = gate) :
    exec (.drainStart c) s = .next (gate.elim (s.updCore c fun k => k.finish q.id fAeTile 0 0) fun goes =>
      if goes then (s.begun c .aeDrain q).updCore c fun k =>
        (k.setTile (pcTile q.slot) { (k.tile (pcTile q.slot)) with st := .empty }).finish q.id 0 0 0 else s) := by
  obtain ⟨next, code⟩ := head
  show execDrainStart c s = _
  simp only [execDrainStart, CoreState.drainHead, next, code, fields, gates, ↓reduceIte, Bool.false_eq_true]
  rcases gate with _ | _ | _ <;> rfl

theorem exec_drainStart_drain_bad (head : s.headIs c .aeDrain 0x43 q) (bad : drainFieldBad q.slot = true) :
    exec (.drainStart c) s = .next (s.updCore c fun k => k.finish q.id fAeField 0 0) := by
  obtain ⟨next, code⟩ := head
  show execDrainStart c s = _
  simp only [execDrainStart, CoreState.drainHead, next, code, bad, ↓reduceIte, Nat.reduceEqDiff]

theorem exec_drainStart_drain {gate : Option Bool} (head : s.headIs c .aeDrain 0x43 q) (fields : drainFieldBad q.slot = false)
    (gates : (s.core c).drainGate (adTile q.slot) q.id = gate) :
    exec (.drainStart c) s = .next (gate.elim (s.updCore c fun k => k.finish q.id fAeTile 0 0) fun goes =>
      if goes then s.startDrain c q else s) := by
  obtain ⟨next, code⟩ := head
  show execDrainStart c s = _
  simp only [execDrainStart, CoreState.drainHead, next, code, fields, gates, ↓reduceIte, Nat.reduceEqDiff, Bool.false_eq_true]
  rcases gate with _ | _ | _ <;> rfl

theorem State.startDrain_of_refused (refused : s.checkOps c false (drainOperands q) ≠ 0) :
    s.startDrain c q = s.updCore c fun k => k.finish q.id (s.checkOps c false (drainOperands q)) 0 0 := if_pos refused

/-- A drain whose operands, table and record are right takes its tile, with F and the record it needs (R86, R91, R95). -/
theorem State.startDrain_of_sound {rec : List Byte} (owned : s.checkOps c false (drainOperands q) = 0)
    (table : isBN (adFmt q.slot) = true → ascending (bnTable (s.core c).win (adFmt q.slot = 6) (adCode q.slot)) = true)
    (read : s.readRecordFor c q = .ok rec) (record : adAccum q.slot = true → recordBad q.slot rec = false) :
    s.startDrain c q = (s.begun c .aeDrain q).updCore c fun k =>
      ({ k.setTile (adTile q.slot) { (k.tile (adTile q.slot)) with st := .draining } with
        drain := some { id := q.id, tile := adTile q.slot,
                        scale := if bitOf q.slot 94 then (s.core c).vsfScale (fld q.slot 93 88) else 0x3F800000, record := rec } } :
        CoreState).updEntry q.id fun e => { e with st := .executing } := by
  have sorted : ¬(isBN (adFmt q.slot) = true ∧ ascending (bnTable (s.core c).win (adFmt q.slot = 6) (adCode q.slot)) = false) := by
    rintro ⟨bell, falls⟩
    rw [table bell] at falls
    exact Bool.noConfusion falls
  have agrees : ¬(adAccum q.slot = true ∧ recordBad q.slot rec = true) := by
    rintro ⟨accum, bad⟩
    rw [record accum] at bad
    exact Bool.noConfusion bad
  unfold State.startDrain
  dsimp only
  rw [if_neg (not_not_intro owned), if_neg sorted, read]
  dsimp only
  rw [if_neg agrees]
  rfl

end

/-! ### What a drain writes -/

/-- From one state to another the scratchpads' bytes and parity alone may differ among the macros and the cores. -/
def State.padsOnly (s t : State) : Prop := t.macros = s.macros ∧ ∀ d : Nat, ∃ m b, t.core d = { s.core d with sp := m, badLanes := b }

section

variable {s t u : State} {c : Nat}

theorem State.padsOnly.refl (s : State) : s.padsOnly s := ⟨rfl, fun _ => ⟨_, _, rfl⟩⟩

theorem State.padsOnly.trans (h : s.padsOnly t) (g : t.padsOnly u) : s.padsOnly u := by
  obtain ⟨macros, cores⟩ := h
  obtain ⟨macros', cores'⟩ := g
  refine ⟨macros'.trans macros, fun d => ?_⟩
  obtain ⟨_, _, first⟩ := cores d
  obtain ⟨m, b, second⟩ := cores' d
  exact ⟨m, b, by rw [second, first]⟩

theorem State.padsOnly_aeWrite (s : State) (o a : Nat) (bs : List Byte) : s.padsOnly (s.aeWrite o a bs).1 := by
  refine ⟨rfl, fun d => ?_⟩
  obtain ⟨m, b, written⟩ := CoreState.spWrite_frame bs.length (s.core o) a bs
  by_cases same : d = o
  · exact ⟨m, b, by rw [same, State.aeWrite, State.core_setCore_self, written]⟩
  · exact ⟨(s.core d).sp, (s.core d).badLanes, State.core_setCore_ne _ _ same⟩

theorem State.padsOnly_putRun (s : State) (c : Nat) (r : Run) : s.padsOnly (s.putRun c r).1 := by
  unfold State.putRun
  split
  · exact .refl s
  · exact s.padsOnly_aeWrite _ _ _

theorem State.padsOnly_writeRuns (c : Nat) (rs : List Run) : ∀ (s : State) (done : Bool), s.padsOnly (s.writeRuns c done rs).1 := by
  induction rs with
  | nil => exact fun s _ => .refl s
  | cons r rs ih =>
    intro s done
    unfold State.writeRuns
    dsimp only
    split
    · exact (s.padsOnly_putRun c r).trans (ih _ _)
    · exact s.padsOnly_putRun c r

/-- Pieces of the own core on a sound scratchpad are all written. -/
theorem State.writeRuns_of_sound (rs : List Run) (own : ∀ r ∈ rs, r.core = c) : ∀ (s : State) (done : Bool), s.padsSound →
    (s.writeRuns c done rs).2.1 = none := by
  induction rs with
  | nil => exact fun _ _ _ => rfl
  | cons r rs ih =>
    intro s done sound
    have here : ¬(r.core ≠ c ∧ s.nbAdmits c r.core r.addr (r.addr + r.bytes.length : Nat) false true = false) :=
      fun away => away.1 (own r List.mem_cons_self)
    have put : s.putRun c r = ((s.setCore r.core { s.core r.core with sp := Memory.writeL (s.core r.core).sp r.addr r.bytes }), none) := by
      unfold State.putRun
      rw [if_neg here, State.aeWrite, CoreState.spWrite_of_sound _ _ _ _ (sound _) le_rfl]
      rfl
    unfold State.writeRuns
    rw [put]
    exact ih (fun r member => own r (List.mem_cons_of_mem _ member)) _ _ (State.padsSound_setCore sound (sound _))

end

theorem CoreState.observe_frame (k : CoreState) (t : Nat) (mag : Option FV) (count clips : Nat) :
    ∃ w, k.observe t mag count clips = { k with win := w } := by
  unfold CoreState.observe
  dsimp only
  split
  · unfold CoreState.putW32
    exact ⟨_, rfl⟩
  · exact ⟨k.win, rfl⟩

/-! ### The end of a drain -/

/-- A core whose drain has ended: its tile in a new state, no drain in progress, and the windows as the amax unit left them. -/
def CoreState.drained (k : CoreState) (T : TileId) (st : TileSt) (w : Memory) (b : Sparse Nat) : CoreState :=
  { k.setTile T { (k.tile T) with st := st } with drain := none, win := w, bankErrs := b }

theorem CoreState.sp_drained (k : CoreState) (T : TileId) (st : TileSt) (w : Memory) (b : Sparse Nat) : (k.drained T st w b).sp = k.sp := by
  cases T <;> rfl

theorem CoreState.queue_drained (k : CoreState) (T : TileId) (st : TileSt) (w : Memory) (b : Sparse Nat) :
    (k.drained T st w b).queue = k.queue := by
  cases T <;> rfl

theorem CoreState.tile_drained (k : CoreState) (T : TileId) (st : TileSt) (w : Memory) (b : Sparse Nat) :
    ((k.drained T st w b).tile T).st = st := by
  cases T <;> rfl

theorem CoreState.tile_finish (k : CoreState) (T : TileId) (id : Nat) (f : Byte) (x : BitVec 16) (d : W64) :
    (k.finish id f x d).tile T = k.tile T := by
  cases T <;> rfl

/-- A core that a drain has taken its tile of. -/
theorem CoreState.draining_frame (k : CoreState) (T : TileId) (d : DrainRun) (id : Nat) (f : QEntry → QEntry) :
    let t := CoreState.updEntry { k.setTile T { (k.tile T) with st := .draining } with drain := some d } id f
    t.drain = some d ∧ (t.tile T).st = .draining ∧ t.win = k.win ∧ t.sp = k.sp := by
  cases T <;> exact ⟨rfl, rfl, rfl, rfl⟩

/-- A core whose drain has ended, its entry finished. -/
theorem CoreState.finish_drained_frame (k : CoreState) (T : TileId) (st : TileSt) (w : Memory) (b : Sparse Nat) (id : Nat) (f : Byte)
    (x : BitVec 16) (d : W64) :
    let t := (k.drained T st w b).finish id f x d
    (t.tile T).st = st ∧ t.drain = none ∧ t.sp = k.sp ∧ t.queue = (k.finish id f x d).queue := by
  cases T <;> exact ⟨rfl, rfl, rfl, rfl⟩

theorem CoreState.drained_same (k : CoreState) (T : TileId) (st : TileSt) :
    ({ k.setTile T { (k.tile T) with st := st } with drain := none } : CoreState) = k.drained T st k.win k.bankErrs := by
  cases T <;> rfl

section

variable {s u : State} {c : CoreId} {q : QEntry} {d : DrainRun} {bs : List Nat}

/-- What a drain whose bias was read writes (R86, R91 to R96). -/
def State.drainWrites (s : State) (c : Nat) (q : QEntry) (d : DrainRun) (bs : List Nat) : List Run :=
  let w := q.slot
  let k := s.core c
  let spec := (k.tile (adTile w)).spec
  let zs := (List.range bs.length).map fun e => k.pipeZ w d.scale (bs.getD e 0) e (s.free + e)
  let cv := convAll k.win (adFmt w) (adCode w) (adCode w) none (zs.map fp32)
  let body := drainRuns c q cv
  let record : List Run :=
    if adRed w = 1 then [{ core := (adRec q).core c, addr := (adRec q).lo.toNat, bytes := topkRecord w d.record spec zs }]
    else if adRed w = 2 then [{ core := (adRec q).core c, addr := (adRec q).lo.toNat, bytes :=
        (momentsRecord w d.record spec zs).1 }] else []
  let hdr := cmpHeader (adFmt w) ((body.map fun r => r.bytes.length).sum) (cv.raw.filter fun x => !elemZero (adFmt w) x).length
  let header : List Run := if adCmp w then [{ core := (adDst q).core c, addr := (adDst q).lo.toNat, bytes := hdr }] else []
  body ++ record ++ header

/-- A drain that has ended: its tile as told, the track told where one is, its entry finished. -/
theorem State.drained_effect (u : State) (c : CoreId) (q : QEntry) (st : TileSt) (told : Bool) (track count clips n : Nat) (mag : Option FV)
    (e : BitVec 16) :
    let T := adTile q.slot
    let s2 := u.updCore c fun k => { k.setTile T { (k.tile T) with st := st } with drain := none }
    let s3 := if told then s2.updCore c fun k => k.observe track mag count clips else s2
    ∃ t x w, (Host.Outcome.next ((s3.updCore c fun k => k.finish q.id 0 e 0).bumpN n) : Out) = .next t ∧ t.macros = u.macros ∧
      (∀ o, o ≠ c.val → t.core o = u.core o) ∧ t.core c = ((u.core c).drained T st w (u.core c).bankErrs).finish q.id 0 x 0 := by
  intro T s2 s3
  have ended (v : State) (w : Memory) (macros : v.macros = u.macros) (cores : ∀ o, o ≠ c.val → v.core o = u.core o)
      (own : v.core c = (u.core c).drained T st w (u.core c).bankErrs) :
      ∃ t x w, (Host.Outcome.next ((v.updCore c fun k => k.finish q.id 0 e 0).bumpN n) : Out) = .next t ∧ t.macros = u.macros ∧
        (∀ o, o ≠ c.val → t.core o = u.core o) ∧ t.core c = ((u.core c).drained T st w (u.core c).bankErrs).finish q.id 0 x 0 := by
    refine ⟨_, e, w, rfl, macros, fun o other => ?_, ?_⟩
    · rw [State.core_bumpN, State.core_updCore_ne _ _ other, cores o other]
    · rw [State.core_bumpN, State.core_updCore_self, own]
  have closed : s2.core c = (u.core c).drained T st (u.core c).win (u.core c).bankErrs :=
    (State.core_updCore_self _ _ _).trans (CoreState.drained_same _ _ _)
  have others (o) (other : o ≠ c.val) : s2.core o = u.core o := State.core_updCore_ne _ _ other
  cases told with
  | false => exact ended s2 _ rfl others closed
  | true =>
    obtain ⟨w, observed⟩ := (s2.core c).observe_frame track mag count clips
    refine ended (s2.updCore c fun k => k.observe track mag count clips) w rfl (fun o other => ?_) ?_
    · rw [State.core_updCore_ne _ _ other, others o other]
    · rw [State.core_updCore_self, observed, closed]
      rfl

/-- What the record of a failed access changes of a core. -/
theorem State.core_noteFail (s : State) (c : Nat) (f : ReadFail) (o : Nat) :
    ∃ w b, (s.noteFail c f).core o = { s.core o with win := w, bankErrs := b } := by
  unfold State.noteFail State.parityAt
  split
  · by_cases same : o = f.core
    · obtain ⟨w, b, noted⟩ := (s.core f.core).noteParity_frame (if f.core = c then portOf .aeDrain else 7) f.addr false
      exact ⟨w, b, by rw [same, State.core_updCore_self, noted]⟩
    · exact ⟨_, _, State.core_updCore_ne _ _ same⟩
  · exact ⟨_, _, rfl⟩

/-- A drain that a failed access ended: its tile as told, the failure recorded, its entry finished with it. -/
theorem State.failed_effect (u : State) (c : CoreId) (q : QEntry) (st : TileSt) (f : ReadFail) :
    let T := adTile q.slot
    let s2 := u.updCore c fun k => { k.setTile T { (k.tile T) with st := st } with drain := none }
    ∃ t w, (Host.Outcome.next ((s2.noteFail c f).updCore c fun k => k.finish q.id f.fault 0 (BitVec.ofNat 64 f.addr)) : Out) = .next t ∧
      (∀ o, (t.core o).sp = (u.core o).sp) ∧ ∃ b, t.core c = ((u.core c).drained T st w b).finish q.id f.fault 0
          (BitVec.ofNat 64 f.addr) := by
  intro T s2
  have closed : s2.core c = (u.core c).drained T st (u.core c).win (u.core c).bankErrs :=
    (State.core_updCore_self _ _ _).trans (CoreState.drained_same _ _ _)
  obtain ⟨w, b, noted⟩ := s2.core_noteFail c f c
  refine ⟨_, w, rfl, fun o => ?_, b, ?_⟩
  · by_cases same : o = c.val
    · rw [same, State.core_updCore_self, CoreState.sp_finish, noted, closed]
      exact CoreState.sp_drained _ _ _ _ _
    · obtain ⟨w, b, noted⟩ := s2.core_noteFail c f o
      rw [State.core_updCore_ne _ _ same, noted, State.core_updCore_ne _ _ same]
  · rw [State.core_updCore_self, noted, closed]
    rfl

/-- The end of a drain whose pieces were all written. -/
theorem exec_drainComplete_of_written {done : Bool} (running : (s.core c).drain = some d)
    (entry : (s.core c).queue.find? (fun x => decide (x.id = d.id)) = some q) (bias : s.biasRead c q = (bs, none))
    (written : s.writeRuns c false (s.drainWrites c q d bs) = (u, none, done)) :
    ∃ t x w, exec (.drainComplete c) s = .next t ∧ t.macros = u.macros ∧ (∀ o, o ≠ c.val → t.core o = u.core o) ∧
      t.core c = ((u.core c).drained (adTile q.slot) .empty w (u.core c).bankErrs).finish q.id 0 x 0 := by
  suffices ended : ∃ t x w, execDrainComplete c s = .next t ∧ t.macros = u.macros ∧ (∀ o, o ≠ c.val → t.core o = u.core o) ∧
      t.core c = ((u.core c).drained (adTile q.slot) .empty w (u.core c).bankErrs).finish q.id 0 x 0 from ended
  unfold execDrainComplete
  dsimp only
  rw [running]
  dsimp only
  rw [entry]
  dsimp only
  rw [bias]
  dsimp only
  unfold State.drainWrites at written
  dsimp only at written
  rw [written]
  dsimp only
  exact u.drained_effect c q .empty (bitOf q.slot 82) _ _ _ _ _ _

/-- The end of a drain one of whose pieces could not be written: nothing before it leaves the tile FULL (R86). -/
theorem exec_drainComplete_of_failed {done : Bool} {f : ReadFail} (running : (s.core c).drain = some d)
    (entry : (s.core c).queue.find? (fun x => decide (x.id = d.id)) = some q) (bias : s.biasRead c q = (bs, none))
    (failed : s.writeRuns c false (s.drainWrites c q d bs) = (u, some f, done)) :
    ∃ t w, exec (.drainComplete c) s = .next t ∧ (∀ o, (t.core o).sp = (u.core o).sp) ∧ ∃ b,
      t.core c = ((u.core c).drained (adTile q.slot) (if done then .empty else .full) w b).finish q.id f.fault 0
          (BitVec.ofNat 64 f.addr) := by
  suffices ended : ∃ t w, execDrainComplete c s = .next t ∧ (∀ o, (t.core o).sp = (u.core o).sp) ∧ ∃ b,
      t.core c = ((u.core c).drained (adTile q.slot) (if done then .empty else .full) w b).finish q.id f.fault 0 (BitVec.ofNat 64 f.addr)
    from ended
  unfold execDrainComplete
  dsimp only
  rw [running]
  dsimp only
  rw [entry]
  dsimp only
  rw [bias]
  dsimp only
  unfold State.drainWrites at failed
  dsimp only at failed
  rw [failed]
  exact u.failed_effect c q _ f

/-- What a drain with its operands at the own core writes is of the own core. -/
theorem State.core_of_mem_drainWrites (dst : (adDst q).core c = c.val) (aux : (adAux q).core c = c.val) (rec : (adRec q).core c = c.val) :
    ∀ r ∈ s.drainWrites c q d bs, r.core = c.val := by
  intro r member
  simp only [State.drainWrites, List.mem_append] at member
  rcases member with (body | record) | header
  · unfold drainRuns at body
    dsimp only at body
    split at body
    · exact absurd body List.not_mem_nil
    · simp only [List.mem_flatMap, List.mem_cons] at body
      obtain ⟨p, -, here | exps⟩ := body
      · rw [here]; exact dst
      · split at exps
        · rw [List.mem_singleton.1 exps]; exact aux
        · exact absurd exps List.not_mem_nil
  · split at record
    · rw [List.mem_singleton.1 record]; exact rec
    · split at record
      · rw [List.mem_singleton.1 record]; exact rec
      · exact absurd record List.not_mem_nil
  · split at header
    · rw [List.mem_singleton.1 header]; exact dst
    · exact absurd header List.not_mem_nil

/-- Settles O30: the start by the gate of Table 2.6, the end by what its pieces' writes came to. -/
theorem drainLife : Obligations.DrainLife := by
  unfold Obligations.DrainLife
  refine ⟨?_, ?_, ?_⟩
  · intro s c q k fails
    refine ⟨fun head => ⟨fun fields full => ?_, fun bad => ?_, fun fields empty pass => ?_, fun fields busy => ?_⟩,
      fun head => ⟨fun rec fields full owned table read record => ?_, fun bad => ?_, fun fields full refused => ?_,
        fun fields empty pass => ?_, fun fields busy => ?_⟩⟩
    · exact exec_drainStart_release head fields (CoreState.drainGate_of_full full)
    · exact exec_drainStart_release_bad head bad
    · exact exec_drainStart_release head fields (CoreState.drainGate_of_empty empty pass)
    · exact exec_drainStart_release head fields (CoreState.drainGate_of_busy busy)
    · let d : DrainRun := { id := q.id, tile := adTile q.slot,
                            scale := if bitOf q.slot 94 then (s.core c).vsfScale (fld q.slot 93 88) else 0x3F800000, record := rec }
      obtain ⟨drain, tile, win, sp⟩ := (s.core c).draining_frame (adTile q.slot) d q.id fun e => { e with st := .executing }
      refine ⟨_, d, (exec_drainStart_drain head fields (CoreState.drainGate_of_full full)).trans
        (congrArg Host.Outcome.next (State.startDrain_of_sound owned table read record)), ?_, rfl, rfl, rfl, rfl, ?_, ?_, ?_⟩
      · rw [State.core_updCore_self, State.core_begun]
        exact drain
      · rw [State.core_updCore_self, State.core_begun]
        exact tile
      · rw [State.core_updCore_self, State.core_begun]
        exact win
      · rw [State.core_updCore_self, State.core_begun]
        exact sp
    · exact exec_drainStart_drain_bad head bad
    · exact (exec_drainStart_drain head fields (CoreState.drainGate_of_full full)).trans
        (congrArg Host.Outcome.next (State.startDrain_of_refused refused))
    · exact exec_drainStart_drain head fields (CoreState.drainGate_of_empty empty pass)
    · exact exec_drainStart_drain head fields (CoreState.drainGate_of_busy busy)
  · intro s c q d bs running entry bias k w spec zs cv body record hdr header
    refine ⟨fun u done written => ?_, fun u f done failed => ?_⟩
    · obtain ⟨t, x, w', ends, macros, cores, own⟩ := exec_drainComplete_of_written running entry bias written
      obtain ⟨tile, drain, sp, queue⟩ := (u.core c).finish_drained_frame (adTile w) .empty w' (u.core c).bankErrs q.id 0 x 0
      have kept : u.macros = s.macros := by
        have := (State.padsOnly_writeRuns c (s.drainWrites c q d bs) s false).1
        rwa [show s.writeRuns c false (s.drainWrites c q d bs) = (u, none, done) from written] at this
      refine ⟨t, x, ends, by rw [own]; exact tile, by rw [own]; exact drain, fun e member same => ?_, fun o => ?_, macros.trans kept⟩
      · rw [own, queue] at member
        exact CoreState.mem_finish member same
      · by_cases here : o = c.val
        · rw [here, own, sp]
        · rw [cores o here]
    · obtain ⟨t, w', ends, pads, b, own⟩ := exec_drainComplete_of_failed running entry bias failed
      obtain ⟨tile, drain, -, queue⟩ := (u.core c).finish_drained_frame (adTile w) (if done then .empty else .full) w' b q.id f.fault 0
        (BitVec.ofNat 64 f.addr)
      refine ⟨t, ends, by rw [own]; exact tile, by rw [own]; exact drain, fun e member same => ?_, pads⟩
      rw [own, queue] at member
      exact CoreState.mem_finish member same
  · intro s c q d running queue entry unbiased sound dst aux rec
    have found : (s.core c).queue.find? (fun x => decide (x.id = d.id)) = some q := by simp [queue, entry]
    have bias : s.biasRead c q = (List.replicate (adCount q.slot) 0, none) := if_neg (by simp [unbiased])
    have through := State.writeRuns_of_sound (s.drainWrites c q d (List.replicate (adCount q.slot) 0))
      (State.core_of_mem_drainWrites dst aux rec) s false sound
    obtain ⟨kept, cores⟩ := State.padsOnly_writeRuns c (s.drainWrites c q d (List.replicate (adCount q.slot) 0)) s false
    obtain ⟨⟨u, f, done⟩, written⟩ :
        ∃ r, s.writeRuns c false (s.drainWrites c q d (List.replicate (adCount q.slot) 0)) = r := ⟨_, rfl⟩
    rw [written] at through kept cores
    obtain rfl : f = none := through
    obtain ⟨t, x, w, ends, macros, -, own⟩ := exec_drainComplete_of_written running found bias written
    obtain ⟨tile, drain, -, entries⟩ := (u.core c).finish_drained_frame (adTile q.slot) .empty w (u.core c).bankErrs q.id 0 x 0
    obtain ⟨m, b, same⟩ := cores c
    refine ⟨t, x, ends, by rw [own]; exact tile, by rw [own]; exact drain, ?_, macros.trans kept⟩
    rw [own, entries, show u.core c = { s.core c with sp := m, badLanes := b } from same]
    show ((s.core c).queue.map _) = _
    rw [queue, List.map_singleton, if_pos rfl]

end

end Sys2Proof.Machine

/-! PROOFS. Merges: AMERGE on the core's tree and the hub's jobs (R98 to R101, R220). -/

namespace Sys2Proof.Machine

section

variable {s t : State} {c : CoreId} {q : QEntry}

/-! ### AMERGE -/

theorem exec_amerge_of_head (head : s.headIs c .aeDrain 0x44 q) :
    exec (.amerge c) s = .next (((s.begun c .aeDrain q).runMerge c q).ended c q) :=
  congrArg Host.Outcome.next (State.runNext_of_turn (State.turnOf_of_head (by decide) head rfl) fun s q => s.runMerge c q)

theorem State.runMerge_of_bad (bad : mergeFieldBad q.slot = true) : t.runMerge c q = .fail t fAeField := if_pos bad

/-- The descriptor of an AMERGE. -/
def amDesc (q : QEntry) : Operand := fixedOperand (resolveHandle q.handles (fld q.slot 47 40)) 144 true true 64

/-- The runs that a descriptor names. -/
def amIns (q : QEntry) (bs : List Byte) : List Operand :=
  (List.range (amRuns q.slot)).map fun r => descOperand (descWord bs (16 * r)) (8 * descWord bs (16 * r + 4)) true false 8

/-- The output that a descriptor names. -/
def amOut (bs : List Byte) : Operand := descOperand (descWord bs 0x80) (8 * descWord bs 0x84) false true 1

/-- The merge of the runs that were read. -/
def amMerged (q : QEntry) (bs : List Byte) (rd : List (List Byte)) : Merged :=
  mergeRuns (amOrder q.slot) (amComb q.slot) (amLim q.slot) (descWord bs 0x84)
    ((rd.zip (amIns q bs)).map fun p => bytePairs ((p.2.hi - p.2.lo).toNat / 8) p.1)

/-- What a merge in order writes: its pairs, then the count and flags of its descriptor (R98). -/
def amWrites (c : Nat) (q : QEntry) (bs : List Byte) (m : Merged) : List Run :=
  [{ core := c, addr := (amOut bs).lo.toNat, bytes := pairBytes m.out },
    { core := (amDesc q).core c, addr := (amDesc q).lo.toNat + 0x88,
      bytes := leBytes 4 m.out.length ++ leBytes 4 (bitAt m.trunc 0 + bitAt m.sat 1) }]

/-- The conditions under which an AMERGE comes to its merge. -/
structure State.Merges (t : State) (c : CoreId) (q : QEntry) (bs : List Byte) (rd : List (List Byte)) : Prop where
  fields : mergeFieldBad q.slot = false
  desc : t.checkOps c false [amDesc q] = 0
  described : t.readOperand c (amDesc q) = .ok bs
  owned : t.checkOps c false ((amIns q bs ++ [amOut bs]).filter fun o => o.lo ≠ o.hi) = 0
  read : ((amIns q bs).map fun o => t.readOperand c o) = rd.map Except.ok

variable {bs : List Byte} {rd : List (List Byte)}

/-- The runs of a merge, from what was read of them. -/
theorem runs_of_read {α : Type} (g : Except ReadFail (List Byte) × α → List (Nat × Nat)) (h : List Byte × α → List (Nat × Nat))
    (each : ∀ b o, g (.ok b, o) = h (b, o)) (os : List α) : ((rd.map Except.ok).zip os).map g = (rd.zip os).map h := by
  rw [List.zip_map_left, List.map_map]
  exact List.map_congr_left fun p _ => each p.1 p.2

/-- An AMERGE that comes to its merge ends with MERGE_ORDER where a run is out of order, and else with what its writes come to. -/
theorem State.runMerge_of_merges (merges : t.Merges c q bs rd) :
    ((amMerged q bs rd).bad = true → ∃ u, t.runMerge c q = .fail u fMergeOrder) ∧
    ((amMerged q bs rd).bad = false → ∀ u done, t.writeRuns c false (amWrites c q bs (amMerged q bs rd)) = (u, none, done) →
      t.runMerge c q = .ok u 0) := by
  obtain ⟨fields, desc, described, owned, read⟩ := merges
  simp only [amDesc, amIns, amOut, amMerged, amWrites] at desc described owned read ⊢
  unfold State.runMerge
  dsimp only
  rw [if_neg (by rw [fields]; decide), if_neg (not_not_intro desc), described]
  dsimp only
  rw [if_neg (not_not_intro owned), read, findSome?_map_ok fun v => rfl]
  dsimp only
  rw [runs_of_read _ (fun p => bytePairs ((p.2.hi - p.2.lo).toNat / 8) p.1) fun b o => rfl]
  refine ⟨fun bad => ?_, fun order u done written => ?_⟩
  · rw [if_pos bad]
    exact ⟨_, rfl⟩
  · rw [if_neg (by rw [order]; decide), written]

/-! ### Hub merge jobs -/

theorem Hub.jobs_commonsPut (p : Nat) (bs : List Byte) : ∀ (h : Hub) (o : Nat), (h.commonsPut p o bs).jobs = h.jobs := by
  induction bs with
  | nil => exact fun _ _ => rfl
  | cons b bs ih => exact fun h o => ih _ _

theorem State.jobs_deliver (s : State) (p off d : Nat) (pairs : List (Nat × Nat)) : (s.deliver p off d pairs).hub.jobs = s.hub.jobs :=
  Hub.jobs_commonsPut _ _ _ _

theorem State.jobs_freed (s : State) (o a n : Nat) (bs : List Byte) : ((s.aeWrite o a bs).1.bumpN n).hub.jobs = s.hub.jobs := rfl

theorem State.jobs_foldl {α : Type} {f : State → α → State} (step : ∀ s a, (f s a).hub.jobs = s.hub.jobs) (as : List α) :
    ∀ s : State, (as.foldl f s).hub.jobs = s.hub.jobs := by
  induction as with
  | nil => exact fun _ => rfl
  | cons a as ih => exact fun s => (ih (f s a)).trans (step s a)

end

section

variable {s : State} {p : PartId} {off : Nat}

theorem exec_hubMergeDone_of_none (none_ : ∀ j ∈ s.hub.jobs, ¬(j.part = p.val ∧ j.off = off)) :
    exec (.hubMergeDone p off) s = .next s := by
  have missing : s.hub.jobs.find? (fun j => decide (j.part = p.val) && decide (j.off = off) && !j.coll && !j.waits) = none :=
    List.find?_eq_none.2 fun j member match_ => none_ j member (by
      simp only [Bool.and_eq_true, decide_eq_true_eq] at match_
      exact match_.1.1)
  show execHubMergeDone p off s = _
  unfold execHubMergeDone
  dsimp only
  rw [missing]

/-- The hub without its only job, which ends (R100). -/
def Hub.jobEnds (h : Hub) (p off : Nat) : Hub := { h with jobs := [], mergeSeen := h.mergeSeen.filter fun x => decide (x ≠ (p, off)) }

/-- The end of the hub's only job: it leaves no job, and what it writes. -/
theorem exec_hubMergeDone_of_only {j : HubJob} (only : s.hub.jobs = [j]) (part : j.part = p.val) (at_ : j.off = off) (coll : j.coll = false)
    (waits : j.waits = false) :
    let h := s.hub
    let h0 := h.jobEnds p off
    (∃ t, exec (.hubMergeDone p off) s = .next t ∧ t.hub.jobs = []) ∧
    (j.fail ≠ 0 → exec (.hubMergeDone p off) s = .next (s.setHub (h0.commonsPut p (off + 0xC) (leBytes 4 j.fail)))) ∧
    (j.fail = 0 → bit (mjMode h p off) 4 = false →
      let runs := (List.range (mjRuns h p off)).map fun r =>
        bytePairs (h.mj p off (0x44 + 8 * r) 4) (h.commonsGet p (h.mj p off (0x40 + 8 * r) 4) (8 * h.mj p off (0x44 + 8 * r) 4))
      let m := mergeRuns (mjMode h p off % 4) (mjMode h p off / 4 % 4) (h.mj p off 6 2) (2 ^ 32) runs
      m.bad = false →
      exec (.hubMergeDone p off) s = .next (s.setHub
        (((h0.commonsPut p (h.mj p off 0x10 4) (pairBytes m.out)).commonsPut p (off + 0x18)
          (leBytes 4 m.out.length)).commonsPut p (off + 0xC)
            (leBytes 4 (if mjRuns h p off < h.mj p off 0 4 then 6 else 1))))) := by
  have found : s.hub.jobs.find? (fun j => decide (j.part = p.val) && decide (j.off = off) && !j.coll && !j.waits) = some j := by
    simp [only, part, at_, coll, waits]
  have ends : s.updHub (fun h => { h with
      jobs := h.jobs.filter fun x => decide (x ≠ j), mergeSeen := h.mergeSeen.filter fun x => decide (x ≠ (p.val, off)) }) =
      s.setHub (s.hub.jobEnds p off) := by
    simp [State.updHub, State.setHub, Hub.jobEnds, only]
  intro h h0
  rw [show exec (.hubMergeDone p off) s = execHubMergeDone p off s from rfl]
  unfold execHubMergeDone
  dsimp only
  rw [found]
  dsimp only
  rw [ends]
  refine ⟨⟨_, rfl, ?_⟩, fun fails => ?_, fun sound plain order => ?_⟩
  · split
    · rw [State.updHub_hub, Hub.jobs_commonsPut]
      rfl
    · split
      · rw [State.updHub_hub, Hub.jobs_commonsPut]
        split
        · rw [State.jobs_foldl fun s d => State.jobs_freed s _ _ _ _, State.bumpN_hub, State.updHub_hub, Hub.jobs_commonsPut]
          rfl
        · rw [State.bumpN_hub, State.updHub_hub, Hub.jobs_commonsPut]
          rfl
      · split
        · rw [State.updHub_hub, Hub.jobs_commonsPut, State.updHub_hub, Hub.jobs_commonsPut, Hub.jobs_commonsPut,
            State.jobs_foldl fun s d => s.jobs_deliver _ _ _ _]
          rfl
        · rw [State.updHub_hub, Hub.jobs_commonsPut, State.updHub_hub, Hub.jobs_commonsPut, Hub.jobs_commonsPut]
          rfl
  · rw [if_pos fails]
    rfl
  · rw [if_neg (not_not_intro sound), if_neg (by rw [order]; decide), if_neg (by rw [plain]; decide)]
    have done : (if decide (mjRuns s.hub p off < s.hub.mj p off 0 4) = true then 6 else 1) =
        if mjRuns h p off < h.mj p off 0 4 then 6 else 1 := by
      simp only [decide_eq_true_eq]
      rfl
    rw [done]
    rfl

theorem exec_hubMergeStart_of_refused (refused : off % 64 ≠ 0 ∨ s.hub.mj p off 0xC 4 ≠ 0 ∨ mjRuns s.hub p off = 0 ∨
    s.hub.mj p off 0 4 < mjRuns s.hub p off) : exec (.hubMergeStart p off) s = .next s := by
  refine congrArg Host.Outcome.next (if_neg ?_)
  rintro ⟨aligned, -, status, some_, -, arrived, -⟩
  rcases refused with h | h | h | h
  · exact h aligned
  · exact h status
  · exact some_ h
  · exact absurd arrived (Nat.not_le.2 h)

/-- Settles O31: AMERGE by what its merge and its writes come to, a hub job by its start's conditions and by its end. -/
theorem coreAndHubMerges : Obligations.CoreAndHubMerges := by
  unfold Obligations.CoreAndHubMerges
  refine ⟨?_, ?_⟩
  · intro s c q bs rd t w desc ins cap out m head
    refine ⟨fun fields desc_ described owned read => ?_, fun bad => ?_⟩
    · obtain ⟨bad, good⟩ := State.runMerge_of_merges (t := t) (c := c) (q := q) ⟨fields, desc_, described, owned, read⟩
      refine ⟨fun u done order written => ?_, fun order => ?_⟩
      · rw [exec_amerge_of_head head, good order u done written, RunResult.ended_ok]
      · obtain ⟨u, ran⟩ := bad order
        refine ⟨_, (exec_amerge_of_head head).trans (by rw [ran, RunResult.ended_fail]), fun e member same => ?_⟩
        rw [State.core_updCore_self] at member
        exact CoreState.mem_finish member same
    · rw [exec_amerge_of_head head, State.runMerge_of_bad bad, RunResult.ended_fail]
  · intro s p off h
    refine ⟨fun aligned inside status some_ few arrived free => ?_, exec_hubMergeStart_of_refused, fun j only part at_ coll waits => ?_,
      exec_hubMergeDone_of_none⟩
    · have unstarted : (!(h.jobs.any fun j => decide (j.part = p.val) && decide (j.off = off))) = true := by
        simp only [Bool.not_eq_true', List.any_eq_false, Bool.and_eq_true, decide_eq_true_eq]
        exact free
      have starts : exec (.hubMergeStart p off) s = .next (if h.poolOk 3 (h.mergeTenant p) then _ else _) :=
        congrArg Host.Outcome.next (if_pos ⟨aligned, inside, status, some_, few, arrived, unstarted⟩)
      refine ⟨fun admits => starts.trans ?_, fun full => starts.trans ?_⟩
      · rw [if_pos admits]
      · rw [if_neg (by rw [full]; decide)]
    · exact exec_hubMergeDone_of_only only part at_ coll waits

end

end Sys2Proof.Machine

/-! PROOFS. Submission and completion rings (R203, R206 to R208, R220). -/

namespace Sys2Proof.Machine

section

variable {s old new : State} {h : Hub} {r q : Nat}

/-! ### Rings -/

@[simp] theorem Hub.ring_setRing_self (h : Hub) (r : Nat) (v : Ring) : (h.setRing r v).ring r = v := Sparse.get_set_self _ _ _ _

theorem Hub.ring_setRing_ne (h : Hub) (v : Ring) (other : q ≠ r) : (h.setRing r v).ring q = h.ring q := Sparse.get_set_ne _ _ _ _ other

theorem Hub.ring_updRing (h : Hub) (r q : Nat) (f : Ring → Ring) : (h.updRing r f).ring q = if q = r then f (h.ring r) else h.ring q := by
  split
  · next same => rw [same]; exact Hub.ring_setRing_self _ _ _
  · next other => exact Hub.ring_setRing_ne _ _ other

/-- A change of a ring that keeps its CQR keeps every ring's completion ring. -/
theorem Hub.cqOf_updRing (h : Hub) (r q : Nat) {f : Ring → Ring} (kept : ∀ x, (f x).cqr = x.cqr) : (h.updRing r f).cqOf q = h.cqOf q := by
  unfold Hub.cqOf
  rw [Hub.ring_updRing]
  split
  · next same => rw [kept, same]
  · rfl

/-! ### Tables that their blocks own -/

/-- Where every block owns the table it keeps, what it writes stands (R203). -/
theorem State.ownWrites_of_kept (kept : tablesKept old.hub) : State.ownWrites old new = new := by
  unfold State.ownWrites
  simp [kept 0 (by decide), kept 1 (by decide), kept 2 (by decide), kept 3 (by decide)]

/-- A device record leaves the tables, and has the next number. -/
theorem State.journalDev_tables (s : State) (code : Byte) (sk si : Nat) (d : W64) :
    (s.journalDev code sk si d).hub.rings = s.hub.rings ∧ (s.journalDev code sk si d).hub.seq = s.hub.seq + 1 ∧
      (s.journalDev code sk si d).hub.streams = s.hub.streams := by
  rw [State.journalDev, State.hub_journal]
  exact ⟨rfl, rfl, rfl⟩

/-! ### Completions -/

/-- A completion posted to a ring that is enabled (R208). -/
theorem State.postNow_effect {w : CqWait} (en : (s.hub.ring w.ring).en = true) :
    let q := s.hub.cqOf w.ring
    ∃ e : Completion, e.tag = w.tag ∧ e.status = w.ans.status ∧ e.sq = w.ring ∧ e.phase = (s.hub.ring q).phase ∧ e.more = w.fin.isNone ∧
      e.stream = w.ans.stream ∧ e.detail = w.ans.detail ∧ e.result = w.ans.result ∧
      Sparse.get (s.postNow w).hub.cqs [] q = Sparse.get s.hub.cqs [] q ++ [e] ∧
      (s.postNow w).hub.cmds = s.hub.cmds.filter (fun x => decide (some x.id ≠ w.fin)) ∧
      ((s.postNow w).hub.ring q).cqTail = (s.hub.ring q).cqTail + 1 ∧
      ((s.postNow w).hub.ring q).reserved = (if w.fin.isNone then (s.hub.ring q).reserved else (s.hub.ring q).reserved - 1) ∧
      (s.postNow w).hub.cqWait = s.hub.cqWait ∧ (s.postNow w).hub.streams = s.hub.streams ∧ (s.postNow w).cores = s.cores := by
  intro q
  unfold State.postNow
  dsimp only
  rw [if_pos en]
  refine ⟨_, rfl, rfl, rfl, rfl, rfl, rfl, rfl, rfl, Sparse.get_set_self _ _ _ _, rfl, ?_, ?_, rfl, rfl, rfl⟩
  · exact congrArg Ring.cqTail (Hub.ring_setRing_self _ _ _)
  · refine (congrArg Ring.reserved (Hub.ring_setRing_self _ _ _)).trans ?_
    dsimp only
    split <;> rfl

theorem Hub.mayPost_of_room {w : CqWait} {i : Nat} (fin : w.fin = some i)
    (room : (h.ring (h.cqOf w.ring)).cqUsed < 2 ^ (h.ring (h.cqOf w.ring)).cqLog.toNat) : h.mayPost w = true := by
  simp [Hub.mayPost, fin, room]

theorem Hub.mayPost_of_full {w : CqWait} {i : Nat} (fin : w.fin = some i) (en : (h.ring w.ring).en = true)
    (full : 2 ^ (h.ring (h.cqOf w.ring)).cqLog.toNat ≤ (h.ring (h.cqOf w.ring)).cqUsed) : h.mayPost w = false := by
  simp [Hub.mayPost, fin, en, full]

/-- A completion of a command with nothing waiting before it is posted where there is room. -/
theorem State.post_of_room {w : CqWait} (may : s.hub.mayPost w = true) (none_ : s.hub.cqWait = []) : s.post w = s.postNow w :=
  if_pos ⟨may, by simp [none_]⟩

theorem State.post_of_full {w : CqWait} (may : s.hub.mayPost w = false) :
    s.post w = s.updHub fun h => { h with
      cqWait := h.cqWait ++ [w],
      cmds := h.cmds.map fun o => if some o.id = w.fin then { o with taken := true } else o } :=
  if_neg fun both => by rw [may] at both; exact Bool.noConfusion both.1

/-! ### Fetches -/

/-- SQ_HEAD past one more command. -/
def Ring.headOn (x : Ring) : Ring := { x with sqHead := x.sqHead + 1 }

/-- One more completion reserved. -/
def Ring.reserve (x : Ring) : Ring := { x with reserved := x.reserved + 1 }

/-- What a fetch leaves: the ring's SQ_HEAD past the command, one completion reserved, the command outstanding (R207). -/
theorem Hub.fetch_effect (h : Hub) (r : Nat) (c : HostCmd) :
    let f := h.fetch r c
    f.1.cmds = h.cmds ++ [f.2] ∧ f.2.cmd = c ∧ f.2.ring = r ∧ f.2.taken = false ∧ (f.1.ring r).sqHead = (h.ring r).sqHead + 1 ∧
      (f.1.ring (h.cqOf r)).reserved = (h.ring (h.cqOf r)).reserved + 1 ∧ f.1.turn = r := by
  have rings (x : Nat) : ((h.fetch r c).1.ring x) = ((h.updRing r Ring.headOn).updRing
      ((h.updRing r Ring.headOn).cqOf r) Ring.reserve).ring x :=
    rfl
  have same : (h.updRing r Ring.headOn).cqOf r = h.cqOf r := Hub.cqOf_updRing h r r fun _ => rfl
  refine ⟨rfl, rfl, rfl, rfl, ?_, ?_, rfl⟩
  · rw [rings, same, Hub.ring_updRing, Hub.ring_updRing, Hub.ring_updRing, if_pos rfl]
    split
    · next here => rw [if_pos here.symm]; rfl
    · rfl
  · rw [rings, same, Hub.ring_updRing, if_pos rfl, Hub.ring_updRing]
    split
    · next here => rw [here]; rfl
    · rfl

variable {ring : Fin 64} {c : HostCmd}

/-- Entries of a completion ring consumed up to a new CQ_HEAD (R207). -/
def Hub.consume (h : Hub) (q : Nat) (v : W32) : Hub :=
  { h.updRing q fun x => { x with cqHead := v } with
    cqs := Sparse.set h.cqs [] q ((Sparse.get h.cqs [] q).drop (v - (h.ring q).cqHead).toNat) }

theorem Hub.ring_consume (h : Hub) (q r : Nat) (v : W32) :
    (h.consume q v).ring r = if r = q then { h.ring q with cqHead := v } else h.ring r := h.ring_updRing q r fun x => { x with cqHead := v }

theorem Hub.cqOf_consume (h : Hub) (q r : Nat) (v : W32) : (h.consume q v).cqOf r = h.cqOf r :=
  h.cqOf_updRing q r (f := fun x => { x with cqHead := v }) fun _ => rfl

theorem exec_cqHeadWrite (s : State) (r : Fin 64) (v : W32) :
    exec (.cqHeadWrite r v) s = .next ((s.setHub (s.hub.consume r v)).postWaiting r s.hub.cqWait) := rfl

/-- The only completion that waits, where room has come. -/
theorem State.postWaiting_of_one {w : CqWait} (of_ : s.hub.cqOf w.ring = q) (may : s.hub.mayPost w = true) :
    s.postWaiting q [w] = (s.updHub fun h => { h with cqWait := h.cqWait.erase w }).postNow w := by
  unfold State.postWaiting
  rw [if_neg (not_not_intro of_), if_pos may]
  rfl

theorem exec_commandFetch_of_turn (may : s.hub.mayFetch ring = true) :
    exec (.commandFetch ring c) s = .next (s.ownWrites (s.fetchCmd ring c)) := by
  show execCommandFetch ring c s = _
  rw [execCommandFetch, if_neg (by rw [may]; decide)]

theorem exec_commandFetch_of_kept (may : s.hub.mayFetch ring = true) (kept : tablesKept s.hub) :
    exec (.commandFetch ring c) s = .next (s.fetchCmd ring c) := by
  rw [exec_commandFetch_of_turn may, State.ownWrites_of_kept kept]

theorem exec_commandFetch_of_not (may : s.hub.mayFetch ring = false) :
    exec (.commandFetch ring c) s = .next (s.setHub (s.hub.noteWaiting ring c)) := by
  show execCommandFetch ring c s = _
  rw [execCommandFetch, if_pos may]

/-- A fetch that may not happen, of a command that is not kept out by the pool of outstanding commands, changes nothing. -/
theorem exec_commandFetch_of_nothing (may : s.hub.mayFetch ring = false)
    (pool : ¬(s.hub.inService = true ∧ s.hub.paused = false ∧ (s.hub.ring ring).en = true ∧
      (s.hub.ring ring).sqHead ≠ (s.hub.ring ring).sqTail ∧ 16384 ≤ s.hub.cmds.length)) : exec (.commandFetch ring c) s = .next s := by
  rw [exec_commandFetch_of_not may, Hub.noteWaiting, if_neg pool]
  rfl

theorem Hub.mayFetch_of_cannot (cannot : h.canFetch r = false) : h.mayFetch r = false := by
  simp [Hub.mayFetch, cannot]

variable (bad : cmdBad c = false) (tenant : s.hub.tenantOf (s.hub.ringPart ring) c.tenant.toNat = true)

theorem State.fetchCmd_of_bad (bad : cmdBad c = true) :
    s.fetchCmd ring c = (s.setHub (s.hub.fetch ring c).1).finishCmd (s.hub.fetch ring c).2 (Answer.of 2) := if_pos bad

include bad in
theorem State.fetchCmd_of_stranger (stranger : s.hub.tenantOf (s.hub.ringPart ring) c.tenant.toNat = false) :
    s.fetchCmd ring c = (s.setHub (s.hub.fetch ring c).1).finishCmd (s.hub.fetch ring c).2 (Answer.of 3) := by
  unfold State.fetchCmd
  dsimp only
  rw [if_neg (by rw [bad]; decide), if_pos stranger]

include bad tenant in
theorem State.fetchCmd_of_past (wanted : s.hub.wanted 0 c.tenant.toNat = true) (share : poolShare 0 ≤ s.hub.held 0 (some c.tenant.toNat)) :
    s.fetchCmd ring c = (s.setHub (s.hub.fetch ring c).1).admitBusy (s.hub.fetch ring c).2 0 0 := by
  unfold State.fetchCmd
  dsimp only
  rw [if_neg (by rw [bad]; decide), if_neg (by rw [tenant]; decide), if_pos (by simp [wanted, share])]

include bad tenant in
theorem State.fetchCmd_of_sound (wanted : s.hub.wanted 0 c.tenant.toNat = false) :
    s.fetchCmd ring c = s.setHub (s.hub.fetch ring c).1 := by
  unfold State.fetchCmd
  dsimp only
  rw [if_neg (by rw [bad]; decide), if_neg (by rw [tenant]; decide), if_neg (by simp [wanted])]

end

/-- Settles O33: each clause by the doorbell, the fetch's checks in their order, or the room on the completion ring. -/
theorem commandRings : Obligations.CommandRings := by
  unfold Obligations.CommandRings
  intro s r h
  refine ⟨fun v => rfl, fun v none_ => ?consumed, fun v w i only of_ en fin room => ?waited, fun c may good tenant wanted kept => ?fetched,
    fun c shut => ?shut, fun c few stays => ?turn, fun c paused service en more full => ?full,
    fun c may bad kept => (exec_commandFetch_of_kept may kept).trans (congrArg _ (State.fetchCmd_of_bad bad)),
    fun c may good tenant kept => (exec_commandFetch_of_kept may kept).trans (congrArg _ (State.fetchCmd_of_stranger good tenant)),
    fun c may good tenant wanted share kept =>
      (exec_commandFetch_of_kept may kept).trans (congrArg _ (State.fetchCmd_of_past good tenant wanted share)),
    fun c may good tenant wanted lost kept => ?lost, fun o next => ?nop, fun o a of_ en none_ => ⟨fun room => ?posted, fun full => ?waits⟩⟩
  case consumed =>
    refine ⟨s.setHub (h.consume r v), (exec_cqHeadWrite s r v).trans ?_, ?_, Sparse.get_set_self _ _ _ _, rfl, rfl⟩
    · rw [show s.hub.cqWait = [] from none_]
      rfl
    · exact congrArg Ring.cqHead ((h.ring_consume r r v).trans (if_pos rfl))
  case waited =>
    have en' : ((h.consume r v).ring w.ring).en = true := by
      rw [Hub.ring_consume]
      split
      · next here => rw [← here]; exact en
      · exact en
    have cqs : (h.consume r v).cqOf w.ring = r := (h.cqOf_consume r w.ring v).trans of_
    have may : (h.consume r v).mayPost w = true := by
      refine Hub.mayPost_of_room fin ?_
      rw [cqs, Hub.ring_consume, if_pos rfl]
      exact room
    obtain ⟨e, tag, status, sq, -, -, -, -, -, posted, -, -, -, waiting, -⟩ :=
      State.postNow_effect (s := (s.setHub (h.consume r v)).updHub fun h => { h with cqWait := h.cqWait.erase w }) en'
    refine ⟨_, e, (exec_cqHeadWrite s r v).trans (congrArg _ ?_), waiting.trans ?_, tag, status, sq, ?_⟩
    · rw [show s.hub.cqWait = [w] from only]
      exact State.postWaiting_of_one (s := s.setHub (h.consume r v)) cqs may
    · show h.cqWait.erase w = []
      rw [only, List.erase_cons_head]
    · have at_ : ((s.setHub (h.consume r v)).updHub fun h => { h with cqWait := h.cqWait.erase w }).hub.cqOf w.ring = r := cqs
      rw [at_] at posted
      rw [posted]
      exact congrArg (· ++ [e]) (Sparse.get_set_self _ _ _ _)
  case fetched =>
    obtain ⟨cmds, cmd, ring, taken, head, reserved, turn⟩ := h.fetch_effect r c
    refine ⟨_, _, (exec_commandFetch_of_kept may kept).trans (congrArg _ (State.fetchCmd_of_sound good tenant wanted)), cmds, cmd, ring,
      taken, head, reserved, turn, rfl, rfl⟩
  case shut =>
    have cannot : h.canFetch r = false := by
      rcases shut with paused | out | off | none_
      · simp [Hub.canFetch, paused]
      · simp [Hub.canFetch, out]
      · simp [Hub.canFetch, off]
      · simp [Hub.canFetch, none_]
    refine exec_commandFetch_of_nothing (Hub.mayFetch_of_cannot cannot) ?_
    rintro ⟨service, running, en, some_, -⟩
    rcases shut with paused | out | off | none_
    · exact Bool.noConfusion (paused.symm.trans running)
    · exact Bool.noConfusion (out.symm.trans service)
    · exact Bool.noConfusion (off.symm.trans en)
    · exact some_ none_
  case turn =>
    have may : h.mayFetch r = false := by
      rcases stays with full | other
      · exact Hub.mayFetch_of_cannot (by simp [Hub.canFetch, full])
      · simp [Hub.mayFetch, other]
    exact exec_commandFetch_of_nothing may fun ⟨_, _, _, _, many⟩ => absurd few (Nat.not_lt.2 many)
  case full =>
    have cannot : h.canFetch r = false := by simp [Hub.canFetch, full]
    rw [exec_commandFetch_of_not (Hub.mayFetch_of_cannot cannot), Hub.noteWaiting, if_pos ⟨service, paused, en, more, full⟩]
  case lost =>
    have changed : (h.fetch r c).1.rings ≠ h.rings := by
      intro same
      obtain ⟨-, -, -, -, head, -⟩ := h.fetch_effect r c
      have : ((h.fetch r c).1.ring r).sqHead = (h.ring r).sqHead := congrArg (fun rs => (Sparse.get rs Ring.reset r.val).sqHead) same
      rw [head] at this
      bv_omega
    have denied : s.ownWrites (s.setHub (h.fetch r c).1) =
        ((s.setHub (h.fetch r c).1).updHub fun x => { x with rings := h.rings }).journalDev 0xA0 2 3 (BitVec.ofNat 64 3) := by
      unfold State.ownWrites
      have lost' : s.hub.owner 3 ≠ ownerReset 3 := lost
      simp [kept 0 (by decide), kept 1 (by decide), kept 2 (by decide), lost', changed, h]
      rfl
    obtain ⟨rings, seq, streams⟩ :=
      ((s.setHub (h.fetch r c).1).updHub fun x => { x with rings := h.rings }).journalDev_tables 0xA0 2 3 (BitVec.ofNat 64 3)
    have ran := exec_commandFetch_of_turn (c := c) may
    rw [State.fetchCmd_of_sound good tenant wanted, denied] at ran
    rw [State.updHub_hub] at rings seq streams
    exact ⟨_, ran, rings, seq, streams⟩
  case nop =>
    show execHostNop r s = _
    simp only [execHostNop, show s.hub.cmdNext r 0x00 = some o from next]
  case posted =>
    have en' : (h.ring o.ring).en = true := by rw [of_]; exact en
    have may : h.mayPost { ring := o.ring, tag := o.cmd.tag, fin := some o.id, spec := false, ans := a } = true :=
      Hub.mayPost_of_room rfl (by rw [of_]; exact room)
    have posts : s.finishCmd o a = _ := State.post_of_room may none_
    obtain ⟨e, tag, status, sq, phase, more, stream, detail, result, posted, cmds, tail, reserved, -, streams, cores⟩ :=
      State.postNow_effect (s := s) (w := { ring := o.ring, tag := o.cmd.tag, fin := some o.id, spec := false, ans := a }) en'
    have at_ : s.hub.cqOf o.ring = h.cqOf r := by rw [of_]
    dsimp only at tag status sq phase more stream detail result posted cmds tail reserved streams cores
    rw [at_] at phase posted tail reserved
    rw [posts]
    exact ⟨e, posted, tag, status, sq.trans of_, phase, more, stream, detail, result, by simpa using cmds, tail, reserved, cores, streams⟩
  case waits =>
    have may : h.mayPost { ring := o.ring, tag := o.cmd.tag, fin := some o.id, spec := false, ans := a } = false :=
      Hub.mayPost_of_full rfl (by rw [of_]; exact en) (by rw [of_]; exact full)
    have waits : s.finishCmd o a = _ := State.post_of_full may
    rw [waits]
    refine ⟨{ ring := o.ring, tag := o.cmd.tag, fin := some o.id, spec := false, ans := a }, ?_, of_, rfl, rfl, rfl, rfl, rfl⟩
    show h.cqWait ++ [_] = _
    rw [none_, List.nil_append]

end Sys2Proof.Machine

/-! PROOFS. Streams and tokens (R120, R203, R209, R216, R224, Tables 9.6 and 9.10). -/

namespace Sys2Proof.Machine

section

variable {s old new : State} {h : Hub} {n i : Nat}

/-! ### The stream table -/

@[simp] theorem Hub.stream_setStream_self (h : Hub) (n : Nat) (x : Stream) : (h.setStream n x).stream n = x := Sparse.get_set_self _ _ _ _

theorem Hub.stream_setStream_ne (h : Hub) (x : Stream) (other : i ≠ n) : (h.setStream n x).stream i = h.stream i :=
  Sparse.get_set_ne _ _ _ _ other

@[simp] theorem Hub.stream_updStream_self (h : Hub) (n : Nat) (f : Stream → Stream) : (h.updStream n f).stream n = f (h.stream n) :=
  h.stream_setStream_self n _

theorem Hub.stream_updStream_ne (h : Hub) (f : Stream → Stream) (other : i ≠ n) : (h.updStream n f).stream i = h.stream i :=
  h.stream_setStream_ne _ other

/-- A stream is what the table holds of it. -/
theorem Hub.stream_congr {g : Hub} (same : g.streams = h.streams) (i : Nat) : g.stream i = h.stream i :=
  congrArg (fun m => Sparse.get m Stream.reset i) same

/-! ### Completions leave the tables -/

/-- From one state to another the streams are as a change of the table leaves them, and the partitions and the cores are as they were. -/
structure State.StreamsTo (s t : State) (streams : Sparse Stream) : Prop where
  streams : t.hub.streams = streams
  parts : t.hub.parts = s.hub.parts
  cores : t.cores = s.cores

theorem State.StreamsTo.refl (s : State) : s.StreamsTo s s.hub.streams := ⟨rfl, rfl, rfl⟩

theorem State.StreamsTo.trans {t u : State} {a b : Sparse Stream} (first : s.StreamsTo t a) (second : t.StreamsTo u b) : s.StreamsTo u b :=
  ⟨second.streams, second.parts.trans first.parts, second.cores.trans first.cores⟩

/-- Where nothing has changed the table yet, a change of one stream is the same change. -/
theorem State.StreamsTo.upd {t : State} (kept : s.StreamsTo t s.hub.streams) (n : Nat) (f : Stream → Stream) :
    s.StreamsTo (t.updHub fun h => h.updStream n f) (s.hub.updStream n f).streams := by
  refine ⟨?_, kept.parts, kept.cores⟩
  simp only [State.updHub_hub, Hub.updStream, Hub.setStream, Hub.stream, kept.streams]

theorem State.post_tables (s : State) (w : CqWait) : s.StreamsTo (s.post w) s.hub.streams := by
  obtain ⟨_, _, _, _, _, _, same⟩ := s.post_frame w
  rw [same]
  exact ⟨rfl, rfl, rfl⟩

theorem State.finishCmd_tables (s : State) (o : OutCmd) (a : Answer) : s.StreamsTo (s.finishCmd o a) s.hub.streams := s.post_tables _

theorem State.endRequest_tables (s : State) (n status : Nat) (detail : W32) (spec : Bool) :
    s.StreamsTo (s.endRequest n status detail spec) (s.hub.updStream n fun x => { x with outstanding := false }).streams := by
  unfold State.endRequest
  dsimp only
  split
  · exact (State.StreamsTo.refl s).upd n _
  · exact (s.post_tables _).upd n _

theorem State.endQueued_tables (s : State) (n status : Nat) :
    s.StreamsTo (s.endQueued n status) (s.hub.updStream n fun x => { x with queued := [] }).streams := by
  have ended (cs : List HostCmd) : ∀ s : State, s.StreamsTo (cs.foldl (fun s c =>
      match s.hub.cmds.find? fun o => decide (o.cmd = c) && o.taken && !s.hub.ending o with
      | some o => s.finishCmd o { Answer.of status with stream := n }
      | none => s) s) s.hub.streams := by
    induction cs with
    | nil => exact .refl
    | cons c cs ih =>
      intro s
      rw [List.foldl_cons]
      split
      · next o _ =>
        have finished := s.finishCmd_tables o { Answer.of status with stream := n }
        have rest := finished.trans (ih _)
        rwa [finished.streams] at rest
      · exact ih s
  exact (ended (s.hub.stream n).queued s).upd n _

/-- A stream that is freed: its entry as at reset, and one less in its partition's count (R209, R224). -/
theorem State.freeStream_tables (s : State) (n : Nat) :
    let x := s.hub.stream n
    (s.freeStream n).hub.streams = (s.hub.setStream n Stream.reset).streams ∧
      (s.freeStream n).hub.parts = (s.hub.setPart x.part { s.hub.part x.part with sused := (s.hub.part x.part).sused - 1 }).parts ∧
      (s.freeStream n).cores = s.cores := by
  intro x
  unfold State.freeStream
  dsimp only
  split
  · exact ⟨rfl, rfl, rfl⟩
  · split
    · next o _ =>
      obtain ⟨streams, parts, cores⟩ := State.finishCmd_tables _ o { Answer.of 0 with stream := n, result := BitVec.ofNat 64 n }
      exact ⟨streams, parts, cores⟩
    · exact ⟨rfl, rfl, rfl⟩

/-- A stream whose requests, the outstanding one and those queued behind it, have ended. -/
theorem State.quieted_tables (s : State) (n status : Nat) :
    let t := (if (s.hub.stream n).outstanding then s.endRequest n status 0 false else s).endQueued n status
    t.hub.stream n = { s.hub.stream n with outstanding := false, queued := [] } ∧ t.hub.parts = s.hub.parts ∧ t.cores = s.cores := by
  have ended : (if (s.hub.stream n).outstanding then s.endRequest n status 0 false else s).hub.stream n =
        { s.hub.stream n with outstanding := false } ∧
      (if (s.hub.stream n).outstanding then s.endRequest n status 0 false else s).hub.parts = s.hub.parts ∧
      (if (s.hub.stream n).outstanding then s.endRequest n status 0 false else s).cores = s.cores := by
    split
    · obtain ⟨streams, parts, cores⟩ := s.endRequest_tables n status 0 false
      exact ⟨(Hub.stream_congr streams n).trans (Hub.stream_updStream_self _ _ _), parts, cores⟩
    · next idle => exact ⟨by rw [← Bool.eq_false_iff.2 idle], rfl, rfl⟩
  generalize (if (s.hub.stream n).outstanding then s.endRequest n status 0 false else s) = t at ended
  obtain ⟨stream, parts, cores⟩ := ended
  obtain ⟨streams', parts', cores'⟩ := t.endQueued_tables n status
  refine ⟨(Hub.stream_congr streams' n).trans ((Hub.stream_updStream_self _ _ _).trans ?_), parts'.trans parts, cores'.trans cores⟩
  rw [stream]

/-- A stream that is dropped is freed. -/
theorem State.dropStream_tables (s : State) (n status : Nat) :
    let x := s.hub.stream n
    (s.dropStream n status).hub.stream n = Stream.reset ∧
      ((s.dropStream n status).hub.part x.part).sused = (s.hub.part x.part).sused - 1 ∧ (s.dropStream n status).cores = s.cores := by
  intro x
  obtain ⟨stream, parts, cores⟩ := s.quieted_tables n status
  obtain ⟨streams, parts', cores'⟩ :=
    ((if (s.hub.stream n).outstanding then s.endRequest n status 0 false else s).endQueued n status).freeStream_tables n
  refine ⟨(Hub.stream_congr streams n).trans (Hub.stream_setStream_self _ _ _), ?_, cores'.trans cores⟩
  refine (congrArg (fun m => (Sparse.get m Partition.reset x.part).sused) parts').trans ?_
  rw [stream]
  refine (congrArg Partition.sused (Sparse.get_set_self _ _ _ _)).trans ?_
  exact congrArg (fun m => (Sparse.get m Partition.reset x.part).sused - 1) parts

theorem State.stream_finishCmd (s : State) (o : OutCmd) (a : Answer) (n : Nat) : (s.finishCmd o a).hub.stream n = s.hub.stream n :=
  Hub.stream_congr (s.finishCmd_tables o a).streams n

theorem State.stream_finishCmd_updStream (s : State) (o : OutCmd) (a : Answer) (n : Nat) (f : Stream → Stream) :
    ((s.updHub fun h => h.updStream n f).finishCmd o a).hub.stream n = f (s.hub.stream n) :=
  (State.stream_finishCmd _ o a n).trans (Hub.stream_updStream_self _ _ _)

theorem State.cores_finishCmd (s : State) (o : OutCmd) (a : Answer) : (s.finishCmd o a).cores = s.cores := (s.finishCmd_tables o a).cores

/-! ### The queue behind a stream's request -/

/-- An IDLE stream takes up its next queued request. -/
theorem State.nextQueued_of_idle {c : HostCmd} {rest : List HostCmd} (queued : (s.hub.stream n).queued = c :: rest)
    (idle : (s.hub.stream n).st = 1) :
    s.nextQueued n = s.updHub fun h => h.updStream n fun x => { x.begin (h.ringOf c x.sq) c with queued := rest } := by
  unfold State.nextQueued
  dsimp only
  rw [queued]
  dsimp only
  rw [if_pos idle]

theorem State.nextQueued_of_empty (queued : (s.hub.stream n).queued = []) : s.nextQueued n = s := by
  unfold State.nextQueued
  dsimp only
  rw [queued]

theorem State.nextQueued_of_busy (busy : (s.hub.stream n).st ≠ 1) : s.nextQueued n = s := by
  unfold State.nextQueued
  dsimp only
  split
  · rw [if_neg busy]
  · rfl

/-- A READY stream whose request is stopped: without a queue it is IDLE. -/
theorem State.stopReady_of_empty (queued : (s.hub.stream n).queued = []) :
    let t := ((s.endRequest n 8 0 false).updHub fun h => h.updStream n fun x => { x with st := 1, remain := 0 }).nextQueued n
    t.hub.stream n = { s.hub.stream n with outstanding := false, st := 1, remain := 0 } ∧ t.cores = s.cores := by
  obtain ⟨streams, -, cores⟩ := s.endRequest_tables n 8 0 false
  have stopped : (((s.endRequest n 8 0 false).updHub fun h => h.updStream n fun x => { x with st := 1, remain := 0 }).hub.stream n) =
      { s.hub.stream n with outstanding := false, st := 1, remain := 0 } := by
    rw [State.updHub_hub, Hub.stream_updStream_self, Hub.stream_congr streams n, Hub.stream_updStream_self]
  intro t
  rw [show t = _ from State.nextQueued_of_empty (by rw [stopped]; exact queued)]
  exact ⟨stopped, cores⟩

/-- One with a queue takes up its next request. -/
theorem State.stopReady_of_queue {c : HostCmd} {rest : List HostCmd} (queued : (s.hub.stream n).queued = c :: rest) :
    let t := ((s.endRequest n 8 0 false).updHub fun h => h.updStream n fun x => { x with st := 1, remain := 0 }).nextQueued n
    t.hub.stream n = { Stream.begin { s.hub.stream n with outstanding := false, st := 1, remain := 0 }
      ((s.endRequest n 8 0 false).hub.ringOf c (s.hub.stream n).sq) c with queued := rest } ∧ t.cores = s.cores := by
  obtain ⟨streams, -, cores⟩ := s.endRequest_tables n 8 0 false
  have stopped : (((s.endRequest n 8 0 false).updHub fun h => h.updStream n fun x => { x with st := 1, remain := 0 }).hub.stream n) =
      { s.hub.stream n with outstanding := false, st := 1, remain := 0 } := by
    rw [State.updHub_hub, Hub.stream_updStream_self, Hub.stream_congr streams n, Hub.stream_updStream_self]
  intro t
  rw [show t = _ from State.nextQueued_of_idle (c := c) (rest := rest) (by rw [stopped]; exact queued) (by rw [stopped])]
  refine ⟨?_, cores⟩
  rw [State.updHub_hub, Hub.stream_updStream_self, stopped]
  rfl

/-! ### The stream commands -/

variable {r : Fin 64} {o : OutCmd}

/-- The completion of a command on a stream. -/
def streamAnswer (n st : Nat) : Answer := { Answer.of st with stream := n }

/-- The number of the stream that a command names. -/
def streamNo (o : OutCmd) : Nat := cmdN o.cmd 8 2

section

variable (kept : tablesKept s.hub)

include kept

/-- The state of a new stream (R209). -/
def openedStream (s : State) (r : Nat) (o : OutCmd) (g : Program) (k : Nat) : Stream :=
  { Stream.reset with
    st := 1, cls := cmdN o.cmd 0x10 1, part := s.hub.ringPart r, tenant := o.cmd.tenant.toNat, slot := k, prog := g.handle
    account := cmdN o.cmd 0x12 2 }

theorem exec_streamOpen_of_room {g : Program} {k m : Nat} (next : s.hub.cmdNext r 0x10 = some o)
    (prog : s.hub.progIn (s.hub.ringPart r) (cmdN o.cmd 8 8) = some g) (idle : s.hub.loaderBusy (s.hub.ringPart r) = false)
    (pool : s.hub.poolOk 1 o.cmd.tenant.toNat = true) (quota : (s.hub.part (s.hub.ringPart r)).sused < (s.hub.part
        (s.hub.ringPart r)).squota)
    (tenant : (s.hub.openStreams fun x => x.tenant = o.cmd.tenant.toNat).length < s.mgmt.streamQuota o.cmd.tenant.toNat)
    (slot : (List.range g.slots).find? (fun k => (Sparse.find? g.slotUse k).isNone) = some k)
    (admits : s.admits (s.hub.ringPart r) o.cmd.tenant.toNat (cmdN o.cmd 0x10 1) g = true)
    (entry : (List.range 8192).find? (fun i => decide ((s.hub.stream i).st = 0)) = some m) :
    ∃ u, exec (.streamOpen r) s = .next u ∧ u.hub.streams = (s.hub.setStream m (openedStream s r o g k)).streams ∧
      (u.hub.part (s.hub.ringPart r)).sused = (s.hub.part (s.hub.ringPart r)).sused + 1 ∧ u.cores = s.cores := by
  have full : ¬((s.hub.part (s.hub.ringPart r)).squota ≤ (s.hub.part (s.hub.ringPart r)).sused ∨
      s.mgmt.streamQuota o.cmd.tenant.toNat ≤ (s.hub.openStreams fun x => x.tenant = o.cmd.tenant.toNat).length) := by omega
  suffices opened : ∃ u, execStreamOpen r s = .next u ∧ u.hub.streams = (s.hub.setStream m (openedStream s r o g k)).streams ∧
      (u.hub.part (s.hub.ringPart r)).sused = (s.hub.part (s.hub.ringPart r)).sused + 1 ∧ u.cores = s.cores from opened
  unfold execStreamOpen
  rw [State.ownWrites_of_kept kept, next]
  dsimp only
  rw [prog]
  dsimp only
  rw [if_neg (by rw [idle]; decide), if_neg (by rw [pool]; decide), if_neg full, slot]
  dsimp only
  rw [if_neg (by rw [admits]; decide), entry]
  obtain ⟨streams, parts, cores⟩ := State.finishCmd_tables
    (s.updHub fun h =>
      let h1 := (h.updProg g.handle fun y => { y with slotUse := Sparse.insert y.slotUse k m }).setStream m (openedStream s r o g k)
      h1.setPart (s.hub.ringPart r) { h1.part (s.hub.ringPart r) with sused := (h1.part (s.hub.ringPart r)).sused + 1 })
    o { Answer.of 0 with stream := m, result := BitVec.ofNat 64 m }
  refine ⟨_, rfl, streams, ?_, cores⟩
  refine (congrArg (fun ps => (Sparse.get ps Partition.reset (s.hub.ringPart r)).sused) parts).trans ?_
  exact congrArg Partition.sused (Sparse.get_set_self _ _ _ _)

/-! #### STREAM_REQ -/

section

variable {g : Program} (next : s.hub.cmdNext r 0x11 = some o) (open_ : s.streamOf r (streamNo o) = true)
  (prog : s.hub.prog (s.hub.stream (streamNo o)).prog = some g)
  (bucket : (bucketPair g.img.buckets (cmdN o.cmd 0xC 4) (cmdN o.cmd 0x10 4)).isSome = true)

include next open_ prog bucket

/-- A request of valid buckets to a stream that takes one: none wanted, queued behind another, or taken up (Table 9.10). -/
theorem exec_streamReq_of_open (takes : (s.hub.stream (streamNo o)).st = 1 ∨ (s.hub.stream (streamNo o)).st = 4) :
    (cmdN o.cmd 0x14 4 = 0 → exec (.streamReq r) s = .next (s.finishCmd o (streamAnswer (streamNo o) 0))) ∧
    (cmdN o.cmd 0x14 4 ≠ 0 → (s.hub.stream (streamNo o)).outstanding = true →
      exec (.streamReq r) s = .next ((s.updHub fun h => h.take o.id).updHub fun h => h.updStream (streamNo o) fun x =>
        { x with queued := x.queued ++ [o.cmd] })) ∧
    (cmdN o.cmd 0x14 4 ≠ 0 → (s.hub.stream (streamNo o)).outstanding = false →
      exec (.streamReq r) s = .next ((s.updHub fun h => h.take o.id).updHub fun h => h.updStream
          (streamNo o) fun x => x.begin r o.cmd)) := by
  have stands : ¬((s.hub.stream (streamNo o)).st ≠ 1 ∧ (s.hub.stream (streamNo o)).st ≠ 4) := by omega
  have fits : ¬((bucketPair g.img.buckets (cmdN o.cmd 0xC 4) (cmdN o.cmd 0x10 4)).isNone = true) := by
    rw [Option.isNone_iff_eq_none]
    intro none_
    rw [none_] at bucket
    exact Bool.noConfusion bucket
  unfold streamNo at *
  rw [show exec (.streamReq r) s = execStreamReq r s from rfl]
  unfold execStreamReq
  rw [State.ownWrites_of_kept kept, next]
  dsimp only
  rw [if_neg (by rw [open_]; decide), if_neg stands, prog]
  dsimp only
  rw [if_neg fits]
  refine ⟨fun none_ => ?_, fun some_ busy => ?_, fun some_ free => ?_⟩
  · rw [if_pos none_]
    rfl
  · rw [if_neg some_, if_pos busy]
  · rw [if_neg some_, if_neg (by rw [free]; decide)]

end

/-! #### STREAM_STOP -/

section

variable (next : s.hub.cmdNext r 0x12 = some o) (open_ : s.streamOf r (streamNo o) = true)

include next open_

/-- A stop by the stream's state (Table 9.10). -/
theorem exec_streamStop_of_open :
    let n := streamNo o
    let x := s.hub.stream n
    let fin := fun s : State => (Host.Outcome.next (s.finishCmd o (streamAnswer n 0)) : Out)
    (x.st = 1 → exec (.streamStop r) s = fin s) ∧
    (x.st = 2 → exec (.streamStop r) s =
      fin (((s.endRequest n 8 0 false).updHub fun h => h.updStream n fun x => { x with st := 1, remain := 0 }).nextQueued n)) ∧
    (x.st = 3 → exec (.streamStop r) s = fin (s.updHub fun h => h.updStream n fun x => { x with stopDue := true })) ∧
    (x.st = 4 → exec (.streamStop r) s =
      fin (((if x.outstanding then s.endRequest n 8 0 false else s).endQueued n 8).updHub fun h =>
        h.updStream n fun x => { x with st := 1, remain := 0 })) := by
  unfold streamNo at *
  rw [show exec (.streamStop r) s = execStreamStop r s from rfl]
  unfold execStreamStop
  rw [State.ownWrites_of_kept kept, next]
  dsimp only
  rw [if_neg (by rw [open_]; decide)]
  refine ⟨fun idle => ?_, fun ready => ?_, fun running => ?_, fun held => ?_⟩
  · rw [if_pos idle]
    rfl
  · rw [if_neg (by omega), if_pos ready]
    rfl
  · rw [if_neg (by omega), if_neg (by omega), if_pos running]
    rfl
  · rw [if_neg (by omega), if_neg (by omega), if_neg (by omega), if_pos held]
    rfl

end

/-! #### STREAM_CLOSE -/

theorem exec_streamClose_of_open (next : s.hub.cmdNext r 0x13 = some o) (open_ : s.streamOf r (streamNo o) = true)
    (due : (s.hub.stream (streamNo o)).closeDue = false) :
    let n := streamNo o
    let x := s.hub.stream n
    let s1 := s.updHub fun h => (h.take o.id).updStream n fun x => { x with closeTag := some (o.cmd.tag, r.val) }
    (x.st = 1 ∨ x.st = 2 ∨ x.st = 4 →
      exec (.streamClose r) s = .next ((s1.updHub fun h => h.updStream n fun x => { x with st := 5 }).dropStream n 8)) ∧
    (x.st = 3 → exec (.streamClose r) s = .next (s1.updHub fun h => h.updStream n fun x => { x with closeDue := true })) := by
  unfold streamNo at *
  rw [show exec (.streamClose r) s = execStreamClose r s from rfl]
  unfold execStreamClose
  rw [State.ownWrites_of_kept kept, next]
  dsimp only
  refine ⟨fun takes => ?_, fun running => ?_⟩
  · rw [if_neg (by rw [open_, due]; simp; omega), if_neg (by omega)]
  · rw [if_neg (by rw [open_, due]; simp; omega), if_pos running]

/-! #### STREAM_RELEASE -/

theorem exec_streamRelease_of_held (next : s.hub.cmdNext r 0x14 = some o) (one : streamNo o ≠ 0xFFFF)
    (open_ : s.streamOf r (streamNo o) = true) (held : (s.hub.stream (streamNo o)).st = 4) :
    exec (.streamRelease r) s = .next ((s.releaseStream (streamNo o)).finishCmd o (streamAnswer (streamNo o) 0)) := by
  unfold streamNo at *
  show execStreamRelease r s = _
  unfold execStreamRelease
  rw [State.ownWrites_of_kept kept, next]
  dsimp only
  rw [if_neg one, if_pos ⟨open_, held⟩]
  rfl

theorem exec_streamRelease_of_all (next : s.hub.cmdNext r 0x14 = some o) (all : streamNo o = 0xFFFF) :
    exec (.streamRelease r) s = .next (((s.hub.openStreams fun x => decide (x.part = s.hub.ringPart r) && decide (x.st = 4)).foldl
      State.releaseStream s).finishCmd o (Answer.of 0)) := by
  unfold streamNo at *
  show execStreamRelease r s = _
  unfold execStreamRelease
  rw [State.ownWrites_of_kept kept, next]
  dsimp only
  rw [if_pos all]

/-! #### A command that names no open stream -/

theorem exec_stream_of_closed (closed : s.streamOf r (streamNo o) = false) :
    let answer := (Host.Outcome.next (s.finishCmd o (streamAnswer (streamNo o) 4)) : Out)
    (s.hub.cmdNext r 0x11 = some o → exec (.streamReq r) s = answer) ∧ (s.hub.cmdNext r 0x12 = some o → exec (.streamStop r) s = answer) ∧
    (s.hub.cmdNext r 0x13 = some o → exec (.streamClose r) s = answer) ∧
    (streamNo o ≠ 0xFFFF → s.hub.cmdNext r 0x14 = some o → exec (.streamRelease r) s = answer) := by
  unfold streamNo at *
  refine ⟨fun next => ?_, fun next => ?_, fun next => ?_, fun one next => ?_⟩
  · show execStreamReq r s = _
    unfold execStreamReq
    rw [State.ownWrites_of_kept kept, next]
    dsimp only
    rw [if_pos closed]
    rfl
  · show execStreamStop r s = _
    unfold execStreamStop
    rw [State.ownWrites_of_kept kept, next]
    dsimp only
    rw [if_pos closed]
    rfl
  · show execStreamClose r s = _
    unfold execStreamClose
    rw [State.ownWrites_of_kept kept, next]
    dsimp only
    rw [if_pos (.inl closed)]
    rfl
  · show execStreamRelease r s = _
    unfold execStreamRelease
    rw [State.ownWrites_of_kept kept, next]
    dsimp only
    rw [if_neg one, if_neg (fun both => by rw [closed] at both; exact Bool.noConfusion both.1)]
    rfl

end

/-! #### A block that does not own the stream table -/

/-- Where the stream table is not the block's that keeps it, a command leaves it as it was (R203). -/
theorem State.ownWrites_streams (lost : old.hub.owner 0 ≠ some 3) : (State.ownWrites old new).hub.streams = old.hub.streams := by
  have denied (p : Prop) [Decidable p] (undo : Hub → Hub) (undone : ∀ h, (undo h).streams = h.streams) (k : Nat) (t : State) :
      (if p then (t.updHub undo).journalDev 0xA0 2 ((ownerReset k).getD 0) (BitVec.ofNat 64 k) else t).hub.streams = t.hub.streams := by
    split
    · rw [(State.journalDev_tables _ _ _ _ _).2.2, State.updHub_hub, undone]
    · rfl
  have lost' : old.hub.owner 0 ≠ ownerReset 0 := lost
  unfold State.ownWrites
  dsimp only
  rw [denied _ (fun h => { h with rings := old.hub.rings }) fun _ => rfl, denied _
      (fun h => { h with parts := old.hub.parts }) fun _ => rfl,
    denied _ (fun h => { h with tenants := old.hub.tenants }) fun _ => rfl]
  by_cases changed : new.hub.streams = old.hub.streams
  · rw [if_neg (by simp [changed]), changed]
  · rw [if_pos (by simp [lost', changed]), (State.journalDev_tables _ _ _ _ _).2.2, State.updHub_hub]

/-! #### Tokens -/

/-- Tokens granted on a channel: at most 255 stand, and those lost are journalled (R120). -/
theorem State.grantTok_effect (s : State) (c ch n : Nat) :
    ((s.grantTok c ch n).core c).getTok ch = min 255 ((s.core c).getTok ch + n) ∧
    (∀ d, d ≠ c → (s.grantTok c ch n).core d = s.core d) ∧ (s.grantTok c ch n).macros = s.macros ∧
    ((s.core c).getTok ch + n ≤ 255 → (s.grantTok c ch n).hub = s.hub) ∧
    (255 < (s.core c).getTok ch + n → (s.grantTok c ch n).hub.seq = s.hub.seq + 1) := by
  have count : ((s.core c).addTok ch n).1.getTok ch = min 255 ((s.core c).getTok ch + n) := by
    rw [Nat.min_comm]
    exact CoreState.getTok_putTok_self _ _ _ (by omega)
  have lost : ((s.core c).addTok ch n).2 = (s.core c).getTok ch + n - 255 := rfl
  unfold State.grantTok
  dsimp only
  by_cases fits : (s.core c).getTok ch + n ≤ 255
  · rw [lost, if_pos (by omega)]
    exact ⟨by rw [State.core_setCore_self]; exact count, fun d other => State.core_setCore_ne _ _ other, rfl, fun _ => rfl,
      fun past => absurd fits (Nat.not_le.2 past)⟩
  · rw [lost, if_neg (by omega)]
    refine ⟨?_, fun d other => ?_, ?_, fun fits' => absurd fits' fits, fun _ => ?_⟩
    · rw [State.core_journal, State.core_setCore_self]
      exact count
    · rw [State.core_journal, State.core_setCore_ne _ _ other]
    · rw [State.journal_macros]
      rfl
    · rw [State.hub_journal]
      rfl

end

/-! ### The statement -/

section

variable {s : State} {n i : Nat}

/-- A stream taken up by its queue or not: the others stay. -/
theorem State.nextQueued_other (other : i ≠ n) : (s.nextQueued n).hub.stream i = s.hub.stream i := by
  unfold State.nextQueued
  dsimp only
  split
  · split
    · exact Hub.stream_updStream_ne _ _ other
    · rfl
  · rfl

theorem State.releaseStream_other (other : i ≠ n) : (s.releaseStream n).hub.stream i = s.hub.stream i :=
  (State.nextQueued_other other).trans (Hub.stream_updStream_ne _ _ other)

/-- A held stream released: READY where it has a request or one is queued, else IDLE (Table 9.10). -/
theorem State.releaseStream_effect (held : (s.hub.stream n).st = 4) :
    ((s.releaseStream n).hub.stream n).st = (if (s.hub.stream n).outstanding = true ∨ (s.hub.stream n).queued ≠ [] then 2 else 1) ∧
      ((s.releaseStream n).hub.stream n).age = 0 := by
  have released : (s.updHub fun h => h.updStream n Stream.release).hub.stream n =
      { s.hub.stream n with st := if (s.hub.stream n).outstanding then 2 else 1, age := 0 } :=
    (Hub.stream_updStream_self _ _ _).trans (if_pos held)
  unfold State.releaseStream
  by_cases out : (s.hub.stream n).outstanding = true
  · rw [State.nextQueued_of_busy (by rw [released]; simp [out]), released]
    simp [out]
  · cases queue : (s.hub.stream n).queued with
    | nil =>
      rw [State.nextQueued_of_empty (by rw [released]; exact queue), released]
      simp [out]
    | cons c rest =>
      rw [State.nextQueued_of_idle (c := c) (rest := rest) (by rw [released]; exact queue) (by rw [released]; simp [out]), State.updHub_hub,
        Hub.stream_updStream_self, released]
      simp [Stream.begin, out]

/-- No stream is HELD after its release. -/
theorem State.releaseStream_not_held (n : Nat) : ((s.releaseStream n).hub.stream n).st ≠ 4 := by
  have released : ((s.updHub fun h => h.updStream n Stream.release).hub.stream n).st ≠ 4 := by
    rw [State.updHub_hub, Hub.stream_updStream_self]
    unfold Stream.release
    split
    · dsimp only
      split <;> decide
    · next other => exact other
  unfold State.releaseStream
  generalize (s.updHub fun h => h.updStream n Stream.release) = t at released
  unfold State.nextQueued
  dsimp only
  split
  · split
    · rw [State.updHub_hub, Hub.stream_updStream_self]
      simp [Stream.begin, released]
    · exact released
  · exact released

/-- Streams released one after the other: none of them is HELD, and no other becomes so. -/
theorem State.releaseStreams_not_held (ns : List Nat) (i : Nat) : ∀ s : State, (i ∈ ns ∨ (s.hub.stream i).st ≠ 4) →
    ((ns.foldl State.releaseStream s).hub.stream i).st ≠ 4 := by
  induction ns with
  | nil => exact fun s either => either.resolve_left List.not_mem_nil
  | cons n ns ih =>
    intro s either
    refine ih (s.releaseStream n) ?_
    by_cases here : i = n
    · exact .inr (by rw [here]; exact State.releaseStream_not_held n)
    · refine either.imp (fun member => (List.mem_cons.1 member).resolve_left here) fun free => ?_
      rw [State.releaseStream_other here]
      exact free

theorem Sparse.mem_of_find? {α : Type} {m : Sparse α} {k : Nat} {x : α} (found : Sparse.find? m k = some x) : (k, x) ∈ m := by
  induction m with
  | nil => exact absurd found (by simp)
  | cons e rest ih =>
    unfold Sparse.find? at found
    split at found
    · next same => rw [← same, ← Option.some.inj found]; exact List.mem_cons_self
    · exact List.mem_cons_of_mem _ (ih found)

/-- An open stream is listed among those of a condition that it meets. -/
theorem Hub.mem_openStreams {h : Hub} {p : Stream → Bool} (open_ : (h.stream i).st ≠ 0) (meets : p (h.stream i) = true) :
    i ∈ h.openStreams p := by
  cases found : Sparse.find? h.streams i with
  | none =>
    have : h.stream i = Stream.reset := by simp only [Hub.stream, Sparse.get, found, Option.getD_none]
    rw [this] at open_
    exact absurd rfl open_
  | some x =>
    have is : h.stream i = x := by simp only [Hub.stream, Sparse.get, found, Option.getD_some]
    rw [is] at open_ meets
    have member : (i, x) ∈ h.streams := Sparse.mem_of_find? found
    exact List.mem_map.2 ⟨(i, x), List.mem_filter.2 ⟨member, by simp [open_, meets]⟩, rfl⟩

end

/-- Settles O34: each command by its stream's state, a token by the channel's count. -/
theorem streamsAndTokens : Obligations.StreamsAndTokens := by
  unfold Obligations.StreamsAndTokens
  refine ⟨?_, ?_, ?_⟩
  · intro s r o h p n t
    refine ⟨?open_, ?req, ?stop, ?close, ?release, ?closed, ?lost⟩
    case open_ =>
      intro g k m kept next prog idle pool quota tenant slot admits entry
      obtain ⟨u, ran, streams, sused, cores⟩ := exec_streamOpen_of_room kept next prog idle pool quota tenant slot admits entry
      exact ⟨u, ran, (Hub.stream_congr streams m).trans (Hub.stream_setStream_self _ _ _), sused, cores,
        fun i other => (Hub.stream_congr streams i).trans (Hub.stream_setStream_ne _ _ other)⟩
    case req =>
      intro g kept next open_ prog bucket
      have ran := exec_streamReq_of_open kept next open_ prog bucket
      refine ⟨fun idle free some_ => ?_, fun held busy some_ => ?_, fun takes none_ => (ran takes).1 none_⟩
      · have begun : (((s.updHub fun h => h.take o.id).updHub fun h => h.updStream n fun x => x.begin r o.cmd).hub.stream n) =
            (h.stream n).begin r o.cmd := Hub.stream_updStream_self _ _ _
        refine ⟨_, (ran (.inl idle)).2.2 some_ free, ?_, ?_, ?_, ?_, ?_, ?_, ?_, rfl, fun i other => Hub.stream_updStream_ne _ _ other⟩
        · exact (congrArg Stream.st begun).trans (by simp [Stream.begin, idle])
        all_goals exact (congrArg _ begun).trans rfl
      · refine ⟨_, (ran (.inr held)).2.1 some_ busy, Hub.stream_updStream_self _ _ _, rfl, fun i other => Hub.stream_updStream_ne _ _ other⟩
    case stop =>
      intro next open_ kept
      obtain ⟨idle, ready, running, held⟩ := exec_streamStop_of_open kept next open_
      refine ⟨idle, fun st queued => ?_, fun c rest st queued => ?_, fun st => ?_, fun st => ?_⟩
      · obtain ⟨stream, cores⟩ := State.stopReady_of_empty (s := s) (n := streamNo o) queued
        have ended := (State.stream_finishCmd _ o { Answer.of 0 with stream := n } _).trans stream
        exact ⟨_, ready st, congrArg Stream.st ended, congrArg Stream.remain ended, congrArg Stream.outstanding ended,
          (State.cores_finishCmd _ _ _).trans cores⟩
      · obtain ⟨stream, cores⟩ := State.stopReady_of_queue (s := s) (n := streamNo o) queued
        have ended := (State.stream_finishCmd _ o { Answer.of 0 with stream := n } _).trans stream
        exact ⟨_, ready st, congrArg Stream.st ended, congrArg Stream.tag ended, congrArg Stream.queued ended,
          congrArg Stream.outstanding ended, (State.cores_finishCmd _ _ _).trans cores⟩
      · exact ⟨_, running st, (State.stream_finishCmd _ _ _ _).trans (Hub.stream_updStream_self _ _ _), State.cores_finishCmd _ _ _⟩
      · obtain ⟨stream, -, cores⟩ := s.quieted_tables (streamNo o) 8
        have ended := (State.stream_finishCmd_updStream _ o { Answer.of 0 with stream := n } _
          fun x => { x with st := 1, remain := 0 }).trans (congrArg (fun x : Stream => { x with st := 1, remain := 0 }) stream)
        exact ⟨_, held st, congrArg Stream.st ended, congrArg Stream.queued ended, congrArg Stream.remain ended,
          congrArg Stream.outstanding ended, (State.cores_finishCmd _ _ _).trans cores⟩
    case close =>
      intro next open_ due kept
      obtain ⟨drops, waits⟩ := exec_streamClose_of_open kept next open_ due
      have part : (h.stream n).part = p := by
        simp only [State.streamOf, Bool.and_eq_true, decide_eq_true_eq] at open_
        exact open_.2
      refine ⟨fun takes => ?_, fun st => ⟨_, waits st, ?_, ?_⟩⟩
      · have closing : (((s.updHub fun h => (h.take o.id).updStream n fun x => { x with closeTag := some (o.cmd.tag,
            r.val) }).updHub fun h =>
            h.updStream n fun x => { x with st := 5 }).hub.stream n).part = p := by
          rw [State.updHub_hub, Hub.stream_updStream_self, State.updHub_hub, Hub.stream_updStream_self]
          exact part
        obtain ⟨stream, sused, cores⟩ := State.dropStream_tables
          ((s.updHub fun h => (h.take o.id).updStream n fun x => { x with closeTag := some (o.cmd.tag, r.val) }).updHub fun h =>
            h.updStream n fun x => { x with st := 5 }) n 8
        rw [closing] at sused
        exact ⟨_, drops takes, stream, sused, cores⟩
      · exact congrArg Stream.closeDue (Hub.stream_updStream_self _ _ _)
      · refine (congrArg Stream.st (Hub.stream_updStream_self _ _ _)).trans ?_
        exact (congrArg Stream.st (Hub.stream_updStream_self _ _ _)).trans st
    case release =>
      intro next kept
      refine ⟨fun one open_ held => ?_, fun all => ?_⟩
      · obtain ⟨st, age⟩ := State.releaseStream_effect held
        refine ⟨_, exec_streamRelease_of_held kept next one open_ held, ?_, ?_, fun i other => ?_⟩
        · rw [State.stream_finishCmd]; exact st
        · rw [State.stream_finishCmd]; exact age
        · rw [State.stream_finishCmd]; exact State.releaseStream_other other
      · refine ⟨_, exec_streamRelease_of_all kept next all, fun i held part => ?_⟩
        rw [State.stream_finishCmd]
        refine State.releaseStreams_not_held _ i s (.inl (Hub.mem_openStreams ?_ ?_))
        · rw [held]; decide
        · simp [held, part, p, h]
    case closed =>
      intro closed one kept
      obtain ⟨req, stop, close, release⟩ := exec_stream_of_closed kept closed
      exact ⟨req, stop, close, release one⟩
    case lost =>
      intro lost
      exact ⟨⟨_, rfl, State.ownWrites_streams lost⟩, ⟨_, rfl, State.ownWrites_streams lost⟩, ⟨_, rfl, State.ownWrites_streams lost⟩,
        ⟨_, rfl, State.ownWrites_streams lost⟩, ⟨_, rfl, State.ownWrites_streams lost⟩⟩
  · intro s r o g next prog
    show execSignal r s = _
    simp only [execSignal, next, prog]
  · exact fun s c ch n _ => s.grantTok_effect c ch n

end Sys2Proof.Machine

/-! PROOFS. Atomics and owners of the hub's memories (R202 to R204, R224, Table 9.2). -/

namespace Sys2Proof.Machine

section

variable {s : State} {who : HubAgent} {mem : CtlMem} {a : Nat} {wide : Bool}

/-- An arrival noted at a merge descriptor leaves the memories as they are. -/
theorem State.noteArrival_frame (s : State) (who : HubAgent) (mem : CtlMem) (a n : Nat) :
    (s.noteArrival who mem a n).cores = s.cores ∧ (s.noteArrival who mem a n).hub.owners = s.hub.owners ∧
    (s.noteArrival who mem a n).hub.commons = s.hub.commons ∧ (s.noteArrival who mem a n).hub.credits = s.hub.credits ∧
    (s.noteArrival who mem a n).hub.tenantMem = s.hub.tenantMem ∧ (s.noteArrival who mem a n).hub.streams = s.hub.streams ∧
    (s.noteArrival who mem a n).hub.parts = s.hub.parts ∧ (s.noteArrival who mem a n).hub.rings = s.hub.rings := by
  have added : ∀ (h : Hub) p o, (h.noteAdd p o).owners = h.owners ∧ (h.noteAdd p o).commons = h.commons ∧ (h.noteAdd p o).credits = h.credits ∧
      (h.noteAdd p o).tenantMem = h.tenantMem ∧ (h.noteAdd p o).streams = h.streams ∧ (h.noteAdd p o).parts = h.parts ∧
      (h.noteAdd p o).rings = h.rings := by
    intro h p o
    unfold Hub.noteAdd
    split <;> exact ⟨rfl, rfl, rfl, rfl, rfl, rfl, rfl⟩
  unfold State.noteArrival
  split
  · split
    · split
      · exact ⟨rfl, added _ _ _⟩
      · exact ⟨rfl, rfl, rfl, rfl, rfl, rfl, rfl, rfl⟩
    · exact ⟨rfl, rfl, rfl, rfl, rfl, rfl, rfl, rfl⟩
  · exact ⟨rfl, rfl, rfl, rfl, rfl, rfl, rfl, rfl⟩

/-- An atomic that fails is not an arrival. -/
theorem State.noteArrival_of_fault {n : Nat} (fault : s.atomicFault who mem a n ≠ 0) : s.noteArrival who mem a n = s := by
  unfold State.noteArrival
  split
  · split
    · rw [if_neg fault]
    · rfl
  · rfl

/-- What a requester's atomic fails with rests on the owners and the cores only, and what it reads on the memories. -/
theorem State.atomicFault_noteArrival (n : Nat) :
    (s.noteArrival who mem a n).atomicFault who mem a n = s.atomicFault who mem a n ∧
      (s.noteArrival who mem a n).memGet mem a n = s.memGet mem a n := by
  obtain ⟨cores, owners, commons, credits, tenants, streams, parts, rings⟩ := s.noteArrival_frame who mem a n
  constructor
  · simp only [State.atomicFault, Hub.owner, State.core, cores, owners]
    rfl
  · cases mem <;> simp only [State.memGet, Hub.stream, Hub.part, Hub.ring, streams, parts, rings, credits, tenants, commons]

/-- An atomic that fails answers why. -/
theorem exec_atomic_of_fault {e : Byte} (fault : s.atomicFault who mem a (if wide then 8 else 4) = e) (bad : e ≠ 0) (v : W64) :
    exec (.ctrlMemAdd who mem a wide v) s = .next (s.answer e.toNat []) ∧
      exec (.ctrlMemSwap who mem a wide v) s = .next (s.answer e.toNat []) := by
  have failed : ∀ f, s.atomic who mem a wide f = s.answer e.toNat [] := fun f => by
    unfold State.atomic
    simp only [fault, if_neg bad]
  constructor
  · show execCtrlMemAdd _ _ _ _ _ s = _
    unfold execCtrlMemAdd
    rw [State.noteArrival_of_fault (by rw [fault]; exact bad), failed]
  · show execCtrlMemSwap _ _ _ _ _ s = _
    unfold execCtrlMemSwap
    rw [failed]

/-- An atomic that does not fail writes the new value and answers the old one. -/
theorem State.atomic_of_sound (sound : s.atomicFault who mem a (if wide then 8 else 4) = 0) (f : Nat → Nat) :
    s.atomic who mem a wide f = (s.memPut mem a (leBytes (if wide then 8 else 4) (f (leNat (s.memGet mem a (if wide then 8 else 4)))))).answer 0
      (s.memGet mem a (if wide then 8 else 4)) := by
  unfold State.atomic
  simp only [sound, if_true]

/-- Bytes written at a place are read there, and other bytes stay. -/
theorem Memory.written (m : Memory) (a n v : Nat) :
    Memory.readN (Memory.writeL m a (leBytes n v)) a n = leBytes n v ∧
      ∀ x, x < a ∨ a + n ≤ x → Memory.read (Memory.writeL m a (leBytes n v)) x = Memory.read m x := by
  have read := Memory.readN_writeL_self (leBytes n v) m a
  have apart := Memory.read_writeL_outside (leBytes n v) m a
  rw [leBytes_length] at read apart
  exact ⟨read, apart⟩

/-- What a value written to a control memory leaves: that value there, and every other byte of its memory and of the others. -/
theorem State.memPut_effect (s : State) (mem : CtlMem) (a n v : Nat) :
    let t := s.memPut mem a (leBytes n v)
    t.cores = s.cores ∧ t.hub.owners = s.hub.owners ∧
    (mem = .creditPools → Memory.readN t.hub.credits a n = leBytes n v ∧ t.hub.commons = s.hub.commons ∧
      ∀ x, x < a ∨ a + n ≤ x → Memory.read t.hub.credits x = Memory.read s.hub.credits x) ∧
    (mem = .tenantTable → Memory.readN t.hub.tenantMem a n = leBytes n v ∧ t.hub.commons = s.hub.commons ∧
      ∀ x, x < a ∨ a + n ≤ x → Memory.read t.hub.tenantMem x = Memory.read s.hub.tenantMem x) ∧
    (∀ k, mem = .commonsBank k → Memory.readN t.hub.commons (k.val * 0x400000 + a) n = leBytes n v ∧ t.hub.credits = s.hub.credits ∧
      ∀ x, x < k.val * 0x400000 + a ∨ k.val * 0x400000 + a + n ≤ x → Memory.read t.hub.commons x = Memory.read s.hub.commons x) := by
  cases mem with
  | creditPools =>
    obtain ⟨read, apart⟩ := Memory.written s.hub.credits a n v
    exact ⟨rfl, rfl, fun _ => ⟨read, rfl, apart⟩, nofun, nofun⟩
  | tenantTable =>
    obtain ⟨read, apart⟩ := Memory.written s.hub.tenantMem a n v
    exact ⟨rfl, rfl, nofun, fun _ => ⟨read, rfl, apart⟩, nofun⟩
  | commonsBank k =>
    obtain ⟨read, apart⟩ := Memory.written s.hub.commons (k.val * 0x400000 + a) n v
    refine ⟨rfl, rfl, nofun, nofun, fun j same => ?_⟩
    cases same
    exact ⟨read, rfl, apart⟩
  | streamTable => exact ⟨rfl, rfl, nofun, nofun, nofun⟩
  | partitionTable => exact ⟨rfl, rfl, nofun, nofun, nofun⟩
  | ringContexts => exact ⟨rfl, rfl, nofun, nofun, nofun⟩

theorem Hub.owner_setOwner_self (h : Hub) (k : Nat) (o : Option Nat) : (h.setOwner k o).owner k = o := Sparse.get_set_self _ _ _ _

theorem Hub.owner_setOwner_ne (h : Hub) {k i : Nat} (o : Option Nat) (other : i ≠ k) : (h.setOwner k o).owner i = h.owner i :=
  Sparse.get_set_ne _ _ _ _ other

/-- A memory handed over: its owner is the new one, and no other memory's owner changes. -/
theorem Hub.owner_handOver (h : Hub) (mem : CtlMem) (o : Option Nat) :
    (h.handOver mem o).owner (memKey mem) = o ∧ ∀ k, k ≠ memKey mem → (h.handOver mem o).owner k = h.owner k := by
  cases mem with
  | commonsBank b =>
    refine ⟨Hub.owner_setOwner_self _ _ _, fun k other => (Hub.owner_setOwner_ne _ _ other).trans ?_⟩
    split <;> rfl
  | _ => exact ⟨Hub.owner_setOwner_self _ _ _, fun k other => Hub.owner_setOwner_ne _ _ other⟩

/-- A bank handed to another partition is zeroed, and no other bank changes. -/
theorem Hub.commons_handOver (h : Hub) (k : Fin 64) {p : Nat} (other : h.owner (5 + k.val) ≠ some p) :
    (h.handOver (.commonsBank k) (some p)).commons = Sparse.clearRange h.commons (k.val * 0x400000) 0x400000 := by
  show (Hub.setOwner (if _ then _ else _) _ _).commons = _
  rw [if_pos ⟨rfl, fun same => other same.symm⟩]
  rfl

theorem exec_ownerWrite_of_allowed (allowed : who = .island ∨ s.ownsMem who mem = true) (o : Option Nat) :
    exec (.ownerWrite who mem o) s = .next (s.updHub fun h => h.handOver mem o) :=
  congrArg Host.Outcome.next (if_pos allowed)

theorem exec_ownerWrite_of_refused (other : who ≠ .island) (owns : s.ownsMem who mem = false) (o : Option Nat) :
    exec (.ownerWrite who mem o) s = .next (s.journalDev 0xA0 (agentSrc who).1 (agentSrc who).2 (BitVec.ofNat 64 (memKey mem))) :=
  congrArg Host.Outcome.next (if_neg fun allowed => allowed.elim other fun does => by rw [owns] at does; exact absurd does (by decide))

end

/-- Settles O36: an atomic is one read and one write at the bank, an owner's write one entry of the owners. -/
theorem hubMemories : Obligations.HubMemories := by
  unfold Obligations.HubMemories
  intro s who mem v
  refine ⟨fun a wide sound => ?_, fun a wide bad => ?_, fun a wide c core other => ?_, fun a wide island core part even inside => ?_,
    fun o allowed => ?_, fun o other owns => ?_, fun k p island other => ?_⟩
  · intro n old add new
    obtain ⟨cores, owners, commons, credits, tenants, -, -, -⟩ := s.noteArrival_frame who mem a n
    obtain ⟨fault, get⟩ := State.atomicFault_noteArrival (s := s) (who := who) (mem := mem) (a := a) n
    cases add with
    | true =>
      obtain ⟨cores', owners', pools, table, bank⟩ := (s.noteArrival who mem a n).memPut_effect mem a n (leNat old + v.toNat)
      rw [credits, commons] at pools
      rw [tenants, commons] at table
      rw [credits, commons] at bank
      have ran : (s.noteArrival who mem a n).atomic who mem a wide (fun old => old + v.toNat) =
          ((s.noteArrival who mem a n).memPut mem a new).answer 0 old := by
        rw [State.atomic_of_sound (fault.trans sound), get]
        rfl
      exact ⟨((s.noteArrival who mem a n).memPut mem a new).answer 0 old, congrArg Host.Outcome.next ran, rfl, cores'.trans cores,
        owners'.trans owners, pools, table, bank⟩
    | false =>
      obtain ⟨cores', owners', pools, table, bank⟩ := s.memPut_effect mem a n v.toNat
      exact ⟨(s.memPut mem a new).answer 0 old, congrArg Host.Outcome.next (State.atomic_of_sound sound _), rfl, cores', owners', pools, table, bank⟩
  · exact exec_atomic_of_fault (if_pos (.inl bad)) (by decide) v
  · refine exec_atomic_of_fault ?_ (by decide) v
    subst core
    unfold State.atomicFault
    by_cases bad : a % (if wide then 8 else 4) ≠ 0 ∨ memSize mem < a + (if wide then 8 else 4)
    · exact if_pos bad
    · rw [if_neg bad]
      cases mem with
      | commonsBank k => exact absurd rfl (other k)
      | _ => rfl
  · refine exec_atomic_of_fault ?_ (by decide) v
    subst part
    unfold State.atomicFault
    rw [if_neg fun bad => bad.elim (fun odd => odd even) fun past => by simp only [memSize] at past; omega]
    cases who with
    | fabric c => exact absurd rfl (core c)
    | island => exact absurd rfl island
    | _ => exact if_pos rfl
  · obtain ⟨self, others⟩ := s.hub.owner_handOver mem o
    exact ⟨_, exec_ownerWrite_of_allowed allowed o, self, others, rfl⟩
  · refine ⟨_, exec_ownerWrite_of_refused other owns o, ?_⟩
    rw [State.journalDev, State.hub_journal]
    exact ⟨rfl, rfl, rfl⟩
  · refine ⟨_, exec_ownerWrite_of_allowed (.inl island) (some p), ?_⟩
    rw [State.updHub_hub, Hub.commons_handOver _ k other]
    constructor
    · intro x low high
      rw [Memory.read_clearRange, if_pos ⟨low, by omega⟩]
    · intro x outside
      rw [Memory.read_clearRange, if_neg (by omega)]

end Sys2Proof.Machine

/-! PROOFS. Installing, replacing and removing programs (R187, R198, R199, R207). -/

namespace Sys2Proof.Machine

section

variable {s : State} {h : Hub} {n i c : Nat} {b : List Nat} {img : Image}

/-- What each step of a fold leaves as it is, the fold does. -/
theorem foldl_view {α β γ : Type} {view : α → γ} {f : α → β → α} (kept : ∀ a x, view (f a x) = view a) (xs : List β) :
    ∀ a, view (xs.foldl f a) = view a := by
  induction xs with
  | nil => exact fun _ => rfl
  | cons x xs ih => exact fun a => (ih _).trans (kept a x)

/-! ### Loading leaves the hub's tables as they are (R198) -/

theorem State.hub_winWriteGo (c : Nat) (hub : Bool) (by_ : Writer) (fuel : Nat) : ∀ (s : State) (a : Nat) (bs : List Byte),
    (s.winWriteGo c hub by_ fuel a bs).hub = s.hub := by
  induction fuel with
  | zero => exact fun _ _ _ => rfl
  | succ fuel ih =>
    intro s a bs
    unfold State.winWriteGo
    dsimp only
    split
    · rfl
    · rw [ih]
      split
      · rfl
      · split <;> rfl

theorem State.hub_bindMacros (s : State) (c : Nat) : (s.bindMacros c).hub = s.hub := by
  unfold State.bindMacros
  refine foldl_view (view := State.hub) (fun s j => ?_) _ s
  dsimp only
  split
  · split <;> rfl
  · rfl

theorem State.hub_loadCore (s : State) (img : Image) (b : List Nat) (part l : Nat) : (s.loadCore img b part l).hub = s.hub :=
  State.hub_bindMacros _ _

theorem State.hub_loadMacro (s : State) (c m : Nat) (w : MacroImage) : (s.loadMacro c m w).hub = s.hub := by
  unfold State.loadMacro
  generalize List.range 2064 = rows
  exact foldl_view (view := State.hub) (by intro s r; rfl) _ _

theorem State.hub_loadData (s : State) (img : Image) (b : List Nat) (l : Nat) (d : DataInit) : (s.loadData img b l d).hub = s.hub := by
  unfold State.loadData
  split <;> rfl

theorem State.hub_loadWindows (s : State) (img : Image) (b : List Nat) (part : Nat) : (s.loadWindows img b part).hub = s.hub := by
  unfold State.loadWindows
  refine foldl_view (view := State.hub) (fun s o => foldl_view (view := State.hub) (fun s q => ?_) _ s) _ s
  split <;> rfl

theorem State.hub_loadRest (s : State) (img : Image) (b : List Nat) (l : Nat) : (s.loadRest img b l).hub = s.hub := by
  unfold State.loadRest
  dsimp only
  rw [updCore_hub, foldl_view (view := State.hub) fun s d => s.hub_loadData img b l d]
  exact foldl_view (view := State.hub) (by intro s r; exact State.hub_winWriteGo _ _ _ _ _ _ _) _ _

/-- An image loaded: only the barriers of the hub change. -/
theorem State.hub_loadImage (s : State) (img : Image) (b : List Nat) (part handle : Nat) :
    ∃ bars, (s.loadImage img b part handle).hub = { s.hub with barriers := bars } := by
  unfold State.loadImage
  dsimp only
  rw [State.updHub_hub, foldl_view (view := State.hub) fun s l => s.hub_loadRest img b l,
    foldl_view (view := State.hub) fun s (w : MacroImage) => State.hub_loadMacro _ _ _ _, State.hub_loadWindows,
    foldl_view (view := State.hub) fun s l => s.hub_loadCore img b part l]
  exact ⟨_, rfl⟩

theorem State.hub_unloadImage (s : State) (img : Image) (b : List Nat) (handle : Nat) :
    ∃ bars, (s.unloadImage img b handle).hub = { s.hub with barriers := bars } := by
  have kept : ∀ s : State, (b.foldl (fun s c => s.updCore c fun k =>
      ([1, 2, 3, 4].foldl (fun k d => { k with win := Win.putN k.win (0x040B0100 + 16 * d) 16 0 }) k).dropHandles none)
      (img.handles.foldl (fun s h => s.updCore (b.getD h.lcore 0) fun k =>
        { k with win := Win.putN k.win (0x040A0000 + 16 * h.entry.toNat) 16 ((k.ht h.entry.toNat).toNat % 2 ^ 127) })
        ((s.boundMacros img b).foldl (fun s m => (s.updMac m.1 m.2 fun k => k.writeState .loader s.free .offline).bump) s))).hub = s.hub := by
    intro s
    rw [foldl_view (view := State.hub) (by intro s c; rfl), foldl_view (view := State.hub) (by intro s x; rfl)]
    exact foldl_view (view := State.hub) (by intro s m; rfl) _ _
  unfold State.unloadImage
  dsimp only
  rw [State.updHub_hub, kept]
  exact ⟨_, rfl⟩

theorem State.hub_armImage (s : State) (img : Image) (b : List Nat) : (s.armImage img b).1.hub = s.hub :=
  foldl_view (view := State.hub) (by intro s x; rfl) _ _

theorem State.hub_loadInactive (s : State) (g : Program) (img : Image) : (s.loadInactive g img).hub = s.hub :=
  foldl_view (view := State.hub) (by intro s x; rfl) _ _

/-- New words in the inactive bank leave the active one. -/
theorem State.bank_loadInactive (s : State) (g : Program) (img : Image) (c : Nat) : ((s.loadInactive g img).core c).bank = (s.core c).bank := by
  refine foldl_view (view := fun s : State => (s.core c).bank) (fun s l => ?_) _ s
  by_cases same : c = g.lcores.getD l 0
  · subst same
    rw [State.core_updCore_self]
    split <;> rfl
  · rw [State.core_updCore_ne _ _ same]

/-! ### Stopped cores and completions leave the programs -/

theorem Hub.programs_coreReports (h : Hub) (c : Nat) (tag code : BitVec 16) : (h.coreReports c tag code).programs = h.programs := rfl

theorem Hub.invs_coreReports (h : Hub) (c : Nat) (tag code : BitVec 16) :
    (h.coreReports c tag code).invs.map Invocation.prog = h.invs.map Invocation.prog := by
  unfold Hub.coreReports
  rw [List.map_map]
  refine List.map_congr_left fun v _ => ?_
  dsimp only [Function.comp]
  split <;> rfl

/-- A core that stops: the programs stay, and of the invocations what changes is who has reported. -/
theorem State.stopCore_tables (s : State) (c : Nat) : (s.stopCore c).hub.programs = s.hub.programs ∧
    (s.stopCore c).hub.invs.map Invocation.prog = s.hub.invs.map Invocation.prog := by
  have settled : ∀ s : State, (s.settle c).hub.programs = s.hub.programs ∧
      (s.settle c).hub.invs.map Invocation.prog = s.hub.invs.map Invocation.prog := by
    intro s
    unfold State.settle
    dsimp only
    split
    · split
      · split
        · exact ⟨rfl, Hub.invs_coreReports _ _ _ _⟩
        · exact ⟨rfl, rfl⟩
      · split <;> exact ⟨rfl, rfl⟩
    · exact ⟨rfl, rfl⟩
  unfold State.stopCore
  split
  · exact ⟨rfl, rfl⟩
  · exact settled _

theorem State.programs_stopCores (cs : List Nat) (s : State) : (cs.foldl State.stopCore s).hub.programs = s.hub.programs :=
  foldl_view (view := fun s : State => s.hub.programs) (fun s c => (s.stopCore_tables c).1) cs s

theorem State.invs_stopCores (cs : List Nat) (s : State) :
    (cs.foldl State.stopCore s).hub.invs.map Invocation.prog = s.hub.invs.map Invocation.prog :=
  foldl_view (view := fun s : State => s.hub.invs.map Invocation.prog) (fun s c => (s.stopCore_tables c).2) cs s

theorem State.programs_finishCmd (s : State) (o : OutCmd) (a : Answer) : (s.finishCmd o a).hub.programs = s.hub.programs := by
  obtain ⟨_, _, _, _, _, _, same⟩ := s.finishCmd_frame o a
  rw [same]

theorem State.finishProg_tables (s : State) (g : Program) (a : Answer) : (s.finishProg g a).hub.programs = s.hub.programs ∧
    (s.finishProg g a).cores = s.cores ∧ (s.finishProg g a).macros = s.macros := by
  unfold State.finishProg
  split
  · exact ⟨rfl, rfl, rfl⟩
  · obtain ⟨_, _, _, _, _, _, same⟩ := s.finishCmd_frame _ a
    rw [same]
    exact ⟨rfl, rfl, rfl⟩

theorem State.programs_endRequest (s : State) (n status : Nat) (detail : W32) (spec : Bool) :
    (s.endRequest n status detail spec).hub.programs = s.hub.programs := by
  unfold State.endRequest
  dsimp only
  split
  · rfl
  · obtain ⟨_, _, _, _, _, _, same⟩ := s.post_frame _
    rw [State.updHub_hub, same]
    rfl

theorem State.programs_endQueued (s : State) (n status : Nat) : (s.endQueued n status).hub.programs = s.hub.programs := by
  unfold State.endQueued
  refine foldl_view (view := fun s : State => s.hub.programs) (fun s x => ?_) _ s
  split
  · exact s.programs_finishCmd _ _
  · rfl

theorem State.programs_failHeld (s : State) (prog status : Nat) (detail : W32) : (s.failHeld prog status detail).hub.programs = s.hub.programs := by
  refine foldl_view (view := fun s : State => s.hub.programs) (fun s n => ?_) _ s
  rw [State.programs_endQueued]
  split
  · exact s.programs_endRequest _ _ _ _
  · rfl

theorem State.programs_releaseStream (s : State) (n : Nat) : (s.releaseStream n).hub.programs = s.hub.programs := by
  unfold State.releaseStream State.nextQueued
  dsimp only
  split
  · split <;> rfl
  · rfl

/-! ### The table of programs -/

theorem Hub.prog_congr {h h' : Hub} (same : h.programs = h'.programs) (n : Nat) : h.prog n = h'.prog n := congrArg (List.find? _) same

theorem Hub.handle_of_prog {g : Program} (found : h.prog n = some g) : g.handle = n := by
  have := List.find?_some found
  exact of_decide_eq_true this

/-- A program changed but for its handle is found as it now is. -/
theorem Hub.prog_updProg_self {f : Program → Program} (keeps : ∀ x, (f x).handle = x.handle) (h : Hub) (n : Nat) :
    (h.updProg n f).prog n = (h.prog n).map f := by
  show List.find? _ (List.map _ h.programs) = Option.map f (List.find? _ h.programs)
  induction h.programs with
  | nil => rfl
  | cons x xs ih =>
    by_cases here : x.handle = n
    · rw [List.map_cons, if_pos here, List.find?_cons_of_pos (by simp [keeps, here]), List.find?_cons_of_pos (by simp [here])]
      rfl
    · rw [List.map_cons, if_neg here, List.find?_cons_of_neg (by simp [here]), List.find?_cons_of_neg (by simp [here])]
      exact ih

/-- A program taken out of the table is found no longer. -/
theorem Hub.prog_filter_self (h : Hub) (n : Nat) :
    ({ h with programs := h.programs.filter fun x => decide (x.handle ≠ n) } : Hub).prog n = none := by
  refine List.find?_eq_none.2 fun x member => ?_
  have := (List.mem_filter.1 member).2
  simpa using this

theorem Hub.ring_of_nextCmdIf {o : OutCmd} {r : Nat} {opc : Byte} {p : HostCmd → Bool} (next : h.nextCmdIf r opc p = some o) : o.ring = r := by
  unfold Hub.nextCmdIf at next
  split at next
  · exact absurd next (by simp)
  · have := List.find?_some next
    simp only [Bool.and_eq_true, decide_eq_true_eq] at this
    obtain ⟨⟨⟨ring, -⟩, -⟩, -⟩ := this
    exact ring

/-- A stream that is IDLE or READY is HELD once every stream of a list it is in has been held. -/
theorem Hub.st_foldl_hold (ns : List Nat) (n : Nat) : ∀ h : Hub, (h.stream n).st = 4 ∨ (n ∈ ns ∧ ((h.stream n).st = 1 ∨ (h.stream n).st = 2)) →
    ((ns.foldl (fun h n => h.updStream n Stream.hold) h).stream n).st = 4 := by
  induction ns with
  | nil => exact fun _ either => either.elim id fun both => absurd both.1 List.not_mem_nil
  | cons m ns ih =>
    intro h either
    refine ih (h.updStream m Stream.hold) ?_
    by_cases here : n = m
    · subst here
      rw [Hub.stream_updStream_self]
      refine .inl ?_
      rcases either with held | ⟨-, open_⟩
      · unfold Stream.hold
        rw [if_neg (by omega), if_neg (by omega)]
        exact held
      · unfold Stream.hold
        rw [if_pos open_]
    · rw [Hub.stream_updStream_ne _ _ here]
      exact either.imp id fun both => ⟨(List.mem_cons.1 both.1).resolve_left here, both.2⟩

/-- The cores of a list without repeats changed one after the other. -/
theorem State.core_foldl_updCore (f : CoreState → CoreState) (cs : List Nat) (c : Nat) : ∀ s : State, cs.Nodup →
    ((cs.foldl (fun s c => s.updCore c f) s).core c) = if c ∈ cs then f (s.core c) else s.core c := by
  induction cs with
  | nil => exact fun _ _ => rfl
  | cons d cs ih =>
    intro s distinct
    obtain ⟨other, rest⟩ := List.nodup_cons.1 distinct
    rw [List.foldl_cons, ih _ rest]
    by_cases here : c = d
    · subst here
      rw [if_neg other, if_pos List.mem_cons_self, State.core_updCore_self]
    · rw [State.core_updCore_ne _ _ here]
      simp only [List.mem_cons, here, false_or]

/-! ### INSTALL (R198) -/

/-- An image taken in: one more program, being installed, over the binding found. -/
theorem State.install_effect (s : State) (o : OutCmd) (img : Image) (b : List Nat) :
    let g := newProgram s.hub o img b
    let t := (s.updHub fun h => { h.take o.id with programs := h.programs ++ [g], nextProg := h.nextProg + 1 }).loadImage img b g.part g.handle
    t.hub.nextProg = s.hub.nextProg + 1 ∧ g ∈ t.hub.programs := by
  intro g t
  obtain ⟨bars, hub⟩ := State.hub_loadImage (s.updHub fun h => { h.take o.id with programs := h.programs ++ [g], nextProg := h.nextProg + 1 })
    img b g.part g.handle
  rw [hub, State.updHub_hub]
  exact ⟨rfl, List.mem_append_right _ List.mem_cons_self⟩

/-! ### INSTALL_COMPLETE (R198, R199) -/

/-- The end of an install whose macros all arm: the program is READY, and its macros stay ARMED. -/
theorem State.installed_effect {g x : Program} {prog : Nat} (found : s.hub.prog prog = some x) (armed : (s.armImage img b).2 = true) (a : Answer) :
    let t := ((s.armImage img b).1.updHub fun h => h.updProg prog fun x => { x with st := .ready }).finishProg g a
    (∀ m ∈ s.boundMacros img b, (t.mac m.1 m.2).st = .armed) ∧ t.hub.prog prog = some { x with st := .ready } := by
  intro t
  obtain ⟨programs, -, macros⟩ := ((s.armImage img b).1.updHub fun h => h.updProg prog fun x => { x with st := .ready }).finishProg_tables g a
  constructor
  · intro m member
    have each := of_decide_eq_true (List.all_eq_true.1 armed m member)
    have same : t.mac m.1 m.2 = (s.armImage img b).1.mac m.1 m.2 := congrArg (fun ms => Sparse.get ms (MacroState.reset m.2) (macKey m.1 m.2)) macros
    rw [same]
    exact each
  · rw [Hub.prog_congr programs, State.updHub_hub, Hub.prog_updProg_self, Hub.prog_congr (congrArg Hub.programs (s.hub_armImage img b)), found]
    · rfl
    · exact fun _ => rfl

/-- A full replacement's first part leaves the table of programs. -/
theorem State.programs_unloaded (s : State) (cs : List Nat) (img : Image) (b : List Nat) (handle : Nat) :
    ((cs.foldl State.stopCore s).unloadImage img b handle).hub.programs = s.hub.programs := by
  obtain ⟨bars, hub⟩ := (cs.foldl State.stopCore s).hub_unloadImage img b handle
  rw [hub]
  exact State.programs_stopCores cs s

/-- A full replacement that fails leaves its program HELD without cores. -/
theorem State.prog_failReplace {g x : Program} (found : s.hub.prog g.handle = some x) (status : Nat) (detail : W32) :
    (s.failReplace g status detail).hub.prog g.handle = some { x with st := .held, lcores := [], newImg := none } := by
  unfold State.failReplace
  rw [Hub.prog_congr (State.finishProg_tables _ _ _).1, Hub.prog_congr (State.programs_failHeld _ _ _ _), State.updHub_hub,
    Hub.prog_updProg_self, found]
  · rfl
  · exact fun _ => rfl

/-- A full replacement under way, its cores stopped and its macros OFFLINE (R199). -/
def State.unloaded (s : State) (g : Program) : State := (g.lcores.foldl State.stopCore s).unloadImage g.img g.lcores g.handle

/-- A full replacement over a binding: with every macro ARMED the program is READY with the new image there, else HELD without cores. -/
theorem State.replaceFull_of_bound {g : Program} {ok : Bool} (found : s.hub.prog g.handle = some g)
    (bound : (s.unloaded g).overOneRuntime (bindCores img) ((s.unloaded g).freeCores g.part (some g.handle)) = some b) :
    (ok = true → (((s.unloaded g).loadImage img b g.part g.handle).armImage img b).2 = true →
      ∃ x, (s.replaceFull g img ok).hub.prog g.handle = some x ∧ x.st = .ready ∧ x.img = img ∧ x.lcores = b ∧ x.newImg = none) ∧
    (ok = false ∨ (((s.unloaded g).loadImage img b g.part g.handle).armImage img b).2 = false →
      ∃ x, (s.replaceFull g img ok).hub.prog g.handle = some x ∧ x.st = .held ∧ x.lcores = [] ∧ x.newImg = none) := by
  obtain ⟨bars, loaded⟩ := (s.unloaded g).hub_loadImage img b g.part g.handle
  have programs : (((s.unloaded g).loadImage img b g.part g.handle).armImage img b).1.hub.programs = s.hub.programs := by
    rw [State.hub_armImage, loaded]
    exact s.programs_unloaded g.lcores g.img g.lcores g.handle
  unfold State.replaceFull
  dsimp only
  rw [show (g.lcores.foldl State.stopCore s).unloadImage g.img g.lcores g.handle = s.unloaded g from rfl, bound]
  dsimp only
  constructor
  · intro done armed
    rw [if_pos ⟨done, armed⟩]
    refine ⟨{ g with st := .ready, img := img, lcores := b, newImg := none, bank := false, slots := imgSlots img, shadows := imgPairs img }, ?_,
      rfl, rfl, rfl, rfl⟩
    rw [Hub.prog_congr (State.finishProg_tables _ _ _).1,
      Hub.prog_congr (foldl_view (view := fun s : State => s.hub.programs) State.programs_releaseStream _ _), State.updHub_hub,
      Hub.prog_updProg_self, Hub.prog_congr programs, found]
    · rfl
    · exact fun _ => rfl
  · intro failed
    rw [if_neg (by rintro ⟨done, armed⟩; rcases failed with no | no <;> simp [no] at done armed)]
    refine ⟨_, State.prog_failReplace (x := g) ?_ _ _, rfl, rfl, rfl⟩
    obtain ⟨bars, unloaded⟩ := (((s.unloaded g).loadImage img b g.part g.handle).armImage img b).1.hub_unloadImage img b g.handle
    rw [unloaded]
    exact (Hub.prog_congr programs _).trans found

theorem State.replaceFull_of_unbound {g : Program} {ok : Bool} (found : s.hub.prog g.handle = some g)
    (unbound : (s.unloaded g).overOneRuntime (bindCores img) ((s.unloaded g).freeCores g.part (some g.handle)) = none) :
    ∃ x, (s.replaceFull g img ok).hub.prog g.handle = some x ∧ x.st = .held ∧ x.lcores = [] ∧ x.newImg = none := by
  unfold State.replaceFull
  dsimp only
  rw [show ((g.lcores.foldl State.stopCore s).unloadImage g.img g.lcores g.handle) = s.unloaded g from rfl, unbound]
  have still := (Hub.prog_congr (s.programs_unloaded g.lcores g.img g.lcores g.handle) _).trans found
  exact ⟨_, State.prog_failReplace (x := g) still _ _, rfl, rfl, rfl⟩

/-! ### UNINSTALL (R207) -/

/-- A removed program is in the table no longer, and no invocation runs it. -/
theorem State.removeProgram_effect (s : State) (g : Program) :
    (s.removeProgram g).hub.prog g.handle = none ∧ ∀ v ∈ (s.removeProgram g).hub.invs, v.prog ≠ g.handle := by
  refine ⟨Hub.prog_filter_self _ _, ?_⟩
  intro v member
  obtain ⟨bars, unloaded⟩ := (g.lcores.foldl State.stopCore (((s.hub.openStreams fun x => x.prog = g.handle).foldl (fun s n => s.dropStream n 8)
    s).updHub fun h => { h with invs := h.invs.filter fun v => decide (v.prog ≠ g.handle) })).hub_unloadImage g.img g.lcores g.handle
  have stays : (s.removeProgram g).hub.invs.map Invocation.prog =
      (((s.hub.openStreams fun x => x.prog = g.handle).foldl (fun s n => s.dropStream n 8) s).hub.invs.filter
        fun v => decide (v.prog ≠ g.handle)).map Invocation.prog := by
    refine (congrArg (fun h : Hub => h.invs.map Invocation.prog) unloaded).trans ?_
    exact State.invs_stopCores g.lcores _
  have runs := List.mem_map_of_mem (f := Invocation.prog) member
  rw [stays] at runs
  obtain ⟨w, among, same⟩ := List.mem_map.1 runs
  rw [← same]
  exact of_decide_eq_true (List.mem_filter.1 among).2

/-- A command answered stays outstanding only where its completion waits. -/
theorem State.taken_finishCmd (s : State) (o : OutCmd) (a : Answer) : ∀ x ∈ (s.finishCmd o a).hub.cmds, x.id = o.id → x.taken = true := by
  intro x member same
  unfold State.finishCmd State.post at member
  split at member
  · have cmds : (s.postNow { ring := o.ring, tag := o.cmd.tag, fin := some o.id, spec := false, ans := a }).hub.cmds =
        s.hub.cmds.filter fun x => decide (some x.id ≠ some o.id) := by
      unfold State.postNow
      dsimp only
      split <;> rfl
    rw [cmds] at member
    have other := of_decide_eq_true (List.mem_filter.1 member).2
    exact absurd (congrArg some same) other
  · obtain ⟨y, -, is⟩ := List.mem_map.1 member
    rw [← is] at same ⊢
    split at same
    · next here => rw [if_pos here]
    · next other => exact absurd (congrArg some same) other

/-! ### Replacements (R199) -/

/-- A replacement of a program: the image at the command's offset is checked, over the program's own binding when it is a code replacement. -/
theorem exec_installReplace_of_sound {r : Fin 64} {recs : Listed} {o : OutCmd} {g : Program} {code : Bool}
    (next : s.hub.nextCmdIf r 0x01 (fun c => cmdN c 0x14 1 = 1) = some o)
    (found : s.hub.progIn (s.hub.ringPart r) (cmdN o.cmd 0x18 8) = some g) (pool : s.hub.poolOk 2 o.cmd.tenant.toNat = true)
    (image : s.imageAt (s.hub.ringPart r) (cmdN o.cmd 8 8) recs = img)
    (kind : (sameSections g.img img && !s.manifestGone (s.hub.ringPart r)) = code)
    (sound : s.verify (s.hub.ringPart r) o.cmd.tenant.toNat (cmdN o.cmd 8 8) (cmdN o.cmd 0x10 4) img (some g.handle)
      (if code then some g.lcores else none) = .ok b) :
    exec (.installReplace r recs) s = .next (
      if code then (((s.updHub fun h => h.take o.id).loadInactive g img).updHub fun h => h.updProg g.handle fun x =>
        { x with st := .codeReplacing, newImg := some img, cmdId := o.id })
      else (((s.updHub fun h => h.take o.id).updHub fun h => h.updProg g.handle fun x =>
        { x with st := .fullReplacing, newImg := some img, cmdId := o.id }).updHub fun h =>
          (h.openStreams fun x => x.prog = g.handle).foldl (fun h n => h.updStream n Stream.hold) h)) := by
  show execInstallReplace r recs s = _
  unfold execInstallReplace
  dsimp only
  rw [next]
  dsimp only
  rw [found]
  dsimp only
  rw [if_neg (by rw [pool]; decide), image, kind, sound]

theorem Hub.prog_of_progIn {g : Program} {p m : Nat} (found : h.progIn p m = some g) : h.prog g.handle = some g := by
  obtain ⟨named, -⟩ := Option.filter_eq_some_iff.1 found
  rw [Hub.handle_of_prog named]
  exact named

/-- A code replacement that waits: its program keeps its image and cores. -/
theorem State.prog_codeReplacing {o : OutCmd} {g : Program} (found : s.hub.prog g.handle = some g) :
    ((((s.updHub fun h => h.take o.id).loadInactive g img).updHub fun h => h.updProg g.handle fun x =>
      { x with st := .codeReplacing, newImg := some img, cmdId := o.id }).hub.prog g.handle) =
      some { g with st := .codeReplacing, newImg := some img, cmdId := o.id } := by
  rw [State.updHub_hub, Hub.prog_updProg_self, State.hub_loadInactive]
  · exact (congrArg _ found).trans rfl
  · exact fun _ => rfl

/-- A full replacement that waits: its program keeps its image and cores. -/
theorem State.prog_fullReplacing {o : OutCmd} {g : Program} (found : s.hub.prog g.handle = some g) :
    ((((s.updHub fun h => h.take o.id).updHub fun h => h.updProg g.handle fun x =>
        { x with st := .fullReplacing, newImg := some img, cmdId := o.id }).updHub fun h =>
          (h.openStreams fun x => x.prog = g.handle).foldl (fun h n => h.updStream n Stream.hold) h).hub.prog g.handle) =
      some { g with st := .fullReplacing, newImg := some img, cmdId := o.id } := by
  rw [State.updHub_hub, Hub.prog_congr (foldl_view (view := Hub.programs) (by intro h n; rfl) _ _), State.updHub_hub, Hub.prog_updProg_self]
  · exact (congrArg _ found).trans rfl
  · exact fun _ => rfl

/-- The switch of a code replacement: every core's active bank changes, and the program is READY with the new image. -/
def State.switched (s : State) (g : Program) (i : Image) : State :=
  ((g.lcores.foldl (fun s c => s.updCore c fun k => { k with bank := !k.bank }) s).updHub fun h => h.updProg g.handle fun x =>
    { x with st := .ready, img := i, newImg := none, bank := !x.bank, slots := imgSlots i, shadows := imgPairs i }).finishProg g
    { Answer.of 0 with result := BitVec.ofNat 64 g.handle }

theorem exec_codeBankSwitch_of_idle {g : Program} (found : s.hub.prog g.handle = some g) (new : g.newImg = some img)
    (st : g.st = .codeReplacing) (idle : s.hub.runs g.handle = false) : exec (.codeBankSwitch g.handle) s = .next (s.switched g img) := by
  show execCodeBankSwitch g.handle s = _
  unfold execCodeBankSwitch
  rw [found]
  dsimp only
  rw [new]
  dsimp only
  rw [if_neg (by rw [st, idle]; decide)]
  rfl

theorem State.prog_switched {g : Program} (found : s.hub.prog g.handle = some g) (i : Image) : (s.switched g i).hub.prog g.handle =
    some { g with st := .ready, img := i, newImg := none, bank := !g.bank, slots := imgSlots i, shadows := imgPairs i } := by
  unfold State.switched
  rw [Hub.prog_congr (State.finishProg_tables _ _ _).1, State.updHub_hub, Hub.prog_updProg_self,
    Hub.prog_congr (foldl_view (view := fun s : State => s.hub.programs) (by intro s c; rfl) _ _), found]
  · rfl
  · exact fun _ => rfl

theorem State.core_switched {g : Program} (distinct : g.lcores.Nodup) (i : Image) (c : Nat) : (s.switched g i).core c =
    if c ∈ g.lcores then { s.core c with bank := !(s.core c).bank } else s.core c :=
  (congrArg (fun cs => Sparse.get cs CoreState.reset c) (State.finishProg_tables _ _ _).2.1).trans
    (State.core_foldl_updCore (fun k => { k with bank := !k.bank }) g.lcores c s distinct)

end

/-- Settles O35: each command by the branch its checks name, each end over tables that loading leaves as they are. -/
theorem programInstallation : Obligations.ProgramInstallation := by
  unfold Obligations.ProgramInstallation
  intro s r recs h p
  refine ⟨fun o next => ?install, fun prog g found st => ?complete, fun prog g i ok found st new => ?full, fun o g next found pool => ?replace,
    fun prog g i found new st idle distinct => ?switch, fun prog runs code => ?waits, fun o g next found pool idle => ?uninstall⟩
  case install =>
    intro img
    have ran : exec (.install r recs) s = execInstall r recs s := rfl
    have from_ : o.ring = r := Hub.ring_of_nextCmdIf next
    refine ⟨fun pool => ⟨fun b sound => ?_, fun e bad => ?_⟩, fun full => ?_⟩
    · obtain ⟨count, member⟩ := s.install_effect o img b
      refine ⟨_, ?_, count, _, member, rfl, rfl, rfl, rfl, congrArg h.ringPart from_⟩
      rw [ran]
      unfold execInstall
      dsimp only
      rw [next]
      dsimp only
      rw [if_neg (by rw [pool]; decide), sound]
    · rw [ran]
      unfold execInstall
      dsimp only
      rw [next]
      dsimp only
      rw [if_neg (by rw [pool]; decide), bad]
    · rw [ran]
      unfold execInstall
      dsimp only
      rw [next]
      dsimp only
      rw [if_pos full]
  case complete =>
    have ran (ok : Bool) : exec (.installComplete prog ok) s = execInstallComplete prog ok s := rfl
    constructor
    · intro armed
      obtain ⟨macros, ready⟩ := State.installed_effect (g := g) found armed { Answer.of 0 with result := BitVec.ofNat 64 prog }
      refine ⟨_, ?_, macros, _, ready, rfl⟩
      rw [ran]
      unfold execInstallComplete
      rw [found]
      dsimp only
      rw [st]
      dsimp only
      rw [if_pos ⟨rfl, armed⟩]
    · intro ok failed
      rw [ran]
      unfold execInstallComplete
      rw [found]
      dsimp only
      rw [st]
      dsimp only
      rw [if_neg (by rintro ⟨done, armed⟩; rcases failed with no | no <;> simp [no] at done armed)]
      refine ⟨_, rfl, ?_⟩
      rw [Hub.prog_congr (State.finishProg_tables _ _ _).1]
      exact Hub.prog_filter_self _ _
  case full =>
    have handle : g.handle = prog := Hub.handle_of_prog found
    have ran : exec (.installComplete prog ok) s = .next (if h.runs prog = true then s else s.replaceFull g i ok) := by
      show execInstallComplete prog ok s = _
      unfold execInstallComplete
      rw [found]
      dsimp only
      rw [st]
      dsimp only
      rw [new]
    subst handle
    refine ⟨fun runs => by rw [ran, if_pos runs], fun idle => ?_⟩
    rw [ran, if_neg (by rw [idle]; decide)]
    refine ⟨fun b bound => ?_, fun unbound => ?_⟩
    · obtain ⟨done, failed⟩ := State.replaceFull_of_bound (ok := ok) found bound
      refine ⟨fun yes armed => ?_, fun no => ?_⟩
      · obtain ⟨x, at_, rest⟩ := done yes armed
        exact ⟨_, x, rfl, at_, rest⟩
      · obtain ⟨x, at_, rest⟩ := failed no
        exact ⟨_, x, rfl, at_, rest⟩
    · obtain ⟨x, at_, rest⟩ := State.replaceFull_of_unbound (ok := ok) found unbound
      exact ⟨_, x, rfl, at_, rest⟩
  case replace =>
    intro img
    have installed : s.hub.prog g.handle = some g := Hub.prog_of_progIn found
    refine ⟨fun b same kept sound => ?_, fun b other sound => ?_⟩
    · have kind : (sameSections g.img img && !s.manifestGone (s.hub.ringPart r)) = true := by
        rw [same, show s.manifestGone (s.hub.ringPart r) = false from kept]
        rfl
      have streams : ((s.updHub fun h => h.take o.id).loadInactive g img).hub.streams = h.streams := by
        rw [State.hub_loadInactive]
        rfl
      exact ⟨_, _, exec_installReplace_of_sound (code := true) next found pool rfl kind sound, State.prog_codeReplacing installed, rfl, rfl, rfl, rfl,
        rfl, streams, State.bank_loadInactive _ _ _⟩
    · have kind : (sameSections g.img img && !s.manifestGone (s.hub.ringPart r)) = false := by
        rcases other with no | no
        · rw [no]; rfl
        · rw [show s.manifestGone (s.hub.ringPart r) = true from no]; exact Bool.and_false _
      refine ⟨_, _, exec_installReplace_of_sound (code := false) next found pool rfl kind sound, State.prog_fullReplacing installed, rfl, rfl, rfl, rfl,
        fun n prog open_ => ?_⟩
      refine Hub.st_foldl_hold _ n _ (.inr ⟨Hub.mem_openStreams ?_ ?_, open_⟩)
      · show (h.stream n).st ≠ 0
        omega
      · exact decide_eq_true prog
  case switch =>
    obtain rfl : g.handle = prog := Hub.handle_of_prog found
    exact ⟨_, _, exec_codeBankSwitch_of_idle found new st idle, State.prog_switched found i, rfl, rfl, rfl,
      fun c member => (State.core_switched distinct i c).trans (if_pos member),
      fun c other => (State.core_switched distinct i c).trans (if_neg other)⟩
  case waits =>
    show execCodeBankSwitch prog s = _
    unfold execCodeBankSwitch
    split
    · rfl
    · split
      · rfl
      · rw [if_pos (.inr runs)]
  case uninstall =>
    obtain ⟨gone, ended⟩ := s.removeProgram_effect g
    obtain ⟨_, _, _, _, _, _, same⟩ := (s.removeProgram g).finishCmd_frame o (Answer.of 0)
    refine ⟨(s.removeProgram g).finishCmd o (Answer.of 0), ?_, ?_, State.taken_finishCmd _ _ _, ?_⟩
    · show execUninstall r s = _
      unfold execUninstall
      rw [next]
      dsimp only
      rw [found]
      dsimp only
      rw [if_neg (by rw [pool]; decide), if_neg (by rw [idle]; decide)]
    · exact (Hub.prog_congr (State.programs_finishCmd _ _ _) _).trans gone
    · rw [same]
      exact ended

end Sys2Proof.Machine

/-! PROOFS. Epochs, dispatch and the end of an invocation (R211 to R215, R220, Table 9.10). -/

namespace Sys2Proof.Machine

section

variable {s : State} {h : Hub} {n c : Nat} {v : Invocation}

/-! ### What scheduling leaves of the epoch (R211) -/

/-- The hub's account of the epoch: its number, its budget and grant, and the pools' demand. -/
def Hub.clock (h : Hub) : Nat × Nat × Option Nat × List (Nat × Nat) × List (Nat × Nat) := (h.epoch, h.budget, h.granted, h.poolPrev, h.poolAsk)

@[simp] theorem Hub.clock_updStream (h : Hub) (n : Nat) (f : Stream → Stream) : (h.updStream n f).clock = h.clock := rfl
@[simp] theorem Hub.clock_updTenant (h : Hub) (n : Nat) (f : Tenant → Tenant) : (h.updTenant n f).clock = h.clock := rfl
@[simp] theorem Hub.clock_updProg (h : Hub) (n : Nat) (f : Program → Program) : (h.updProg n f).clock = h.clock := rfl
@[simp] theorem Hub.clock_credit (h : Hub) (n : Nat) (v : Int) : (h.credit n v).clock = h.clock := rfl

@[simp] theorem Hub.clock_chargeAll (h : Hub) (neg : Bool) (total : Nat) (ns : List Nat) : (h.chargeAll neg total ns).clock = h.clock :=
  foldl_view (view := Hub.clock) (by intro h p; rfl) _ _

@[simp] theorem Hub.clock_setLate (h : Hub) (n : Nat) : (h.setLate n).clock = h.clock := by
  unfold Hub.setLate
  split <;> rfl

@[simp] theorem Hub.clock_noteMissed (h : Hub) (p bp : Nat) : (h.noteMissed p bp).clock = h.clock := by
  unfold Hub.noteMissed
  split
  · exact foldl_view (view := Hub.clock) (by intro h n; rfl) _ _
  · rfl

@[simp] theorem State.clock_journal (s : State) (code : Byte) (part sk si : Nat) (tag : BitVec 16) (st addr : W32) (d : W64) :
    (s.journal code part sk si tag st addr d).hub.clock = s.hub.clock := by
  rw [State.hub_journal]
  rfl

theorem State.clock_grantTok (s : State) (c ch n : Nat) : (s.grantTok c ch n).hub.clock = s.hub.clock := by
  unfold State.grantTok
  dsimp only
  split
  · rfl
  · rw [State.clock_journal]
    rfl

theorem State.hub_padCore (s : State) (g : Program) (p : Pad) (l n size : Nat) : (s.padCore g p l n size).hub = s.hub := by
  have padded : ∀ s : State, (match imgHinit g.img l p.handle.toNat with
      | none => s
      | some h => ((List.range size).filter fun i => n ≤ i).foldl (fun s i =>
          s.padWrite g.lcores h (p.offset + i * p.stride) (fillElem (2 ^ p.elog) p.value.toNat)) s).hub = s.hub := by
    intro s
    split
    · rfl
    · exact foldl_view (view := State.hub) (by intro s i; rfl) _ _
  unfold State.padCore
  dsimp only
  split
  · split
    · exact padded s
    · exact (foldl_view (view := State.hub) (by intro s i; rfl) _ _).trans (padded s)
  · exact padded s

theorem State.hub_writePads (s : State) (g : Program) (c : Nat × Nat) (n0 n1 : Nat) : (s.writePads g c n0 n1).hub = s.hub := by
  unfold State.writePads
  exact foldl_view (view := State.hub) (fun s p => foldl_view (view := State.hub) (fun s l => s.hub_padCore _ _ _ _ _) _ s) _ s

theorem State.hub_writeBatch (s : State) (c slots seq : Nat) (bat : List Nat) : (s.writeBatch c slots seq bat).hub = s.hub := by
  unfold State.writeBatch
  dsimp only
  split <;> rfl

theorem State.clock_dispatch (s : State) (g : Program) (bat : List Nat) (pair : Nat × Nat) (e : Nat) :
    (s.dispatch g bat pair e).hub.clock = s.hub.clock := by
  unfold State.dispatch
  dsimp only
  rw [State.updHub_hub, Hub.clock_chargeAll, Hub.clock_updProg]
  refine (foldl_view (view := Hub.clock) (by intro h n; rfl) bat _).trans ?_
  refine (foldl_view (view := fun s : State => s.hub.clock) (by intro s l; rfl) _ _).trans ?_
  rw [foldl_view (view := fun s : State => s.hub.clock) fun s c => s.clock_grantTok _ _ _,
    foldl_view (view := fun s : State => s.hub.clock) fun s c => congrArg Hub.clock (s.hub_writeBatch _ _ _ _), State.hub_writePads]

theorem State.clock_tryReplica (p : Pass) (a : State × Nat) (g : Program) : (State.tryReplica p a g).1.hub.clock = a.1.hub.clock := by
  unfold State.tryReplica
  dsimp only
  split
  · rfl
  · split
    · rfl
    · split
      · rfl
      · split
        · split
          · rw [State.clock_journal, State.updHub_hub]
            exact foldl_view (view := Hub.clock) Hub.clock_setLate _ _
          · rfl
        · exact State.clock_dispatch _ _ _ _ _

theorem State.clock_runPass (s : State) (part rem : Nat) (p : Pass) : (s.runPass part rem p).1.hub.clock = s.hub.clock :=
  foldl_view (view := fun a : State × Nat => a.1.hub.clock) (State.clock_tryReplica p) _ _

theorem State.clock_quanta (s : State) (p bp : Nat) : (s.quanta p bp).hub.clock = s.hub.clock := by
  have first : ∀ (s : State) (ts : List Nat) (sw : Nat), (s.updHub fun h => ts.foldl (fun h t => if sw = 0 then h else
      h.credit t (bp * s.mgmt.weight t / sw : Nat)) h).hub.clock = s.hub.clock := by
    intro s ts sw
    refine foldl_view (view := Hub.clock) (fun h t => ?_) _ _
    split <;> rfl
  have second : ∀ (s : State) (ts us : List Nat), (s.updHub fun h => us.foldl (fun h t =>
      if t ∈ ts then h else h.updTenant t fun x => { x with deficit := min x.deficit 0 }) h).hub.clock = s.hub.clock := by
    intro s ts us
    refine foldl_view (view := Hub.clock) (fun h t => ?_) _ _
    split <;> rfl
  unfold State.quanta
  dsimp only
  split
  · exact (second _ _ _).trans (first _ _ _)
  · split
    · exact (foldl_view (view := Hub.clock) (by intro h t; rfl) _ _).trans ((second _ _ _).trans (first _ _ _))
    · exact (second _ _ _).trans (first _ _ _)

theorem Hub.clock_age (h : Hub) (ns : List Nat) :
    (ns.foldl (fun h n => h.updStream n fun x => { x with age := min 65535 (x.age + 1) }) h).clock = h.clock :=
  foldl_view (view := Hub.clock) (by intro h n; rfl) _ _

theorem State.clock_updPower (s : State) (f : Power → Power) : (s.updPower f).hub.clock = s.hub.clock := rfl

theorem State.clock_schedulePart (s : State) (p bp : Nat) : (s.schedulePart p bp).hub.clock = s.hub.clock := by
  unfold State.schedulePart
  dsimp only
  rw [State.updHub_hub, Hub.clock_age]
  split
  · simp only [State.clock_updPower, State.clock_runPass, State.updHub_hub, Hub.clock_noteMissed, State.clock_quanta]
  · simp only [State.clock_runPass, State.updHub_hub, Hub.clock_noteMissed, State.clock_quanta]

theorem State.clock_ownWrites (old new : State) : (State.ownWrites old new).hub.clock = new.hub.clock := by
  unfold State.ownWrites
  dsimp only
  have deny : ∀ (b : Prop) [Decidable b] (undo : Hub → Hub) (undone : ∀ h, (undo h).clock = h.clock) (s : State) (k : Nat) (w : W64),
      (if b then (s.updHub undo).journalDev 0xA0 2 k w else s).hub.clock = s.hub.clock := by
    intro b _ undo undone s k w
    split
    · rw [State.journalDev, State.clock_journal, State.updHub_hub, undone]
    · rfl
  refine (deny _ _ (by intro h; rfl) _ _ _).trans ?_
  refine (deny _ _ (by intro h; rfl) _ _ _).trans ?_
  refine (deny _ _ (by intro h; rfl) _ _ _).trans ?_
  exact deny _ _ (by intro h; rfl) _ _ _

/-- The state in which a boundary schedules: shares applied, the epoch counted, its budget taken (R211, R220). -/
def State.opened (s : State) : State :=
  (s.updPower fun p => { p with lastIn := p.epochIn, lastCore := p.epochCore, epochIn := 0, epochCore := 0 }).updHub fun h =>
    { h.applyShares with epoch := h.epoch + 1, poolPrev := h.poolAsk, poolAsk := [], budget := h.granted.getD h.budget, granted := none }

/-- The budgets of an epoch given to its partitions one after the other. -/
def State.scheduled (s : State) : State :=
  let ps := (List.range 16).filter fun p => !(s.hub.readyIn p).isEmpty
  let b := budgetsOf s.hub s.hub.budget ps
  let s2 := if b.2 then s.journalBare 0xA1 2 0 else s
  let s3 := ((List.range 16).filter fun p => !(ps.contains p)).foldl (fun s p => s.quanta p 0) s2
  s.ownWrites (b.1.foldl (fun s p => s.schedulePart p.1 p.2) s3)

theorem exec_epochBoundary (s : State) : exec .epochBoundary s =
    .next (if s.opened.hub.admitting = false ∨ s.opened.hub.paused then s.opened else s.opened.scheduled) := by
  show execEpochBoundary s = _
  unfold execEpochBoundary State.opened State.scheduled
  rfl

theorem State.clock_scheduled (s : State) : s.scheduled.hub.clock = s.hub.clock := by
  unfold State.scheduled
  dsimp only
  rw [State.clock_ownWrites, foldl_view (view := fun s : State => s.hub.clock) fun s p => s.clock_schedulePart _ _,
    foldl_view (view := fun s : State => s.hub.clock) fun s p => s.clock_quanta _ _]
  split
  · rw [State.journalBare, State.journalDev, State.clock_journal]
  · rfl

/-- Shares applied at a boundary leave the invocations and whether the hub admits work. -/
theorem Hub.applyShares_frame (h : Hub) : h.applyShares.invs = h.invs ∧ h.applyShares.admitting = h.admitting ∧ h.applyShares.paused = h.paused := by
  unfold Hub.applyShares
  generalize List.range 16 = ps
  have kept := foldl_view (view := fun h : Hub => (h.invs, h.admitting, h.paused)) (f := fun h p => match (h.part p).pendShare with
    | some (a, b, c) => h.setPart p { h.part p with pshare := a, pmin := b, kxshare := c, cgen := (h.part p).cgen + 1, pendShare := none }
    | none => h) (by intro h p; dsimp only; split <;> rfl) ps h
  exact ⟨congrArg Prod.fst kept, congrArg (fun x => x.2.1) kept, congrArg (fun x => x.2.2) kept⟩

theorem State.clock_opened (s : State) :
    s.opened.hub.clock = (s.hub.epoch + 1, s.hub.granted.getD s.hub.budget, none, s.hub.poolAsk, []) := by
  unfold State.opened
  rfl

theorem State.opened_frame (s : State) : s.opened.hub.invs = s.hub.invs ∧ s.opened.cores = s.cores ∧ s.opened.macros = s.macros ∧
    s.opened.hub.admitting = s.hub.admitting ∧ s.opened.hub.paused = s.hub.paused := by
  obtain ⟨same, admitting, paused⟩ := s.hub.applyShares_frame
  refine ⟨?_, ?_, ?_, ?_, ?_⟩
  · unfold State.opened
    rw [State.updHub_hub, State.updPower_hub]
    dsimp only
    exact same
  · unfold State.opened
    rw [State.updHub_cores, State.updPower_cores]
  · unfold State.opened
    rw [State.updHub_macros, State.updPower_macros]
  · unfold State.opened
    rw [State.updHub_hub, State.updPower_hub]
    dsimp only
    exact admitting
  · unfold State.opened
    rw [State.updHub_hub, State.updPower_hub]
    dsimp only
    exact paused

/-- A boundary counts, uses the grant or the last budget, and begins the pools' epoch anew, whatever it dispatches. -/
theorem State.boundary_effect (s : State) :
    let t := if s.opened.hub.admitting = false ∨ s.opened.hub.paused = true then s.opened else s.opened.scheduled
    t.hub.epoch = s.hub.epoch + 1 ∧ t.hub.budget = s.hub.granted.getD s.hub.budget ∧ t.hub.granted = none ∧ t.hub.poolPrev = s.hub.poolAsk ∧
      t.hub.poolAsk = [] ∧
      (s.hub.admitting = false ∨ s.hub.paused = true → t.hub.invs = s.hub.invs ∧ t.cores = s.cores ∧ t.macros = s.macros) := by
  intro t
  have clock : t.hub.clock = (s.hub.epoch + 1, s.hub.granted.getD s.hub.budget, none, s.hub.poolAsk, []) := by
    rw [← s.clock_opened]
    rcases Classical.em (s.opened.hub.admitting = false ∨ s.opened.hub.paused = true) with stopped | goes
    · rw [show t = s.opened from if_pos stopped]
    · rw [show t = s.opened.scheduled from if_neg goes, State.clock_scheduled]
  simp only [Hub.clock, Prod.mk.injEq] at clock
  obtain ⟨epoch, budget, granted, prev, ask⟩ := clock
  obtain ⟨invs, cores, macros, admitting, paused⟩ := s.opened_frame
  refine ⟨epoch, budget, granted, prev, ask, fun closed => ?_⟩
  have same : t = s.opened := if_pos (closed.imp admitting.trans paused.trans)
  rw [same]
  exact ⟨invs, cores, macros⟩

/-! ### Step records (R215) -/

/-- A step record of the one core that waits for it, with steps left: one more token, and one more granted. -/
theorem exec_stepRecordReceived_of_more {c : CoreId} {rec : List Byte} (steps : s.hub.steps = [(c.val, rec)]) (invs : s.hub.invs = [v])
    (busy : c.val ∈ v.busy) (more : Sparse.get v.granted 0 c.val < v.nsteps) :
    ∃ t, exec (.stepRecordReceived c) s = .next t ∧ t.hub.steps = [] ∧ (t.core c).getTok 0 = min 255 ((s.core c).getTok 0 + 1) ∧
      ∃ v', t.hub.invs = [v'] ∧ Sparse.get v'.granted 0 c.val = Sparse.get v.granted 0 c.val + 1 := by
  have granted : ∀ (s : State) (c ch n : Nat), (s.grantTok c ch n).hub.steps = s.hub.steps ∧ (s.grantTok c ch n).hub.invs = s.hub.invs := by
    intro s c ch n
    unfold State.grantTok
    dsimp only
    split
    · exact ⟨rfl, rfl⟩
    · rw [State.hub_journal]
      exact ⟨rfl, rfl⟩
  show ∃ t, execStepRecordReceived c s = .next t ∧ _
  unfold execStepRecordReceived
  have found : (s.hub.steps.find? fun r => r.1 = c.val) = some (c.val, rec) := by simp [steps]
  have taken : (s.hub.steps.eraseP fun x => x.1 = c.val) = [] := by simp [steps]
  have runs : (s.hub.invs.find? fun v => decide (c.val ∈ v.busy)) = some v := by simp [invs, busy]
  rw [found]
  dsimp only
  rw [State.updHub_hub]
  dsimp only
  rw [runs]
  dsimp only
  rw [decide_eq_true more, if_pos rfl]
  obtain ⟨kept, same⟩ := granted ((s.updHub fun h => { h with steps := h.steps.eraseP fun x => x.1 = c.val }).updHub fun h =>
    { h with invs := h.invs.map fun x => if x.prog = v.prog then
      { x with spec := x.spec || (bit (hdrN rec 10 2) 11 || bit (hdrN rec 12 2) 13),
               granted := if true = true then Sparse.set x.granted 0 c.val (Sparse.get v.granted 0 c.val + 1) else x.granted } else x }) c 0 1
  obtain ⟨token, -⟩ := State.grantTok_effect ((s.updHub fun h => { h with steps := h.steps.eraseP fun x => x.1 = c.val }).updHub fun h =>
    { h with invs := h.invs.map fun x => if x.prog = v.prog then
      { x with spec := x.spec || (bit (hdrN rec 10 2) 11 || bit (hdrN rec 12 2) 13),
               granted := if true = true then Sparse.set x.granted 0 c.val (Sparse.get v.granted 0 c.val + 1) else x.granted } else x }) c 0 1
  refine ⟨_, rfl, kept.trans taken, token, ?_⟩
  rw [same, State.updHub_hub, State.updHub_hub]
  dsimp only
  rw [invs]
  refine ⟨_, rfl, ?_⟩
  dsimp only
  rw [if_pos rfl]
  show Sparse.get (Sparse.set v.granted 0 c.val (Sparse.get v.granted 0 c.val + 1)) 0 c.val = _
  exact Sparse.get_set_self _ _ _ _

/-! ### The end of an invocation (R214, Table 9.10) -/

theorem State.invs_post (s : State) (w : CqWait) : (s.post w).hub.invs = s.hub.invs := by
  obtain ⟨_, _, _, _, _, _, same⟩ := s.post_frame w
  rw [same]

theorem State.invs_endRequest (s : State) (n status : Nat) (detail : W32) (spec : Bool) :
    (s.endRequest n status detail spec).hub.invs = s.hub.invs := by
  unfold State.endRequest
  dsimp only
  split
  · rfl
  · exact State.invs_post _ _

/-- A request's end leaves its stream but for OUTSTANDING. -/
theorem State.stream_endRequest (s : State) (n status : Nat) (detail : W32) (spec : Bool) :
    (s.endRequest n status detail spec).hub.stream n = { s.hub.stream n with outstanding := false } :=
  (Hub.stream_congr (s.endRequest_tables n status detail spec).streams n).trans (Hub.stream_updStream_self _ _ _)

/-- A stream with nothing due and nothing queued stays as its invocation left it. -/
theorem State.afterInv_of_quiet (close : (s.hub.stream n).closeDue = false) (hold : (s.hub.stream n).holdDue = false)
    (queued : (s.hub.stream n).queued = []) : s.afterInv n = s := by
  unfold State.afterInv State.nextQueued
  dsimp only
  rw [close, hold, queued]
  rfl

/-- The energy of an invocation of one stream is that stream's. -/
theorem Hub.stream_settleEnergy (h : Hub) (streams : v.streams = [n]) (m : Nat) :
    (h.settleEnergy v m).stream n = { h.stream n with energy := (h.stream n).energy + (m : Int) } := by
  have charged : ∀ (h : Hub) neg total ns, (h.chargeAll neg total ns).streams = h.streams := fun h neg total ns =>
    foldl_view (view := Hub.streams) (by intro h p; rfl) _ _
  have shares : sharesOf m v.streams = [(n, m)] := by
    rw [streams]
    simp [sharesOf, Nat.mod_one]
  have settled : (h.settleEnergy v m).streams =
      (((h.chargeAll true v.est v.streams).chargeAll false m v.streams).updStream n fun x => { x with energy := x.energy + (m : Int) }).streams := by
    unfold Hub.settleEnergy
    dsimp only
    rw [shares]
    rfl
  rw [Hub.stream_congr settled, Hub.stream_updStream_self, Hub.stream_congr (charged _ _ _ _), Hub.stream_congr (charged _ _ _ _)]

/-- The first result of a request: REMAIN falls, the stream is READY again while results are left, else IDLE. -/
theorem State.streamResult_effect (first : (s.hub.stream n).results = 0) (stop : (s.hub.stream n).stopDue = false)
    (queued : (s.hub.stream n).queued = []) (close : (s.hub.stream n).closeDue = false) (hold : (s.hub.stream n).holdDue = false)
    (code : Nat) (spec : Bool) :
    let t := s.streamResult n code spec
    let y := s.hub.stream n
    t.hub.invs = s.hub.invs ∧ t.cores = s.cores ∧ (t.hub.stream n).results = 1 ∧ (t.hub.stream n).remain = y.remain - 1 ∧
      (t.hub.stream n).st = (if y.remain ≤ 1 then 1 else 2) ∧ (t.hub.stream n).energy = y.energy := by
  intro t y
  have gap : s.noteGap n = s := by
    unfold State.noteGap
    dsimp only
    rw [if_pos first]
  have counted : ((s.updHub fun h => h.updStream n fun x =>
      { x with remain := x.remain - 1, results := x.results + 1, missed := false, wasHeld := false }).hub.stream n) =
      { y with remain := y.remain - 1, results := y.results + 1, missed := false, wasHeld := false } := by
    rw [State.updHub_hub, Hub.stream_updStream_self]
  have one : y.results + 1 = 1 := by rw [first]
  have unfolded : t = (s.streamResult n code spec) := rfl
  unfold State.streamResult at unfolded
  dsimp only at unfolded
  rw [gap, counted] at unfolded
  dsimp only at unfolded
  rw [if_neg (by rw [stop]; decide)] at unfolded
  by_cases last : y.remain - 1 = 0
  · rw [if_pos last] at unfolded
    have ended := State.stream_endRequest ((s.updHub fun h => h.updStream n fun x =>
      { x with remain := x.remain - 1, results := x.results + 1, missed := false, wasHeld := false }).updHub fun h =>
        h.updStream n fun x => { x with st := 1 }) n 0 (BitVec.ofNat 32 code) spec
    rw [State.updHub_hub, Hub.stream_updStream_self, counted] at ended
    rw [State.afterInv_of_quiet (by rw [ended]; exact close) (by rw [ended]; exact hold) (by rw [ended]; exact queued)] at unfolded
    rw [unfolded, ended]
    exact ⟨State.invs_endRequest _ _ _ _ _, (State.endRequest_tables _ _ _ _ _).cores, one, rfl, (if_pos (by omega)).symm, rfl⟩
  · rw [if_neg last] at unfolded
    have again := Hub.stream_updStream_self (s.updHub fun h => h.updStream n fun x =>
      { x with remain := x.remain - 1, results := x.results + 1, missed := false, wasHeld := false }).hub n
      fun x => { x with st := 2, age := 0 }
    rw [counted] at again
    split at unfolded
    · have posted := fun w => (Hub.stream_congr (State.post_tables ((s.updHub fun h => h.updStream n fun x =>
        { x with remain := x.remain - 1, results := x.results + 1, missed := false, wasHeld := false }).updHub fun h =>
          h.updStream n fun x => { x with st := 2, age := 0 }) w).streams n).trans again
      rw [State.afterInv_of_quiet (by rw [posted]; exact close) (by rw [posted]; exact hold) (by rw [posted]; exact queued)] at unfolded
      rw [unfolded, posted]
      exact ⟨State.invs_post _ _, (State.post_tables _ _).cores, one, rfl, (if_neg (by omega)).symm, rfl⟩
    · rw [State.afterInv_of_quiet (by rw [State.updHub_hub, again]; exact close) (by rw [State.updHub_hub, again]; exact hold)
        (by rw [State.updHub_hub, again]; exact queued)] at unfolded
      rw [unfolded, State.updHub_hub, again]
      exact ⟨rfl, rfl, one, rfl, (if_neg (by omega)).symm, rfl⟩

/-- A faulted invocation's stream is IDLE with KV_LOST and nothing left of its request. -/
theorem State.streamFault_effect (queued : (s.hub.stream n).queued = []) (close : (s.hub.stream n).closeDue = false)
    (hold : (s.hub.stream n).holdDue = false) (code : Nat) (spec : Bool) :
    let t := s.streamFault n code spec
    t.hub.invs = s.hub.invs ∧ (t.hub.stream n).st = 1 ∧ (t.hub.stream n).kvLost = true ∧ (t.hub.stream n).remain = 0 := by
  intro t
  have ended := State.stream_endRequest (s.updHub fun h => h.updStream n fun x =>
    { x with st := 1, kvLost := true, stopDue := false, remain := 0 }) n 6 (BitVec.ofNat 32 code) spec
  rw [State.updHub_hub, Hub.stream_updStream_self] at ended
  have quiet : t = (s.updHub fun h => h.updStream n fun x => { x with st := 1, kvLost := true, stopDue := false, remain := 0 }).endRequest n 6
      (BitVec.ofNat 32 code) spec :=
    State.afterInv_of_quiet (by rw [ended]; exact close) (by rw [ended]; exact hold) (by rw [ended]; exact queued)
  rw [quiet, ended]
  exact ⟨State.invs_endRequest _ _ _ _ _, rfl, rfl, rfl⟩

theorem exec_invocationComplete_of_ended {prog : Nat} (invs : s.hub.invs = [v]) (named : v.prog = prog) (busy : v.busy = [])
    (kept : tablesKept s.hub) : exec (.invocationComplete prog) s = .next (s.endInvocation prog v) := by
  show execInvocationComplete prog s = _
  unfold execInvocationComplete
  have found : (s.hub.invs.find? fun v => v.prog = prog) = some v := by simp [invs, named]
  rw [found]
  dsimp only
  rw [if_neg (fun both => both.1 busy), State.ownWrites_of_kept kept]

/-- The state in which an ended invocation gives its results: its energy settled, itself gone. -/
def State.settledInv (s : State) (prog : Nat) (v : Invocation) : State :=
  s.updHub fun h => { h.settleEnergy v (s.measured v) with invs := h.invs.filter fun x => decide (x.prog ≠ prog) }

theorem State.settledInv_effect {prog : Nat} (invs : s.hub.invs = [v]) (named : v.prog = prog) (streams : v.streams = [n]) :
    (s.settledInv prog v).hub.invs = [] ∧ (s.settledInv prog v).cores = s.cores ∧
      (s.settledInv prog v).hub.stream n = { s.hub.stream n with energy := (s.hub.stream n).energy + (s.measured v : Int) } := by
  refine ⟨?_, rfl, s.hub.stream_settleEnergy streams _⟩
  show s.hub.invs.filter _ = []
  simp [invs, named]

theorem Hub.programs_settleEnergy (h : Hub) (v : Invocation) (m : Nat) : (h.settleEnergy v m).programs = h.programs := by
  have charged : ∀ (h : Hub) neg total ns, (h.chargeAll neg total ns).programs = h.programs := fun h neg total ns =>
    foldl_view (view := Hub.programs) (by intro h p; rfl) _ _
  unfold Hub.settleEnergy
  dsimp only
  rw [foldl_view (view := Hub.programs) (by intro h p; rfl), charged, charged]

end

/-- Settles O37: the boundary keeps the clock whatever it dispatches; an ended invocation gives one result or one fault. -/
theorem epochsAndInvocations : Obligations.EpochsAndInvocations := by
  unfold Obligations.EpochsAndInvocations
  refine ⟨fun s => ⟨_, rfl, rfl, rfl, rfl⟩, fun s => rfl, fun s => ?_, fun s c rec v steps invs busy more => ?_,
    fun s prog n v invs named busy streams kept queued close hold => ⟨fun sound stop first => ?_, fun f fault gone => ?_⟩⟩
  · exact ⟨_, exec_epochBoundary s, s.boundary_effect⟩
  · exact exec_stepRecordReceived_of_more steps invs busy more
  · obtain ⟨none_, cores, stream⟩ := State.settledInv_effect invs named streams
    have ran : s.endInvocation prog v = (s.settledInv prog v).streamResult n v.code v.spec := by
      unfold State.endInvocation
      dsimp only
      rw [sound, streams]
      rfl
    obtain ⟨invs', cores', results, remain, st, energy⟩ := State.streamResult_effect (s := s.settledInv prog v) (n := n) (by rw [stream]; exact first)
      (by rw [stream]; exact stop) (by rw [stream]; exact queued) (by rw [stream]; exact close) (by rw [stream]; exact hold) v.code v.spec
    rw [stream] at remain st energy
    exact ⟨_, (exec_invocationComplete_of_ended invs named busy kept).trans (congrArg _ ran), invs'.trans none_, results, remain, st, energy,
      cores'.trans cores⟩
  · obtain ⟨none_, -, stream⟩ := State.settledInv_effect invs named streams
    have absent : (s.settledInv prog v).hub.prog prog = none :=
      (Hub.prog_congr (h := (s.settledInv prog v).hub) (s.hub.programs_settleEnergy v _) prog).trans gone
    have ran : s.endInvocation prog v = ((s.settledInv prog v).updHub fun h => { h with barriers := h.barriers.map fun b =>
        if b.prog = prog then { b with arrived := [], left := [] } else b }).streamFault n f.toNat v.spec := by
      unfold State.endInvocation
      dsimp only
      rw [fault, streams]
      dsimp only
      rw [show (s.updHub fun h => { h.settleEnergy v (s.measured v) with invs := h.invs.filter fun x => decide (x.prog ≠ prog) }) =
        s.settledInv prog v from rfl, absent]
      rfl
    obtain ⟨invs', st, lost, remain⟩ := State.streamFault_effect (n := n) (s := (s.settledInv prog v).updHub fun h =>
      { h with barriers := h.barriers.map fun b => if b.prog = prog then { b with arrived := [], left := [] } else b })
      ((congrArg Stream.queued stream).trans queued) ((congrArg Stream.closeDue stream).trans close) ((congrArg Stream.holdDue stream).trans hold)
      f.toNat v.spec
    exact ⟨_, (exec_invocationComplete_of_ended invs named busy kept).trans (congrArg _ ran), invs'.trans none_, st, lost, remain⟩

end Sys2Proof.Machine

/-! PROOFS. Budgets of an epoch and the dispatch of a replica (R211, R212, R215). -/

namespace Sys2Proof.Machine

section

variable {s : State} {h : Hub} {c : Nat} {p : Pass} {g : Program} {rem : Nat}

/-! ### Budgets (R211) -/

/-- Parts rounded down come to no more than the whole. -/
theorem sum_map_mul_div_le (total d : Nat) (xs : List Nat) : (xs.map fun x => total * x / d).sum ≤ total * xs.sum / d := by
  induction xs with
  | nil => simp
  | cons x xs ih =>
    have joined := Nat.div_add_div_le_add_div (x := total * x) (y := total * xs.sum) (z := d)
    rw [List.map_cons, List.sum_cons, List.sum_cons, Nat.mul_add]
    omega

/-- A grant below the floors is shared out in their proportion. -/
theorem budgetsOf_of_short {total : Nat} {ps : List Nat} (short : total < (ps.map h.floor).sum) :
    budgetsOf h total ps = (ps.map fun p => (p, h.floor p * total / (ps.map h.floor).sum), true) := by
  unfold budgetsOf
  dsimp only
  rw [if_pos short]

theorem budgetsOf_of_covered {total : Nat} {ps : List Nat} (covered : (ps.map h.floor).sum ≤ total) :
    budgetsOf h total ps = (ps.map fun p => (p, h.floor p + (if (ps.map fun p => (h.part p).pshare).sum = 0 then 0
      else (total - (ps.map h.floor).sum) * (h.part p).pshare / (ps.map fun p => (h.part p).pshare).sum)), false) := by
  unfold budgetsOf
  dsimp only
  rw [if_neg (by omega)]

theorem budgetsOf_sum_le (h : Hub) (total : Nat) (ps : List Nat) : (((budgetsOf h total ps).1.map fun x => x.2).sum) ≤ total := by
  rcases Nat.lt_or_ge total (ps.map h.floor).sum with short | covered
  · rw [budgetsOf_of_short short, List.map_map]
    have parts := sum_map_mul_div_le total (ps.map h.floor).sum (ps.map h.floor)
    rw [List.map_map, Nat.mul_div_cancel _ (by omega)] at parts
    refine le_trans (le_of_eq ?_) parts
    refine congrArg List.sum (List.map_congr_left fun p _ => ?_)
    exact congrArg (· / _) (Nat.mul_comm _ _)
  · rw [budgetsOf_of_covered covered, List.map_map]
    have rest : (ps.map fun p => if (ps.map fun p => (h.part p).pshare).sum = 0 then 0
        else (total - (ps.map h.floor).sum) * (h.part p).pshare / (ps.map fun p => (h.part p).pshare).sum).sum ≤ total - (ps.map h.floor).sum := by
      by_cases unshared : (ps.map fun p => (h.part p).pshare).sum = 0
      · simp [unshared]
      · have parts := sum_map_mul_div_le (total - (ps.map h.floor).sum) (ps.map fun p => (h.part p).pshare).sum
          (ps.map fun p => (h.part p).pshare)
        rw [List.map_map, Nat.mul_div_cancel _ (by omega)] at parts
        simp only [if_neg unshared]
        exact parts
    have split_ : (ps.map ((fun x : Nat × Nat => x.2) ∘ fun p => (p, h.floor p + (if (ps.map fun p => (h.part p).pshare).sum = 0 then 0
        else (total - (ps.map h.floor).sum) * (h.part p).pshare / (ps.map fun p => (h.part p).pshare).sum)))).sum =
        (ps.map h.floor).sum + (ps.map fun p => if (ps.map fun p => (h.part p).pshare).sum = 0 then 0
        else (total - (ps.map h.floor).sum) * (h.part p).pshare / (ps.map fun p => (h.part p).pshare).sum).sum := List.sum_map_add
    omega

/-! ### A replica of a pass (R212) -/

theorem State.tryReplica_of_busy (busy : s.idleReplica g = false) : State.tryReplica p (s, rem) g = (s, rem) := by
  unfold State.tryReplica
  dsimp only
  rw [if_pos busy]

theorem State.tryReplica_of_fit {pair : Nat × Nat} (idle : s.idleReplica g = true) (some_ : s.batchOf p g ≠ [])
    (bucket : s.hub.batchPair g (s.batchOf p g) = some pair) (fits : batchEst g.img pair ≤ rem) :
    State.tryReplica p (s, rem) g = (s.dispatch g (s.batchOf p g) pair (batchEst g.img pair), rem - batchEst g.img pair) := by
  unfold State.tryReplica
  dsimp only
  rw [if_neg (by rw [idle]; decide), bucket]
  dsimp only
  rw [if_neg (fun empty => some_ (List.isEmpty_iff.1 empty)), if_neg (by omega)]

theorem State.tryReplica_le (p : Pass) (s : State) (rem : Nat) (g : Program) : (State.tryReplica p (s, rem) g).2 ≤ rem := by
  unfold State.tryReplica
  dsimp only
  split
  · exact le_rfl
  · split
    · exact le_rfl
    · split
      · exact le_rfl
      · split
        · split <;> exact le_rfl
        · exact Nat.sub_le _ _

/-! ### Dispatch (R215) -/

theorem State.holdAt_padWrite (s : State) (b : List Nat) (i : HandleInit) (o : Nat) (bs : List Byte) (c : Nat) :
    ((s.padWrite b i o bs).core c).holdAt = (s.core c).holdAt := by
  unfold State.padWrite
  by_cases here : c = b.getD i.owner 0
  · subst here
    rw [State.core_updCore_self]
    obtain ⟨m, l, same⟩ := CoreState.spWrite_frame (bs.length + 1) (s.core (b.getD i.owner 0)) (i.base + o) bs
    rw [same]
  · rw [State.core_updCore_ne _ _ here]

theorem State.holdAt_padCore (s : State) (g : Program) (p : Pad) (l n size c : Nat) :
    ((s.padCore g p l n size).core c).holdAt = (s.core c).holdAt := by
  have padded : ∀ s : State, ((match imgHinit g.img l p.handle.toNat with
      | none => s
      | some h => ((List.range size).filter fun i => n ≤ i).foldl (fun s i =>
          s.padWrite g.lcores h (p.offset + i * p.stride) (fillElem (2 ^ p.elog) p.value.toNat)) s).core c).holdAt = (s.core c).holdAt := by
    intro s
    split
    · rfl
    · exact foldl_view (view := fun s : State => (s.core c).holdAt) (fun s i => s.holdAt_padWrite _ _ _ _ _) _ _
  unfold State.padCore
  dsimp only
  split
  · split
    · exact padded s
    · exact (foldl_view (view := fun s : State => (s.core c).holdAt) (fun s i => s.holdAt_padWrite _ _ _ _ _) _ _).trans (padded s)
  · exact padded s

theorem State.holdAt_writePads (s : State) (g : Program) (pair : Nat × Nat) (n0 n1 c : Nat) :
    ((s.writePads g pair n0 n1).core c).holdAt = (s.core c).holdAt := by
  unfold State.writePads
  exact foldl_view (view := fun s : State => (s.core c).holdAt)
    (fun s p => foldl_view (view := fun s : State => (s.core c).holdAt) (fun s l => s.holdAt_padCore _ _ _ _ _ _) _ s) _ s

theorem State.holdAt_writeBatch (s : State) (d slots seq : Nat) (bat : List Nat) (c : Nat) :
    ((s.writeBatch d slots seq bat).core c).holdAt = (s.core c).holdAt := by
  unfold State.writeBatch
  dsimp only
  split
  · by_cases here : c = htCore ((s.core d).ht 255)
    · subst here
      rw [State.core_updCore_self]
      obtain ⟨m, l, first⟩ := CoreState.spWrite_frame 9 (s.core (htCore ((s.core d).ht 255))) (htBase ((s.core d).ht 255))
        (packFields [(bat.length, 4), (seq, 4)])
      rw [first]
      obtain ⟨m', l', second⟩ := CoreState.spWrite_frame
        ((bat.flatMap fun n => packFields [(n, 2), ((s.hub.stream n).slot, 2), ((s.hub.stream n).n1, 2), (0, 2)]).length + 1)
        { s.core (htCore ((s.core d).ht 255)) with sp := m, badLanes := l } (htBase ((s.core d).ht 255) + 64)
        (bat.flatMap fun n => packFields [(n, 2), ((s.hub.stream n).slot, 2), ((s.hub.stream n).n1, 2), (0, 2)])
      rw [second]
    · rw [State.core_updCore_ne _ _ here]
  · rfl

theorem State.holdAt_grantTok (s : State) (d ch n c : Nat) : ((s.grantTok d ch n).core c).holdAt = (s.core c).holdAt := by
  have granted : ((s.setCore d ((s.core d).addTok ch n).1).core c).holdAt = (s.core c).holdAt := by
    by_cases here : c = d
    · subst here
      rw [State.core_setCore_self]
      rfl
    · rw [State.core_setCore_ne _ _ here]
  unfold State.grantTok
  dsimp only
  split
  · exact granted
  · exact granted

/-- A core started with no hold at its mark runs, and has none still. -/
theorem CoreState.start_runs (k : CoreState) (free : k.holdAt = false) (bank : Bool) (entry : Nat) (x : List W64) :
    (k.start bank entry x).st = .run ∧ (k.start bank entry x).holdAt = false := by
  obtain ⟨xs, same⟩ := k.putFrom_frame x 0
  refine ⟨?_, rfl⟩
  unfold CoreState.start CoreState.markStep
  dsimp only
  rw [CoreState.setArgs_eq, same]
  dsimp only
  rw [if_neg (by rw [free]; simp)]

/-- Of cores started one after the other, one that is among them and that nothing holds runs. -/
theorem State.runs_foldl_start {at_ : Nat → Nat} {f : Nat → CoreState → CoreState} (started : ∀ l k, k.holdAt = false →
    (f l k).st = .run ∧ (f l k).holdAt = false) (c : Nat) (ls : List Nat) : ∀ s : State, (s.core c).holdAt = false →
    ((∃ l ∈ ls, at_ l = c) ∨ (s.core c).st = .run) → ((ls.foldl (fun s l => s.updCore (at_ l) (f l)) s).core c).st = .run := by
  induction ls with
  | nil =>
    rintro s - (⟨l, member, -⟩ | runs)
    · exact absurd member List.not_mem_nil
    · exact runs
  | cons l ls ih =>
    intro s free either
    by_cases here : c = at_ l
    · obtain ⟨runs, still⟩ := started l (s.core c) free
      have core : ((s.updCore (at_ l) (f l)).core c) = f l (s.core c) := by rw [here, State.core_updCore_self]
      exact ih _ (by rw [core]; exact still) (.inr (by rw [core]; exact runs))
    · have core : ((s.updCore (at_ l) (f l)).core c) = s.core c := State.core_updCore_ne _ _ here
      refine ih _ (by rw [core]; exact free) (either.imp (fun ⟨m, member, at_m⟩ => ⟨m, ?_, at_m⟩) fun runs => by rw [core]; exact runs)
      exact (List.mem_cons.1 member).resolve_left fun same => here (by rw [← at_m, same])

/-- Streams that an invocation takes run; the others stay. -/
theorem Hub.stream_foldl_run (ns : List Nat) (n : Nat) : ∀ h : Hub,
    ((ns.foldl (fun h n => h.updStream n fun x => { x with st := 3 }) h).stream n) = if n ∈ ns then { h.stream n with st := 3 } else h.stream n := by
  induction ns with
  | nil => exact fun h => rfl
  | cons m ns ih =>
    intro h
    rw [List.foldl_cons, ih]
    by_cases here : n = m
    · subst here
      rw [Hub.stream_updStream_self, if_pos List.mem_cons_self]
      split <;> rfl
    · rw [Hub.stream_updStream_ne _ _ here]
      simp only [List.mem_cons, here, false_or]

/-- The cores of a replica as they are started: the pads, the batch and the tokens of the first steps in place. -/
def State.preparedFor (s : State) (g : Program) (bat : List Nat) (pair : Nat × Nat) : State :=
  let n1 := (bat.map fun n => (s.hub.stream n).n1).foldl max 0
  g.lcores.foldl (fun s c => s.grantTok c 0 (min 255 g.img.nstep))
    (g.lcores.foldl (fun s c => s.writeBatch c g.slots g.seq bat) (s.writePads g pair bat.length n1))

theorem State.preparedFor_frame (s : State) (g : Program) (bat : List Nat) (pair : Nat × Nat) :
    let t := s.preparedFor g bat pair
    t.hub.invs = s.hub.invs ∧ t.hub.streams = s.hub.streams ∧ t.macros = s.macros ∧ ∀ c, (t.core c).holdAt = (s.core c).holdAt := by
  intro t
  have granted : ∀ (s : State) (c ch n : Nat), (s.grantTok c ch n).hub.invs = s.hub.invs ∧ (s.grantTok c ch n).hub.streams = s.hub.streams := by
    intro s c ch n
    unfold State.grantTok
    dsimp only
    split
    · exact ⟨rfl, rfl⟩
    · rw [State.hub_journal]
      exact ⟨rfl, rfl⟩
  have macros : ∀ (s : State), (s.writePads g pair bat.length ((bat.map fun n => (s.hub.stream n).n1).foldl max 0)).macros = s.macros := by
    intro s
    unfold State.writePads
    refine foldl_view (view := State.macros) (fun s p => foldl_view (view := State.macros) (fun s l => ?_) _ s) _ s
    have padded : ∀ (s : State) (size n : Nat), (match imgHinit g.img l p.handle.toNat with
        | none => s
        | some h => ((List.range size).filter fun i => n ≤ i).foldl (fun s i =>
            s.padWrite g.lcores h (p.offset + i * p.stride) (fillElem (2 ^ p.elog) p.value.toNat)) s).macros = s.macros := by
      intro s size n
      split
      · rfl
      · exact foldl_view (view := State.macros) (by intro s i; rfl) _ _
    unfold State.padCore
    dsimp only
    split
    · split
      · exact padded s _ _
      · exact (foldl_view (view := State.macros) (by intro s i; rfl) _ _).trans (padded s _ _)
    · exact padded s _ _
  have batched : ∀ (s : State) (c slots seq : Nat) (bat : List Nat), (s.writeBatch c slots seq bat).macros = s.macros := by
    intro s c slots seq bat
    unfold State.writeBatch
    dsimp only
    split <;> rfl
  refine ⟨?_, ?_, ?_, fun c => ?_⟩
  · exact (foldl_view (view := fun s : State => s.hub.invs) (fun s c => (granted s c _ _).1) _ _).trans
      ((foldl_view (view := fun s : State => s.hub.invs) (fun s c => congrArg Hub.invs (s.hub_writeBatch c _ _ _)) _ _).trans
        (congrArg Hub.invs (s.hub_writePads g pair _ _)))
  · exact (foldl_view (view := fun s : State => s.hub.streams) (fun s c => (granted s c _ _).2) _ _).trans
      ((foldl_view (view := fun s : State => s.hub.streams) (fun s c => congrArg Hub.streams (s.hub_writeBatch c _ _ _)) _ _).trans
        (congrArg Hub.streams (s.hub_writePads g pair _ _)))
  · exact (foldl_view (view := State.macros) (fun s c => (State.grantTok_effect s c _ _).2.2.1) _ _).trans
      ((foldl_view (view := State.macros) (fun s c => batched s c _ _ _) _ _).trans (macros s))
  · exact (foldl_view (view := fun s : State => (s.core c).holdAt) (fun s d => s.holdAt_grantTok d _ _ c) _ _).trans
      ((foldl_view (view := fun s : State => (s.core c).holdAt) (fun s d => s.holdAt_writeBatch d _ _ _ c) _ _).trans (s.holdAt_writePads g pair _ _ c))

/-- A dispatch: one more invocation, its streams running, every core of the replica started. -/
theorem State.dispatch_effect (s : State) (g : Program) (bat : List Nat) (pair : Nat × Nat) (e : Nat) :
    let t := s.dispatch g bat pair e
    (∃ v, t.hub.invs = s.hub.invs ++ [v] ∧ v.prog = g.handle ∧ v.streams = bat ∧ v.busy = g.lcores ∧ v.est = e ∧ v.fault = none) ∧
    (∀ n, t.hub.stream n = if n ∈ bat then { s.hub.stream n with st := 3 } else s.hub.stream n) ∧
    (∀ c ∈ g.lcores, (s.core c).holdAt = false → (t.core c).st = .run) ∧ t.macros = s.macros := by
  intro t
  obtain ⟨invs, streams, macros, holds⟩ := s.preparedFor_frame g bat pair
  have charged : ∀ (h : Hub) neg total ns, (h.chargeAll neg total ns).invs = h.invs ∧ (h.chargeAll neg total ns).streams = h.streams :=
    fun h neg total ns => ⟨foldl_view (view := Hub.invs) (by intro h p; rfl) _ _, foldl_view (view := Hub.streams) (by intro h p; rfl) _ _⟩
  have unfolded : t = s.dispatch g bat pair e := rfl
  unfold State.dispatch at unfolded
  dsimp only at unfolded
  rw [show (g.lcores.foldl (fun s c => s.grantTok c 0 (min 255 g.img.nstep)) (g.lcores.foldl (fun s c => s.writeBatch c g.slots g.seq bat)
    (s.writePads g pair bat.length ((bat.map fun n => (s.hub.stream n).n1).foldl max 0)))) = s.preparedFor g bat pair from rfl] at unfolded
  rw [unfolded]
  refine ⟨?_, fun n => ?_, fun c member free => ?_, ?_⟩
  · rw [State.updHub_hub, (charged _ _ _ _).1]
    refine ⟨_, congrArg (· ++ [_]) (((foldl_view (view := Hub.invs) (by intro h n; rfl) bat _).trans
      (foldl_view (view := fun s : State => s.hub.invs) (by intro s l; rfl) _ _)).trans invs), rfl, rfl, rfl, rfl, rfl⟩
  · rw [State.updHub_hub, Hub.stream_congr (charged _ _ _ _).2]
    refine (Hub.stream_foldl_run bat n _).trans ?_
    rw [Hub.stream_congr ((foldl_view (view := fun s : State => s.hub.streams) (by intro s l; rfl) _ _).trans streams)]
  · obtain ⟨i, inside, at_⟩ := List.mem_iff_getElem.1 member
    refine State.runs_foldl_start (at_ := fun l => g.lcores.getD l 0) (fun l k free => k.start_runs free _ _ _) c _ _ ((holds c).trans free)
      (.inl ⟨i, List.mem_range.2 inside, ?_⟩)
    simp [List.getD_eq_getElem?_getD, inside, at_]
  · exact (foldl_view (view := State.macros) (by intro s l; rfl) _ _).trans macros

end

/-- Settles O38: shares rounded down sum to no more than the whole; a dispatch changes what its record names. -/
theorem budgetsWithinGrant : Obligations.BudgetsWithinGrant := by
  unfold Obligations.BudgetsWithinGrant
  refine ⟨fun h total ps => ⟨budgetsOf_sum_le h total ps, fun covered => ?_, fun short => ?_⟩, fun p s rem g => ⟨State.tryReplica_le p s rem g,
    State.tryReplica_of_busy, fun pair idle some_ bucket fits => State.tryReplica_of_fit idle some_ bucket fits⟩, fun s g bat pair e => ?_⟩
  · rw [budgetsOf_of_covered covered]
    refine ⟨rfl, fun x member => ?_⟩
    obtain ⟨p, -, rfl⟩ := List.mem_map.1 member
    exact Nat.le_add_right _ _
  · rw [budgetsOf_of_short short]
  · obtain ⟨inv, streams, cores, macros⟩ := s.dispatch_effect g bat pair e
    refine ⟨inv, fun n member => ?_, fun n other => ?_, cores, macros⟩
    · rw [streams, if_pos member]
    · rw [streams, if_neg other]

end Sys2Proof.Machine

/-! PROOFS. Writes of one object of the dictionary (R346, R348, R350 to R353, R356, Table 15.11). -/

namespace Sys2Proof.Machine

section

variable {s : State} {f : Frame} {slot : Nat} {x : Session} {o : Obj}

/-- A granted write does what its command says, and is answered with that status. -/
theorem State.onWrite_of_grants (granted : s.grants f slot x o) {idx : Nat → Bool} {sub : Nat} {is : List Byte → Bool}
    (index : idx f.index.toNat = true) (subs : f.sub.toNat = sub) (value : is f.data = true)
    (act : State → Who → Nat → List Byte → State × Nat) :
    (.next (s.onWrite f idx sub is act) : Out) = answered f slot (act (s.taken f slot x) (frameWho f slot x) f.index.toNat f.data) := by
  have sound : s.requests f slot x := granted.1
  have op : f.op = 2 := granted.2.1
  subst subs
  unfold State.onWrite
  rw [if_pos ⟨op, index, rfl, value⟩, State.receive_of_requests sound]
  exact congrArg (fun r : State × Ans => Host.Outcome.next (r.1.replyTo f slot f.session r.2))
    (State.writeValue_of_grants granted fun s v => act s (frameWho f slot x) f.index.toNat v)

/-- A granted value of a byte's object is one byte. -/
theorem State.grants_length (granted : s.grants f slot x o) (sized : o.size ≠ 0) : f.data.length = o.size := by
  obtain ⟨-, -, -, -, -, -, -, -, fits⟩ := granted
  unfold valueBad at fits
  rw [if_neg sized] at fits
  by_contra other
  rw [if_pos other] at fits
  exact absurd fits (by decide)

/-- A granted value of OD 8000.03 is one byte. -/
theorem State.grants_reset (granted : s.grants f slot x o) (index : f.index = 0x8000) (sub : f.sub = 3) : f.data.length = 1 := by
  have found : findObj f.index.toNat f.sub.toNat = some o := granted.2.2.1
  have is : findObj 0x8000 3 = some (oR 3 1 .wo 0 0 24) := by decide
  rw [index, sub] at found
  obtain rfl : oR 3 1 .wo 0 0 24 = o := Option.some.inj (is.symm.trans found)
  exact State.grants_length granted (by decide)

/-- One byte of a value is that byte. -/
theorem eq_singleton_of_leNat {v : List Byte} {n : Nat} (one : v.length = 1) (value : leNat v = n) : v = [BitVec.ofNat 8 n] := by
  obtain ⟨b, rfl⟩ := List.length_eq_one_iff.1 one
  subst value
  simp [leNat]

/-- A granted WRITE is answered with what its object's write did; the node ID then follows a write of it (R346). -/
theorem exec_write_of_grants (granted : s.grants f slot x o) (plain : isKeyWrite f = false) (other : f.index ≠ 0xA000 ∨ f.sub ≠ 2) :
    exec (.write f) s = .next (
      let r := (s.taken f slot x).writeObj (frameWho f slot x) f.index.toNat f.sub.toNat f.data
      let t := r.1.replyTo f slot f.session (Ans.of r.2)
      if f.index = 0x1100 ∧ f.sub = 2 then t.takeNodeId else t) := by
  rw [exec_write granted.2.1]
  unfold State.writeFrame
  rw [if_neg (fun both => other.elim (fun no => no both.1) fun no => no both.2), State.receive_of_requests granted.1,
    State.writeValue_of_grants granted]
  dsimp only
  rw [if_neg (fun both => by rw [plain] at both; exact absurd both.1 (by decide))]

end

/-- Settles O39: a granted write reaches its action in the state in which nothing of it is staged. -/
theorem dictionaryWriteRows : Obligations.DictionaryWriteRows := by
  unfold Obligations.DictionaryWriteRows
  intro s f slot x o granted t w i n
  have row {idx : Nat → Bool} {sub : Nat} {is : List Byte → Bool} (index : idx f.index.toNat = true) (subs : f.sub.toNat = sub)
      (value : is f.data = true) (act : State → Who → Nat → List Byte → State × Nat) :
      (.next (s.onWrite f idx sub is act) : Out) = answered f slot (act t w i f.data) := State.onWrite_of_grants granted index subs value act
  have byte {v : Nat} (value : f.data = [BitVec.ofNat 8 v]) : isByte v f.data = true := decide_eq_true value
  refine ⟨fun part sub => ?partition, fun index => ?job, fun index sub => ?safety, fun index sub => ?reset, fun index sub => ?tray,
    fun index sub => ?ack, fun index => ?maintenance, fun index sub length => ?firmware, fun plain other => ?write⟩
  case partition =>
    have two : f.sub.toNat = 2 := congrArg BitVec.toNat sub
    exact ⟨fun value => row part two (byte value) _, fun value => row part two (byte value) _, fun value => row part two (byte value) _,
      fun value => row part two (byte value) _, fun value => row part two (byte value) _, fun value => row part two (byte value) _⟩
  case job =>
    have here : (f.index.toNat == 0x7200) = true := beq_of_eq (congrArg BitVec.toNat index)
    exact ⟨fun sub => row here (congrArg BitVec.toNat sub) rfl _, fun sub value => row here (congrArg BitVec.toNat sub) (byte value) _,
      fun sub value => row here (congrArg BitVec.toNat sub) (byte value) _⟩
  case safety =>
    have here : (f.index.toNat == 0x8000) = true := beq_of_eq (congrArg BitVec.toNat index)
    have two : f.sub.toNat = 2 := congrArg BitVec.toNat sub
    exact ⟨fun value => row here two (byte value) _, fun value => row here two (byte value) _, fun value => row here two (byte value) _⟩
  case reset =>
    have here : (f.index.toNat == 0x8000) = true := beq_of_eq (congrArg BitVec.toNat index)
    have three : f.sub.toNat = 3 := congrArg BitVec.toNat sub
    have one : f.data.length = 1 := State.grants_reset granted index sub
    refine ⟨fun small => ?_, fun hub => ?_, fun low high => ?_⟩
    · refine row here three ?_ _
      simp only [Bool.and_eq_true, decide_eq_true_eq]
      exact ⟨one, small⟩
    · refine (row here three (byte (eq_singleton_of_leNat one hub)) _).trans ?_
      have chosen : t.actReset (leNat f.data) = (t.hubRestart, dOk) := by
        unfold State.actReset
        rw [if_neg (by omega), if_pos hub]
      exact congrArg (answered f slot) chosen
    · refine row here three ?_ _
      simp only [Bool.and_eq_true, decide_eq_true_eq]
      exact ⟨⟨one, low⟩, high⟩
  case tray =>
    have here : (f.index.toNat == 0x8010) = true := beq_of_eq (congrArg BitVec.toNat index)
    exact row here (congrArg BitVec.toNat sub) rfl _
  case ack =>
    have here : (f.index.toNat == 0xB000) = true := beq_of_eq (congrArg BitVec.toNat index)
    exact row here (congrArg BitVec.toNat sub) rfl _
  case maintenance =>
    have here : (f.index.toNat == 0x9000) = true := beq_of_eq (congrArg BitVec.toNat index)
    exact ⟨fun sub => row here (congrArg BitVec.toNat sub) rfl _, fun sub => row here (congrArg BitVec.toNat sub) rfl _,
      fun sub => row here (congrArg BitVec.toNat sub) rfl _⟩
  case firmware =>
    have here : (f.index.toNat == 0xA000) = true := beq_of_eq (congrArg BitVec.toNat index)
    have three : f.sub.toNat = 3 := congrArg BitVec.toNat sub
    have fw {v : Nat} (first : f.data.head? = some (BitVec.ofNat 8 v)) : isFw v f.data = true := by
      simp only [isFw, Bool.and_eq_true, decide_eq_true_eq]
      exact ⟨length, first⟩
    exact ⟨fun first => row here three (fw first) _, fun first => row here three (fw first) _, fun first => row here three (fw first) _,
      fun first => row here three (fw first) _⟩
  case write =>
    have ran := exec_write_of_grants granted plain other
    refine ⟨fun elsewhere => ran.trans ?_, fun index sub => ran.trans ?_⟩
    · dsimp only
      rw [if_neg (fun both => elsewhere.elim (fun no => no both.1) fun no => no both.2)]
      rfl
    · dsimp only
      rw [if_pos ⟨index, sub⟩]

end Sys2Proof.Machine

/-! PROOFS. Changing a partition (R223 to R229, R366, Tables 10.1 and 10.2). -/

namespace Sys2Proof.Machine

section

variable {s : State} {h : Hub} {w : Who} {p c : Nat} {t : Partition}

/-! ### Cores changed one after the other -/

/-- What a step over its own core brings about, and a step over another leaves, a fold brings about of each of its cores. -/
theorem State.foldl_core_of_mem {f : State → Nat → State} {P : CoreState → Prop} (self : ∀ s, P ((f s c).core c))
    (other : ∀ s d, c ≠ d → (f s d).core c = s.core c) (ds : List Nat) : ∀ s : State, (c ∈ ds ∨ P (s.core c)) → P ((ds.foldl f s).core c) := by
  induction ds with
  | nil => exact fun s either => either.elim (fun member => absurd member List.not_mem_nil) id
  | cons d ds ih =>
    intro s either
    refine ih (f s d) ?_
    by_cases here : c = d
    · subst here
      exact .inr (self s)
    · rw [other s d here]
      exact either.imp_left fun member => (List.mem_cons.1 member).resolve_left here

theorem State.foldl_core_of_not_mem {f : State → Nat → State} (other : ∀ s d, c ≠ d → (f s d).core c = s.core c) (ds : List Nat) :
    ∀ s : State, c ∉ ds → (ds.foldl f s).core c = s.core c := by
  induction ds with
  | nil => exact fun s _ => rfl
  | cons d ds ih =>
    intro s out
    obtain ⟨here, rest⟩ := not_or.1 (mt List.mem_cons.2 out)
    exact (ih _ rest).trans (other s d here)

theorem State.offlineCore_frame (s : State) (c : Nat) : (s.offlineCore c).cores = s.cores ∧ (s.offlineCore c).hub = s.hub ∧
    (s.offlineCore c).ext = s.ext := by
  unfold State.offlineCore
  generalize List.range 72 = ms
  have kept := foldl_view (view := fun s : State => (s.cores, s.hub, s.ext)) (f := fun s m =>
    if (s.mac c m).st = .retired then s else (s.updMac c m fun k => k.writeState .rebind s.free .offline).bump)
    (by intro s m; split <;> rfl) ms s
  exact ⟨congrArg Prod.fst kept, congrArg (fun x => x.2.1) kept, congrArg (fun x => x.2.2) kept⟩

theorem State.freeCore_frame (s : State) (c : Nat) : (s.freeCore c).hub = s.hub ∧ (s.freeCore c).ext = s.ext ∧
    ∀ d, d ≠ c → (s.freeCore c).core d = s.core d := by
  obtain ⟨cores, hub, ext⟩ := s.offlineCore_frame c
  unfold State.freeCore State.vacate
  refine ⟨?_, ?_, fun d other => ?_⟩
  · rw [updCore_hub, updCore_hub, hub]
  · rw [updCore_ext, updCore_ext, ext]
  rw [State.core_updCore_ne _ _ other, State.core_updCore_ne _ _ other]
  exact State.core_congr cores d

/-- A core that leaves its partition has no owner, an empty scratchpad, and is IDLE. -/
theorem State.core_freeCore_self (s : State) (c : Nat) :
    ((s.freeCore c).core c).owner = none ∧ ((s.freeCore c).core c).sp = [] ∧ ((s.freeCore c).core c).st = .idle := by
  unfold State.freeCore
  rw [State.core_updCore_self]
  exact ⟨rfl, rfl, rfl⟩

theorem State.core_giveCore_ne (s : State) (p : Nat) {d : Nat} (other : d ≠ c) : (s.giveCore c p).core d = s.core d :=
  State.core_updCore_ne _ _ other

theorem State.owner_giveCore (s : State) (c p : Nat) : ((s.giveCore c p).core c).owner = some p := by
  unfold State.giveCore
  rw [State.core_updCore_self]

/-! ### Banks given and taken (R204, R229) -/

/-- One bank after a change of partition p: its own if the entry names it, nobody's if it was its own, else as it was. -/
def Hub.assignBank (p : Nat) (t : Partition) (h : Hub) (k : Nat) : Hub :=
  if bitOf t.cbanks k then (if h.owner (5 + k) = some p then h else (h.zeroBank k).setOwner (5 + k) (some p))
  else if h.owner (5 + k) = some p then h.setOwner (5 + k) none else h

theorem Hub.owner_assignBank_self (h : Hub) (p : Nat) (t : Partition) (k : Nat) :
    (bitOf t.cbanks k = true → (h.assignBank p t k).owner (5 + k) = some p) ∧
      (bitOf t.cbanks k = false → (h.assignBank p t k).owner (5 + k) ≠ some p) := by
  unfold Hub.assignBank
  refine ⟨fun named => ?_, fun unnamed => ?_⟩
  · rw [if_pos named]
    split
    · assumption
    · exact Hub.owner_setOwner_self _ _ _
  · rw [if_neg (by rw [unnamed]; decide)]
    split
    · rw [Hub.owner_setOwner_self]
      exact fun same => nomatch same
    · assumption

theorem Hub.owner_assignBank_ne (h : Hub) (p : Nat) (t : Partition) {k i : Nat} (other : i ≠ 5 + k) :
    (h.assignBank p t k).owner i = h.owner i := by
  unfold Hub.assignBank
  split
  · split
    · rfl
    · exact (Hub.owner_setOwner_ne _ _ other).trans rfl
  · split
    · exact Hub.owner_setOwner_ne _ _ other
    · rfl

/-- Every bank of a list is the partition's exactly where its entry names it. -/
theorem Hub.owner_foldl_assignBank (p : Nat) (t : Partition) (k : Nat) (ks : List Nat) : ∀ h : Hub,
    (bitOf t.cbanks k = true → k ∈ ks ∨ h.owner (5 + k) = some p → (ks.foldl (Hub.assignBank p t) h).owner (5 + k) = some p) ∧
      (bitOf t.cbanks k = false → k ∈ ks ∨ h.owner (5 + k) ≠ some p → (ks.foldl (Hub.assignBank p t) h).owner (5 + k) ≠ some p) := by
  induction ks with
  | nil => exact fun h => ⟨fun _ either => either.resolve_left List.not_mem_nil, fun _ either => either.resolve_left List.not_mem_nil⟩
  | cons j ks ih =>
    intro h
    obtain ⟨named, unnamed⟩ := ih (h.assignBank p t j)
    by_cases here : k = j
    · subst here
      obtain ⟨own, free⟩ := h.owner_assignBank_self p t k
      exact ⟨fun bit _ => named bit (.inr (own bit)), fun bit _ => unnamed bit (.inr (free bit))⟩
    · have same : (h.assignBank p t j).owner (5 + k) = h.owner (5 + k) := Hub.owner_assignBank_ne _ _ _ (by omega)
      rw [same] at named unnamed
      exact ⟨fun bit either => named bit (either.imp_left fun member => (List.mem_cons.1 member).resolve_left here),
        fun bit either => unnamed bit (either.imp_left fun member => (List.mem_cons.1 member).resolve_left here)⟩

theorem Hub.changes_foldl_assignBank (p : Nat) (t : Partition) (ks : List Nat) (h : Hub) :
    (ks.foldl (Hub.assignBank p t) h).changes = h.changes := by
  refine foldl_view (view := Hub.changes) (fun h k => ?_) ks h
  unfold Hub.assignBank
  split
  · split <;> rfl
  · split <;> rfl

/-! ### Programs of a partition removed (R228) -/

/-- The handles and partitions of the installed programs. -/
def Hub.progKeys (h : Hub) : List (Nat × Nat) := h.programs.map fun g => (g.handle, g.part)

theorem Hub.progKeys_congr {h h' : Hub} (same : h.programs = h'.programs) : h.progKeys = h'.progKeys := congrArg (List.map _) same

theorem Hub.progKeys_updProg {f : Program → Program} (keeps : ∀ x, ((f x).handle, (f x).part) = (x.handle, x.part)) (h : Hub) (n : Nat) :
    (h.updProg n f).progKeys = h.progKeys := by
  unfold Hub.progKeys Hub.updProg
  rw [List.map_map]
  refine List.map_congr_left fun x _ => ?_
  dsimp only [Function.comp]
  split
  · exact keeps x
  · rfl

theorem State.progKeys_dropStream (s : State) (n status : Nat) : (s.dropStream n status).hub.progKeys = s.hub.progKeys := by
  have freed : ∀ s : State, (s.freeStream n).hub.progKeys = s.hub.progKeys := by
    intro s
    have emptied : ∀ k p y, (((s.hub.updProg k fun g => { g with slotUse := Sparse.erase g.slotUse (s.hub.stream n).slot }).setPart p y).setStream n
        Stream.reset).progKeys = s.hub.progKeys := by
      intro k p y
      exact Hub.progKeys_updProg (f := fun g => { g with slotUse := Sparse.erase g.slotUse (s.hub.stream n).slot }) (fun _ => rfl) s.hub k
    unfold State.freeStream
    dsimp only
    split
    · exact emptied _ _ _
    · split
      · rw [Hub.progKeys_congr (State.programs_finishCmd _ _ _)]
        exact emptied _ _ _
      · exact emptied _ _ _
  unfold State.dropStream
  rw [freed, Hub.progKeys_congr (State.programs_endQueued _ _ _)]
  split
  · exact Hub.progKeys_congr (State.programs_endRequest _ _ _ _ _)
  · rfl

theorem State.progKeys_removeProgram (s : State) (g : Program) :
    (s.removeProgram g).hub.progKeys = s.hub.progKeys.filter fun k => decide (k.1 ≠ g.handle) := by
  have dropped : ((s.hub.openStreams fun x => x.prog = g.handle).foldl (fun s n => s.dropStream n 8) s).hub.progKeys = s.hub.progKeys :=
    foldl_view (view := fun s : State => s.hub.progKeys) (fun s n => s.progKeys_dropStream n 8) _ s
  rw [← dropped]
  unfold State.removeProgram
  dsimp only
  rw [State.updHub_hub]
  unfold Hub.progKeys
  dsimp only
  rw [List.filter_map, State.programs_unloaded]
  rfl

/-- With every program of a list removed, none of those handles is left. -/
theorem State.progKeys_removePrograms (gs : List Program) : ∀ s : State,
    (gs.foldl State.removeProgram s).hub.progKeys = s.hub.progKeys.filter fun k => decide (∀ g ∈ gs, k.1 ≠ g.handle) := by
  induction gs with
  | nil => intro s; simp
  | cons g gs ih =>
    intro s
    rw [List.foldl_cons, ih, State.progKeys_removeProgram, List.filter_filter]
    refine List.filter_congr fun k _ => ?_
    rw [Bool.eq_iff_iff]
    simp [and_comm]

/-! ### Create, delete, commit, discard (R366) -/

theorem Hub.part_setPart_self (h : Hub) (p : Nat) (v : Partition) : (h.setPart p v).part p = v := Sparse.get_set_self _ _ _ _

theorem Hub.part_setPart_changing (h : Hub) (p : Nat) (v : Partition) (cs : Sparse PartChange) :
    ({ h.setPart p v with changes := cs } : Hub).part p = v := h.part_setPart_self p v

/-- The entry a change of p would commit: the present one with the staged fields. -/
def Hub.target (h : Hub) (p : Nat) : Partition := targetEntry (h.part p) (((h.stagedOf p).map (·.fields)).getD [])

/-- The state in which a change is judged and made: nothing of it staged any more. -/
def State.unstaged (s : State) (p : Nat) : State := s.updHub fun h => { h with staged := Sparse.erase h.staged p }

theorem State.actCreate_of_free (free : (s.hub.part p).st = 0) (own : s.hub.stagedByOther p w.slot = false)
    (allowed : s.changeRefused p (s.hub.target p) = 0) :
    s.actCreate w p = ((s.unstaged p).updHub fun h => { h.setPart p { h.part p with st := 2, keygen := ((h.part p).keygen + 1) % 65536 } with
      changes := Sparse.insert h.changes p { target := s.hub.target p, deleting := false } }, dInProgress) := by
  unfold State.actCreate
  dsimp only
  rw [if_neg (not_not_intro free), if_neg (by rw [own]; decide)]
  exact if_neg (not_not_intro allowed)

theorem State.actDelete_of_active (active : (s.hub.part p).st = 1) {force : Bool}
    (may : force = true ∨ (s.hub.openStreams (fun x => x.part = p) = [] ∧ ∀ g ∈ s.hub.programs, g.part ≠ p)) :
    s.actDelete p force = (((((s.hub.programs.filter fun g => g.part = p).foldl State.removeProgram s).hub.openStreams fun x => x.part = p).foldl
      (fun s n => s.dropStream n 8) ((s.hub.programs.filter fun g => g.part = p).foldl State.removeProgram s)).updHub fun h =>
        { h.setPart p { h.part p with st := 2 } with
          changes := Sparse.insert h.changes p { target := h.part p, deleting := true } }, dInProgress) := by
  unfold State.actDelete
  dsimp only
  rw [if_neg (by omega), if_neg ?free]
  rintro (changing | ⟨busy, unforced⟩)
  · omega
  · rcases may with forced | ⟨streams, programs⟩
    · rw [forced] at unforced
      exact absurd unforced (by decide)
    · rw [streams] at busy
      simp only [List.isEmpty_nil, Bool.not_true, Bool.false_or, List.any_eq_true, decide_eq_true_eq] at busy
      obtain ⟨g, member, part⟩ := busy
      exact programs g member part

theorem State.actDelete_of_used (active : (s.hub.part p).st = 1) {g : Program} (member : g ∈ s.hub.programs) (part : g.part = p) :
    s.actDelete p false = (s.partResult p dState, dState) := by
  unfold State.actDelete
  dsimp only
  have used : (s.hub.programs.any fun g => g.part = p) = true := List.any_eq_true.2 ⟨g, member, decide_eq_true part⟩
  rw [if_neg (by omega), if_pos (.inr ⟨by rw [used]; exact Bool.or_true _, rfl⟩)]

theorem Hub.progKeys_changing (h : Hub) (x : Partition) (c : Sparse PartChange) :
    ({ h.setPart p x with changes := c } : Hub).progKeys = h.progKeys := rfl

/-- A forced delete leaves no program of the partition. -/
theorem State.programs_actDelete (active : (s.hub.part p).st = 1) : ∀ g ∈ (s.actDelete p true).1.hub.programs, g.part ≠ p := by
  have keys : ∀ (ns : List Nat) (s : State), (ns.foldl (fun s n => s.dropStream n 8) s).hub.progKeys = s.hub.progKeys := fun ns s =>
    foldl_view (view := fun s : State => s.hub.progKeys) (fun s n => s.progKeys_dropStream n 8) ns s
  have left_ : (s.actDelete p true).1.hub.progKeys =
      s.hub.progKeys.filter fun k : Nat × Nat => decide (∀ g ∈ s.hub.programs.filter (fun g : Program => g.part = p), k.1 ≠ g.handle) := by
    rw [State.actDelete_of_active active (.inl rfl)]
    dsimp only
    rw [State.updHub_hub]
    rw [Hub.progKeys_changing, keys]
    exact s.progKeys_removePrograms _
  intro g member part
  have key := List.mem_map_of_mem (f := fun g : Program => (g.handle, g.part)) member
  rw [show List.map (fun g : Program => (g.handle, g.part)) (s.actDelete p true).1.hub.programs = (s.actDelete p true).1.hub.progKeys from rfl,
    left_, List.mem_filter] at key
  obtain ⟨listed, gone⟩ := key
  obtain ⟨x, installed, same⟩ := List.mem_map.1 listed
  obtain ⟨handle, part'⟩ := Prod.mk.inj same
  exact of_decide_eq_true gone x (List.mem_filter.2 ⟨installed, decide_eq_true (part'.trans part)⟩) handle.symm

/-- RESULT of a partition: its entry but for that field, everything else of the hub and the cores stay. -/
theorem State.partResult_frame (s : State) (p v : Nat) : (s.partResult p v).hub = s.hub.setPart p { s.hub.part p with result := v } ∧
    (s.partResult p v).cores = s.cores := by
  unfold State.partResult
  rw [State.event_hub, State.event_cores]
  exact ⟨rfl, rfl⟩

section

variable (active : (s.hub.part p).st = 1) (own : s.hub.stagedByOther p w.slot = false) (allowed : s.changeRefused p (s.hub.target p) = 0)

include active own allowed

theorem State.actCommit_of_shares (shares : onlyShares (s.hub.part p) (s.hub.target p) = true) :
    s.actCommit w p = (((s.unstaged p).updHub fun h => h.setPart p { h.part p with
      pendShare := some ((s.hub.target p).pshare, (s.hub.target p).pmin, (s.hub.target p).kxshare) }).partResult p 1, dInProgress) := by
  unfold State.actCommit
  dsimp only
  rw [show targetEntry (s.hub.part p) (((s.hub.stagedOf p).map (·.fields)).getD []) = s.hub.target p from rfl]
  rw [if_neg (not_not_intro active), if_neg (by rw [own]; decide), if_neg (not_not_intro allowed)]
  exact if_pos shares

theorem State.actCommit_of_unplaced (more : onlyShares (s.hub.part p) (s.hub.target p) = false) (none_ : s.hub.displaced p (s.hub.target p) = []) :
    s.actCommit w p = ((s.unstaged p).updHub fun h => { h.setPart p { h.part p with st := 2 } with
      changes := Sparse.insert h.changes p { target := s.hub.target p, deleting := false } }, dInProgress) := by
  unfold State.actCommit
  dsimp only
  rw [show targetEntry (s.hub.part p) (((s.hub.stagedOf p).map (·.fields)).getD []) = s.hub.target p from rfl]
  rw [if_neg (not_not_intro active), if_neg (by rw [own]; decide), if_neg (not_not_intro allowed)]
  refine (if_neg (fun shares => ?_)).trans ?_
  · exact absurd (show onlyShares (s.hub.part p) (s.hub.target p) = true from shares) (by rw [more]; decide)
  · show (if s.hub.displaced p (s.hub.target p) ≠ [] ∧ _ then _ else match s.maint.displaceBlocker (s.hub.displaced p (s.hub.target p)) with
      | some r => _
      | none => match (s.unstaged p).displace (s.hub.target p) (s.hub.displaced p (s.hub.target p)) with
        | none => _
        | some s2 => _) = _
    rw [none_, if_neg (fun both => both.1 rfl)]
    rfl

theorem State.actCommit_of_busy (more : onlyShares (s.hub.part p) (s.hub.target p) = false) (some_ : s.hub.displaced p (s.hub.target p) ≠ [])
    (busy : s.hub.loaderBusy p = true) : s.actCommit w p = ((s.unstaged p).partResult p dState, dInProgress) := by
  unfold State.actCommit
  dsimp only
  rw [show targetEntry (s.hub.part p) (((s.hub.stagedOf p).map (·.fields)).getD []) = s.hub.target p from rfl]
  rw [if_neg (not_not_intro active), if_neg (by rw [own]; decide), if_neg (not_not_intro allowed)]
  refine (if_neg (fun shares => ?_)).trans (if_pos ⟨some_, busy⟩)
  exact absurd (show onlyShares (s.hub.part p) (s.hub.target p) = true from shares) (by rw [more]; decide)

end

/-! ### The end of a change (R224, R229) -/

/-- The cores that leave a partition and those that join it, moved (R229). -/
def State.regrouped (s : State) (p : Nat) (o t : Partition) : State :=
  ((List.range 80).filter fun c => bitOf t.cores c && !(decide ((s.core c).owner = some p))).foldl (fun s c => s.giveCore c p)
    (((List.range 80).filter fun c => bitOf o.cores c && !bitOf t.cores c).foldl State.freeCore s)

theorem State.regrouped_frame (s : State) (p : Nat) (o t : Partition) : (s.regrouped p o t).hub = s.hub ∧ (s.regrouped p o t).ext = s.ext := by
  unfold State.regrouped
  constructor
  · rw [foldl_view (view := State.hub) (by intro s c; rfl)]
    exact foldl_view (view := State.hub) (fun s c => (s.freeCore_frame c).1) _ _
  · rw [foldl_view (view := State.ext) (by intro s c; rfl)]
    exact foldl_view (view := State.ext) (fun s c => (s.freeCore_frame c).2.1) _ _

/-- Every core that the new entry names is the partition's. -/
theorem State.owner_regrouped (s : State) (p : Nat) (o t : Partition) (small : c < 80) (named : bitOf t.cores c = true) :
    ((s.regrouped p o t).core c).owner = some p := by
  have stays : (((List.range 80).filter fun c => bitOf o.cores c && !bitOf t.cores c).foldl State.freeCore s).core c = s.core c := by
    refine State.foldl_core_of_not_mem (fun s d other => (s.freeCore_frame d).2.2 c other) _ s fun member => ?_
    have leaves := (List.mem_filter.1 member).2
    rw [named] at leaves
    simp at leaves
  unfold State.regrouped
  refine State.foldl_core_of_mem (P := fun k => k.owner = some p) (fun s => s.owner_giveCore c p)
    (fun s d other => s.core_giveCore_ne p other) _ _ ?_
  by_cases own : (s.core c).owner = some p
  · exact .inr (by rw [stays]; exact own)
  · refine .inl (List.mem_filter.2 ⟨List.mem_range.2 small, ?_⟩)
    simp [named, own]

theorem bitOf_reset_cores (c : Nat) : bitOf Partition.reset.cores c = false := by simp [bitOf, bit, Partition.reset]

theorem bitOf_reset_cbanks (k : Nat) : bitOf Partition.reset.cbanks k = false := by simp [bitOf, bit, Partition.reset]

/-- Every core that leaves for no other entry has no owner, is empty and IDLE. -/
theorem State.core_regrouped_reset (s : State) (p : Nat) (o : Partition) (small : c < 80) (named : bitOf o.cores c = true) :
    ((s.regrouped p o Partition.reset).core c).owner = none ∧ ((s.regrouped p o Partition.reset).core c).sp = [] ∧
      ((s.regrouped p o Partition.reset).core c).st = .idle := by
  have unnamed : ∀ c, bitOf Partition.reset.cores c = false := bitOf_reset_cores
  have joins : ((List.range 80).filter fun c => bitOf Partition.reset.cores c && !(decide ((s.core c).owner = some p))) = [] :=
    List.filter_eq_nil_iff.2 fun c _ => by simp [unnamed]
  have leaves : c ∈ (List.range 80).filter fun c => bitOf o.cores c && !bitOf Partition.reset.cores c :=
    List.mem_filter.2 ⟨List.mem_range.2 small, by rw [named, unnamed]; rfl⟩
  unfold State.regrouped
  rw [joins, List.foldl_nil]
  exact State.foldl_core_of_mem (P := fun k => k.owner = none ∧ k.sp = [] ∧ k.st = .idle) (fun s => s.core_freeCore_self c)
    (fun s d other => (s.freeCore_frame d).2.2 c other) _ s (.inl leaves)

/-- The entry that a change leaves its partition with, for its cores and banks. -/
def Change.entry (ch : PartChange) : Partition := if ch.deleting then Partition.reset else ch.target

/-- The state at the end of a change: cores and banks moved, the region re-keyed, the new entry written (R226, R229). -/
def State.changed (s : State) (p : PartId) (ch : PartChange) : State :=
  let o := s.hub.part p
  let t := Change.entry ch
  (((s.regrouped p o t).updHub fun h => (List.range 64).foldl (Hub.assignBank p t) h).updExt fun e =>
    e.setRegion p (if ch.deleting then [] else newRegion (e.regionOf p) o t)).updHub fun h =>
      { (h.setPart p (committed o ch.target ch.deleting)) with
        changes := (Sparse.erase h.changes p.val),
        tenants := (h.tenants.map fun e =>
          if t.tbase ≤ e.1 ∧ e.1 < t.tbase + t.tcount ∧ !(decide (o.tbase ≤ e.1) && decide (e.1 < o.tbase + o.tcount)) then
            (e.1, { e.2 with deficit := 0 }) else e).filter fun e => decide (e.2 ≠ Tenant.reset) }

theorem exec_partitionChangeComplete_of_ready {p : PartId} {ch : PartChange} (change : Sparse.find? s.hub.changes p.val = some ch)
    (ready : s.hub.changeReady p = true) :
    exec (.partitionChangeComplete p) s = .next ((s.changed p ch).event 1 (0x3000 + p.val) 8 0) := by
  show execPartitionChangeComplete p s = _
  unfold execPartitionChangeComplete
  rw [change]
  dsimp only
  rw [if_neg (by rw [ready]; decide)]
  rfl

theorem State.changed_effect (s : State) (p : PartId) (ch : PartChange) :
    let t := s.changed p ch
    t.hub.part p = committed (s.hub.part p) ch.target ch.deleting ∧ t.cores = (s.regrouped p (s.hub.part p) (Change.entry ch)).cores ∧
      (∀ k, t.hub.owner k = ((List.range 64).foldl (Hub.assignBank p (Change.entry ch)) s.hub).owner k) ∧
      Sparse.find? t.hub.changes p = none ∧
      t.ext.regionOf p = (if ch.deleting then [] else newRegion (s.ext.regionOf p) (s.hub.part p) (Change.entry ch)) := by
  intro t
  obtain ⟨hub, ext⟩ := s.regrouped_frame p (s.hub.part p) (Change.entry ch)
  have unfolded : t = s.changed p ch := rfl
  unfold State.changed at unfolded
  dsimp only at unfolded
  rw [unfolded]
  refine ⟨?_, rfl, fun k => ?_, Sparse.find?_erase_self _ _, ?_⟩
  · rw [State.updHub_hub]
    exact Sparse.get_set_self _ _ _ _
  · rw [State.updHub_hub, State.updExt_hub, State.updHub_hub, hub]
    rfl
  · show Sparse.get (Sparse.set _ [] p.val _) [] p.val = _
    rw [Sparse.get_set_self, State.updHub_ext, ext]

end

/-- Settles O40: each request by the branch its checks name; the end of a change over cores and banks one by one. -/
theorem partitionChanges : Obligations.PartitionChanges := by
  unfold Obligations.PartitionChanges
  intro s w p h o t
  refine ⟨fun free own allowed => ?create, fun active streams programs force => ?delete, fun active used => ?force, fun active own allowed => ?commit,
    fun other => if_pos other, fun own => ?discard, fun ch change ready => ⟨fun keeps => ?finish, fun deletes => ?free⟩, fun neither => ?waits⟩
  case create =>
    intro r
    have made : r = _ := State.actCreate_of_free free own allowed
    rw [made]
    refine ⟨rfl, ?_, ?_, Sparse.find?_insert_self _ _ _, Sparse.find?_erase_self _ _, rfl⟩
    · exact congrArg Partition.st (Hub.part_setPart_changing _ _ _ _)
    · exact congrArg Partition.keygen (Hub.part_setPart_changing _ _ _ _)
  case delete =>
    intro r
    have made : r = _ := State.actDelete_of_active active (.inr ⟨streams, programs⟩)
    have none_ : (s.hub.programs.filter fun g => g.part = p.val) = [] :=
      List.filter_eq_nil_iff.2 fun g member part => programs g member (of_decide_eq_true part)
    rw [none_, List.foldl_nil, show (s.hub.openStreams fun x => x.part = p.val) = [] from streams, List.foldl_nil] at made
    rw [made]
    exact ⟨rfl, congrArg Partition.st (Hub.part_setPart_changing _ _ _ _), ⟨_, Sparse.find?_insert_self _ _ _, rfl⟩, rfl⟩
  case force =>
    obtain ⟨g, member, part⟩ := used
    rw [State.actDelete_of_used active member part]
    refine ⟨rfl, ?_, ?_, State.programs_actDelete active⟩
    · dsimp only
      rw [(s.partResult_frame p dState).1]
      rfl
    · rw [State.actDelete_of_active active (.inl rfl)]
  case commit =>
    refine ⟨fun shares => ?_, fun more none_ => ?_, fun more some_ busy => ?_⟩
    · rw [State.actCommit_of_shares active own allowed shares]
      dsimp only
      rw [(State.partResult_frame _ _ _).1, Hub.part_setPart_self, State.updHub_hub, Hub.part_setPart_self]
      exact ⟨rfl, rfl, rfl, active⟩
    · rw [State.actCommit_of_unplaced active own allowed more none_]
      exact ⟨rfl, congrArg Partition.st (Hub.part_setPart_changing _ _ _ _), Sparse.find?_insert_self _ _ _⟩
    · rw [State.actCommit_of_busy active own allowed more some_ busy]
      dsimp only
      rw [(State.partResult_frame _ _ _).1, (State.partResult_frame _ _ _).2, Hub.part_setPart_self]
      exact ⟨rfl, rfl, active, rfl⟩
  case discard =>
    have made : s.actDiscard w p = (s.unstaged p, dOk) := if_neg (by rw [show s.hub.stagedByOther p w.slot = false from own]; decide)
    rw [made]
    exact ⟨rfl, Sparse.find?_erase_self _ _, rfl⟩
  case finish =>
    obtain ⟨entry, cores, owners, gone, -⟩ := s.changed_effect p ch
    have target : Change.entry ch = ch.target := if_neg (by rw [keeps]; decide)
    rw [target] at cores owners
    refine ⟨_, exec_partitionChangeComplete_of_ready change ready, ?_, fun c small named => ?_, fun k small named => ?_, ?_⟩
    · rw [State.event_hub, entry, keeps]
    · rw [State.core_congr ((State.event_cores _ _ _ _ _).trans cores)]
      exact s.owner_regrouped p o ch.target small named
    · rw [State.event_hub, owners]
      exact (Hub.owner_foldl_assignBank p ch.target k _ s.hub).1 named (.inl (List.mem_range.2 small))
    · rw [State.event_hub]
      exact gone
  case free =>
    obtain ⟨entry, cores, owners, -, region⟩ := s.changed_effect p ch
    have target : Change.entry ch = Partition.reset := if_pos deletes
    rw [target] at cores owners
    rw [deletes] at entry region
    refine ⟨_, exec_partitionChangeComplete_of_ready change ready, ?_, ?_, fun c small named => ?_, fun k small => ?_, ?_⟩
    · rw [State.event_hub, entry]
      rfl
    · rw [State.event_hub, entry]
      rfl
    · rw [State.core_congr ((State.event_cores _ _ _ _ _).trans cores)]
      exact s.core_regrouped_reset p o small named
    · rw [State.event_hub, owners]
      exact (Hub.owner_foldl_assignBank p Partition.reset k _ s.hub).2 (bitOf_reset_cbanks k) (.inl (List.mem_range.2 small))
    · rw [State.event_ext]
      exact region
  case waits =>
    show execPartitionChangeComplete p s = _
    unfold execPartitionChangeComplete
    rcases neither with none_ | waits
    · rw [show Sparse.find? s.hub.changes p.val = none from none_]
    · split
      · rfl
      · rw [if_pos waits]

end Sys2Proof.Machine

/-! PROOFS. Rebinding a program to other cores (R230 to R236, R345, Table 10.3). -/

namespace Sys2Proof.Machine

section

variable {s : State} {h : Hub} {g : Program} {r : Rebind} {prog : Nat} {b ls : List Nat}

/-- The programs and the rebindings under way. -/
def Hub.bindings (h : Hub) : List Program × List Rebind := (h.programs, h.rebinds)

/-! ### What the arbiter and the moves leave of them -/

theorem State.markTest_frame (s : State) (o : MaintOp) (on : Bool) : (s.markTest o on).hub = s.hub ∧ (s.markTest o on).cores = s.cores ∧
    (s.markTest o on).ext = s.ext ∧ (s.markTest o on).dies = s.dies ∧ (s.markTest o on).power = s.power := by
  unfold State.markTest
  split
  · have kept := foldl_view (view := fun s : State => (s.hub, s.cores, s.ext, s.dies, s.power)) (f := fun s c =>
      o.units.foldl (fun s m => s.updMac c m fun k => { k with underTest := on }) s)
      (fun s c => foldl_view (view := fun s : State => (s.hub, s.cores, s.ext, s.dies, s.power)) (by intro s m; rfl) _ _) o.cores s
    exact ⟨congrArg (fun x => x.1) kept, congrArg (fun x => x.2.1) kept, congrArg (fun x => x.2.2.1) kept, congrArg (fun x => x.2.2.2.1) kept,
      congrArg (fun x => x.2.2.2.2) kept⟩
  · exact ⟨rfl, rfl, rfl, rfl, rfl⟩

theorem State.beginOp_frame (s : State) (o : MaintOp) : (s.beginOp o).hub = s.hub ∧ (s.beginOp o).cores = s.cores :=
  ⟨(State.markTest_frame _ _ _).1, (State.markTest_frame _ _ _).2.1⟩

theorem State.hub_endOps (s : State) (p : MaintOp → Bool) : (s.endOps p).hub = s.hub := by
  unfold State.endOps
  dsimp only
  refine (foldl_view (view := State.hub) (fun s o => ?_) _ _).trans ?_
  · split
    · rfl
    · exact (State.beginOp_frame _ _).1
  · exact foldl_view (view := State.hub) (fun s o => (s.markTest_frame o false).1) _ _

theorem State.hub_moveMacro (s0 s : State) (c m c2 m2 : Nat) : (State.moveMacro s0 s c m c2 m2).hub = s.hub := by
  unfold State.moveMacro
  generalize List.range 2064 = rows
  dsimp only
  rw [updMac_hub]
  exact foldl_view (view := State.hub) (by intro s r; rfl) _ _

theorem State.hub_reloadMacro (s0 s : State) (w : MacroImage) (c m c2 m2 : Nat) : (State.reloadMacro s0 s w c m c2 m2).hub = s.hub := by
  unfold State.reloadMacro
  generalize List.range 2064 = rows
  dsimp only
  rw [updMac_hub]
  exact foldl_view (view := State.hub) (by intro s r; rfl) _ _

theorem State.hub_moveMacros (s0 s : State) (g : Program) (l c c2 : Nat) (reload : Bool) :
    (State.moveMacros s0 s g l c c2 reload).hub = s.hub := by
  refine foldl_view (view := State.hub) (fun s w => ?_) _ s
  dsimp only
  split
  · exact State.hub_reloadMacro _ _ _ _ _ _ _
  · split
    · exact State.hub_moveMacro _ _ _ _ _ _
    · rfl

theorem State.hub_vacate (s : State) (c : Nat) : (s.vacate c).hub = s.hub := by
  obtain ⟨-, hub, -⟩ := s.offlineCore_frame c
  unfold State.vacate
  rw [updCore_hub, hub]

theorem Hub.bindings_rewriteMerges (h : Hub) (p : Nat) (moves : List (Nat × Nat)) : (h.rewriteMerges p moves).bindings = h.bindings := by
  have put (bs : List Byte) : ∀ (h : Hub) (o : Nat), (h.commonsPut p o bs).bindings = h.bindings := by
    induction bs with
    | nil => exact fun _ _ => rfl
    | cons b bs ih => exact fun h o => ih _ _
  refine foldl_view (view := Hub.bindings) (fun h off => ?_) _ h
  split
  · refine foldl_view (view := Hub.bindings) (fun h d => ?_) _ h
    split
    · exact put _ h _
    · rfl
  · rfl

theorem State.bindings_applyMoves (s : State) (g : Program) (moves : List (Nat × Nat)) (held : Bool) :
    (s.applyMoves g moves held).hub.bindings = s.hub.bindings := by
  unfold State.applyMoves
  dsimp only
  rw [State.updHub_hub]
  refine (Hub.bindings_rewriteMerges _ _ _).trans (congrArg Hub.bindings ?_)
  rw [foldl_view (view := State.hub) State.hub_vacate, State.hub_loadWindows, foldl_view (view := State.hub) (by intro s c; rfl)]
  refine (foldl_view (view := State.hub) (fun s l => ?move) _ _).trans ((foldl_view (view := State.hub) (fun s l => ?load) _ _).trans
    ((foldl_view (view := State.hub) (fun s m => ?copy) _ _).trans (foldl_view (view := State.hub) (fun s m => ?off) _ _)))
  case move =>
    split
    · split
      · rfl
      · exact State.hub_moveMacros _ _ _ _ _ _ _
    · rfl
  case load =>
    split
    · split
      · rfl
      · split
        · rw [State.hub_loadRest, State.hub_loadCore]
          rfl
        · exact State.hub_bindMacros _ _
    · rfl
  case copy => split <;> rfl
  case off => rw [(State.offlineCore_frame _ _).2.1, (State.offlineCore_frame _ _).2.1]

theorem State.bindings_movedSwaps (s : State) (moves : List (Nat × Nat)) : (s.movedSwaps moves).hub.bindings = s.hub.bindings := by
  unfold State.movedSwaps
  dsimp only
  rw [State.updHub_hub]
  show Hub.bindings (State.hub _) = _
  refine congrArg Hub.bindings (foldl_view (view := State.hub) ?_ _ s)
  intro s m
  split <;> rfl

theorem State.hub_releaseCore (s : State) (c : Nat) : (s.releaseCore c).hub = s.hub := by
  unfold State.releaseCore
  split <;> rfl

theorem State.bindings_releaseStream (s : State) (n : Nat) : (s.releaseStream n).hub.bindings = s.hub.bindings := by
  unfold State.releaseStream State.nextQueued
  dsimp only
  split
  · split <;> rfl
  · rfl

theorem State.bindings_journalDev (s : State) (code : Byte) (sk si : Nat) (d : W64) : (s.journalDev code sk si d).hub.bindings = s.hub.bindings := by
  rw [State.journalDev, State.hub_journal]
  rfl

theorem State.bindings_partResult (s : State) (p v : Nat) : (s.partResult p v).hub.bindings = s.hub.bindings := by
  rw [(s.partResult_frame p v).1]
  rfl

theorem Hub.prog_of_bindings {h h' : Hub} (same : h.bindings = h'.bindings) (n : Nat) : h.prog n = h'.prog n :=
  Hub.prog_congr (congrArg Prod.fst same) n

theorem Hub.rebindOf_of_bindings {h h' : Hub} (same : h.bindings = h'.bindings) (n : Nat) : h.rebindOf n = h'.rebindOf n :=
  congrArg (List.find? _) (congrArg Prod.snd same)

/-! ### Start -/

theorem State.enterRebind_effect (s : State) (found : s.hub.prog prog = some g) (idle : s.hub.rebindOf prog = none) (b : List Nat) (recover result : Bool) :
    ∃ r x, (s.enterRebind g b recover result).hub.rebindOf prog = some r ∧ r.moves = g.lcores.zip b ∧ r.holding = false ∧
      (s.enterRebind g b recover result).hub.prog prog = some x ∧ x.st = .rebinding ∧
      (s.enterRebind g b recover result).cores = s.cores ∧ (s.enterRebind g b recover result).hub.streams = s.hub.streams := by
  obtain ⟨hub, cores⟩ := s.beginOp_frame (rebindOp g b)
  have handle := Hub.handle_of_prog found
  have isNone : s.hub.rebinds.find? (fun r => r.prog = prog) = none := idle
  unfold State.enterRebind
  rw [State.updHub_hub, State.updHub_cores, hub, handle]
  refine ⟨⟨prog, g.part, g.lcores.zip b, false, recover, result⟩, { g with st := .rebinding }, ?_, rfl, rfl, ?_, rfl, cores, rfl⟩
  · show List.find? _ (s.hub.rebinds ++ [_]) = _
    rw [List.find?_append, isNone]
    simp
  · refine (Hub.prog_congr (h' := s.hub.updProg prog fun x => { x with st := .rebinding }) rfl prog).trans ?_
    rw [Hub.prog_updProg_self, found]
    · rfl
    · exact fun _ => rfl

theorem exec_rebindStart (found : s.hub.prog prog = some g) : exec (.rebindStart prog ls) s = .next (s.startRebind g ls) := by
  show execRebindStart prog ls s = _
  unfold execRebindStart
  rw [found]

section

variable (ready : g.st = .ready ∨ g.st = .held) (bound : g.lcores ≠ [])

include ready bound

theorem State.startRebind_bound (target : s.newBinding g ls [] = some b) (free : s.maint.blocker (rebindOp g b) = none) :
    s.startRebind g ls = s.enterRebind g b (decide (g.st = .held)) false := by
  unfold State.startRebind
  rw [if_neg (by tauto), target]
  dsimp only
  rw [free]

theorem State.startRebind_blocked (target : s.newBinding g ls [] = some b) {op : MaintOp} (busy : s.maint.blocker (rebindOp g b) = some op) :
    s.startRebind g ls = s.maintRefused .rebinding op.kind := by
  unfold State.startRebind
  rw [if_neg (by tauto), target]
  dsimp only
  rw [busy]

theorem State.startRebind_noroom (full : s.newBinding g ls [] = none) :
    s.startRebind g ls = if ls.any (fun l => decide (g.lcores.getD l 0 ∈ s.maint.excluded)) then s.parkProgram g
      else s.journalDev 0xB1 2 g.handle (BitVec.ofNat 64 g.part) := by
  unfold State.startRebind
  rw [if_neg (by tauto), full]

end

/-- A program without room is held, its idle and ready streams with it, and one record says so (R236). -/
theorem State.parkProgram_effect (found : s.hub.prog prog = some g) : ∃ x, (s.parkProgram g).hub.prog prog = some x ∧ x.st = .held ∧
    (s.parkProgram g).hub.seq = s.hub.seq + 1 ∧ ∀ n, (s.hub.stream n).prog = prog → (s.hub.stream n).st = 1 ∨ (s.hub.stream n).st = 2 →
      ((s.parkProgram g).hub.stream n).st = 4 := by
  have handle := Hub.handle_of_prog found
  unfold State.parkProgram
  rw [handle]
  generalize held : s.updHub (fun h => h.updProg prog fun x => { x with st := .held }) = s1
  have streams : s1.hub.streams = s.hub.streams := by rw [← held]; rfl
  have seq : s1.hub.seq = s.hub.seq := by rw [← held]; rfl
  have now : s1.hub.prog prog = some { g with st := .held } := by
    rw [← held, State.updHub_hub, Hub.prog_updProg_self, found]
    · rfl
    · exact fun _ => rfl
  obtain ⟨-, next, kept⟩ := (s1.holdProg prog).journalDev_tables 0xB1 2 prog (BitVec.ofNat 64 g.part)
  obtain ⟨m, frame⟩ := s1.holdProg_frame prog
  refine ⟨_, (Hub.prog_of_bindings ((State.bindings_journalDev _ _ _ _ _).trans ?_) prog).trans now, rfl, ?_, fun n bound open_ => ?_⟩
  · rw [frame]
    rfl
  · rw [next, frame]
    exact congrArg (· + 1) seq
  · rw [Hub.stream_congr kept]
    have same := Hub.stream_congr streams n
    refine Hub.st_foldl_hold _ n s1.hub (.inr ⟨Hub.mem_openStreams ?_ (decide_eq_true ?_), ?_⟩)
    · rw [same]
      omega
    · rw [same]
      exact bound
    · rw [same]
      exact open_

theorem State.maintRefused_effect (s : State) (a r : MaintKind) : (s.maintRefused a r).maint.refused = s.maint.refused + 1 ∧
    (s.maintRefused a r).hub.bindings = s.hub.bindings := by
  unfold State.maintRefused
  refine ⟨?_, (State.bindings_journalDev _ _ _ _ _).trans rfl⟩
  rw [journalDev_maint]
  rfl

/-! ### Hold -/

theorem exec_rebindHoldTimeout (rebinding : s.hub.rebindOf prog = some r) (found : s.hub.prog prog = some g) (plain : r.recover = false) :
    exec (.rebindHoldTimeout prog) s = .next (if s.hub.runs prog = true ∧ s.hub.rebindLocked r.part = true then
      (g.lcores.foldl (fun s c => s.updCore c CoreState.hold) s).updHub fun h =>
        { h with rebinds := h.rebinds.map fun x => if x.prog = prog then { x with holding := true } else x } else s) := by
  show execRebindHoldTimeout prog s = _
  unfold execRebindHoldTimeout
  rw [rebinding, found]
  simp only [plain, true_and]

theorem Hub.rebindOf_map {f : Rebind → Rebind} (keeps : ∀ x, (f x).prog = x.prog) (n : Nat) : ∀ rs : List Rebind,
    (rs.map fun x => if x.prog = n then f x else x).find? (fun x => decide (x.prog = n)) = (rs.find? fun x => decide (x.prog = n)).map f := by
  intro rs
  induction rs with
  | nil => rfl
  | cons x xs ih =>
    by_cases here : x.prog = n
    · rw [List.map_cons, if_pos here, List.find?_cons_of_pos (by simp [keeps, here]), List.find?_cons_of_pos (by simp [here])]
      rfl
    · rw [List.map_cons, if_neg here, List.find?_cons_of_neg (by simp [here]), List.find?_cons_of_neg (by simp [here])]
      exact ih

theorem CoreState.hold_st {k : CoreState} (either : k.st = .run ∨ k.st = .held) : k.hold.st = .held := by
  unfold CoreState.hold
  rcases either with runs | held
  · rw [runs]
  · rw [held]
    exact held

/-- Of the cores held one after the other, each that runs is held, and no other core is touched. -/
theorem State.holdCores_effect (cs : List Nat) (c : Nat) : ∀ s : State,
    ((s.core c).st = .held ∨ (c ∈ cs ∧ (s.core c).st = .run) → ((cs.foldl (fun s c => s.updCore c CoreState.hold) s).core c).st = .held) ∧
    (c ∉ cs → (cs.foldl (fun s c => s.updCore c CoreState.hold) s).core c = s.core c) := by
  induction cs with
  | nil => exact fun s => ⟨fun either => either.elim id fun both => absurd both.1 List.not_mem_nil, fun _ => rfl⟩
  | cons d ds ih =>
    intro s
    rw [List.foldl_cons]
    by_cases here : c = d
    · subst here
      refine ⟨fun either => (ih _).1 (.inl ?_), fun out => absurd List.mem_cons_self out⟩
      rw [State.core_updCore_self]
      exact CoreState.hold_st (either.elim .inr fun both => .inl both.2)
    · have same : (s.updCore d CoreState.hold).core c = s.core c := State.core_updCore_ne _ _ here
      obtain ⟨held, other⟩ := ih (s.updCore d CoreState.hold)
      rw [same] at held other
      exact ⟨fun either => held (either.imp_right fun both => ⟨(List.mem_cons.1 both.1).resolve_left here, both.2⟩),
        fun out => other fun member => out (List.mem_cons_of_mem _ member)⟩

theorem rebindHoldTimeout_effect (rebinding : s.hub.rebindOf prog = some r) (found : s.hub.prog prog = some g) (plain : r.recover = false)
    (running : s.hub.runs prog = true) (lock : s.hub.rebindLocked r.part = true) :
    ∃ t r', exec (.rebindHoldTimeout prog) s = .next t ∧ t.hub.rebindOf prog = some r' ∧ r'.holding = true ∧
      (∀ c ∈ g.lcores, (s.core c).st = .run → (t.core c).st = .held) ∧ ∀ c, c ∉ g.lcores → t.core c = s.core c := by
  rw [exec_rebindHoldTimeout rebinding found plain, if_pos ⟨running, lock⟩]
  have hub : (g.lcores.foldl (fun s c => s.updCore c CoreState.hold) s).hub = s.hub := foldl_view (view := State.hub) (by intro s c; rfl) _ _
  refine ⟨_, { r with holding := true }, rfl, ?_, rfl, fun c member runs => (State.holdCores_effect g.lcores c s).1 (.inr ⟨member, runs⟩),
    fun c out => (State.holdCores_effect g.lcores c s).2 out⟩
  rw [State.updHub_hub, hub]
  refine (Hub.rebindOf_map (f := fun x => { x with holding := true }) (fun _ => rfl) prog s.hub.rebinds).trans ?_
  exact congrArg (Option.map _) rebinding

/-! ### The copy -/

/-- A rebinding that is over is found no longer. -/
theorem Hub.rebindOf_filter (h : Hub) (n : Nat) : ({ h with rebinds := h.rebinds.filter fun x => decide (x.prog ≠ n) } : Hub).rebindOf n = none := by
  refine List.find?_eq_none.2 fun x member => ?_
  have := (List.mem_filter.1 member).2
  simpa using this

/-- The state in which a rebinding is over and the arbiter keeps its cores no longer. -/
def State.rebindOver (s : State) (g : Program) (prog : Nat) : State :=
  (s.endOps (rebindOpOf g)).updHub fun h => { h with rebinds := h.rebinds.filter fun x => decide (x.prog ≠ prog) }

theorem State.rebindOver_effect (found : s.hub.prog prog = some g) : (s.rebindOver g prog).hub.prog prog = some g ∧
    (s.rebindOver g prog).hub.rebindOf prog = none := by
  unfold State.rebindOver
  rw [State.updHub_hub, State.hub_endOps]
  exact ⟨(Hub.prog_congr rfl prog).trans found, Hub.rebindOf_filter s.hub prog⟩

section

variable (rebinding : s.hub.rebindOf prog = some r) (found : s.hub.prog prog = some g)

include rebinding found

theorem exec_rebindCopyDone_of_not_ready (waits : s.copyReady r g = false) : exec (.rebindCopyDone prog) s = .next s := by
  show execRebindCopyDone prog s = _
  unfold execRebindCopyDone
  rw [rebinding, found]
  dsimp only
  rw [if_pos waits]

theorem exec_rebindCopyDone_of_gone (ready : s.copyReady r g = true) (gone : ∃ m ∈ r.moves, (s.die (coreDie m.1)).gone = true)
    (copies : s.manifestGone r.part = true) : exec (.rebindCopyDone prog) s =
      .next ((((s.rebindOver g prog).updHub fun h => h.updProg prog fun x => { x with st := .held }).holdProg prog).journalDev 0xAF 2 prog
        (BitVec.ofNat 64 r.part)) := by
  show execRebindCopyDone prog s = _
  unfold execRebindCopyDone
  rw [rebinding, found]
  dsimp only
  simp only [State.manifestGone, Bool.and_eq_true, decide_eq_true_eq] at copies
  rw [if_neg (by rw [ready]; decide), if_pos ⟨List.any_eq_true.2 gone, copies⟩]
  rfl

/-- What follows the moves themselves (R232 step 8). -/
def State.rebindSettled (s : State) (r : Rebind) (prog : Nat) (held : Bool) : State :=
  let s2 := s.updHub fun h => h.updProg prog fun x => { x with st := .ready, lcores := r.moves.map (·.2) }
  let s3 := (if held then (r.moves.map (·.2)).foldl State.releaseCore s2 else s2).startWaiting r.part
  let s4 := if r.recover then s3.releaseProg prog else s3
  let s5 := s4.journalDev 0xAE 2 prog (BitVec.ofNat 64 r.part)
  if r.result then s5.partResult r.part 1 else s5

theorem exec_rebindCopyDone_of_sound (ready : s.copyReady r g = true)
    (sound : (∀ m ∈ r.moves, (s.die (coreDie m.1)).gone = false) ∨ s.manifestGone r.part = false) : exec (.rebindCopyDone prog) s =
      .next ((((s.rebindOver g prog).applyMoves g r.moves (r.holding && s.hub.runs prog)).movedSwaps r.moves).rebindSettled r prog
        (r.holding && s.hub.runs prog)) := by
  show execRebindCopyDone prog s = _
  unfold execRebindCopyDone
  rw [rebinding, found]
  dsimp only
  rw [if_neg (by rw [ready]; decide), if_neg]
  · rfl
  · rintro ⟨gone, a, b⟩
    rcases sound with alive | kept
    · obtain ⟨m, member, lost⟩ := List.any_eq_true.1 gone
      rw [alive m member] at lost
      exact absurd lost (by decide)
    · simp [State.manifestGone, a, b] at kept

end

theorem State.bindings_rebindSettled (s : State) (r : Rebind) (prog : Nat) (held : Bool) : (s.rebindSettled r prog held).hub.bindings =
    (s.hub.updProg prog fun x => { x with st := .ready, lcores := r.moves.map (·.2) }).bindings := by
  unfold State.rebindSettled
  dsimp only
  generalize moved : s.updHub (fun h => h.updProg prog fun x => { x with st := .ready, lcores := r.moves.map (·.2) }) = s2
  have base : s2.hub.bindings = (s.hub.updProg prog fun x => { x with st := .ready, lcores := r.moves.map (·.2) }).bindings := by rw [← moved]; rfl
  have released : ((if held then (r.moves.map (·.2)).foldl State.releaseCore s2 else s2).startWaiting r.part).hub.bindings = s2.hub.bindings := by
    refine Eq.trans (b := (if held then (r.moves.map (·.2)).foldl State.releaseCore s2 else s2).hub.bindings) rfl (congrArg Hub.bindings ?_)
    split
    · exact foldl_view (view := State.hub) State.hub_releaseCore _ _
    · rfl
  have resumed : ∀ s : State, (if r.recover then s.releaseProg prog else s).hub.bindings = s.hub.bindings := by
    intro s
    split
    · exact foldl_view (view := fun s : State => s.hub.bindings) State.bindings_releaseStream _ s
    · rfl
  split
  · rw [State.bindings_partResult, State.bindings_journalDev, resumed, released, base]
  · rw [State.bindings_journalDev, resumed, released, base]

theorem rebindCopyDone_effect (rebinding : s.hub.rebindOf prog = some r) (found : s.hub.prog prog = some g) (ready : s.copyReady r g = true)
    (sound : (∀ m ∈ r.moves, (s.die (coreDie m.1)).gone = false) ∨ s.manifestGone r.part = false) :
    ∃ t x, exec (.rebindCopyDone prog) s = .next t ∧ t.hub.prog prog = some x ∧ x.st = .ready ∧
      x.lcores = r.moves.map (fun m => m.2) ∧ x.img = g.img ∧ t.hub.rebindOf prog = none := by
  obtain ⟨still, over_⟩ := State.rebindOver_effect found
  generalize held : (r.holding && s.hub.runs prog) = hold
  have settled := exec_rebindCopyDone_of_sound rebinding found ready sound
  rw [held] at settled
  generalize moved : ((s.rebindOver g prog).applyMoves g r.moves hold).movedSwaps r.moves = s1 at settled
  have base : s1.hub.bindings = (s.rebindOver g prog).hub.bindings := by
    rw [← moved, State.bindings_movedSwaps, State.bindings_applyMoves]
  have tables := s1.bindings_rebindSettled r prog hold
  refine ⟨_, { g with st := .ready, lcores := r.moves.map (·.2) }, settled, ?_, rfl, rfl, rfl, ?_⟩
  · rw [Hub.prog_of_bindings tables, Hub.prog_updProg_self, Hub.prog_of_bindings base, still]
    · rfl
    · exact fun _ => rfl
  · rw [Hub.rebindOf_of_bindings tables]
    exact (Hub.rebindOf_of_bindings base prog).trans over_

theorem rebindCopyDone_lost (rebinding : s.hub.rebindOf prog = some r) (found : s.hub.prog prog = some g) (ready : s.copyReady r g = true)
    (gone : ∃ m ∈ r.moves, (s.die (coreDie m.1)).gone = true) (copies : s.manifestGone r.part = true) :
    ∃ t x, exec (.rebindCopyDone prog) s = .next t ∧ t.hub.prog prog = some x ∧ x.st = .held ∧ x.lcores = g.lcores ∧
      t.hub.rebindOf prog = none := by
  obtain ⟨still, over_⟩ := State.rebindOver_effect found
  refine ⟨_, { g with st := .held }, exec_rebindCopyDone_of_gone rebinding found ready gone copies, ?_, rfl, rfl, ?_⟩
  all_goals
    obtain ⟨m, frame⟩ := ((s.rebindOver g prog).updHub fun h => h.updProg prog fun x => { x with st := .held }).holdProg_frame prog
    rw [frame]
  · rw [Hub.prog_of_bindings (State.bindings_journalDev _ _ _ _ _)]
    refine (Hub.prog_congr (h' := (s.rebindOver g prog).hub.updProg prog fun x => { x with st := .held }) rfl prog).trans ?_
    rw [Hub.prog_updProg_self, still]
    · rfl
    · exact fun _ => rfl
  · rw [Hub.rebindOf_of_bindings (State.bindings_journalDev _ _ _ _ _)]
    exact over_

theorem moveCore_effect (held : Bool) (src dst : CoreState) :
    let k := moveCore held src dst
    k.x = src.x ∧ k.flags = src.flags ∧ k.ac = src.ac ∧ k.acexp = src.acexp ∧ k.rtok = src.rtok ∧ k.ib0 = src.ib0 ∧ k.ib1 = src.ib1 ∧
      k.owner = src.owner ∧ k.ahHeld = src.ahHeld ∧ k.spareCopy = dst.spareCopy ∧ (held = false → k.st = .idle) ∧
      (held = true → k.st = src.st ∧ k.pc = src.pc) := by
  cases held
  · exact ⟨rfl, rfl, rfl, rfl, rfl, rfl, rfl, rfl, rfl, rfl, fun _ => rfl, fun h => absurd h (by decide)⟩
  · exact ⟨rfl, rfl, rfl, rfl, rfl, rfl, rfl, rfl, rfl, rfl, fun h => absurd h (by decide), fun _ => ⟨rfl, rfl⟩⟩

end

/-- Settles O41: a start either enters a rebinding, is refused, or parks the program; the hold and the copy keep the tables but for the
program's entry and the rebinding itself. -/
theorem rebinding : Obligations.Rebinding := by
  unfold Obligations.Rebinding
  refine ⟨fun s prog ls g found st bound idle => ⟨fun b target => ⟨fun free => ?_, fun op busy => ?_⟩, fun full => ⟨fun stays => ?_, fun leaves => ?_⟩⟩,
    fun s prog r g rebinding found plain => ⟨fun waits => ?_, rebindHoldTimeout_effect rebinding found plain,
      exec_rebindCopyDone_of_not_ready rebinding found, rebindCopyDone_effect rebinding found, rebindCopyDone_lost rebinding found⟩,
    moveCore_effect⟩
  · obtain ⟨r, x, effect⟩ := s.enterRebind_effect found idle b (decide (g.st = .held)) false
    exact ⟨_, r, x, (exec_rebindStart found).trans (congrArg Host.Outcome.next (State.startRebind_bound st bound target free)), effect⟩
  · obtain ⟨count, tables⟩ := s.maintRefused_effect .rebinding op.kind
    exact ⟨_, (exec_rebindStart found).trans (congrArg Host.Outcome.next (State.startRebind_blocked st bound target busy)), count,
      congrArg Prod.fst tables, congrArg Prod.snd tables⟩
  · rw [exec_rebindStart found, State.startRebind_noroom st bound full, if_neg]
    rw [List.any_eq_true]
    rintro ⟨l, member, out⟩
    exact stays l member (of_decide_eq_true out)
  · obtain ⟨l, member, out⟩ := leaves
    obtain ⟨x, effect⟩ := State.parkProgram_effect found
    refine ⟨_, x, (exec_rebindStart found).trans (congrArg Host.Outcome.next ((State.startRebind_noroom st bound full).trans (if_pos ?_))), effect⟩
    exact List.any_eq_true.2 ⟨l, member, decide_eq_true out⟩
  · rw [exec_rebindHoldTimeout rebinding found plain, if_neg]
    rintro ⟨running, lock⟩
    rcases waits with still | open_
    · rw [still] at running
      exact absurd running (by decide)
    · rw [open_] at lock
      exact absurd lock (by decide)

end Sys2Proof.Machine

/-! PROOFS. What flits leave: everything but the links' own state and the free choices (R302 to R311). -/

namespace Sys2Proof.Machine

section

variable {s : State}

/-- The state apart from the links and the free choices. -/
def State.linkless (s : State) : State := { s with kraox := Kraox.reset, free := 0 }

@[simp] theorem State.port_setPort_self (s : State) (p : Nat) (x : Port) : (s.setPort p x).port p = x := Sparse.get_set_self _ _ _ _

theorem State.port_setPort_ne (s : State) {p q : Nat} (x : Port) (apart : q ≠ p) : (s.setPort p x).port q = s.port q :=
  Sparse.get_set_ne _ _ _ _ apart

@[simp] theorem State.port_updPort_self (s : State) (p : Nat) (f : Port → Port) : (s.updPort p f).port p = f (s.port p) :=
  s.port_setPort_self p _

theorem State.port_updPort_ne (s : State) {p q : Nat} (f : Port → Port) (apart : q ≠ p) : (s.updPort p f).port q = s.port q :=
  s.port_setPort_ne _ apart

theorem State.linkless_updPort (s : State) (p : Nat) (f : Port → Port) : (s.updPort p f).linkless = s.linkless := rfl

theorem State.linkless_setPort (s : State) (p : Nat) (x : Port) : (s.setPort p x).linkless = s.linkless := rfl

theorem State.linkless_countDiscard (s : State) : s.countDiscard.linkless = s.linkless := rfl

theorem State.linkless_pumpGo (p : Nat) (ws : List WaitFlit) : ∀ s : State, (s.pumpGo p ws).linkless = s.linkless := by
  induction ws with
  | nil => exact fun _ => rfl
  | cons w ws ih =>
    intro s
    rw [State.pumpGo.eq_def]
    dsimp only
    split
    · split
      · exact ih _
      · exact ih _
    · exact ih s

theorem State.linkless_pump (s : State) (p : Nat) : (s.pump p).linkless = s.linkless := State.linkless_pumpGo p _ s

theorem State.linkless_queueFlit (s : State) (f : Flit) (o : Option (Nat × Nat)) : (s.queueFlit f o).1.linkless = s.linkless := by
  unfold State.queueFlit
  split
  · rfl
  · split
    · rfl
    · exact State.linkless_pump _ _

/-- A flit without a next hop is counted or answered. -/
def State.withoutHop (s u : State) (f : Flit) : State :=
  if (f.op = 1 ∨ f.op = 3) ∧ s.inExtent f.dst.toNat ∧ f.src.toNat ≠ s.devId then
    match u.queueFlit (unreachable f s.devId) none with
    | (s3, true) => s3
    | (s3, false) => s3.countDiscard
  else u.countDiscard

theorem State.linkless_withoutHop (s u : State) (f : Flit) : (s.withoutHop u f).linkless = u.linkless := by
  have answered := u.linkless_queueFlit (unreachable f s.devId) none
  unfold State.withoutHop
  split
  · split
    · next v e => exact (congrArg (fun x : State × Bool => x.1.linkless) e).symm.trans answered
    · next v e => exact (congrArg (fun x : State × Bool => x.1.linkless) e).symm.trans answered
  · rfl

theorem State.linkless_dispatchFlit (s : State) (f : Flit) (o : Option (Nat × Nat)) : (s.dispatchFlit f o).linkless = s.linkless := by
  have queued := s.linkless_queueFlit f o
  unfold State.dispatchFlit
  split
  · next t e => exact (congrArg (fun x : State × Bool => x.1.linkless) e).symm.trans queued
  · next t e =>
    have first : t.linkless = s.linkless := (congrArg (fun x : State × Bool => x.1.linkless) e).symm.trans queued
    cases o with
    | none => exact (s.linkless_withoutHop t f).trans first
    | some back => exact (s.linkless_withoutHop (t.updPort back.1 fun y => y.giveCredit back.2) f).trans first

theorem State.linkless_sendTree (s : State) (vc : BitVec 2) (op : Byte) (tos : List Nat) (msg : W64) (payload : List Byte) :
    (s.sendTree vc op tos msg payload).linkless = s.linkless :=
  foldl_view (view := State.linkless) (fun s _ => State.linkless_dispatchFlit s _ none) _ s

theorem State.linkless_reroute (s : State) (p : Nat) : (s.reroute p).linkless = s.linkless := by
  unfold State.reroute
  split
  · rfl
  · exact foldl_view (view := State.linkless) (fun s w => State.linkless_dispatchFlit s _ _) _ _

/-- What is read of two states that differ in the links alone. -/
theorem State.hub_of_linkless {a b : State} (same : a.linkless = b.linkless) : a.hub = b.hub :=
  show a.linkless.hub = b.linkless.hub by rw [same]
theorem State.cores_of_linkless {a b : State} (same : a.linkless = b.linkless) : a.cores = b.cores :=
  show a.linkless.cores = b.linkless.cores by rw [same]
theorem State.dies_of_linkless {a b : State} (same : a.linkless = b.linkless) : a.dies = b.dies :=
  show a.linkless.dies = b.linkless.dies by rw [same]
theorem State.power_of_linkless {a b : State} (same : a.linkless = b.linkless) : a.power = b.power :=
  show a.linkless.power = b.linkless.power by rw [same]

end

end Sys2Proof.Machine

/-! PROOFS. Dies, their loss, and the watchdogs (R237, R238, R243, R247, R396). -/

namespace Sys2Proof.Machine

section

variable {s : State}

/-- The cores, the dies, the tables that say whose the cores are, and the package's power. -/
def State.bodies (s : State) : Sparse CoreState × Sparse DieState × Sparse Partition × List Program × List Rebind × Power :=
  (s.cores, s.dies, s.hub.parts, s.hub.programs, s.hub.rebinds, s.power)

/-! ### What the loss of a die's interfaces leaves of them -/

theorem State.bodies_of_linkless {a b : State} (same : a.linkless = b.linkless) : a.bodies = b.bodies := by
  unfold State.bodies
  rw [State.cores_of_linkless same, State.dies_of_linkless same, State.hub_of_linkless same, State.power_of_linkless same]

theorem State.bodies_updHost (s : State) (p : Nat) (f : HostPort → HostPort) : (s.updHost p f).bodies = s.bodies := rfl

theorem State.bodies_updPort (s : State) (p : Nat) (f : Port → Port) : (s.updPort p f).bodies = s.bodies := rfl

theorem State.bodies_journalDev (s : State) (code : Byte) (sk si : Nat) (d : W64) : (s.journalDev code sk si d).bodies = s.bodies := by
  unfold State.bodies
  rw [State.journalDev_cores, State.journalDev_dies, State.journalDev_power, State.journalDev, State.hub_journal]

theorem State.bodies_attend (s : State) (p b : Nat) : (s.attend p b).bodies = s.bodies := by
  obtain ⟨_, same⟩ := s.attend_frame p b
  rw [same]
  rfl

theorem State.bodies_mediaEvent (s : State) (p k : Nat) : (s.mediaEvent p k).bodies = s.bodies := State.bodies_attend _ _ _

theorem State.bodies_post (s : State) (w : CqWait) : (s.post w).bodies = s.bodies := by
  obtain ⟨_, _, _, _, _, _, same⟩ := s.post_frame w
  rw [same]
  rfl

theorem State.bodies_endRequest (s : State) (n status : Nat) (detail : W32) (spec : Bool) :
    (s.endRequest n status detail spec).bodies = s.bodies := by
  unfold State.endRequest
  dsimp only
  split
  · rfl
  · exact State.bodies_post _ _

theorem State.bodies_endQueued (s : State) (n status : Nat) : (s.endQueued n status).bodies = s.bodies := by
  unfold State.endQueued
  refine foldl_view (view := State.bodies) (fun s x => ?_) _ s
  split
  · exact State.bodies_post _ _
  · rfl

theorem State.bodies_nextQueued (s : State) (n : Nat) : (s.nextQueued n).bodies = s.bodies := by
  unfold State.nextQueued
  dsimp only
  split
  · split <;> rfl
  · rfl

theorem State.bodies_stopStream (s : State) (n : Nat) : (s.stopStream n).bodies = s.bodies := by
  unfold State.stopStream
  dsimp only
  split
  · exact (State.bodies_nextQueued _ _).trans (s.bodies_endRequest _ _ _ _)
  · split
    · rfl
    · split
      · refine Eq.trans (b := ((if (s.hub.stream n).outstanding then s.endRequest n 8 0 false else s).endQueued n 8).bodies) rfl ?_
        refine (State.bodies_endQueued _ _ _).trans ?_
        split
        · exact s.bodies_endRequest _ _ _ _
        · rfl
      · rfl

theorem State.bodies_endSession (s : State) (slot : Nat) : (s.endSession slot).bodies = s.bodies := by
  obtain ⟨m, same⟩ := s.dropDownload_frame
  unfold State.endSession
  rw [same]
  split <;> rfl

theorem State.bodies_postWaiting (q : Nat) (ws : List CqWait) : ∀ s : State, (s.postWaiting q ws).bodies = s.bodies := by
  induction ws with
  | nil => exact fun _ => rfl
  | cons w ws ih =>
    intro s
    unfold State.postWaiting
    split
    · exact ih s
    · split
      · obtain ⟨_, _, _, _, _, same⟩ := (s.updHub fun h => { h with cqWait := h.cqWait.erase w }).postNow_frame w
        rw [ih, same]
        rfl
      · rfl

theorem State.bodies_portReset (s : State) (p : Nat) : (s.portReset p).bodies = s.bodies := by
  unfold State.portReset
  generalize ((List.range 64).filter fun r => s.portOfRing r = p) = rings
  dsimp only
  have off : ∀ h : Hub, (rings.foldl (fun h r => h.updRing r fun x => { x with en := false }) h).parts = h.parts ∧
      (rings.foldl (fun h r => h.updRing r fun x => { x with en := false }) h).bindings = h.bindings := by
    intro h
    have kept := foldl_view (view := fun h : Hub => (h.parts, h.bindings)) (f := fun h r => h.updRing r fun x => { x with en := false })
      (by intro h r; rfl) rings h
    exact ⟨congrArg Prod.fst kept, congrArg Prod.snd kept⟩
  rw [foldl_view (view := State.bodies) State.bodies_stopStream]
  refine (State.bodies_endSession _ _).trans ?_
  refine Eq.trans (foldl_view (view := State.bodies) (fun s q => State.bodies_postWaiting _ _ s) _ _) ?_
  obtain ⟨parts, bindings⟩ := off s.hub
  unfold State.bodies
  rw [State.updHub_hub, parts]
  exact congrArg (fun b : List Program × List Rebind => (s.cores, s.dies, s.hub.parts, b.1, b.2, s.power)) bindings

theorem State.bodies_replaceLane (s : State) (p lane : Nat) : (s.replaceLane p lane).bodies = s.bodies := by
  unfold State.replaceLane
  dsimp only
  generalize (if lane ∈ (s.host p).badLanes then (s.host p).badLanes else (s.host p).badLanes ++ [lane]) = bad
  split
  · rw [State.bodies_attend, State.bodies_updHost]
  · split
    · rw [State.journalBare, State.bodies_journalDev, State.bodies_updHost, State.bodies_portReset, State.bodies_attend, State.bodies_updHost]
    · rw [State.bodies_attend, State.bodies_updHost]

theorem State.bodies_lanesLost (s : State) (d : Nat) : (s.lanesLost d).bodies = s.bodies := by
  unfold State.lanesLost
  generalize List.range 16 = lanes
  refine foldl_view (view := State.bodies) (fun s p => foldl_view (view := State.bodies) (fun s l => ?_) lanes s) _ s
  dsimp only
  split
  · exact s.bodies_replaceLane _ _
  · rfl

theorem State.bodies_portDown (s : State) (p cause : Nat) : (s.portDown p cause).bodies = s.bodies := by
  unfold State.portDown
  rw [State.bodies_of_linkless (State.linkless_reroute _ _), State.bodies_journalDev, State.bodies_updPort]

theorem State.bodies_halvesChanged (s : State) (p : Nat) : (s.halvesChanged p).bodies = s.bodies := by
  unfold State.halvesChanged
  dsimp only
  split
  · rfl
  · split
    · rfl
    · split
      · rfl
      · exact s.bodies_portDown _ _

theorem State.bodies_kxDieLost (s : State) (d : Nat) : (s.kxDieLost d).bodies = s.bodies := by
  unfold State.kxDieLost
  refine foldl_view (view := State.bodies) (fun s p => foldl_view (view := State.bodies) (fun s h => ?_) _ s) _ s
  split
  · rw [State.bodies_updPort, State.bodies_halvesChanged, State.bodies_updPort]
  · rfl

theorem State.bodies_beginOp (s : State) (o : MaintOp) : (s.beginOp o).bodies = s.bodies := by
  obtain ⟨hub, cores, -, dies, power⟩ := (s.updMaint fun m => { m with ops := m.ops ++ [o] }).markTest_frame o true
  unfold State.beginOp State.bodies
  rw [hub, cores, dies, power]
  rfl

theorem State.bodies_raiseOp (s : State) (o : MaintOp) : (s.raiseOp o).bodies = s.bodies := by
  unfold State.raiseOp
  split
  · exact State.bodies_journalDev _ _ _ _ _
  · exact s.bodies_beginOp o

theorem State.bodies_endOps (s : State) (p : MaintOp → Bool) : (s.endOps p).bodies = s.bodies := by
  unfold State.endOps
  dsimp only
  refine (foldl_view (view := State.bodies) (fun s o => ?_) _ _).trans ?_
  · split
    · rfl
    · exact State.bodies_beginOp _ _
  · refine Eq.trans (b := ((s.maint.ops.filter p).foldl (fun s o => s.markTest o false) s).bodies) rfl ?_
    refine foldl_view (view := State.bodies) (fun s o => ?_) _ s
    obtain ⟨hub, cores, -, dies, power⟩ := s.markTest_frame o false
    unfold State.bodies
    rw [hub, cores, dies, power]

theorem State.bodies_abortMarch (s : State) (d : Nat) : (s.abortMarch d).bodies = s.bodies := State.bodies_endOps _ _

theorem State.bodies_poisoned (s : State) (p c : Nat) :
    (((s.updHost p fun h => { h with poison := dropUnits h.poison c, poisonOvf := true }).mediaEvent p c).attend p 3).bodies = s.bodies := by
  rw [State.bodies_attend, State.bodies_mediaEvent]
  rfl

theorem State.bodies_failChannel (s : State) (c : Nat) : (s.failChannel c).bodies = s.bodies := by
  unfold State.failChannel
  split
  · rfl
  · dsimp only
    generalize List.range 2 = ports
    generalize journalled : State.journalDev _ 0xBB 5 c (BitVec.ofNat 64 c) = s2
    have first : s2.bodies = s.bodies := by
      rw [← journalled, State.bodies_journalDev]
      rfl
    have failed : (ports.foldl (fun s p =>
        ((s.updHost p fun h => { h with poison := dropUnits h.poison c, poisonOvf := true }).mediaEvent p c).attend p 3) s2).bodies = s.bodies :=
      (foldl_view (view := State.bodies) (fun s p => State.bodies_poisoned s p c) _ s2).trans first
    split
    · exact failed
    · exact (State.bodies_raiseOp _ _).trans failed

/-! ### A lost die without programs -/

/-- The cores of a die fenced, and taken from every partition. -/
def State.fenced (s : State) (cs : List Nat) : State :=
  let s1 := cs.foldl (fun s c => s.updCore c CoreState.fence) s
  { s1 with
    macros := s1.macros.filter (fun e => decide (e.1 / 72 ∉ cs) || decide (e.2.st = .retired)),
    nb := s1.nb.filter fun m => decide (m.src ∉ cs) && decide (m.dst ∉ cs),
    hub := s1.hub.dropCores cs }

/-- Its channels, links, lanes and march tests gone too. -/
def State.cutOff (s : State) (d : Nat) (cs chans : List Nat) : State :=
  chans.foldl State.failChannel ((((s.fenced cs).abortMarch d).kxDieLost d).lanesLost d)

theorem State.bodies_cutOff (s : State) (d : Nat) (cs chans : List Nat) : (s.cutOff d cs chans).bodies = (s.fenced cs).bodies := by
  unfold State.cutOff
  rw [foldl_view (view := State.bodies) State.bodies_failChannel, State.bodies_lanesLost, State.bodies_kxDieLost, State.bodies_abortMarch]

theorem State.fenced_effect (s : State) (cs : List Nat) : (s.fenced cs).hub = s.hub.dropCores cs ∧ (s.fenced cs).dies = s.dies ∧
    ∀ c, (s.fenced cs).core c = (cs.foldl (fun s c => s.updCore c CoreState.fence) s).core c := by
  have kept := foldl_view (view := fun s : State => (s.hub, s.dies)) (f := fun s c => s.updCore c CoreState.fence) (by intro s c; rfl) cs s
  refine ⟨?_, congrArg Prod.snd kept, fun c => rfl⟩
  unfold State.fenced
  dsimp only
  exact congrArg (fun k : Hub × Sparse DieState => k.1.dropCores cs) kept

/-- Where no program is bound and nothing is rebound, there is nothing to abandon. -/
theorem State.abandon_of_idle (programs : s.hub.programs = []) (rebinds : s.hub.rebinds = []) (d : Nat) (ps : List Nat) : s.abandon d ps = s := by
  unfold State.abandon
  rw [rebinds]
  dsimp only [List.filter, List.foldl]
  rw [programs]
  rfl

theorem State.isolate_of_idle (programs : s.hub.programs = []) (rebinds : s.hub.rebinds = []) (d : Nat) :
    ∃ chans, s.isolate d = s.cutOff d (dieCores d) chans := by
  refine ⟨(List.range 16).filter fun c => chanDie c = d, ?_⟩
  unfold State.isolate
  dsimp only
  rw [programs]
  generalize ((List.range 16).filter fun c => chanDie c = d) = chans
  generalize dieCores d = cs
  dsimp only [List.filter, List.foldl]
  obtain ⟨hub, -, -⟩ := s.fenced_effect cs
  have bodies := s.bodies_cutOff d cs chans
  have programs' : (s.cutOff d cs chans).hub.programs = [] := by
    refine (congrArg (fun b => b.2.2.2.1) bodies).trans ?_
    show (s.fenced cs).hub.programs = []
    rw [hub]
    exact programs
  have rebinds' : (s.cutOff d cs chans).hub.rebinds = [] := by
    refine (congrArg (fun b => b.2.2.2.2.1) bodies).trans ?_
    show (s.fenced cs).hub.rebinds = []
    rw [hub]
    exact rebinds
  exact State.abandon_of_idle programs' rebinds' d _

/-- A core of a die is not among those that the die's loss leaves in a mask. -/
theorem bitOf_dropped {d c : Nat} (member : c ∈ dieCores d) (x : BitVec 80) :
    bitOf (x &&& ~~~BitVec.ofNat 80 ((dieCores d).map fun c => bitAt true c).sum) c = false := by
  have sorted : (dieCores d).SortedLT := (List.pairwise_lt_range.filter _).sortedLT
  have listed : Nat.bitIndices ((dieCores d).map fun c => bitAt true c).sum = dieCores d := Nat.bitIndices_sum_map_two_pow sorted
  have set_ : ((dieCores d).map fun c => bitAt true c).sum.testBit c = true := Nat.mem_bitIndices.1 (by rw [listed]; exact member)
  have lt : c < 80 := List.mem_range.1 (List.mem_filter.1 member).1
  rw [bitOf_eq_getLsbD, BitVec.getLsbD_and, BitVec.getLsbD_not, BitVec.getLsbD_ofNat, set_]
  simp [lt]

/-- Every partition's entry, once cores are taken: the mask of one, less those cores. -/
theorem Hub.part_dropCores (h : Hub) (d p : Nat) : ∃ x : BitVec 80, ((h.dropCores (dieCores d)).part p).cores =
    x &&& ~~~BitVec.ofNat 80 ((dieCores d).map fun c => bitAt true c).sum := by
  unfold Hub.dropCores Hub.part Sparse.get
  dsimp only
  generalize ~~~BitVec.ofNat 80 ((dieCores d).map fun c => bitAt true c).sum = mask
  cases found : Sparse.find? ((h.parts.map fun e => (e.1, { e.2 with cores := e.2.cores &&& mask })).filter
    fun e => decide (e.2 ≠ Partition.reset)) p with
  | none => exact ⟨0, by simp [Partition.reset]⟩
  | some x =>
    obtain ⟨listed, -⟩ := List.mem_filter.1 (Sparse.mem_of_find? found)
    obtain ⟨e, -, same⟩ := List.mem_map.1 listed
    exact ⟨e.2.cores, congrArg (fun e : Nat × Partition => e.2.cores) same.symm⟩

theorem State.loseDie_effect (d : Nat) (alive : (s.die d).lost = false) (programs : s.hub.programs = []) (rebinds : s.hub.rebinds = []) :
    ((s.loseDie d).die d).lost = true ∧ ((s.loseDie d).die d).inReset = true ∧
      (∀ c ∈ dieCores d, (s.loseDie d).core c = (s.core c).fence) ∧
      (∀ p, p < 16 → ∀ c ∈ dieCores d, bitOf ((s.loseDie d).hub.part p).cores c = false) := by
  have loses : s.loseDie d = ((s.updDie d fun x => { x with
      lost := true, inReset := true, resetHold := false, retestDue := false, oldParts := [], move := Move.none }).journalBare 0xB0 1 d).isolate d := by
    unfold State.loseDie
    rw [if_neg (by rw [alive]; decide)]
  rw [loses]
  generalize named : (s.updDie d fun x => { x with
    lost := true, inReset := true, resetHold := false, retestDue := false, oldParts := [], move := Move.none }).journalBare 0xB0 1 d = s1
  have first : s1.bodies = (s.updDie d fun x => { x with
      lost := true, inReset := true, resetHold := false, retestDue := false, oldParts := [], move := Move.none }).bodies := by
    rw [← named]
    exact State.bodies_journalDev _ _ _ _ _
  have cores : s1.cores = s.cores := congrArg (fun b => b.1) first
  have dies : s1.dies = (s.updDie d fun x => { x with
      lost := true, inReset := true, resetHold := false, retestDue := false, oldParts := [], move := Move.none }).dies := congrArg (fun b => b.2.1) first
  obtain ⟨chans, cut⟩ := State.isolate_of_idle ((congrArg (fun b => b.2.2.2.1) first).trans programs)
    ((congrArg (fun b => b.2.2.2.2.1) first).trans rebinds) d
  rw [cut]
  have after := s1.bodies_cutOff d (dieCores d) chans
  obtain ⟨hub, sameDies, fencedCores⟩ := s1.fenced_effect (dieCores d)
  have die : (s1.cutOff d (dieCores d) chans).die d = { s.die d with
      lost := true, inReset := true, resetHold := false, retestDue := false, oldParts := [], move := Move.none } := by
    refine (State.die_congr ((congrArg (fun b => b.2.1) after).trans (sameDies.trans dies)) d).trans ?_
    exact State.die_updDie_self _ _ _
  refine ⟨by rw [die], by rw [die], fun c member => ?_, fun p _ c member => ?_⟩
  · refine (State.core_congr (congrArg (fun b => b.1) after) c).trans ((fencedCores c).trans ?_)
    have distinct : (dieCores d).Nodup := List.nodup_range.filter _
    rw [State.core_foldl_updCore _ _ _ _ distinct, if_pos member]
    exact congrArg CoreState.fence (State.core_congr cores c)
  · have parts : (s1.cutOff d (dieCores d) chans).hub.parts = (s1.hub.dropCores (dieCores d)).parts :=
      (congrArg (fun b => b.2.2.1) after).trans (congrArg Hub.parts hub)
    have same : (s1.cutOff d (dieCores d) chans).hub.part p = (s1.hub.dropCores (dieCores d)).part p := by
      unfold Hub.part
      rw [parts]
    obtain ⟨x, mask⟩ := s1.hub.part_dropCores d p
    rw [same, mask]
    exact bitOf_dropped member x

/-! ### Heartbeats, resets and watchdogs -/

theorem dieResetRelease_effect (d : ArrayDie) (hold : (s.die d).resetHold = true) :
    ∃ t, exec (.dieResetRelease d) s = .next t ∧ (t.die d).resetHold = false ∧ (t.die d).inReset = false ∧ (t.die d).retestDue = true ∧
      ∃ op ∈ t.maint.ops, op.kind = .march ∧ op.die = some d.val ∧ op.cores = dieCores d := by
  have released : exec (.dieResetRelease d) s = .next ((s.updDie d fun x => { x with inReset := false, resetHold := false, retestDue := true, point := 0 }).beginOp
      { MaintOp.of .march with die := some d.val, cores := dieCores d, mode := 1, unitKind := 4 }) := by
    show execDieResetRelease d s = _
    unfold execDieResetRelease
    rw [if_pos hold]
  generalize named : s.updDie d (fun x => { x with inReset := false, resetHold := false, retestDue := true, point := 0 }) = s1 at released
  have die : s1.die d = { s.die d with inReset := false, resetHold := false, retestDue := true, point := 0 } := by
    rw [← named]
    exact State.die_updDie_self _ _ _
  have same : ∀ o : MaintOp, (s1.beginOp o).die d = s1.die d :=
    fun o => State.die_congr (congrArg (fun b => b.2.1) (s1.bodies_beginOp o)) d
  refine ⟨_, released, ?_, ?_, ?_, { MaintOp.of .march with die := some d.val, cores := dieCores d, mode := 1, unitKind := 4 }, ?_, rfl, rfl, rfl⟩
  · rw [same, die]
  · rw [same, die]
  · rw [same, die]
  · unfold State.beginOp State.markTest
    rw [if_neg (fun both => absurd (show (4 : Nat) = 1 from both.2) (by decide))]
    exact List.mem_append_right _ List.mem_cons_self

theorem exec_leaveResetTimeout (d : ArrayDie) : exec (.leaveResetTimeout d) s =
    .next (if (s.die d).reg = .on ∧ (s.die d).lost = false ∧ (s.die d).resetHold = false then s.loseDie d else s) := rfl

theorem exec_dieHeartbeatTimeout (d : ArrayDie) : exec (.dieHeartbeatTimeout d) s =
    .next (if (s.die d).runs then (s.setDie d { s.die d with missed := 10 }).loseDie d else s) := rfl

theorem journalPersist_effect {r : JournalRec} {rest : List JournalRec} (next : s.hub.islandQ = r :: rest) (room : s.hub.persistent.length < 262144) :
    ∃ t, exec .journalPersist s = .next t ∧ t.hub.persistent = s.hub.persistent ++ [{ r with persisted := true }] ∧
      r ∉ t.hub.islandQ ∧ t.hub.journal.length = s.hub.journal.length := by
  refine ⟨s.updHub fun h => h.persist r, ?_, ?_, ?_, ?_⟩
  · show execJournalPersist s = _
    unfold execJournalPersist
    rw [next]
  · rw [State.updHub_hub]
    unfold Hub.persist
    dsimp only
    rw [if_neg (by rw [List.length_append, List.length_singleton]; omega)]
  · rw [State.updHub_hub]
    unfold Hub.persist
    simp
  · rw [State.updHub_hub]
    unfold Hub.persist
    simp

/-- A firmware component that goes back touches neither the hub nor the cores, nor the power and the sessions. -/
theorem State.fwBack_frame (s : State) (c : Nat) : (s.fwBack c).hub = s.hub ∧ (s.fwBack c).cores = s.cores := by
  unfold State.fwBack
  dsimp only
  split <;> exact ⟨rfl, rfl⟩

theorem hubRuntimeWatchdog_effect (service : s.hub.inService = true) : ∃ t, exec .hubRuntimeWatchdog s = .next t ∧
    t.hub.admitting = false ∧ t.hub.seq = s.hub.seq + 1 ∧ t.cores = s.cores := by
  have restarts : exec .hubRuntimeWatchdog s = .next s.hubRestart := by
    show execHubRuntimeWatchdog s = _
    unfold execHubRuntimeWatchdog
    rw [if_pos service]
  obtain ⟨hub, cores⟩ := State.fwBack_frame ((s.journalBare 0xC7 2 0).updHub fun h => { h with admitting := false }) 2
  obtain ⟨-, next, -⟩ := s.journalDev_tables 0xC7 2 0 (Config.freeW64 s.free)
  refine ⟨_, restarts, ?_, ?_, ?_⟩
  · unfold State.hubRestart
    rw [hub]
    rfl
  · unfold State.hubRestart
    rw [hub]
    exact next
  · unfold State.hubRestart
    rw [cores, State.updHub_cores, State.journalBare_cores]

theorem State.endSession_frame (s : State) (slot : Nat) : (s.endSession slot).hub.seq = s.hub.seq ∧ (s.endSession slot).cores = s.cores ∧
    (s.endSession slot).mgmt.sessions = Sparse.erase s.mgmt.sessions slot := by
  obtain ⟨m, same⟩ := s.dropDownload_frame
  unfold State.endSession
  rw [same]
  split <;> exact ⟨rfl, rfl, rfl⟩

theorem State.endSessions_effect (slots : List Nat) : ∀ s : State, (slots.foldl State.endSession s).hub.seq = s.hub.seq ∧
    (slots.foldl State.endSession s).cores = s.cores ∧
    ∀ k, (k ∈ slots ∨ Sparse.find? s.mgmt.sessions k = none) → Sparse.find? (slots.foldl State.endSession s).mgmt.sessions k = none := by
  induction slots with
  | nil => exact fun s => ⟨rfl, rfl, fun k either => either.elim (fun member => absurd member List.not_mem_nil) id⟩
  | cons slot slots ih =>
    intro s
    obtain ⟨seq, cores, sessions⟩ := s.endSession_frame slot
    obtain ⟨seq', cores', rest⟩ := ih (s.endSession slot)
    refine ⟨seq'.trans seq, cores'.trans cores, fun k either => rest k ?_⟩
    rw [sessions]
    by_cases here : k = slot
    · subst here
      exact .inr (Sparse.find?_erase_self _ _)
    · rw [Sparse.find?_erase_ne _ here]
      exact either.imp_left fun member => (List.mem_cons.1 member).resolve_left here

theorem State.islandRestart_effect (s : State) : s.islandRestart.mgmt.up = false ∧ s.islandRestart.power.hold = false ∧
    (∀ k, k < 12 → Sparse.find? s.islandRestart.mgmt.sessions k = none) ∧ s.islandRestart.hub.seq = s.hub.seq ∧
    s.islandRestart.cores = s.cores := by
  obtain ⟨seq, cores, ended⟩ := State.endSessions_effect (List.range 12) s
  unfold State.islandRestart
  generalize (List.range 12).foldl State.endSession s = s1 at seq cores ended ⊢
  exact ⟨rfl, rfl, fun k lt => ended k (.inl (List.mem_range.2 lt)), seq, cores⟩

theorem islandWatchdog_effect (up : s.mgmt.up = true) : ∃ t, exec .islandWatchdog s = .next t ∧ t.mgmt.up = false ∧ t.power.hold = false ∧
    (∀ k, k < 12 → Sparse.find? t.mgmt.sessions k = none) ∧ t.hub.seq = s.hub.seq + 1 ∧ t.cores = s.cores := by
  have restarts : exec .islandWatchdog s = .next ((s.journalBare 0xC7 7 0).fwBack 1).islandRestart := by
    show execIslandWatchdog s = _
    unfold execIslandWatchdog
    rw [if_pos up]
  obtain ⟨hub, cores⟩ := (s.journalBare 0xC7 7 0).fwBack_frame 1
  obtain ⟨-, next, -⟩ := s.journalDev_tables 0xC7 7 0 (Config.freeW64 s.free)
  obtain ⟨down, hold, ended, seq, cores'⟩ := ((s.journalBare 0xC7 7 0).fwBack 1).islandRestart_effect
  exact ⟨_, restarts, down, hold, ended, seq.trans ((congrArg Hub.seq hub).trans next), cores'.trans (cores.trans (State.journalBare_cores _ _ _ _))⟩

end

/-- Settles O42: the loss of a die reaches the tables through `dropCores` and the cores through `fence`; its interfaces' ends keep both. -/
theorem dieLossAndWatchdogs : Obligations.DieLossAndWatchdogs := by
  unfold Obligations.DieLossAndWatchdogs
  refine ⟨fun s d => ⟨rfl, fun runs => ?_, fun stands => ?_, fun on alive free => ?_, fun lost => ?_, s.loseDie_effect d, dieResetRelease_effect d⟩,
    fun s r rest next room => journalPersist_effect next room, fun s empty => ?_, fun s service => hubRuntimeWatchdog_effect service,
    fun s up => islandWatchdog_effect up⟩
  · rw [exec_dieHeartbeatTimeout, if_pos runs]
  · rw [exec_dieHeartbeatTimeout, if_neg (by rw [stands]; decide)]
  · rw [exec_leaveResetTimeout, if_pos ⟨on, alive, free⟩]
  · rw [exec_leaveResetTimeout, if_neg (fun all => by rw [lost] at all; exact absurd all.2.1 (by decide))]
  · show execJournalPersist s = _
    unfold execJournalPersist
    rw [empty]

end Sys2Proof.Machine

/-! PROOFS. The power-up and power-down sequence (R252 to R258, R386, R393, R397, Tables 11.3 and 11.5). -/

namespace Sys2Proof.Machine

section

variable {s : State}

/-! ### Dies and host ports changed one after the other -/

theorem State.die_updDie_ne (s : State) {d e : Nat} (f : DieState → DieState) (apart : e ≠ d) : (s.updDie d f).die e = s.die e :=
  s.die_setDie_ne _ apart

theorem State.host_updHost_ne (s : State) {p q : Nat} (f : HostPort → HostPort) (apart : q ≠ p) : (s.updHost p f).host q = s.host q :=
  Sparse.get_set_ne _ _ _ _ apart

theorem State.die_foldl_updDie (f : Nat → DieState → DieState) (d : Nat) (ds : List Nat) : ∀ s : State, ds.Nodup →
    (ds.foldl (fun s d => s.updDie d (f d)) s).die d = if d ∈ ds then f d (s.die d) else s.die d := by
  induction ds with
  | nil => exact fun _ _ => rfl
  | cons e ds ih =>
    intro s distinct
    obtain ⟨other, rest⟩ := List.nodup_cons.1 distinct
    rw [List.foldl_cons, ih _ rest]
    by_cases here : d = e
    · subst here
      rw [if_neg other, if_pos List.mem_cons_self, State.die_updDie_self]
    · rw [State.die_updDie_ne _ _ here]
      simp only [List.mem_cons, here, false_or]

theorem State.port_foldl_updPort (f : State → Nat → Port → Port) (P : Port → Prop) (each : ∀ s p, P (f s p (s.port p))) (p : Nat) (ps : List Nat) :
    ∀ s : State, (p ∈ ps ∨ P (s.port p)) → P ((ps.foldl (fun s p => s.updPort p (f s p)) s).port p) := by
  induction ps with
  | nil => exact fun s either => either.elim (fun member => absurd member List.not_mem_nil) id
  | cons q ps ih =>
    intro s either
    refine ih _ ?_
    by_cases here : p = q
    · subst here
      refine .inr ?_
      rw [State.port_updPort_self]
      exact each s p
    · rw [State.port_updPort_ne _ _ here]
      exact either.imp_left fun member => (List.mem_cons.1 member).resolve_left here

/-- Both host ports changed alike. -/
def State.bothHosts (s : State) (f : HostPort → HostPort) : State := (List.range 2).foldl (fun s p => s.updHost p f) s

theorem State.bothHosts_eq (s : State) (f : HostPort → HostPort) : s.bothHosts f = (s.updHost 0 f).updHost 1 f := rfl

theorem State.host_bothHosts (s : State) (f : HostPort → HostPort) {q : Nat} (lt : q < 2) : (s.bothHosts f).host q = f (s.host q) := by
  rw [State.bothHosts_eq]
  by_cases first : q = 0
  · subst first
    rw [State.host_updHost_ne _ _ (by decide), State.host_updHost_self]
  · have second : q = 1 := by omega
    subst second
    rw [State.host_updHost_self, State.host_updHost_ne _ _ (by decide)]

theorem State.bothHosts_frame (s : State) (f : HostPort → HostPort) : ∃ hs, s.bothHosts f = { s with hosts := hs } := ⟨_, rfl⟩

/-! ### The package off -/

theorem State.allOff_effect (s : State) (to_ : PkgState) (cause : Nat) : (s.allOff to_ cause).power.st = to_ ∧ (s.allOff to_ cause).power.cause = cause ∧
    (s.allOff to_ cause).power.busOn = false ∧ (s.allOff to_ cause).cores = [] ∧ (s.allOff to_ cause).macros = [] :=
  ⟨rfl, rfl, rfl, rfl, rfl⟩

/-! ### The auxiliary rail -/

theorem exec_auxStart : exec .auxStart s =
    .next (if s.power.st = .off then (s.updPower fun p => { p with aux := true }).updMgmt fun m => { m with up := false } else s) := rfl

theorem State.dropDownload_maint (s : State) : s.dropDownload.maint.repairLog = s.maint.repairLog ∧
    s.dropDownload.maint.excluded = s.maint.excluded := by
  unfold State.dropDownload
  split <;> exact ⟨rfl, rfl⟩

theorem State.endSession_maint (s : State) (slot : Nat) : (s.endSession slot).maint.repairLog = s.maint.repairLog ∧
    (s.endSession slot).maint.excluded = s.maint.excluded := by
  unfold State.endSession
  split
  · exact s.dropDownload_maint
  · exact ⟨rfl, rfl⟩

theorem State.islandRestart_maint (s : State) : s.islandRestart.maint.repairLog = s.maint.repairLog ∧
    s.islandRestart.maint.excluded = s.maint.excluded := by
  have kept := foldl_view (view := fun s : State => (s.maint.repairLog, s.maint.excluded))
    (fun s slot => Prod.ext (s.endSession_maint slot).1 (s.endSession_maint slot).2) (List.range 12) s
  unfold State.islandRestart
  exact ⟨congrArg Prod.fst kept, congrArg Prod.snd kept⟩

theorem auxStop_effect (s : State) : ∃ t, exec .auxStop s = .next t ∧ t.power.st = .off ∧ t.power.aux = false ∧ t.mgmt.up = false ∧ t.cores = [] ∧
    t.macros = [] ∧ t.mons = [] ∧ t.maint.repairLog = s.maint.repairLog ∧ t.maint.excluded = s.maint.excluded := by
  obtain ⟨log, excluded⟩ := s.dropDownload.islandRestart_maint
  obtain ⟨log', excluded'⟩ := s.dropDownload_maint
  exact ⟨_, rfl, rfl, rfl, rfl, rfl, rfl, rfl, log.trans log', excluded.trans excluded'⟩

/-! ### The start of the sequence -/

theorem State.startUp_of_held (why : ¬(s.power.st = .standby ∧ s.mgmt.up = true ∧ s.onHolds = true)) : s.startUp = s := if_neg why

theorem State.startUp_of_ready (ready : s.power.st = .standby) (up : s.mgmt.up = true) (holds : s.onHolds = true) :
    s.startUp = (s.updPower fun p => { p with st := .up 0, busTested := false, pdOn := 0xF#4, susCap := none, peakCap := none }).bothHosts
      fun h => { h with hrdy := if h.perstN then .boot else .reset } := if_pos ⟨ready, up, holds⟩

theorem State.startUp_frame (s : State) : s.startUp.cores = s.cores ∧ s.startUp.mgmt = s.mgmt ∧ s.startUp.maint = s.maint ∧
    s.startUp.power.gasp = s.power.gasp ∧ s.startUp.dies = s.dies := by
  by_cases ready : s.power.st = .standby ∧ s.mgmt.up = true ∧ s.onHolds = true
  · obtain ⟨st, up, holds⟩ := ready
    rw [State.startUp_of_ready st up holds]
    exact ⟨rfl, rfl, rfl, rfl, rfl⟩
  · rw [State.startUp_of_held ready]
    exact ⟨rfl, rfl, rfl, rfl, rfl⟩

/-- Where the island has booted, STANDBY is left exactly when the on request holds. -/
theorem State.startUp_st (standby : s.power.st = .standby) (up : s.mgmt.up = true) :
    s.startUp.power.st = if s.onHolds then .up 0 else .standby := by
  cases holds : s.onHolds
  · rw [State.startUp_of_held (fun all => by rw [holds] at all; exact absurd all.2.2 (by decide)), standby]
    rfl
  · rw [State.startUp_of_ready standby up holds]
    rfl

theorem State.onHolds_of_request (hold : s.power.hold = false) (dies : 2 ≤ bitsOn s.power.pdOn) :
    (s.updPower fun p => { p with en := true, trayStopN := true, coolantOk := true, vinOk := true }).onHolds = true := by
  show (true && true && true && true && !s.power.hold && decide (2 ≤ bitsOn s.power.pdOn)) = true
  rw [hold, decide_eq_true dies]
  rfl

theorem onRequest_effect (standby : s.power.st = .standby) (hold : s.power.hold = false) (dies : 2 ≤ bitsOn s.power.pdOn) (up : s.mgmt.up = true) :
    ∃ t, exec .onRequest s = .next t ∧ t.power.st = .up 0 ∧ t.power.susCap = none ∧ t.power.peakCap = none ∧ t.power.busTested = false ∧
      t.power.pdOn = 0xF ∧ t.power.en = true ∧ t.dies = s.dies ∧
      ∀ q, q < 2 → (t.host q).hrdy = (if (s.host q).perstN then .boot else .reset) := by
  refine ⟨_, congrArg Host.Outcome.next (State.startUp_of_ready standby up (State.onHolds_of_request hold dies)), rfl, rfl, rfl, rfl, rfl, rfl, rfl,
    fun q lt => ?_⟩
  rw [State.host_bothHosts _ _ lt]
  rfl

theorem onRequest_of_held (standby : s.power.st = .standby) (why : s.power.hold = true ∨ s.mgmt.up = false) :
    ∃ t, exec .onRequest s = .next t ∧ t.power.st = .standby ∧ t.dies = s.dies := by
  refine ⟨_, congrArg Host.Outcome.next (State.startUp_of_held ?_), standby, rfl⟩
  rintro ⟨-, up, holds⟩
  rcases why with hold | down
  · have : (true && true && true && true && !s.power.hold && decide (2 ≤ bitsOn s.power.pdOn)) = true := holds
    rw [hold] at this
    exact absurd this (by simp)
  · exact absurd (down.symm.trans up) (by decide)

/-! ### The island's boot -/

theorem State.bootSlots_frame (s : State) : ∃ m, s.bootSlots = { s with maint := m } := by
  have each : ∀ (cs : List Nat) (s : State), ∃ m, cs.foldl (fun s c =>
      let x := s.comp c
      if !x.boots x.active ∧ x.other.st = .valid ∧ x.boots x.other = true then
        let y := (x.setActive FwSlot.empty).setOther { x.other with st := .active }
        s.setComp c { y with useB := !x.useB, trial := false }
      else s) s = { s with maint := m } := by
    intro cs
    induction cs with
    | nil => exact fun s => ⟨_, rfl⟩
    | cons c cs ih =>
      intro s
      rw [List.foldl_cons]
      dsimp only
      split
      · obtain ⟨m, same⟩ := ih (s.setComp c { ((s.comp c).setActive FwSlot.empty).setOther { (s.comp c).other with st := .active } with
          useB := !(s.comp c).useB, trial := false })
        exact ⟨m, same.trans rfl⟩
      · exact ih s
  exact each _ s

theorem State.readGasp_of_none (gasp : s.power.gasp = []) (sound : s.power.gaspTorn = false) :
    s.readGasp = (s.updHub fun h => { h with seq := h.persistent.foldl (fun m r => if m.toNat < r.seq.toNat then r.seq else m) h.seq }).updPower
      fun p => { p with gasp := [], gaspTorn := false } := by
  unfold State.readGasp
  rw [gasp, sound]
  rfl

/-- The state in which a boot that finds no last gasp asks for the start. -/
def State.booted (s : State) (nid : BitVec 5) : State :=
  let s0 := s.updPower fun p => { p with st := if p.st = .off then .standby else p.st }
  let id := s.mgmt.obj 0x1100 2
  let s2 := s0.readGasp.updMgmt fun m => { m with up := true, strap := nid, nodeId := if id = 0xFF then nid.toNat else id, csma := false,
                                                  od := Sparse.erase m.od (objKey 0x8010 1) }
  (s2.updHub fun h => { h with unacked := h.recordsAfter h.acked.toNat }).bootSlots.updMaint fun m =>
    if m.storeVer = Config.storeVersion then m else { m with storeVer := Config.storeVersion, storeWrites := m.storeWrites + 2 }

theorem exec_islandBootDone (nid : BitVec 5) : exec (.islandBootDone nid) s =
    .next (if s.power.aux = false ∨ s.mgmt.up then s else (s.booted nid).startUp) := rfl

theorem State.booted_effect (nid : BitVec 5) (gasp : s.power.gasp = []) (sound : s.power.gaspTorn = false) :
    (s.booted nid).cores = s.cores ∧ (s.booted nid).mgmt.up = true ∧
      (s.booted nid).mgmt.nodeId = (if s.mgmt.obj 0x1100 2 = 0xFF then nid.toNat else s.mgmt.obj 0x1100 2) ∧ (s.booted nid).power.gasp = [] ∧
      (s.booted nid).maint.storeVer = Config.storeVersion ∧ (s.booted nid).power.st = (if s.power.st = .off then .standby else s.power.st) ∧
      (s.booted nid).onHolds = s.onHolds := by
  unfold State.booted
  dsimp only
  rw [State.readGasp_of_none (s := s.updPower fun p => { p with st := if p.st = .off then .standby else p.st }) gasp sound]
  generalize named : State.updHub _ _ = s3
  obtain ⟨m, same⟩ := s3.bootSlots_frame
  rw [same]
  refine ⟨?_, ?_, ?_, ?_, ?_, ?_, ?_⟩
  case refine_5 =>
    show (if m.storeVer = Config.storeVersion then m else _).storeVer = _
    split
    · next at_ => exact at_
    · rfl
  all_goals
    rw [← named]
    rfl

theorem islandBootDone_effect (nid : BitVec 5) (aux : s.power.aux = true) (down : s.mgmt.up = false) (gasp : s.power.gasp = [])
    (sound : s.power.gaspTorn = false) :
    ∃ t, exec (.islandBootDone nid) s = .next t ∧ t.mgmt.up = true ∧
      (s.power.st = .off ∨ s.power.st = .standby → t.power.st = (if s.onHolds then .up 0 else .standby)) ∧
      t.mgmt.nodeId = (if s.mgmt.obj 0x1100 2 = 0xFF then nid.toNat else s.mgmt.obj 0x1100 2) ∧ t.power.gasp = [] ∧
      t.maint.storeVer = Config.storeVersion ∧ t.cores = s.cores := by
  obtain ⟨cores, up, node, gasp', store, st, holds⟩ := State.booted_effect nid gasp sound
  obtain ⟨cores', mgmt, maint, gasp'', -⟩ := (s.booted nid).startUp_frame
  refine ⟨(s.booted nid).startUp, ?_, by rw [mgmt, up], fun either => ?_, by rw [mgmt, node], gasp''.trans gasp', by rw [maint, store], cores'.trans cores⟩
  · rw [exec_islandBootDone, if_neg]
    rw [aux, down]
    decide
  · rw [State.startUp_st (st.trans ?_) up, holds]
    rcases either with off | standby
    · rw [if_pos off]
    · rw [if_neg (by rw [standby]; decide), standby]

/-! ### The bus and the steps of UP -/

theorem exec_busShortTestDone (short : Bool) (st : s.power.st = .up 0) (untested : s.power.busTested = false) (clock : s.power.mgmtRef = true) :
    exec (.busShortTestDone short) s = .next (if short then (s.railShort 7 0 0 1).allOff .latched 8 else s.updPower fun p => { p with busTested := true }) :=
  congrArg Host.Outcome.next (if_pos ⟨st, untested, clock⟩)

theorem State.dies_startStep (s : State) (k : Nat) : (s.startStep k).power = { s.power with st := .up k } := by
  unfold State.startStep
  exact foldl_view (view := State.power) (by intro s d; rfl) _ _

theorem busInRegulation_effect (st : s.power.st = .up 0) (tested : s.power.busTested = true) (off : s.power.busOn = false) :
    ∃ t, exec .busInRegulation s = .next t ∧ t.power.st = .up 1 ∧ t.power.busOn = true ∧ (t.die 20).reg = .attempt ∧ (t.die 20).attempts = 1 := by
  have starts : exec .busInRegulation s = .next ((s.updPower fun p => { p with busOn := true }).startStep 1) :=
    congrArg Host.Outcome.next (if_pos ⟨st, tested, off⟩)
  have die : ((s.updPower fun p => { p with busOn := true }).startStep 1).die 20 = { s.die 20 with reg := .attempt, attempts := 1 } := by
    unfold State.startStep
    rw [show ∀ s : State, s.stepDies 1 = [20] from fun _ => rfl]
    dsimp only [List.foldl]
    exact State.die_updDie_self _ _ _
  exact ⟨_, starts, rfl, rfl, by rw [die], by rw [die]⟩

theorem State.stepDies_congr {t : State} (same : t.mgmt = s.mgmt) (k : Nat) : t.stepDies k = s.stepDies k := by
  unfold State.stepDies
  rw [same]

theorem State.stepDies_nodup (s : State) (k : Nat) : (s.stepDies k).Nodup := by
  unfold State.stepDies
  split
  · exact List.nodup_singleton _
  · refine (List.nodup_range.map fun a b same => ?_).filter _
    omega

/-- The dies of a step that are still in their attempt, released. -/
def State.stepReleased (s : State) (ds : List Nat) : State :=
  ds.foldl (fun s d => s.updDie d fun x => if x.reg = .attempt then x.released d else x) s

theorem State.stepReleased_frame (s : State) (ds : List Nat) : (s.stepReleased ds).power = s.power ∧ (s.stepReleased ds).mgmt = s.mgmt := by
  have kept := foldl_view (view := fun s : State => (s.power, s.mgmt))
    (f := fun s d => s.updDie d fun x => if x.reg = .attempt then x.released d else x) (by intro s d; rfl) ds s
  exact ⟨congrArg Prod.fst kept, congrArg Prod.snd kept⟩

theorem State.die_stepReleased {ds : List Nat} (distinct : ds.Nodup) {d : Nat} (member : d ∈ ds) (attempt : (s.die d).reg = .attempt) :
    (s.stepReleased ds).die d = (s.die d).released d := by
  refine (State.die_foldl_updDie (fun d x => if x.reg = .attempt then x.released d else x) d ds s distinct).trans ?_
  rw [if_pos member, if_pos attempt]

theorem State.die_startStep_other {k d : Nat} (out : d ∉ s.stepDies k) : (s.startStep k).die d = s.die d := by
  refine (State.die_foldl_updDie (fun _ x => { x with reg := .attempt, attempts := 1 }) d (s.stepDies k)
    (s.updPower fun p => { p with st := .up k }) (s.stepDies_nodup k)).trans ?_
  rw [if_neg out]
  rfl

section

variable {k : Nat} (st : s.power.st = .up (k + 1)) (ready : ∀ d ∈ s.stepDies (k + 1), (s.die d).reg ≠ .hiccup)

include st

theorem exec_dieStepComplete_of_hiccup (waits : ∃ d ∈ s.stepDies (k + 1), (s.die d).reg = .hiccup) : exec .dieStepComplete s = .next s := by
  show execDieStepComplete s = _
  unfold execDieStepComplete
  rw [st]
  dsimp only
  obtain ⟨d, member, hiccup⟩ := waits
  rw [if_pos (List.any_eq_true.2 ⟨d, member, decide_eq_true hiccup⟩)]

include ready

theorem exec_dieStepComplete_of_ready : exec .dieStepComplete s =
    .next (if s.power.offDue then (s.stepReleased (s.stepDies (k + 1))).updPower fun p => { p with st := .down (k + 1), stage := 3, offDue := false }
      else if k + 1 < 6 then (s.stepReleased (s.stepDies (k + 1))).startStep (k + 2)
      else (s.stepReleased (s.stepDies (k + 1))).updPower fun p => { p with st := .on, powerUps := p.powerUps + 1 }) := by
  show execDieStepComplete s = _
  unfold execDieStepComplete
  rw [st]
  dsimp only
  rw [if_neg]
  · rfl
  · intro waits
    obtain ⟨d, member, hiccup⟩ := List.any_eq_true.1 waits
    exact ready d member (of_decide_eq_true hiccup)

theorem dieStepComplete_effect (on : s.power.offDue = false) : ∃ t, exec .dieStepComplete s = .next t ∧
    t.power.st = (if k + 1 < 6 then .up (k + 2) else .on) ∧
    (∀ d ∈ s.stepDies (k + 1), (s.die d).reg = .attempt → d ∉ s.stepDies (k + 2) → (t.die d).reg = .on ∧
      (t.die d).inReset = false ∧ (t.die d).point = 0 ∧ (t.die d).volt = vop d 0) := by
  have released : ∀ d ∈ s.stepDies (k + 1), (s.die d).reg = .attempt →
      (s.stepReleased (s.stepDies (k + 1))).die d = (s.die d).released d := fun d member attempt =>
    State.die_stepReleased (s.stepDies_nodup _) member attempt
  obtain ⟨-, mgmt⟩ := s.stepReleased_frame (s.stepDies (k + 1))
  have executed := exec_dieStepComplete_of_ready st ready
  rw [if_neg (by rw [on]; decide)] at executed
  refine ⟨_, executed, ?_, fun d member attempt out => ?_⟩
  · split
    · rw [State.dies_startStep]
    · rfl
  · have die : (if k + 1 < 6 then (s.stepReleased (s.stepDies (k + 1))).startStep (k + 2)
        else (s.stepReleased (s.stepDies (k + 1))).updPower fun p => { p with st := .on, powerUps := p.powerUps + 1 }).die d = (s.die d).released d := by
      rw [← released d member attempt]
      split
      · refine State.die_startStep_other ?_
        rw [State.stepDies_congr mgmt]
        exact out
      · rfl
    rw [die]
    exact ⟨rfl, rfl, rfl, rfl⟩

theorem dieStepComplete_off (off : s.power.offDue = true) : ∃ t, exec .dieStepComplete s = .next t ∧ t.power.st = .down (k + 1) ∧
    t.power.stage = 3 := by
  have executed := exec_dieStepComplete_of_ready st ready
  rw [if_pos off] at executed
  exact ⟨_, executed, rfl, rfl⟩

end

/-! ### Off requests -/

theorem State.stopHub_eq (s : State) : s.stopHub =
    (s.updHub fun h => { h with admitting := false, inService := false, paused := false }).bothHosts fun h => { h with hrdy := .stop } := rfl

theorem State.stopHub_frame (s : State) : s.stopHub.power = s.power ∧ s.stopHub.hub.admitting = false ∧ s.stopHub.hub.inService = false := by
  rw [State.stopHub_eq]
  obtain ⟨hs, same⟩ := (s.updHub fun h => { h with admitting := false, inService := false, paused := false }).bothHosts_frame
    fun h => { h with hrdy := .stop }
  rw [same]
  exact ⟨rfl, rfl, rfl⟩

theorem State.host_stopHub (s : State) {q : Nat} (lt : q < 2) : (s.stopHub.host q).hrdy = .stop := by
  rw [State.stopHub_eq, State.host_bothHosts _ _ lt]

theorem State.offRequest_of_on (on : s.power.st = .on) (cause : Nat) (grace : Bool) :
    s.offRequest cause grace = s.stopHub.updPower fun p => { p with st := .down 6, stage := if grace then 1 else 3, cause := cause } := by
  unfold State.offRequest
  rw [on]

theorem State.offRequest_effect (on : s.power.st = .on) (cause : Nat) (grace : Bool) : (s.offRequest cause grace).power.st = .down 6 ∧
    (s.offRequest cause grace).power.stage = (if grace then 1 else 3) ∧ (s.offRequest cause grace).power.cause = cause ∧
    (s.offRequest cause grace).hub.admitting = false ∧ (s.offRequest cause grace).hub.inService = false ∧
    (∀ q, q < 2 → ((s.offRequest cause grace).host q).hrdy = .stop) ∧ (s.offRequest cause grace).power.en = s.power.en ∧
    (s.offRequest cause grace).power.hold = s.power.hold := by
  obtain ⟨power, admitting, service⟩ := s.stopHub_frame
  have hosts : ∀ q, q < 2 → (s.stopHub.host q).hrdy = .stop := fun q lt => s.host_stopHub lt
  rw [State.offRequest_of_on on]
  generalize s.stopHub = s1 at power admitting service hosts ⊢
  have en : s1.power.en = s.power.en := congrArg Power.en power
  have hold : s1.power.hold = s.power.hold := congrArg Power.hold power
  exact ⟨rfl, rfl, rfl, admitting, service, hosts, en, hold⟩

theorem exec_offRequest_en : exec (.offRequest false) s =
    .next ((s.updPower fun p => { p with en := false, hold := false, thermTrip := false }).offRequest 1 true) := rfl

theorem exec_offRequest_tray (powered : s.power.st ≠ .off) : exec (.offRequest true) s =
    .next (((s.updPower fun p => { p with trayStopN := false }).journalBare 0xC6 7 0).offRequest 2 true) := by
  show execOffRequest true s = _
  unfold execOffRequest
  rw [if_pos rfl, if_neg powered]

theorem offRequest_effect (on : s.power.st = .on) (tray : Bool) : ∃ t, exec (.offRequest tray) s = .next t ∧ t.power.st = .down 6 ∧ t.power.stage = 1 ∧
    t.power.cause = (if tray then 2 else 1) ∧ t.hub.admitting = false ∧ t.hub.inService = false ∧
    (∀ q, q < 2 → (t.host q).hrdy = .stop) ∧ (tray = false → t.power.en = false ∧ t.power.hold = false) := by
  cases tray
  · rw [exec_offRequest_en]
    generalize asked : s.updPower (fun p => { p with en := false, hold := false, thermTrip := false }) = s1
    have power : s1.power = { s.power with en := false, hold := false, thermTrip := false } := by rw [← asked, State.updPower_power]
    obtain ⟨st, stage, cause, admitting, service, hosts, en, hold⟩ := State.offRequest_effect (s := s1) (by rw [power]; exact on) 1 true
    rw [power] at en hold
    exact ⟨_, rfl, st, stage, cause, admitting, service, hosts, fun _ => ⟨en, hold⟩⟩
  · rw [exec_offRequest_tray fun off => absurd (on.symm.trans off) (by decide)]
    have still : ((s.updPower fun p => { p with trayStopN := false }).journalBare 0xC6 7 0).power.st = .on := by
      rw [State.journalBare_power, State.updPower_power]
      exact on
    generalize (s.updPower fun p => { p with trayStopN := false }).journalBare 0xC6 7 0 = s1 at still ⊢
    obtain ⟨st, stage, cause, admitting, service, hosts, -⟩ := State.offRequest_effect still 2 true
    exact ⟨_, rfl, st, stage, cause, admitting, service, hosts, fun h => absurd h (by decide)⟩

theorem offRequest_of_step {k : Nat} (st : s.power.st = .up (k + 1)) : ∃ t, exec (.offRequest false) s = .next t ∧ t.power.st = .up (k + 1) ∧
    t.power.offDue = true := by
  rw [exec_offRequest_en]
  have asked : (s.updPower fun p => { p with en := false, hold := false, thermTrip := false }).power.st = .up (k + 1) := st
  generalize s.updPower (fun p => { p with en := false, hold := false, thermTrip := false }) = s1 at asked ⊢
  have power : (s1.offRequest 1 true).power = { s1.power with offDue := true, cause := 1 } := by
    unfold State.offRequest
    rw [asked]
    dsimp only
    refine (foldl_view (view := State.power) (by intro s d; rfl) _ _).trans ?_
    rw [State.updPower_power, s1.stopHub_frame.1]
  exact ⟨_, rfl, by rw [power]; exact asked, by rw [power]⟩

theorem offRequest_of_bus (st : s.power.st = .up 0) : ∃ t, exec (.offRequest false) s = .next t ∧ t.power.st = .down 0 ∧ t.power.stage = 3 ∧
    t.power.cause = 1 := by
  refine ⟨(s.updPower fun p => { p with en := false, hold := false, thermTrip := false }).offRequest 1 true, rfl, ?_⟩
  have asked : (s.updPower fun p => { p with en := false, hold := false, thermTrip := false }).power.st = .up 0 := st
  unfold State.offRequest
  rw [asked]
  exact ⟨rfl, rfl, rfl⟩

/-! ### Grace and idle -/

theorem State.drainCmd_frame (s : State) (o : OutCmd) : (s.drainCmd o).hub.islandQ = s.hub.islandQ ∧ (s.drainCmd o).cores = s.cores := by
  unfold State.drainCmd
  split
  · obtain ⟨_, _, _, _, _, _, same⟩ := s.finishCmd_frame o { Answer.of 8 with stream := cmdN o.cmd 8 2 }
    rw [same]
    exact ⟨rfl, rfl⟩
  · obtain ⟨_, _, _, _, _, _, same⟩ := s.bump.finishCmd_frame o (Answer.of (Config.freeNat s.free % 65536))
    rw [same]
    exact ⟨rfl, rfl⟩

/-- Once every waiting record is written, none waits. -/
theorem State.islandQ_persisted (rs : List JournalRec) : ∀ s : State, (∀ x ∈ s.hub.islandQ, x ∈ rs) →
    (rs.foldl (fun s r => s.updHub fun h => h.persist r) s).hub.islandQ = [] ∧
      (rs.foldl (fun s r => s.updHub fun h => h.persist r) s).cores = s.cores := by
  induction rs with
  | nil => exact fun s all => ⟨List.eq_nil_iff_forall_not_mem.2 fun x member => List.not_mem_nil (all x member), rfl⟩
  | cons r rs ih =>
    intro s all
    obtain ⟨empty, cores⟩ := ih (s.updHub fun h => h.persist r) fun x member => by
      obtain ⟨listed, other⟩ := List.mem_filter.1 (show x ∈ s.hub.islandQ.filter fun x => decide (x.seq ≠ r.seq) from member)
      refine (List.mem_cons.1 (all x listed)).resolve_left fun same => ?_
      rw [same] at other
      exact of_decide_eq_true other rfl
    exact ⟨empty, cores⟩

section

variable (grace : s.power.stage = 1)

include grace

theorem exec_graceEnd : exec .graceEnd s = .next (((s.hub.cmds.foldl State.drainCmd s).hub.islandQ.foldl (fun s r => s.updHub fun h => h.persist r)
    (s.hub.cmds.foldl State.drainCmd s)).updPower fun p => { p with stage := 2 }) := congrArg Host.Outcome.next (if_pos grace)

theorem exec_graceEnd_of_done (cmds : s.hub.cmds = []) (records : s.hub.islandQ = []) :
    exec .graceEnd s = .next { s with power := { s.power with stage := 2 } } := by
  rw [exec_graceEnd grace, cmds]
  dsimp only [List.foldl]
  rw [records]
  rfl

theorem graceEnd_effect : ∃ t, exec .graceEnd s = .next t ∧ t.power.stage = 2 ∧ t.hub.islandQ = [] ∧ t.cores = s.cores := by
  have drained := foldl_view (view := fun s : State => s.cores) (fun s o => (s.drainCmd_frame o).2) s.hub.cmds s
  obtain ⟨empty, cores⟩ := State.islandQ_persisted (s.hub.cmds.foldl State.drainCmd s).hub.islandQ (s.hub.cmds.foldl State.drainCmd s) fun _ => id
  exact ⟨_, exec_graceEnd grace, rfl, empty, cores.trans drained⟩

end

theorem State.settle_frame (s : State) (c : Nat) : (s.settle c).dies = s.dies ∧ (s.settle c).kraox = s.kraox ∧ (s.settle c).power = s.power ∧
    (s.settle c).mgmt = s.mgmt ∧ ∀ d, d ≠ c → (s.settle c).core d = s.core d := by
  unfold State.settle
  dsimp only
  split
  · split
    · split
      · exact ⟨rfl, rfl, rfl, rfl, fun d other => s.core_setCore_ne _ other⟩
      · exact ⟨rfl, rfl, rfl, rfl, fun _ _ => rfl⟩
    · split
      · exact ⟨rfl, rfl, rfl, rfl, fun d other => s.core_setCore_ne _ other⟩
      · exact ⟨rfl, rfl, rfl, rfl, fun _ _ => rfl⟩
  · exact ⟨rfl, rfl, rfl, rfl, fun _ _ => rfl⟩

theorem State.stopCore_frame (s : State) (c : Nat) : (s.stopCore c).dies = s.dies ∧ (s.stopCore c).kraox = s.kraox ∧ (s.stopCore c).power = s.power ∧
    (s.stopCore c).mgmt = s.mgmt ∧ ∀ d, d ≠ c → (s.stopCore c).core d = s.core d := by
  unfold State.stopCore
  split
  · exact ⟨rfl, rfl, rfl, rfl, fun _ _ => rfl⟩
  · obtain ⟨dies, kraox, power, mgmt, other⟩ := (s.updCore c fun k => { k with stopReq := true, doneReq := none }).settle_frame c
    exact ⟨dies, kraox, power, mgmt, fun d apart => (other d apart).trans (State.core_updCore_ne _ _ apart)⟩

theorem State.stopCore_idle {c : Nat} (queue : (s.core c).queue = []) (sigs : (s.core c).sigs = []) : ((s.stopCore c).core c).st = .idle := by
  unfold State.stopCore
  split
  · next idle => exact idle
  · have core : (s.updCore c fun k => { k with stopReq := true, doneReq := none }).core c = { s.core c with stopReq := true, doneReq := none } :=
      State.core_updCore_self _ _ _
    rw [State.settle_of_stopped (by rw [core]; exact queue) (by rw [core]; exact sigs) (by rw [core]) (by rw [core]), State.core_setCore_self]

theorem State.stopCores_idle (cs : List Nat) (c : Nat) : ∀ s : State,
    ((s.core c).st = .idle ∨ (c ∈ cs ∧ (s.core c).queue = [] ∧ (s.core c).sigs = [])) → ((cs.foldl State.stopCore s).core c).st = .idle := by
  induction cs with
  | nil => exact fun s either => either.elim id fun all => absurd all.1 List.not_mem_nil
  | cons d ds ih =>
    intro s either
    refine ih (s.stopCore d) ?_
    by_cases here : c = d
    · subst here
      rcases either with idle | ⟨-, queue, sigs⟩
      · refine .inl ?_
        rw [State.stopCore, if_pos idle]
        exact idle
      · exact .inl (State.stopCore_idle queue sigs)
    · obtain ⟨-, -, -, -, other⟩ := s.stopCore_frame d
      rw [other c here]
      exact either.imp_right fun all => ⟨(List.mem_cons.1 all.1).resolve_left here, all.2⟩

theorem State.farewell_eq (s : State) : s.farewell = (List.range 6).foldl (fun s p => s.updPort p ((fun (s : State) (_ : Nat) (x : Port) =>
    if x.live then { x with tx := x.tx ++ [x.linkFlit 4 s.devId], st := .down, unacked := [] } else x) s p)) s := rfl

/-- No port is live once each has said farewell (R320). -/
theorem State.port_farewell (s : State) {p : Nat} (lt : p < 6) : (s.farewell.port p).live = false := by
  rw [State.farewell_eq]
  refine State.port_foldl_updPort _ (fun x : Port => x.live = false) (fun s p => ?_) p (List.range 6) s (.inl (List.mem_range.2 lt))
  split
  · rfl
  · next down => exact eq_false_of_ne_true down

theorem State.farewell_frame (s : State) : s.farewell.dies = s.dies ∧ s.farewell.cores = s.cores := by
  unfold State.farewell
  generalize List.range 6 = ports
  have kept := foldl_view (view := fun s : State => (s.dies, s.cores)) (f := fun s p => s.sendSet 4 p) (by intro s p; rfl) ports s
  exact ⟨congrArg Prod.fst kept, congrArg Prod.snd kept⟩

/-- The dies at idle. -/
def State.idled (s : State) : State := (List.range 21).foldl (fun s d => s.updDie d fun x => x.atIdle d) s

theorem State.idled_effect (s : State) : s.idled.cores = s.cores ∧ ∀ d, d < 21 → s.idled.die d = (s.die d).atIdle d := by
  refine ⟨foldl_view (view := State.cores) (by intro s d; rfl) _ _, fun d lt => ?_⟩
  refine (State.die_foldl_updDie (fun d x => x.atIdle d) d (List.range 21) s List.nodup_range).trans ?_
  rw [if_pos (List.mem_range.2 lt)]

theorem diesIdle_effect (graced : s.power.stage = 2) : ∃ t, exec .diesIdle s = .next t ∧ t.power.stage = 3 ∧ (∀ i, i < 6 → (t.port i).live = false) ∧
    (∀ d, d < 21 → t.die d = (s.die d).atIdle d) ∧ ∀ c, c < 80 → (s.core c).queue = [] → (s.core c).sigs = [] → (t.core c).st = .idle := by
  have executed : exec .diesIdle s = .next ((((List.range 80).foldl State.stopCore s).idled.farewell).updPower fun p => { p with stage := 3 }) :=
    congrArg Host.Outcome.next (if_pos graced)
  have stopped := foldl_view (view := fun s : State => s.dies) (fun s c => (s.stopCore_frame c).1) (List.range 80) s
  have idle : ∀ c, c < 80 → (s.core c).queue = [] → (s.core c).sigs = [] → (((List.range 80).foldl State.stopCore s).core c).st = .idle :=
    fun c lt queue sigs => State.stopCores_idle _ c s (.inr ⟨List.mem_range.2 lt, queue, sigs⟩)
  rw [executed]
  generalize (List.range 80).foldl State.stopCore s = s1 at stopped idle ⊢
  obtain ⟨cores, dies⟩ := s1.idled_effect
  obtain ⟨dies', cores'⟩ := s1.idled.farewell_frame
  have ports : ∀ i, i < 6 → (s1.idled.farewell.port i).live = false := fun i lt => s1.idled.port_farewell lt
  generalize s1.idled.farewell = s2 at dies' cores' ports ⊢
  refine ⟨_, rfl, rfl, ports, fun d lt => ?_, fun c lt queue sigs => ?_⟩
  · rw [State.die_updPower, State.die_congr dies', dies d lt, State.die_congr stopped]
  · rw [State.core_updPower, State.core_congr (cores'.trans cores)]
    exact idle c lt queue sigs

/-! ### Steps off -/

/-- What the cores of a die whose supply is off read. -/
theorem State.core_supplyOff (s : State) {ds : List Nat} {d c : Nat} (member : d ∈ ds) (on : c ∈ dieCores d) :
    ((s.supplyOff ds).core c).sp = [] ∧ ((s.supplyOff ds).core c).st = .idle := by
  have there : c ∈ ds.flatMap dieCores := List.mem_flatMap.2 ⟨d, member, on⟩
  have cores : (s.supplyOff ds).cores = (s.cores.map fun e => if e.1 ∈ ds.flatMap dieCores then (e.1, e.2.unpowered) else e).filter
    fun e => decide (e.2 ≠ CoreState.reset) := rfl
  unfold State.core Sparse.get
  rw [cores]
  cases found : Sparse.find? ((s.cores.map fun e => if e.1 ∈ ds.flatMap dieCores then (e.1, e.2.unpowered) else e).filter
    fun e => decide (e.2 ≠ CoreState.reset)) c with
  | none => exact ⟨rfl, rfl⟩
  | some k =>
    obtain ⟨listed, -⟩ := List.mem_filter.1 (Sparse.mem_of_find? found)
    obtain ⟨e, -, same⟩ := List.mem_map.1 listed
    split at same
    · obtain ⟨-, is⟩ := Prod.mk.inj same
      rw [← is]
      exact ⟨rfl, rfl⟩
    · next out =>
      rw [same] at out
      exact absurd there out

theorem State.mac_supplyOff (s : State) {ds : List Nat} {d c m : Nat} (member : d ∈ ds) (on : c ∈ dieCores d) (lt : m < 72) :
    (s.supplyOff ds).mac c m = MacroState.reset m := by
  have there : c ∈ ds.flatMap dieCores := List.mem_flatMap.2 ⟨d, member, on⟩
  have macros : (s.supplyOff ds).macros = s.macros.filter (fun e => decide (e.1 / 72 ∉ ds.flatMap dieCores)) := rfl
  unfold State.mac Sparse.get
  rw [macros, Sparse.find?_filter (fun k => decide (k / 72 ∉ ds.flatMap dieCores))]
  have key : macKey c m / 72 = c := by
    unfold macKey
    omega
  rw [key, if_neg (by simpa using there)]
  rfl

theorem dieStepOff_effect {k : Nat} (st : s.power.st = .down (k + 1)) (idle : s.power.stage = 3) : ∃ t, exec .dieStepOff s = .next t ∧
    t.power.st = .down k ∧ (∀ d, (k = 0 → d = 20) → (k ≠ 0 → d < 20 ∧ d / 4 + 1 = k) → (t.die d).reg = .off ∧ (t.die d).inReset = true ∧
      ∀ c ∈ dieCores d, (t.core c).sp = [] ∧ (t.core c).st = .idle ∧ ∀ m, m < 72 → (t.mac c m) = MacroState.reset m) := by
  generalize named : (if k = 0 then [20] else (List.range 4).map fun i => 4 * (k - 1) + i) = ds
  have executed : exec .dieStepOff s = .next (((ds.foldl (fun s d => s.updDie d fun x => { x with reg := .off, inReset := true }) s).supplyOff ds).updPower
      fun p => { p with st := .down k }) := by
    rw [← named]
    show execDieStepOff s = _
    unfold execDieStepOff
    rw [st]
    dsimp only
    rw [if_neg (not_not_intro idle)]
  have distinct : ds.Nodup := by
    rw [← named]
    split
    · exact List.nodup_singleton _
    · refine List.nodup_range.map fun a b same => ?_
      omega
  refine ⟨_, executed, rfl, fun d hub_ array => ?_⟩
  have member : d ∈ ds := by
    rw [← named]
    split
    · next zero => rw [hub_ zero]; exact List.mem_singleton_self _
    · next more =>
      obtain ⟨lt, at_⟩ := array more
      exact List.mem_map.2 ⟨d % 4, List.mem_range.2 (by omega), by omega⟩
  have die : (((ds.foldl (fun s d => s.updDie d fun x => { x with reg := .off, inReset := true }) s).supplyOff ds).updPower
      fun p => { p with st := .down k }).die d = { s.die d with reg := .off, inReset := true } := by
    refine (State.die_foldl_updDie (fun _ x => { x with reg := .off, inReset := true }) d ds s distinct).trans ?_
    rw [if_pos member]
  rw [die]
  refine ⟨rfl, rfl, fun c on => ?_⟩
  rw [State.core_updPower]
  obtain ⟨sp, st'⟩ := State.core_supplyOff (ds.foldl (fun s d => s.updDie d fun x => { x with reg := .off, inReset := true }) s) member on
  exact ⟨sp, st', fun m lt => State.mac_supplyOff _ member on lt⟩

/-! ### Off, and the way back -/

theorem busDischarged_effect (st : s.power.st = .down 0) : ∃ t, exec .busDischarged s = .next t ∧ t.power.st = .minOff ∧ t.power.busOn = false ∧
    t.cores = [] ∧ t.macros = [] ∧ t.power.cause = s.power.cause := by
  obtain ⟨off, cause, bus, cores, macros⟩ := s.allOff_effect .minOff s.power.cause
  exact ⟨_, congrArg Host.Outcome.next (if_pos st), off, bus, cores, macros, cause⟩

theorem exec_minOffExpire (st : s.power.st = .minOff) : exec .minOffExpire s = .next (s.updPower fun p => { p with st := .standby }).startUp :=
  congrArg Host.Outcome.next (if_pos st)

theorem exec_minOffExpire_of_off (st : s.power.st = .minOff) (off : s.onHolds = false) :
    exec .minOffExpire s = .next { s with power := { s.power with st := .standby } } := by
  rw [exec_minOffExpire st, State.startUp_of_held]
  · rfl
  · rintro ⟨-, -, holds⟩
    exact absurd (off.symm.trans holds) (by decide)

theorem minOffExpire_effect (st : s.power.st = .minOff) (holds : s.onHolds = true) (up : s.mgmt.up = true) :
    ∃ t, exec .minOffExpire s = .next t ∧ t.power.st = .up 0 := by
  refine ⟨_, exec_minOffExpire st, ?_⟩
  rw [State.startUp_of_ready (s := s.updPower fun p => { p with st := .standby }) rfl up holds]
  rfl

theorem comparatorBackstop_of_off (off : exec .comparatorBackstop s = .next (s.allOff .minOff s.power.cause)) :
    ∃ t, exec .comparatorBackstop s = .next t ∧ t.power.st = .minOff ∧ t.cores = [] := by
  obtain ⟨st, -, -, cores, -⟩ := s.allOff_effect .minOff s.power.cause
  exact ⟨_, off, st, cores⟩

theorem exec_comparatorBackstop : exec .comparatorBackstop s = .next (match s.power.st with
    | .down _ => s.allOff .minOff s.power.cause
    | .up _ => if s.power.offDue then s.allOff .minOff s.power.cause else s
    | _ => s) := rfl

theorem exec_mgmtClkSwitch (powered : s.power.st ≠ .off) : exec .mgmtClkSwitch s = .next { s with power := { s.power with mgmtRef := true } } :=
  congrArg Host.Outcome.next (if_neg powered)

end

/-- Settles O43: one lemma per command of the sequence, in the order of Table 11.3. -/
theorem powerSequence : Obligations.PowerSequence := by
  unfold Obligations.PowerSequence
  intro s
  refine ⟨fun off => ?_, fun powered => ?_, auxStop_effect s, fun nid aux down gasp sound => islandBootDone_effect nid aux down gasp sound,
    fun nid why => ?_, exec_mgmtClkSwitch, onRequest_effect, onRequest_of_held, fun st untested clock => ⟨?_, ?_⟩, busInRegulation_effect,
    fun k st ready => ⟨dieStepComplete_effect st ready, dieStepComplete_off st ready⟩, fun k st waits => exec_dieStepComplete_of_hiccup st waits,
    offRequest_effect, fun k st => offRequest_of_step st, offRequest_of_bus, fun grace => ⟨exec_graceEnd_of_done grace, graceEnd_effect grace⟩,
    diesIdle_effect, fun k st idle _ => dieStepOff_effect st idle, busDischarged_effect, exec_minOffExpire_of_off, minOffExpire_effect,
    fun k st => comparatorBackstop_of_off ?_, fun k st off => comparatorBackstop_of_off ?_, fun rest => ?_⟩
  · exact ⟨_, congrArg Host.Outcome.next (if_pos off), off, rfl, rfl, rfl⟩
  · rw [exec_auxStart, if_neg powered]
  · rw [exec_islandBootDone, if_pos why]
  · rw [exec_busShortTestDone false st untested clock]
    rfl
  · obtain ⟨latched, cause, bus, -, -⟩ := (s.railShort 7 0 0 1).allOff_effect .latched 8
    exact ⟨_, exec_busShortTestDone true st untested clock, latched, cause, bus⟩
  · rw [exec_comparatorBackstop, st]
  · rw [exec_comparatorBackstop, st]
    dsimp only
    rw [if_pos off]
  · rw [exec_comparatorBackstop]
    rcases rest with st | st | st | st
    all_goals rw [st]

end Sys2Proof.Machine

/-! PROOFS. Whatever runs on a lost die, its loss leaves the dies' and the package's power states (R237 to R241). -/

namespace Sys2Proof.Machine

section

variable {s : State}

/-- The dies and the package's power. -/
def State.mains (s : State) : Sparse DieState × Power := (s.dies, s.power)

theorem State.mains_of_bodies {a b : State} (same : a.bodies = b.bodies) : a.mains = b.mains :=
  Prod.ext (congrArg (fun x => x.2.1) same) (congrArg (fun x => x.2.2.2.2.2) same)

theorem State.mains_updHub (s : State) (f : Hub → Hub) : (s.updHub f).mains = s.mains := rfl

theorem State.mains_updCore (s : State) (c : Nat) (f : CoreState → CoreState) : (s.updCore c f).mains = s.mains := rfl

theorem State.mains_updCores (cs : List Nat) (f : Nat → CoreState → CoreState) (s : State) :
    (cs.foldl (fun s c => s.updCore c (f c)) s).mains = s.mains := foldl_view (view := State.mains) (fun s c => s.mains_updCore c (f c)) cs s

theorem State.mains_journalDev (s : State) (code : Byte) (sk si : Nat) (d : W64) : (s.journalDev code sk si d).mains = s.mains :=
  State.mains_of_bodies (s.bodies_journalDev code sk si d)

theorem State.mains_finishCmd (s : State) (o : OutCmd) (a : Answer) : (s.finishCmd o a).mains = s.mains :=
  State.mains_of_bodies (s.bodies_post _)

theorem State.mains_endOps (s : State) (p : MaintOp → Bool) : (s.endOps p).mains = s.mains := State.mains_of_bodies (s.bodies_endOps p)

/-! ### Streams and programs that end -/

theorem State.mains_freeStream (s : State) (n : Nat) : (s.freeStream n).mains = s.mains := by
  unfold State.freeStream
  dsimp only
  split
  · rfl
  · split
    · rw [State.mains_finishCmd, State.mains_updHub]
    · rfl

theorem State.mains_endRequest (s : State) (n status : Nat) (detail : W32) (spec : Bool) : (s.endRequest n status detail spec).mains = s.mains :=
  State.mains_of_bodies (s.bodies_endRequest n status detail spec)

theorem State.mains_endQueued (s : State) (n status : Nat) : (s.endQueued n status).mains = s.mains :=
  State.mains_of_bodies (s.bodies_endQueued n status)

theorem State.mains_dropStream (s : State) (n status : Nat) : (s.dropStream n status).mains = s.mains := by
  unfold State.dropStream
  rw [State.mains_freeStream, State.mains_endQueued]
  split
  · exact s.mains_endRequest _ _ _ _
  · rfl

theorem State.mains_nextQueued (s : State) (n : Nat) : (s.nextQueued n).mains = s.mains := State.mains_of_bodies (s.bodies_nextQueued n)

theorem State.mains_afterInv (s : State) (n : Nat) : (s.afterInv n).mains = s.mains := by
  unfold State.afterInv
  dsimp only
  split
  · rw [State.mains_dropStream, State.mains_updHub]
  · split
    · rfl
    · exact s.mains_nextQueued n

theorem State.mains_releaseStream (s : State) (n : Nat) : (s.releaseStream n).mains = s.mains := by
  unfold State.releaseStream
  rw [State.mains_nextQueued, State.mains_updHub]

theorem State.mains_releaseProg (s : State) (prog : Nat) : (s.releaseProg prog).mains = s.mains :=
  foldl_view (view := State.mains) State.mains_releaseStream _ s

theorem State.mains_holdProg (s : State) (prog : Nat) : (s.holdProg prog).mains = s.mains := by
  obtain ⟨_, same⟩ := s.holdProg_frame prog
  rw [same]
  rfl

theorem State.mains_stopCore (s : State) (c : Nat) : (s.stopCore c).mains = s.mains := by
  obtain ⟨dies, -, power, -⟩ := s.stopCore_frame c
  exact Prod.ext dies power

theorem State.mains_unloadImage (s : State) (i : Image) (b : List Nat) (handle : Nat) : (s.unloadImage i b handle).mains = s.mains := by
  unfold State.unloadImage
  dsimp only
  rw [State.mains_updHub, foldl_view (view := State.mains) (fun s c => s.mains_updCore c _),
    foldl_view (view := State.mains) (fun s h => s.mains_updCore _ _)]
  exact foldl_view (view := State.mains) (by intro s m; rfl) _ s

theorem State.mains_removeProgram (s : State) (g : Program) : (s.removeProgram g).mains = s.mains := by
  unfold State.removeProgram
  dsimp only
  rw [State.mains_updHub, State.mains_unloadImage, foldl_view (view := State.mains) State.mains_stopCore, State.mains_updHub]
  exact foldl_view (view := State.mains) (fun s n => s.mains_dropStream n 8) _ s

theorem State.mains_finishProg (s : State) (g : Program) (a : Answer) : (s.finishProg g a).mains = s.mains := by
  unfold State.finishProg
  split
  · rfl
  · exact s.mains_finishCmd _ _

/-! ### Rebindings and installs that are abandoned -/

theorem State.mains_partResult (s : State) (p v : Nat) : (s.partResult p v).mains = s.mains := by
  unfold State.partResult State.mains
  rw [State.event_dies, State.event_power]
  rfl

theorem State.mains_cancelChange (s : State) (p why : Nat) : (s.cancelChange p why).mains = s.mains := by
  unfold State.cancelChange
  split
  · split
    · rfl
    · rw [State.mains_partResult, State.mains_updHub]
  · rfl

theorem State.mains_releaseCore (s : State) (c : Nat) : (s.releaseCore c).mains = s.mains := by
  unfold State.releaseCore
  split <;> rfl

theorem State.mains_dropRebind (s : State) (r : Rebind) : (s.dropRebind r).mains = s.mains := by
  unfold State.dropRebind
  dsimp only
  rw [State.mains_cancelChange]
  have report : ∀ u : State, u.mains = s.mains → (if r.result then ((u.journalDev 0xAF 2 r.prog (BitVec.ofNat 64 r.part)).startWaiting r.part).partResult r.part 0xAF
      else (u.journalDev 0xAF 2 r.prog (BitVec.ofNat 64 r.part)).startWaiting r.part).mains = s.mains := by
    intro u same
    split
    · rw [State.mains_partResult, State.startWaiting, State.mains_updHub, State.mains_journalDev, same]
    · rw [State.startWaiting, State.mains_updHub, State.mains_journalDev, same]
  refine report _ ?_
  split
  · rw [State.mains_endOps]
    split
    · rw [foldl_view (view := State.mains) State.mains_releaseCore, State.mains_updHub]
    · rfl
  · rfl

theorem State.mains_retarget {t : State} {r : Rebind} (found : s.retarget r = some t) : t.mains = s.mains := by
  unfold State.retarget at found
  split at found
  · exact absurd found (by simp)
  · obtain ⟨b, -, is⟩ := Option.map_eq_some_iff.1 found
    rw [← is]
    rfl

theorem State.mains_dropInstall (s : State) (g : Program) : (s.dropInstall g).mains = s.mains := by
  unfold State.dropInstall
  dsimp only
  rw [State.mains_journalDev]
  split
  · rw [State.mains_finishProg, State.mains_updHub, State.mains_unloadImage]
  · rw [State.mains_finishProg, State.mains_updHub]
  · rw [State.mains_finishProg, State.mains_releaseProg, State.mains_updHub]

theorem State.mains_abandon (s : State) (d : Nat) (ps : List Nat) : (s.abandon d ps).mains = s.mains := by
  unfold State.abandon
  dsimp only
  rw [foldl_view (view := State.mains) State.mains_dropInstall]
  refine foldl_view (view := State.mains) (fun s r => ?_) _ s
  split
  · split
    · exact s.mains_dropRebind r
    · split
      · next t found => exact State.mains_retarget found
      · exact s.mains_dropRebind r
  · split
    · rfl
    · exact s.mains_dropRebind r

/-! ### Programs that are recovered -/

theorem State.mains_enterRebind (s : State) (g : Program) (b : List Nat) (recover result : Bool) :
    (s.enterRebind g b recover result).mains = s.mains := by
  unfold State.enterRebind
  rw [State.mains_updHub]
  exact State.mains_of_bodies (s.bodies_beginOp _)

theorem State.mains_parkProgram (s : State) (g : Program) : (s.parkProgram g).mains = s.mains := by
  unfold State.parkProgram
  rw [State.mains_journalDev, State.mains_holdProg, State.mains_updHub]

theorem State.mains_vacate (s : State) (c : Nat) : (s.vacate c).mains = s.mains := by
  unfold State.vacate State.offlineCore
  rw [State.mains_updCore]
  refine foldl_view (view := State.mains) (fun s m => ?_) _ s
  split <;> rfl

theorem State.mains_passCores (s : State) (a b : Nat) (cs : List Nat) : (s.passCores a b cs).mains = s.mains := by
  unfold State.passCores
  dsimp only
  rw [foldl_view (view := State.mains) fun s c => (State.mains_updCore _ _ _).trans (s.mains_vacate c), State.mains_updHub]

theorem State.mains_borrow (s : State) (g : Program) (ls : List Nat) : (s.borrow g ls).1.mains = s.mains := by
  unfold State.borrow
  dsimp only
  split
  · rfl
  · split
    · exact s.mains_passCores _ _ _
    · split
      · rfl
      · split
        · rw [State.mains_passCores, State.mains_removeProgram]
        · rfl

theorem State.mains_recover (s : State) (g : Program) : (s.recover g).mains = s.mains := by
  unfold State.recover
  dsimp only
  generalize stopped : State.endOps (List.foldl State.stopCore _ _) (rebindOpOf g) = s4
  have first : s4.mains = s.mains := by
    rw [← stopped, State.mains_endOps, foldl_view (view := State.mains) State.mains_stopCore]
    refine (foldl_view (view := State.mains) (fun s n => ?_) _ _).trans (State.mains_updHub _ _)
    rw [State.mains_afterInv, State.mains_endQueued]
    split
    · rw [State.mains_endRequest, State.mains_updHub]
    · rfl
  split
  · rw [State.mains_enterRebind, first]
  · next ls _ =>
    have borrowed := s4.mains_borrow g ((List.range g.lcores.length).filter fun l => (s4.die (coreDie (g.lcores.getD l 0))).gone)
    split
    · next t b e => rw [State.mains_enterRebind, ← first, ← borrowed, e]
    · next t e => rw [State.mains_parkProgram, ← first, ← borrowed, e]

theorem State.mains_fenced (s : State) (cs : List Nat) : (s.fenced cs).mains = s.mains :=
  (State.mains_updCores cs (fun _ => CoreState.fence) s)

theorem State.mains_cutOff (s : State) (d : Nat) (cs chans : List Nat) : (s.cutOff d cs chans).mains = s.mains :=
  (State.mains_of_bodies (s.bodies_cutOff d cs chans)).trans (s.mains_fenced cs)

theorem State.isolate_eq (s : State) (d : Nat) : ∃ (chans touched : List Nat) (hit : List Program), s.isolate d =
    hit.foldl (fun s g => match s.hub.prog g.handle with
      | some x => if x.st = .installing then s else s.recover x
      | none => s) ((s.cutOff d (dieCores d) chans).abandon d touched) := ⟨_, _, _, rfl⟩

theorem State.mains_isolate (s : State) (d : Nat) : (s.isolate d).mains = s.mains := by
  obtain ⟨chans, touched, hit, same⟩ := s.isolate_eq d
  rw [same]
  refine (foldl_view (view := State.mains) (fun s g => ?_) _ _).trans ((State.mains_abandon _ _ _).trans (s.mains_cutOff _ _ _))
  split
  · split
    · rfl
    · exact s.mains_recover _
  · rfl

/-- A die that is lost: its entry says so, and nothing else of the dies and the power changes. -/
theorem State.loseDie_mains {d : Nat} (alive : (s.die d).lost = false) : (s.loseDie d).power = s.power ∧
    (s.loseDie d).die d = { s.die d with
      lost := true, inReset := true, resetHold := false, retestDue := false, oldParts := [], move := Move.none } := by
  have loses : s.loseDie d = ((s.updDie d fun x => { x with
      lost := true, inReset := true, resetHold := false, retestDue := false, oldParts := [], move := Move.none }).journalBare 0xB0 1 d).isolate d := by
    unfold State.loseDie
    rw [if_neg (by rw [alive]; decide)]
  have same := State.mains_isolate ((s.updDie d fun x => { x with
      lost := true, inReset := true, resetHold := false, retestDue := false, oldParts := [], move := Move.none }).journalBare 0xB0 1 d) d
  rw [loses]
  refine ⟨(congrArg Prod.snd same).trans ?_, (State.die_congr (congrArg Prod.fst same) d).trans ?_⟩
  · exact (State.journalBare_power _ _ _ _).trans (State.updDie_power _ _ _)
  · rw [State.die_journalBare, State.die_updDie_self]

end

end Sys2Proof.Machine

/-! PROOFS. Regulator, bus, phase and power-die faults (R259 to R266). -/

namespace Sys2Proof.Machine

section

variable {s : State} {d : DieId}

/-! ### Regulators -/

theorem State.latchOff_of_hub (s : State) (w : Nat) : (s.latchOff 20 w).power.st = .latched ∧ (s.latchOff 20 w).power.cause = 8 := by
  unfold State.latchOff
  dsimp only
  rw [if_pos rfl]
  exact ⟨rfl, rfl⟩

theorem State.railShort_frame (s : State) (k src w n : Nat) : (s.railShort k src w n).power = s.power ∧ ∀ e, (s.railShort k src w n).die e = s.die e :=
  ⟨State.journalDev_power _ _ _ _ _, fun e => State.die_journalDev _ _ _ _ _ e⟩

theorem State.latchOff_eq {d : Nat} (array : d < 20) (up : ∀ k, s.power.st ≠ .down k) (w : Nat) :
    s.latchOff d w = ((s.railShort 1 d w (s.die d).attempts).updDie d fun x => { x with reg := .latched, inReset := true }).loseDie d := by
  have power := (s.railShort_frame 1 d w (s.die d).attempts).1
  unfold State.latchOff
  dsimp only
  rw [if_neg (by omega)]
  split
  · next k st => exact absurd st (up k)
  · rfl

/-- An array die whose regulator latches off outside DOWN is lost (R261). -/
theorem State.latchOff_of_array {d : Nat} (array : d < 20) (up : ∀ k, s.power.st ≠ .down k) (alive : (s.die d).lost = false) (w : Nat) :
    ((s.latchOff d w).die d).lost = true ∧ ((s.latchOff d w).die d).reg = .latched ∧ (s.latchOff d w).power.st = s.power.st := by
  obtain ⟨power, die⟩ := s.railShort_frame 1 d w (s.die d).attempts
  rw [State.latchOff_eq array up]
  generalize named : (s.railShort 1 d w (s.die d).attempts).updDie d (fun x => { x with reg := .latched, inReset := true }) = s1
  have power1 : s1.power = s.power := by
    rw [← named, State.updDie_power, power]
  have die1 : s1.die d = { s.die d with reg := .latched, inReset := true } := by
    rw [← named, State.die_updDie_self, die]
  obtain ⟨power2, die2⟩ := State.loseDie_mains (s := s1) (d := d) (by rw [die1]; exact alive)
  rw [die2, power2, power1, die1]
  exact ⟨rfl, rfl, rfl⟩

section

variable (attempt : (s.die d).reg = .attempt)

include attempt

theorem exec_softStartFail : exec (.softStartFail d) s = .next (if s.power.offDue then s.updDie d fun x => { x with reg := .off }
    else if (s.die d).attempts < 4 then s.updDie d fun x => { x with reg := .hiccup } else s.latchOff d 2) :=
  congrArg Host.Outcome.next (if_neg (not_not_intro attempt))

theorem exec_softStartFail_of_off (off : s.power.offDue = true) :
    exec (.softStartFail d) s = .next (s.setDie d { s.die d with reg := .off }) := by
  rw [exec_softStartFail attempt, if_pos off]
  rfl

variable (on : s.power.offDue = false)

include on

theorem exec_softStartFail_of_hiccup (few : (s.die d).attempts < 4) :
    exec (.softStartFail d) s = .next (s.setDie d { s.die d with reg := .hiccup }) := by
  rw [exec_softStartFail attempt, if_neg (by rw [on]; decide), if_pos few]
  rfl

theorem exec_softStartFail_of_last (many : 4 ≤ (s.die d).attempts) : exec (.softStartFail d) s = .next (s.latchOff d 2) := by
  rw [exec_softStartFail attempt, if_neg (by rw [on]; decide), if_neg (by omega)]

theorem softStartFail_of_array (many : 4 ≤ (s.die d).attempts) (array : d.val < 20) (up : ∀ k, s.power.st ≠ .down k)
    (alive : (s.die d).lost = false) :
    ∃ t, exec (.softStartFail d) s = .next t ∧ (t.die d).lost = true ∧ (t.die d).reg = .latched ∧ t.power.st = s.power.st :=
  ⟨_, exec_softStartFail_of_last attempt on many, State.latchOff_of_array array up alive 2⟩

theorem softStartFail_of_hub (many : 4 ≤ (s.die d).attempts) (hub : d.val = 20) :
    ∃ t, exec (.softStartFail d) s = .next t ∧ t.power.st = .latched ∧ t.power.cause = 8 := by
  refine ⟨_, exec_softStartFail_of_last attempt on many, ?_⟩
  rw [hub]
  exact s.latchOff_of_hub 2

end

theorem exec_regulatorLatchOff (on : (s.die d).reg = .on) : exec (.regulatorLatchOff d) s = .next (s.latchOff d 3) :=
  congrArg Host.Outcome.next (if_pos on)

theorem exec_hiccupExpire (hiccup : (s.die d).reg = .hiccup) : exec (.hiccupExpire d) s =
    .next (s.setDie d { s.die d with reg := .attempt, attempts := (s.die d).attempts + 1 }) := congrArg Host.Outcome.next (if_pos hiccup)

theorem exec_busShort : exec .busShort s = .next (if s.power.busTested then (s.railShort 7 0 1 1).allOff .latched 8 else s) := rfl

/-! ### Phases -/

theorem fitPoint_le (d n : Nat) : ∀ cap, fitPoint d n cap ≤ cap
  | 0 => le_rfl
  | p + 1 => by
    unfold fitPoint
    split
    · exact le_rfl
    · exact (fitPoint_le d n p).trans (Nat.le_succ p)

theorem bitOf_and_not_two_pow {w : Nat} (v : BitVec w) (i j : Nat) : bitOf (v &&& ~~~BitVec.ofNat w (2 ^ i)) j = (bitOf v j && decide (i ≠ j)) := by
  rw [bitOf_eq_getLsbD, bitOf_eq_getLsbD, BitVec.getLsbD_and, BitVec.getLsbD_not, BitVec.getLsbD_ofNat, Nat.testBit_two_pow]
  by_cases lt : j < w
  · simp [lt]
  · simp [BitVec.getLsbD_of_ge v j (by omega)]

theorem bitOf_or_two_pow {w : Nat} (v : BitVec w) (i j : Nat) : bitOf (v ||| BitVec.ofNat w (2 ^ i)) j = (bitOf v j || (decide (j < w) && decide (i = j))) := by
  rw [bitOf_eq_getLsbD, bitOf_eq_getLsbD, BitVec.getLsbD_or, BitVec.getLsbD_ofNat, Nat.testBit_two_pow]

theorem phasesOn_eq_sum (v : BitVec 24) : phasesOn v = ∑ i ∈ Finset.range 24, bitAt (bitOf v i) 0 := rfl

/-- One phase fewer in service. -/
theorem phasesOn_drop (v : BitVec 24) (ph : Fin 24) (on : bitOf v ph = true) :
    phasesOn (v &&& ~~~BitVec.ofNat 24 (2 ^ ph.val)) + 1 = phasesOn v := by
  have one : ∑ i ∈ Finset.range 24, (if i = ph.val then 1 else 0) = 1 := by
    rw [Finset.sum_ite_eq' (Finset.range 24) ph.val fun _ => 1, if_pos (Finset.mem_range.2 ph.isLt)]
  rw [phasesOn_eq_sum, phasesOn_eq_sum, ← one, ← Finset.sum_add_distrib]
  refine Finset.sum_congr rfl fun i _ => ?_
  rw [bitOf_and_not_two_pow]
  by_cases here : i = ph.val
  · subst here
    simp [on, bitAt]
  · simp [here, Ne.symm here]

theorem phasesOn_add (v : BitVec 24) (i : Nat) : phasesOn v ≤ phasesOn (v ||| BitVec.ofNat 24 (2 ^ i)) := by
  rw [phasesOn_eq_sum, phasesOn_eq_sum]
  refine Finset.sum_le_sum fun j _ => ?_
  rw [bitOf_or_two_pow]
  cases bitOf v j
  · exact Nat.zero_le _
  · simp

/-- The spare that comes in for a dropped phase, where there is one. -/
def phaseSpare (x : DieState) (ph : Nat) : Option Nat :=
  (List.range 24).find? fun i => !bitOf (x.inService &&& ~~~BitVec.ofNat 24 (2 ^ ph)) i && !bitOf (x.dropped ||| BitVec.ofNat 24 (2 ^ ph)) i

/-- The phases in service once one is dropped and its spare comes in (R264). -/
def phasesNow (x : DieState) (ph : Nat) : BitVec 24 :=
  let used := x.inService &&& ~~~BitVec.ofNat 24 (2 ^ ph)
  match phaseSpare x ph with
  | some i => used ||| BitVec.ofNat 24 (2 ^ i)
  | none => used

theorem phasesNow_effect (x : DieState) (ph : Fin 24) (on : bitOf x.inService ph = true) : bitOf (phasesNow x ph) ph = false ∧
    phasesOn x.inService - 1 ≤ phasesOn (phasesNow x ph) := by
  have fewer := phasesOn_drop x.inService ph on
  have gone : bitOf (x.inService &&& ~~~BitVec.ofNat 24 (2 ^ ph.val)) ph = false := by
    rw [bitOf_and_not_two_pow]
    simp
  unfold phasesNow
  dsimp only
  split
  · next i found =>
    have free := List.find?_some found
    have apart : i ≠ ph.val := by
      rintro rfl
      rw [bitOf_or_two_pow] at free
      simp at free
    refine ⟨?_, ?_⟩
    · rw [bitOf_or_two_pow, gone]
      simp [apart]
    · have := phasesOn_add (x.inService &&& ~~~BitVec.ofNat 24 (2 ^ ph.val)) i
      omega
  · exact ⟨gone, by omega⟩

/-- A die with one phase dropped, its spare in, and its point capped to what they carry. -/
def DieState.lessPhase (x : DieState) (d ph : Nat) : DieState :=
  { x with inService := phasesNow x ph, dropped := x.dropped ||| BitVec.ofNat 24 (2 ^ ph),
           phaseCap := fitPoint d (phasesOn (phasesNow x ph)) x.phaseCap }

theorem phasesNow_of_none {x : DieState} {ph : Nat} (found : phaseSpare x ph = none) :
    phasesNow x ph = x.inService &&& ~~~BitVec.ofNat 24 (2 ^ ph) := by
  unfold phasesNow
  rw [found]

theorem phasesNow_of_some {x : DieState} {ph i : Nat} (found : phaseSpare x ph = some i) :
    phasesNow x ph = x.inService &&& ~~~BitVec.ofNat 24 (2 ^ ph) ||| BitVec.ofNat 24 (2 ^ i) := by
  unfold phasesNow
  rw [found]

theorem State.dropPhase_of_enough {d ph : Nat} (many : 12 ≤ phasesOn (phasesNow (s.die d) ph)) (cause : Nat) :
    ∃ detail, s.dropPhase d ph cause = (s.setDie d ((s.die d).lessPhase d ph)).journalDev 0xC2 1 d detail := by
  cases found : phaseSpare (s.die d) ph
  case none =>
    have now := phasesNow_of_none found
    unfold phaseSpare at found
    unfold DieState.lessPhase State.dropPhase
    rw [now] at many ⊢
    dsimp only
    rw [found]
    dsimp only
    rw [if_neg (by omega)]
    exact ⟨_, rfl⟩
  case some i =>
    have now := phasesNow_of_some found
    unfold phaseSpare at found
    unfold DieState.lessPhase State.dropPhase
    rw [now] at many ⊢
    dsimp only
    rw [found]
    dsimp only
    rw [if_neg (by omega)]
    exact ⟨_, rfl⟩

theorem State.dropPhase_effect (ph : Fin 24) (on : bitOf (s.die d).inService ph = true) (many : 12 ≤ phasesOn (s.die d).inService - 1) (cause : Nat) :
    (s.dropPhase d ph cause).die d = (s.die d).lessPhase d ph ∧ (s.dropPhase d ph cause).cores = s.cores ∧
      (s.dropPhase d ph cause).hub.seq = s.hub.seq + 1 := by
  obtain ⟨-, left_⟩ := phasesNow_effect (s.die d) ph on
  obtain ⟨detail, drops⟩ := State.dropPhase_of_enough (s := s) (d := d) (ph := ph) (by omega) cause
  obtain ⟨-, next, -⟩ := (s.setDie d ((s.die d).lessPhase d ph)).journalDev_tables 0xC2 1 d detail
  rw [drops]
  refine ⟨?_, ?_, next⟩
  · rw [State.die_journalDev, State.die_setDie_self]
  · rw [State.journalDev_cores]
    rfl

theorem phaseFailOpen_effect (ph : Fin 24) (on : (s.die d).reg = .on) (used : bitOf (s.die d).inService ph = true)
    (many : 12 ≤ phasesOn (s.die d).inService - 1) :
    ∃ t, exec (.phaseFailOpen d ph) s = .next t ∧ bitOf (t.die d).inService ph = false ∧ bitOf (t.die d).dropped ph = true ∧
      phasesOn (s.die d).inService - 1 ≤ phasesOn (t.die d).inService ∧ (t.die d).phaseCap ≤ (s.die d).phaseCap ∧
      (t.die d).reg = .on ∧ t.cores = s.cores ∧ t.hub.seq = s.hub.seq + 1 := by
  obtain ⟨out, left_⟩ := phasesNow_effect (s.die d) ph used
  obtain ⟨die, cores, seq⟩ := State.dropPhase_effect ph used many 0
  refine ⟨_, congrArg Host.Outcome.next (if_pos ⟨on, used⟩), ?_⟩
  rw [die]
  refine ⟨out, ?_, left_, fitPoint_le _ _ _, on, cores, seq⟩
  unfold DieState.lessPhase
  dsimp only
  rw [bitOf_or_two_pow]
  simp

/-- The readings of a regulator do not agree (R263): the sum of its phases' powers and its input are over 132 times VOUT apart. -/
def senseOff (x : DieState) (d : Nat) (cur : List Nat) (vout ibus : Nat) : Prop :=
  let a := ((List.range 24).map fun i => if bitOf x.inService i then cur.getD i 0 else 0).sum * vout
  let b := ibus * 1800 * Config.regEff d a / 1000
  132 * vout < a - b ∨ 132 * vout < b - a

theorem exec_phaseSenseCheck (cur : List Nat) (vout ibus : Nat) (rip : BitVec 24) (on : (s.die d).reg = .on) :
    ∃ t, exec (.phaseSenseCheck d cur vout ibus rip) s = .next t ∧
      (¬senseOff (s.die d) d cur vout ibus → t = s.setDie d { s.die d with mismatch := 0 }) ∧
      (senseOff (s.die d) d cur vout ibus → (s.die d).mismatch + 1 < 50 → t = s.setDie d { s.die d with mismatch := (s.die d).mismatch + 1 }) ∧
      (senseOff (s.die d) d cur vout ibus → 50 ≤ (s.die d).mismatch + 1 → ∀ ph, badSense (s.die d).inService rip cur = [ph] →
        t = (s.setDie d { s.die d with mismatch := 0 }).dropPhase d ph 1) := by
  have executed : ∃ bad : Bool, (bad = true ↔ senseOff (s.die d) d cur vout ibus) ∧ exec (.phaseSenseCheck d cur vout ibus rip) s = .next
      (if bad = false then s.updDie d fun x => { x with mismatch := 0 }
        else if (s.die d).mismatch + 1 < 50 then s.updDie d fun x => { x with mismatch := x.mismatch + 1 }
        else match badSense (s.die d).inService rip cur with
          | [ph] => (s.updDie d fun x => { x with mismatch := 0 }).dropPhase d ph 1
          | _ => (s.updDie d fun x => { x with mismatch := 0 }).journalDev 0xC2 1 d
              (phaseDetail 0xFE 3 (phasesOn (s.die d).inService) false false (s.die d).phaseCap)) := by
    refine ⟨_, ?_, congrArg Host.Outcome.next ((if_neg (not_not_intro on)).trans rfl)⟩
    rw [Bool.or_eq_true, decide_eq_true_eq, decide_eq_true_eq]
    rfl
  obtain ⟨bad, is, executed⟩ := executed
  refine ⟨_, executed, fun fits => ?_, fun off few => ?_, fun off many ph one => ?_⟩
  · rw [if_pos (eq_false_of_ne_true fun b => fits (is.1 b))]
    rfl
  · rw [if_neg (by rw [is.2 off]; decide), if_pos few]
    rfl
  · rw [if_neg (by rw [is.2 off]; decide), if_neg (by omega), one]
    rfl

/-! ### Power dies -/

theorem bitsOn_drop : ∀ (v : BitVec 4) (pd : PowerDie), bitOf v pd = true →
    bitsOn (v &&& ~~~BitVec.ofNat 4 (2 ^ pd.val)) + 1 = bitsOn v ∧ bitOf (v &&& ~~~BitVec.ofNat 4 (2 ^ pd.val)) pd = false := by decide

theorem exec_powerDieFault_of_out (pd : PowerDie) (out : bitOf s.power.pdOn pd = false ∨ s.power.st = .off) : exec (.powerDieFault pd) s = .next s := by
  refine congrArg Host.Outcome.next (if_neg ?_)
  rintro ⟨on, powered⟩
  rcases out with gone | off
  · exact absurd (gone.symm.trans on) (by decide)
  · exact powered off

/-- A power die taken out of service, with its record. -/
def State.powerDieOut (s : State) (pd : PowerDie) : State :=
  (s.updPower fun p => { p with pdOn := s.power.pdOn &&& ~~~BitVec.ofNat 4 (2 ^ pd.val) }).journalDev 0xC2 6 pd
    (phaseDetail 0xFF 2 (bitsOn (s.power.pdOn &&& ~~~BitVec.ofNat 4 (2 ^ pd.val))) false false 0)

theorem State.offRequest_pdOn (s : State) (cause : Nat) (grace : Bool) : (s.offRequest cause grace).power.pdOn = s.power.pdOn := by
  obtain ⟨power, -⟩ := s.stopHub_frame
  unfold State.offRequest
  generalize s.stopHub = s1 at power ⊢
  have same := congrArg Power.pdOn power
  split
  · exact same
  · exact same
  · rw [foldl_view (view := State.power) (by intro s d; rfl)]
    exact same
  · rfl

theorem powerDieFault_effect (pd : PowerDie) (on : bitOf s.power.pdOn pd = true) (powered : s.power.st ≠ .off) :
    ∃ t, exec (.powerDieFault pd) s = .next t ∧ bitOf t.power.pdOn pd = false ∧
      (bitsOn s.power.pdOn = 3 → t.power.susCap = some 1000 ∧ t.power.peakCap = some 1300 ∧ t.power.st = s.power.st) ∧
      (bitsOn s.power.pdOn ≤ 2 → s.power.st = .on → t.power.st = .down 6 ∧ t.power.cause = 9) := by
  obtain ⟨fewer, gone⟩ := bitsOn_drop s.power.pdOn pd on
  have executed : exec (.powerDieFault pd) s = .next
      (if bitsOn (s.power.pdOn &&& ~~~BitVec.ofNat 4 (2 ^ pd.val)) = 2 then
        (s.powerDieOut pd).updPower fun p => { p with susCap := some 1000, peakCap := some 1300 }
      else if bitsOn (s.power.pdOn &&& ~~~BitVec.ofNat 4 (2 ^ pd.val)) ≤ 1 then (s.powerDieOut pd).offRequest 9 true else s.powerDieOut pd) :=
    congrArg Host.Outcome.next ((if_pos ⟨on, powered⟩).trans rfl)
  have power : (s.powerDieOut pd).power = { s.power with pdOn := s.power.pdOn &&& ~~~BitVec.ofNat 4 (2 ^ pd.val) } := by
    unfold State.powerDieOut
    rw [State.journalDev_power, State.updPower_power]
  generalize s.powerDieOut pd = s1 at power executed
  refine ⟨_, executed, ?_, fun three => ?_, fun two st => ?_⟩
  · split
    · rw [State.updPower_power, power]
      exact gone
    · split
      · rw [State.offRequest_pdOn, power]
        exact gone
      · rw [power]
        exact gone
  · rw [if_pos (by omega), State.updPower_power, power]
    exact ⟨rfl, rfl, rfl⟩
  · rw [if_neg (by omega), if_pos (by omega)]
    obtain ⟨down, -, cause, -⟩ := State.offRequest_effect (s := s1) (by rw [power]; exact st) 9 true
    exact ⟨down, cause⟩

theorem resetPowerDie_effect (s : State) : (s.resetPowerDie).2 = (if s.power.pdOn = 0xF then dOk else dState) ∧ (s.resetPowerDie).1 = s := by
  unfold State.resetPowerDie
  by_cases full : s.power.pdOn = 0xF#4
  · have full' : s.power.pdOn = 0xF := full
    rw [if_pos full, if_pos full']
    exact ⟨rfl, rfl⟩
  · have part : ¬s.power.pdOn = 0xF := full
    rw [if_neg full, if_neg part]
    exact ⟨rfl, rfl⟩

end

/-- Settles O44: regulators, phases and power dies, one lemma per fault; a lost die's isolation keeps the power states (`loseDie_mains`). -/
theorem powerFaults : Obligations.PowerFaults := by
  unfold Obligations.PowerFaults
  refine ⟨fun s d attempt => ⟨exec_softStartFail_of_off attempt, exec_softStartFail_of_hiccup attempt, softStartFail_of_array attempt,
      softStartFail_of_hub attempt⟩, fun s d hiccup => exec_hiccupExpire hiccup, fun s d on => ⟨fun array up alive => ?_, fun hub => ?_⟩,
    fun s tested => ?_, fun s untested => ?_, fun s d ph => phaseFailOpen_effect ph, fun s d cur vout ibus rip on => ?_,
    fun s pd => exec_powerDieFault_of_out pd, fun s pd => powerDieFault_effect pd, resetPowerDie_effect⟩
  · obtain ⟨lost, latched, -⟩ := State.latchOff_of_array array up alive 3
    exact ⟨_, exec_regulatorLatchOff on, latched, lost⟩
  · refine ⟨_, exec_regulatorLatchOff on, ?_⟩
    rw [hub]
    exact s.latchOff_of_hub 3
  · obtain ⟨st, cause, bus, -⟩ := (s.railShort 7 0 1 1).allOff_effect .latched 8
    rw [exec_busShort, if_pos tested]
    exact ⟨_, rfl, st, bus, cause⟩
  · rw [exec_busShort, if_neg (by rw [untested]; decide)]
  · exact exec_phaseSenseCheck cur vout ibus rip on

end Sys2Proof.Machine

/-! PROOFS. Safety triggers and SAFETY commands (R247, R253, R254, R267 to R270, R288, R394, R396). -/

namespace Sys2Proof.Machine

section

variable {s : State}

/-! ### The last gasp -/

theorem crc32Bit_lt {c : Nat} (lt : c < 2 ^ 32) : crc32Bit c < 2 ^ 32 := by
  unfold crc32Bit
  split
  · exact Nat.xor_lt_two_pow (by omega) (by decide)
  · omega

theorem crc32Byte_lt {c : Nat} (lt : c < 2 ^ 32) (b : Byte) : crc32Byte c b < 2 ^ 32 := by
  have first : Nat.xor c b.toNat < 2 ^ 32 := Nat.xor_lt_two_pow lt (by have := b.isLt; omega)
  unfold crc32Byte
  iterate 8 refine crc32Bit_lt ?_
  exact first

theorem crc32_lt (bs : List Byte) : crc32 bs < 2 ^ 32 := by
  have folded : ∀ (bs : List Byte) (c : Nat), c < 2 ^ 32 → bs.foldl crc32Byte c < 2 ^ 32 := by
    intro bs
    induction bs with
    | nil => exact fun c lt => lt
    | cons b bs ih => exact fun c lt => ih _ (crc32Byte_lt lt b)
  exact Nat.xor_lt_two_pow (folded bs _ (by decide)) (by decide)

theorem journalBytes_length (r : JournalRec) : (journalBytes r).length = 32 := by
  simp [journalBytes, packFields, leBytes_length]

theorem flatMap_journalBytes_length (rs : List JournalRec) : (rs.flatMap journalBytes).length = 32 * rs.length := by
  induction rs with
  | nil => rfl
  | cons r rs ih => rw [List.flatMap_cons, List.length_append, journalBytes_length, ih, List.length_cons]; omega

/-- An area closed by the CRC of its 1,032 bytes is intact. -/
theorem GaspArea.intact_of_body {body : List Byte} (length : body.length = 1032) (rs : List JournalRec) :
    ({ recs := rs, bytes := body ++ leBytes 4 (crc32 body) } : GaspArea).intact = true := by
  unfold GaspArea.intact
  dsimp only
  rw [List.drop_left' length, List.take_left' length, List.take_of_length_le (by rw [leBytes_length]), leNat_leBytes]
  exact decide_eq_true (Nat.mod_eq_of_lt (crc32_lt body))

theorem gaspArea_sound (rs : List JournalRec) (n : Nat) : (gaspArea rs n).intact = true ∧ (gaspArea rs n).recs = rs.take 32 := by
  have records : ((rs.take 32).flatMap journalBytes).length ≤ 1024 := by
    rw [flatMap_journalBytes_length, List.length_take]
    omega
  refine ⟨GaspArea.intact_of_body ?_ _, rfl⟩
  simp only [List.length_append, List.length_replicate, leBytes_length]
  omega

theorem exec_lastGaspDone (due : s.power.gaspDue = true) : exec .lastGaspDone s = .next (s.updPower fun p =>
    { p with gasp := (p.gasp ++ [gaspArea p.gaspBuf s.free]).drop (p.gasp.length - 1), gaspBuf := [], gaspDue := false }).bump :=
  congrArg Host.Outcome.next (if_pos due)

theorem lastGaspDone_effect (due : s.power.gaspDue = true) : ∃ t, exec .lastGaspDone s = .next t ∧ t.power.gaspDue = false ∧ t.power.gaspBuf = [] ∧
    t.power.gasp.getLast? = some (gaspArea s.power.gaspBuf s.free) ∧ t.power.gasp.length ≤ 2 ∧ t.hub = s.hub := by
  refine ⟨_, exec_lastGaspDone due, rfl, rfl, ?_, ?_, rfl⟩
  · show ((s.power.gasp ++ [gaspArea s.power.gaspBuf s.free]).drop (s.power.gasp.length - 1)).getLast? = _
    rw [List.drop_append_of_le_length (by omega)]
    exact List.getLast?_concat
  · show ((s.power.gasp ++ [gaspArea s.power.gaspBuf s.free]).drop (s.power.gasp.length - 1)).length ≤ 2
    rw [List.length_drop, List.length_append, List.length_singleton]
    omega

/-! ### Triggers -/

theorem State.trigger_of_on (on : s.power.st = .on) (cause : Nat) : s.trigger cause = s.allOff .minOff cause := by
  unfold State.trigger
  rw [on]

/-- What a trigger leaves of the power state but for the state and its cause. -/
theorem State.allOff_keeps (s : State) (to_ : PkgState) (cause : Nat) : (s.allOff to_ cause).power.vinOk = s.power.vinOk ∧
    (s.allOff to_ cause).power.gaspDue = s.power.gaspDue ∧ (s.allOff to_ cause).power.gaspBuf = s.power.gaspBuf ∧
    (s.allOff to_ cause).power.coolantOk = s.power.coolantOk ∧ (s.allOff to_ cause).power.hold = s.power.hold ∧
    (s.allOff to_ cause).power.thermTrip = s.power.thermTrip := ⟨rfl, rfl, rfl, rfl, rfl, rfl⟩

theorem State.failDownload_power (s : State) : s.failDownload.power = s.power := by
  unfold State.failDownload
  split
  · rfl
  · obtain ⟨m, same⟩ := s.dropDownload_frame
    rw [State.fwResult, State.updMaint_power, same]

theorem vinLost_effect (on : s.power.st = .on) (high : Bool) (vin : BitVec 16) (pw : W32) :
    (s.vinLost high vin pw).power.st = .minOff ∧ (s.vinLost high vin pw).power.cause = (if high then 5 else 4) ∧
      (s.vinLost high vin pw).power.vinOk = false ∧ (s.vinLost high vin pw).power.gaspDue = true ∧
      (s.vinLost high vin pw).power.gaspBuf.length ≤ 32 ∧ (s.vinLost high vin pw).cores = [] ∧ (s.vinLost high vin pw).macros = [] := by
  unfold State.vinLost
  rw [if_neg fun off => absurd (on.symm.trans off) (by decide)]
  dsimp only
  generalize kept : s.journalDev 0xC0 7 0 _ = s1
  have power : s1.power = s.power := by
    rw [← kept, State.journalDev_power]
  generalize lost : s1.failDownload.updPower _ = s2
  have power2 : s2.power = { s.power with vinOk := false, gaspBuf := s1.hub.unpersisted.drop (s1.hub.unpersisted.length - 32), gaspDue := true } := by
    rw [← lost, State.updPower_power, State.failDownload_power, power]
  rw [State.trigger_of_on (by rw [power2]; exact on)]
  obtain ⟨st, cause, -, cores, macros⟩ := s2.allOff_effect .minOff (if high then 5 else 4)
  obtain ⟨vin', due, buf, -⟩ := s2.allOff_keeps .minOff (if high then 5 else 4)
  rw [power2] at vin' due buf
  refine ⟨st, cause, vin', due, ?_, cores, macros⟩
  rw [buf, List.length_drop]
  omega

theorem exec_coolantStop (powered : s.power.st ≠ .off) (hist : W64) : exec (.coolantStop hist) s =
    .next (((s.updPower fun p => { p with coolantOk := false }).journalDev 0xC5 7 0 hist).trigger 6) := congrArg Host.Outcome.next (if_neg powered)

theorem coolantStop_effect (on : s.power.st = .on) (hist : W64) : ∃ t, exec (.coolantStop hist) s = .next t ∧ t.power.st = .minOff ∧
    t.power.cause = 6 ∧ t.power.coolantOk = false ∧ t.cores = [] := by
  rw [exec_coolantStop fun off => absurd (on.symm.trans off) (by decide)]
  generalize kept : (s.updPower fun p => { p with coolantOk := false }).journalDev 0xC5 7 0 hist = s1
  have power : s1.power = { s.power with coolantOk := false } := by
    rw [← kept, State.journalDev_power, State.updPower_power]
  rw [State.trigger_of_on (by rw [power]; exact on)]
  obtain ⟨st, cause, -, cores, -⟩ := s1.allOff_effect .minOff 6
  obtain ⟨-, -, -, coolant, -⟩ := s1.allOff_keeps .minOff 6
  rw [power] at coolant
  exact ⟨_, rfl, st, cause, coolant, cores⟩

theorem coolantStop_of_standby (standby : s.power.st = .standby) (hist : W64) : ∃ t, exec (.coolantStop hist) s = .next t ∧ t.power.st = .standby ∧
    t.hub.seq = s.hub.seq + 1 := by
  rw [exec_coolantStop fun off => absurd (standby.symm.trans off) (by decide)]
  obtain ⟨-, next, -⟩ := (s.updPower fun p => { p with coolantOk := false }).journalDev_tables 0xC5 7 0 hist
  generalize kept : (s.updPower fun p => { p with coolantOk := false }).journalDev 0xC5 7 0 hist = s1 at next ⊢
  have power : s1.power.st = .standby := by
    rw [← kept, State.journalDev_power, State.updPower_power]
    exact standby
  have rests : s1.trigger 6 = s1 := by
    unfold State.trigger
    rw [power]
  rw [rests]
  exact ⟨_, rfl, power, next⟩

theorem thermalTrip_effect (on : s.power.st = .on) (d : DieId) (x : BitVec 6) : ∃ t, exec (.thermalTrip d x) s = .next t ∧ t.power.st = .minOff ∧
    t.power.cause = 7 ∧ t.power.hold = true ∧ t.power.thermTrip = true := by
  have executed : exec (.thermalTrip d x) s = .next (((s.updPower fun p => { p with hold := true, thermTrip := true }).journalDev 0xC4 1 d
      (Config.sensorDetail d x.toNat)).trigger 7) := congrArg Host.Outcome.next (if_neg fun off => absurd (on.symm.trans off) (by decide))
  rw [executed]
  generalize kept : (s.updPower fun p => { p with hold := true, thermTrip := true }).journalDev 0xC4 1 d (Config.sensorDetail d x.toNat) = s1
  have power : s1.power = { s.power with hold := true, thermTrip := true } := by
    rw [← kept, State.journalDev_power, State.updPower_power]
  rw [State.trigger_of_on (by rw [power]; exact on)]
  obtain ⟨st, cause, -⟩ := s1.allOff_effect .minOff 7
  obtain ⟨-, -, -, -, hold, trip⟩ := s1.allOff_keeps .minOff 7
  rw [power] at hold trip
  exact ⟨_, rfl, st, cause, hold, trip⟩

/-! ### The reference clock and the SAFETY commands -/

theorem State.offRequest_mgmtRef (on : s.power.st = .on) (cause : Nat) (grace : Bool) :
    (s.offRequest cause grace).power.mgmtRef = s.power.mgmtRef := by
  have clock : s.stopHub.power.mgmtRef = s.power.mgmtRef := congrArg Power.mgmtRef s.stopHub_frame.1
  rw [State.offRequest_of_on on, State.updPower_power]
  exact clock

theorem refclkLoss_effect (on : s.power.st = .on) : ∃ t, exec .refclkLoss s = .next t ∧ t.power.st = .down 6 ∧ t.power.stage = 3 ∧
    t.power.hold = true ∧ t.power.mgmtRef = false ∧ t.hub.admitting = false := by
  have executed : exec .refclkLoss s = .next ((s.updPower fun p => { p with mgmtRef := false, hold := true, cause := 3 }).offRequest 3 false) :=
    congrArg Host.Outcome.next (if_neg fun off => absurd (on.symm.trans off) (by decide))
  rw [executed]
  generalize kept : s.updPower (fun p => { p with mgmtRef := false, hold := true, cause := 3 }) = s1
  have power : s1.power = { s.power with mgmtRef := false, hold := true, cause := 3 } := by rw [← kept, State.updPower_power]
  have on1 : s1.power.st = .on := by
    rw [power]
    exact on
  obtain ⟨st, stage, -, admitting, -, -, -, hold⟩ := State.offRequest_effect on1 3 false
  have clock := State.offRequest_mgmtRef on1 3 false
  rw [power] at hold clock
  exact ⟨_, rfl, st, stage, hold, clock, admitting⟩

theorem State.actPowerOff_effect (on : s.power.st = .on) : (s.actPowerOff).2 = dOk ∧ (s.actPowerOff).1.power.hold = true ∧
    (s.actPowerOff).1.power.st = .down 6 ∧ (s.actPowerOff).1.power.cause = 3 := by
  unfold State.actPowerOff
  generalize kept : s.updPower (fun p => { p with hold := true }) = s1
  have power : s1.power = { s.power with hold := true } := by rw [← kept, State.updPower_power]
  obtain ⟨st, -, cause, -, -, -, -, hold⟩ := State.offRequest_effect (s := s1) (by rw [power]; exact on) 3 true
  rw [power] at hold
  exact ⟨rfl, hold, st, cause⟩

theorem State.startUp_hold (s : State) : s.startUp.power.hold = s.power.hold ∧ s.startUp.power.thermTrip = s.power.thermTrip := by
  by_cases ready : s.power.st = .standby ∧ s.mgmt.up = true ∧ s.onHolds = true
  · obtain ⟨st, up, holds⟩ := ready
    rw [State.startUp_of_ready st up holds]
    exact ⟨rfl, rfl⟩
  · rw [State.startUp_of_held ready]
    exact ⟨rfl, rfl⟩

theorem State.actPowerOn_effect (s : State) : (s.actPowerOn).2 = dOk ∧ (s.actPowerOn).1.power.hold = false ∧ (s.actPowerOn).1.power.thermTrip = false :=
  ⟨rfl, (State.startUp_hold _).1, (State.startUp_hold _).2⟩

/-- A die that SAFETY resets is held in reset (R396). -/
theorem State.resetDie_effect {d : Nat} (on : (s.die d).reg = .on) (sound : (s.die d).gone = false) :
    (s.resetDie d).2 = dOk ∧ ((s.resetDie d).1.die d).resetHold = true ∧ ((s.resetDie d).1.die d).inReset = true := by
  have resets : s.resetDie d = (((s.updDie d fun x => { x with
      inReset := true, resetHold := true, oldParts := s.ownersOf d, move := Move.none }).journalBare 0xB2 1 d).isolate d, dOk) := by
    unfold State.resetDie
    rw [if_neg]
    rintro (off | gone)
    · exact off on
    · exact absurd (sound.symm.trans gone) (by decide)
  have same := State.mains_isolate ((s.updDie d fun x => { x with
      inReset := true, resetHold := true, oldParts := s.ownersOf d, move := Move.none }).journalBare 0xB2 1 d) d
  rw [resets]
  have die := (State.die_congr (congrArg Prod.fst same) d).trans ((State.die_journalBare _ _ _ _ _).trans (State.die_updDie_self _ _ _))
  dsimp only
  rw [die]
  exact ⟨rfl, rfl, rfl⟩

end

/-- Settles O45: a trigger in ON is `allOff`, which keeps what the trigger noted; the SAFETY commands go through the off request. -/
theorem safetyTriggers : Obligations.SafetyTriggers := by
  unfold Obligations.SafetyTriggers
  refine ⟨fun s vin pw on => ⟨?_, ?_⟩, fun s hist on => coolantStop_effect on hist, fun s hist standby => coolantStop_of_standby standby hist,
    fun s d x on => thermalTrip_effect on d x, fun s due => lastGaspDone_effect due, gaspArea_sound, fun s on => refclkLoss_effect on,
    fun s on => State.actPowerOff_effect on, State.actPowerOn_effect, fun s latched => if_pos latched, fun s other => if_neg other,
    fun s d on sound => State.resetDie_effect on sound, fun s d gone => if_pos (.inr gone)⟩
  · exact ⟨_, rfl, vinLost_effect on false vin pw⟩
  · obtain ⟨st, cause, -, due, -, cores, -⟩ := vinLost_effect on true vin pw
    exact ⟨_, rfl, st, cause, due, cores⟩

end Sys2Proof.Machine

/-! PROOFS. Power estimation, operating points, the loops, the start ramp and pace coupling (R274 to R297). -/

namespace Sys2Proof.Machine

section

variable {s : State} {x : DieState} {d : Nat}

/-! ### Estimation -/

theorem State.clearActs_frame (s : State) (d : Nat) : (s.clearActs d).dies = s.dies ∧ (s.clearActs d).power = s.power ∧ (s.clearActs d).mgmt = s.mgmt := by
  have kept := foldl_view (view := fun s : State => (s.dies, s.power, s.mgmt)) (f := fun s c => s.updCore c fun k => { k with acts := [] })
    (by intro s c; rfl) (dieCores d) s
  exact ⟨congrArg (fun x => x.1) kept, congrArg (fun x => x.2.1) kept, congrArg (fun x => x.2.2) kept⟩

theorem State.acts_clearActs {c : Nat} (member : c ∈ dieCores d) : ((s.clearActs d).core c).acts = [] := by
  have distinct : (dieCores d).Nodup := List.nodup_range.filter _
  unfold State.clearActs
  rw [State.core_foldl_updCore _ _ _ _ distinct, if_pos member]

theorem State.dieEnergy_congr {t : State} (dies : t.dies = s.dies) (power : t.power = s.power) (counts : List Nat) (c : Int) :
    t.dieEnergy d counts c = s.dieEnergy d counts c := by
  unfold State.dieEnergy energyOf
  rw [State.die_congr dies, power]

theorem State.addCoreEnergy_frame (s : State) (d : Nat) (counts : List Nat) (c : Int) : (s.addCoreEnergy d counts c).dies = s.dies ∧
    (s.addCoreEnergy d counts c).cores = s.cores ∧ (s.addCoreEnergy d counts c).mgmt = s.mgmt := by
  unfold State.addCoreEnergy
  split
  · exact ⟨rfl, rfl, rfl⟩
  · generalize List.range 4 = cs
    have kept := foldl_view (view := fun s : State => (s.dies, s.cores, s.mgmt)) (f := fun (a : State) i =>
      let e := s.coreShare d i counts c
      let k := (dieCores d).getD i 0
      a.updPower fun p => { p with coreE := Sparse.set p.coreE 0 k ((Sparse.get p.coreE 0 k + e) % 2 ^ 64), epochCore := p.epochCore + e })
      (by intro s i; rfl) cs s
    exact ⟨congrArg (fun x => x.1) kept, congrArg (fun x => x.2.1) kept, congrArg (fun x => x.2.2) kept⟩

/-- What an interval leaves of a die before its request is formed: everything but its ballast, its total and its work level. -/
theorem State.ballastStep_frame (s : State) (d e real : Nat) : ∃ b w r, (s.ballastStep d e real).die d =
      { s.die d with ballast := b, total := e, work := w, recent := r } ∧ (∀ i, i ≠ d → (s.ballastStep d e real).die i = s.die i) ∧
      (s.ballastStep d e real).cores = s.cores ∧ (s.ballastStep d e real).mgmt = s.mgmt := by
  unfold State.ballastStep
  dsimp only
  split
  · exact ⟨_, _, _, (State.die_updPower _ _ _).trans (State.die_updDie_self _ _ _),
      fun i other => (State.die_updPower _ _ _).trans (s.die_updDie_ne _ other), rfl, rfl⟩
  · exact ⟨_, _, _, State.die_updDie_self _ _ _, fun i other => s.die_updDie_ne _ other, rfl, rfl⟩

theorem State.ageHints_frame (s : State) (d : Nat) : (s.ageHints d).dies = s.dies ∧ (s.ageHints d).mgmt = s.mgmt ∧
    ∀ c, ((s.ageHints d).core c).acts = (s.core c).acts := by
  have kept := foldl_view (view := fun s : State => (s.dies, s.mgmt)) (f := fun s c => s.updCore c fun k =>
    { k with hint := (k.liveHint.map fun h => (h.1, h.2 - 2)).filter fun h => decide (0 < h.2) }) (by intro s c; rfl) (dieCores d) s
  refine ⟨congrArg Prod.fst kept, congrArg Prod.snd kept, fun c => ?_⟩
  have distinct : (dieCores d).Nodup := List.nodup_range.filter _
  unfold State.ageHints
  rw [State.core_foldl_updCore _ _ _ _ distinct]
  split <;> rfl

theorem State.noteThrottle_frame (s : State) (d : Nat) : ∃ a b, (s.noteThrottle d).die d = { s.die d with throttled := a, thrEver := b } ∧
    (∀ i, i ≠ d → (s.noteThrottle d).die i = s.die i) ∧ (s.noteThrottle d).cores = s.cores := by
  unfold State.noteThrottle
  dsimp only
  split
  · exact ⟨(s.die d).throttled, (s.die d).thrEver, rfl, fun _ _ => rfl, rfl⟩
  · split
    · exact ⟨false, (s.die d).thrEver, State.die_updDie_self _ _ _, fun i other => s.die_updDie_ne _ other, rfl⟩
    · have die : (s.updDie d fun x => { x with throttled := true, thrEver := true }).bump.die d = { s.die d with throttled := true, thrEver := true } :=
        (State.die_bump _ _).trans (State.die_updDie_self _ _ _)
      have others : ∀ i, i ≠ d → (s.updDie d fun x => { x with throttled := true, thrEver := true }).bump.die i = s.die i :=
        fun i other => (State.die_bump _ _).trans (s.die_updDie_ne _ other)
      split
      · exact ⟨true, true, (State.die_journalDev _ _ _ _ _ _).trans die, fun i other => (State.die_journalDev _ _ _ _ _ _).trans (others i other),
          State.journalDev_cores _ _ _ _ _⟩
      · exact ⟨true, true, die, others, rfl⟩

theorem State.paceSend_frame (s : State) (d : Nat) : ∃ a b, (s.paceSend d).die d = { s.die d with lastPace := a, sincePace := b } ∧
    (∀ i, i ≠ d → (s.paceSend d).die i = s.die i) ∧ (s.paceSend d).cores = s.cores := by
  have same : ∃ a b, s.die d = { s.die d with lastPace := a, sincePace := b } ∧ (∀ i, i ≠ d → s.die i = s.die i) ∧ s.cores = s.cores :=
    ⟨(s.die d).lastPace, (s.die d).sincePace, rfl, fun _ _ => rfl, rfl⟩
  have sent : ∀ l, ∃ a b, ((s.updDie d fun x => { x with lastPace := l, sincePace := 0 }).sendTree 2 0x06 (s.kraox.nbrs 0) (Config.msgWord 6 l 0 0) []).die d =
        { s.die d with lastPace := a, sincePace := b } ∧
      (∀ i, i ≠ d → ((s.updDie d fun x => { x with lastPace := l, sincePace := 0 }).sendTree 2 0x06 (s.kraox.nbrs 0) (Config.msgWord 6 l 0 0) []).die i = s.die i) ∧
      ((s.updDie d fun x => { x with lastPace := l, sincePace := 0 }).sendTree 2 0x06 (s.kraox.nbrs 0) (Config.msgWord 6 l 0 0) []).cores = s.cores := by
    intro l
    have frame := (s.updDie d fun x => { x with lastPace := l, sincePace := 0 }).linkless_sendTree 2 0x06 (s.kraox.nbrs 0) (Config.msgWord 6 l 0 0) []
    have dies := State.dies_of_linkless frame
    exact ⟨l, 0, (State.die_congr dies d).trans (State.die_updDie_self _ _ _), fun i other => (State.die_congr dies i).trans (s.die_updDie_ne _ other),
      (State.cores_of_linkless frame).trans (State.updDie_cores _ _ _)⟩
  unfold State.paceSend
  dsimp only
  split
  · exact same
  · split
    · split
      · exact same
      · split
        · exact ⟨0, (s.die d).sincePace, State.die_updDie_self _ _ _, fun i other => s.die_updDie_ne _ other, rfl⟩
        · exact sent 0
    · split
      · exact same
      · next l _ =>
        split
        · exact sent l
        · exact same

theorem DieState.grantOf_le (x : DieState) (r m : Nat) : x.grantOf r m ≤ r ∧ x.grantOf r m ≤ x.peakCeil ∧ x.grantOf r m ≤ x.thermCap ∧
    x.grantOf r m ≤ x.phaseCap ∧ x.grantOf r m ≤ x.paceCeil ∧ x.grantOf r m ≤ m := by
  unfold DieState.grantOf
  refine ⟨?_, ?_, ?_, ?_, ?_, ?_⟩
  all_goals omega

/-- The die with its new estimate, request and grant. -/
def DieState.estimated (x : DieState) (d e idle req highest : Nat) : DieState :=
  ({ x with eDie := e, idleFor := idle, request := req, grant := x.grantOf req highest, sincePace := min 50 (x.sincePace + 1) } : DieState).replan d

/-- The state in which an interval's request is formed. -/
def State.counted (s : State) (d : Nat) (cycles : List Nat) (c : Int) : State :=
  (((s.clearActs d).addCoreEnergy d (s.reading d cycles) c).ballastStep d ((s.clearActs d).dieEnergy d (s.reading d cycles) c)
    ((s.clearActs d).dieEnergy d (s.reading d cycles) c - (s.clearActs d).ballastEnergy d (s.reading d cycles))).ageHints d

theorem State.counted_frame (s : State) (d : Nat) (cycles : List Nat) (c : Int) : ∃ b w r, (s.counted d cycles c).die d =
      { s.die d with ballast := b, total := s.dieEnergy d (s.reading d cycles) c, work := w, recent := r } ∧
      (∀ i, i ≠ d → (s.counted d cycles c).die i = s.die i) ∧ (∀ k ∈ dieCores d, ((s.counted d cycles c).core k).acts = []) := by
  unfold State.counted
  obtain ⟨dies, power, -⟩ := s.clearActs_frame d
  rw [State.dieEnergy_congr dies power]
  generalize s.dieEnergy d (s.reading d cycles) c - (s.clearActs d).ballastEnergy d (s.reading d cycles) = real
  obtain ⟨dies2, cores2, -⟩ := (s.clearActs d).addCoreEnergy_frame d (s.reading d cycles) c
  generalize (s.clearActs d).addCoreEnergy d (s.reading d cycles) c = s1 at dies2 cores2 ⊢
  obtain ⟨b, w, r, die, others, cores3, -⟩ := s1.ballastStep_frame d (s.dieEnergy d (s.reading d cycles) c) real
  obtain ⟨dies4, -, acts⟩ := (s1.ballastStep d (s.dieEnergy d (s.reading d cycles) c) real).ageHints_frame d
  have first : ∀ i, s1.die i = s.die i := fun i => State.die_congr (dies2.trans dies) i
  refine ⟨b, w, r, ?_, fun i other => ?_, fun k member => ?_⟩
  · rw [State.die_congr dies4, die, first]
  · rw [State.die_congr dies4, others i other, first]
  · rw [acts, State.core_congr (cores3.trans cores2)]
    exact State.acts_clearActs member

theorem exec_estimationInterval (d : DieId) (cycles : List Nat) (c : Int) (runs : (s.die d).runs = true) :
    ∃ idle req, exec (.estimationInterval d cycles c) s = .next ((((s.counted d cycles c).updDie d fun x =>
      x.estimated d ((s.clearActs d).dieEnergy d (s.reading d cycles) c) idle req ((s.clearActs d).mgmt.obj 0x2100 2)).noteThrottle d).paceSend d) :=
  ⟨_, _, congrArg Host.Outcome.next (if_neg (by rw [runs]; decide))⟩

theorem estimationInterval_effect (d : DieId) (cycles : List Nat) (c : Int) (runs : (s.die d).runs = true) :
    ∃ t, exec (.estimationInterval d cycles c) s = .next t ∧ (t.die d).eDie = s.dieEnergy d (s.reading d cycles) c ∧
      (t.die d).total = s.dieEnergy d (s.reading d cycles) c ∧ (∀ c ∈ dieCores d, (t.core c).acts = []) ∧ (t.die d).grant ≤ (t.die d).request ∧
      (t.die d).grant ≤ (s.die d).peakCeil ∧ (t.die d).grant ≤ (s.die d).thermCap ∧ (t.die d).grant ≤ (s.die d).phaseCap ∧
      (t.die d).grant ≤ (s.die d).paceCeil ∧ (t.die d).grant ≤ s.mgmt.obj 0x2100 2 ∧ (t.die d).point = (s.die d).point ∧
      (t.die d).volt = (s.die d).volt ∧ ∀ e : Nat, e ≠ d → (t.die e).grant = (s.die e).grant := by
  obtain ⟨idle, req, executed⟩ := exec_estimationInterval d cycles c runs
  obtain ⟨dies, power, mgmt⟩ := s.clearActs_frame d
  obtain ⟨b, w, r, die, others, acts⟩ := s.counted_frame d cycles c
  rw [State.dieEnergy_congr dies power, mgmt] at executed
  generalize s.dieEnergy d (s.reading d cycles) c = e at executed die ⊢
  generalize s.counted d cycles c = s1 at executed die others acts
  generalize granted : s1.updDie d (fun x => x.estimated d e idle req (s.mgmt.obj 0x2100 2)) = s2 at executed
  have die2 : s2.die d = (s1.die d).estimated d e idle req (s.mgmt.obj 0x2100 2) := by
    rw [← granted]
    exact State.die_updDie_self _ _ _
  have others2 : ∀ i, i ≠ d.val → s2.die i = s.die i := by
    intro i other
    rw [← granted, State.die_updDie_ne _ _ other]
    exact others i other
  have cores2 : s2.cores = s1.cores := by
    rw [← granted]
    rfl
  obtain ⟨a3, b3, die3, others3, cores3⟩ := s2.noteThrottle_frame d
  obtain ⟨a4, b4, die4, others4, cores4⟩ := (s2.noteThrottle d).paceSend_frame d
  obtain ⟨request, peak, therm, phase, pace, highest⟩ := (s1.die d).grantOf_le req (s.mgmt.obj 0x2100 2)
  have caps : (s1.die d).peakCeil = (s.die d).peakCeil ∧ (s1.die d).thermCap = (s.die d).thermCap ∧ (s1.die d).phaseCap = (s.die d).phaseCap ∧
      (s1.die d).paceCeil = (s.die d).paceCeil := by
    rw [die]
    exact ⟨rfl, rfl, rfl, rfl⟩
  obtain ⟨peak', therm', phase', pace'⟩ := caps
  refine ⟨_, executed, ?_⟩
  rw [die4, die3, die2]
  refine ⟨rfl, ?_, fun k member => ?_, request, peak.trans_eq peak', therm.trans_eq therm', phase.trans_eq phase', pace.trans_eq pace',
    highest, ?_, ?_, fun i other => ?_⟩
  · show (s1.die d).total = e
    rw [die]
  · rw [State.core_congr (cores4.trans (cores3.trans cores2))]
    exact acts k member
  · show (s1.die d).point = (s.die d).point
    rw [die]
  · show (s1.die d).volt = (s.die d).volt
    rw [die]
  · rw [others4 i other, others3 i other, others2 i other]

/-! ### Moves -/

theorem DieState.le_needs (x : DieState) (d : Nat) : vop d x.point ≤ x.needs d ∧ vop d x.grant ≤ x.needs d := by
  unfold DieState.needs
  omega

theorem DieState.nextMove_of_pll {q : Nat} (under : x.move.pll = some q) : (x.nextMove d).pll = some q := by
  unfold DieState.nextMove
  rw [under]

theorem DieState.nextMove_of_ramp {v : Nat} (under : x.move.ramp = some v) : (x.nextMove d).ramp = some (x.needs d) := by
  unfold DieState.nextMove
  rw [under]

theorem DieState.ramp_nextMove {v : Nat} (ramp : (x.nextMove d).ramp = some v) : v = x.needs d := by
  cases under : x.move.ramp with
  | some w =>
    rw [DieState.nextMove_of_ramp under] at ramp
    exact (Option.some.inj ramp).symm
  | none =>
    unfold DieState.nextMove at ramp
    rw [under] at ramp
    dsimp only at ramp
    split at ramp
    · exact (Option.some.inj ramp).symm
    · exact absurd ramp (by simp)

/-- No ramp begins where the voltage stands (R278). -/
theorem DieState.needs_le_of_no_ramp (still : (x.nextMove d).ramp = none) : x.needs d ≤ x.volt := by
  cases under : x.move.ramp with
  | some w =>
    rw [DieState.nextMove_of_ramp under] at still
    exact absurd still (by simp)
  | none =>
    unfold DieState.nextMove at still
    rw [under] at still
    dsimp only at still
    split at still
    · exact absurd still (by simp)
    · next low => exact Nat.le_of_not_lt fun lt => low (.inl lt)

/-- A step begins downward at once, upward only where the voltage stands. -/
theorem DieState.nextMove_begins {q : Nat} (idle : x.move.pll = none) (begins : (x.nextMove d).pll = some q) :
    (q + 1 = x.point ∧ x.grant < x.point) ∨ (q = x.point + 1 ∧ x.point < x.grant ∧ vop d x.grant ≤ x.volt) := by
  have pll : (x.nextMove d).pll = if x.grant < x.point then some (x.point - 1)
      else if x.point < x.grant ∧ (x.nextMove d).ramp = none then some (x.point + 1) else none := by
    unfold DieState.nextMove
    rw [idle]
  rw [pll] at begins
  split at begins
  · next lower =>
    have := Option.some.inj begins
    exact .inl ⟨by omega, lower⟩
  · split at begins
    · next higher =>
      exact .inr ⟨(Option.some.inj begins).symm, higher.1, (x.le_needs d).2.trans (DieState.needs_le_of_no_ramp higher.2)⟩
    · exact absurd begins (by simp)

theorem exec_pllStepDone (d : DieId) : exec (.pllStepDone d) s = .next (match (s.die d).move.pll with
    | some q => s.updDie d fun x => ({ x with point := q, move := { x.move with pll := none } } : DieState).replan d
    | none => s) := rfl

theorem exec_voltageSettled (d : DieId) : exec (.voltageSettled d) s = .next (match (s.die d).move.ramp with
    | some v => s.updDie d fun x => ({ x with volt := v, move := { x.move with ramp := none } } : DieState).replan d
    | none => s) := rfl

theorem pllStepDone_effect (d : DieId) {q : Nat} (under : (s.die d).move.pll = some q) : ∃ t, exec (.pllStepDone d) s = .next t ∧
    (t.die d).point = q ∧ (t.die d).volt = (s.die d).volt ∧ (t.die d).grant = (s.die d).grant := by
  rw [exec_pllStepDone, under]
  refine ⟨_, rfl, ?_⟩
  dsimp only
  rw [State.die_updDie_self]
  exact ⟨rfl, rfl, rfl⟩

theorem voltageSettled_effect (d : DieId) {v : Nat} (under : (s.die d).move.ramp = some v) : ∃ t, exec (.voltageSettled d) s = .next t ∧
    (t.die d).volt = v ∧ (t.die d).point = (s.die d).point := by
  rw [exec_voltageSettled, under]
  refine ⟨_, rfl, ?_⟩
  dsimp only
  rw [State.die_updDie_self]
  exact ⟨rfl, rfl⟩

/-! ### The peak loop and GCORR -/

/-- The power state once a tick's energy is in its windows (R282). -/
def State.fed (s : State) : Power :=
  s.power.feed (inputEnergy ((List.range 21).map fun d => if (s.die d).runs then (s.die d).eDie else 0).sum + 30000)

/-- A tick over the limits (R282). -/
def Power.over (q : Power) : Prop := (q.peak - 50) * 2000000 < q.last 1000 ∨ 230000000 < q.last 50

/-- The state in which a tick judges. -/
def State.ticked (s : State) : State := (s.updPower fun _ => s.fed).updHub Hub.ageBpreps

theorem Power.feed_stepDowns (p : Power) (e : Nat) : (p.feed e).stepDowns = p.stepDowns := by
  simp only [Power.feed]

theorem exec_peakLoopTick_of_over (on : s.power.busOn = true) (excess : s.fed.over) : exec .peakLoopTick s = .next s.ticked.stepDown := by
  refine congrArg Host.Outcome.next ((if_neg (by rw [on]; decide)).trans ?_)
  exact if_pos excess

theorem exec_peakLoopTick_of_under (on : s.power.busOn = true) (under : ¬s.fed.over) :
    exec .peakLoopTick s = .next (s.ticked.updPower fun p => { p with stopGrow := false }).stepUp ∨
      exec .peakLoopTick s = .next ((List.range 21).foldl (fun s d => s.updDie d fun x => { x with sinceUp := 0 })
        (s.ticked.updPower fun p => { p with stopGrow := false })) := by
  by_cases low : s.fed.last 1000 < (s.fed.peak - 200) * 2000000 ∧ s.fed.last 50 < 2100 * 100000
  · refine .inl (congrArg Host.Outcome.next ((if_neg (by rw [on]; decide)).trans ?_))
    exact (if_neg under).trans (if_pos low)
  · refine .inr (congrArg Host.Outcome.next ((if_neg (by rw [on]; decide)).trans ?_))
    exact (if_neg under).trans (if_neg low)

/-- A change of every die that keeps or raises its ceiling. -/
theorem State.peakCeil_raised (f : DieState → DieState) (raises : ∀ x, x.peakCeil ≤ (f x).peakCeil) (s : State) (d : Nat) :
    (s.die d).peakCeil ≤ (((List.range 21).foldl (fun s d => s.updDie d f) s).die d).peakCeil := by
  rw [State.die_foldl_updDie (fun _ => f) d (List.range 21) s List.nodup_range]
  split
  · exact raises _
  · exact le_rfl

theorem State.power_updDies (f : DieState → DieState) (ds : List Nat) (s : State) : (ds.foldl (fun s d => s.updDie d f) s).power = s.power :=
  foldl_view (view := State.power) (by intro s d; rfl) ds s

theorem peakLoopTick_effect (on : s.power.busOn = true) : ∃ t, exec .peakLoopTick s = .next t ∧ t.power.window = s.fed.window ∧
    t.power.buckets = s.fed.buckets ∧
    (s.fed.over → t.power.stepDowns = s.power.stepDowns + 1 ∧ t.power.stopGrow = true ∧
      ∀ d, d < 21 → (s.die d).runs = true → 1 < (s.die d).grant → (t.die d).peakCeil = min (s.die d).peakCeil ((s.die d).point - 1)) ∧
    (¬s.fed.over → t.power.stepDowns = s.power.stepDowns ∧ t.power.stopGrow = false ∧ ∀ d : Nat, (s.die d).peakCeil ≤ (t.die d).peakCeil) := by
  have fed : s.ticked.power = s.fed := by rw [State.ticked, State.updHub_power, State.updPower_power]
  have steps : s.fed.stepDowns = s.power.stepDowns := s.power.feed_stepDowns _
  have dies : ∀ d, s.ticked.die d = s.die d := fun d => by rw [State.ticked, State.die_updHub, State.die_updPower]
  by_cases excess : s.fed.over
  · refine ⟨_, exec_peakLoopTick_of_over on excess, ?_⟩
    unfold State.stepDown
    dsimp only
    rw [State.updPower_power, State.power_updDies, fed]
    generalize s.fed = q at steps excess ⊢
    refine ⟨rfl, rfl, fun _ => ⟨by dsimp only; rw [steps], rfl, fun d lt runs high => ?_⟩, fun under => absurd excess under⟩
    rw [State.die_updPower, State.die_foldl_updDie (fun _ x => if x.runs ∧ 1 < x.grant then
      { x with peakCeil := min x.peakCeil (x.point - 1), sinceUp := 0 } else x) d (List.range 21) _ List.nodup_range, if_pos (List.mem_range.2 lt), dies,
      if_pos ⟨runs, high⟩]
  · rcases exec_peakLoopTick_of_under on excess with up | level
    · refine ⟨_, up, ?_⟩
      unfold State.stepUp
      rw [State.power_updDies, State.updPower_power, fed]
      generalize s.fed = q at steps excess ⊢
      refine ⟨rfl, rfl, fun h => absurd h excess, fun _ => ⟨steps, rfl, fun d => ?_⟩⟩
      refine (le_of_eq ?_).trans (State.peakCeil_raised _ (fun x => ?_) (s.ticked.updPower fun p => { p with stopGrow := false }) d)
      · rw [State.die_updPower, dies]
      split
      · split
        · exact Nat.le_succ _
        · exact le_rfl
      · exact le_rfl
    · refine ⟨_, level, ?_⟩
      rw [State.power_updDies, State.updPower_power, fed]
      generalize s.fed = q at steps excess ⊢
      refine ⟨rfl, rfl, fun h => absurd h excess, fun _ => ⟨steps, rfl, fun d => ?_⟩⟩
      refine (le_of_eq ?_).trans (State.peakCeil_raised (fun x => { x with sinceUp := 0 }) (fun _ => le_rfl)
        (s.ticked.updPower fun p => { p with stopGrow := false }) d)
      rw [State.die_updPower, dies]

/-- The correction of R277, held within a tenth of 1. -/
def gcorrOf (measured est : Nat) : Nat × Nat :=
  if 10 * measured < 9 * est then (9, 10) else if 11 * est < 10 * measured then (11, 10) else (measured, est)

theorem gcorrOf_bounds (m est : Nat) : 9 * (gcorrOf m est).2 ≤ 10 * (gcorrOf m est).1 ∧ 10 * (gcorrOf m est).1 ≤ 11 * (gcorrOf m est).2 := by
  unfold gcorrOf
  split
  · decide
  · split
    · decide
    · exact ⟨by omega, by omega⟩

theorem exec_gcorrUpdate (m v n : Nat) : exec (.gcorrUpdate m v n) s =
    .next (if 2 * v < n ∨ s.power.buckets.sum = 0 then s else s.updPower fun p => { p with gcorr := gcorrOf m s.power.buckets.sum }) := rfl

theorem gcorrUpdate_effect {m v n : Nat} (enough : n ≤ 2 * v) (some_ : 0 < s.power.buckets.sum) : ∃ t, exec (.gcorrUpdate m v n) s = .next t ∧
    9 * t.power.gcorr.2 ≤ 10 * t.power.gcorr.1 ∧ 10 * t.power.gcorr.1 ≤ 11 * t.power.gcorr.2 ∧
    (9 * s.power.buckets.sum ≤ 10 * m → 10 * m ≤ 11 * s.power.buckets.sum → t.power.gcorr = (m, s.power.buckets.sum)) ∧ t.dies = s.dies := by
  rw [exec_gcorrUpdate, if_neg (by omega)]
  obtain ⟨low, high⟩ := gcorrOf_bounds m s.power.buckets.sum
  refine ⟨_, rfl, low, high, fun above below => ?_, rfl⟩
  show gcorrOf m s.power.buckets.sum = _
  unfold gcorrOf
  rw [if_neg (by omega), if_neg (by omega)]

/-! ### The thermal loop -/

theorem le_foldl_max (ts : List Int) : ∀ a : Int, a ≤ ts.foldl max a ∧ ∀ x ∈ ts, x ≤ ts.foldl max a := by
  induction ts with
  | nil => exact fun a => ⟨le_rfl, fun x member => absurd member List.not_mem_nil⟩
  | cons t ts ih =>
    intro a
    obtain ⟨first, rest⟩ := ih (max a t)
    refine ⟨(le_max_left a t).trans first, fun x member => ?_⟩
    rcases List.mem_cons.1 member with rfl | later
    · exact (le_max_right a x).trans first
    · exact rest x later

theorem foldl_max_lt {b : Int} (ts : List Int) : ∀ a : Int, a < b → (∀ x ∈ ts, x < b) → ts.foldl max a < b := by
  induction ts with
  | nil => exact fun a lt _ => lt
  | cons t ts ih => exact fun a lt all => ih _ (max_lt lt (all t List.mem_cons_self)) fun x member => all x (List.mem_cons_of_mem _ member)

/-- The cap after a loop over the valid sensors. -/
def capOver (x : DieState) : List Int → Nat
  | [] => x.thermCap
  | t :: rest => capAfter x.thermCap x.grant (rest.foldl max t)

theorem capOver_of_hot {ok : List Int} (x : DieState) (hot : ∃ t ∈ ok, 105 ≤ t) : capOver x ok = 1 := by
  obtain ⟨t, member, high⟩ := hot
  cases ok with
  | nil => exact absurd member List.not_mem_nil
  | cons a ts =>
    obtain ⟨first, rest⟩ := le_foldl_max ts a
    have above : 105 ≤ ts.foldl max a := by
      rcases List.mem_cons.1 member with rfl | later
      · exact high.trans first
      · exact high.trans (rest t later)
    show capAfter _ _ _ = 1
    unfold capAfter
    rw [if_pos above]

theorem capOver_of_cool {ok : List Int} (x : DieState) (some_ : ok ≠ []) (cool : ∀ t ∈ ok, t < 90) : capOver x ok = min 7 (x.thermCap + 1) := by
  cases ok with
  | nil => exact absurd rfl some_
  | cons a ts =>
    have below : ts.foldl max a < 90 := foldl_max_lt ts a (cool a List.mem_cons_self) fun t member => cool t (List.mem_cons_of_mem _ member)
    show capAfter _ _ _ = _
    unfold capAfter
    rw [if_neg (by omega), if_neg (by omega), if_neg (by omega)]

/-- The hottest valid sensor. -/
def hottestOf : List Int → Option Int
  | [] => none
  | t :: rest => some (rest.foldl max t)

/-- A die after a loop over its valid sensors (R285, R287). -/
def DieState.cooled (x : DieState) (ok : List Int) : DieState :=
  { x with thermCap := if 16 < 64 - ok.length then min 2 (capOver x ok) else capOver x ok, hottest := hottestOf ok, invalid := 64 - ok.length }

theorem exec_thermalLoop (d : DieId) (ts : List Int) (runs : (s.die d).runs = true) : ∃ t, exec (.thermalLoop d ts) s = .next t ∧
    t.die d = (s.die d).cooled (validSensors ((List.range 64).map fun i => ts.getD i 0)) := by
  have executed : exec (.thermalLoop d ts) s = .next
      (if 16 < 64 - (validSensors ((List.range 64).map fun i => ts.getD i 0)).length ∧ (s.die d).invalid ≤ 16 then
        (s.setDie d ((s.die d).cooled (validSensors ((List.range 64).map fun i => ts.getD i 0)))).journalDev 0xC3 1 d (Config.causeCode 5)
      else s.setDie d ((s.die d).cooled (validSensors ((List.range 64).map fun i => ts.getD i 0)))) := by
    refine congrArg Host.Outcome.next ((if_neg (by rw [runs]; decide)).trans ?_)
    dsimp only
    generalize validSensors ((List.range 64).map fun i => ts.getD i 0) = ok
    cases ok <;> rfl
  refine ⟨_, executed, ?_⟩
  split
  · rw [State.die_journalDev, State.die_setDie_self]
  · rw [State.die_setDie_self]

theorem thermalLoop_effect (d : DieId) (ts : List Int) (runs : (s.die d).runs = true) :
    let ok := validSensors ((List.range 64).map fun i => ts.getD i 0)
    ∃ t, exec (.thermalLoop d ts) s = .next t ∧ (t.die d).invalid = 64 - ok.length ∧
      (16 < 64 - ok.length → (t.die d).thermCap ≤ 2) ∧
      (64 - ok.length ≤ 16 → (∃ x ∈ ok, 105 ≤ x) → (t.die d).thermCap = 1) ∧
      (64 - ok.length ≤ 16 → (∀ x ∈ ok, x < 90) → (t.die d).thermCap = min 7 ((s.die d).thermCap + 1)) := by
  intro ok
  obtain ⟨t, executed, die⟩ := exec_thermalLoop d ts runs
  refine ⟨t, executed, ?_⟩
  rw [die]
  refine ⟨rfl, fun bad => ?_, fun good above => ?_, fun good cool => ?_⟩
  · exact (if_pos bad).trans_le (min_le_left _ _)
  · exact (if_neg (Nat.not_lt.2 good)).trans (capOver_of_hot _ above)
  · refine (if_neg (Nat.not_lt.2 good)).trans ?_
    refine capOver_of_cool _ (fun none_ => ?_) cool
    have empty : ok = [] := none_
    rw [empty] at good
    exact absurd good (by decide)

theorem thermalLimit_effect (d : DieId) (x : BitVec 6) (runs : (s.die d).runs = true) : ∃ t, exec (.thermalLimit d x) s = .next t ∧
    (t.die d).thermCap = 1 ∧ t.hub.seq = s.hub.seq + 1 := by
  have executed : exec (.thermalLimit d x) s = .next ((s.updDie d fun x => { x with thermCap := 1 }).journalDev 0xC3 1 d (Config.causeCode 4)) :=
    congrArg Host.Outcome.next (if_neg (by rw [runs]; decide))
  obtain ⟨-, next, -⟩ := (s.updDie d fun x => { x with thermCap := 1 }).journalDev_tables 0xC3 1 d (Config.causeCode 4)
  refine ⟨_, executed, ?_, next⟩
  rw [State.die_journalDev, State.die_updDie_self]

/-! ### Monitors -/

theorem State.mon_setMon_self (s : State) (m : Nat) (x : Monitor) : (s.setMon m x).mon m = x := Sparse.get_set_self _ _ _ _

theorem State.mon_setMon_ne (s : State) {m k : Nat} (x : Monitor) (apart : k ≠ m) : (s.setMon m x).mon k = s.mon k :=
  Sparse.get_set_ne _ _ _ _ apart

theorem State.actTmcfg_effect (s : State) (m : Nat) (v : W32) : ((s.actTmcfg m v).mon m).cfg = tmcfgOf (s.mon m).cfg v ∧
    ((s.actTmcfg m v).mon m).data = (s.mon m).data ∧ ∀ k : Nat, k ≠ m → (s.actTmcfg m v).mon k = s.mon k := by
  unfold State.actTmcfg
  dsimp only
  rw [State.mon_setMon_self]
  exact ⟨rfl, rfl, fun k apart => s.mon_setMon_ne _ apart⟩

theorem exec_tmcfgWrite (m : Fin 8) (by_ : HubAgent) (v : W32) : exec (.tmcfgWrite m by_ v) s =
    .next (if (m.val < 6 ∧ by_ = .powerControl) ∨ (6 ≤ m.val ∧ (by_ = .island ∨ by_ = .management)) then s.actTmcfg m v else s) := rfl

theorem tmcfgWrite_effect (m : Fin 8) (by_ : HubAgent) (v : W32)
    (owner : (m.val < 6 ∧ by_ = .powerControl) ∨ (6 ≤ m.val ∧ (by_ = .island ∨ by_ = .management))) :
    ∃ t, exec (.tmcfgWrite m by_ v) s = .next t ∧ (t.mon m).cfg = tmcfgOf (s.mon m).cfg v ∧ (t.mon m).data = (s.mon m).data ∧
      ∀ k : Nat, k ≠ m → t.mon k = s.mon k := by
  rw [exec_tmcfgWrite, if_pos owner]
  exact ⟨_, rfl, s.actTmcfg_effect m v⟩

/-- The word of a sample (Table 12.7). -/
def sampleWord (cfg : W32) (ok o : Bool) (v : BitVec 24) : W32 := BitVec.ofNat 32 (bitAt ok 31 + bitAt o 30 + fld cfg 27 24 * 2 ^ 24 + v.toNat)

theorem sampleWord_fields (cfg : W32) (ok o : Bool) (v : BitVec 24) : fld (sampleWord cfg ok o v) 23 0 = v.toNat ∧
    bitOf (sampleWord cfg ok o v) 30 = o ∧ bitOf (sampleWord cfg ok o v) 31 = ok := by
  have small : fld cfg 27 24 < 16 := Nat.mod_lt _ (by decide)
  have lt := v.isLt
  have value : (sampleWord cfg ok o v).toNat = bitAt ok 31 + bitAt o 30 + fld cfg 27 24 * 2 ^ 24 + v.toNat := by
    unfold sampleWord
    rw [BitVec.toNat_ofNat]
    refine Nat.mod_eq_of_lt ?_
    cases ok <;> cases o <;> simp only [bitAt, if_true, if_false, Bool.false_eq_true] <;> omega
  unfold fld bits bitOf bit at *
  rw [value]
  cases ok <;> cases o <;> simp only [bitAt, if_true, if_false, Bool.false_eq_true] <;>
    refine ⟨by omega, ?_, ?_⟩ <;> simp <;> omega

theorem exec_monitorSample (m : Fin 8) (v : BitVec 24) (o : Bool) (on : bitOf (s.mon m).cfg 31 = true) : exec (.monitorSample m v o) s =
    .next (s.setMon m { s.mon m with
      data := sampleWord (s.mon m).cfg (decide ((s.mon m).skip = 0)) o v, skip := (s.mon m).skip - 1,
      last := if decide ((s.mon m).skip = 0) then sampleWord (s.mon m).cfg (decide ((s.mon m).skip = 0)) o v else (s.mon m).last }) :=
  congrArg Host.Outcome.next (if_neg (by rw [on]; decide))

theorem monitorSample_effect (m : Fin 8) (v : BitVec 24) (o : Bool) (on : bitOf (s.mon m).cfg 31 = true) :
    ∃ t, exec (.monitorSample m v o) s = .next t ∧ fld (t.mon m).data 23 0 = v.toNat ∧ bitOf (t.mon m).data 30 = o ∧
      bitOf (t.mon m).data 31 = decide ((s.mon m).skip = 0) ∧ (t.mon m).skip = (s.mon m).skip - 1 ∧
      ((s.mon m).skip = 0 → (t.mon m).last = (t.mon m).data) ∧ ((s.mon m).skip ≠ 0 → (t.mon m).last = (s.mon m).last) := by
  obtain ⟨value, ovr, valid⟩ := sampleWord_fields (s.mon m).cfg (decide ((s.mon m).skip = 0)) o v
  refine ⟨_, exec_monitorSample m v o on, ?_⟩
  rw [State.mon_setMon_self]
  exact ⟨value, ovr, valid, rfl, fun zero => if_pos (decide_eq_true zero), fun more => if_neg fun h => more (of_decide_eq_true h)⟩

/-! ### The start ramp and pace coupling -/

theorem rampUpdate_effect (s : State) (d : ArrayDie) :
    let seen := ((s.die d).recentMax ++ [s.runningMacros d]).drop (((s.die d).recentMax ++ [s.runningMacros d]).length - 4)
    let r := seen.foldl max 0
    ∃ t, exec (.rampUpdate d) s = .next t ∧ (t.die d).recentMax = seen ∧
      (s.kraox.rampHold = true → (t.die d).allowance ≤ (s.die d).allowance) ∧
      (s.kraox.rampHold = false → s.rampWaits d = false → (t.die d).allowance = 16 + r) ∧
      (s.kraox.rampHold = false → s.rampWaits d = true → (t.die d).allowance = min 256 (max (16 + r) ((s.die d).allowance + 15))) ∧
      t.cores = s.cores := by
  intro seen r
  have executed : exec (.rampUpdate d) s = .next (s.updDie d fun x => { x with
      recentMax := seen,
      allowance := if s.kraox.rampHold then min (if s.rampWaits d then min 256 (max (16 + r) ((s.die d).allowance + 15)) else 16 + r) x.allowance
        else if s.rampWaits d then min 256 (max (16 + r) ((s.die d).allowance + 15)) else 16 + r }) := rfl
  refine ⟨_, executed, ?_⟩
  rw [State.die_updDie_self]
  refine ⟨rfl, fun hold => ?_, fun free idle => ?_, fun free waits => ?_, rfl⟩
  · exact (if_pos hold).trans_le (min_le_right _ _)
  · exact (if_neg (by rw [free]; decide)).trans (if_neg (by rw [idle]; decide))
  · exact (if_neg (by rw [free]; decide)).trans (if_pos waits)

/-- Every pace ceiling ended (R295). -/
def State.paceEnded (s : State) : State :=
  (List.range 21).foldl (fun s d => s.updDie d fun x => { x with paceCeil := 7 }) (s.updPower fun p => { p with slack := 0 })

theorem State.paceEnded_effect (s : State) : (∀ d, d < 21 → (s.paceEnded.die d).paceCeil = 7) ∧ s.paceEnded.power.slack = 0 := by
  unfold State.paceEnded
  refine ⟨fun d lt => ?_, ?_⟩
  · rw [State.die_foldl_updDie (fun _ x => { x with paceCeil := 7 }) d (List.range 21) _ List.nodup_range, if_pos (List.mem_range.2 lt)]
  · rw [State.power_updDies]
    rfl

/-- The state once the anchor has logged a lateness (R318). -/
def State.paceLogged (s : State) (src : BitVec 13) (l : BitVec 16) : State :=
  if s.kraox.anchor = some (BitVec.ofNat 13 s.devId) then
    (s.updKraox fun k => { k with paceLog := k.paceLog ++ [(src.toNat, l.toNat)] }).event 0x06 0x7200 9 0
  else s

theorem State.od_event (s : State) (code : Byte) (idx sub : Nat) (seq : W32) : (s.event code idx sub seq).mgmt.od = s.mgmt.od := by
  unfold State.event
  split <;> rfl

theorem State.paceLogged_frame (s : State) (src : BitVec 13) (l : BitVec 16) : (s.paceLogged src l).dies = s.dies ∧
    (s.paceLogged src l).cores = s.cores ∧ (s.paceLogged src l).mgmt.od = s.mgmt.od := by
  unfold State.paceLogged
  split
  · rw [State.event_dies, State.event_cores, State.od_event]
    exact ⟨rfl, rfl, rfl⟩
  · exact ⟨rfl, rfl, rfl⟩

theorem exec_paceReceived (src : BitVec 13) (l : BitVec 16) : exec (.paceReceived src l) s =
    .next (if s.job = 0 then s else (s.paceLogged src l).pacePolicy l.toNat) := rfl

theorem paceReceived_zero (src : BitVec 13) (job : s.job ≠ 0) : ∃ t, exec (.paceReceived src 0) s = .next t ∧
    (∀ d, d < 21 → (t.die d).paceCeil = 7) ∧ t.power.slack = 0 := by
  rw [exec_paceReceived, if_neg job]
  refine ⟨_, rfl, ?_⟩
  rw [show (s.paceLogged src 0).pacePolicy (0 : BitVec 16).toNat = (s.paceLogged src 0).paceEnded from if_pos rfl]
  exact State.paceEnded_effect _

theorem State.hintLeft_congr {t : State} (cores : t.cores = s.cores) (d : Nat) : t.hintLeft d = s.hintLeft d := by
  unfold State.hintLeft State.hintsOf
  rw [show (fun c => (t.core c).liveHint) = fun c => (s.core c).liveHint from funext fun c => by rw [State.core_congr cores]]

/-- A die under the policy SLOW (R295). -/
def pacedDie (x : DieState) (hint : Option Nat) (l : Nat) : DieState :=
  match hint with
  | some r => { x with paceCeil := paceCeil x.point r l }
  | none => x

theorem State.die_paced (l : Nat) (hint : Nat → Option Nat) (ds : List Nat) (d : Nat) : ∀ s : State, ds.Nodup → (∀ d, s.hintLeft d = hint d) →
    (ds.foldl (fun s d => match s.hintLeft d with
      | some r => s.updDie d fun x => { x with paceCeil := paceCeil x.point r l }
      | none => s) s).die d = if d ∈ ds then pacedDie (s.die d) (hint d) l else s.die d := by
  induction ds with
  | nil => exact fun _ _ _ => rfl
  | cons e ds ih =>
    intro s distinct hints
    obtain ⟨other, rest⟩ := List.nodup_cons.1 distinct
    have step : ∃ t, (match s.hintLeft e with
        | some r => s.updDie e fun x => { x with paceCeil := paceCeil x.point r l }
        | none => s) = t ∧ t.cores = s.cores ∧ t.die e = pacedDie (s.die e) (hint e) l ∧ ∀ i, i ≠ e → t.die i = s.die i := by
      rw [hints e]
      cases hint e with
      | none => exact ⟨_, rfl, rfl, rfl, fun _ _ => rfl⟩
      | some r =>
        dsimp only
        exact ⟨_, rfl, rfl, State.die_updDie_self _ _ _, fun i apart => s.die_updDie_ne _ apart⟩
    obtain ⟨t, is, cores, self, others⟩ := step
    rw [List.foldl_cons, is, ih t rest fun d => (State.hintLeft_congr cores d).trans (hints d)]
    by_cases here : d = e
    · subst here
      rw [if_neg other, if_pos List.mem_cons_self, self]
    · rw [others d here]
      simp only [List.mem_cons, here, false_or]

theorem State.pacePolicy_slow {l : Nat} (policy : s.mgmt.obj 0x2100 7 = 0) (late : l ≠ 0) : s.pacePolicy l =
    (List.range 20).foldl (fun s d => match s.hintLeft d with
      | some r => s.updDie d fun x => { x with paceCeil := paceCeil x.point r l }
      | none => s) s := by
  unfold State.pacePolicy
  rw [if_neg late, policy]
  rfl

theorem paceReceived_slow (src : BitVec 13) {l : BitVec 16} (job : s.job ≠ 0) (late : l ≠ 0) (policy : s.mgmt.obj 0x2100 7 = 0) :
    ∃ t, exec (.paceReceived src l) s = .next t ∧ ∀ d, d < 20 → (t.die d).paceCeil = (match s.hintLeft d with
      | some r => paceCeil (s.die d).point r l.toNat
      | none => (s.die d).paceCeil) := by
  rw [exec_paceReceived, if_neg job]
  obtain ⟨dies, cores, od⟩ := s.paceLogged_frame src l
  generalize s.paceLogged src l = s1 at dies cores od ⊢
  have policy1 : s1.mgmt.obj 0x2100 7 = 0 := by
    rw [← policy]
    unfold Mgmt.obj
    rw [od]
  have some_ : l.toNat ≠ 0 := fun zero => late (BitVec.eq_of_toNat_eq zero)
  refine ⟨_, rfl, fun d lt => ?_⟩
  rw [State.pacePolicy_slow policy1 some_, State.die_paced l.toNat s.hintLeft (List.range 20) d s1 List.nodup_range fun d => State.hintLeft_congr cores d, if_pos (List.mem_range.2 lt),
    State.die_congr dies]
  unfold pacedDie
  cases s.hintLeft d <;> rfl

end

/-- Settles O46: estimation keeps a die but for its estimate and grant; moves, loops, monitors, ramp and pace each by the lemma of its command. -/
theorem powerControlAndRamp : Obligations.PowerControlAndRamp := by
  unfold Obligations.PowerControlAndRamp
  refine ⟨⟨fun s d counts c => ⟨estimationInterval_effect d counts c, fun stands => ?_⟩,
    fun x d q => ⟨DieState.nextMove_begins, DieState.nextMove_of_pll, fun v ramp => ?_, fun v => DieState.nextMove_of_ramp⟩,
    fun s d => ⟨fun q => pllStepDone_effect d, fun v => voltageSettled_effect d, fun idle => ?_, fun idle => ?_⟩,
    fun s on => peakLoopTick_effect on, fun s m v n => ⟨fun few => ?_, gcorrUpdate_effect⟩, fun s d ts => thermalLoop_effect d ts,
    fun s d x => thermalLimit_effect d x, fun s m v => ⟨fun low => tmcfgWrite_effect m _ v (.inl ⟨low, rfl⟩), fun high => ?_, fun low => ?_,
      fun high who either => tmcfgWrite_effect m who v (.inr ⟨high, either⟩)⟩,
    fun s m v o => ⟨monitorSample_effect m v o, fun off => ?_⟩⟩,
    rampUpdate_effect, fun s => rfl, fun s => ⟨_, rfl, s.paceEnded_effect⟩, fun s src => paceReceived_zero src,
    fun s src l => paceReceived_slow src, fun s src l free => ⟨s, ?_, rfl, rfl⟩⟩
  · exact congrArg Host.Outcome.next (if_pos stands)
  · rw [DieState.ramp_nextMove ramp]
    exact x.le_needs d
  · rw [exec_pllStepDone, idle]
  · rw [exec_voltageSettled, idle]
  · rw [exec_gcorrUpdate, if_pos (.inl few)]
  · rw [exec_tmcfgWrite, if_neg]
    rintro (⟨low, -⟩ | ⟨-, island | management⟩)
    · omega
    · exact absurd island (by decide)
    · exact absurd management (by decide)
  · rw [exec_tmcfgWrite, if_neg]
    rintro (⟨-, control⟩ | ⟨high, -⟩)
    · exact absurd control (by decide)
    · omega
  · exact congrArg Host.Outcome.next (if_pos off)
  · rw [exec_paceReceived, if_pos free]

end Sys2Proof.Machine

/-! PROOFS. Kraox links: flits, retry, lanes, heartbeats and port states (R300 to R303, R308, R319 to R321, Table 13.6). -/

namespace Sys2Proof.Machine

section

variable {s : State} {p : Nat} {x : Port}

/-! ### Halves of a port -/

@[simp] theorem Port.half_setHalf (x : Port) (h : Bool) (v : HalfLink) : (x.setHalf h v).half h = v := by cases h <;> rfl

theorem Port.setHalf_frame (x : Port) (h : Bool) (v : HalfLink) : (x.setHalf h v).rxSeq = x.rxSeq ∧ (x.setHalf h v).unacked = x.unacked ∧
    (x.setHalf h v).tx = x.tx ∧ (x.setHalf h v).st = x.st ∧ (x.setHalf h v).waiting = x.waiting ∧ (x.setHalf h v).live = x.live := by
  cases h <;> exact ⟨rfl, rfl, rfl, rfl, rfl, rfl⟩

theorem Port.carries_of_half {h : Bool} (half : (x.half h).carries = true) (live : x.live = true) : x.carries = true := by
  unfold Port.carries
  rw [live]
  cases h
  · rw [show x.h0.carries = true from half]
    rfl
  · rw [show x.h1.carries = true from half]
    exact Bool.or_true _

theorem Port.live_of_carries (carries : x.carries = true) : x.live = true := by
  unfold Port.carries at carries
  exact (Bool.and_eq_true_iff.1 carries).1

theorem Port.carries_of_not_live (down : x.live = false) : x.carries = false := by
  unfold Port.carries
  rw [down]
  rfl

theorem Port.giveCredit_of_not_live (down : x.live = false) (b : Nat) : x.giveCredit b = x := by
  unfold Port.giveCredit
  rw [Port.carries_of_not_live down]
  exact if_neg (by decide)

/-! ### What flits that go out leave of a port -/

/-- A port's halves, last SEQ received, peer and state. -/
def Port.core (x : Port) : HalfLink × HalfLink × BitVec 12 × Option (BitVec 13) × PortSt := (x.h0, x.h1, x.rxSeq, x.peerId, x.st)

theorem Port.core_giveCredit (x : Port) (b : Nat) : (x.giveCredit b).core = x.core := by
  unfold Port.giveCredit
  split <;> rfl

theorem State.port_congr {t : State} (same : t.kraox = s.kraox) (q : Nat) : t.port q = s.port q := by
  unfold State.port
  rw [same]

theorem State.core_updPort (f : Port → Port) (keeps : ∀ x, (f x).core = x.core) (s : State) (q r : Nat) :
    ((s.updPort q f).port r).core = (s.port r).core := by
  by_cases here : r = q
  · subst here
    rw [State.port_updPort_self, keeps]
  · rw [State.port_updPort_ne _ _ here]

theorem State.core_pumpGo (q r : Nat) (ws : List WaitFlit) : ∀ s : State, ((s.pumpGo q ws).port r).core = (s.port r).core := by
  induction ws with
  | nil => exact fun _ => rfl
  | cons w ws ih =>
    intro s
    have sent : ∀ y : Port, y.core = (s.port q).core → ((s.setPort q y).port r).core = (s.port r).core := by
      intro y same
      by_cases here : r = q
      · subst here
        rw [State.port_setPort_self, same]
      · rw [State.port_setPort_ne _ _ here]
    rw [State.pumpGo.eq_def]
    dsimp only
    split
    · rw [ih]
      split
      · rw [State.core_updPort _ fun x => x.core_giveCredit _]
        exact sent _ rfl
      · exact sent _ rfl
    · exact ih s

theorem State.core_pump (s : State) (q r : Nat) : ((s.pump q).port r).core = (s.port r).core := State.core_pumpGo q r _ s

theorem State.pump_of_none (none_ : (s.port p).waiting = []) : s.pump p = s := by
  unfold State.pump
  dsimp only
  rw [none_]
  rfl

/-! ### A port out of service takes no flit -/

/-- The next hop is a port in service (R309, R310). -/
theorem State.live_of_hop {f : Flit} {o : Option Nat} {q : Nat} {c d : Bool} (next : s.hop f o = some (q, c, d)) : (s.port q).live = true := by
  have decided : ∀ (r : Nat) (v : Bool × Bool), (if (s.port r).live then some (r, v) else none) = some (q, c, d) → (s.port q).live = true := by
    intro r v e
    split at e
    · next live =>
      obtain ⟨same, -⟩ := Prod.mk.inj (Option.some.inj e)
      rw [← same]
      exact live
    · exact absurd e (by simp)
  unfold State.hop at next
  dsimp only at next
  split at next
  · exact decided _ _ next
  · split at next
    · exact absurd next (by simp)
    · next r _ =>
      by_cases live : (s.port r).live = true
      · rw [if_pos live] at next
        obtain ⟨same, -⟩ := Prod.mk.inj (Option.some.inj next)
        rw [← same]
        exact live
      · rw [if_neg live] at next
        split at next
        · exact absurd next (by simp)
        · split at next
          · exact absurd next (by simp)
          · exact decided _ _ next

section

variable (down : (s.port p).live = false)

theorem State.port_updPort_of_kept (q : Nat) {f : Port → Port} (keeps : q = p → f (s.port p) = s.port p) : (s.updPort q f).port p = s.port p := by
  by_cases here : p = q
  · subst here
    rw [State.port_updPort_self, keeps rfl]
  · exact State.port_updPort_ne _ _ here

theorem State.port_pumpGo_of_down (q : Nat) (ws : List WaitFlit) : ∀ s : State, (s.port p).live = false → (s.pumpGo q ws).port p = s.port p := by
  induction ws with
  | nil => exact fun _ _ => rfl
  | cons w ws ih =>
    intro s down
    rw [State.pumpGo.eq_def]
    dsimp only
    split
    · next may =>
      have apart : p ≠ q := by
        rintro rfl
        unfold Port.maySend at may
        rw [Port.carries_of_not_live down] at may
        exact absurd may (by simp)
      have sent : (s.setPort q { (s.port q).sendOne w.flit with waiting := (s.port q).waiting.erase w }).port p = s.port p :=
        State.port_setPort_ne _ _ apart
      split
      · next r b _ =>
        have credited : ((s.setPort q { (s.port q).sendOne w.flit with waiting := (s.port q).waiting.erase w }).updPort r
            fun y => y.giveCredit b).port p = s.port p := by
          rw [State.port_updPort_of_kept, sent]
          intro _
          rw [sent]
          exact Port.giveCredit_of_not_live down b
        rw [ih _ (by rw [credited]; exact down), credited]
      · rw [ih _ (by rw [sent]; exact down), sent]
    · exact ih s down

include down

theorem State.port_pump_of_down (q : Nat) : (s.pump q).port p = s.port p := State.port_pumpGo_of_down q _ s down

theorem State.port_queueFlit_of_down (f : Flit) (o : Option (Nat × Nat)) : (s.queueFlit f o).1.port p = s.port p := by
  unfold State.queueFlit
  split
  · rfl
  · split
    · rfl
    · next q c d next =>
      have apart : p ≠ q := by
        rintro rfl
        exact absurd (down.symm.trans (State.live_of_hop next)) (by decide)
      dsimp only
      have waits : (s.bump.updPort q fun x => { x with waiting := x.waiting ++ [{ flit := { f with dcl := c, detour := d }, from_ := o }] }).port p =
          s.port p := State.port_updPort_ne _ _ apart
      rw [State.port_pump_of_down (by rw [waits]; exact down), waits]

theorem State.port_dispatchFlit_of_down (f : Flit) (o : Option (Nat × Nat)) : (s.dispatchFlit f o).port p = s.port p := by
  have queued := State.port_queueFlit_of_down down f o
  have dropped : ∀ u : State, u.port p = s.port p → (s.withoutHop u f).port p = s.port p := by
    intro u same
    have answered := State.port_queueFlit_of_down (s := u) (by rw [same]; exact down) (unreachable f s.devId) none
    unfold State.withoutHop
    split
    · split
      · next v e => exact (congrArg (fun x : State × Bool => x.1.port p) e).symm.trans (answered.trans same)
      · next v e => exact (congrArg (fun x : State × Bool => x.1.port p) e).symm.trans (answered.trans same)
    · exact same
  unfold State.dispatchFlit
  split
  · next t e => exact (congrArg (fun x : State × Bool => x.1.port p) e).symm.trans queued
  · next t e =>
    have first : t.port p = s.port p := (congrArg (fun x : State × Bool => x.1.port p) e).symm.trans queued
    cases o with
    | none => exact dropped t first
    | some back =>
      refine dropped (t.updPort back.1 fun y => y.giveCredit back.2) ?_
      rw [State.port_updPort_of_kept, first]
      intro _
      rw [first]
      exact Port.giveCredit_of_not_live down _

/-- What waits at a port out of service leaves it, and nothing else of the port changes (R320). -/
theorem State.port_reroute : (s.reroute p).port p = { s.port p with waiting := [] } := by
  have sent : ∀ (ws : List WaitFlit) (t : State), (t.port p).live = false →
      (ws.foldl (fun s w => s.dispatchFlit w.flit w.from_) t).port p = t.port p := by
    intro ws
    induction ws with
    | nil => exact fun _ _ => rfl
    | cons w ws ih =>
      intro t out
      have same := State.port_dispatchFlit_of_down out w.flit w.from_
      rw [List.foldl_cons, ih _ (by rw [same]; exact out), same]
  unfold State.reroute
  rw [if_neg (by rw [down]; decide), sent, State.port_updPort_self]
  rw [State.port_updPort_self]
  exact down

end

/-! ### Port states -/

theorem State.portDown_effect (s : State) (p cause : Nat) : (s.portDown p cause).port p = { s.port p with
      st := .down, unacked := [], h0 := { (s.port p).h0 with up := false }, h1 := { (s.port p).h1 with up := false }, waiting := [] } ∧
    (s.portDown p cause).hub.seq = s.hub.seq + 1 := by
  unfold State.portDown
  generalize fell : s.updPort p (fun x => { x with st := .down, unacked := [], h0 := { x.h0 with up := false }, h1 := { x.h1 with up := false } }) = s1
  have port : s1.port p = { s.port p with
      st := .down, unacked := [], h0 := { (s.port p).h0 with up := false }, h1 := { (s.port p).h1 with up := false } } := by
    rw [← fell]
    exact State.port_updPort_self _ _ _
  have hub : s1.hub = s.hub := by
    rw [← fell]
    rfl
  obtain ⟨-, next, -⟩ := s1.journalDev_tables 0xB8 3 p (Config.causeCode cause)
  have kept := State.port_congr (s1.journalDev_kraox 0xB8 3 p (Config.causeCode cause)) p
  refine ⟨?_, ?_⟩
  · rw [State.port_reroute (by rw [kept, port]; rfl), kept, port]
  · rw [State.hub_of_linkless (State.linkless_reroute _ _), next, hub]

theorem State.halvesChanged_up {h : Bool} (up : ((s.port p).half h).up = true) (live : (s.port p).live = true) :
    ∃ st, (s.halvesChanged p).port p = { s.port p with st := st } ∧ (st = .up ∨ st = .half) := by
  unfold State.halvesChanged
  dsimp only
  rw [if_neg (by rw [live]; decide)]
  have either : ((s.port p).h0.up || (s.port p).h1.up) = true := by
    cases h
    · rw [show (s.port p).h0.up = true from up]
      rfl
    · rw [show (s.port p).h1.up = true from up]
      exact Bool.or_true _
  split
  · exact ⟨.up, State.port_updPort_self _ _ _, .inl rfl⟩
  · exact ⟨.half, State.port_updPort_self _ _ _, .inr rfl⟩

theorem State.halvesChanged_down {h : Bool} (down : ((s.port p).half h).up = false) : (((s.halvesChanged p).port p).half h).up = false := by
  unfold State.halvesChanged
  dsimp only
  split
  · exact down
  · split
    · rw [State.port_updPort_self]
      cases h <;> exact down
    · split
      · rw [State.port_updPort_self]
        cases h <;> exact down
      · rw [(s.portDown_effect p 0).1]
        cases h <;> rfl

/-! ### Retraining -/

theorem State.markTest_kraox (s : State) (o : MaintOp) (on : Bool) : (s.markTest o on).kraox = s.kraox := by
  unfold State.markTest
  split
  · exact foldl_view (view := State.kraox) (fun s c => foldl_view (view := State.kraox) (by intro s m; rfl) _ _) o.cores s
  · rfl

theorem State.beginOp_kraox (s : State) (o : MaintOp) : (s.beginOp o).kraox = s.kraox := State.markTest_kraox _ _ _

theorem State.endOps_kraox (s : State) (q : MaintOp → Bool) : (s.endOps q).kraox = s.kraox := by
  unfold State.endOps
  dsimp only
  refine (foldl_view (view := State.kraox) (fun s o => ?_) _ _).trans ?_
  · split
    · rfl
    · exact State.beginOp_kraox _ _
  · exact foldl_view (view := State.kraox) (fun s o => s.markTest_kraox o false) _ s

theorem State.port_retrainHalf (s : State) (p : Nat) (h : Bool) :
    (s.retrainHalf p h).port p = (s.port p).setHalf h { (s.port p).half h with training := true } := by
  unfold State.retrainHalf
  rw [State.port_congr (State.beginOp_kraox _ _), State.port_updPort_self]

theorem dropWhile_until {as bs : List Flit} {g : Flit} {seq : BitVec 12} (here : g.seq = seq) (before : ∀ a ∈ as, a.seq ≠ seq) :
    ((as ++ g :: bs).dropWhile fun f => decide (f.seq ≠ seq)) = g :: bs := by
  rw [List.dropWhile_append_of_pos fun a member => decide_eq_true (before a member)]
  exact List.dropWhile_cons_of_neg (by simp [here])

/-- A retry sends what is not acknowledged again (R303). -/
theorem State.retry_effect {seq : BitVec 12} {as bs : List Flit} {g : Flit} (carries : (s.port p).carries = true)
    (unacked : (s.port p).unacked = as ++ g :: bs) (here : g.seq = seq) (before : ∀ a ∈ as, a.seq ≠ seq) :
    ((s.retry p seq).port p).unacked = bs ∧ ((s.retry p seq).port p).tx = (s.port p).tx ++ bs ∧
      ((s.retry p seq).port p).waiting = (s.port p).waiting := by
  have found : ((s.port p).unacked.any fun f => f.seq = seq) = true := by
    rw [unacked]
    exact List.any_eq_true.2 ⟨g, by simp, decide_eq_true here⟩
  unfold State.retry
  dsimp only
  rw [found, if_pos rfl, unacked, dropWhile_until here before]
  dsimp only [List.drop]
  generalize 1 + Config.freeNat s.free % ((s.port p).retries + 1) = n
  generalize (if 16 ≤ n then 0 else n) = k
  have resent : Port.resend { s.port p with unacked := bs, retries := k } = { s.port p with unacked := bs, retries := k, tx := (s.port p).tx ++ bs } :=
    if_pos carries
  rw [resent]
  split
  · rw [State.port_retrainHalf, State.port_setPort_self]
    obtain ⟨-, un, tx, -, wait, -⟩ := Port.setHalf_frame { s.port p with unacked := bs, retries := k, tx := (s.port p).tx ++ bs }
      (decide ((s.port p).h0.errors < (s.port p).h1.errors)) { Port.half { s.port p with
        unacked := bs, retries := k, tx := (s.port p).tx ++ bs } (decide ((s.port p).h0.errors < (s.port p).h1.errors)) with training := true }
    exact ⟨un, tx, wait⟩
  · rw [State.port_setPort_self]
    exact ⟨rfl, rfl, rfl⟩

theorem Port.core_resend (x : Port) : x.resend.core = x.core := by
  unfold Port.resend
  split <;> rfl

theorem Port.half_of_core {y : Port} (same : y.core = x.core) (h : Bool) : y.half h = x.half h := by
  obtain ⟨h0, rest⟩ := Prod.mk.inj same
  obtain ⟨h1, -⟩ := Prod.mk.inj rest
  unfold Port.half
  rw [h0, h1]

theorem Port.rxSeq_of_core {y : Port} (same : y.core = x.core) : y.rxSeq = x.rxSeq :=
  congrArg (fun c : HalfLink × HalfLink × BitVec 12 × Option (BitVec 13) × PortSt => c.2.2.1) same

theorem Port.peerId_of_core {y : Port} (same : y.core = x.core) : y.peerId = x.peerId :=
  congrArg (fun c : HalfLink × HalfLink × BitVec 12 × Option (BitVec 13) × PortSt => c.2.2.2.1) same

theorem Port.st_of_core {y : Port} (same : y.core = x.core) : y.st = x.st :=
  congrArg (fun c : HalfLink × HalfLink × BitVec 12 × Option (BitVec 13) × PortSt => c.2.2.2.2) same

/-! ### Flits received -/

theorem State.linkless_deliverFlit_of_pace {f : Flit} (pace : f.op = 8) (s : State) : s.deliverFlit f = s := by
  unfold State.deliverFlit
  rw [pace]
  rfl

/-- A sound data flit in order for the device itself (R302, R308). -/
theorem State.dataIn_effect {f : Flit} (here : f.dst.toNat = s.devId) (within : s.inExtent s.devId = true) (pace : f.op = 8) :
    ((s.dataIn p f).port p).rxSeq = f.seq ∧ (s.dataIn p f).linkless = s.linkless := by
  unfold State.dataIn
  dsimp only
  rw [if_pos ⟨here, by rw [here]; exact within⟩, State.linkless_deliverFlit_of_pace pace]
  refine ⟨?_, rfl⟩
  rw [State.port_updPort_self, Port.rxSeq_of_core (Port.core_giveCredit _ _), State.port_updPort_self]

theorem State.discardFlit_effect (carries : (s.port p).carries = true) :
    (s.discardFlit p).port p = { s.port p with tx := (s.port p).tx ++ [(s.port p).linkFlit 6 s.devId] } := by
  unfold State.discardFlit
  rw [State.port_updPort_self]
  exact if_pos carries

theorem exec_flitReceived_closed {q : KPort} {half : Bool} (closed : ((s.port q).half half).carries = false) (f : Flit) :
    exec (.flitReceived q half f) s = .next s := by
  refine congrArg Host.Outcome.next (if_pos ?_)
  rw [closed]
  rfl

theorem exec_flitReceived_bad {q : KPort} {half : Bool} {f : Flit} (carries : ((s.port q).half half).carries = true)
    (live : (s.port q).live = true) (bad : f.fecOk = false ∨ f.crcOk = false) :
    exec (.flitReceived q half f) s =
      .next ((s.updPort q fun x => x.setHalf half { x.half half with errors := (x.half half).errors + 1 }).discardFlit q) := by
  show execFlitReceived q half f s = _
  unfold execFlitReceived
  dsimp only
  rw [if_neg (by rw [carries]; decide), if_neg (by rw [live]; decide), if_pos bad]

/-- What a sound flit does at a port in service, by KIND (R302, R303, R319, R320). -/
def State.soundFlit (s : State) (p : Nat) (f : Flit) : State :=
  match f.kind.toNat with
  | 1 => if f.seq = (s.port p).rxSeq + 1 then (s.updPort p fun x => x.linkIn f).dataIn p f else (s.updPort p fun x => x.linkIn f).discardFlit p
  | 3 => (s.updPort p fun x => x.linkIn f).heartbeatIn p f
  | 4 => (s.updPort p fun x => x.linkIn f).peerResetting p
  | 5 => (s.updPort p fun x => x.linkIn f).peerDraining p
  | 6 => (s.updPort p fun x => x.linkIn f).retry p f.ack
  | _ => s.updPort p fun x => x.linkIn f

theorem exec_flitReceived_sound {q : KPort} {half : Bool} {f : Flit} (carries : ((s.port q).half half).carries = true)
    (live : (s.port q).live = true) (fec : f.fecOk = true) (crc : f.crcOk = true) :
    exec (.flitReceived q half f) s = .next ((s.soundFlit q f).pump q) := by
  have open_ : ¬(!((s.port q).half half).carries) = true := by rw [carries]; decide
  have serves : ¬(s.port q).live = false := by rw [live]; decide
  have whole : ¬(f.fecOk = false ∨ f.crcOk = false) := by rw [fec, crc]; decide
  exact congrArg Host.Outcome.next ((if_neg open_).trans ((if_neg serves).trans (if_neg whole)))

theorem State.soundFlit_inOrder {f : Flit} (data : f.kind = 1) (next : f.seq = (s.port p).rxSeq + 1) :
    s.soundFlit p f = (s.updPort p fun x => x.linkIn f).dataIn p f := by
  unfold State.soundFlit
  rw [data]
  exact if_pos next

theorem State.soundFlit_outOfOrder {f : Flit} (data : f.kind = 1) (next : f.seq ≠ (s.port p).rxSeq + 1) :
    s.soundFlit p f = (s.updPort p fun x => x.linkIn f).discardFlit p := by
  unfold State.soundFlit
  rw [data]
  exact if_neg next

theorem State.soundFlit_heartbeat {f : Flit} (beat : f.kind = 3) : s.soundFlit p f = (s.updPort p fun x => x.linkIn f).heartbeatIn p f := by
  unfold State.soundFlit
  rw [beat]
  rfl

theorem Port.core_linkIn (x : Port) (f : Flit) : (x.linkIn f).core = x.core := rfl

/-- A heartbeat of another device takes the port down (R319). -/
theorem State.heartbeatIn_foreign {f : Flit} {d : BitVec 13} (peer : (s.port p).peerId = some d) (foreign : d ≠ f.src) :
    ((s.heartbeatIn p f).port p).st = .down ∧ ((s.heartbeatIn p f).port p).peerId = some f.src := by
  unfold State.heartbeatIn
  rw [peer]
  dsimp only
  rw [if_neg foreign, (State.portDown_effect _ _ _).1, State.port_updPort_self]
  exact ⟨rfl, rfl⟩

theorem flitReceived_sound {q : KPort} {half : Bool} {f : Flit} (carries : ((s.port q).half half).carries = true)
    (live : (s.port q).live = true) (fec : f.fecOk = true) (crc : f.crcOk = true) (data : f.kind = 1)
    (next : f.seq = (s.port q).rxSeq + 1) (here : f.dst.toNat = s.devId) (within : s.inExtent s.devId = true) (pace : f.op = 8) :
    ∃ t, exec (.flitReceived q half f) s = .next t ∧ (t.port q).rxSeq = f.seq ∧ t.cores = s.cores ∧ t.hub = s.hub := by
  refine ⟨_, exec_flitReceived_sound carries live fec crc, ?_⟩
  rw [State.soundFlit_inOrder data next]
  obtain ⟨seq, same⟩ := State.dataIn_effect (s := s.updPort q fun x => x.linkIn f) (p := q) here within pace
  have whole := (State.linkless_pump ((s.updPort q fun x => x.linkIn f).dataIn q f) q).trans same
  exact ⟨(Port.rxSeq_of_core (State.core_pump _ _ _)).trans seq, State.cores_of_linkless whole, State.hub_of_linkless whole⟩

theorem flitReceived_outOfOrder {q : KPort} {half : Bool} {f : Flit} (carries : ((s.port q).half half).carries = true)
    (live : (s.port q).live = true) (fec : f.fecOk = true) (crc : f.crcOk = true) (data : f.kind = 1)
    (next : f.seq ≠ (s.port q).rxSeq + 1) (idle : (s.port q).waiting = []) :
    ∃ t, exec (.flitReceived q half f) s = .next t ∧ (t.port q).rxSeq = (s.port q).rxSeq ∧
      ∃ g ∈ (t.port q).tx, g.kind = 6 ∧ g.ack = (s.port q).rxSeq := by
  refine ⟨_, exec_flitReceived_sound carries live fec crc, ?_⟩
  rw [State.soundFlit_outOfOrder data next]
  have port : (s.updPort q fun x => x.linkIn f).port q = (s.port q).linkIn f := State.port_updPort_self _ _ _
  have sent := State.discardFlit_effect (s := s.updPort q fun x => x.linkIn f) (p := q) (by rw [port]; exact Port.carries_of_half carries live)
  rw [port] at sent
  rw [State.pump_of_none (by rw [sent]; exact idle), sent]
  exact ⟨rfl, _, List.mem_append_right _ (List.mem_singleton_self _), rfl, rfl⟩

theorem flitReceived_bad {q : KPort} {half : Bool} {f : Flit} (carries : ((s.port q).half half).carries = true)
    (live : (s.port q).live = true) (bad : f.fecOk = false ∨ f.crcOk = false) :
    ∃ t, exec (.flitReceived q half f) s = .next t ∧ (t.port q).rxSeq = (s.port q).rxSeq ∧
      ((t.port q).half half).errors = ((s.port q).half half).errors + 1 ∧ (t.port q).unacked = (s.port q).unacked ∧
      ∃ g ∈ (t.port q).tx, g.kind = 6 ∧ g.ack = (s.port q).rxSeq := by
  refine ⟨_, exec_flitReceived_bad carries live bad, ?_⟩
  generalize counted : (s.port q).setHalf half { (s.port q).half half with errors := ((s.port q).half half).errors + 1 } = y
  obtain ⟨seq, un, -, -, -, alive⟩ := Port.setHalf_frame (s.port q) half { (s.port q).half half with errors := ((s.port q).half half).errors + 1 }
  have half_ : y.half half = { (s.port q).half half with errors := ((s.port q).half half).errors + 1 } := by
    rw [← counted]
    exact Port.half_setHalf _ _ _
  rw [counted] at seq un alive
  have port : (s.updPort q fun x => x.setHalf half { x.half half with errors := (x.half half).errors + 1 }).port q = y :=
    (State.port_updPort_self _ _ _).trans counted
  have open_ : y.carries = true := Port.carries_of_half (h := half) (by rw [half_]; exact carries) (alive.trans live)
  rw [State.discardFlit_effect (by rw [port]; exact open_), port]
  refine ⟨seq, ?_, un, _, List.mem_append_right _ (List.mem_singleton_self _), rfl, seq⟩
  refine (congrArg HalfLink.errors (Port.half_of_core (x := y) rfl half)).trans ?_
  rw [half_]

theorem flitReceived_foreign {q : KPort} {half : Bool} {f : Flit} (carries : ((s.port q).half half).carries = true)
    (live : (s.port q).live = true) (fec : f.fecOk = true) (crc : f.crcOk = true) (beat : f.kind = 3)
    (foreign : ∃ d, (s.port q).peerId = some d ∧ d ≠ f.src) :
    ∃ t, exec (.flitReceived q half f) s = .next t ∧ (t.port q).st = .down ∧ (t.port q).peerId = some f.src := by
  obtain ⟨d, peer, other⟩ := foreign
  refine ⟨_, exec_flitReceived_sound carries live fec crc, ?_⟩
  rw [State.soundFlit_heartbeat beat]
  have port : (s.updPort q fun x => x.linkIn f).port q = (s.port q).linkIn f := State.port_updPort_self _ _ _
  obtain ⟨down, id⟩ := State.heartbeatIn_foreign (s := s.updPort q fun x => x.linkIn f) (p := q) (f := f) (d := d) (by rw [port]; exact peer) other
  exact ⟨(Port.st_of_core (State.core_pump _ _ _)).trans down, (Port.peerId_of_core (State.core_pump _ _ _)).trans id⟩

theorem exec_retryRequest {q : KPort} {seq : BitVec 12} {as bs : List Flit} {g : Flit} (carries : (s.port q).carries = true)
    (idle : (s.port q).waiting = []) (unacked : (s.port q).unacked = as ++ g :: bs) (here : g.seq = seq) (before : ∀ a ∈ as, a.seq ≠ seq) :
    ∃ t, exec (.retryRequest q seq) s = .next t ∧ (t.port q).unacked = bs ∧ (t.port q).tx = (s.port q).tx ++ bs := by
  refine ⟨_, congrArg Host.Outcome.next (if_pos (Port.live_of_carries carries)), ?_⟩
  obtain ⟨un, tx, wait⟩ := State.retry_effect carries unacked here before
  rw [State.pump_of_none (wait.trans idle)]
  exact ⟨un, tx⟩

/-! ### Lanes -/

theorem laneSwap_spare {q : KPort} {half : Bool} (up : ((s.port q).half half).up = true) (idle : ((s.port q).half half).training = false)
    (spare : 0 < ((s.port q).half half).spares) (lane : Fin 20) :
    ∃ t, exec (.laneSwap q half lane) s = .next t ∧ ((t.port q).half half).spares = ((s.port q).half half).spares - 1 ∧
      ((t.port q).half half).training = true ∧ ((t.port q).half half).good = ((s.port q).half half).good := by
  refine ⟨(s.updPort q fun x => x.setHalf half { (s.port q).half half with spares := ((s.port q).half half).spares - 1 }).retrainHalf q half, ?_, ?_⟩
  · show execLaneSwap q half lane s = _
    unfold execLaneSwap
    dsimp only
    rw [if_neg (by rw [up, idle]; decide), if_pos spare]
  · rw [State.port_retrainHalf, Port.half_setHalf, State.port_updPort_self, Port.half_setHalf]
    exact ⟨rfl, rfl, rfl⟩

theorem laneSwap_narrower {q : KPort} {half : Bool} (up : ((s.port q).half half).up = true) (idle : ((s.port q).half half).training = false)
    (spare : ((s.port q).half half).spares = 0) (wide : 9 ≤ ((s.port q).half half).good) (lane : Fin 20) :
    ∃ t, exec (.laneSwap q half lane) s = .next t ∧ ((t.port q).half half).good = ((s.port q).half half).good - 1 ∧
      ((t.port q).half half).training = true := by
  refine ⟨(s.updPort q fun x => x.setHalf half { (s.port q).half half with good := ((s.port q).half half).good - 1 }).retrainHalf q half, ?_, ?_⟩
  · show execLaneSwap q half lane s = _
    unfold execLaneSwap
    dsimp only
    rw [if_neg (by rw [up, idle]; decide), if_neg (by omega), if_pos (by omega)]
  · rw [State.port_retrainHalf, Port.half_setHalf, State.port_updPort_self, Port.half_setHalf]
    exact ⟨rfl, rfl⟩

theorem laneSwap_down {q : KPort} {half : Bool} (up : ((s.port q).half half).up = true) (idle : ((s.port q).half half).training = false)
    (spare : ((s.port q).half half).spares = 0) (narrow : ((s.port q).half half).good < 9) (lane : Fin 20) :
    ∃ t, exec (.laneSwap q half lane) s = .next t ∧ ((t.port q).half half).up = false := by
  refine ⟨(s.updPort q fun x =>
    x.setHalf half { (s.port q).half half with good := ((s.port q).half half).good - 1, up := false }).halvesChanged q, ?_, ?_⟩
  · show execLaneSwap q half lane s = _
    unfold execLaneSwap
    dsimp only
    rw [if_neg (by rw [up, idle]; decide), if_neg (by omega), if_neg (by omega)]
  · refine State.halvesChanged_down ?_
    rw [State.port_updPort_self, Port.half_setHalf]

theorem State.halvesChanged_of_not_live (down : (s.port p).live = false) : s.halvesChanged p = s := by
  unfold State.halvesChanged
  exact if_pos down

theorem exec_halfLinkRetrained {q : KPort} {half : Bool} {n : Nat} (training : ((s.port q).half half).training = true)
    (kept : ((s.port q).half half).dieLost = false) (wide : 8 ≤ n) :
    ∃ t, exec (.halfLinkRetrained q half n) s = .next t ∧ ((t.port q).half half).training = false ∧
      ((t.port q).half half).up = (s.port q).live ∧ ((t.port q).half half).good = min 16 n ∧
      ((t.port q).half half).errors = ((s.port q).half half).errors := by
  generalize ended : s.endOps (fun o => decide (o.kind = .kraoxLane) && decide (o.chan = some (2 * q.val + bitAt half 0))) = s1
  generalize trained : (s1.updPort q fun x => x.setHalf half
    { (s.port q).half half with training := false, good := min 16 n, up := (s.port q).live && decide (8 ≤ min 16 n) }) = s2
  have port : s1.port q = s.port q := by
    rw [← ended]
    exact State.port_congr (State.endOps_kraox s _) q
  have ran : exec (.halfLinkRetrained q half n) s = .next (((s2.halvesChanged q).updPort q Port.resend).pump q) := by
    show execHalfLinkRetrained q half n s = _
    unfold execHalfLinkRetrained
    dsimp only
    rw [if_neg (by rw [training, kept]; decide), ended, trained]
  have widths : (decide (8 ≤ min 16 n)) = true := decide_eq_true (by omega)
  have halves : s2.port q = (s.port q).setHalf half { (s.port q).half half with training := false, good := min 16 n, up := (s.port q).live } := by
    rw [← trained, State.port_updPort_self, port, widths, Bool.and_true]
  obtain ⟨-, -, -, -, -, alive⟩ :=
    Port.setHalf_frame (s.port q) half { (s.port q).half half with training := false, good := min 16 n, up := (s.port q).live }
  rw [← halves] at alive
  have kept_ : ((s2.halvesChanged q).port q).half half = (s2.port q).half half := by
    cases live : (s.port q).live with
    | false => rw [State.halvesChanged_of_not_live (alive.trans live)]
    | true =>
      obtain ⟨st, same, -⟩ := State.halvesChanged_up (s := s2) (p := q) (h := half)
        (by rw [halves, Port.half_setHalf]; exact live) (alive.trans live)
      rw [same]
      cases half <;> rfl
  have final : (((((s2.halvesChanged q).updPort q Port.resend).pump q).port q).half half) =
      { (s.port q).half half with training := false, good := min 16 n, up := (s.port q).live } := by
    rw [Port.half_of_core (State.core_pump _ _ _), State.port_updPort_self, Port.half_of_core (Port.core_resend _), kept_, halves,
      Port.half_setHalf]
  refine ⟨_, ran, ?_⟩
  rw [final]
  exact ⟨rfl, rfl, rfl, rfl⟩

/-! ### Port states -/

theorem exec_heartbeatSend {q : KPort} (live : (s.port q).live = true) (h0 : (s.port q).h0.carries = true) (h1 : (s.port q).h1.carries = true) :
    ∃ t a b, exec (.heartbeatSend q) s = .next t ∧ (t.port q).tx = (s.port q).tx ++ [a, b] ∧ a.kind = 3 ∧ b.kind = 3 ∧
      a.src.toNat = s.devId ∧ t.cores = s.cores := by
  generalize beat : ({ (s.port q).linkFlit 3 s.devId with
    job := BitVec.ofNat 16 s.job, msg := Config.msgWord 0 s.kraox.jobState 0 0 } : Flit) = f
  have sent : ((s.updPort q fun x =>
      let f : Flit := { x.linkFlit 3 s.devId with job := BitVec.ofNat 16 s.job, msg := Config.msgWord 0 s.kraox.jobState 0 0 }
      if x.live then { x with tx := x.tx ++ (if x.h0.carries then [f] else []) ++ (if x.h1.carries then [f] else []) } else x).port q).tx =
      (s.port q).tx ++ [f, f] := by
    rw [State.port_updPort_self]
    dsimp only
    rw [beat, if_pos live, if_pos h0, if_pos h1]
    exact List.append_assoc _ _ _
  refine ⟨_, f, f, rfl, sent, ?_, ?_, ?_, rfl⟩
  · rw [← beat]
    rfl
  · rw [← beat]
    rfl
  · rw [← beat]
    show (BitVec.ofNat 13 s.devId).toNat = s.devId
    rw [BitVec.toNat_ofNat]
    exact Nat.mod_mod _ _

theorem exec_portHeartbeatTimeout {q : KPort} (live : (s.port q).live = true) :
    ∃ t, exec (.portHeartbeatTimeout q) s = .next t ∧ (t.port q).st = .down ∧ (t.port q).unacked = [] ∧ (t.port q).waiting = [] ∧
      t.hub.seq = s.hub.seq + 1 := by
  obtain ⟨port, seq⟩ := s.portDown_effect q 0
  refine ⟨_, congrArg Host.Outcome.next (if_pos live), ?_⟩
  rw [port]
  exact ⟨rfl, rfl, rfl, seq⟩

theorem exec_portTrainTimeout {q : KPort} (away : (s.port q).st = .peerReset ∨ (s.port q).st = .draining) :
    ∃ t, exec (.portTrainTimeout q) s = .next t ∧ (t.port q).st = .down ∧ t.hub.seq = s.hub.seq + 1 := by
  obtain ⟨port, seq⟩ := s.portDown_effect q 0
  refine ⟨_, congrArg Host.Outcome.next (if_pos away), ?_⟩
  rw [port]
  exact ⟨rfl, seq⟩

/-- An ordered set of the neighbour: the port takes the state and what waited at it leaves (R320). -/
theorem State.leaveService_effect {f : Port → Port} {st : PortSt} (goes : f (s.port p) = { s.port p with st := st })
    (away : decide (st = .up) = false) (away' : decide (st = .half) = false) :
    (((s.updPort p f).reroute p).port p = { s.port p with st := st, waiting := [] }) ∧
      ((s.updPort p f).reroute p).cores = s.cores ∧ ((s.updPort p f).reroute p).hub = s.hub := by
  have port : (s.updPort p f).port p = { s.port p with st := st } := (State.port_updPort_self _ _ _).trans goes
  have same : ((s.updPort p f).reroute p).linkless = s.linkless := State.linkless_reroute _ _
  refine ⟨?_, State.cores_of_linkless same, State.hub_of_linkless same⟩
  rw [State.port_reroute, port]
  rw [port]
  unfold Port.live
  rw [away, away']
  rfl

theorem exec_resettingSet {q : KPort} (here : (s.port q).live = true ∨ (s.port q).st = .draining) :
    ∃ t, exec (.resettingSet q) s = .next t ∧ t.port q = { s.port q with st := .peerReset, waiting := [] } ∧
      t.cores = s.cores ∧ t.hub = s.hub := by
  refine ⟨_, rfl, State.leaveService_effect (st := .peerReset) ?_ rfl rfl⟩
  dsimp only
  rw [if_pos here]

theorem exec_drainingSet {q : KPort} (live : (s.port q).live = true) :
    ∃ t, exec (.drainingSet q) s = .next t ∧ t.port q = { s.port q with st := .draining, waiting := [] } ∧
      t.cores = s.cores ∧ t.hub = s.hub := by
  refine ⟨_, rfl, State.leaveService_effect (st := .draining) ?_ rfl rfl⟩
  dsimp only
  rw [if_pos live]

theorem exec_portTrained {q : KPort} {g0 g1 : Nat} (down : (s.port q).live = false) (kept0 : (s.port q).h0.dieLost = false)
    (kept1 : (s.port q).h1.dieLost = false) (wide0 : 8 ≤ g0) (wide1 : 8 ≤ g1) (idle : (s.port q).waiting = []) :
    ∃ t, exec (.portTrained q g0 g1) s = .next t ∧ (t.port q).st = .up ∧ (t.port q).rxSeq = Port.reset.rxSeq ∧
      (t.port q).txSeq = Port.reset.txSeq ∧ (t.port q).credits = Port.reset.credits ∧ (t.port q).h0.good = min 16 g0 ∧
      (t.port q).peerId = (s.port q).peerId := by
  generalize ended : s.endOps (fun o => decide (o.kind = .kraoxLane) && o.chan.any fun c => decide (c / 2 = q.val)) = s1
  generalize fresh : ({ Port.reset with
    h0 := { (s.port q).h0 with good := min 16 g0, up := decide (8 ≤ min 16 g0), training := false },
    h1 := { (s.port q).h1 with good := min 16 g1, up := decide (8 ≤ min 16 g1), training := false },
    st := .up, peerId := (s.port q).peerId, waiting := (s.port q).waiting, tx := (s.port q).tx } : Port) = y
  have ran : exec (.portTrained q g0 g1) s = .next ((s1.setPort q y).pump q) := by
    show execPortTrained q g0 g1 s = _
    unfold execPortTrained
    dsimp only
    have both : 8 ≤ min 16 g0 ∧ 8 ≤ min 16 g1 := ⟨by omega, by omega⟩
    have good0 : (if (s.port q).h0.dieLost = true then 0 else min 16 g0) = min 16 g0 := if_neg (by rw [kept0]; decide)
    have good1 : (if (s.port q).h1.dieLost = true then 0 else min 16 g1) = min 16 g1 := if_neg (by rw [kept1]; decide)
    simp only [good0, good1]
    have begins : ¬((s.port q).live = true ∨ (min 16 g0 < 8 ∧ min 16 g1 < 8)) := by
      rw [down]
      rintro (h | h)
      · exact absurd h (by decide)
      · omega
    rw [ended, if_neg begins, if_pos both, fresh]
  have waits : y.waiting = [] := by
    rw [← fresh]
    exact idle
  rw [State.pump_of_none (by rw [State.port_setPort_self, waits])] at ran
  refine ⟨_, ran, ?_⟩
  rw [State.port_setPort_self, ← fresh]
  exact ⟨rfl, rfl, rfl, rfl, rfl, rfl⟩

/-- Settles O47: what flits that go out leave of a port is one lemma (`State.core_pump`), and a port out of service takes none of what is
routed anew (`State.port_reroute`). -/
theorem kraoxLinks : Obligations.KraoxLinks := by
  intro s q
  dsimp only
  refine ⟨fun half f carries live => ⟨?_, ?_, ?_, ?_⟩, ?_, ?_, fun half lane up idle => ⟨?_, ?_, ?_⟩, ?_, ?_, ?_, ?_, ?_, ?_, ?_, ?_⟩
  · exact fun fec crc data next here within pace => flitReceived_sound carries live fec crc data next here within pace
  · exact fun fec crc data next idle => flitReceived_outOfOrder carries live fec crc data next idle
  · exact fun bad => flitReceived_bad carries live bad
  · exact fun fec crc beat foreign => flitReceived_foreign carries live fec crc beat foreign
  · exact fun half f closed => exec_flitReceived_closed closed f
  · exact fun seq as bs g carries idle unacked here before => exec_retryRequest carries idle unacked here before
  · exact fun spare => laneSwap_spare up idle spare lane
  · exact fun spare wide => laneSwap_narrower up idle spare wide lane
  · exact fun spare narrow => laneSwap_down up idle spare narrow lane
  · exact fun half n training kept wide => exec_halfLinkRetrained training kept wide
  · exact fun live h0 h1 => exec_heartbeatSend live h0 h1
  · exact fun live => exec_portHeartbeatTimeout live
  · exact fun live => exec_resettingSet (.inl live)
  · exact fun live => exec_drainingSet live
  · intro draining
    obtain ⟨t, ran, port, -, -⟩ := exec_resettingSet (.inr draining)
    exact ⟨t, ran, by rw [port]⟩
  · exact fun g0 g1 down kept0 kept1 wide0 wide1 idle => exec_portTrained down kept0 kept1 wide0 wide1 idle
  · exact fun away => exec_portTrainTimeout away

end

end Sys2Proof.Machine

/-! PROOFS. The host ports: resets, lanes, HRDY and pauses (R331 to R333, R337, Table 14.6). -/

namespace Sys2Proof.Machine

section

variable {s : State}

/-- A host port but for the vectors raised on it. -/
def HostPort.bare (h : HostPort) : HostPort := { h with msix := [] }

theorem HostPort.hrdy_of_bare {a b : HostPort} (same : a.bare = b.bare) : a.hrdy = b.hrdy := by
  injection same

theorem HostPort.downs_of_bare {a b : HostPort} (same : a.bare = b.bare) : a.downs = b.downs := by
  injection same

theorem HostPort.mbox_of_bare {a b : HostPort} (same : a.bare = b.bare) : a.mbox = b.mbox := by
  injection same

/-- Which rings are enabled, and the host ports but for the vectors raised on them. -/
def State.fronts (s : State) : (Nat → Bool) × (Nat → HostPort) := (fun r => (s.hub.ring r).en, fun q => (s.host q).bare)

/-! ### What leaves rings and ports as they are -/

theorem State.fronts_raiseVec (s : State) (p v : Nat) : (s.raiseVec p v).fronts = s.fronts := by
  refine Prod.ext rfl (funext fun q => ?_)
  show ((s.updHost p fun h => { h with msix := Sparse.set h.msix false v true }).host q).bare = (s.host q).bare
  by_cases here : q = p
  · subst here
    rw [State.host_updHost_self]
    rfl
  · rw [State.host_updHost_ne _ _ here]

theorem State.fronts_setRing (s : State) (q : Nat) {v : Ring} (same : v.en = (s.hub.ring q).en) :
    (s.updHub fun h => h.setRing q v).fronts = s.fronts := by
  refine Prod.ext (funext fun r => ?_) rfl
  show (Sparse.get (Sparse.set s.hub.rings Ring.reset q v) Ring.reset r).en = (s.hub.ring r).en
  by_cases here : r = q
  · subst here
    rw [Sparse.get_set_self, same]
  · rw [Sparse.get_set_ne _ _ _ _ here]
    rfl

theorem State.fronts_postNow (s : State) (w : CqWait) : (s.postNow w).fronts = s.fronts := by
  unfold State.postNow
  generalize kept : (s.updHub fun h => { h with cmds := h.cmds.filter fun x => decide (some x.id ≠ w.fin) }) = s0
  have same : s0.fronts = s.fronts := by
    rw [← kept]
    rfl
  have ring : s0.hub.ring = s.hub.ring := by
    rw [← kept]
    rfl
  have returned : (if w.fin.isNone then s.hub.ring (s.hub.cqOf w.ring)
      else { s.hub.ring (s.hub.cqOf w.ring) with reserved := (s.hub.ring (s.hub.cqOf w.ring)).reserved - 1 }).en = (s0.hub.ring (s.hub.cqOf w.ring)).en := by
    rw [ring]
    split <;> rfl
  dsimp only
  generalize (if w.fin.isNone then s.hub.ring (s.hub.cqOf w.ring)
      else { s.hub.ring (s.hub.cqOf w.ring) with reserved := (s.hub.ring (s.hub.cqOf w.ring)).reserved - 1 }) = rc at returned ⊢
  split
  · refine (State.fronts_raiseVec _ _ _).trans (Eq.trans ?_ same)
    generalize (if ((s.hub.ring (s.hub.cqOf w.ring)).cqTail + 1).toNat % 2 ^ (s.hub.ring (s.hub.cqOf w.ring)).cqLog.toNat = 0 then
      !(s.hub.ring (s.hub.cqOf w.ring)).phase else (s.hub.ring (s.hub.cqOf w.ring)).phase) = turned
    exact State.fronts_setRing s0 (s.hub.cqOf w.ring) (v := { rc with cqTail := (s.hub.ring (s.hub.cqOf w.ring)).cqTail + 1, phase := turned }) returned
  · exact (State.fronts_setRing s0 _ returned).trans same

theorem State.fronts_post (s : State) (w : CqWait) : (s.post w).fronts = s.fronts := by
  unfold State.post
  split
  · exact s.fronts_postNow w
  · rfl

theorem State.fronts_endRequest (s : State) (n status : Nat) (detail : W32) (spec : Bool) :
    (s.endRequest n status detail spec).fronts = s.fronts := by
  unfold State.endRequest
  dsimp only
  split
  · rfl
  · exact State.fronts_post _ _

theorem State.fronts_endQueued (s : State) (n status : Nat) : (s.endQueued n status).fronts = s.fronts := by
  unfold State.endQueued
  refine foldl_view (view := State.fronts) (fun s x => ?_) _ s
  split
  · exact State.fronts_post _ _
  · rfl

theorem State.fronts_nextQueued (s : State) (n : Nat) : (s.nextQueued n).fronts = s.fronts := by
  unfold State.nextQueued
  dsimp only
  split
  · split <;> rfl
  · rfl

theorem State.fronts_stopStream (s : State) (n : Nat) : (s.stopStream n).fronts = s.fronts := by
  unfold State.stopStream
  dsimp only
  split
  · exact (State.fronts_nextQueued _ _).trans (s.fronts_endRequest _ _ _ _)
  · split
    · rfl
    · split
      · refine Eq.trans (b := ((if (s.hub.stream n).outstanding then s.endRequest n 8 0 false else s).endQueued n 8).fronts) rfl ?_
        refine (State.fronts_endQueued _ _ _).trans ?_
        split
        · exact s.fronts_endRequest _ _ _ _
        · rfl
      · rfl

theorem State.fronts_postWaiting (q : Nat) (ws : List CqWait) : ∀ s : State, (s.postWaiting q ws).fronts = s.fronts := by
  induction ws with
  | nil => exact fun _ => rfl
  | cons w ws ih =>
    intro s
    unfold State.postWaiting
    split
    · exact ih s
    · split
      · rw [ih, State.fronts_postNow]
        rfl
      · rfl

theorem State.endSession_ports (s : State) (slot : Nat) : (s.endSession slot).fronts = s.fronts ∧ (s.endSession slot).hosts = s.hosts := by
  obtain ⟨m, same⟩ := s.dropDownload_frame
  unfold State.endSession
  rw [same]
  split <;> exact ⟨rfl, rfl⟩

/-! ### Reset of a port (R333) -/

/-- A mailbox whose session has ended. -/
def HostPort.withoutSession (h : HostPort) : HostPort := { h with mbox := { h.mbox with operator := false, nonce := none } }

theorem State.endMailbox_eq (s : State) (p : Nat) : s.endMailbox p = (s.updHost p HostPort.withoutSession).endSession (10 + p) := rfl

theorem Hub.ring_offAll (rings : List Nat) (r : Nat) : ∀ h : Hub, (r ∈ rings ∨ (h.ring r).en = false) →
    ((rings.foldl (fun h r => h.updRing r fun x => { x with en := false }) h).ring r).en = false := by
  induction rings with
  | nil => exact fun h either => either.resolve_left List.not_mem_nil
  | cons q rings ih =>
    intro h either
    rw [List.foldl_cons]
    refine ih _ ?_
    by_cases here : r = q
    · refine .inr ?_
      subst here
      show (Sparse.get (Sparse.set h.rings Ring.reset r { h.ring r with en := false }) Ring.reset r).en = false
      rw [Sparse.get_set_self]
    · refine either.imp (fun member => (List.mem_cons.1 member).resolve_left here) fun off => ?_
      show (Sparse.get (Sparse.set h.rings Ring.reset q { h.ring q with en := false }) Ring.reset r).en = false
      rw [Sparse.get_set_ne _ _ _ _ here]
      exact off

/-- A port's rings go off and its session ends; its state, lanes and counts stay. -/
theorem State.portReset_effect (s : State) (p : Nat) : (∀ r, r < 64 → s.portOfRing r = p → ((s.portReset p).hub.ring r).en = false) ∧
    ((s.portReset p).host p).bare = (s.host p).withoutSession.bare ∧ (s.portReset p).cores = s.cores := by
  refine ⟨?_, ?_, congrArg (fun v : Sparse CoreState × Sparse DieState × Sparse Partition × List Program × List Rebind × Power => v.1)
    (s.bodies_portReset p)⟩
  all_goals
    unfold State.portReset
    dsimp only
    generalize off : (s.updHub fun h => ((List.range 64).filter fun r => s.portOfRing r = p).foldl
      (fun h r => h.updRing r fun x => { x with en := false }) h) = s0
    generalize posted : ((((List.range 64).filter fun r => s.portOfRing r = p).map s0.hub.cqOf).dedup.foldl (fun s q => s.postWaiting q s.hub.cqWait) s0) = s1
    have kept : s1.fronts = s0.fronts := by
      rw [← posted]
      exact foldl_view (view := State.fronts) (fun s q => State.fronts_postWaiting _ _ s) _ s0
    generalize ended : s1.endMailbox p = s2
    have last := foldl_view (view := State.fronts) State.fronts_stopStream
      (s2.hub.openStreams fun x => x.outstanding && decide (x.sq ∈ (List.range 64).filter fun r => s.portOfRing r = p)) s2
    have mailbox : s2.fronts = (s1.updHost p HostPort.withoutSession).fronts := by
      rw [← ended, State.endMailbox_eq]
      exact (State.endSession_ports _ _).1
  · intro r lt of
    refine (congrArg (fun v : (Nat → Bool) × (Nat → HostPort) => v.1 r) (last.trans mailbox)).trans ?_
    refine (congrArg (fun v : (Nat → Bool) × (Nat → HostPort) => v.1 r) kept).trans ?_
    rw [← off]
    exact Hub.ring_offAll _ r s.hub (.inl (by simp [lt, of]))
  · refine (congrArg (fun v : (Nat → Bool) × (Nat → HostPort) => v.2 p) (last.trans mailbox)).trans ?_
    have port : (s1.host p).bare = (s.host p).bare := by
      refine (congrArg (fun v : (Nat → Bool) × (Nat → HostPort) => v.2 p) kept).trans ?_
      rw [← off]
      rfl
    show ((s1.updHost p HostPort.withoutSession).host p).bare = _
    rw [State.host_updHost_self]
    exact congrArg HostPort.withoutSession port

theorem State.hrdy_portReset (s : State) (p : Nat) : ((s.portReset p).host p).hrdy = (s.host p).hrdy :=
  (HostPort.hrdy_of_bare (s.portReset_effect p).2.1).trans rfl

theorem State.downs_portReset (s : State) (p : Nat) : ((s.portReset p).host p).downs = (s.host p).downs :=
  (HostPort.downs_of_bare (s.portReset_effect p).2.1).trans rfl

theorem State.operator_portReset (s : State) (p : Nat) : ((s.portReset p).host p).mbox.operator = false := by
  rw [HostPort.mbox_of_bare (s.portReset_effect p).2.1]
  rfl

/-! ### Attention -/

/-- An attention cause sets its bit of DEVSTAT and leaves a port's lanes and counts as they are. -/
theorem State.attend_effect (s : State) (p : Nat) {b : Nat} (lt : b < 4) : bitOf ((s.attend p b).host p).devstat b = true ∧
    ((s.attend p b).host p).onSpare = (s.host p).onSpare ∧ ((s.attend p b).host p).badLanes = (s.host p).badLanes ∧
    ((s.attend p b).host p).width = (s.host p).width := by
  unfold State.attend
  dsimp only
  split
  · next set_ => exact ⟨set_, rfl, rfl, rfl⟩
  · generalize marked : (s.host p).devstat ||| BitVec.ofNat 4 (2 ^ b) = d
    have bit : bitOf d b = true := by
      rw [← marked, bitOf_or_two_pow]
      simp [lt]
    unfold State.raiseVec
    rw [State.host_updHost_self, State.host_setHost_self]
    split <;> exact ⟨bit, rfl, rfl, rfl⟩

theorem State.downs_attend (s : State) (p b q : Nat) : ((s.attend p b).host q).downs = (s.host q).downs := by
  unfold State.attend
  dsimp only
  split
  · rfl
  · by_cases here : q = p
    · subst here
      unfold State.raiseVec
      rw [State.host_updHost_self, State.host_setHost_self]
      split <;> rfl
    · unfold State.raiseVec
      rw [State.host_updHost_ne _ _ here]
      exact congrArg HostPort.downs (Sparse.get_set_ne _ _ _ _ here)

theorem State.downs_journal (s : State) (code : Byte) (part sk si : Nat) (tag : BitVec 16) (stepno addr : W32) (detail : W64) (q : Nat) :
    ((s.journal code part sk si tag stepno addr detail).host q).downs = (s.host q).downs := by
  unfold State.journal
  dsimp only
  split
  · rw [State.host_event]
    refine (foldl_view (view := fun s : State => (s.host q).downs) (fun s p => ?_) _ _).trans rfl
    split
    · exact State.downs_attend _ _ _ _
    · rfl
  · rfl

/-! ### Resets, lanes and HRDY -/

theorem exec_perstAssert (p : HPort) : ∃ t, exec (.perstAssert p) s = .next t ∧ (t.host p).perstN = false ∧
    (t.host p).hrdy = (if (s.host p).hrdy = .stop then .stop else .reset) ∧
    (∀ r, r < 64 → s.portOfRing r = p.val → (t.hub.ring r).en = false) ∧ (t.host p).mbox.operator = false ∧ t.cores = s.cores := by
  obtain ⟨off, -, cores⟩ := s.portReset_effect p
  have hrdy := s.hrdy_portReset p
  have operator := s.operator_portReset p
  have ran : exec (.perstAssert p) s = .next ((s.portReset p).updHost p fun h =>
      { h with perstN := false, hrdy := if h.hrdy = .stop then .stop else .reset }) := rfl
  generalize s.portReset p = s1 at off cores hrdy operator ran
  refine ⟨_, ran, ?_⟩
  rw [State.host_updHost_self]
  refine ⟨rfl, ?_, off, operator, cores⟩
  dsimp only
  rw [hrdy]

theorem exec_perstDeassert {p : HPort} (reset : (s.host p).hrdy = .reset) : ∃ t, exec (.perstDeassert p) s = .next t ∧
    (t.host p).perstN = true ∧
    (t.host p).hrdy = (if s.hub.paused then .pause else if s.hub.inService then .ready else .boot) ∧ t.hub = s.hub := by
  refine ⟨_, rfl, ?_⟩
  rw [State.host_updHost_self]
  exact ⟨rfl, if_pos reset, rfl⟩

theorem exec_hostLinkDown (p : HPort) : ∃ t, exec (.hostLinkDown p) s = .next t ∧ (t.host p).downs = (s.host p).downs + 1 ∧
    (∀ r, r < 64 → s.portOfRing r = p.val → (t.hub.ring r).en = false) ∧ t.cores = s.cores := by
  obtain ⟨off, -, cores⟩ := s.portReset_effect p
  have counted := s.downs_portReset p
  have ran : exec (.hostLinkDown p) s =
      .next (((s.portReset p).updHost p fun h => { h with downs := h.downs + 1 }).journalBare 0xBA 4 p) := by
    show execHostLinkDown p s = _
    unfold execHostLinkDown
    rfl
  generalize s.portReset p = s0 at off cores counted ran
  generalize fell : s0.updHost p (fun h => { h with downs := h.downs + 1 }) = s1 at ran
  have downs : (s1.host p).downs = (s.host p).downs + 1 := by
    rw [← fell, State.host_updHost_self, ← counted]
  have hub : s1.hub = s0.hub := by
    rw [← fell]
    rfl
  have body : s1.cores = s.cores := by
    rw [← fell]
    exact cores
  refine ⟨_, ran, (State.downs_journal _ _ _ _ _ _ _ _ _ _).trans downs, fun r lt of => ?_, (State.journalBare_cores _ _ _ _).trans body⟩
  obtain ⟨rings, -, -⟩ := s1.journalDev_tables 0xBA 4 p (Config.freeW64 s1.free)
  have same : (s1.journalBare 0xBA 4 p).hub.ring r = s0.hub.ring r := by
    unfold Hub.ring
    rw [show (s1.journalBare 0xBA 4 p).hub.rings = s1.hub.rings from rings, hub]
  rw [same]
  exact off r lt of

theorem hostLaneReplace_spare {p : HPort} {lane : Fin 16} (fresh : lane.val ∉ (s.host p).onSpare)
    (present : (s.die (spareDie p lane)).gone = false) (free : s.spareTaken (spareDie p lane) (lane.val % 4) = false) :
    ∃ t, exec (.hostLaneReplace p lane) s = .next t ∧ (t.host p).onSpare = (s.host p).onSpare ++ [lane.val] ∧
      (t.host p).width = (s.host p).width ∧ bitOf (t.host p).devstat 1 = true ∧ t.hub = s.hub := by
  generalize spared : s.updHost p (fun h => { h with onSpare := h.onSpare ++ [lane.val] }) = s1
  have ran : exec (.hostLaneReplace p lane) s = .next (s1.attend p 1) := by
    rw [← spared]
    exact congrArg Host.Outcome.next (if_pos ⟨fresh, present, free⟩)
  have port : s1.host p = { s.host p with onSpare := (s.host p).onSpare ++ [lane.val] } := by
    rw [← spared, State.host_updHost_self]
  obtain ⟨bit, on, -, width⟩ := s1.attend_effect p (b := 1) (by decide)
  refine ⟨_, ran, by rw [on, port], by rw [width, port], bit, ?_⟩
  rw [State.attend_hub, ← spared, State.updHost_hub]

theorem hostLaneReplace_narrower {p : HPort} {lane : Fin 16} (used : lane.val ∈ (s.host p).onSpare) (fresh : lane.val ∉ (s.host p).badLanes)
    (runs : widestOf ((s.host p).badLanes ++ [lane.val]) ≠ 0) :
    ∃ t, exec (.hostLaneReplace p lane) s = .next t ∧ (t.host p).badLanes = (s.host p).badLanes ++ [lane.val] ∧
      (t.host p).width = widestOf ((s.host p).badLanes ++ [lane.val]) ∧ bitOf (t.host p).devstat 1 = true := by
  generalize bad : (s.host p).badLanes ++ [lane.val] = ls at runs
  generalize narrowed : s.updHost p (fun h => { h with badLanes := ls, width := widestOf ls }) = s1
  have ran : exec (.hostLaneReplace p lane) s = .next (s1.attend p 1) := by
    show Host.Outcome.next (s.replaceLane p lane) = _
    unfold State.replaceLane
    dsimp only
    rw [if_neg fun both => absurd used both.1]
    simp only [if_neg fresh, bad]
    rw [narrowed, if_neg runs]
  have port : s1.host p = { s.host p with badLanes := ls, width := widestOf ls } := by
    rw [← narrowed, State.host_updHost_self]
  obtain ⟨bit, -, lanes, width⟩ := s1.attend_effect p (b := 1) (by decide)
  exact ⟨_, ran, by rw [lanes, port], by rw [width, port], bit⟩

theorem exec_attnPulseEnd {p : HPort} (pulse : (s.host p).hrdy = .attn) :
    exec (.attnPulseEnd p) s = .next (s.setHost p { s.host p with hrdy := .ready }) :=
  congrArg (fun h => Host.Outcome.next (s.setHost p h)) (if_pos pulse)

/-! ### Pauses (R337, R383) -/

/-- What a pause does to HRDY. -/
def HostPort.paused (h : HostPort) : HostPort := { h with hrdy := if h.hrdy = .ready ∨ h.hrdy = .attn then .pause else h.hrdy }

/-- What a pause's end does to HRDY (Table 14.6). -/
def HostPort.resumed (h : HostPort) : HostPort :=
  if h.hrdy = .pause then { h with hrdy := if h.latched then .attn else .ready, latched := false } else h

def State.pausePort (s : State) (p : Nat) : State := (s.endMailbox p).updHost p HostPort.paused

theorem State.host_endMailbox (s : State) (p q : Nat) :
    (s.endMailbox p).host q = if q = p then (s.host q).withoutSession else s.host q := by
  have same : (s.endMailbox p).host q = (s.updHost p HostPort.withoutSession).host q := by
    unfold State.host
    rw [State.endMailbox_eq, (State.endSession_ports _ _).2]
  rw [same]
  split
  · next here =>
    subst here
    exact State.host_updHost_self _ _ _
  · next apart => exact State.host_updHost_ne _ _ apart

theorem State.hrdy_pausePort (s : State) (p q : Nat) : ((s.pausePort p).host q).hrdy =
    if q = p ∧ ((s.host q).hrdy = .ready ∨ (s.host q).hrdy = .attn) then .pause else (s.host q).hrdy := by
  unfold State.pausePort
  by_cases here : q = p
  · subst here
    rw [State.host_updHost_self, State.host_endMailbox, if_pos rfl]
    simp only [true_and]
    rfl
  · rw [State.host_updHost_ne _ _ here, State.host_endMailbox, if_neg here, if_neg fun both => here both.1]

theorem State.pausePort_frame (s : State) (p : Nat) : (s.pausePort p).hub.paused = s.hub.paused ∧ (s.pausePort p).cores = s.cores := by
  have bodies : (s.pausePort p).bodies = s.bodies := State.bodies_endSession _ _
  refine ⟨?_, congrArg (fun v : Sparse CoreState × Sparse DieState × Sparse Partition × List Program × List Rebind × Power => v.1) bodies⟩
  unfold State.pausePort
  rw [State.updHost_hub, State.endMailbox_eq]
  unfold State.endSession
  obtain ⟨m, same⟩ := (s.updHost p HostPort.withoutSession).dropDownload_frame
  rw [same]
  split <;> rfl

theorem exec_pauseBegin (p : HPort) (serves : s.hub.inService = true) (stopped : s.hub.admitting = false) (runs : s.hub.paused = false) :
    ∃ t, exec .pauseBegin s = .next t ∧ t.hub.paused = true ∧
      (∀ c ∈ s.hub.runningCores, (s.core c).st = .run → (t.core c).st = .held) ∧
      ((s.host p).hrdy = .ready ∨ (s.host p).hrdy = .attn → (t.host p).hrdy = .pause) := by
  generalize held : s.hub.runningCores.foldl (fun s c => s.updCore c CoreState.hold) s = s1
  have kept : s1.hosts = s.hosts := by
    rw [← held]
    exact foldl_view (view := State.hosts) (by intro s c; rfl) _ s
  have ran : exec .pauseBegin s = .next (((s1.updHub fun h => { h with paused := true }).pausePort 0).pausePort 1) := by
    rw [← held]
    show execPauseBegin s = _
    unfold execPauseBegin
    rw [if_neg (by rw [serves, stopped, runs]; decide)]
    rfl
  obtain ⟨p0, c0⟩ := (s1.updHub fun h => { h with paused := true }).pausePort_frame 0
  obtain ⟨p1, c1⟩ := ((s1.updHub fun h => { h with paused := true }).pausePort 0).pausePort_frame 1
  refine ⟨_, ran, (p1.trans p0).trans rfl, fun c member running => ?_, fun live => ?_⟩
  · rw [State.core_congr (s := s1) (c1.trans c0), ← held]
    exact (State.holdCores_effect s.hub.runningCores c s).1 (.inr ⟨member, running⟩)
  · have port : (s1.updHub fun h => { h with paused := true }).host p = s.host p := by
      unfold State.host
      rw [State.updHub_hosts, kept]
    rw [State.hrdy_pausePort, State.hrdy_pausePort, port]
    have which : p.val = 0 ∨ p.val = 1 := by omega
    rcases which with is | is
    · have first : (if p.val = 0 ∧ ((s.host p).hrdy = .ready ∨ (s.host p).hrdy = .attn) then Hrdy.pause else (s.host p).hrdy) = .pause :=
        if_pos ⟨is, live⟩
      rw [first, if_neg fun both => absurd (is.symm.trans both.1) (by decide)]
    · have first : (if p.val = 0 ∧ ((s.host p).hrdy = .ready ∨ (s.host p).hrdy = .attn) then Hrdy.pause else (s.host p).hrdy) = (s.host p).hrdy :=
        if_neg fun both => absurd (is.symm.trans both.1) (by decide)
      rw [first, if_pos ⟨is, live⟩]

theorem exec_pauseEnd (p : HPort) (paused : s.hub.paused = true) :
    ∃ t, exec .pauseEnd s = .next t ∧ t.hub.paused = false ∧ t.hub.admitting = true ∧
      ((s.host p).hrdy = .pause → (t.host p).hrdy = (if (s.host p).latched then .attn else .ready) ∧ (t.host p).latched = false) := by
  generalize resumed : s.updHub (fun h => { h with paused := false, admitting := true }) = s1
  generalize released : s1.hub.runningCores.foldl (fun s c => if s1.heldElse c then s else s.updCore c CoreState.release) s1 = s2
  have kept := foldl_view (view := fun s : State => (s.hosts, s.hub)) (f := fun s c => if s1.heldElse c then s else s.updCore c CoreState.release)
    (by intro s c; split <;> rfl) s1.hub.runningCores s1
  rw [released] at kept
  have hub : s2.hub = s1.hub := congrArg Prod.snd kept
  have port : s2.host p = s.host p := by
    unfold State.host
    rw [show s2.hosts = s1.hosts from congrArg Prod.fst kept, ← resumed]
    rfl
  have ran : exec .pauseEnd s = .next (s2.bothHosts HostPort.resumed) := by
    show execPauseEnd s = _
    unfold execPauseEnd
    rw [if_neg (by rw [paused]; decide)]
    dsimp only
    rw [resumed, released]
    rfl
  refine ⟨_, ran, ?_, ?_, fun pausing => ?_⟩
  · show s2.hub.paused = false
    rw [hub, ← resumed]
    rfl
  · show s2.hub.admitting = true
    rw [hub, ← resumed]
    rfl
  · rw [State.host_bothHosts _ _ p.isLt, port]
    unfold HostPort.resumed
    rw [if_pos pausing]
    exact ⟨rfl, rfl⟩

/-- Settles O49: a port's reset is one lemma (`State.portReset_effect`), what attention leaves of a port another (`State.attend_effect`). -/
theorem hostPortEvents : Obligations.HostPortEvents := by
  intro s p
  dsimp only
  refine ⟨exec_perstAssert p, exec_perstDeassert, exec_hostLinkDown p, ?_, ?_, exec_attnPulseEnd, exec_pauseBegin p, exec_pauseEnd p, ?_, ?_⟩
  · exact fun lane fresh present free => hostLaneReplace_spare fresh present free
  · exact fun lane used fresh runs => hostLaneReplace_narrower used fresh runs
  · exact fun admits => congrArg Host.Outcome.next (if_pos (.inr (.inl admits)))
  · exact fun runs => congrArg Host.Outcome.next (if_pos runs)

end

end Sys2Proof.Machine

/-! PROOFS. The mailbox: standard commands, the OPERATOR session, the journal and the dictionary's mirror (R335, R336, R365). -/

namespace Sys2Proof.Machine

section

variable {s : State} {p : HPort}

theorem State.mailbox_of_running (runs : s.hub.paused = false) (act : State → State) : s.mailbox act = act s :=
  if_neg (by rw [runs]; decide)

theorem State.mailbox_of_paused (paused : s.hub.paused = true) (act : State → State) : s.mailbox act = s.answer 1 [] := if_pos paused

/-- The mailbox of a port whose host proved OPERATOR. -/
def HostPort.proven (h : HostPort) : HostPort := { h with mbox := { h.mbox with operator := true, nonce := none } }

/-- The mailbox of a port whose host gave a wrong proof, with the threshold of the lockout (R358). -/
def HostPort.refused (limit : Nat) (h : HostPort) : HostPort :=
  { h with mbox := { h.mbox with nonce := none, fails := if decide (limit ≤ h.mbox.fails + 1) then 0 else h.mbox.fails + 1,
                                 locked := h.mbox.locked || decide (limit ≤ h.mbox.fails + 1) } }

theorem mailboxAuthResponse_right {n : List Byte} (runs : s.hub.paused = false) (asked : (s.host p).mbox.nonce = some n) :
    ∃ t, exec (.mailboxAuthResponse p (roleProof (s.mgmt.roleKey 1) n 1)) s = .next t ∧
      (t.host p).mbox.operator = true ∧ (t.host p).mbox.nonce = none ∧ t.reply = { status := 0, data := [0] } := by
  have ran : exec (.mailboxAuthResponse p (roleProof (s.mgmt.roleKey 1) n 1)) s =
      .next ((s.updHost p HostPort.proven).vendorAnswer dOk []) := by
    refine congrArg Host.Outcome.next ((State.mailbox_of_running runs _).trans ?_)
    dsimp only
    rw [asked]
    exact if_pos (decide_eq_true rfl)
  have port := s.host_updHost_self p HostPort.proven
  exact ⟨_, ran, congrArg (fun h => h.mbox.operator) port, congrArg (fun h => h.mbox.nonce) port, rfl⟩

theorem mailboxAuthResponse_wrong {n tag : List Byte} (runs : s.hub.paused = false) (asked : (s.host p).mbox.nonce = some n)
    (wrong : tag ≠ roleProof (s.mgmt.roleKey 1) n 1) : ∃ t, exec (.mailboxAuthResponse p tag) s = .next t ∧
      (t.host p).mbox.operator = (s.host p).mbox.operator ∧ (t.host p).mbox.nonce = none ∧
      t.mgmt.authFails = s.mgmt.authFails + 1 ∧ t.reply = { status := 0, data := [0x30] } ∧
      (s.mgmt.obj 0x1200 7 ≤ (s.host p).mbox.fails + 1 → (t.host p).mbox.locked = true) := by
  have ran : exec (.mailboxAuthResponse p tag) s = .next (((s.updHost p (HostPort.refused (s.mgmt.obj 0x1200 7))).updMgmt fun g =>
      { g with authFails := g.authFails + 1 }).vendorAnswer dAuthFail []) := by
    refine congrArg Host.Outcome.next ((State.mailbox_of_running runs _).trans ?_)
    dsimp only
    rw [asked]
    exact if_neg (by simpa using wrong)
  have port := s.host_updHost_self p (HostPort.refused (s.mgmt.obj 0x1200 7))
  refine ⟨_, ran, congrArg (fun h => h.mbox.operator) port, congrArg (fun h => h.mbox.nonce) port, rfl, rfl, fun reached => ?_⟩
  refine (congrArg (fun h => h.mbox.locked) port).trans ?_
  show ((s.host p).mbox.locked || decide (s.mgmt.obj 0x1200 7 ≤ (s.host p).mbox.fails + 1)) = true
  rw [decide_eq_true reached, Bool.or_true]

theorem exec_mailboxAuthChallenge (runs : s.hub.paused = false) (open_ : (s.host p).mbox.locked = false) :
    ∃ t, exec (.mailboxAuthChallenge p) s = .next t ∧ (t.host p).mbox.nonce = some (freshNonce s.free) ∧
      t.reply = { status := 0, data := 0 :: freshNonce s.free } := by
  have ran : exec (.mailboxAuthChallenge p) s =
      .next (((s.updHost p fun h => { h with mbox := { h.mbox with nonce := some (freshNonce s.free) } }).bump).vendorAnswer dOk (freshNonce s.free)) := by
    refine congrArg Host.Outcome.next ((State.mailbox_of_running runs _).trans ?_)
    dsimp only
    rw [if_neg (by rw [open_]; decide)]
  refine ⟨_, ran, ?_, rfl⟩
  exact congrArg (fun h => h.mbox.nonce) (s.host_updHost_self p fun h => { h with mbox := { h.mbox with nonce := some (freshNonce s.free) } })

/-- A read takes a snapshot of the value and nothing else changes (R349). -/
theorem State.readValue_frame (s : State) (w : Who) (i sub off n : Nat) : (s.readValue w i sub off n).1.cores = s.cores ∧
    (s.readValue w i sub off n).1.hub = s.hub := by
  unfold State.readValue
  dsimp only
  split
  · exact ⟨rfl, rfl⟩
  · split
    · exact ⟨rfl, rfl⟩
    · split
      · exact ⟨rfl, rfl⟩
      · split
        · split <;> exact ⟨rfl, rfl⟩
        · exact ⟨rfl, rfl⟩

theorem exec_odRead (runs : s.hub.paused = false) (i : BitVec 16) (sub : Byte) (o : W32) : ∃ t,
    exec (.odRead p i sub o) s = .next t ∧ t.reply.status = 0 ∧
      t.reply.data.head? = some (BitVec.ofNat 8 (s.readValue (s.mailboxWho p) i.toNat sub.toNat o.toNat 4032).2.status) ∧
      t.cores = s.cores ∧ t.hub = s.hub := by
  obtain ⟨cores, hub⟩ := s.readValue_frame (s.mailboxWho p) i.toNat sub.toNat o.toNat 4032
  exact ⟨_, congrArg Host.Outcome.next (State.mailbox_of_running runs _), rfl, rfl, cores, hub⟩

/-- A value that a mailbox command writes whole. -/
theorem State.writeValue_whole {w : Who} {i sub : Nat} {v : List Byte} {o : Obj} (found : findObj i sub = some o)
    (passes : s.judge w i sub true = 0) (free : s.mgmt.stagedElsewhere w.slot (objKey i sub) = false) (fits : valueBad o v = 0)
    (act : State → List Byte → State × Nat) : s.writeValue w i sub o.type 0 false v act =
      ((act (s.updMgmt fun m => m.unstage w.slot (objKey i sub)) v).1, Ans.of (act (s.updMgmt fun m => m.unstage w.slot (objKey i sub)) v).2) := by
  unfold State.writeValue
  rw [if_neg (by simp [passes]), found]
  simp [State.segment_whole free, fits]

theorem exec_odWrite {i : BitVec 16} {sub : Byte} {v : List Byte} {o : Obj} (runs : s.hub.paused = false)
    (found : findObj i.toNat sub.toNat = some o) (passes : s.judge (s.mailboxWho p) i.toNat sub.toNat true = 0)
    (free : s.mgmt.stagedElsewhere (10 + p) (objKey i.toNat sub.toNat) = false) (fits : valueBad o v = 0) :
    let r := (s.updMgmt fun m => m.unstage (10 + p) (objKey i.toNat sub.toNat)).writeObj (s.mailboxWho p) i.toNat sub.toNat v
    exec (.odWrite p i sub v) s = .next (if i = 0x1100 ∧ sub = 2 then (r.1.answer 0 [BitVec.ofNat 8 r.2]).takeNodeId
      else r.1.answer 0 [BitVec.ofNat 8 r.2]) := by
  have written := State.writeValue_whole (w := s.mailboxWho p) found passes free fits
    fun s' v => s'.writeObj (s.mailboxWho p) i.toNat sub.toNat v
  refine congrArg Host.Outcome.next ((State.mailbox_of_running runs _).trans ?_)
  dsimp only
  rw [found]
  dsimp only
  rw [written]
  rfl

theorem exec_mailboxSessionTimeout (s : State) (p : HPort) : ∃ t, exec (.mailboxSessionTimeout p) s = .next t ∧
    (t.host p).mbox.operator = false ∧ (t.host p).mbox.nonce = none := by
  refine ⟨_, rfl, ?_⟩
  rw [State.host_endMailbox, if_pos rfl]
  exact ⟨rfl, rfl⟩

/-- Settles O50: a runtime that runs serves the command (`State.mailbox_of_running`), one that is paused answers busy. -/
theorem mailboxCommands : Obligations.MailboxCommands := by
  intro s p
  dsimp only
  refine ⟨fun runs => ?_, exec_mailboxSessionTimeout s p, fun paused => ?_⟩
  · have served (act : State → State) : (Host.Outcome.next (s.mailbox act) : Out) = .next (act s) :=
      congrArg Host.Outcome.next (State.mailbox_of_running runs act)
    refine ⟨served _, served _, fun _ => served _, served _, fun _ _ => served _, served _, fun _ => served _,
      exec_mailboxAuthChallenge runs,
      fun n tag asked => ⟨fun right => by subst right; exact mailboxAuthResponse_right runs asked, fun wrong => mailboxAuthResponse_wrong runs asked wrong⟩,
      fun first n few => ?_,
      exec_odRead runs, fun i sub v o found passes free fits => exec_odWrite runs found passes free fits⟩
    exact (served _).trans (congrArg Host.Outcome.next (if_neg (by omega)))
  · have busy (act : State → State) : (Host.Outcome.next (s.mailbox act) : Out) = .next (s.answer 1 []) :=
      congrArg Host.Outcome.next (State.mailbox_of_paused paused act)
    exact ⟨busy _, busy _, fun _ _ => busy _⟩

end

end Sys2Proof.Machine

/-! PROOFS. LPDDR6 channels, the HDM spaces and the shadow copies (R338, R339, R341, R343 to R345). -/

namespace Sys2Proof.Machine

section

variable {s : State}

/-! ### Bytes of an HDM space -/

/-- Bytes inserted one after the other: those of the range are the written ones, every other key keeps its value. -/
theorem Sparse.find?_insertBytes (addr x : Nat) (data : List Byte) : ∀ (k : Nat) (m : Sparse (Option Byte)),
    Sparse.find? ((data.zipIdx k).foldl (fun m b => Sparse.insert m (addr + b.2) (some b.1)) m) x =
      if addr + k ≤ x ∧ x < addr + k + data.length then some (some (data.getD (x - (addr + k)) 0)) else Sparse.find? m x := by
  induction data with
  | nil => exact fun k m => (if_neg (by simp only [List.length_nil]; omega)).symm
  | cons b bs ih =>
    intro k m
    rw [List.zipIdx_cons, List.foldl_cons, ih, List.length_cons]
    by_cases here : x = addr + k
    · subst here
      rw [if_neg (by omega), if_pos (by omega), Sparse.find?_insert_self, Nat.sub_self]
      rfl
    · rw [Sparse.find?_insert_ne _ _ here]
      by_cases within : addr + k ≤ x ∧ x < addr + k + (bs.length + 1)
      · rw [if_pos within, if_pos (by omega), show x - (addr + k) = (x - (addr + (k + 1))) + 1 by omega, List.getD_cons_succ]
      · rw [if_neg within, if_neg (by omega)]

/-- A port's HDM space after a write. -/
def HostPort.hdmWritten (e : ExtMem) (addr : Nat) (data : List Byte) (h : HostPort) : HostPort :=
  { h with hdm := (data.zipIdx).foldl (fun m b => Sparse.insert m (addr + b.2) (some b.1)) h.hdm,
           poison := e.cleanUnits h.poison addr data.length }

/-- The unit of a write within one unit is poisoned no longer where its channel works (R343). -/
theorem ExtMem.unitBad_cleanUnits {e : ExtMem} {addr n : Nat} (some_ : n ≠ 0) (within : addr % 64 + n ≤ 64)
    (works : (e.chan (chanOf addr)).st ≠ .failed) (listed : Sparse Bool) : e.unitBad (e.cleanUnits listed addr n) addr = false := by
  have one : (addr + n - 1) / 64 + 1 - addr / 64 = 1 := by omega
  have channel : chanOf (64 * (addr / 64)) = chanOf addr := by
    unfold chanOf
    omega
  unfold ExtMem.unitBad ExtMem.cleanUnits
  rw [if_neg some_, one]
  simp [List.range_succ, channel, works]

theorem State.hdmByte_eq (s : State) (p a : Nat) :
    s.hdmByte p a = (Sparse.get (s.host p).hdm none a).getD (Config.uByte s.ext.keyEpoch (2 * a + p)) := by
  unfold State.hdmByte
  cases Sparse.get (s.host p).hdm none a <;> rfl

theorem exec_hdmWrite {p : HPort} {addr : Nat} {data : List Byte} (some_ : data ≠ []) (within : addr % 64 + data.length ≤ 64)
    (inside : addr + data.length ≤ s.hdmSize p) : ∃ t, exec (.hdmWrite p addr data) s = .next t ∧ t.reply = { status := 0, data := [] } ∧
      (∀ i, i < data.length → t.hdmByte p (addr + i) = data.getD i 0) ∧
      (∀ x, x < addr ∨ addr + data.length ≤ x → t.hdmByte p x = s.hdmByte p x) ∧
      ((s.ext.chan (chanOf addr)).st ≠ .failed → s.ext.unitBad (t.host p).poison addr = false) ∧ t.ext = s.ext ∧ t.hub = s.hub := by
  have port := s.host_updHost_self p (HostPort.hdmWritten s.ext addr data)
  have written (x : Nat) : Sparse.get ((s.host p).hdmWritten s.ext addr data).hdm none x =
      (if addr ≤ x ∧ x < addr + data.length then some (some (data.getD (x - addr) 0)) else Sparse.find? (s.host p).hdm x).getD none :=
    congrArg (fun o : Option (Option Byte) => o.getD none) (Sparse.find?_insertBytes addr x data 0 (s.host p).hdm)
  have byte (x : Nat) := State.hdmByte_eq ((s.updHost p (HostPort.hdmWritten s.ext addr data)).answer 0 []) p x
  simp only [State.host_answer, port, written] at byte
  refine ⟨(s.updHost p (HostPort.hdmWritten s.ext addr data)).answer 0 [], congrArg Host.Outcome.next (if_neg ?_), rfl, fun i lt => ?_,
    fun x out => ?_, fun works => ?_, rfl, rfl⟩
  · rintro (none_ | large | outside)
    · exact some_ none_
    · omega
    · omega
  · rw [byte, if_pos (by omega), Nat.add_sub_cancel_left]
    rfl
  · rw [byte, if_neg (by omega), State.hdmByte_eq]
    rfl
  · rw [State.host_answer, port]
    exact ExtMem.unitBad_cleanUnits (fun none_ => some_ (List.eq_nil_of_length_eq_zero none_)) within works _

/-! ### Channels -/

theorem ExtMem.chan_setChan_self (e : ExtMem) (c : Nat) (v : ChanState) : (e.setChan c v).chan c = v := Sparse.get_set_self _ _ _ _

theorem ExtMem.chan_setChan_ne (e : ExtMem) {c d : Nat} (v : ChanState) (apart : d ≠ c) : (e.setChan c v).chan d = e.chan d :=
  Sparse.get_set_ne _ _ _ _ apart

theorem State.markTest_maint (s : State) (o : MaintOp) (on : Bool) : (s.markTest o on).maint = s.maint := by
  unfold State.markTest
  split
  · exact foldl_view (view := State.maint) (fun s c => foldl_view (view := State.maint) (by intro s m; rfl) _ _) o.cores s
  · rfl

theorem State.beginOp_ext (s : State) (o : MaintOp) : (s.beginOp o).ext = s.ext ∧ (s.beginOp o).hosts = s.hosts := by
  unfold State.beginOp State.markTest
  split
  · exact ⟨foldl_view (view := State.ext) (fun s c => foldl_view (view := State.ext) (by intro s m; rfl) _ _) o.cores _,
      foldl_view (view := State.hosts) (fun s c => foldl_view (view := State.hosts) (by intro s m; rfl) _ _) o.cores _⟩
  · exact ⟨rfl, rfl⟩

theorem State.beginOp_ops (s : State) (o : MaintOp) : (s.beginOp o).maint.ops = s.maint.ops ++ [o] := by
  unfold State.beginOp
  rw [State.markTest_maint]
  rfl

theorem State.raiseOp_ext (s : State) (o : MaintOp) : (s.raiseOp o).ext = s.ext := by
  unfold State.raiseOp
  split
  · exact State.journalDev_ext _ _ _ _ _
  · exact (s.beginOp_ext o).1

/-- Operations end where nothing waits to be raised again. -/
theorem State.endOps_idle {q : MaintOp → Bool} (idle : s.maint.again = []) :
    (s.endOps q).maint.ops = s.maint.ops.filter (fun o => !q o) ∧ (s.endOps q).ext = s.ext := by
  have marked := foldl_view (view := fun s : State => (s.maint, s.ext)) (f := fun s o => s.markTest o false)
    (fun s o => by rw [s.markTest_maint o false, (s.markTest_frame o false).2.2.1]) (s.maint.ops.filter q) s
  unfold State.endOps
  dsimp only
  rw [show (((s.maint.ops.filter q).foldl (fun s o => s.markTest o false) s).updMaint fun m =>
    { m with ops := m.ops.filter fun o => !q o }).maint.again = [] from (congrArg (fun v : Maint × ExtMem => v.1.again) marked).trans idle]
  exact ⟨congrArg (fun v : Maint × ExtMem => v.1.ops.filter fun o => !q o) marked, congrArg Prod.snd marked⟩

/-! ### Bits of DEVSTAT stay set -/

theorem bitOf_or_left {w : Nat} {v u : BitVec w} {i : Nat} (set_ : bitOf v i = true) : bitOf (v ||| u) i = true := by
  rw [bitOf_eq_getLsbD] at set_ ⊢
  rw [BitVec.getLsbD_or, set_, Bool.true_or]

theorem State.marked_attend {q b : Nat} (p c : Nat) (set_ : bitOf (s.host q).devstat b = true) : bitOf ((s.attend p c).host q).devstat b = true := by
  unfold State.attend
  dsimp only
  split
  · exact set_
  · unfold State.raiseVec
    by_cases here : q = p
    · subst here
      have kept : bitOf ((s.host q).devstat ||| BitVec.ofNat 4 (2 ^ c)) b = true := bitOf_or_left set_
      rw [State.host_updHost_self, State.host_setHost_self]
      split <;> exact kept
    · rw [State.host_updHost_ne _ _ here, show (s.setHost p _).host q = s.host q from Sparse.get_set_ne _ _ _ _ here]
      exact set_

theorem foldl_keeps {α β : Type} {P : α → Prop} {f : α → β → α} (each : ∀ a x, P a → P (f a x)) (xs : List β) : ∀ a, P a → P (xs.foldl f a) := by
  induction xs with
  | nil => exact fun _ start => start
  | cons x xs ih => exact fun a start => ih _ (each a x start)

theorem State.marked_journalDev {q b : Nat} (code : Byte) (sk si : Nat) (d : W64) (set_ : bitOf (s.host q).devstat b = true) :
    bitOf ((s.journalDev code sk si d).host q).devstat b = true := by
  unfold State.journalDev State.journal
  dsimp only
  split
  · rw [State.host_event]
    refine foldl_keeps (P := fun s : State => bitOf (s.host q).devstat b = true) (fun s p set_ => ?_) _ _ set_
    split
    · exact State.marked_attend _ _ set_
    · exact set_
  · exact set_

theorem State.marked_raiseOp {q b : Nat} (o : MaintOp) (set_ : bitOf (s.host q).devstat b = true) :
    bitOf ((s.raiseOp o).host q).devstat b = true := by
  unfold State.raiseOp
  split
  · exact State.marked_journalDev _ _ _ _ set_
  · unfold State.host
    rw [(s.beginOp_ext o).2]
    exact set_

/-! ### Failure of a channel (R344, R345) -/

/-- External memory with a channel failed. -/
def ExtMem.withFailed (e : ExtMem) (c : Nat) : ExtMem :=
  let e1 := e.setChan c { e.chan c with st := .failed, hasFailed := true }
  { e1 with bad := (e1.bad.map fun x => (x.1, dropUnits x.2 c)).filter fun x => decide (x.2 ≠ []),
            copyAOff := if c < 8 then List.range 16 else e1.copyAOff, copyBOff := if c < 8 then e1.copyBOff else List.range 16 }

/-- A port told that a channel failed. -/
def State.tellFailed (c : Nat) (s : State) (p : Nat) : State :=
  ((s.updHost p fun h => { h with poison := dropUnits h.poison c, poisonOvf := true }).mediaEvent p c).attend p 3

theorem State.tellFailed_effect (c : Nat) (s : State) (p : Nat) : bitOf ((s.tellFailed c p).host p).devstat 3 = true ∧
    (s.tellFailed c p).ext = s.ext := by
  unfold State.tellFailed
  refine ⟨(State.attend_effect _ p (b := 3) (by decide)).1, ?_⟩
  rw [State.attend_ext]
  unfold State.mediaEvent
  rw [State.attend_ext]
  rfl

theorem State.marked_mediaEvent {q b : Nat} (p k : Nat) (set_ : bitOf (s.host q).devstat b = true) :
    bitOf ((s.mediaEvent p k).host q).devstat b = true := by
  unfold State.mediaEvent
  refine State.marked_attend _ _ ?_
  unfold State.raiseVec
  by_cases here : q = p
  · subst here
    rw [State.host_updHost_self, State.host_updHost_self]
    exact set_
  · rw [State.host_updHost_ne _ _ here, State.host_updHost_ne _ _ here]
    exact set_

theorem State.marked_tellFailed {q b : Nat} (c p : Nat) (set_ : bitOf (s.host q).devstat b = true) :
    bitOf ((s.tellFailed c p).host q).devstat b = true := by
  unfold State.tellFailed
  refine State.marked_attend _ _ (State.marked_mediaEvent _ _ ?_)
  by_cases here : q = p
  · subst here
    rw [State.host_updHost_self]
    exact set_
  · rw [State.host_updHost_ne _ _ here]
    exact set_

theorem State.failChannel_effect {c : Nat} (works : (s.ext.chan c).st ≠ .failed) : (s.failChannel c).ext = s.ext.withFailed c ∧
    ∀ p, p < 2 → bitOf ((s.failChannel c).host p).devstat 3 = true := by
  generalize journalled : (s.updExt fun e => e.withFailed c).journalDev 0xBB 5 c (BitVec.ofNat 64 c) = s2
  have ran : s.failChannel c = if (s.die (chanDie c)).gone then (s2.tellFailed c 0).tellFailed c 1
      else ((s2.tellFailed c 0).tellFailed c 1).raiseOp { MaintOp.of .lpddr with chan := some c } := by
    rw [← journalled]
    exact if_neg works
  have ext : ((s2.tellFailed c 0).tellFailed c 1).ext = s.ext.withFailed c := by
    rw [(State.tellFailed_effect _ _ _).2, (State.tellFailed_effect _ _ _).2, ← journalled, State.journalDev_ext]
    rfl
  have marked : ∀ p, p < 2 → bitOf (((s2.tellFailed c 0).tellFailed c 1).host p).devstat 3 = true := by
    intro p lt
    have which : p = 0 ∨ p = 1 := by omega
    rcases which with rfl | rfl
    · exact State.marked_tellFailed _ _ (State.tellFailed_effect _ _ _).1
    · exact (State.tellFailed_effect _ _ _).1
  rw [ran]
  split
  · exact ⟨ext, marked⟩
  · exact ⟨(State.raiseOp_ext _ _).trans ext, fun p lt => State.marked_raiseOp _ (marked p lt)⟩

theorem ExtMem.chan_withFailed (e : ExtMem) (c : Nat) : ((e.withFailed c).chan c).st = .failed :=
  congrArg ChanState.st (e.chan_setChan_self c { e.chan c with st := .failed, hasFailed := true })

/-! ### Retraining (R344, R378) -/

theorem lpddrRetrainDone_eq {c : Chan} (trains : ∃ o ∈ s.maint.ops, o.kind = .lpddr ∧ o.chan = some c.val) (ok : Bool) :
    let s1 := s.endOps fun o => decide (o.kind = .lpddr) && decide (o.chan = some c.val)
    let s2 := s1.updExt fun e => e.setChan c { e.chan c with retrains := (e.chan c).retrains + 1 }
    exec (.lpddrRetrainDone c ok) s = .next (if ok then s2.updExt fun e => e.setChan c { e.chan c with st := .ok }
      else if (s2.ext.chan c).st = .failed then s2 else s2.failChannel c) := by
  obtain ⟨o, member, kind, chan⟩ := trains
  exact congrArg Host.Outcome.next (if_pos (List.any_eq_true.2 ⟨o, member, by simp [kind, chan]⟩))

theorem lpddrRetrainDone_passed {c : Chan} (trains : ∃ o ∈ s.maint.ops, o.kind = .lpddr ∧ o.chan = some c.val) (idle : s.maint.again = []) :
    ∃ t, exec (.lpddrRetrainDone c true) s = .next t ∧ (t.ext.chan c).st = .ok ∧ (t.ext.chan c).retrains = (s.ext.chan c).retrains + 1 ∧
      ∀ o ∈ t.maint.ops, ¬(o.kind = .lpddr ∧ o.chan = some c.val) := by
  obtain ⟨ops, ext⟩ := State.endOps_idle (q := fun o => decide (o.kind = .lpddr) && decide (o.chan = some c.val)) idle
  refine ⟨_, (lpddrRetrainDone_eq trains true).trans (congrArg Host.Outcome.next (if_pos rfl)), ?_⟩
  generalize s.endOps (fun o => decide (o.kind = .lpddr) && decide (o.chan = some c.val)) = s1 at ops ext ⊢
  rw [State.updExt_ext, State.updExt_ext, ExtMem.chan_setChan_self, ExtMem.chan_setChan_self, State.updExt_maint, State.updExt_maint, ops, ext]
  refine ⟨rfl, rfl, fun o member both => ?_⟩
  have := (List.mem_filter.1 member).2
  simp [both.1, both.2] at this

theorem lpddrRetrainDone_failed {c : Chan} (trains : ∃ o ∈ s.maint.ops, o.kind = .lpddr ∧ o.chan = some c.val) :
    ∃ t, exec (.lpddrRetrainDone c false) s = .next t ∧ (t.ext.chan c).st = .failed := by
  refine ⟨_, (lpddrRetrainDone_eq trains false).trans (congrArg Host.Outcome.next (if_neg (by decide))), ?_⟩
  generalize ((s.endOps fun o => decide (o.kind = .lpddr) && decide (o.chan = some c.val)).updExt fun e =>
    e.setChan c { e.chan c with retrains := (e.chan c).retrains + 1 }) = s2
  split
  · next failed => exact failed
  · next works =>
    rw [(State.failChannel_effect works).1]
    exact ExtMem.chan_withFailed _ _

theorem State.actLpddr_effect {c : Chan} (works : (s.ext.chan c).st = .ok) (present : (s.die (chanDie c)).gone = false)
    (free : s.maint.blocker { MaintOp.of .lpddr with chan := some c.val } = none) :
    (s.actLpddr c).2 = dOk ∧ ((s.actLpddr c).1.ext.chan c).st = .retraining ∧
      ∃ o ∈ (s.actLpddr c).1.maint.ops, o.kind = .lpddr ∧ o.chan = some c.val := by
  have ran : s.actLpddr c = ((s.beginOp { MaintOp.of .lpddr with chan := some c.val }).updExt fun e =>
      e.setChan c { e.chan c with st := .retraining }, dOk) := by
    unfold State.actLpddr
    dsimp only
    rw [if_neg (by rw [present, works]; decide), free]
    dsimp only
    rw [if_pos works]
  rw [ran, State.updExt_ext, ExtMem.chan_setChan_self, State.updExt_maint, State.beginOp_ops]
  exact ⟨rfl, rfl, _, List.mem_append_right _ (List.mem_singleton_self _), rfl, rfl⟩

/-! ### Training and shadow copies -/

/-- Channels set to work one after the other, all of one density. -/
def State.trained (n : Nat) (s : State) (c : Nat) : State :=
  s.updExt fun e => e.setChan c { ChanState.reset with st := .ok, density := n }

theorem State.chan_foldl_trained (n : Nat) (cs : List Nat) (c : Nat) : ∀ s : State,
    (c ∈ cs ∨ s.ext.chan c = { ChanState.reset with st := .ok, density := n }) →
      (cs.foldl (State.trained n) s).ext.chan c = { ChanState.reset with st := .ok, density := n } := by
  induction cs with
  | nil => exact fun s either => either.resolve_left List.not_mem_nil
  | cons d ds ih =>
    intro s either
    rw [List.foldl_cons]
    refine ih _ ?_
    unfold State.trained
    rw [State.updExt_ext]
    by_cases here : c = d
    · subst here
      exact .inr (ExtMem.chan_setChan_self _ _ _)
    · rw [ExtMem.chan_setChan_ne _ _ here]
      exact either.imp_left fun member => (List.mem_cons.1 member).resolve_left here

theorem exec_lpddrTrainingDone {n : Nat} (sound : n = 4 ∨ n = 8 ∨ n = 16) : ∃ t, exec (.lpddrTrainingDone (List.replicate 16 n)) s = .next t ∧
    (∀ c, c < 16 → (t.ext.chan c).st = .ok ∧ (t.ext.chan c).density = n) ∧ t.ext.pasn = s.mgmt.obj 0x7800 0x11 ∧
    t.ext.hsh = s.mgmt.obj 0x7800 0x12 ∧ t.cores = s.cores := by
  generalize begun : s.updExt (fun e => { e with pasn := s.mgmt.obj 0x7800 0x11, hsh := s.mgmt.obj 0x7800 0x12 }) = s1
  have first : ((List.replicate 16 n).find? fun d => decide (d ∈ [4, 8, 16])).getD 0 = n := by
    rcases sound with rfl | rfl | rfl <;> rfl
  have each : ∀ (xs : List Nat), (∀ c ∈ xs, c < 16) → ∀ s : State, xs.foldl (fun s c =>
      if (List.replicate 16 n).getD c 0 = n ∧ n ≠ 0 then s.updExt fun e => e.setChan c { ChanState.reset with st := .ok, density := n }
      else (s.updExt fun e => e.setChan c { e.chan c with density := n, st := .untrained }).failChannel c) s = xs.foldl (State.trained n) s := by
    intro xs below s
    refine List.foldl_ext _ _ s fun s c member => if_pos ⟨?_, by omega⟩
    rw [List.getD_eq_getElem _ _ (by rw [List.length_replicate]; exact below c member), List.getElem_replicate]
  have ran : exec (.lpddrTrainingDone (List.replicate 16 n)) s = .next ((List.range 16).foldl (State.trained n) s1) := by
    show execLpddrTrainingDone (List.replicate 16 n) s = _
    unfold execLpddrTrainingDone
    dsimp only
    rw [first, begun, each _ fun c member => List.mem_range.1 member]
  have kept := foldl_view (view := fun s : State => (s.ext.pasn, s.ext.hsh, s.cores)) (f := State.trained n) (by intro s c; rfl) (List.range 16) s1
  have channels := fun c (lt : c < 16) => State.chan_foldl_trained n (List.range 16) c s1 (.inl (List.mem_range.2 lt))
  generalize (List.range 16).foldl (State.trained n) s1 = t at ran kept channels
  obtain ⟨pasn, rest⟩ := Prod.mk.inj kept
  obtain ⟨hsh, cores⟩ := Prod.mk.inj rest
  refine ⟨t, ran, fun c lt => ?_, pasn.trans ?_, hsh.trans ?_, cores.trans ?_⟩
  · rw [channels c lt]
    exact ⟨rfl, rfl⟩
  all_goals
    rw [← begun]
    rfl

theorem mem_filter_ne {xs : List Nat} {x : Nat} : x ∉ xs.filter (· ≠ x) := by
  intro member
  simp at member

/-- Settles O51: a failed channel is one lemma (`State.failChannel_effect`), the bytes of a write another (`Sparse.find?_insertBytes`). -/
theorem externalMemory : Obligations.ExternalMemory := by
  refine ⟨fun s p addr data some_ within inside => exec_hdmWrite some_ within inside, fun s p addr => ⟨?_, ?_, ?_⟩,
    fun s c => ⟨?_, ?_, ?_, ?_, ?_⟩, fun s n sound => exec_lpddrTrainingDone sound, fun s p => ⟨?_, ?_, ?_⟩⟩
  · exact fun inside sound => congrArg Host.Outcome.next ((if_neg (by omega)).trans (if_neg (by rw [sound]; decide)))
  · exact fun inside poison => congrArg Host.Outcome.next ((if_neg (by omega)).trans (if_pos poison))
  · exact fun outside => congrArg Host.Outcome.next (if_pos outside)
  · exact congrArg Host.Outcome.next (if_neg fun both => absurd both.2 (by decide))
  · exact fun works => congrArg Host.Outcome.next (if_pos ⟨works, rfl⟩)
  · intro works
    obtain ⟨ext, marked⟩ := State.failChannel_effect works
    refine ⟨?_, ?_, ?_, marked, ?_⟩
    · rw [ext]
      exact ExtMem.chan_withFailed _ _
    · rw [ext]
      rfl
    · rw [ext]
      rfl
    · exact congrArg (fun v : Sparse CoreState × Sparse DieState × Sparse Partition × List Program × List Rebind × Power => v.1)
        (State.bodies_failChannel _ _)
  · exact fun trains idle => ⟨lpddrRetrainDone_passed trains idle, lpddrRetrainDone_failed trains⟩
  · exact fun works present free => State.actLpddr_effect works present free
  · intro whole complete
    refine ⟨_, congrArg Host.Outcome.next ((if_pos whole).trans ((if_pos rfl).trans (if_neg complete))), mem_filter_ne, rfl⟩
  · intro whole complete
    refine ⟨_, congrArg Host.Outcome.next ((if_pos whole).trans ((if_neg (by decide)).trans (if_neg complete))), mem_filter_ne, rfl⟩
  · exact fun b broken => congrArg Host.Outcome.next (if_neg (by rw [broken]; decide))

end

end Sys2Proof.Machine

/-! PROOFS. Sessions of the object dictionary: challenge, response, refusals, close, idle time and lockout (R348, R355 to R358). -/

namespace Sys2Proof.Machine

section

variable {s : State} {f : Frame} {slot : Nat} {x : Session}

/-! ### Replies -/

/-- A reply goes out, and the counter of the session it is sent in advances (R356); nothing else changes. -/
theorem State.replyTo_effect (s : State) (f : Frame) (slot : Nat) (num : BitVec 16) (a : Ans) : ∃ r ses,
    s.replyTo f slot num a = (s.updMgmt fun m => { m with sessions := ses, tx := m.tx ++ [r] }) ∧ r.status = BitVec.ofNat 8 a.status ∧
      r.data = a.data ∧ r.dst = f.srcAddr ∧
      (∀ x, Sparse.find? s.mgmt.sessions slot = some x → Sparse.find? ses slot = some { x with ctrOut := x.ctrOut + 1 }) ∧
      (Sparse.find? s.mgmt.sessions slot = none → ses = s.mgmt.sessions) := by
  unfold State.replyTo
  cases found : Sparse.find? s.mgmt.sessions slot with
  | none => exact ⟨_, s.mgmt.sessions, rfl, rfl, rfl, rfl, fun _ absent => absurd absent (by simp), fun _ => rfl⟩
  | some x =>
    refine ⟨_, Sparse.insert s.mgmt.sessions slot { x with ctrOut := x.ctrOut + 1 }, rfl, rfl, rfl, rfl, fun y is => ?_, fun absent => absurd absent (by simp)⟩
    rw [Sparse.find?_insert_self, Option.some.inj is]

theorem State.noteAuthFail_effect (s : State) (src : BitVec 48) : ∃ m, s.noteAuthFail src = { s with mgmt := m } ∧
    m.sessions = s.mgmt.sessions ∧ m.authFails = s.mgmt.authFails + 1 ∧ m.challenges = s.mgmt.challenges ∧ m.tx = s.mgmt.tx := by
  unfold State.noteAuthFail State.updMgmt
  dsimp only
  split <;> exact ⟨_, rfl, rfl, rfl, rfl, rfl⟩

/-! ### Challenge and response (R355) -/

theorem exec_authChallenge {role : Byte} (op : f.op = 3) (received : s.receives f = true) (unnamed : f.session = 0) (sound : frameBad f = false)
    (open_ : f.srcAddr ∉ s.mgmt.lockouts) (data : f.data = [role]) (low : 1 ≤ role.toNat) (high : role.toNat ≤ 3)
    (port : f.service = true → role.toNat ≠ 3) (room : s.mgmt.freeSlot f.service role.toNat ≠ none)
    (free : Sparse.find? s.mgmt.sessions 12 = none) :
    ∃ t r c, exec (.authChallenge f) s = .next t ∧ t.mgmt.tx = s.mgmt.tx ++ [r] ∧ r.status = 0 ∧ r.data = freshNonce s.free ∧
      r.dst = f.srcAddr ∧ c ∈ t.mgmt.challenges ∧ c.src = f.srcAddr ∧ c.role = role.toNat ∧ c.nonce = freshNonce s.free ∧
      t.mgmt.sessions = s.mgmt.sessions := by
  generalize asked : ({ src := f.srcAddr, role := role.toNat, nonce := freshNonce s.free, service := f.service } : Challenge) = c
  generalize kept : s.bump.updMgmt (fun m =>
    { m with challenges := m.challenges.filter (fun x => decide (x.src ≠ f.srcAddr) || decide (x.service ≠ f.service)) ++ [c] }) = s1
  have acts : s.actChallenge f = (s1, { status := dOk, data := freshNonce s.free, more := false }) := by
    unfold State.actChallenge
    rw [data]
    have first : [role].getD 0 0 = role := rfl
    rw [first]
    have allowed : ¬(role.toNat = 0 ∨ 3 < role.toNat ∨ (f.service = true ∧ role.toNat = 3)) := by
      rintro (zero | large | ⟨service, safety⟩)
      · omega
      · omega
      · exact port service safety
    rw [if_neg open_, if_neg (show ¬[role].length ≠ 1 from not_not_intro rfl), if_neg allowed, if_neg room]
    dsimp only
    rw [asked, kept]
  have sessions : s1.mgmt.sessions = s.mgmt.sessions := by
    rw [← kept]
    rfl
  have queue : s1.mgmt.tx = s.mgmt.tx := by
    rw [← kept]
    rfl
  have member : c ∈ s1.mgmt.challenges := by
    rw [← kept]
    exact List.mem_append_right _ (List.mem_singleton_self c)
  obtain ⟨r, ses, replied, status, answer, dst, -, same⟩ :=
    s1.replyTo_effect f 12 0 { status := dOk, data := freshNonce s.free, more := false }
  have ran : exec (.authChallenge f) s = .next (s1.updMgmt fun m => { m with sessions := ses, tx := m.tx ++ [r] }) := by
    rw [← replied]
    refine congrArg Host.Outcome.next ((if_pos op).trans ?_)
    rw [State.receive_of_observer received unnamed sound, acts]
  refine ⟨_, r, c, ran, congrArg (· ++ [r]) queue, status, answer, dst, member, ?_, ?_, ?_, ?_⟩
  · rw [← asked]
  · rw [← asked]
  · rw [← asked]
  · exact (same (by rw [sessions]; exact free)).trans sessions

/-- The state in which a challenge has been used: no response can use it again (R355). -/
def State.used (s : State) (c : Challenge) : State := s.updMgmt fun m => { m with challenges := m.challenges.filter fun x => decide (some x ≠ some c) }

theorem State.not_mem_used (s : State) (c : Challenge) : c ∉ (s.used c).mgmt.challenges := by
  intro member
  have := (List.mem_filter.1 member).2
  simp at this

theorem exec_authResponse (op : f.op = 4) (received : s.receives f = true) (unnamed : f.session = 0) (sound : frameBad f = false) :
    exec (.authResponse f) s = .next (s.authResponse f) := by
  refine congrArg Host.Outcome.next ?_
  rw [if_neg (by rw [op, received]; decide), if_neg (not_not_intro unnamed), if_neg (by rw [sound]; decide)]

theorem roleProof_length (key nonce : List Byte) (role : Nat) : (roleProof key nonce role).length = 32 := by
  simp [roleProof, hmac, leBytes]

/-- The session that a right proof opens. -/
def State.newSession (s : State) (f : Frame) (c : Challenge) : Session :=
  { src := f.srcAddr, role := c.role, num := s.mgmt.freshNum, key := hmac (s.mgmt.roleKey c.role) (f.data ++ c.nonce ++ [0x53]), ctrIn := 0, ctrOut := 0 }

theorem authResponse_right {c : Challenge} (op : f.op = 4) (received : s.receives f = true) (unnamed : f.session = 0) (sound : frameBad f = false)
    (asked : s.mgmt.challenges.find? (fun x => decide (x.src = f.srcAddr) && decide (x.service = f.service)) = some c)
    (proof : f.data = roleProof (s.mgmt.roleKey c.role) c.nonce c.role) (room : s.mgmt.freeSlot f.service c.role = some slot) :
    ∃ t x, exec (.authResponse f) s = .next t ∧ Sparse.find? t.mgmt.sessions slot = some x ∧ x.role = c.role ∧ x.src = f.srcAddr ∧
      x.key = hmac (s.mgmt.roleKey c.role) (f.data ++ c.nonce ++ [0x53]) ∧ c ∉ t.mgmt.challenges := by
  generalize began : (s.used c).updMgmt (fun m => { m with
    sessions := Sparse.insert m.sessions slot (s.newSession f c), nextNum := BitVec.ofNat 16 (s.mgmt.freshNum.toNat % 65534 + 1),
    snaps := Sparse.erase m.snaps slot, staging := Sparse.erase m.staging slot }) = s1
  have ran : s.authResponse f = s1.replyTo f slot s.mgmt.freshNum (Ans.of dOk) := by
    rw [← began]
    unfold State.authResponse
    rw [asked]
    dsimp only
    rw [if_neg (by rw [← proof]; simp [proof, roleProof_length]), room]
    rfl
  have session : Sparse.find? s1.mgmt.sessions slot = some (s.newSession f c) := by
    rw [← began]
    exact Sparse.find?_insert_self _ _ _
  have challenges : c ∉ s1.mgmt.challenges := by
    rw [← began]
    exact s.not_mem_used c
  obtain ⟨r, ses, replied, -, -, -, counted, -⟩ := s1.replyTo_effect f slot s.mgmt.freshNum (Ans.of dOk)
  refine ⟨_, { s.newSession f c with ctrOut := 0 + 1 }, (exec_authResponse op received unnamed sound).trans (congrArg Host.Outcome.next (ran.trans replied)),
    counted _ session, rfl, rfl, rfl, challenges⟩

theorem authResponse_wrong {c : Challenge} (op : f.op = 4) (received : s.receives f = true) (unnamed : f.session = 0) (sound : frameBad f = false)
    (asked : s.mgmt.challenges.find? (fun x => decide (x.src = f.srcAddr) && decide (x.service = f.service)) = some c)
    (free : Sparse.find? s.mgmt.sessions 12 = none) (wrong : f.data ≠ roleProof (s.mgmt.roleKey c.role) c.nonce c.role) :
    ∃ t r, exec (.authResponse f) s = .next t ∧ t.mgmt.sessions = s.mgmt.sessions ∧ t.mgmt.authFails = s.mgmt.authFails + 1 ∧
      c ∉ t.mgmt.challenges ∧ t.mgmt.tx = s.mgmt.tx ++ [r] ∧ r.status = 0x30 := by
  have ran : s.authResponse f = ((s.used c).noteAuthFail f.srcAddr).replyTo f 12 0 (Ans.of dAuthFail) := by
    unfold State.authResponse
    rw [asked]
    exact if_pos (.inr wrong)
  obtain ⟨m, noted, sessions, fails, challenges, queue⟩ := (s.used c).noteAuthFail_effect f.srcAddr
  obtain ⟨r, ses, replied, status, -, -, -, same⟩ := ((s.used c).noteAuthFail f.srcAddr).replyTo_effect f 12 0 (Ans.of dAuthFail)
  rw [noted] at replied same
  rw [noted] at ran
  refine ⟨_, r, (exec_authResponse op received unnamed sound).trans (congrArg Host.Outcome.next (ran.trans replied)),
    (same (by rw [sessions]; exact free)).trans sessions, fails, ?_, congrArg (· ++ [r]) queue, status⟩
  show c ∉ m.challenges
  rw [challenges]
  exact s.not_mem_used c

/-! ### Requests that are dropped (R356) -/

/-- A request dropped and counted. -/
def State.dropped (s : State) : State := s.updMgmt fun m => { m with badTags := m.badTags + 1 }

theorem State.receive_of_rejected (received : s.receives f = true) (named : f.session ≠ 0) (session : s.mgmt.sessionOf f = some (slot, x))
    (rejected : x.accepts f = false) (act : State → Who → State × Ans) : s.receive f act = s.dropped := by
  unfold State.receive
  rw [if_neg (by rw [received]; decide), if_neg named, session]
  exact if_pos rejected

theorem State.writeFrame_of_rejected (received : s.receives f = true) (named : f.session ≠ 0) (session : s.mgmt.sessionOf f = some (slot, x))
    (rejected : x.accepts f = false) :
    s.writeFrame f = if f.index = 0x1100 ∧ f.sub = 2 then s.dropped.takeNodeId else s.dropped := by
  have drops (act : State → Who → State × Ans) := State.receive_of_rejected received named session rejected act
  unfold State.writeFrame
  split
  · next image =>
    rw [if_neg fun node => absurd (image.1.symm.trans node.1) (by decide)]
    exact drops _
  · dsimp only
    rw [drops, if_neg fun both => both.2 rfl]

/-! ### The end of a session (R357) -/

theorem State.endSession_mgmt (s : State) (slot : Nat) : (s.endSession slot).mgmt =
    { s.mgmt with sessions := Sparse.erase s.mgmt.sessions slot, snaps := Sparse.erase s.mgmt.snaps slot,
                  staging := Sparse.erase s.mgmt.staging slot } := by
  obtain ⟨m, same⟩ := s.dropDownload_frame
  unfold State.endSession
  rw [same]
  split <;> rfl

theorem exec_close (asks : s.requests f slot x) (op : f.op = 5) (named : slot ≠ 12) :
    ∃ t r, exec (.close f) s = .next t ∧ Sparse.find? t.mgmt.sessions slot = none ∧ t.mgmt.tx = s.mgmt.tx ++ [r] ∧ r.status = 0 ∧
      Sparse.find? t.mgmt.staging slot = none := by
  obtain ⟨received, unnamed, session, accepted, sound⟩ := asks
  obtain ⟨r, ses, replied, status, -⟩ := (s.heard f slot x).replyTo_effect f slot f.session (Ans.of dOk)
  have heard : s.receive f (fun s w => (s, Ans.of (if w.slot = 12 then dNoSession else dOk))) =
      (s.heard f slot x).replyTo f slot f.session (Ans.of dOk) := by
    rw [State.receive_of_requests ⟨received, unnamed, session, accepted, sound⟩]
    exact congrArg (fun status => (s.heard f slot x).replyTo f slot f.session (Ans.of status)) (if_neg named)
  have ran : exec (.close f) s = .next (((s.heard f slot x).updMgmt fun m => { m with sessions := ses, tx := m.tx ++ [r] }).endSession slot) := by
    show execClose f s = _
    unfold execClose
    rw [if_neg (not_not_intro op), session]
    dsimp only
    rw [if_pos ⟨received, unnamed, accepted, sound⟩, heard, replied]
  refine ⟨_, r, ran, ?_⟩
  rw [State.endSession_mgmt]
  exact ⟨Sparse.find?_erase_self _ _, rfl, status, Sparse.find?_erase_self _ _⟩

/-- Settles O52: a reply leaves the sessions but for a counter (`State.replyTo_effect`), and the end of a session erases its slot alone. -/
theorem dictionarySessions : Obligations.DictionarySessions := by
  refine ⟨?_, ?_, ?_, ?_, ?_, ?_⟩
  · exact fun s f role op received unnamed sound open_ data low high port room free =>
      exec_authChallenge op received unnamed sound open_ data low high port room free
  · exact fun s f c op received unnamed sound asked free =>
      ⟨fun proof slot room => authResponse_right op received unnamed sound asked proof room,
        fun wrong => authResponse_wrong op received unnamed sound asked free wrong⟩
  · intro s f slot x received named session rejected
    refine ⟨fun op => congrArg Host.Outcome.next ((if_pos (.inl op)).trans (State.receive_of_rejected received named session rejected _)),
      fun op => congrArg Host.Outcome.next ((if_pos op).trans (State.writeFrame_of_rejected received named session rejected))⟩
  · exact fun s f slot x asks op named => exec_close asks op named
  · intro s slot found
    refine ⟨_, congrArg Host.Outcome.next (if_pos found), ?_, fun k apart => ?_, congrArg
      (fun v : Sparse CoreState × Sparse DieState × Sparse Partition × List Program × List Rebind × Power => v.1) (State.bodies_endSession _ _)⟩
    · rw [State.endSession_mgmt]
      exact Sparse.find?_erase_self _ _
    · rw [State.endSession_mgmt]
      exact Sparse.find?_erase_ne _ apart
  · intro s src
    by_cases mailbox : src.toNat < 2
    · refine ⟨_, congrArg Host.Outcome.next (if_pos mailbox), ?_, fun y apart => ?_, rfl⟩
      · simp
      · simp [apart]
    · refine ⟨_, congrArg Host.Outcome.next (if_neg mailbox), ?_, fun y apart => ?_, rfl⟩
      · simp
      · simp [apart]

end

end Sys2Proof.Machine

/-! PROOFS. March tests, the retest of a die, scrub and phase calibration (R30, R372 to R378, R396). -/

namespace Sys2Proof.Machine

section

variable {s : State} {c m : Nat}

/-! ### The march test of one macro (R372) -/

/-- The request of a destructive test of one macro. -/
def macroTest (c m : Nat) : List Byte :=
  [BitVec.ofNat 8 (coreDie c), 1, 1, BitVec.ofNat 8 c, BitVec.ofNat 8 m, 0, 1, 0] ++ List.replicate 8 (0 : Byte)

/-- The operation that the request asks for. -/
def macroTestOp (c m : Nat) : MaintOp :=
  { MaintOp.of .march with die := some (coreDie c), cores := [c], units := [m], mode := 1, unitKind := 1 }

theorem coreDie_lt : ∀ c : CoreId, coreDie c < 20 := by decide

theorem leNat_single (v : Nat) (small : v < 256) : leNat [BitVec.ofNat 8 v] = v := by
  simp [leNat, Nat.mod_eq_of_lt small]

theorem leNat_pair (v : Nat) (small : v < 256) : leNat [BitVec.ofNat 8 v, 0] = v := by
  simp [leNat, Nat.mod_eq_of_lt small]

/-- A test of an OFFLINE macro, on a die that runs, is for the arbiter to allow. -/
theorem State.actMarch_macro (c : CoreId) (m : MacId) (runs : (s.die (coreDie c)).runs = true) (offline : (s.mac c m).st = .offline) :
    (∀ r, s.maint.blocker (macroTestOp c m) = some r → s.actMarch (macroTest c m) = (s.noteBusy .march r.kind, dState)) ∧
    (s.maint.blocker (macroTestOp c m) = none → s.actMarch (macroTest c m) = ((s.wreck 1 c m).beginOp (macroTestOp c m), dOk)) := by
  have small := coreDie_lt c
  have die : leNat (((macroTest c m).drop 0).take 1) = coreDie c := leNat_single _ (by omega)
  have core : leNat (((macroTest c m).drop 3).take 1) = c := leNat_single _ (by omega)
  have first : leNat (((macroTest c m).drop 4).take 2) = m := leNat_pair _ (by omega)
  have kind : leNat (((macroTest c m).drop 1).take 1) = 1 := rfl
  have mode : leNat (((macroTest c m).drop 2).take 1) = 1 := rfl
  have count : leNat (((macroTest c m).drop 6).take 2) = 1 := rfl
  have inRange : ¬(20 < coreDie c ∨ 3 < 1 ∨ 2 < 1 ∨ 1 = 0 ∨ (1 = 2) ≠ (coreDie c = 20) ∨ (1 ≠ 2 ∧ (80 ≤ c.val ∨ coreDie c ≠ coreDie c))) := by
    have other : ((1 : Nat) = 2) = (coreDie c = 20) := propext ⟨fun h => absurd h (by decide), fun h => by omega⟩
    have inside := c.isLt
    rintro (h | h | h | h | h | ⟨-, h | h⟩)
    · omega
    · omega
    · omega
    · omega
    · exact h other
    · omega
    · exact h rfl
  have may : ¬((s.die (coreDie c)).runs = false ∨ (((List.range 1).map fun i => m.val + i).any fun u => !s.marchable 1 1 c u) = true) := by
    have within := m.isLt
    rw [runs]
    simp [State.marchable, offline, List.range_succ, within]
  unfold State.actMarch
  dsimp only
  rw [if_neg (by rw [die, core, kind, mode, count]; exact inRange), if_neg (by rw [die, core, first, kind, mode, count]; exact may)]
  simp only [die, core, first, kind, mode, count]
  have op : ({ MaintOp.of .march with die := some (coreDie c), cores := (if 1 = 2 then [] else [c.val]),
                                      units := (List.range 1).map (m.val + ·), mode := 1, unitKind := 1 } : MaintOp) = macroTestOp c m := rfl
  refine ⟨fun r blocked => ?_, fun free => ?_⟩
  · rw [op, blocked]
  · rw [op, free]
    rfl

theorem State.markTest_macro (s : State) (c m : Nat) (on : Bool) : s.markTest (macroTestOp c m) on = s.updMac c m fun k => { k with underTest := on } :=
  if_pos ⟨rfl, rfl⟩

theorem State.actMarch_effect (c : CoreId) (m : MacId) (runs : (s.die (coreDie c)).runs = true) (offline : (s.mac c m).st = .offline) :
    (s.maint.blocker (macroTestOp c m) = none → (s.actMarch (macroTest c m)).2 = dOk ∧
      ((s.actMarch (macroTest c m)).1.mac c m).underTest = true ∧ ((s.actMarch (macroTest c m)).1.mac c m).rows = [] ∧
      (s.actMarch (macroTest c m)).1.maint.ops = s.maint.ops ++ [macroTestOp c m]) ∧
    (∀ r, s.maint.blocker (macroTestOp c m) = some r → (s.actMarch (macroTest c m)).2 = dState ∧
      (s.actMarch (macroTest c m)).1.maint.ops = s.maint.ops ∧ (s.actMarch (macroTest c m)).1.macros = s.macros) := by
  obtain ⟨refused, admitted⟩ := State.actMarch_macro c m runs offline
  refine ⟨fun free => ?_, fun r blocked => ?_⟩
  · rw [admitted free]
    refine ⟨rfl, ?_, ?_, State.beginOp_ops _ _⟩
    all_goals
      unfold State.beginOp
      rw [State.markTest_macro, State.mac_updMac_self]
    show (((s.updMac c m fun k => { k with rows := [], uGen := some s.free })).mac c m).rows = []
    rw [State.mac_updMac_self]
  · rw [refused r blocked]
    exact ⟨rfl, rfl, rfl⟩

/-! ### Outcomes (R373, R374, R396) -/

/-- The operation of a device that runs nothing else, ended where nothing waits to be raised again. -/
theorem State.endOps_only {o : MaintOp} (ops : s.maint.ops = [o]) (idle : s.maint.again = []) :
    s.endOps (fun x => decide (x = o)) = (s.markTest o false).updMaint fun t => { t with ops := [] } := by
  unfold State.endOps
  dsimp only
  have kept := s.markTest_maint o false
  have marked : ([o].filter fun x => decide (x = o)) = [o] := by simp
  have gone : ([o].filter fun x => !decide (x = o)) = [] := by simp
  rw [ops, marked, List.foldl_cons, List.foldl_nil, show ((s.markTest o false).updMaint fun m =>
    { m with ops := m.ops.filter fun x => !decide (x = o) }).maint.again = [] from (congrArg Maint.again kept).trans idle, List.foldl_nil]
  unfold State.updMaint
  dsimp only
  rw [kept, ops, gone]

theorem exec_marchTestDone {d : DieId} {o : MaintOp} (ops : s.maint.ops = [o]) (kind : o.kind = .march) (die : o.die = some d.val)
    (failures : List (Nat × Nat)) (repaired : Bool) :
    exec (.marchTestDone d failures repaired) s = .next (
      let s1 := s.endOps fun x => decide (x = o)
      if o.unitKind = 4 then (if failures = [] ∨ repaired then s1.dieBack d else s1.loseDie d)
      else o.units.foldl (fun s u => s.unitTested o u ((failures.filter fun f => decide (f.1 = u)).map (·.2)) repaired) s1) := by
  have found : (s.maint.ops.find? fun o => decide (o.kind = .march) && decide (o.die = some d.val)) = some o := by
    rw [ops]
    simp [kind, die]
  show execMarchTestDone d failures repaired s = _
  unfold execMarchTestDone
  rw [found]

/-- A device after the end of the test of one macro, its result noted. -/
def State.tested (s : State) (c m : Nat) (result : Nat) : State :=
  ((s.updMac c m fun k => { k with underTest := false }).updMaint fun t => { t with ops := [] }).updMaint fun t =>
    { t with marchRes := t.marchRes ++ [(m, result)] }

theorem State.mac_tested (s : State) (c m r : Nat) : (s.tested c m r).mac c m = { s.mac c m with underTest := false } :=
  State.mac_updMac_self s c m fun k => { k with underTest := false }

theorem marchTestDone_macro {c : CoreId} {m : MacId} {d : DieId} (die : d.val = coreDie c) (ops : s.maint.ops = [macroTestOp c m])
    (idle : s.maint.again = []) (failures : List (Nat × Nat)) (repaired : Bool) :
    let codes := (failures.filter fun f => decide (f.1 = m.val)).map (·.2)
    exec (.marchTestDone d failures repaired) s =
      .next ((s.tested c m (bitAt (decide (codes ≠ []) && !repaired) 0)).macroTested c m 1 codes repaired) := by
  intro codes
  rw [exec_marchTestDone ops rfl (congrArg some die.symm), State.endOps_only ops idle, State.markTest_macro]
  rfl

theorem marchTestDone_passed {c : CoreId} {m : MacId} {d : DieId} (die : d.val = coreDie c) (ops : s.maint.ops = [macroTestOp c m])
    (idle : s.maint.again = []) (rep : Bool) (retired : (s.mac c m).st = .retired) :
    ∃ t, exec (.marchTestDone d [] rep) s = .next t ∧ (t.mac c m).st = .offline ∧ (t.mac c m).underTest = false ∧
      macKey c m ∉ t.maint.retired ∧ t.maint.ops = [] ∧ t.maint.marchRes = s.maint.marchRes ++ [(m.val, 0)] := by
  have still : 1 ≠ 0 ∧ ((s.tested c m 0).mac c m).st = .retired := by
    rw [State.mac_tested]
    exact ⟨by decide, retired⟩
  have ran : exec (.marchTestDone d [] rep) s =
      .next (((s.tested c m 0).updMac c m fun k => { k with st := .offline }).retireRecord (macKey c m) false) :=
    (marchTestDone_macro die ops idle [] rep).trans (congrArg Host.Outcome.next ((if_pos rfl).trans (if_pos still)))
  have port := (s.tested c m 0).mac_updMac_self c m fun k => { k with st := .offline }
  rw [State.mac_tested] at port
  refine ⟨_, ran, congrArg MacroState.st port, congrArg MacroState.underTest port, ?_, rfl, rfl⟩
  intro member
  exact absurd rfl (of_decide_eq_true (List.mem_filter.1 member).2)

theorem marchTestDone_failed {c : CoreId} {m : MacId} {d : DieId} (die : d.val = coreDie c) (ops : s.maint.ops = [macroTestOp c m])
    (idle : s.maint.again = []) (code : Nat) :
    ∃ t, exec (.marchTestDone d [(m.val, code)] false) s = .next t ∧ (t.mac c m).st = .retired ∧ macKey c m ∈ t.maint.retired ∧
      (t.mac c m).underTest = false ∧ t.hub.seq = s.hub.seq + 1 ∧ t.maint.marchRes = s.maint.marchRes ++ [(m.val, 1)] := by
  have codes : (([(m.val, code)].filter fun f => decide (f.1 = m.val)).map (·.2)) = [code] := by simp
  have ran := marchTestDone_macro die ops idle [(m.val, code)] false
  dsimp only at ran
  rw [codes] at ran
  have retires : (s.tested c m 1).macroTested c m 1 [code] false = (s.tested c m 1).retireMacro c m := (if_neg (by simp)).trans (if_pos rfl)
  have port := (s.tested c m 1).mac_updMac_self c m fun k => { k with st := .retired }
  rw [State.mac_tested] at port
  refine ⟨_, ran.trans (congrArg Host.Outcome.next retires), ?_⟩
  unfold State.retireMacro
  rw [State.mac_journal, State.journal_maint, State.hub_journal]
  exact ⟨congrArg MacroState.st port, mem_add_once _ _, congrArg MacroState.underTest port, rfl, rfl⟩

theorem State.dieBack_retestDue (s : State) (d : Nat) : ((s.dieBack d).die d).retestDue = false := by
  unfold State.dieBack
  dsimp only
  have ports := fun s : State => foldl_view (view := State.dies) (f := fun s p => [false, true].foldl (fun s h =>
    if kxDie p h = d then (s.updPort p fun x => x.setHalf h { x.half h with dieLost := false, training := true }) else s) s)
    (fun s p => foldl_view (view := State.dies) (by intro s h; dsimp only; split <;> rfl) _ s) (List.range 6) s
  have channels := fun s : State => foldl_view (view := State.dies)
    (f := fun s c => s.beginOp { MaintOp.of .lpddr with chan := some c }) (fun s c => (State.markTest_frame _ _ _).2.2.2.1)
    ((List.range 16).filter fun c => chanDie c = d) s
  have owners := fun (own : List (Nat × Nat)) (s : State) => foldl_view (view := State.dies) (f := fun s e =>
    (s.updHub fun h => h.setPart e.2 { h.part e.2 with cores := (h.part e.2).cores ||| BitVec.ofNat 80 (2 ^ e.1) }).updCore e.1 fun k =>
      { k with owner := some e.2 }) (by intro s e; rfl) own s
  have dies := (ports _).trans ((channels _).trans (owners ((s.die d).oldParts.filter fun e => decide ((s.hub.part e.2).st ≠ 0))
    (s.updDie d fun x => { x with retestDue := false, oldParts := [], missed := 0 })))
  refine (congrArg (fun ds : Sparse DieState => (Sparse.get ds DieState.reset d).retestDue) dies).trans ?_
  exact congrArg DieState.retestDue (State.die_updDie_self s d fun x => { x with retestDue := false, oldParts := [], missed := 0 })

theorem marchTestDone_die {d : DieId} {o : MaintOp} (ops : s.maint.ops = [o]) (kind : o.kind = .march) (die : o.die = some d.val)
    (whole : o.unitKind = 4) (idle : s.maint.again = []) :
    (∃ t, exec (.marchTestDone d [] false) s = .next t ∧ (t.die d).retestDue = false) ∧
    (∀ u, (s.die d).lost = false → ∃ t, exec (.marchTestDone d [u] false) s = .next t ∧ (t.die d).lost = true) := by
  have ended : s.endOps (fun x => decide (x = o)) = s.updMaint fun t => { t with ops := [] } := by
    rw [State.endOps_only ops idle]
    exact congrArg (fun u : State => u.updMaint fun t => { t with ops := [] })
      (if_neg fun both => absurd (whole.symm.trans both.2) (by decide))
  refine ⟨⟨_, ?_, State.dieBack_retestDue (s.updMaint fun t => { t with ops := [] }) d⟩, fun u alive =>
    ⟨(s.updMaint fun t => { t with ops := [] }).loseDie d, ?_, ?_⟩⟩
  · rw [exec_marchTestDone ops kind die, ended]
    exact congrArg Host.Outcome.next ((if_pos whole).trans (if_pos (.inl rfl)))
  · rw [exec_marchTestDone ops kind die, ended]
    exact congrArg Host.Outcome.next ((if_pos whole).trans (if_neg (by simp)))
  · rw [(State.loseDie_mains (s := s.updMaint fun t => { t with ops := [] }) (d := d) alive).2]

theorem marchTestDone_bank {d : DieId} {c : CoreId} {u : Nat} {o : MaintOp} (rep : Bool) (ops : s.maint.ops = [o]) (idle : s.maint.again = [])
    (bank : o = { MaintOp.of .march with die := some d.val, cores := [c.val], units := [u], mode := 1, unitKind := 0 }) :
    ∃ t, exec (.marchTestDone d [] rep) s = .next t ∧ c.val ∉ t.maint.excluded ∧ t.maint.marchRes = s.maint.marchRes ++ [(u, 0)] ∧
      t.cores = s.cores := by
  subst bank
  refine ⟨((s.updMaint fun t => { t with ops := [] }).updMaint fun t => { t with marchRes := t.marchRes ++ [(u, 0)] }).readmit c, ?_, ?_, rfl, rfl⟩
  · rw [exec_marchTestDone ops rfl rfl, State.endOps_only ops idle]
    rfl
  · intro member
    exact absurd rfl (of_decide_eq_true (List.mem_filter.1 member).2)

/-! ### Scrub (R30, R375) -/

/-- A row written whole from the shadow no longer differs from it. -/
theorem State.rowDiffs_of_stored {row : Nat} {dd : BitVec 4096} {k : MacroState} (shadow : s.shadowRow c m row = some dd)
    (stored : s.mac c m = k.store .repair row 0xFFFF#16 dd 0) (checked : k.rawWrite = false) : s.rowDiffs c m row = [] := by
  have word (d : Nat) : (k.store .repair row 0xFFFF#16 dd 0).checkWord row d = k.checkWord row d := by rw [MacroState.store_eq]; rfl
  have check : ((k.store .repair row 0xFFFF#16 dd 0).row row).check = BitVec.ofNat 128 (k.checkWord row dd.toNat) := by
    rw [MacroState.row_store_self, MacroState.stored]
    simp only [checked, Bool.false_eq_true, if_false]
    rw [mergeSegs_full_toNat dd (by decide) rfl, mergeSegs_full (w := 128) (by decide) rfl (k.checkWord_lt _ _)]
  unfold State.rowDiffs
  rw [shadow]
  dsimp only
  rw [stored, word, check, MacroState.data_row_store, BitVec.xor_self, BitVec.xor_self]
  exact if_pos ⟨rfl, rfl⟩

theorem State.scrubRow_failing {row : Nat} (fails : (s.mac c m).failing row ≠ []) :
    s.scrubRow c m row = ((s.updMac c m fun k => k.noteRead row).readFailed c m row).arriveRow c m (.check row) := by
  have bad : (decide ((s.mac c m).failing row ≠ []) || decide (s.rowDiffs c m row ≠ [])) = true := by
    rw [decide_eq_true fails]
    rfl
  exact if_pos bad

theorem State.fieldRepair_ext (s : State) (c m : Nat) (what : RepairKind) : (s.fieldRepair c m what).ext = s.ext := by
  unfold State.fieldRepair
  dsimp only
  split
  · split
    · rfl
    · exact State.journal_ext _ _ _ _ _ _ _ _ _
  · rfl

theorem State.readFailed_ext (s : State) (c m row : Nat) : (s.readFailed c m row).ext = s.ext := by
  unfold State.readFailed
  dsimp only
  split
  · exact State.fieldRepair_ext _ _ _ _
  · split
    · rfl
    · split
      · rfl
      · split <;> rfl

/-- A row that agrees with its shadow is left as it is by the second read of a scrub. -/
theorem State.check_of_agreeing {row : Nat} (free : (s.mac c m).mustHold (.check row) = false) (sound : (s.mac c m).failing row = [])
    (agrees : s.rowDiffs c m row = []) : (s.arriveRow c m (.check row)).mac c m = s.mac c m := by
  have calm : ¬((s.mac c m).rowFault row = 0 ∧ ((s.mac c m).failing row ≠ [] ∨ s.rowDiffs c m row ≠ [])) := by
    rw [sound, agrees]
    simp
  have left : s.rowOp c m (.check row) = s.setMac c m ((s.mac c m).noteRead row) := if_neg calm
  rw [State.arriveRow_of_open free, left, State.mac_setMac_self, MacroState.noteRead_of_sound sound]

/-- A row that fails for the first time in the cycle is written back from its shadow. -/
theorem State.scrubRow_first {row : Nat} {dd : BitVec 4096} (inside : row < 2064) (takes : (s.mac c m).takesRows)
    (checked : (s.mac c m).rawWrite = false) (fails : (s.mac c m).failing row ≠ []) (shadow : s.shadowRow c m row = some dd)
    (first : (s.mac c m).failedRows = []) :
    ((s.scrubRow c m row).mac c m).failing row = [] ∧ (((s.scrubRow c m row).mac c m).row row).data = dd ∧
      ((s.scrubRow c m row).mac c m).st = (s.mac c m).st := by
  obtain ⟨working, pass, repair, held⟩ := takes
  obtain ⟨lr, lg, me, rc, rm, noted⟩ := (s.mac c m).noteRead_frame row
  generalize begun : s.updMac c m (fun k => k.noteRead row) = s1
  have mac : s1.mac c m = (s.mac c m).noteRead row := by
    rw [← begun]
    exact State.mac_updMac_self _ _ _ _
  have shadow1 : s1.shadowRow c m row = some dd := by
    rw [← begun]
    exact shadow
  rw [noted] at mac
  have written := State.readFailed_of_first (s := s1) (c := c) (m := m) (by rw [mac]; exact first) shadow1
    (fun op => by rw [mac]; exact MacroState.mustHold_of_free repair held pass)
    (by rw [mac]; exact MacroState.rowFault_eq_zero inside working)
  generalize differs : s1.rowDiffs c m row = ds at written
  generalize stood : { s1.mac c m with failedRows := [(row, ds)] } = k at written
  have plain : k.rawWrite = false ∧ k.repairBusy = false ∧ k.held = [] ∧ k.passActive = false ∧ k.st = (s.mac c m).st := by
    rw [← stood, mac]
    exact ⟨checked, repair, held, pass, rfl⟩
  obtain ⟨raw, busy, waits, passes, st⟩ := plain
  have shadow2 : (s1.readFailed c m row).shadowRow c m row = some dd := by
    unfold State.shadowRow
    rw [State.readFailed_ext]
    exact shadow1
  have free : ((s1.readFailed c m row).mac c m).mustHold (.check row) = false := by
    rw [written, MacroState.store_eq]
    exact MacroState.mustHold_of_free busy waits passes
  have sound : ((s1.readFailed c m row).mac c m).failing row = [] := by
    rw [written]
    exact MacroState.failing_store raw
  rw [State.scrubRow_failing fails, begun, State.check_of_agreeing free sound (State.rowDiffs_of_stored shadow2 written raw)]
  refine ⟨sound, ?_, ?_⟩
  · rw [written]
    exact MacroState.data_row_store
  · rw [written, MacroState.store_eq, ← st]
    rfl

/-- A row that failed before in the cycle is given a spare row (R28, R30). -/
theorem State.scrubRow_again {row : Nat} (takes : (s.mac c m).takesRows) (fails : (s.mac c m).failing row ≠ [])
    (before : ∃ e ∈ (s.mac c m).failedRows, e.1 = row) (named : repairNames (rowRepair row) = true)
    (spare : (((s.mac c m).noteRead row).fitSpare (rowRepair row)).isSome = true) :
    ((s.scrubRow c m row).mac c m).repairBusy = true ∧ ((s.scrubRow c m row).mac c m).repairing = some (rowRepair row) := by
  obtain ⟨working, pass, repair, held⟩ := takes
  obtain ⟨lr, lg, me, rc, rm, noted⟩ := (s.mac c m).noteRead_frame row
  obtain ⟨k1, fits⟩ := Option.isSome_iff_exists.1 spare
  generalize begun : s.updMac c m (fun k => k.noteRead row) = s1
  have mac : s1.mac c m = (s.mac c m).noteRead row := by
    rw [← begun]
    exact State.mac_updMac_self _ _ _ _
  have again : (s1.mac c m).repairFor row (s1.rowDiffs c m row) = some (rowRepair row) := by
    obtain ⟨e, member, is⟩ := before
    refine if_pos (List.any_eq_true.2 ⟨e, ?_, decide_eq_true is⟩)
    rw [mac, noted]
    exact member
  have repairs : s1.readFailed c m row = s1.fieldRepair c m (rowRepair row) := by
    unfold State.readFailed
    dsimp only
    rw [again]
  have fitted := State.fieldRepair_of_spare (s := s1) (c := c) (m := m) (k1 := k1) (what := rowRepair row)
    (by rw [mac, noted]; exact working.symm) (by rw [mac, noted]; exact repair) named (by rw [mac]; exact fits)
  generalize (if (s1.mac c m).passActive then s1.mac c m else k1) = k2 at fitted
  have waits : ((s1.setMac c m { k2 with repairBusy := true, repairing := some (rowRepair row) }).mac c m).mustHold (.check row) = true := by
    rw [State.mac_setMac_self]
    exact MacroState.mustHold_of_repair_or_held (.inl rfl)
  rw [State.scrubRow_failing fails, begun, repairs, fitted, State.arriveRow_of_held waits, State.mac_setMac_self, State.mac_setMac_self]
  exact ⟨rfl, rfl⟩

/-! ### Phase calibration (R378) -/

theorem exec_phaseCalibrationDone {d : DieId} (passed : BitVec 24) (runs : ∃ o ∈ s.maint.ops, o.kind = .phaseCal ∧ o.die = some d.val)
    (idle : s.maint.again = []) : ∃ t, exec (.phaseCalibrationDone d passed) s = .next t ∧
      (t.die d).dropped = (s.die d).dropped &&& ~~~passed ∧ (t.die d).inService = (s.die d).inService ∧
      ∀ o ∈ t.maint.ops, ¬(o.kind = .phaseCal ∧ o.die = some d.val) := by
  obtain ⟨o, member, kind, die⟩ := runs
  obtain ⟨ops, -⟩ := State.endOps_idle (q := fun o => decide (o.kind = .phaseCal) && decide (o.die = some d.val)) idle
  have dies := congrArg (fun v : Sparse CoreState × Sparse DieState × Sparse Partition × List Program × List Rebind × Power => v.2.1)
    (s.bodies_endOps fun o => decide (o.kind = .phaseCal) && decide (o.die = some d.val))
  have ran : exec (.phaseCalibrationDone d passed) s =
      .next ((s.endOps fun o => decide (o.kind = .phaseCal) && decide (o.die = some d.val)).updDie d fun x =>
        { x with dropped := x.dropped &&& ~~~passed }) :=
    congrArg Host.Outcome.next (if_pos (List.any_eq_true.2 ⟨o, member, by simp [kind, die]⟩))
  generalize s.endOps (fun o => decide (o.kind = .phaseCal) && decide (o.die = some d.val)) = s1 at ops dies ran
  have same : s1.die d = s.die d := congrArg (fun ds : Sparse DieState => Sparse.get ds DieState.reset d) dies
  refine ⟨_, ran, ?_, ?_, fun q inside both => ?_⟩
  · rw [State.die_updDie_self, same]
  · rw [State.die_updDie_self, same]
  · rw [State.updDie_maint, ops] at inside
    have := (List.mem_filter.1 inside).2
    simp [both.1, both.2] at this

theorem State.actPhaseCal_begins {d : Nat} (runs : (s.die d).runs = true) (margin : s.spareMargin d = true)
    (free : s.maint.blocker { MaintOp.of .phaseCal with die := some d } = none) :
    s.actPhaseCal d = (s.beginOp { MaintOp.of .phaseCal with die := some d }, dOk) := by
  unfold State.actPhaseCal
  dsimp only
  rw [if_neg (by rw [runs, margin]; decide), free]

/-- Settles O54: the test of a macro is one operation (`macroTestOp`), and a failing row is answered by its shadow or by a spare row. -/
theorem maintenanceTests : Obligations.MaintenanceTests := by
  refine ⟨?_, ?_, ?_, ?_, ?_, ?_, fun s d => ⟨?_, ?_, ?_⟩⟩
  · exact fun s c m runs offline => State.actMarch_effect c m runs offline
  · intro s c m d o code die ops is idle
    have op : s.maint.ops = [macroTestOp c m] := by
      rw [ops, is, die]
      rfl
    exact ⟨fun rep retired => marchTestDone_passed die op idle rep retired, marchTestDone_failed die op idle code⟩
  · exact fun s d o ops kind die whole idle => marchTestDone_die ops kind die whole idle
  · exact fun s d c u o rep ops idle bank => marchTestDone_bank rep ops idle bank
  · exact fun s d => ⟨fun paused => congrArg Host.Outcome.next (if_pos paused),
      fun runs => congrArg Host.Outcome.next (if_neg (by rw [runs]; decide))⟩
  · exact fun s c m row dd inside takes checked fails shadow => ⟨fun first => State.scrubRow_first inside takes checked fails shadow first,
      fun before named spare => State.scrubRow_again takes fails before named spare⟩
  · intro runs margin free
    rw [State.actPhaseCal_begins runs margin free, State.beginOp_ops]
    exact ⟨rfl, _, List.mem_append_right _ (List.mem_singleton_self _), rfl, rfl⟩
  · exact fun margin => if_pos (.inr margin)
  · exact fun passed runs idle => exec_phaseCalibrationDone passed runs idle

end

end Sys2Proof.Machine

/-! PROOFS. Firmware: downloads, verification, activation, trials and reverts (R379 to R384). -/

namespace Sys2Proof.Machine

section

variable {s : State} {x : Component} {v : FwSlot} {c : Nat}

/-! ### Slots of a component -/

@[simp] theorem Component.other_setOther (x : Component) (v : FwSlot) : (x.setOther v).other = v := by
  unfold Component.setOther Component.other
  cases x.useB <;> rfl

@[simp] theorem Component.active_setOther (x : Component) (v : FwSlot) : (x.setOther v).active = x.active := by
  unfold Component.setOther Component.active
  cases x.useB <;> rfl

@[simp] theorem Component.active_setActive (x : Component) (v : FwSlot) : (x.setActive v).active = v := by
  unfold Component.setActive Component.active
  cases x.useB <;> rfl

@[simp] theorem Component.other_setActive (x : Component) (v : FwSlot) : (x.setActive v).other = x.other := by
  unfold Component.setActive Component.other
  cases x.useB <;> rfl

/-- A slot set leaves everything but the slots as it is. -/
theorem Component.setOther_frame (x : Component) (v : FwSlot) : ∃ a b, x.setOther v = { x with a := a, b := b } := by
  unfold Component.setOther
  split
  · exact ⟨v, x.b, rfl⟩
  · exact ⟨x.a, v, rfl⟩

theorem Component.setActive_frame (x : Component) (v : FwSlot) : ∃ a b, x.setActive v = { x with a := a, b := b } := by
  unfold Component.setActive
  split
  · exact ⟨x.a, v, rfl⟩
  · exact ⟨v, x.b, rfl⟩

/-- A component that runs from its other slot. -/
theorem Component.flip_slots {x y : Component} (flips : y.useB = !x.useB) (a : y.a = x.a) (b : y.b = x.b) :
    y.active = x.other ∧ y.other = x.active := by
  unfold Component.active Component.other
  rw [flips, a, b]
  cases x.useB <;> exact ⟨rfl, rfl⟩

/-! ### What leaves the components as they are -/

/-- The components of the firmware. -/
def State.comps (s : State) : Sparse Component := s.maint.comps

theorem State.comp_of_comps {t : State} (same : t.comps = s.comps) (c : Nat) : t.comp c = s.comp c :=
  congrArg (fun cs => Sparse.get cs Component.reset c) same

theorem State.comp_setComp_self (s : State) (c : Nat) (x : Component) : (s.setComp c x).comp c = x := Sparse.get_set_self _ _ _ _

theorem State.comp_setComp_ne (s : State) {c d : Nat} (x : Component) (apart : d ≠ c) : (s.setComp c x).comp d = s.comp d :=
  Sparse.get_set_ne _ _ _ _ apart

theorem State.comps_beginOp (s : State) (o : MaintOp) : (s.beginOp o).comps = s.comps := by
  unfold State.beginOp State.comps
  rw [State.markTest_maint]
  rfl

theorem State.comps_endOps (s : State) (q : MaintOp → Bool) : (s.endOps q).comps = s.comps := by
  unfold State.endOps
  dsimp only
  refine (foldl_view (view := State.comps) (fun s o => ?_) _ _).trans ?_
  · split
    · rfl
    · exact State.comps_beginOp _ _
  · exact foldl_view (view := State.comps) (fun s o => congrArg Maint.comps (s.markTest_maint o false)) _ s

theorem State.comps_releaseStream (s : State) (n : Nat) : (s.releaseStream n).comps = s.comps ∧ (s.releaseStream n).hub.seq = s.hub.seq := by
  unfold State.releaseStream State.nextQueued
  dsimp only
  split
  · split <;> exact ⟨rfl, rfl⟩
  · exact ⟨rfl, rfl⟩

theorem State.comps_releaseProg (s : State) (prog : Nat) : (s.releaseProg prog).comps = s.comps ∧ (s.releaseProg prog).hub.seq = s.hub.seq := by
  have kept := foldl_view (view := fun s : State => (s.comps, s.hub.seq))
    (fun s n => Prod.ext (s.comps_releaseStream n).1 (s.comps_releaseStream n).2) (s.hub.openStreams fun x => x.prog = prog) s
  exact ⟨congrArg Prod.fst kept, congrArg Prod.snd kept⟩

/-- Which slot a component runs from and what that slot holds, its trial and its activation. -/
def Component.kept (x : Component) : Bool × Bool × Bool × Nat × FwSlot := (x.useB, x.trial, x.activating, x.done, x.active)

theorem State.kept_dropDownload (s : State) (c : Nat) : (s.dropDownload.comp c).kept = (s.comp c).kept := by
  unfold State.dropDownload
  split
  · rfl
  · next d o _ =>
    by_cases here : c = d
    · subst here
      show (((s.setComp c { (s.comp c).setOther FwSlot.empty with image := [], whole := false }).comp c)).kept = _
      rw [State.comp_setComp_self]
      have slot := Component.active_setOther (s.comp c) FwSlot.empty
      obtain ⟨a, b, same⟩ := (s.comp c).setOther_frame FwSlot.empty
      rw [same] at slot ⊢
      unfold Component.kept
      exact congrArg (fun v => ((s.comp c).useB, (s.comp c).trial, (s.comp c).activating, (s.comp c).done, v)) slot
    · show (((s.setComp d { (s.comp d).setOther FwSlot.empty with image := [], whole := false }).comp c)).kept = _
      rw [State.comp_setComp_ne _ _ here]

theorem State.kept_endSession (s : State) (slot c : Nat) : ((s.endSession slot).comp c).kept = (s.comp c).kept := by
  unfold State.endSession
  split
  · exact s.kept_dropDownload c
  · rfl

theorem State.kept_islandRestart (s : State) (c : Nat) : (s.islandRestart.comp c).kept = (s.comp c).kept :=
  foldl_view (view := fun s : State => (s.comp c).kept) (fun s slot => s.kept_endSession slot c) (List.range 12) s

theorem State.dropDownload_of_none (none_ : s.maint.download = none) : s.dropDownload = s := by
  unfold State.dropDownload
  rw [none_]

/-! ### Downloads (R379, R380) -/

theorem State.fwSegment_first {w : Who} {more : Bool} {data : List Byte} (idle : s.maint.download = none) (allowed : s.fwBar = 0)
    (low : 1 ≤ (data.getD 6 0).toNat) (high : (data.getD 6 0).toNat ≤ 5) (settled : (s.comp (data.getD 6 0).toNat).trial = false)
    (still : (s.comp (data.getD 6 0).toNat).activating = false) :
    s.fwSegment w 0 more data = ((s.setComp (data.getD 6 0).toNat { (s.comp (data.getD 6 0).toNat).setOther { FwSlot.empty with st := .receiving } with
      image := data, whole := !more, done := 0 }).updMaint fun m => { m with download := some ((data.getD 6 0).toNat, w.slot) }, dOk) := by
  unfold State.fwSegment
  dsimp only
  rw [if_pos rfl, if_neg (by rw [idle]; simp), State.dropDownload_of_none idle, if_neg (not_not_intro allowed), if_neg (by omega),
    if_neg (by rw [settled, still]; decide)]

theorem State.fwSegment_next {w : Who} {more : Bool} {data : List Byte} (download : s.maint.download = some (c, w.slot))
    (part : (s.comp c).whole = false) (begun : (s.comp c).image ≠ []) :
    s.fwSegment w (s.comp c).image.length more data =
      (s.setComp c { s.comp c with image := (s.comp c).image ++ data, whole := !more }, dOk) := by
  have further : (s.comp c).image.length ≠ 0 := fun zero => begun (List.eq_nil_of_length_eq_zero zero)
  unfold State.fwSegment
  rw [if_neg further, download]
  dsimp only
  rw [if_neg (not_not_intro rfl), if_neg (by rw [part]; simp)]

theorem State.comp_fwResult (s : State) (c cause d : Nat) : (s.fwResult c cause).comp d = s.comp d := rfl

theorem exec_imageVerifyDone {i : Fin 5} (whole : (s.comp (i.val + 1)).whole = true) : ∃ t, exec (.imageVerifyDone i) s = .next t ∧
    (t.comp (i.val + 1)).other = (if fwBad (i.val + 1) (s.comp (i.val + 1)).minSvn (s.comp (i.val + 1)).image = 0
      then fwSlotOf (s.comp (i.val + 1)).image else FwSlot.empty) ∧
    (t.comp (i.val + 1)).active = (s.comp (i.val + 1)).active ∧ t.maint.download = none ∧ (t.comp (i.val + 1)).whole = false := by
  generalize verified : (if fwBad (i.val + 1) (s.comp (i.val + 1)).minSvn (s.comp (i.val + 1)).image = 0
      then fwSlotOf (s.comp (i.val + 1)).image else FwSlot.empty) = slot
  have ran : exec (.imageVerifyDone i) s = .next (((s.setComp (i.val + 1) { (s.comp (i.val + 1)).setOther slot with
      image := [], whole := false }).updMaint fun m => { m with download := none }).fwResult (i.val + 1)
        (fwBad (i.val + 1) (s.comp (i.val + 1)).minSvn (s.comp (i.val + 1)).image)) := by
    rw [← verified]
    exact congrArg Host.Outcome.next (if_neg (by rw [whole]; decide))
  have comp := s.comp_setComp_self (i.val + 1) { (s.comp (i.val + 1)).setOther slot with image := [], whole := false }
  exact ⟨_, ran, (congrArg Component.other comp).trans (Component.other_setOther _ _),
    (congrArg Component.active comp).trans (Component.active_setOther _ _), rfl, congrArg Component.whole comp⟩

/-! ### Units of an activation (R381, R383) -/

theorem State.comps_enterRebind (s : State) (g : Program) (b : List Nat) (recover result : Bool) : (s.enterRebind g b recover result).comps = s.comps :=
  State.comps_beginOp _ _

theorem State.kept_nextBatch (s : State) (d : Nat) : ((s.nextBatch).comp d).kept = (s.comp d).kept := by
  have put (u : State) (b : List Nat) (same : u.comps = s.comps) : ((u.setComp 3 { s.comp 3 with batch := b }).comp d).kept = (s.comp d).kept := by
    by_cases here : d = 3
    · subst here
      rw [State.comp_setComp_self]
      rfl
    · rw [State.comp_setComp_ne _ _ here, State.comp_of_comps same]
  unfold State.nextBatch
  dsimp only
  split
  · exact put s _ rfl
  · split
    · exact put s _ rfl
    · split
      · exact put _ _ (s.comps_enterRebind _ _ _ _)
      · exact put _ _ rfl

/-- The beginning of a unit leaves every component's slots, trial and activation as they are. -/
theorem State.kept_beginUnit (s : State) (c i d : Nat) : ((s.beginUnit c i).comp d).kept = (s.comp d).kept := by
  unfold State.beginUnit
  split
  · exact s.kept_islandRestart d
  · rfl
  · exact s.kept_nextBatch d
  · rfl
  · rw [State.comp_of_comps (State.comps_endOps _ _)]
    rfl
  · rfl

theorem State.endBatch_effect (s : State) : s.endBatch.comp 3 = { s.comp 3 with
      rtNew := (s.comp 3).rtNew ++ (s.comp 3).batch.filter (fun c => decide (c ∉ (s.comp 3).rtNew)), batch := [] } ∧
    s.endBatch.hub.seq = s.hub.seq := by
  unfold State.endBatch
  dsimp only
  generalize batched : s.setComp 3 { s.comp 3 with
    rtNew := (s.comp 3).rtNew ++ (s.comp 3).batch.filter (fun c => decide (c ∉ (s.comp 3).rtNew)), batch := [] } = s1
  have kept := fun gs : List Program => foldl_view (view := fun s : State => (s.comps, s.hub.seq)) (f := fun s g => s.releaseProg g.handle)
    (fun s g => Prod.ext (s.comps_releaseProg g.handle).1 (s.comps_releaseProg g.handle).2) gs s1
  refine ⟨(State.comp_of_comps (congrArg Prod.fst (kept _)) 3).trans ?_, (congrArg Prod.snd (kept _)).trans ?_⟩
  · rw [← batched]
    exact State.comp_setComp_self _ _ _
  · rw [← batched]
    rfl

theorem State.comps_pump (s : State) (p : Nat) : (s.pump p).comps = s.comps ∧ (s.pump p).hub.seq = s.hub.seq :=
  ⟨show (s.pump p).linkless.maint.comps = s.linkless.maint.comps by rw [s.linkless_pump p],
    congrArg (fun h : Hub => h.seq) (State.hub_of_linkless (s.linkless_pump p))⟩

/-- The end of a unit: the component stays as it is, but for the cores of a batch, and nothing is journalled. -/
theorem State.endUnit_effect (s : State) (c i : Nat) : (∃ b, (s.endUnit c i).comp c = { s.comp c with
      rtNew := if c = 3 then (s.comp c).rtNew ++ (s.comp c).batch.filter (fun j => decide (j ∉ (s.comp c).rtNew)) else (s.comp c).rtNew, batch := b }) ∧
    (s.endUnit c i).hub.seq = s.hub.seq := by
  by_cases core : c = 3
  · subst core
    obtain ⟨comp, seq⟩ := s.endBatch_effect
    exact ⟨⟨[], comp⟩, seq⟩
  · have same : (s.endUnit c i).comps = s.comps ∧ (s.endUnit c i).hub.seq = s.hub.seq := by
      unfold State.endUnit
      split
      · exact ⟨rfl, rfl⟩
      · exact absurd rfl core
      · exact ⟨rfl, rfl⟩
      · dsimp only
        split
        · exact ⟨(State.comps_pump _ i).1, (State.comps_pump _ i).2⟩
        · exact ⟨rfl, rfl⟩
      · exact ⟨rfl, rfl⟩
    refine ⟨⟨(s.comp c).batch, ?_⟩, same.2⟩
    rw [State.comp_of_comps same.1, if_neg core]

/-! ### Activation (R381 to R383) -/

theorem State.actActivate_begins (allowed : s.fwBar = 0) (calm : ∀ d, 1 ≤ d → d ≤ 5 → (s.comp d).activating = false ∧ (s.comp d).trial = false)
    (ready : (s.comp c).other.st = .valid ∨ (s.comp c).other.st = .partially) (compatible : s.compatOk c = true)
    (free : s.maint.blocker (actOp c) = none) (powered : c = 4 → s.power.pdOn = 0xF#4) :
    s.actActivate c =
      (((s.beginOp (actOp c)).setComp c { s.comp c with activating := true, stop := false }).beginUnit c (s.comp c).done, dInProgress) := by
  have settled : ([1, 2, 3, 4, 5].any fun d => (s.comp d).activating || (s.comp d).trial) = false := by
    rw [List.any_eq_false]
    intro d member
    have inside : 1 ≤ d ∧ d ≤ 5 := by
      simp only [List.mem_cons, List.not_mem_nil, or_false] at member
      omega
    rw [(calm d inside.1 inside.2).1, (calm d inside.1 inside.2).2]
    decide
  unfold State.actActivate
  dsimp only
  rw [if_neg (not_not_intro allowed), if_neg (by rw [settled]; decide), if_neg (fun both => ready.elim both.1 both.2),
    if_neg (by rw [compatible]; decide), free]
  dsimp only
  rw [if_neg fun both => both.2 (powered both.1)]

/-- A component whose last unit is done runs from its new slot, in trial (R384). -/
theorem State.fwInstalled_effect (s : State) (c : Nat) : ((s.fwInstalled c).comp c).useB = !(s.comp c).useB ∧
    ((s.fwInstalled c).comp c).trial = true ∧ ((s.fwInstalled c).comp c).activating = false ∧
    ((s.fwInstalled c).comp c).active.ver = (s.comp c).other.ver ∧ ((s.fwInstalled c).comp c).active.st = .trial ∧
    ((s.fwInstalled c).comp c).other.st = .valid ∧ ((s.fwInstalled c).comp c).other.ver = (s.comp c).active.ver := by
  generalize set_ : ((s.comp c).setOther { (s.comp c).other with st := .trial }).setActive { (s.comp c).active with st := .valid } = y
  have comp : (s.fwInstalled c).comp c =
      { y with useB := !(s.comp c).useB, trial := true, activating := false, done := 0, stop := false, rtNew := [], batch := [] } := by
    rw [← set_]
    exact State.comp_setComp_self _ _ _
  have use : y.useB = (s.comp c).useB := by
    obtain ⟨_, _, outer⟩ := ((s.comp c).setOther { (s.comp c).other with st := .trial }).setActive_frame { (s.comp c).active with st := .valid }
    obtain ⟨_, _, inner⟩ := (s.comp c).setOther_frame { (s.comp c).other with st := .trial }
    rw [← set_, outer, inner]
  have active : y.active = { (s.comp c).active with st := .valid } := by
    rw [← set_, Component.active_setActive]
  have other : y.other = { (s.comp c).other with st := .trial } := by
    rw [← set_, Component.other_setActive, Component.other_setOther]
  obtain ⟨now, old⟩ := Component.flip_slots (x := y)
    (y := { y with useB := !(s.comp c).useB, trial := true, activating := false, done := 0, stop := false, rtNew := [], batch := [] })
    (by rw [use]) rfl rfl
  rw [comp, now, old, active, other]
  exact ⟨rfl, rfl, rfl, rfl, rfl, rfl, rfl⟩

theorem State.fwPartial_effect (s : State) (c : Nat) : ((s.fwPartial c).comp c).activating = false ∧
    ((s.fwPartial c).comp c).done = (s.comp c).done ∧ ((s.fwPartial c).comp c).other.st = .partially := by
  have comp : (s.fwPartial c).comp c =
      { (s.comp c).setOther { (s.comp c).other with st := .partially } with activating := false, stop := false } :=
    State.comp_setComp_self _ _ _
  have slot := Component.other_setOther (s.comp c) { (s.comp c).other with st := .partially }
  obtain ⟨a, b, same⟩ := (s.comp c).setOther_frame { (s.comp c).other with st := .partially }
  rw [comp]
  refine ⟨rfl, ?_, congrArg FwSlot.st slot⟩
  rw [same]

/-- The state in which a unit of a component is done. -/
def State.unitDone (s : State) (c : Nat) : State :=
  (s.endUnit c (s.comp c).done).setComp c { (s.endUnit c (s.comp c).done).comp c with done := (s.comp c).done + 1 }

theorem State.comp_unitDone (s : State) (c : Nat) : ∃ rt b, (s.unitDone c).comp c =
    { s.comp c with rtNew := rt, batch := b, done := (s.comp c).done + 1 } := by
  obtain ⟨⟨b, comp⟩, -⟩ := s.endUnit_effect c (s.comp c).done
  generalize (if c = 3 then (s.comp c).rtNew ++ (s.comp c).batch.filter (fun j => decide (j ∉ (s.comp c).rtNew)) else (s.comp c).rtNew) = rt at comp
  refine ⟨rt, b, ?_⟩
  unfold State.unitDone
  rw [State.comp_setComp_self, comp]

/-- The last unit: for the core runtime, every core runs the new version or is of the batch. -/
theorem State.unitsOver_unitDone (s : State) (c : Nat) : (s.unitDone c).unitsOver c = true ↔
    if c = 3 then ∀ j, j < 80 → j ∈ (s.comp c).rtNew ∨ j ∈ (s.comp c).batch else unitsOf c ≤ (s.comp c).done + 1 := by
  obtain ⟨⟨b, comp⟩, -⟩ := s.endUnit_effect c (s.comp c).done
  unfold State.unitsOver State.unitDone
  dsimp only
  rw [State.comp_setComp_self, comp]
  by_cases core : c = 3
  · rw [if_pos core, if_pos core, if_pos core, List.all_eq_true]
    refine forall_congr' fun j => ?_
    rw [List.mem_range]
    refine imp_congr_right fun _ => ?_
    by_cases member : j ∈ (s.comp c).rtNew <;> simp [member]
  · rw [if_neg core, if_neg core, if_neg core]
    exact decide_eq_true_iff (p := unitsOf c ≤ (s.comp c).done + 1)

theorem exec_activationUnitDone {i : Fin 5} (activates : (s.comp (i.val + 1)).activating = true) (ready : s.unitReady (i.val + 1) = true) :
    exec (.activationUnitDone i) s = .next (if (s.unitDone (i.val + 1)).unitsOver (i.val + 1) then (s.unitDone (i.val + 1)).fwInstalled (i.val + 1)
      else if ((s.unitDone (i.val + 1)).comp (i.val + 1)).stop ∨ (i.val + 1 = 4 ∧ (s.unitDone (i.val + 1)).power.pdOn ≠ 0xF#4) then
        (s.unitDone (i.val + 1)).fwPartial (i.val + 1)
      else (s.unitDone (i.val + 1)).beginUnit (i.val + 1) ((s.comp (i.val + 1)).done + 1)) :=
  congrArg Host.Outcome.next (if_neg (by rw [activates, ready]; decide))

theorem activationUnitDone_last {i : Fin 5} (activates : (s.comp (i.val + 1)).activating = true) (ready : s.unitReady (i.val + 1) = true)
    (last : (s.unitDone (i.val + 1)).unitsOver (i.val + 1) = true) : ∃ t, exec (.activationUnitDone i) s = .next t ∧
      (t.comp (i.val + 1)).useB = !(s.comp (i.val + 1)).useB ∧ (t.comp (i.val + 1)).trial = true ∧ (t.comp (i.val + 1)).activating = false ∧
      (t.comp (i.val + 1)).active.ver = (s.comp (i.val + 1)).other.ver ∧ (t.comp (i.val + 1)).active.st = .trial ∧
      (t.comp (i.val + 1)).other.st = .valid ∧ (t.comp (i.val + 1)).other.ver = (s.comp (i.val + 1)).active.ver := by
  have effect := (s.unitDone (i.val + 1)).fwInstalled_effect (i.val + 1)
  obtain ⟨rt, b, comp⟩ := s.comp_unitDone (i.val + 1)
  rw [comp] at effect
  exact ⟨_, (exec_activationUnitDone activates ready).trans (congrArg Host.Outcome.next (if_pos last)), effect⟩

theorem activationUnitDone_stopped {i : Fin 5} (activates : (s.comp (i.val + 1)).activating = true) (ready : s.unitReady (i.val + 1) = true)
    (last : ¬(s.unitDone (i.val + 1)).unitsOver (i.val + 1) = true)
    (stops : (s.comp (i.val + 1)).stop = true ∨ ¬(i.val + 1 = 4 → s.power.pdOn ||| BitVec.ofNat 4 (2 ^ (s.comp (i.val + 1)).done) = 0xF#4)) :
    ∃ t, exec (.activationUnitDone i) s = .next t ∧ (t.comp (i.val + 1)).activating = false ∧
      (t.comp (i.val + 1)).done = (s.comp (i.val + 1)).done + 1 ∧ (t.comp (i.val + 1)).other.st = .partially := by
  obtain ⟨rt, b, comp⟩ := s.comp_unitDone (i.val + 1)
  have asked : ((s.unitDone (i.val + 1)).comp (i.val + 1)).stop ∨ (i.val + 1 = 4 ∧ (s.unitDone (i.val + 1)).power.pdOn ≠ 0xF#4) := by
    refine stops.imp (fun stop => ?_) fun missing => ?_
    · rw [comp]
      exact stop
    · obtain ⟨power, low⟩ := Classical.not_imp.1 missing
      rw [power] at low ⊢
      exact ⟨rfl, low⟩
  obtain ⟨ended, done, slot⟩ := (s.unitDone (i.val + 1)).fwPartial_effect (i.val + 1)
  rw [comp] at done
  exact ⟨_, (exec_activationUnitDone activates ready).trans (congrArg Host.Outcome.next ((if_neg last).trans (if_pos asked))), ended, done, slot⟩

theorem activationUnitDone_next {i : Fin 5} (activates : (s.comp (i.val + 1)).activating = true) (ready : s.unitReady (i.val + 1) = true)
    (last : ¬(s.unitDone (i.val + 1)).unitsOver (i.val + 1) = true) (goes : (s.comp (i.val + 1)).stop = false)
    (four : i.val + 1 = 4 → s.power.pdOn ||| BitVec.ofNat 4 (2 ^ (s.comp (i.val + 1)).done) = 0xF#4) :
    ∃ t, exec (.activationUnitDone i) s = .next t ∧ (t.comp (i.val + 1)).activating = true ∧
      (t.comp (i.val + 1)).done = (s.comp (i.val + 1)).done + 1 := by
  obtain ⟨rt, b, comp⟩ := s.comp_unitDone (i.val + 1)
  have runs : ¬(((s.unitDone (i.val + 1)).comp (i.val + 1)).stop ∨ (i.val + 1 = 4 ∧ (s.unitDone (i.val + 1)).power.pdOn ≠ 0xF#4)) := by
    rintro (stop | ⟨power, missing⟩)
    · rw [comp] at stop
      exact absurd (goes.symm.trans stop) (by decide)
    · have all := four power
      rw [power] at all missing
      exact missing all
  have kept := (s.unitDone (i.val + 1)).kept_beginUnit (i.val + 1) ((s.comp (i.val + 1)).done + 1) (i.val + 1)
  rw [comp] at kept
  refine ⟨_, (exec_activationUnitDone activates ready).trans (congrArg Host.Outcome.next ((if_neg last).trans (if_neg runs))),
    (congrArg (fun v : Bool × Bool × Bool × Nat × FwSlot => v.2.2.1) kept).trans activates,
    congrArg (fun v : Bool × Bool × Bool × Nat × FwSlot => v.2.2.2.1) kept⟩

/-! ### Trials and reverts (R384) -/

theorem State.fwConfirm_effect (trial : (s.comp c).trial = true) : (s.fwConfirm c).2 = dOk ∧ ((s.fwConfirm c).1.comp c).trial = false ∧
    ((s.fwConfirm c).1.comp c).active.st = .active ∧ ((s.fwConfirm c).1.comp c).minSvn = max (s.comp c).minSvn (s.comp c).active.svn ∧
    ((s.fwConfirm c).1.comp c).useB = (s.comp c).useB := by
  generalize set_ : (s.comp c).setActive { (s.comp c).active with st := .active } = y
  obtain ⟨a, b, same⟩ := (s.comp c).setActive_frame { (s.comp c).active with st := .active }
  have use : y.useB = (s.comp c).useB := by
    rw [← set_, same]
  have slot : y.active.st = .active := by
    rw [← set_, Component.active_setActive]
  have comp : (s.fwConfirm c).1.comp c = { y with trial := false, minSvn := max (s.comp c).minSvn (s.comp c).active.svn } ∧
      (s.fwConfirm c).2 = dOk := by
    unfold State.fwConfirm
    dsimp only
    rw [if_pos trial, ← set_]
    exact ⟨State.comp_setComp_self _ _ _, rfl⟩
  rw [comp.1]
  exact ⟨comp.2, rfl, slot, rfl, use⟩

/-- A component taken back to its old slot (R384). -/
theorem State.fwBack_effect (trial : (s.comp c).trial = true) : ((s.fwBack c).comp c).useB = !(s.comp c).useB ∧
    ((s.fwBack c).comp c).trial = false ∧ ((s.fwBack c).comp c).active.st = .active ∧ (s.fwBack c).hub = s.hub := by
  generalize set_ : ((s.comp c).setActive { (s.comp c).active with st := .valid }).setOther { (s.comp c).other with st := .active } = y
  have ran : s.fwBack c = (s.setComp c { y with useB := !(s.comp c).useB, trial := false, rtNew := [], batch := [] }).updMaint fun m =>
      { m with storeWrites := m.storeWrites + 1 } := by
    rw [← set_]
    exact if_pos trial
  have comp := s.comp_setComp_self c { y with useB := !(s.comp c).useB, trial := false, rtNew := [], batch := [] }
  have use : y.useB = (s.comp c).useB := by
    obtain ⟨_, _, outer⟩ := ((s.comp c).setActive { (s.comp c).active with st := .valid }).setOther_frame { (s.comp c).other with st := .active }
    obtain ⟨_, _, inner⟩ := (s.comp c).setActive_frame { (s.comp c).active with st := .valid }
    rw [← set_, outer, inner]
  have other : y.other = { (s.comp c).other with st := .active } := by
    rw [← set_, Component.other_setOther]
  obtain ⟨now, -⟩ := Component.flip_slots (x := y) (y := { y with useB := !(s.comp c).useB, trial := false, rtNew := [], batch := [] })
    (by rw [use]) rfl rfl
  rw [ran]
  refine ⟨congrArg Component.useB comp, congrArg Component.trial comp, (congrArg (fun x : Component => x.active.st) comp).trans ?_, rfl⟩
  rw [now, other]

/-- REVERT: the component runs from its old slot again. -/
theorem State.fwRevert_effect (trial : (s.comp c).trial = true) : (s.fwRevert c).2 = dOk ∧ ((s.fwRevert c).1.comp c).useB = !(s.comp c).useB ∧
    ((s.fwRevert c).1.comp c).trial = false ∧ ((s.fwRevert c).1.comp c).active.st = .active := by
  have ran : s.fwRevert c = (if c = 1 then (s.fwBack c).islandRestart else if c = 2 then (s.fwBack c).beginUnit 2 0 else s.fwBack c, dOk) := if_pos trial
  obtain ⟨use, over_, slot, -⟩ := State.fwBack_effect trial
  have kept : ((s.fwRevert c).1.comp c).kept = ((s.fwBack c).comp c).kept := by
    rw [ran]
    dsimp only
    split
    · exact State.kept_islandRestart _ _
    · split
      · exact State.kept_beginUnit _ _ _ _
      · rfl
  refine ⟨by rw [ran], (congrArg (fun v : Bool × Bool × Bool × Nat × FwSlot => v.1) kept).trans use,
    (congrArg (fun v : Bool × Bool × Bool × Nat × FwSlot => v.2.1) kept).trans over_,
    (congrArg (fun v : Bool × Bool × Bool × Nat × FwSlot => v.2.2.2.2.st) kept).trans slot⟩

theorem State.comp_journalDev (s : State) (code : Byte) (sk si : Nat) (d : W64) (c : Nat) : (s.journalDev code sk si d).comp c = s.comp c := by
  refine State.comp_of_comps ?_ c
  unfold State.comps
  rw [State.journalDev_maint]

theorem unitStartTimeout_trial {i : Fin 5} (trial : (s.comp (i.val + 1)).trial = true) (still : (s.comp (i.val + 1)).activating = false) :
    ∃ t, exec (.unitStartTimeout i) s = .next t ∧ (t.comp (i.val + 1)).useB = !(s.comp (i.val + 1)).useB ∧
      (t.comp (i.val + 1)).trial = false ∧ t.hub.seq = s.hub.seq + 1 := by
  obtain ⟨use, over_, -, hub⟩ := State.fwBack_effect trial
  have ran : exec (.unitStartTimeout i) s = .next ((s.fwBack (i.val + 1)).journalDev 0xC7 7 (i.val + 1) (Config.causeCode 8)) :=
    congrArg Host.Outcome.next ((if_neg (by rw [still]; decide)).trans (if_pos trial))
  obtain ⟨-, seq, -⟩ := (s.fwBack (i.val + 1)).journalDev_tables 0xC7 7 (i.val + 1) (Config.causeCode 8)
  refine ⟨_, ran, ?_, ?_, ?_⟩
  · rw [State.comp_journalDev, use]
  · rw [State.comp_journalDev, over_]
  · rw [seq, hub]

theorem unitStartTimeout_activating {i : Fin 5} (activates : (s.comp (i.val + 1)).activating = true) : ∃ t, exec (.unitStartTimeout i) s = .next t ∧
    (t.comp (i.val + 1)).activating = false ∧ (t.comp (i.val + 1)).done = 0 ∧ t.hub.seq = s.hub.seq + 1 := by
  generalize left : (if i.val + 1 = 2 then s else s.endUnit (i.val + 1) (s.comp (i.val + 1)).done) = s0
  have seq0 : s0.hub.seq = s.hub.seq := by
    rw [← left]
    split
    · rfl
    · exact (s.endUnit_effect _ _).2
  generalize ended : (s0.endOps fun o => decide (o.kind = .activation) && decide (o.comp = some (i.val + 1))) = s1
  have ran : exec (.unitStartTimeout i) s = .next ((s1.setComp (i.val + 1) { s.comp (i.val + 1) with
      activating := false, stop := false, done := 0, rtNew := [], batch := [] }).journalDev 0xC7 7 (i.val + 1) (Config.causeCode 8)) := by
    rw [← ended, ← left]
    exact congrArg Host.Outcome.next (if_pos activates)
  have hub : s1.hub = s0.hub := by
    rw [← ended]
    exact State.hub_endOps _ _
  refine ⟨_, ran, ?_, ?_, ?_⟩
  · rw [State.comp_journalDev, State.comp_setComp_self]
  · rw [State.comp_journalDev, State.comp_setComp_self]
  · rw [(State.journalDev_tables _ _ _ _ _).2.1, ← seq0, ← hub]
    rfl

/-- A download aborted: its slot is EMPTY (R380). -/
theorem State.actFirmware_abort {c : BitVec 8} {k : Nat} (download : s.maint.download = some (c.toNat, k)) (low : 1 ≤ c.toNat) (high : c.toNat ≤ 5) :
    (s.actFirmware [4, c]).2 = dOk ∧ (s.actFirmware [4, c]).1.maint.download = none ∧ ((s.actFirmware [4, c]).1.comp c.toNat).other = FwSlot.empty := by
  have drops : s.dropDownload = (s.setComp c.toNat { (s.comp c.toNat).setOther FwSlot.empty with image := [], whole := false }).updMaint fun m =>
      { m with download := none } := by
    unfold State.dropDownload
    rw [download]
  have ran : s.actFirmware [4, c] = (s.dropDownload, dOk) := by
    refine (if_neg (show ¬(c.toNat = 0 ∨ 5 < c.toNat) by omega)).trans (if_pos ?_)
    rw [download]
    exact decide_eq_true rfl
  rw [ran, drops]
  refine ⟨rfl, rfl, ?_⟩
  have comp := s.comp_setComp_self c.toNat { (s.comp c.toNat).setOther FwSlot.empty with image := [], whole := false }
  exact (congrArg Component.other comp).trans (Component.other_setOther _ _)

/-- Settles O55: what begins and ends with a unit leaves a component's slots (`State.kept_beginUnit`, `State.endUnit_effect`). -/
theorem firmwareUpdate : Obligations.FirmwareUpdate := by
  refine ⟨?_, ?_, ?_, fun s i whole => exec_imageVerifyDone whole, ?_, ?_, ?_, ?_, fun s i activates => unitStartTimeout_activating activates, ?_, ?_⟩
  · intro s f slot x asks op index sub type passes
    refine congrArg Host.Outcome.next ((if_pos ⟨op, index, sub⟩).trans ((State.receive_of_requests asks _).trans ?_))
    dsimp only
    rw [if_neg (not_not_intro passes), if_neg (not_not_intro type)]
  · intro s w more data idle allowed c low high settled still
    have comp := s.comp_setComp_self c { (s.comp c).setOther { FwSlot.empty with st := .receiving } with image := data, whole := !more, done := 0 }
    rw [State.fwSegment_first idle allowed low high settled still]
    exact ⟨rfl, rfl, congrArg Component.image comp, congrArg Component.whole comp,
      congrArg FwSlot.st ((congrArg Component.other comp).trans (Component.other_setOther (s.comp c) _)),
      (congrArg Component.active comp).trans (Component.active_setOther (s.comp c) _)⟩
  · intro s w more data c download part begun
    rw [State.fwSegment_next download part begun]
    exact ⟨rfl, congrArg Component.image (s.comp_setComp_self c _)⟩
  · intro s c allowed calm ready compatible free low high powered
    rw [State.actActivate_begins allowed calm ready compatible free powered]
    refine ⟨rfl, ?_⟩
    have kept := ((s.beginOp (actOp c)).setComp c { s.comp c with activating := true, stop := false }).kept_beginUnit c (s.comp c).done c
    rw [State.comp_setComp_self] at kept
    exact congrArg (fun v : Bool × Bool × Bool × Nat × FwSlot => v.2.2.1) kept
  · intro s c barred
    have refused : s.actActivate c = s.fwRefuse c s.fwBar := if_pos barred
    rw [refused]
    exact ⟨rfl, rfl, rfl⟩
  · intro s i activates
    dsimp only
    refine ⟨fun waits => congrArg Host.Outcome.next (if_pos (.inr waits)), fun ready => ⟨fun last => ?_, fun last stops => ?_, fun last goes four => ?_⟩⟩
    · exact activationUnitDone_last activates ready ((s.unitsOver_unitDone _).2 last)
    · exact activationUnitDone_stopped activates ready (fun all => last ((s.unitsOver_unitDone _).1 all)) stops
    · exact activationUnitDone_next activates ready (fun all => last ((s.unitsOver_unitDone _).1 all)) goes four
  · intro s i trial
    dsimp only
    obtain ⟨answer, confirmed⟩ := State.fwConfirm_effect trial
    obtain ⟨reverted, back⟩ := State.fwRevert_effect trial
    exact ⟨⟨_, rfl, confirmed⟩, answer, reverted, back.1, back.2.1, back.2.2, fun still => unitStartTimeout_trial trial still⟩
  · exact fun s c settled => ⟨if_neg (by rw [settled]; decide), if_neg (by rw [settled]; decide)⟩
  · exact fun s c k download low high => State.actFirmware_abort download low high

end

end Sys2Proof.Machine

/-! PROOFS. The steps of boot and the test access port (R371 to R373, R391, R397 steps 4 to 7, Table 14.6). -/

namespace Sys2Proof.Machine

section

variable {s t : State} {c m k : Nat}

/-- What the step of one element establishes holds after the whole fold, where every other step keeps it and what it needs. -/
theorem foldl_of_mem {α β : Type} {before after : α → Prop} {f : α → β → α} {x : β} (does : ∀ a, before a → after (f a x))
    (kept : ∀ a y, after a → after (f a y)) (ready : ∀ a y, y ≠ x → before a → before (f a y)) (xs : List β) (member : x ∈ xs) :
    ∀ a, before a → after (xs.foldl f a) := by
  induction xs with
  | nil => exact absurd member List.not_mem_nil
  | cons y ys ih =>
    intro a start
    by_cases this : y = x
    · subst this
      exact List.foldlRecOn ys f (does a start) fun b held z _ => kept b z held
    · exact ih ((List.mem_cons.1 member).resolve_left (Ne.symm this)) _ (ready a y this start)

theorem Sparse.find?_of_not_listed {α : Type} (l : Sparse α) (absent : k ∉ l.map (·.1)) : Sparse.find? l k = none := by
  induction l with
  | nil => rfl
  | cons e rest ih =>
    rw [List.map_cons, List.mem_cons, not_or] at absent
    exact (if_neg (Ne.symm absent.1)).trans (ih absent.2)

/-! ### The cores and macros that a boot march tests (step 5, R372) -/

/-- The cores of the dies that run. -/
def State.marchCores (s : State) : List Nat := (List.range 80).filter fun c => (s.die (coreDie c)).runs

theorem State.mem_marchCores : c ∈ s.marchCores ↔ c < 80 ∧ (s.die (coreDie c)).runs = true := by
  unfold State.marchCores
  rw [List.mem_filter, List.mem_range]

/-- A tested core's scratchpad. -/
def State.marchPad (s : State) (c : Nat) : State := s.updCore c fun k => { k with sp := [], badLanes := [] }

/-- A tested macro of which nothing fails. -/
def State.marchMac (cs : List Nat) (s : State) (k : Nat) : State :=
  if k / 72 ∈ cs then
    (let t := s.updMac (k / 72) (k % 72) fun x => { x with rows := [], uGen := none }
     if (t.mac (k / 72) (k % 72)).st = .retired ∧ decide ((k / 72, 1, k % 72) ∈ ([] : List (Nat × Nat × Nat))) = false then
       t.macroTested (k / 72) (k % 72) 1 [] true else t)
  else s

theorem macKey_split (k : Nat) : macKey (k / 72) (k % 72) = k := Nat.div_add_mod k 72

theorem macKey_div (inside : m < 72) : macKey c m / 72 = c ∧ macKey c m % 72 = m := by
  unfold macKey
  omega

theorem State.core_marchPad (s : State) (b : Nat) : ((s.marchPad b).core c).sp = if c = b then [] else (s.core c).sp := by
  unfold State.marchPad
  by_cases same : c = b
  · subst same
    rw [if_pos rfl, State.core_updCore_self]
  · rw [if_neg same, State.core_updCore_ne _ _ same]

/-- A RETIRED macro that passes a destructive test is OFFLINE again (R373). -/
theorem State.macroTested_pass (passed : (s.mac c m).st = .retired) : s.macroTested c m 1 [] true =
    (s.updMac c m fun k => { k with st := .offline }).retireRecord (macKey c m) false := by
  unfold State.macroTested
  rw [if_pos rfl, if_pos ⟨by decide, passed⟩]

theorem State.cores_marchMac (cs : List Nat) (s : State) (k : Nat) : (s.marchMac cs k).cores = s.cores := by
  unfold State.marchMac
  split
  · dsimp only
    split
    next retired =>
      rw [State.macroTested_pass retired.1]
      rfl
    · rfl
  · rfl

/-- Another macro stays as it is. -/
theorem State.mac_marchMac_ne {cs : List Nat} (s : State) (apart : k ≠ macKey c m) : (s.marchMac cs k).mac c m = s.mac c m := by
  have other : macKey c m ≠ macKey (k / 72) (k % 72) := fun same => apart (same.trans (macKey_split k)).symm
  unfold State.marchMac
  split
  · dsimp only
    split
    next retired =>
      rw [State.macroTested_pass retired.1]
      exact (State.mac_setMac_ne _ _ other).trans (State.mac_setMac_ne _ _ other)
    · exact State.mac_setMac_ne _ _ other
  · rfl

/-- The macro itself: its rows are gone, and RETIRED ends. -/
theorem State.mac_marchMac_self {cs : List Nat} (s : State) (inside : m < 72) (tested : c ∈ cs) :
    ((s.marchMac cs (macKey c m)).mac c m).rows = [] ∧
    ((s.marchMac cs (macKey c m)).mac c m).st = if (s.mac c m).st = .retired then .offline else (s.mac c m).st := by
  unfold State.marchMac
  rw [(macKey_div inside).1, (macKey_div inside).2, if_pos tested]
  dsimp only
  by_cases retired : (s.mac c m).st = .retired
  · have now : ((s.updMac c m fun x => { x with rows := [], uGen := none }).mac c m).st = .retired := by
      rw [State.mac_updMac_self]
      exact retired
    rw [if_pos ⟨now, by simp⟩, State.macroTested_pass now, if_pos retired]
    have once := State.mac_updMac_self s c m fun x => { x with rows := [], uGen := none }
    have twice := State.mac_updMac_self (s.updMac c m fun x => { x with rows := [], uGen := none }) c m fun k => { k with st := .offline }
    exact ⟨(congrArg MacroState.rows twice).trans (congrArg MacroState.rows once), congrArg MacroState.st twice⟩
  · rw [if_neg (fun both => retired ((congrArg MacroState.st (State.mac_updMac_self s c m _)).symm.trans both.1)), if_neg retired, State.mac_updMac_self]
    exact ⟨rfl, rfl⟩

theorem MacroState.reset_blank (m : Nat) : (MacroState.reset m).rows = [] ∧ (MacroState.reset m).st ≠ .retired := by
  unfold MacroState.reset
  refine ⟨rfl, ?_⟩
  dsimp only
  split <;> decide

/-- After the march over every macro with a record: rows gone, none RETIRED. -/
theorem State.mac_marched {cs : List Nat} (inside : m < 72) (tested : c ∈ cs) :
    let t := (s.macros.map (·.1)).foldl (State.marchMac cs) s
    (t.mac c m).rows = [] ∧ ((s.mac c m).st = .retired → (t.mac c m).st = .offline) := by
  by_cases member : macKey c m ∈ s.macros.map (·.1)
  · refine foldl_of_mem (before := fun a : State => a.mac c m = s.mac c m)
      (after := fun a : State => (a.mac c m).rows = [] ∧ ((s.mac c m).st = .retired → (a.mac c m).st = .offline))
      (fun a same => ?_) (fun a k held => ?_) (fun a k apart same => (a.mac_marchMac_ne apart).trans same) _ member s rfl
    · obtain ⟨rows, st⟩ := a.mac_marchMac_self inside tested
      exact ⟨rows, fun retired => st.trans (if_pos (by rw [same]; exact retired))⟩
    · by_cases this : k = macKey c m
      · subst this
        obtain ⟨rows, st⟩ := a.mac_marchMac_self inside tested
        refine ⟨rows, fun retired => st.trans ?_⟩
        rw [if_neg (by rw [held.2 retired]; decide), held.2 retired]
      · rw [a.mac_marchMac_ne this]
        exact held
  · have blank : s.mac c m = MacroState.reset m := by
      have absent : Sparse.find? s.macros (macKey c m) = none := Sparse.find?_of_not_listed _ member
      unfold State.mac Sparse.get
      rw [absent]
      rfl
    have same : ((s.macros.map (·.1)).foldl (State.marchMac cs) s).mac c m = s.mac c m :=
      List.foldlRecOn (motive := fun a : State => a.mac c m = s.mac c m) _ _ rfl fun a held k listed =>
        (a.mac_marchMac_ne fun this => member (this ▸ listed)).trans held
    dsimp only
    rw [same, blank]
    exact ⟨(MacroState.reset_blank m).1, fun retired => absurd retired (MacroState.reset_blank m).2⟩

/-! ### The march over the whole package -/

theorem State.not_excluded_readmit (s : State) (c : Nat) : c ∉ (s.readmit c).maint.excluded := by
  show c ∉ s.maint.excluded.filter fun x => decide (x ≠ c)
  simp

/-- The state after a boot march that finds nothing. -/
def State.marched (s : State) : State :=
  let s1 := s.marchCores.foldl State.marchPad s
  let s2 := (s1.macros.map (·.1)).foldl (State.marchMac s.marchCores) s1
  let s4 := s.marchCores.foldl State.readmit (s2.updHub fun h => { h with commons := [] })
  ((List.range 20).filter fun d => (s.die d).runs).foldl State.marchPassed s4

theorem exec_bootMarchDone (on : s.power.st = .on) (before : s.hub.inService = false) (asked : s.mgmt.obj 0x9000 1 ≠ 0) :
    exec (.bootMarchDone []) s = .next s.marched := by
  have ran : exec (.bootMarchDone []) s = .next (((List.range 20).filter fun d => (s.die d).runs && !false).foldl State.marchPassed
      ((s.marchCores.filter fun _ => !false).foldl State.readmit
        ((((s.marchCores.foldl State.marchPad s).macros.map (·.1)).foldl (State.marchMac s.marchCores) (s.marchCores.foldl State.marchPad s)).updHub
          fun h => { h with commons := [] }))) :=
    congrArg Host.Outcome.next (if_neg (by rw [on, before]; exact fun bad => bad.elim (fun off => off rfl) (fun rest => rest.elim (by decide) asked)))
  rw [ran]
  simp only [Bool.not_false, Bool.and_true, List.filter_true]
  rfl

theorem State.marched_effect (s : State) : s.marched.hub.commons = [] ∧ ∀ c, c < 80 → (s.die (coreDie c)).runs = true →
    (s.marched.core c).sp = [] ∧ c ∉ s.marched.maint.excluded ∧
      ∀ m, m < 72 → (s.marched.mac c m).rows = [] ∧ ((s.mac c m).st = .retired → (s.marched.mac c m).st = .offline) := by
  unfold State.marched
  generalize padded : s.marchCores.foldl State.marchPad s = s1
  have macros : s1.macros = s.macros := by
    rw [← padded]
    exact foldl_view (view := fun a : State => a.macros) (by intro a x; rfl) _ _
  dsimp only
  generalize macs : (s1.macros.map (·.1)).foldl (State.marchMac s.marchCores) s1 = s2
  have cores : s2.cores = s1.cores := by
    rw [← macs]
    exact foldl_view (view := fun a : State => a.cores) (State.cores_marchMac _) _ _
  generalize readmitted : s.marchCores.foldl State.readmit (s2.updHub fun h => { h with commons := [] }) = s4
  have kept : (s4.cores, s4.macros, s4.hub) = (s2.cores, s2.macros, { s2.hub with commons := [] }) := by
    rw [← readmitted]
    exact foldl_view (view := fun a : State => (a.cores, a.macros, a.hub)) (by intro a x; rfl) _ _
  have last := foldl_view (view := fun a : State => (a.cores, a.macros, a.hub, a.maint)) (f := State.marchPassed) (by intro a x; rfl)
    ((List.range 20).filter fun d => (s.die d).runs) s4
  generalize ((List.range 20).filter fun d => (s.die d).runs).foldl State.marchPassed s4 = t at last ⊢
  obtain ⟨cores4, macros4, hub4⟩ : s4.cores = s2.cores ∧ s4.macros = s2.macros ∧ s4.hub = { s2.hub with commons := [] } := by
    simpa only [Prod.mk.injEq] using kept
  obtain ⟨coresT, macrosT, hubT, maintT⟩ : t.cores = s4.cores ∧ t.macros = s4.macros ∧ t.hub = s4.hub ∧ t.maint = s4.maint := by
    simpa only [Prod.mk.injEq] using last
  refine ⟨(congrArg Hub.commons (hubT.trans hub4)), fun c low runs => ?_⟩
  have tested : c ∈ s.marchCores := State.mem_marchCores.2 ⟨low, runs⟩
  refine ⟨?_, ?_, fun m inside => ?_⟩
  · have core : t.core c = s1.core c := by
      unfold State.core
      rw [coresT, cores4, cores]
    rw [core, ← padded]
    exact foldl_of_mem (before := fun _ => True) (after := fun a : State => (a.core c).sp = [])
      (fun a _ => (a.core_marchPad c).trans (if_pos rfl)) (fun a b held => (a.core_marchPad b).trans (by rw [held, ite_self]))
      (fun _ _ _ _ => trivial) _ tested s trivial
  · rw [maintT, ← readmitted]
    exact foldl_of_mem (before := fun _ => True) (after := fun a : State => c ∉ a.maint.excluded)
      (fun a _ => a.not_excluded_readmit c)
      (fun a b held listed => held (List.mem_filter.1 listed).1)
      (fun _ _ _ _ => trivial) _ tested _ trivial
  · have mac : t.mac c m = s2.mac c m := by
      unfold State.mac
      rw [macrosT, macros4]
    have start : s1.mac c m = s.mac c m := by
      unfold State.mac
      rw [macros]
    have effect := State.mac_marched (s := s1) inside tested
    dsimp only at effect
    rw [macs, start] at effect
    rw [mac]
    exact effect

/-! ### The repair records and the runtime's start (steps 4, 6 and 7) -/

theorem exec_repairRecordsApplied (on : s.power.st = .on) (before : s.hub.inService = false) (log : s.maint.repairLog = [])
    (banks : s.maint.banks = []) (inside : m < 72) (one : s.maint.retired = [macKey c m]) (runs : (s.die (coreDie c)).runs = true) :
    exec .repairRecordsApplied s = .next (s.updMac c m fun x => { x with st := .retired }) := by
  refine congrArg Host.Outcome.next ((if_neg (by rw [on, before]; simp)).trans ?_)
  dsimp only
  rw [log, List.foldl_nil, one, List.foldl_cons, List.foldl_nil, (macKey_div inside).1, (macKey_div inside).2, if_pos runs]
  exact congrArg (List.foldl _ _) banks

/-- HRDY of a port rises where PERSTn_N is high (Table 14.6). -/
def HostPort.serve (h : HostPort) : HostPort := { h with hrdy := if h.hrdy = .boot ∧ h.perstN then .ready else h.hrdy }

theorem exec_runtimeInService (on : s.power.st = .on) (before : s.hub.inService = false) : exec .runtimeInService s =
    .next (((s.updHub fun h => { h with inService := true, admitting := true, paused := false }).updHost 0 HostPort.serve).updHost 1 HostPort.serve) :=
  congrArg Host.Outcome.next (if_neg (by rw [on, before]; simp))

theorem fld_idcodeWord : fld idcodeWord 27 12 = 0x5125 := by
  have low := Config.idcodeLow.isLt
  have high : Config.stepping.toNat % 16 < 16 := Nat.mod_lt _ (by decide)
  unfold idcodeWord
  generalize Config.idcodeLow.toNat = l at low ⊢
  generalize Config.stepping.toNat % 16 = h at high ⊢
  rw [fld, BitVec.toNat_ofNat, Nat.mod_eq_of_lt (by omega), bits]
  omega

/-- Settles O56: each step's resulting state is written out; the boot march's folds are followed one by one, each keeping what the others set. -/
theorem bootAndTestPort : Obligations.BootAndTestPort := by
  unfold Obligations.BootAndTestPort
  refine ⟨?_, ?_, ?_, ?_, ?_, ?_⟩
  · intro s c m on before log banks one runs
    exact ⟨_, exec_repairRecordsApplied on before log banks m.isLt one runs, congrArg MacroState.st (State.mac_updMac_self _ _ _ _), rfl, rfl⟩
  · exact fun s on before asked => ⟨_, exec_bootMarchDone on before asked, s.marched_effect⟩
  · intro s on before
    refine ⟨_, exec_runtimeInService on before, rfl, rfl, rfl, fun p two boot high => ?_, rfl⟩
    refine (congrArg HostPort.hrdy (State.host_bothHosts (s.updHub fun h => { h with inService := true, admitting := true, paused := false })
      HostPort.serve two)).trans (if_pos ⟨boot, high⟩)
  · exact fun s serves => congrArg Host.Outcome.next (if_pos (.inr serves))
  · exact fun s => ⟨⟨_, rfl, rfl, rfl, rfl⟩, fld_idcodeWord⟩
  · exact fun s => ⟨_, rfl, rfl, rfl, rfl⟩

end

end Sys2Proof.Machine

/-! PROOFS. The lanes of a tile in its windows: what a lane reads after lanes are put (Tables 2.5 and 2.7). -/

namespace Sys2Proof.Machine

section

variable {k k' : CoreState} {t : TileId} {i j l n : Nat} {v : Int} {x : LaneSt}

/-! ### One lane -/

theorem tileVal_end (t : TileId) (inside : i < 16384) : tileVal t i + 4 ≤ 0x04020000 := (tileVal_bounds t ⟨i, inside⟩).2.1

theorem tileStAddr_bounds (t : TileId) (inside : i < 16384) : 0x04020000 ≤ tileStAddr t i ∧ tileStAddr t i < 0x04022000 := by
  unfold tileStAddr
  cases t
  · dsimp only
    omega
  · dsimp only
    omega

theorem tileVal_apart (t : TileId) (other : i ≠ j) : tileVal t i + 4 ≤ tileVal t j ∨ tileVal t j + 4 ≤ tileVal t i := by
  unfold tileVal
  omega

theorem laneStOf_num (x : LaneSt) : laneStOf (laneStNum x) = x := by cases x <;> rfl

theorem laneStOf_congr {a b : Nat} (same : a % 4 = b % 4) : laneStOf a = laneStOf b := by
  unfold laneStOf
  rw [same]

theorem laneStNum_lt (x : LaneSt) : laneStNum x < 4 := by cases x <;> decide

theorem byte_laneSt {old : Nat} (low : old < 256) (x : LaneSt) (i : Nat) :
    (BitVec.ofNat 8 (old - old / 4 ^ (i % 4) % 4 * 4 ^ (i % 4) + laneStNum x * 4 ^ (i % 4))).toNat =
      old - old / 4 ^ (i % 4) % 4 * 4 ^ (i % 4) + laneStNum x * 4 ^ (i % 4) := by
  have num := laneStNum_lt x
  rw [BitVec.toNat_ofNat]
  generalize laneStNum x = n at num ⊢
  obtain place | place | place | place : i % 4 = 0 ∨ i % 4 = 1 ∨ i % 4 = 2 ∨ i % 4 = 3 := by omega
  all_goals rw [place]; omega

/-- The field of a lane reads what was put into it, and the other fields of its byte what they held. -/
theorem field_laneSt {old : Nat} (low : old < 256) (x : LaneSt) (i j : Nat) :
    (old - old / 4 ^ (i % 4) % 4 * 4 ^ (i % 4) + laneStNum x * 4 ^ (i % 4)) / 4 ^ (j % 4) % 4 =
      if j % 4 = i % 4 then laneStNum x else old / 4 ^ (j % 4) % 4 := by
  have num := laneStNum_lt x
  generalize laneStNum x = n at num ⊢
  obtain place | place | place | place : i % 4 = 0 ∨ i % 4 = 1 ∨ i % 4 = 2 ∨ i % 4 = 3 := by omega
  all_goals
    rw [place]
    obtain other | other | other | other : j % 4 = 0 ∨ j % 4 = 1 ∨ j % 4 = 2 ∨ j % 4 = 3 := by omega
    all_goals rw [other]; split <;> omega

theorem CoreState.laneSt_putLane (inI : i < 16384) (inJ : j < 16384) :
    (k.putLane t i v x).laneSt t j = if j = i then x else k.laneSt t j := by
  have old : ∀ a, 0x04020000 ≤ a → Win.read (Win.putN k.win (tileVal t i) 4 (v % 2 ^ 32).toNat) a = Win.read k.win a := fun a high =>
    Win.read_putN_ne (.inr (by have := tileVal_end t inI; omega))
  have here := (tileStAddr_bounds t inI).1
  unfold CoreState.putLane CoreState.putLaneSt CoreState.laneSt
  dsimp only
  rw [old _ here]
  by_cases byte : tileStAddr t j = tileStAddr t i
  · have same : j / 4 = i / 4 := by
      unfold tileStAddr at byte
      omega
    have field := field_laneSt (Win.read k.win (tileStAddr t i)).isLt x i j
    rw [byte, Win.read_write_self, byte_laneSt (Win.read k.win (tileStAddr t i)).isLt]
    by_cases this : j = i
    · rw [if_pos this, laneStOf_congr (b := laneStNum x) (by rw [field, if_pos (by rw [this]), Nat.mod_eq_of_lt (laneStNum_lt x)])]
      exact laneStOf_num x
    · rw [if_neg this]
      exact laneStOf_congr (by rw [field, if_neg (by omega)])
  · rw [Win.read_write_ne _ _ byte, old _ (tileStAddr_bounds t inJ).1, if_neg]
    rintro rfl
    exact byte rfl

theorem signed_lane (low : -2147483648 ≤ v) (high : v ≤ 2147483647) : signed 32 (v % 2 ^ 32).toNat = v := by
  unfold signed
  split <;> omega

theorem CoreState.lane_putLane (inI : i < 16384) (inJ : j < 16384) (low : -2147483648 ≤ v) (high : v ≤ 2147483647) :
    (k.putLane t i v x).lane t j = if j = i then v else k.lane t j := by
  have above : Win.getN (k.putLane t i v x).win (tileVal t j) 4 = Win.getN (Win.putN k.win (tileVal t i) 4 (v % 2 ^ 32).toNat) (tileVal t j) 4 :=
    congrArg leNat (Win.readN_congr fun a _ inside => Win.read_write_ne _ _ (by
      have := tileVal_end t inJ
      have := (tileStAddr_bounds t inI).1
      omega))
  unfold CoreState.lane
  rw [above]
  by_cases this : j = i
  · subst this
    rw [if_pos rfl, Win.getN_putN_self (by omega), signed_lane low high]
  · rw [if_neg this, Win.getN_putN_ne (tileVal_apart t this)]

/-! ### Lanes put one after the other -/

/-- The first lanes of a tile put. -/
def CoreState.putLanes (k : CoreState) (t : TileId) (f : Nat → Int × LaneSt) (n : Nat) : CoreState :=
  (List.range n).foldl (fun k i => k.putLane t i (f i).1 (f i).2) k

/-- The lanes from l up cleared (R41). -/
def CoreState.clearLanes (k : CoreState) (t : TileId) (l : Nat) : CoreState :=
  (List.range (16384 - l)).foldl (fun k i => k.putLane t (l + i) 0 .normal) k

theorem CoreState.putLanes_succ (f : Nat → Int × LaneSt) : k.putLanes t f (n + 1) = (k.putLanes t f n).putLane t n (f n).1 (f n).2 := by
  unfold CoreState.putLanes
  rw [List.range_succ, List.foldl_append]
  rfl

theorem CoreState.laneSt_putLanes (f : Nat → Int × LaneSt) (fits : n ≤ 16384) (inside : i < n) : (k.putLanes t f n).laneSt t i = (f i).2 := by
  induction n with
  | zero => exact absurd inside (Nat.not_lt_zero i)
  | succ n ih =>
    rw [CoreState.putLanes_succ, CoreState.laneSt_putLane (by omega) (by omega)]
    split
    next last => rw [last]
    next earlier => exact ih (by omega) (by omega)

theorem CoreState.lane_putLanes (f : Nat → Int × LaneSt) (range : ∀ i, -2147483648 ≤ (f i).1 ∧ (f i).1 ≤ 2147483647) (fits : n ≤ 16384) (inside : i < n) :
    (k.putLanes t f n).lane t i = (f i).1 := by
  induction n with
  | zero => exact absurd inside (Nat.not_lt_zero i)
  | succ n ih =>
    rw [CoreState.putLanes_succ, CoreState.lane_putLane (by omega) (by omega) (range n).1 (range n).2]
    split
    next last => rw [last]
    next earlier => exact ih (by omega) (by omega)

theorem CoreState.clearLanes_below (k : CoreState) (t : TileId) (inside : i < l) (fits : l ≤ 16384) :
    (k.clearLanes t l).lane t i = k.lane t i ∧ (k.clearLanes t l).laneSt t i = k.laneSt t i := by
  unfold CoreState.clearLanes
  refine List.foldlRecOn (motive := fun a : CoreState => a.lane t i = k.lane t i ∧ a.laneSt t i = k.laneSt t i) _ _ ⟨rfl, rfl⟩ fun a same d member => ?_
  rw [List.mem_range] at member
  rw [CoreState.lane_putLane (by omega) (by omega) (by decide) (by decide), CoreState.laneSt_putLane (by omega) (by omega), if_neg (by omega),
    if_neg (by omega)]
  exact same

theorem CoreState.putLanes_frame (k : CoreState) (t : TileId) (f : Nat → Int × LaneSt) (n : Nat) : ∃ w, k.putLanes t f n = { k with win := w } := by
  unfold CoreState.putLanes
  refine List.foldlRecOn (motive := fun a : CoreState => ∃ w, a = { k with win := w }) _ _ ⟨k.win, rfl⟩ fun a same d _ => ?_
  obtain ⟨w, same⟩ := same
  rw [same]
  exact ⟨_, rfl⟩

theorem CoreState.clearLanes_frame (k : CoreState) (t : TileId) (l : Nat) : ∃ w, k.clearLanes t l = { k with win := w } := by
  unfold CoreState.clearLanes
  refine List.foldlRecOn (motive := fun a : CoreState => ∃ w, a = { k with win := w }) _ _ ⟨k.win, rfl⟩ fun a same d _ => ?_
  obtain ⟨w, same⟩ := same
  rw [same]
  exact ⟨_, rfl⟩

/-! ### Writes outside the tile windows -/

/-- The windows of both tiles are as they were. -/
def CoreState.sameTiles (k k' : CoreState) : Prop := ∀ a, a < 0x04022000 → Win.read k'.win a = Win.read k.win a

theorem CoreState.sameTiles.lane (same : k.sameTiles k') (inside : i < 16384) : k'.lane t i = k.lane t i := by
  have bound := tileVal_end t inside
  exact congrArg (fun b => signed 32 (leNat b)) (Win.readN_congr fun a _ below => same a (by omega))

theorem CoreState.sameTiles.laneSt (same : k.sameTiles k') (inside : i < 16384) : k'.laneSt t i = k.laneSt t i := by
  unfold CoreState.laneSt
  rw [same _ (tileStAddr_bounds t inside).2]

end

end Sys2Proof.Machine

/-! PROOFS. What the row port leaves of the passes: a row operation, a repair or a write of STATE neither starts nor ends a pass, nor does it
touch a tile or take a command out of a core's queue (R26, R28). -/

namespace Sys2Proof.Machine

section

variable {s t : State} {c d m n row : Nat} {k : MacroState}

/-! ### The passes of a core -/

/-- The tiles of a core, its pass commands and the commands of its queue. -/
def CoreState.passes (k : CoreState) : Tile × Tile × Option PassRun × Option PassRun × List Nat := (k.ta, k.tb, k.pass, k.nextPass, k.queue.map (·.id))

/-- The macros of core c that are in a pass, and the passes of every core. -/
def State.passing (s : State) (c : Nat) : (Nat → Bool) × (Nat → Tile × Tile × Option PassRun × Option PassRun × List Nat) :=
  (fun m => (s.mac c m).passActive, fun d => (s.core d).passes)

theorem CoreState.passes_finish (k : CoreState) (id : Nat) (f : Byte) (e : BitVec 16) (x : W64) : (k.finish id f e x).passes = k.passes := by
  have ids : ((k.finish id f e x).queue.map (·.id)) = k.queue.map (·.id) := by
    show (k.queue.map _).map _ = _
    rw [List.map_map]
    refine List.map_congr_left fun q _ => ?_
    dsimp only [Function.comp]
    split <;> rfl
  unfold CoreState.passes
  rw [ids]
  rfl

theorem CoreState.passes_count (k : CoreState) (i : Nat) : (k.count i).passes = k.passes := rfl

theorem State.passing_congr (cores : t.cores = s.cores) (macros : t.macros = s.macros) : t.passing c = s.passing c := by
  unfold State.passing State.mac State.core
  rw [cores, macros]

theorem State.passing_setMac {v : MacroState} (same : v.passActive = (s.mac c m).passActive) : (s.setMac c m v).passing c = s.passing c := by
  refine Prod.ext (funext fun n => ?_) rfl
  show ((s.setMac c m v).mac c n).passActive = _
  by_cases this : n = m
  · rw [this, State.mac_setMac_self, same]
    rfl
  · rw [State.mac_setMac_ne s v fun key => this (macKey_inj key)]
    rfl

theorem State.passing_updMac {f : MacroState → MacroState} (same : (f (s.mac c m)).passActive = (s.mac c m).passActive) :
    (s.updMac c m f).passing c = s.passing c := State.passing_setMac same

theorem State.passing_setCore {v : CoreState} (same : v.passes = (s.core d).passes) : (s.setCore d v).passing c = s.passing c := by
  refine Prod.ext rfl (funext fun e => ?_)
  show ((s.setCore d v).core e).passes = _
  by_cases this : e = d
  · rw [this, State.core_setCore_self, same]
    rfl
  · rw [State.core_setCore_ne s v this]
    rfl

theorem State.passing_updCore {f : CoreState → CoreState} (same : (f (s.core d)).passes = (s.core d).passes) :
    (s.updCore d f).passing c = s.passing c := State.passing_setCore same

/-! ### Row operations (R26, R30) -/

theorem MacroState.passActive_stepState (k : MacroState) (by_ : Writer) (draw : Nat) (to_ : MacroSt) :
    (k.stepState by_ draw to_).passActive = k.passActive := by
  obtain ⟨_, _, _, _, _, arm⟩ := k.arm_frame
  unfold MacroState.stepState
  split
  case h_5 =>
    split
    · rfl
    · rw [arm]
  case h_15 =>
    split
    · rfl
    · rfl
  all_goals rfl

theorem MacroState.passActive_writeState (k : MacroState) (by_ : Writer) (draw : Nat) (to_ : MacroSt) :
    (k.writeState by_ draw to_).passActive = k.passActive := by
  unfold MacroState.writeState
  split
  · rfl
  · exact k.passActive_stepState by_ draw to_

theorem MacroState.fitSpare_frame {k1 : MacroState} {what : RepairKind} (fitted : k.fitSpare what = some k1) :
    ∃ a b e, k1 = { k with mrepRow := a, mrepCol := b, mrepMeta := e } := by
  unfold MacroState.fitSpare at fitted
  cases what with
  | row a =>
    dsimp only at fitted
    split at fitted
    · cases fitted
    · cases fitted
      exact ⟨_, _, _, rfl⟩
  | column seg pos =>
    dsimp only at fitted
    split at fitted
    · cases fitted
    · split at fitted
      · cases fitted
      · cases fitted
        exact ⟨_, _, _, rfl⟩
  | metaRow r =>
    dsimp only at fitted
    split at fitted
    · cases fitted
    · cases fitted
      exact ⟨_, _, _, rfl⟩

theorem State.passing_fieldRepair (s : State) (c m : Nat) (what : RepairKind) : (s.fieldRepair c m what).passing c = s.passing c := by
  unfold State.fieldRepair
  dsimp only
  split
  · split
    next k1 fitted =>
      obtain ⟨_, _, _, k1⟩ := MacroState.fitSpare_frame fitted
      refine State.passing_setMac ?_
      rw [k1]
      split
      · rfl
      · rfl
    next none_ =>
      exact (State.passing_congr (State.journal_cores ..) (State.journal_macros ..)).trans
        (State.passing_setMac ((s.mac c m).passActive_writeState _ _ _))
  · rfl

theorem MacroState.passActive_store (k : MacroState) (by_ : Writer) (row : Nat) (mask : BitVec 16) (data : BitVec 4096) (check : W128) :
    (k.store by_ row mask data check).passActive = k.passActive := by
  rw [MacroState.store_eq]
  rfl

theorem MacroState.passActive_noteRead (k : MacroState) (row : Nat) : (k.noteRead row).passActive = k.passActive := by
  obtain ⟨_, _, _, _, _, frame⟩ := k.noteRead_frame row
  rw [frame]

theorem State.passing_readFailed (s : State) (c m row : Nat) : (s.readFailed c m row).passing c = s.passing c := by
  have noted : (s.updMac c m fun k => { k with failedRows := k.failedRows ++ [(row, s.rowDiffs c m row)] }).passing c = s.passing c :=
    State.passing_updMac rfl
  unfold State.readFailed
  dsimp only
  split
  · exact s.passing_fieldRepair c m _
  · split
    · exact noted
    · split
      · exact (State.passing_updMac (by rfl)).trans noted
      · split
        · exact (State.passing_updMac (MacroState.passActive_store _ _ _ _ _ _)).trans noted
        · exact noted

theorem CoreState.passes_spWrite (k : CoreState) (a : Nat) (bs : List Byte) (fuel : Nat) : (k.spWrite fuel a bs).1.passes = k.passes := by
  obtain ⟨_, _, written⟩ := CoreState.spWrite_frame fuel k a bs
  rw [written]
  rfl

theorem CoreState.passes_noteParity (k : CoreState) (port a : Nat) (latent : Bool) : (k.noteParity port a latent).passes = k.passes := by
  obtain ⟨_, _, noted⟩ := k.noteParity_frame port a latent
  rw [noted]
  rfl

theorem State.passing_finish (s : State) (c d id : Nat) (f : Byte) (e : BitVec 16) (x : W64) :
    (s.updCore d fun k => k.finish id f e x).passing c = s.passing c := State.passing_updCore (CoreState.passes_finish _ _ _ _ _)

theorem State.passing_rowOp (s : State) (c m : Nat) (op : HeldOp) : (s.rowOp c m op).passing c = s.passing c := by
  cases op with
  | write by_ row mask data check =>
    unfold State.rowOp
    dsimp only
    split
    · exact State.passing_setMac (MacroState.passActive_store _ _ _ _ _ _)
    · rfl
  | read row =>
    have noted : (s.setMac c m ((s.mac c m).noteRead row.toNat)).passing c = s.passing c := State.passing_setMac (MacroState.passActive_noteRead _ _)
    unfold State.rowOp
    dsimp only
    split
    · split
      · exact noted
      · exact (State.passing_readFailed _ _ _ _).trans noted
    · rfl
  | state by_ to_ => exact State.passing_setMac (MacroState.passActive_stepState _ _ _ _)
  | aroww id row mask data =>
    unfold State.rowOp
    dsimp only
    split
    · exact (State.passing_updCore (f := fun k => (k.finish id 0 0 0).count 2) ((CoreState.passes_count _ 2).trans (CoreState.passes_finish _ id 0 0 0))).trans
        (State.passing_setMac (m := m) (MacroState.passActive_store _ _ _ _ _ _))
    · exact s.passing_finish c c id _ _ _
  | arowr id row o a =>
    unfold State.rowOp
    dsimp only
    split
    · have noted : (s.setMac c m ((s.mac c m).noteRead row)).passing c = s.passing c := State.passing_setMac (MacroState.passActive_noteRead _ _)
      have counted : ((s.setMac c m ((s.mac c m).noteRead row)).updCore c fun k => k.count 2).passing c = s.passing c :=
        (State.passing_updCore (by rfl)).trans noted
      generalize read : (if (s.mac c m).failing row = [] then (s.setMac c m ((s.mac c m).noteRead row)).updCore c fun k => k.count 2
        else ((s.setMac c m ((s.mac c m).noteRead row)).updCore c fun k => k.count 2).readFailed c m row) = s2
      have kept : s2.passing c = s.passing c := by
        rw [← read]
        split
        · exact counted
        · exact (State.passing_readFailed _ _ _ _).trans counted
      have written : (s2.setCore o ((s2.core o).spWrite 576 a ((s.mac c m).readRecord row)).1).passing c = s2.passing c :=
        State.passing_setCore (CoreState.passes_spWrite _ _ _ _)
      split
      · exact (s2.passing_finish c c id _ _ _).trans kept
      · split
        · exact (State.passing_finish _ _ _ _ _ _ _).trans ((State.passing_updCore (CoreState.passes_noteParity _ _ _ _)).trans (written.trans kept))
        · exact (State.passing_finish _ _ _ _ _ _ _).trans (written.trans kept)
    · exact s.passing_finish c c id _ _ _
  | check row =>
    have noted : (s.setMac c m ((s.mac c m).noteRead row)).passing c = s.passing c := State.passing_setMac (MacroState.passActive_noteRead _ _)
    unfold State.rowOp
    dsimp only
    split
    · exact (State.passing_fieldRepair _ _ _ _).trans noted
    · exact noted

theorem State.passing_flushGo (c m fuel : Nat) : ∀ s : State, (s.flushGo c m fuel).passing c = s.passing c := by
  induction fuel with
  | zero => exact fun _ => rfl
  | succ fuel ih =>
    intro s
    unfold State.flushGo
    dsimp only
    split
    · rfl
    · split
      · rfl
      · exact (ih _).trans ((State.passing_rowOp _ _ _ _).trans (State.passing_setMac rfl))

/-! ### The end of a pass at a macro -/

/-- The macro is free of the pass, and nothing else of the passes has changed. -/
theorem State.passEnds_passing (s : State) (c m : Nat) : (s.passEnds c m).passing c = (Function.update (s.passing c).1 m false, (s.passing c).2) := by
  have freed : ∀ v : MacroState, v.passActive = false → (s.setMac c m v).passing c = (Function.update (s.passing c).1 m false, (s.passing c).2) := by
    intro v off
    refine Prod.ext (funext fun n => ?_) rfl
    show ((s.setMac c m v).mac c n).passActive = Function.update (s.passing c).1 m false n
    by_cases this : n = m
    · rw [this, State.mac_setMac_self, off, Function.update_self]
    · rw [State.mac_setMac_ne s v fun key => this (macKey_inj key), Function.update_of_ne this]
      rfl
  unfold State.passEnds
  dsimp only
  split
  next what repairing =>
    refine freed _ ?_
    cases fitted : MacroState.fitSpare { s.mac c m with passActive := false } what with
    | none => rfl
    | some k1 =>
      obtain ⟨_, _, _, k1⟩ := MacroState.fitSpare_frame fitted
      rw [Option.getD_some, k1]
  · exact (State.passing_flushGo _ _ _ _).trans (freed _ rfl)

/-- The end of a pass at a macro where nothing waits: only the macro changes. -/
theorem State.passEnds_idle (nothing : (s.mac c m).held = []) : ∃ v : MacroState, s.passEnds c m = s.setMac c m v ∧ v.held = [] := by
  unfold State.passEnds
  dsimp only
  split
  next what repairing =>
    refine ⟨_, rfl, ?_⟩
    cases fitted : MacroState.fitSpare { s.mac c m with passActive := false } what with
    | none => exact nothing
    | some k1 =>
      obtain ⟨_, _, _, k1⟩ := MacroState.fitSpare_frame fitted
      rw [Option.getD_some, k1]
      exact nothing
  · exact ⟨_, State.flushHeld_of_none (by rw [State.mac_setMac_self]; exact nothing), nothing⟩

/-- The macros of a block, each freed of the pass. -/
def State.passesEnd (s : State) (c : Nat) (ms : List Nat) : State := ms.foldl (fun s m => s.passEnds c m) s

theorem State.passesEnd_cores (c : Nat) (ms : List Nat) : ∀ s : State, (∀ m ∈ ms, (s.mac c m).held = []) → (s.passesEnd c ms).cores = s.cores := by
  induction ms with
  | nil => exact fun _ _ => rfl
  | cons m ms ih =>
    intro s nothing
    obtain ⟨v, ended, free⟩ := State.passEnds_idle (nothing m List.mem_cons_self)
    have later : ∀ n ∈ ms, ((s.passEnds c m).mac c n).held = [] := by
      intro n member
      rw [ended]
      by_cases this : n = m
      · rw [this, State.mac_setMac_self, free]
      · rw [State.mac_setMac_ne s v fun key => this (macKey_inj key)]
        exact nothing n (List.mem_cons_of_mem _ member)
    refine (ih _ later).trans ?_
    rw [ended]
    rfl

theorem State.passesEnd_passing (c : Nat) (ms : List Nat) : ∀ s : State, ((s.passesEnd c ms).passing c).2 = (s.passing c).2 ∧
    ∀ m, ((s.passesEnd c ms).passing c).1 m = if m ∈ ms then false else (s.passing c).1 m := by
  induction ms with
  | nil => exact fun _ => ⟨rfl, fun _ => rfl⟩
  | cons m ms ih =>
    intro s
    obtain ⟨cores, macros⟩ := ih (s.passEnds c m)
    rw [s.passEnds_passing c m] at cores macros
    refine ⟨cores, fun n => (macros n).trans ?_⟩
    dsimp only
    by_cases this : n = m
    · subst this
      rw [Function.update_self, if_pos List.mem_cons_self, ite_self]
    · rw [Function.update_of_ne this]
      exact if_congr (by rw [List.mem_cons, or_iff_right this]) rfl rfl

end

end Sys2Proof.Machine

/-! PROOFS. The finish of a tile: lanes, the end of the command and its retry (R41, R48, R50, R55, Table 2.5). -/

namespace Sys2Proof.Machine

section

variable {s : State} {r : PassRun} {q : QEntry} {i : Nat}

/-! ### The lane range test (Table 2.5) -/

theorem finishLane_above {v : Int} (big : v > 2147483647) : finishLane .normal v = (2147483647, .posInf, true) := if_pos big

theorem finishLane_below {v : Int} (small : v < -2147483648) : finishLane .normal v = (-2147483648, .negInf, true) :=
  (if_neg (by omega)).trans (if_pos small)

theorem finishLane_within {v : Int} (low : -2147483648 ≤ v) (high : v ≤ 2147483647) : finishLane .normal v = (v, .normal, false) :=
  (if_neg (by omega)).trans (if_neg (by omega))

theorem finishLane_kept {x : LaneSt} (abnormal : x ≠ .normal) (v : Int) : (finishLane x v).2.1 = x ∧ (finishLane x v).2.2 = false := by
  cases x with
  | normal => exact absurd rfl abnormal
  | posInf => exact ⟨rfl, rfl⟩
  | negInf => exact ⟨rfl, rfl⟩
  | inv => exact ⟨rfl, rfl⟩

theorem finishLane_range (x : LaneSt) (v : Int) : -2147483648 ≤ (finishLane x v).1 ∧ (finishLane x v).1 ≤ 2147483647 := by
  cases x with
  | normal =>
    by_cases big : v > 2147483647
    · rw [finishLane_above big]
      decide
    · by_cases small : v < -2147483648
      · rw [finishLane_below small]
        decide
      · rw [finishLane_within (by omega) (by omega)]
        dsimp only
        omega
  | posInf => exact ⟨(by decide : (-2147483648 : Int) ≤ 2147483647), le_rfl⟩
  | negInf => exact ⟨le_rfl, (by decide : (-2147483648 : Int) ≤ 2147483647)⟩
  | inv => exact ⟨le_rfl, (by decide : (-2147483648 : Int) ≤ 2147483647)⟩

/-! ### The lanes that a finish leaves (R41) -/

/-- A lane's value before the range test: decided early, or its base and the sum of its columns. -/
def State.laneSum (s : State) (c : Nat) (r : PassRun) (w : W128) (i : Nat) : Int :=
  (Sparse.find? r.decided i).getD
    (Sparse.get r.baseVal 0 i + s.colSum c r w (pcA w - pcPlanes w) (i / r.lanesPer) (i % r.lanesPer))

/-- What the finish puts into a lane. -/
def State.finished (s : State) (c : Nat) (r : PassRun) (w : W128) (inv : Nat → Bool) (i : Nat) : Int × LaneSt :=
  let f := finishLane (Sparse.get r.baseSt .normal i) (s.laneSum c r w i)
  if inv i then (-2147483648, .inv) else (f.1, f.2.1)

theorem State.finishTile_lanes (s : State) (c : Nat) (r : PassRun) (w : W128) (inv : Nat → Bool) :
    (s.finishTile c r w inv).1 = if pcAcc w = 2 then (s.core c).putLanes (pcTile w) (s.finished c r w inv) (pcN w * r.lanesPer)
      else ((s.core c).putLanes (pcTile w) (s.finished c r w inv) (pcN w * r.lanesPer)).clearLanes (pcTile w) (pcN w * r.lanesPer) := by
  unfold State.finishTile CoreState.putLanes CoreState.clearLanes
  dsimp only
  rw [← List.foldl_hom Prod.fst (init := (s.core c, 0)) (fun a i => ?step)]
  case step =>
    unfold State.finished State.laneSum
    dsimp only
    split
    · rfl
    · cases Sparse.find? r.decided i <;> rfl

theorem State.finishTile_frame (s : State) (c : Nat) (r : PassRun) (w : W128) (inv : Nat → Bool) :
    ∃ m, (s.finishTile c r w inv).1 = { s.core c with win := m } := by
  obtain ⟨m, put⟩ := (s.core c).putLanes_frame (pcTile w) (s.finished c r w inv) (pcN w * r.lanesPer)
  rw [State.finishTile_lanes, put]
  split
  · exact ⟨m, rfl⟩
  · obtain ⟨m', cleared⟩ := CoreState.clearLanes_frame { s.core c with win := m } (pcTile w) (pcN w * r.lanesPer)
    exact ⟨m', cleared⟩

/-- Where no group fails, each lane in use holds what Table 2.5 makes of its sum. -/
theorem State.finishTile_lane {c : Nat} {w : W128} {inv : Nat → Bool} (fits : pcN w * r.lanesPer ≤ 16384) (inside : i < pcN w * r.lanesPer)
    (sound : inv i = false) :
    (s.finishTile c r w inv).1.lane (pcTile w) i = (finishLane (Sparse.get r.baseSt .normal i) (s.laneSum c r w i)).1 ∧
    (s.finishTile c r w inv).1.laneSt (pcTile w) i = (finishLane (Sparse.get r.baseSt .normal i) (s.laneSum c r w i)).2.1 := by
  have range : ∀ i, -2147483648 ≤ (s.finished c r w inv i).1 ∧ (s.finished c r w inv i).1 ≤ 2147483647 := by
    intro i
    unfold State.finished
    dsimp only
    split
    · decide
    · exact finishLane_range _ _
  have value : s.finished c r w inv i = ((finishLane (Sparse.get r.baseSt .normal i) (s.laneSum c r w i)).1,
      (finishLane (Sparse.get r.baseSt .normal i) (s.laneSum c r w i)).2.1) := if_neg (by rw [sound]; decide)
  have lane := (s.core c).lane_putLanes (t := pcTile w) (s.finished c r w inv) range fits inside
  have st := (s.core c).laneSt_putLanes (t := pcTile w) (s.finished c r w inv) fits inside
  rw [value] at lane st
  rw [State.finishTile_lanes]
  split
  · exact ⟨lane, st⟩
  · obtain ⟨lane', st'⟩ := ((s.core c).putLanes (pcTile w) (s.finished c r w inv) (pcN w * r.lanesPer)).clearLanes_below (pcTile w) inside fits
    exact ⟨lane'.trans lane, st'.trans st⟩

/-! ### The end of a command (R50, R53, R55) -/

theorem CoreState.sameTiles.trans {k k' k'' : CoreState} (first : k.sameTiles k') (second : k'.sameTiles k'') : k.sameTiles k'' :=
  fun a below => (second a below).trans (first a below)

theorem CoreState.sameTiles_putN (k : CoreState) {a n v : Nat} (above : 0x04022000 ≤ a) : k.sameTiles { k with win := Win.putN k.win a n v } :=
  fun _ below => Win.read_putN_ne (.inl (by omega))

theorem CoreState.sameTiles_observe (k : CoreState) (t : Nat) (mag : Option FV) (n clips : Nat) : k.sameTiles (k.observe t mag n clips) := by
  have above : 0x04022000 ≤ ahAddr t := by
    unfold ahAddr
    omega
  unfold CoreState.observe
  dsimp only
  split
  · exact ((k.sameTiles_putN (by omega)).trans (CoreState.sameTiles_putN _ (by omega))).trans (CoreState.sameTiles_putN _ (by omega))
  · exact fun _ _ => rfl

/-- The amax reports of a command change windows outside the tiles only. -/
theorem CoreState.passReports_effect (k : CoreState) (r : PassRun) (w : W128) (l infs : Nat) :
    (∃ m, k.passReports r w l infs = { k with win := m }) ∧ k.sameTiles (k.passReports r w l infs) := by
  have first : (∃ m, (if bitOf r.ahsrc 15 then k.observe (fld r.ahsrc 12 8) none (pcK w * segLen r.sparse) r.sats else k) = { k with win := m }) ∧
      k.sameTiles (if bitOf r.ahsrc 15 then k.observe (fld r.ahsrc 12 8) none (pcK w * segLen r.sparse) r.sats else k) := by
    split
    · exact ⟨k.observe_frame _ _ _ _, k.sameTiles_observe _ _ _ _⟩
    · exact ⟨⟨k.win, rfl⟩, fun _ _ => rfl⟩
  unfold CoreState.passReports
  dsimp only
  generalize (if bitOf r.ahsrc 15 then k.observe (fld r.ahsrc 12 8) none (pcK w * segLen r.sparse) r.sats else k) = k1 at first ⊢
  obtain ⟨⟨m, frame⟩, tiles⟩ := first
  split
  · obtain ⟨m', observed⟩ := k1.observe_frame (fld r.ahsrc 4 0) none l infs
    exact ⟨⟨m', by rw [observed, frame]⟩, tiles.trans (k1.sameTiles_observe _ _ _ _)⟩
  · exact ⟨⟨m, frame⟩, tiles⟩

theorem CoreState.rmObserve_frame (k : CoreState) (ctx ch bin : Nat) (learning : Bool) (margin limit : Nat) :
    ∃ m, (k.rmObserve ctx ch bin learning margin limit).1 = { k with win := m } := by
  unfold CoreState.rmObserve
  dsimp only
  split
  · exact ⟨_, rfl⟩
  · split
    · exact ⟨_, rfl⟩
    · exact ⟨_, rfl⟩

theorem CoreState.passes_rmObserve (k : CoreState) (ctx ch bin : Nat) (learning : Bool) (margin limit : Nat) :
    (k.rmObserve ctx ch bin learning margin limit).1.passes = k.passes := by
  obtain ⟨m, seen⟩ := k.rmObserve_frame ctx ch bin learning margin limit
  rw [seen]
  rfl

theorem CoreState.passes_putRm (k : CoreState) (d : Sparse Nat) (a : Nat) (v : W32) : (({ k with rmDone := d } : CoreState).putW32 a v).passes = k.passes := rfl

theorem CoreState.passes_pad (k : CoreState) (m : Memory) : ({ k with sp := m } : CoreState).passes = k.passes := rfl

theorem State.passing_bumpN (s : State) (c n : Nat) : (s.bumpN n).passing c = s.passing c := rfl

/-- The range monitor leaves the passes as they are. -/
theorem State.passing_monitor (s : State) (c ctx l : Nat) (decided : Sparse Int) (t : TileId) : (s.monitor c ctx l decided t).passing c = s.passing c := by
  unfold State.monitor
  dsimp only
  generalize List.range 1024 = channels
  split
  · rfl
  · generalize watched : channels.foldl (fun (a : CoreState × Option Nat) ch => _) (s.core c, none) = x
    have kept : x.1.passes = (s.core c).passes := by
      rw [← watched]
      refine List.foldlRecOn (motive := fun a : CoreState × Option Nat => a.1.passes = (s.core c).passes) _ _ rfl fun a same ch _ => ?_
      split
      · exact same
      · exact (CoreState.passes_rmObserve _ _ _ _ _ _ _).trans same
    split
    · split
      · exact State.passing_setCore ((CoreState.passes_putRm _ _ _ _).trans kept)
      · exact (State.passing_congr (State.journal_cores ..) (State.journal_macros ..)).trans (State.passing_setCore ((CoreState.passes_putRm _ _ _ _).trans kept))
    · exact State.passing_setCore ((CoreState.passes_putRm _ _ _ _).trans kept)

/-- The mask of an APRED: whatever comes of its write, the command is finished and no tile has changed (R48). -/
theorem State.maskWrite_effect (s : State) (c : Nat) (q : QEntry) (o : Operand) (bytes : List Byte) (ok : Byte) (es : BitVec 16) (det : W64) :
    ∃ (u : State) (f : Byte) (x : W64), s.maskWrite c q o bytes ok es det = u.updCore c (fun k => k.finish q.id f es x) ∧ u.passing c = s.passing c ∧
      (s.core c).sameTiles (u.core c) := by
  unfold State.maskWrite
  dsimp only
  split
  next away =>
    refine ⟨_, _, _, rfl, (State.passing_bumpN _ _ _).trans (State.passing_updCore (CoreState.passes_pad _ _)), fun a _ => ?_⟩
    rw [State.core_bumpN, State.core_updCore_ne _ _ away.1.symm]
  · have written : (s.aeWrite (o.core c) o.lo.toNat bytes).1.passing c = s.passing c := State.passing_setCore (CoreState.passes_spWrite _ _ _ _)
    have tiles : (s.core c).sameTiles ((s.aeWrite (o.core c) o.lo.toNat bytes).1.core c) := by
      obtain ⟨-, cores⟩ := s.padsOnly_aeWrite (o.core c) o.lo.toNat bytes
      obtain ⟨m, b, core⟩ := cores c
      rw [core]
      exact fun _ _ => rfl
    generalize s.aeWrite (o.core c) o.lo.toNat bytes = wr at written tiles ⊢
    obtain ⟨u, fail⟩ := wr
    dsimp only at written tiles ⊢
    cases fail with
    | none => exact ⟨u, _, _, rfl, written, tiles⟩
    | some a =>
      refine ⟨_, _, _, rfl, ?_, ?_⟩
      · exact (State.passing_bumpN _ _ _).trans ((State.passing_updCore (CoreState.passes_noteParity _ _ _ _)).trans
          ((State.passing_updCore (CoreState.passes_pad _ _)).trans written))
      · refine tiles.trans ?_
        rw [State.core_bumpN]
        unfold State.parityAt
        by_cases own : o.core c = c
        · rw [own, State.core_updCore_self, State.core_updCore_self]
          exact CoreState.sameTiles_putN _ (by decide)
        · rw [State.core_updCore_ne _ _ (Ne.symm own), State.core_updCore_ne _ _ (Ne.symm own)]
          exact fun _ _ => rfl

/-- The core once its command leaves the engine with the tile FULL. -/
def CoreState.fullOver (k : CoreState) (r : PassRun) (w : W128) : CoreState :=
  let infs := ((List.range (lanesInUse w r.wlog)).filter fun i => decide (k.laneSt (pcTile w) i = .posInf) || decide (k.laneSt (pcTile w) i = .negInf)).length
  ((k.setTile (pcTile w) { (k.tile (pcTile w)) with st := .full }).passReports r w (lanesInUse w r.wlog) infs).passOver

theorem State.passDone_effect (s : State) (c : Nat) (q : QEntry) (r : PassRun) (bad : List (Nat × Nat × Bool)) (newInf : Nat) (kf : CoreState) :
    let s1 := (s.setCore c (kf.fullOver r q.slot)).passesEnd c r.macs
    ∃ (u : State) (f : Byte) (e : BitVec 16) (x : W64), s.passDone c q r bad newInf kf = u.updCore c (fun k => k.finish q.id f e x) ∧ u.passing c = s1.passing c ∧
      (pcMon q.slot = 0 → (s1.core c).sameTiles (u.core c)) := by
  intro s1
  unfold State.passDone
  dsimp only
  generalize ended : List.foldl (fun (s : State) m => s.passEnds c m) _ r.macs = s2
  obtain rfl : s1 = s2 := ended
  generalize marked : bad.foldl (fun (s : State) b => _) s1 = s3
  have marks : s3.cores = s1.cores ∧ s3.passing c = s1.passing c := by
    rw [← marked]
    refine List.foldlRecOn (motive := fun a : State => a.cores = s1.cores ∧ a.passing c = s1.passing c) _ _ ⟨rfl, rfl⟩ fun a same b _ => ?_
    exact ⟨same.1, (State.passing_updMac rfl).trans same.2⟩
  generalize told : (if bad = [] ∧ newInf ≠ 0 then s3.journal eArrayInf kf.part 0 c q.tag kf.stepno q.addr (BitVec.ofNat 64 newInf) else s3) = s4
  have tells : s4.cores = s1.cores ∧ s4.passing c = s1.passing c := by
    rw [← told]
    split
    · exact ⟨(State.journal_cores ..).trans marks.1, (State.passing_congr (State.journal_cores ..) (State.journal_macros ..)).trans marks.2⟩
    · exact marks
  have watched : (s4.monitor c (pcMon q.slot) (lanesInUse q.slot r.wlog) r.decided (pcTile q.slot)).passing c = s1.passing c :=
    (State.passing_monitor _ _ _ _ _ _).trans tells.2
  have still : pcMon q.slot = 0 → (s1.core c).sameTiles ((s4.monitor c (pcMon q.slot) (lanesInUse q.slot r.wlog) r.decided (pcTile q.slot)).core c) := by
    intro off
    have idle : s4.monitor c (pcMon q.slot) (lanesInUse q.slot r.wlog) r.decided (pcTile q.slot) = s4 := if_pos (.inl off)
    rw [idle, State.core_congr tells.1 c]
    exact fun _ _ => rfl
  generalize s4.monitor c (pcMon q.slot) (lanesInUse q.slot r.wlog) r.decided (pcTile q.slot) = s5 at watched still ⊢
  split
  · obtain ⟨u, f, x, done, passing, tiles⟩ := s5.maskWrite_effect c q (fixedOperand (resolveHandle q.handles (pcMskH q.slot)) (lanesInUse q.slot r.wlog / 8) false true 1)
      (predMask (s5.core c) (pcTile q.slot) r.exitTab (pcTol q.slot) (lanesInUse q.slot r.wlog)) (if bad = [] then 0 else fArrayCheck) _ _
    exact ⟨u, f, _, x, done, passing.trans watched, fun off => (still off).trans tiles⟩
  · exact ⟨s5, _, _, _, rfl, watched, still⟩

/-! ### The finish itself -/

theorem CoreState.passEntry_mem {k : CoreState} (entry : k.passEntry = some (r, q)) : k.pass = some r ∧ q ∈ k.queue ∧ q.id = r.id := by
  unfold CoreState.passEntry at entry
  split at entry
  · cases entry
  next r' pass =>
    split at entry
    · cases entry
    next q' found =>
      cases entry
      exact ⟨pass, List.mem_of_find?_eq_some found, of_decide_eq_true (List.find?_some (p := fun q : QEntry => decide (q.id = r.id)) found)⟩

/-- The groups of a command that fail, by column, macro, group and whether the cause is META. -/
def State.failedGroups (s : State) (c : Nat) (r : PassRun) (w : W128) : List (Nat × Nat × Nat × Bool) :=
  (List.range (pcN w)).flatMap fun n => (List.range (pcK w)).flatMap fun k => (s.badGroups c r w n k).map fun g => (n, r.mac w n k, g.1, g.2)

/-- Whether a lane is of a group that fails. -/
def PassRun.failedLane (r : PassRun) (bad : List (Nat × Nat × Nat × Bool)) (i : Nat) : Bool :=
  bad.any fun b => decide (b.1 = i / r.lanesPer) && decide (b.2.2.1 = i % r.lanesPer / (r.lanesPer / 16))

theorem exec_tileFinish {c : CoreId} (entry : (s.core c).passEntry = some (r, q)) (running : r.phase = .running) (done : r.planesOver q.slot = true) :
    let bad := s.failedGroups c r q.slot
    let f := s.finishTile c r q.slot (r.failedLane bad)
    exec (.tileFinish c) s = .next (if bad = [] ∧ f.2 ≠ 0 ∧ pcRetry q.slot ∧ r.attempt < 2 then
        s.updCore c fun k => { k with pass := some { r with phase := .retryDue } }
      else s.passDone c q r (bad.map fun b => (b.2.1, b.2.2.1, b.2.2.2)) f.2 f.1) := by
  intro bad f
  show execTileFinish c s = _
  unfold execTileFinish
  rw [entry]
  exact congrArg Host.Outcome.next (if_pos ⟨running, done⟩)

theorem State.failedGroups_of_sound {c : Nat} {w : W128} (sound : ∀ n k, n < pcN w → k < pcK w → s.badGroups c r w n k = []) :
    s.failedGroups c r w = [] := by
  refine List.flatMap_eq_nil_iff.2 fun n column => List.flatMap_eq_nil_iff.2 fun k segment => ?_
  rw [sound n k (List.mem_range.1 column) (List.mem_range.1 segment)]
  rfl

theorem lanesInUse_eq (w : W128) (r : PassRun) : lanesInUse w r.wlog = pcN w * r.lanesPer := rfl

/-- The core that a finish leaves before its macros are freed: its tile FULL, the next command in its place, the rest as it was. -/
theorem CoreState.fullOver_effect (k : CoreState) (r : PassRun) (w : W128) : ∃ m, k.fullOver r w =
    { k.setTile (pcTile w) { (k.tile (pcTile w)) with st := .full } with win := m, pass := k.nextPass, nextPass := none } ∧
      k.sameTiles (k.fullOver r w) := by
  unfold CoreState.fullOver
  dsimp only
  obtain ⟨⟨m, told⟩, tiles⟩ := (k.setTile (pcTile w) { (k.tile (pcTile w)) with st := .full }).passReports_effect r w (lanesInUse w r.wlog)
    ((List.range (lanesInUse w r.wlog)).filter fun i => decide (k.laneSt (pcTile w) i = .posInf) || decide (k.laneSt (pcTile w) i = .negInf)).length
  rw [told] at tiles ⊢
  generalize pcTile w = T at tiles ⊢
  cases T with
  | ta => exact ⟨m, rfl, fun a below => tiles a below⟩
  | tb => exact ⟨m, rfl, fun a below => tiles a below⟩

/-- A command in a queue that is finished there. -/
theorem CoreState.finished_of_queued {k : CoreState} {id : Nat} (queued : id ∈ k.queue.map (·.id)) (f : Byte) (e : BitVec 16) (x : W64) :
    ∃ y ∈ (k.finish id f e x).queue, y.id = id ∧ y.st = .finished f e := by
  obtain ⟨z, member, same⟩ := List.mem_map.1 queued
  exact ⟨{ z with st := .finished f e, detail := x }, List.mem_map.2 ⟨z, member, if_pos same⟩, same, rfl⟩

theorem CoreState.tile_of_passes {k k' : CoreState} (same : k.passes = k'.passes) (t : TileId) :
    k.tile t = k'.tile t ∧ k.pass = k'.pass ∧ k.nextPass = k'.nextPass ∧ k.queue.map (·.id) = k'.queue.map (·.id) := by
  unfold CoreState.passes at same
  rw [Prod.mk.injEq, Prod.mk.injEq, Prod.mk.injEq, Prod.mk.injEq] at same
  obtain ⟨ta, tb, pass, next, queue⟩ := same
  refine ⟨?_, pass, next, queue⟩
  cases t with
  | ta => exact ta
  | tb => exact tb

/-- A command that ends: its tile is FULL, the staged one has its place, its macros are free, and its entry is finished. -/
theorem State.passDone_ends {c : Nat} {kf : CoreState} (entry : (s.core c).passEntry = some (r, q)) (lanes : ∃ m, kf = { s.core c with win := m })
    (bad : List (Nat × Nat × Bool)) (newInf : Nat) : ∃ t, s.passDone c q r bad newInf kf = t ∧
      ((t.core c).tile (pcTile q.slot)).st = .full ∧ (t.core c).pass = (s.core c).nextPass ∧ (t.core c).nextPass = none ∧
      (∀ m ∈ r.macs, (t.mac c m).passActive = false) ∧ (∃ e ∈ (t.core c).queue, e.id = q.id ∧ ∃ f x, e.st = .finished f x) ∧
      (pcMon q.slot = 0 → (∀ m ∈ r.macs, (s.mac c m).held = []) → kf.sameTiles (t.core c)) := by
  obtain ⟨u, f, e, x, done, passing, tiles⟩ := s.passDone_effect c q r bad newInf kf
  obtain ⟨m, left, still⟩ := kf.fullOver_effect r q.slot
  obtain ⟨cores, macros⟩ := State.passesEnd_passing c r.macs (s.setCore c (kf.fullOver r q.slot))
  have core : (u.updCore c fun k => k.finish q.id f e x).core c = (u.core c).finish q.id f e x := State.core_updCore_self ..
  have passes : (u.core c).passes = (kf.fullOver r q.slot).passes :=
    (congrFun ((congrArg Prod.snd passing).trans cores) c).trans (congrArg CoreState.passes (State.core_setCore_self ..))
  obtain ⟨tile, pass, next, -⟩ := CoreState.tile_of_passes (((u.core c).passes_finish q.id f e x).trans passes) (pcTile q.slot)
  obtain ⟨-, -, -, queue⟩ := CoreState.tile_of_passes passes (pcTile q.slot)
  obtain ⟨-, member, -⟩ := CoreState.passEntry_mem entry
  obtain ⟨w, frame⟩ := lanes
  rw [left] at tile pass next queue
  refine ⟨_, done, ?_, ?_, ?_, fun m member => ?_, ?_, fun off idle => ?_⟩
  · rw [core, tile]
    cases pcTile q.slot <;> rfl
  · rw [core, pass, frame]
  · rw [core, next]
  · have freed := congrFun (congrArg Prod.fst passing) m
    rw [macros m, if_pos member] at freed
    exact freed
  · rw [core]
    have queued : q.id ∈ (u.core c).queue.map (·.id) := by
      rw [queue, frame]
      cases pcTile q.slot <;> exact List.mem_map_of_mem member
    obtain ⟨y, listed, same, ended⟩ := CoreState.finished_of_queued queued f e x
    exact ⟨y, listed, same, f, e, ended⟩
  · rw [core]
    refine still.trans fun a below => (tiles off a below).trans ?_
    have kept := State.passesEnd_cores c r.macs (s.setCore c (kf.fullOver r q.slot)) idle
    rw [State.core_congr kept c, State.core_setCore_self]

/-- Settles O8: the finish is a retry asked for or the command's end; its lanes are followed through every later write to the core's windows. -/
theorem tileFinishEndsPass : Obligations.TileFinishEndsPass := by
  unfold Obligations.TileFinishEndsPass
  refine ⟨fun s c r q entry running done => ?_, fun v => ⟨finishLane_above, finishLane_below, fun within => finishLane_within within.1 within.2,
    fun x abnormal => finishLane_kept abnormal v⟩⟩
  have ran := exec_tileFinish entry running done
  dsimp only at ran
  obtain ⟨t, ends, tile, pass, next, macros, entries, tiles⟩ := State.passDone_ends entry (s.finishTile_frame c r q.slot (r.failedLane (s.failedGroups c r q.slot)))
    ((s.failedGroups c r q.slot).map fun b => (b.2.1, b.2.2.1, b.2.2.2)) (s.finishTile c r q.slot (r.failedLane (s.failedGroups c r q.slot))).2
  rw [ends] at ran
  by_cases retry : s.failedGroups c r q.slot = [] ∧ (s.finishTile c r q.slot (r.failedLane (s.failedGroups c r q.slot))).2 ≠ 0 ∧
      pcRetry q.slot = true ∧ r.attempt < 2
  · rw [if_pos retry] at ran
    obtain ⟨-, -, asked, attempts⟩ := retry
    exact ⟨_, ran, .inl ⟨asked, attempts, rfl⟩, fun never => absurd (never.symm.trans asked) (by decide)⟩
  · rw [if_neg retry] at ran
    refine ⟨t, ran, .inr ⟨tile, pass, next, macros, entries⟩, fun _ off idle fits sound i inside => ?_⟩
    have clean : r.failedLane (s.failedGroups c r q.slot) i = false := by
      rw [State.failedGroups_of_sound sound]
      rfl
    obtain ⟨value, st⟩ := State.finishTile_lane (s := s) (c := c) (r := r) fits inside clean
    have same := tiles off idle
    exact ⟨(same.lane (by omega)).trans value, (same.laneSt (by omega)).trans st⟩

end

end Sys2Proof.Machine

/-! PROOFS. The life of a pass command: the checks at the head, staging, release, planes and the retry (R33 to R50, R401). -/

namespace Sys2Proof.Machine

section

variable {s u : State} {c : CoreId} {q : QEntry} {wlog : Nat} {sparse : Bool} {x : HeadXlat}

/-! ### What passes the checks can be read (R144, R149) -/

/-- Operands that pass the checks together fail no step one by one. -/
theorem State.opFail_of_mem {win : Bool} {ops : List Operand} {o : Operand} (passes : s.checkOps c win ops = 0) (member : o ∈ ops) :
    s.opFail c win o = none := by
  cases fails : s.opFail c win o with
  | none => rfl
  | some f =>
    have listed : f ∈ ops.filterMap (s.opFail c win) := List.mem_filterMap.2 ⟨o, member, fails⟩
    unfold State.checkOps at passes
    dsimp only at passes
    split at passes
    next g first =>
      obtain ⟨n, -, found⟩ := List.exists_of_findSome?_eq_some first
      obtain ⟨o', -, fault⟩ := List.mem_filterMap.1 (List.mem_of_find?_eq_some found)
      exact absurd passes (State.opFail_range fault).2
    next nothing =>
      have miss := List.find?_eq_none.1 (List.findSome?_eq_none_iff.1 nothing f.1 (State.opFail_range fails).1) f listed
      exact absurd rfl (fun e => miss (decide_eq_true e))

/-- An operand that passes the checks is read whole from sound scratchpads. -/
theorem State.readOperand_of_checked {ops : List Operand} {o : Operand} (passes : s.checkOps c false ops = 0) (member : o ∈ ops)
    (reads : o.rd = true ∧ o.wr = false) (sound : ∀ d : Nat, (u.core d).badLanes = []) (windows : ∀ d : Nat, (u.core d).win = (s.core d).win)
    (part : (u.core c).part = (s.core c).part) : ∃ bs, u.readOperand c o = .ok bs := by
  have admitted : ¬(o.core c ≠ c ∧ u.nbAdmits c (o.core c) o.lo o.hi true false = false) := by
    rintro ⟨away, refused⟩
    have alone : s.checkOps c false [o] = 0 := by
      unfold State.checkOps
      rw [List.filterMap_cons, State.opFail_of_mem passes member]
      rfl
    have window := State.nbAdmits_of_checkOps alone away
    rw [reads.1, reads.2, ← State.nbAdmits_congr windows part, refused] at window
    cases window
  obtain ⟨bs, fetched⟩ := State.fetch_of_sound (sound (o.core c)) c (portOf .aePass) o.lo.toNat (o.hi - o.lo).toNat
  refine ⟨bs, ?_⟩
  unfold State.readOperand
  dsimp only
  rw [if_neg admitted, fetched]

/-! ### The operands of a pass command -/

/-- The operand of the activations. -/
def passAct (q : QEntry) (sparse : Bool) : Operand :=
  fixedOperand (resolveField q.handles (slotMid q.slot) q.xr1) (pcK q.slot * segLen sparse) true false 1
/-- The operand of the window mask. -/
def passMask (q : QEntry) (sparse : Bool) : Operand :=
  fixedOperand (resolveHandle q.handles (pcMskH q.slot)) (pcK q.slot * segLen sparse / 8) true false 1
/-- The operand of the exit table. -/
def passExits (q : QEntry) (wlog : Nat) : Operand :=
  fixedOperand (resolveHandle q.handles (pcExtH q.slot)) (16 * lanesInUse q.slot wlog) true false 1
/-- The operand of the preload. -/
def passPreload (q : QEntry) (wlog : Nat) : Operand :=
  fixedOperand (resolveField q.handles (slotLo q.slot) q.xr0) (4 * lanesInUse q.slot wlog + lanesInUse q.slot wlog / 4) true false 64

theorem mem_passOperands (q : QEntry) (wlog : Nat) (sparse : Bool) : passAct q sparse ∈ passOperands q wlog sparse ∧
    (pcMask q.slot = true → passMask q sparse ∈ passOperands q wlog sparse) ∧
    (pcPred q.slot = true ∨ pcExit q.slot ≠ 0 → passExits q wlog ∈ passOperands q wlog sparse) ∧
    (pcAcc q.slot = 1 → passPreload q wlog ∈ passOperands q wlog sparse) := by
  unfold passOperands
  dsimp only
  cases pred : pcPred q.slot with
  | true =>
    have unmasked : pcMask q.slot = false := by
      unfold pcMask
      rw [pred]
      rfl
    have fresh : pcAcc q.slot = 0 := by
      unfold pcAcc
      rw [pred]
      rfl
    rw [unmasked, fresh]
    refine ⟨?_, fun off => absurd off (by decide), fun _ => ?_, fun off => absurd off (by decide)⟩
    · exact List.mem_cons_of_mem _ (List.mem_cons_of_mem _ List.mem_cons_self)
    · exact List.mem_cons_self
  | false =>
    refine ⟨?_, fun masked => ?_, fun exits => ?_, fun preload => ?_⟩
    · exact List.mem_append_left _ (List.mem_append_right _ List.mem_cons_self)
    · rw [if_pos masked]
      exact List.mem_append_left _ (List.mem_append_left _ (List.mem_append_right _ List.mem_cons_self))
    · rw [if_neg (exits.resolve_left (by decide))]
      exact List.mem_append_left _ (List.mem_append_left _ (List.mem_append_left _ List.mem_cons_self))
    · rw [if_pos preload]
      exact List.mem_append_right _ List.mem_cons_self

/-- Every operand that an attempt reads can be read. -/
def State.readable (u : State) (c : Nat) (q : QEntry) (wlog : Nat) (sparse : Bool) : Prop :=
  ∀ o ∈ passOperands q wlog sparse, o.rd = true → o.wr = false → ∃ bs, u.readOperand c o = .ok bs

theorem State.stageExits_of_readable (reads : u.readable c q wlog sparse) : ∃ es, u.stageExits c q (lanesInUse q.slot wlog) = .ok es := by
  unfold State.stageExits
  split
  next used =>
    obtain ⟨bs, table⟩ := reads _ ((mem_passOperands q wlog sparse).2.2.1 used) rfl rfl
    cases store : u.exitStoreFor c q (lanesInUse q.slot wlog) with
    | ok y => exact ⟨some y, rfl⟩
    | error f =>
      unfold State.exitStoreFor at store
      dsimp only at store
      split at store
      · cases store
      · unfold passExits at table
        rw [table] at store
        cases store
  · exact ⟨none, rfl⟩

theorem State.stageBase_of_readable (reads : u.readable c q wlog sparse) (ts : Nat) : ∃ b, u.stageBase c q (lanesInUse q.slot wlog) ts = .ok b := by
  unfold State.stageBase
  dsimp only
  split
  next preload =>
    obtain ⟨bs, image⟩ := reads _ ((mem_passOperands q wlog sparse).2.2.2 preload) rfl rfl
    unfold passPreload at image
    rw [image]
    exact ⟨_, rfl⟩
  · split
    · exact ⟨_, rfl⟩
    · exact ⟨_, rfl⟩

/-- An attempt whose operands can be read is staged. -/
theorem State.stageAll_of_readable (reads : u.readable c q wlog sparse) (ts : Nat) : ∃ g, u.stageAll c q wlog sparse ts = .ok g := by
  obtain ⟨act, masked, -, -⟩ := mem_passOperands q wlog sparse
  obtain ⟨raw, activations⟩ := reads _ act rfl rfl
  obtain ⟨mb, mask⟩ : ∃ mb, (if pcMask q.slot then u.readOperand c (passMask q sparse) else .ok []) = .ok mb := by
    split
    next on => exact reads _ (masked on) rfl rfl
    next off => exact ⟨[], rfl⟩
  obtain ⟨es, exits⟩ := State.stageExits_of_readable reads
  obtain ⟨b, base⟩ := State.stageBase_of_readable reads ts
  unfold passAct at activations
  unfold passMask at mask
  unfold State.stageAll
  dsimp only
  rw [activations]
  dsimp only
  rw [mask]
  dsimp only
  rw [exits]
  dsimp only
  rw [base]
  exact ⟨_, rfl⟩

/-! ### The head of the queue (R33, R36) -/

/-- The outcome of a command that fails at the head. -/
def State.passFails (s : State) (c : Nat) (q : QEntry) (f : Byte) : Out := .next (s.setCore c ({ s.core c with xlat := none }.finish q.id f 0 0))

section

variable (start : (s.core c).nextStart .aePass = some q) (fresh : (s.core c).xlat = none)
include start fresh

theorem exec_passCmdAtHead_field (bad : passFieldBad q.slot = true) : exec (.passCmdAtHead c) s = s.passFails c q fAeField := by
  show execPassCmdAtHead c s = _
  unfold execPassCmdAtHead
  simp only [start, fresh, Option.filter_none, bad, if_true]
  rfl

theorem exec_passCmdAtHead_map (fields : passFieldBad q.slot = false) (unmapped : (s.core c).translate (pcMb q.slot) (pcK q.slot * pcN q.slot) = none) :
    exec (.passCmdAtHead c) s = s.passFails c q fAeMap := by
  show execPassCmdAtHead c s = _
  unfold execPassCmdAtHead
  simp only [start, fresh, Option.filter_none, fields, unmapped, Bool.false_eq_true, if_false]
  rfl

variable {ms : List Nat} (fields : passFieldBad q.slot = false) (mapped : (s.core c).translate (pcMb q.slot) (pcK q.slot * pcN q.slot) = some ms)
include fields mapped

theorem exec_passCmdAtHead_block (fault : s.blockFault c ms (pcN q.slot) ≠ 0) :
    exec (.passCmdAtHead c) s = s.passFails c q (s.blockFault c ms (pcN q.slot)) := by
  show execPassCmdAtHead c s = _
  unfold execPassCmdAtHead
  simp only [start, fresh, Option.filter_none, fields, mapped, Bool.false_eq_true, if_false, if_pos fault]
  rfl

variable (block : s.blockFault c ms (pcN q.slot) = 0)
include block

theorem exec_passCmdAtHead_operand (fault : s.checkOps c false (passOperands q (s.mac c (ms.headD 0)).wfmt.toNat (s.mac c (ms.headD 0)).sparse) ≠ 0) :
    exec (.passCmdAtHead c) s =
      s.passFails c q (s.checkOps c false (passOperands q (s.mac c (ms.headD 0)).wfmt.toNat (s.mac c (ms.headD 0)).sparse)) := by
  show execPassCmdAtHead c s = _
  unfold execPassCmdAtHead
  simp only [start, fresh, Option.filter_none, fields, mapped, Bool.false_eq_true, if_false, if_neg (not_not_intro block), if_pos fault]
  rfl

variable (operands : s.checkOps c false (passOperands q (s.mac c (ms.headD 0)).wfmt.toNat (s.mac c (ms.headD 0)).sparse) = 0)
include operands

theorem exec_passCmdAtHead_tile (gate : (s.core c).tileGate q = none) : exec (.passCmdAtHead c) s = s.passFails c q fAeTile := by
  show execPassCmdAtHead c s = _
  unfold execPassCmdAtHead
  simp only [start, fresh, Option.filter_none, fields, mapped, Bool.false_eq_true, if_false, if_neg (not_not_intro block),
    if_neg (not_not_intro operands), gate]
  rfl

theorem exec_passCmdAtHead_wait (gate : (s.core c).tileGate q = some false) : exec (.passCmdAtHead c) s =
    .next (s.setCore c { s.core c with xlat := some { id := q.id, macs := ms, ahsrc := (s.core c).w32 ahsrcAddr } }) := by
  show execPassCmdAtHead c s = _
  unfold execPassCmdAtHead
  simp only [start, fresh, Option.filter_none, fields, mapped, Bool.false_eq_true, if_false, if_neg (not_not_intro block),
    if_neg (not_not_intro operands), gate]

theorem exec_passCmdAtHead_go (gate : (s.core c).tileGate q = some true) : exec (.passCmdAtHead c) s =
    .next (s.takeTile c q { id := q.id, macs := ms, ahsrc := (s.core c).w32 ahsrcAddr }) := by
  show execPassCmdAtHead c s = _
  unfold execPassCmdAtHead
  simp only [start, fresh, Option.filter_none, fields, mapped, Bool.false_eq_true, if_false, if_neg (not_not_intro block),
    if_neg (not_not_intro operands), gate]

end

/-! ### The tile taken (R37 to R45) -/

/-- The state in which a command has its tile and is staged. -/
def State.tileTaken (s : State) (c : Nat) (q : QEntry) (x : Tile) : State :=
  (s.setCore c ({ (s.core c).setTile (pcTile q.slot) x with xlat := none }.updEntry q.id fun e => { e with st := .executing })).traceEv c 1 q.tag
    (slotNum .aePass) 1 0

theorem State.core_tileTaken (s : State) (c : Nat) (q : QEntry) (x : Tile) : (s.tileTaken c q x).core c =
    { (s.core c).setTile (pcTile q.slot) x with xlat := none }.updEntry q.id fun e => { e with st := .executing } := by
  unfold State.tileTaken
  rw [State.core_traceEv, State.core_setCore_self]

theorem State.core_tileTaken_ne (s : State) {c d : Nat} (q : QEntry) (x : Tile) (other : d ≠ c) : (s.tileTaken c q x).core d = s.core d := by
  unfold State.tileTaken
  rw [State.core_traceEv, State.core_setCore_ne _ _ other]

/-- What taking a tile leaves as it was at the core. -/
theorem State.tileTaken_kept (s : State) (c : Nat) (q : QEntry) (x : Tile) : ((s.tileTaken c q x).core c).win = (s.core c).win ∧
    ((s.tileTaken c q x).core c).part = (s.core c).part ∧ ((s.tileTaken c q x).core c).badLanes = (s.core c).badLanes ∧
    ((s.tileTaken c q x).core c).sp = (s.core c).sp ∧ ((s.tileTaken c q x).core c).pass = (s.core c).pass ∧
    ((s.tileTaken c q x).core c).nextPass = (s.core c).nextPass ∧ ((s.tileTaken c q x).core c).xlat = none ∧
    ((s.tileTaken c q x).core c).tile (pcTile q.slot) = x := by
  rw [State.core_tileTaken]
  cases pcTile q.slot with
  | ta => exact ⟨rfl, rfl, rfl, rfl, rfl, rfl, rfl, rfl⟩
  | tb => exact ⟨rfl, rfl, rfl, rfl, rfl, rfl, rfl, rfl⟩

theorem State.readable_tileTaken (passes : s.checkOps c false (passOperands q wlog sparse) = 0) (sound : ∀ d : Nat, (s.core d).badLanes = []) (x : Tile) :
    (s.tileTaken c q x).readable c q wlog sparse := by
  obtain ⟨win, part, bad, -⟩ := s.tileTaken_kept c q x
  refine fun o member rd wr => State.readOperand_of_checked passes member ⟨rd, wr⟩ (fun d => ?_) (fun d => ?_) part
  · by_cases own : d = c
    · rw [own, bad, sound]
    · rw [State.core_tileTaken_ne _ _ _ own, sound]
  · by_cases own : d = c
    · rw [own, win]
    · rw [State.core_tileTaken_ne _ _ _ own]

/-- A staged command: it executes, or waits behind the one that does. -/
theorem CoreState.addPass_effect (k : CoreState) (r : PassRun) : (k.addPass r).pass = some (k.pass.getD r) ∧
    (k.addPass r).nextPass = (if k.pass = none then k.nextPass else some r) ∧ (k.addPass r).xlat = k.xlat ∧ (k.addPass r).sp = k.sp ∧
    ∀ t, (k.addPass r).tile t = k.tile t := by
  unfold CoreState.addPass
  split
  next idle => exact ⟨by rw [idle]; rfl, by rw [if_pos idle], rfl, rfl, fun t => by cases t <;> rfl⟩
  next p busy => exact ⟨by rw [busy]; rfl, by rw [if_neg (by rw [busy]; exact fun h => by cases h)], rfl, rfl, fun t => by cases t <;> rfl⟩

/-- The effect of a staging that succeeds. -/
theorem State.staged_effect (s : State) (c : Nat) (q : QEntry) (x : Tile) (r : PassRun) (es : Option ExitStore) :
    let t := (s.tileTaken c q x).updCore c fun k => { k.addPass r with exits := es }
    (t.core c).pass = some ((s.core c).pass.getD r) ∧ (t.core c).nextPass = (if (s.core c).pass = none then (s.core c).nextPass else some r) ∧
      (t.core c).xlat = none ∧ (t.core c).tile (pcTile q.slot) = x ∧ (t.core c).sp = (s.core c).sp ∧ t.macros = s.macros ∧ t.ext = s.ext ∧
      ∀ d : Nat, d ≠ c → t.core d = s.core d := by
  intro t
  obtain ⟨-, -, -, sp, pass, next, xlat, tile⟩ := s.tileTaken_kept c q x
  obtain ⟨pass', next', xlat', sp', tile'⟩ := ((s.tileTaken c q x).core c).addPass_effect r
  have core : t.core c = { ((s.tileTaken c q x).core c).addPass r with exits := es } := State.core_updCore_self ..
  rw [pass] at pass' next'
  rw [core]
  refine ⟨pass', next'.trans (by rw [next]), xlat'.trans xlat, ?_, sp'.trans sp, ?_, ?_, fun d other => ?_⟩
  · refine Eq.trans ?_ ((tile' _).trans tile)
    cases pcTile q.slot <;> rfl
  · exact State.traceEv_macros ..
  · exact State.traceEv_ext ..
  · exact (State.core_updCore_ne _ _ other).trans (s.core_tileTaken_ne q x other)

/-- TSHIFT of a tile that a command takes (R41, R44). -/
def CoreState.takenShift (k : CoreState) (w : W128) (ts : Nat) : Prop :=
  pcAcc w = 0 ∧ ts = 0 ∨ pcAcc w = 1 ∧ ts = pcPreShift w ∨ pcAcc w = 2 ∧ ts = (k.tile (pcTile w)).tshift

theorem CoreState.takenShift.value {k : CoreState} {w : W128} {ts : Nat} (shift : k.takenShift w ts) : (pcAcc w = 0 → ts = 0) ∧
    (pcAcc w = 1 → ts = pcPreShift w) ∧ (pcAcc w = 2 → ts = (k.tile (pcTile w)).tshift) := by
  unfold CoreState.takenShift at shift
  omega

theorem CoreState.tile_withPass (k : CoreState) (p : Option PassRun) (t : TileId) : ({ k with pass := p } : CoreState).tile t = k.tile t := by
  cases t <;> rfl

theorem pcAcc_of_fields {w : W128} (fields : passFieldBad w = false) : pcAcc w = 0 ∨ pcAcc w = 1 ∨ pcAcc w = 2 := by
  have small : fld w 106 105 < 4 := fld_lt w 106 105
  cases pred : pcPred w with
  | true => exact .inl (if_pos pred)
  | false =>
    have acc : pcAcc w = fld w 106 105 := if_neg (by rw [pred]; decide)
    have listed : fld w 106 105 ≠ 3 := by
      intro three
      unfold passFieldBad at fields
      dsimp only at fields
      rw [pred] at fields
      exact of_decide_eq_false fields (.inr (Eq.mpr (if_neg (by decide)) (.inl three)))
    omega

theorem State.takeTile_run (passes : s.checkOps c false (passOperands q (s.mac c (x.macs.headD 0)).wfmt.toNat (s.mac c (x.macs.headD 0)).sparse) = 0)
    (sound : ∀ d : Nat, (s.core d).badLanes = []) {ts : Nat} (shift : (s.core c).takenShift q.slot ts) :
    ∃ (sp : Bool) (r : PassRun) (es : Option ExitStore), s.takeTile c q x =
      (s.tileTaken c q { st := .filling, spec := sp, tshift := ts }).updCore c (fun k => { k.addPass r with exits := es }) ∧
      r.id = q.id ∧ r.phase = .staged ∧ r.macs = x.macs ∧ r.planes = 0 ∧ r.attempt = 0 ∧ r.decided = [] ∧ r.before = (s.core c).tile (pcTile q.slot) := by
  have reads := fun y => State.readable_tileTaken passes sound y
  rcases shift with ⟨acc, rfl⟩ | ⟨acc, rfl⟩ | ⟨acc, rfl⟩
  all_goals
    unfold State.takeTile
    simp only [acc]
    split
    next f failed =>
      obtain ⟨g, staged⟩ := State.stageAll_of_readable (reads _) _
      exact absurd (failed.symm.trans staged) (by simp)
    next g staged => exact ⟨_, _, _, rfl, rfl, rfl, rfl, rfl, rfl, rfl, rfl⟩

/-! ### Release (R40, R292) -/

variable {r : PassRun}

/-- The macros of a block, all entering the pass. -/
def State.passesStart (s : State) (c : Nat) (ms : List Nat) : State := ms.foldl (fun s m => s.updMac c m fun x => { x with passActive := true }) s

theorem State.passesStart_frame (s : State) (c : Nat) (ms : List Nat) : ∃ macs, s.passesStart c ms = { s with macros := macs } := by
  unfold State.passesStart
  refine List.foldlRecOn (motive := fun a : State => ∃ macs, a = { s with macros := macs }) _ _ ⟨s.macros, rfl⟩ fun a same m _ => ?_
  obtain ⟨macs, same⟩ := same
  rw [same]
  exact ⟨_, rfl⟩

theorem State.passActive_passesStart {c : Nat} {ms : List Nat} {m : Nat} (s : State) (member : m ∈ ms) :
    ((s.passesStart c ms).mac c m).passActive = true := by
  refine foldl_of_mem (before := fun _ => True) (after := fun a : State => (a.mac c m).passActive = true)
    (fun a _ => ?_) (fun a n held => ?_) (fun _ _ _ _ => trivial) ms member s trivial
  · rw [State.mac_updMac_self]
  · by_cases this : n = m
    · rw [this, State.mac_updMac_self]
    · rw [State.mac_updMac_ne (Ne.symm this)]
      exact held

/-- Whether a macro cannot enter a pass yet. -/
def MacroState.holdsPass (k : MacroState) : Bool := k.repairBusy || !k.held.isEmpty || k.passActive

theorem MacroState.holdsPass_iff (k : MacroState) : k.holdsPass = true ↔ k.repairBusy = true ∨ k.held ≠ [] ∨ k.passActive = true := by
  unfold MacroState.holdsPass
  cases k.repairBusy <;> cases k.held <;> simp

theorem MacroState.leaving_of_free {k : MacroState} (nothing : k.held = []) : k.leaving = false := by
  unfold MacroState.leaving
  rw [nothing]
  rfl

section

variable (entry : (s.core c).passEntry = some (r, q)) (staged : r.phase = .staged)
include entry staged

theorem exec_passRelease_eq : exec (.passRelease c) s = .next (
    if (r.macs.any fun m => decide ((s.mac c m).st ≠ .armed) || (s.mac c m).leaving) = true then
      s.updCore c fun k => ((k.setTile (pcTile q.slot) r.before).passOver).finish q.id fMacroState 0 0
    else if (r.macs.any fun m => (s.mac c m).holdsPass) = false ∧ s.runningMacros (coreDie c) + r.macs.length ≤ (s.die (coreDie c)).allowance then
      (s.passesStart c r.macs).updCore c fun k => { k with pass := some { r with phase := .running } }
    else s) := by
  show execPassRelease c s = _
  unfold execPassRelease
  rw [entry]
  exact congrArg Host.Outcome.next (if_neg (not_not_intro staged))

theorem exec_passRelease_left (left : ∃ m ∈ r.macs, (s.mac c m).st ≠ .armed ∨ (s.mac c m).leaving = true) : exec (.passRelease c) s =
    .next (s.setCore c ((((s.core c).setTile (pcTile q.slot) r.before).passOver).finish q.id fMacroState 0 0)) := by
  rw [exec_passRelease_eq entry staged, if_pos]
  · rfl
  · obtain ⟨m, member, why⟩ := left
    refine List.any_eq_true.2 ⟨m, member, ?_⟩
    rw [Bool.or_eq_true, decide_eq_true_iff]
    exact why

theorem exec_passRelease_wait (armed : ∀ m ∈ r.macs, (s.mac c m).st = .armed ∧ (s.mac c m).leaving = false)
    (busy : (∃ m ∈ r.macs, (s.mac c m).holdsPass = true) ∨ (s.die (coreDie c)).allowance < s.runningMacros (coreDie c) + r.macs.length) :
    exec (.passRelease c) s = .next s := by
  have stays : (r.macs.any fun m => decide ((s.mac c m).st ≠ .armed) || (s.mac c m).leaving) = false := by
    refine List.any_eq_false.2 fun m member => ?_
    rw [(armed m member).1, (armed m member).2]
    decide
  rw [exec_passRelease_eq entry staged, if_neg (by rw [stays]; decide), if_neg]
  rintro ⟨free, fits⟩
  rcases busy with ⟨m, member, holds⟩ | many
  · exact List.any_eq_false.1 free m member holds
  · omega

theorem exec_passRelease_go (armed : ∀ m ∈ r.macs, (s.mac c m).st = .armed ∧ (s.mac c m).holdsPass = false)
    (fits : s.runningMacros (coreDie c) + r.macs.length ≤ (s.die (coreDie c)).allowance) :
    exec (.passRelease c) s = .next ((s.passesStart c r.macs).updCore c fun k => { k with pass := some { r with phase := .running } }) := by
  have stays : (r.macs.any fun m => decide ((s.mac c m).st ≠ .armed) || (s.mac c m).leaving) = false := by
    refine List.any_eq_false.2 fun m member => ?_
    have nothing : (s.mac c m).held = [] := by
      by_contra waits
      exact absurd (((s.mac c m).holdsPass_iff.2 (.inr (.inl waits))).symm.trans (armed m member).2) (by decide)
    rw [(armed m member).1, MacroState.leaving_of_free nothing]
    decide
  have free : (r.macs.any fun m => (s.mac c m).holdsPass) = false :=
    List.any_eq_false.2 fun m member holds => absurd (holds.symm.trans (armed m member).2) (by decide)
  rw [exec_passRelease_eq entry staged, if_neg (by rw [stays]; decide), if_pos ⟨free, fits⟩]

end

/-! ### Planes and early exit (R46) -/

/-- The evaluation of a plane keeps every lane decided before, and only decides lanes and stops columns. -/
theorem State.evalExit_effect (s : State) (c : Nat) (r : PassRun) (w : W128) (ts p : Nat) : ∃ d st, s.evalExit c r w ts p = { r with decided := d, stopped := st } ∧
    ∀ i v, Sparse.find? r.decided i = some v → Sparse.find? d i = some v := by
  unfold State.evalExit
  refine ⟨_, _, rfl, fun i v decided => ?_⟩
  refine List.foldlRecOn (motive := fun d : Sparse Int => Sparse.find? d i = some v) _ _ decided fun d held n _ => ?_
  refine List.foldlRecOn (motive := fun d : Sparse Int => Sparse.find? d i = some v) _ _ held fun d held l _ => ?_
  dsimp only
  split
  · exact held
  next undecided =>
    split
    next x _ =>
      have other : i ≠ n * r.lanesPer + l := by
        rintro rfl
        rw [held] at undecided
        exact undecided (.inl rfl)
      exact (Sparse.find?_insert_ne _ _ other).trans held
    · exact held

theorem exec_planeComplete (entry : (s.core c).passEntry = some (r, q)) (running : r.phase = .running) (more : r.planesOver q.slot = false) :
    ∃ r1, exec (.planeComplete c) s = .next (s.setCore c { s.core c with pass := some r1 }) ∧ r1.planes = r.planes + 1 ∧
        r1.macs = r.macs ∧ r1.staged = r.staged ∧ (pcExit q.slot = 0 → r1 = { r with planes := r.planes + 1 }) ∧
        ∀ i v, Sparse.find? r.decided i = some v → Sparse.find? r1.decided i = some v := by
  have ran : exec (.planeComplete c) s = .next (s.updCore c fun k => { k with pass := some (
      if pcExit q.slot ≠ 0 ∧ planeNow q.slot r.planes ≠ 0 then
        s.evalExit c { r with planes := r.planes + 1 } q.slot ((s.core c).tile (pcTile q.slot)).tshift (planeNow q.slot r.planes)
      else { r with planes := r.planes + 1 }) }) := by
    show execPlaneComplete c s = _
    unfold execPlaneComplete
    rw [entry]
    exact congrArg Host.Outcome.next (if_pos ⟨running, more⟩)
  refine ⟨_, ran, ?_⟩
  split
  next exits =>
    obtain ⟨d, st, effect, kept⟩ := s.evalExit_effect c { r with planes := r.planes + 1 } q.slot ((s.core c).tile (pcTile q.slot)).tshift
      (planeNow q.slot r.planes)
    rw [effect]
    exact ⟨rfl, rfl, rfl, fun none_ => absurd none_ exits.1, kept⟩
  · exact ⟨rfl, rfl, rfl, fun _ => rfl, fun _ _ held => held⟩

/-! ### The retry (R50, R401) -/

section

variable (entry : (s.core c).passEntry = some (r, q)) (due : r.phase = .retryDue)
include entry due

theorem exec_retryRestart_ok {s1 : State} {ts : Nat} {g : Staging} (higher : ((s.core c).tile (pcTile q.slot)).tshift + 1 = ts)
    (shifted : s.setCore c ((s.core c).setTile (pcTile q.slot) { ((s.core c).tile (pcTile q.slot)) with tshift := ts }) = s1)
    (staged : s1.stageAll c q r.wlog r.sparse ts = .ok g) : exec (.retryRestart c) s = .next (s1.updCore c fun k => { k with pass := some { r with
      phase := .running, attempt := r.attempt + 1, staged := g.xs, sats := g.sats, satAny := r.satAny || decide (g.sats ≠ 0), maskOff := g.off,
      baseVal := g.val, baseSt := g.st, decided := [], planes := 0, stopped := [] } }) := by
  subst higher shifted
  show execRetryRestart c s = _
  unfold execRetryRestart
  rw [entry]
  refine congrArg Host.Outcome.next ((if_pos due).trans ?_)
  dsimp only [State.updCore]
  rw [staged]

theorem exec_retryRestart_error {s1 : State} {ts : Nat} {f : ReadFail} (higher : ((s.core c).tile (pcTile q.slot)).tshift + 1 = ts)
    (shifted : s.setCore c ((s.core c).setTile (pcTile q.slot) { ((s.core c).tile (pcTile q.slot)) with tshift := ts }) = s1)
    (failed : s1.stageAll c q r.wlog r.sparse ts = .error f) : exec (.retryRestart c) s =
      .next (((s1.updCore c CoreState.passOver).passFail c q r.wlog (r.attempt + 1) r.satAny f).passesEnd c r.macs) := by
  subst higher shifted
  show execRetryRestart c s = _
  unfold execRetryRestart
  rw [entry]
  refine congrArg Host.Outcome.next ((if_pos due).trans ?_)
  dsimp only [State.updCore]
  rw [failed]
  rfl

end

/-- The lanes and the tile of a core whose operand read failed. -/
def CoreState.invalidated (k : CoreState) (w : W128) (l : Nat) : CoreState :=
  let k1 := k.putLanes (pcTile w) (fun _ => (-2147483648, .inv)) l
  let k2 := if pcAcc w = 2 then k1 else k1.clearLanes (pcTile w) l
  k2.setTile (pcTile w) { (k2.tile (pcTile w)) with st := .full }

theorem CoreState.invalidated_effect (k : CoreState) (w : W128) {l : Nat} (fits : l ≤ 16384) : ((k.invalidated w l).tile (pcTile w)).st = .full ∧
    (k.invalidated w l).pass = k.pass ∧ (k.invalidated w l).queue = k.queue ∧ ∀ i, i < l → (k.invalidated w l).laneSt (pcTile w) i = .inv := by
  unfold CoreState.invalidated
  dsimp only
  generalize put : k.putLanes (pcTile w) (fun _ => (-2147483648, .inv)) l = k1
  have lanes : ∀ i, i < l → k1.laneSt (pcTile w) i = .inv := by
    intro i inside
    rw [← put]
    exact CoreState.laneSt_putLanes _ fits inside
  obtain ⟨m, frame⟩ := k.putLanes_frame (pcTile w) (fun _ => (-2147483648, .inv)) l
  obtain ⟨m', frame'⟩ := k1.clearLanes_frame (pcTile w) l
  have cleared : ∃ m, (if pcAcc w = 2 then k1 else k1.clearLanes (pcTile w) l) = { k with win := m } := by
    split
    · exact ⟨m, put.symm.trans frame⟩
    · exact ⟨m', by rw [frame', ← put, frame]⟩
  have invalid : ∀ i, i < l → (if pcAcc w = 2 then k1 else k1.clearLanes (pcTile w) l).laneSt (pcTile w) i = .inv := by
    intro i inside
    split
    · exact lanes i inside
    · exact (k1.clearLanes_below (pcTile w) inside fits).2.trans (lanes i inside)
  generalize (if pcAcc w = 2 then k1 else k1.clearLanes (pcTile w) l) = k2 at cleared invalid ⊢
  obtain ⟨m, k2eq⟩ := cleared
  generalize pcTile w = T at invalid ⊢
  refine ⟨by rw [CoreState.tile_setTile_self], ?_, ?_, fun i inside => Eq.trans ?_ (invalid i inside)⟩
  · rw [k2eq]
    cases T <;> rfl
  · rw [k2eq]
    cases T <;> rfl
  · cases T <;> rfl

/-- What a failed operand read leaves: every lane in use INV, the tile FULL, the entry finished with the fault (R401). -/
theorem State.passFail_effect (s : State) (c : Nat) (q : QEntry) (wlog attempt : Nat) (sat : Bool) (f : ReadFail) (fits : lanesInUse q.slot wlog ≤ 16384) :
    let t := s.passFail c q wlog attempt sat f
    t.macros = s.macros ∧ ((t.core c).tile (pcTile q.slot)).st = .full ∧ (t.core c).pass = (s.core c).pass ∧
      (∀ i, i < lanesInUse q.slot wlog → (t.core c).laneSt (pcTile q.slot) i = .inv) ∧
      (q.id ∈ (s.core c).queue.map (·.id) → ∃ e ∈ (t.core c).queue, e.id = q.id ∧ ∃ x, e.st = .finished f.fault x) := by
  intro t
  generalize noted : (if f.fault = fSpParity then s.parityAt c (portOf .aePass) f.core f.addr else s) = s0
  have kept : s0.macros = s.macros ∧ (s0.core c).passes = (s.core c).passes := by
    rw [← noted]
    split
    · refine ⟨rfl, ?_⟩
      unfold State.parityAt
      by_cases own : c = f.core
      · rw [own, State.core_updCore_self, CoreState.passes_noteParity]
      · rw [State.core_updCore_ne _ _ own]
    · exact ⟨rfl, rfl⟩
  have ran : t = s0.updCore c fun k => (k.invalidated q.slot (lanesInUse q.slot wlog)).finish q.id f.fault
      (estatPass false false attempt (pcMask q.slot) (sat || f.sat) false false) (BitVec.ofNat 64 f.addr) := by
    rw [← noted]
    rfl
  obtain ⟨full, pass, queue, lanes⟩ := (s0.core c).invalidated_effect q.slot fits
  obtain ⟨-, passKept, -, queueKept⟩ := CoreState.tile_of_passes kept.2 .ta
  have core := State.core_updCore_self s0 c fun k => (k.invalidated q.slot (lanesInUse q.slot wlog)).finish q.id f.fault
      (estatPass false false attempt (pcMask q.slot) (sat || f.sat) false false) (BitVec.ofNat 64 f.addr)
  rw [← ran] at core
  generalize estatPass false false attempt (pcMask q.slot) (sat || f.sat) false false = es at ran core
  generalize (s0.core c).invalidated q.slot (lanesInUse q.slot wlog) = k at full pass queue lanes core
  refine ⟨by rw [ran]; exact kept.1, ?_, ?_, fun i inside => ?_, fun queued => ?_⟩
  · rw [core]
    refine Eq.trans ?_ full
    cases pcTile q.slot <;> rfl
  · rw [core]
    exact pass.trans passKept
  · rw [core]
    exact lanes i inside
  · rw [core]
    have member : q.id ∈ k.queue.map (·.id) := by
      rw [queue, queueKept]
      exact queued
    obtain ⟨y, listed, same, ended⟩ := CoreState.finished_of_queued member f.fault es (BitVec.ofNat 64 f.addr)
    exact ⟨y, listed, same, es, ended⟩

/-- Settles O7: the head's checks one after the other, the staging of a command whose operands can be read, the release by whether the block may
start, and a plane and a retry as their equations. -/
theorem passCommandLife : Obligations.PassCommandLife := by
  unfold Obligations.PassCommandLife
  refine ⟨fun s c q start => ?_, fun s c r q entry => ?_⟩
  · intro k fails fresh
    refine ⟨exec_passCmdAtHead_field start fresh, exec_passCmdAtHead_map start fresh, fun ms fields mapped => ?_⟩
    intro ops
    refine ⟨exec_passCmdAtHead_block start fresh fields mapped, exec_passCmdAtHead_operand start fresh fields mapped, fun block operands => ?_⟩
    refine ⟨exec_passCmdAtHead_tile start fresh fields mapped block operands, exec_passCmdAtHead_wait start fresh fields mapped block operands,
      fun gate sound => ?_⟩
    have ran := exec_passCmdAtHead_go start fresh fields mapped block operands gate
    obtain ⟨ts, shift⟩ : ∃ ts, (s.core c).takenShift q.slot ts := by
      rcases pcAcc_of_fields fields with acc | acc | acc
      · exact ⟨_, .inl ⟨acc, rfl⟩⟩
      · exact ⟨_, .inr (.inl ⟨acc, rfl⟩)⟩
      · exact ⟨_, .inr (.inr ⟨acc, rfl⟩)⟩
    obtain ⟨zero, preload, add⟩ := shift.value
    obtain ⟨sp, r, es, took, id, phase, macs, planes, attempt, decided, before⟩ :=
      State.takeTile_run (x := { id := q.id, macs := ms, ahsrc := (s.core c).w32 ahsrcAddr }) operands sound shift
    obtain ⟨pass, next, xlat, tile, pad, macros, ext, others⟩ := s.staged_effect c q { st := .filling, spec := sp, tshift := ts } r es
    rw [took] at ran
    refine ⟨_, r, ran, pass, next, xlat, id, phase, macs, planes, attempt, decided, before, ?_, ?_, ?_, ?_, pad, macros, ext, others⟩
    · rw [tile]
    · rw [tile]
      exact zero
    · rw [tile]
      exact preload
    · rw [tile]
      exact add
  · intro k busy tooMany
    refine ⟨fun staged armed fits => ?_, fun staged armed waits => ?_, exec_passRelease_left entry, exec_planeComplete entry, fun due => ?_⟩
    · obtain ⟨macs, frame⟩ := s.passesStart_frame c r.macs
      have free : ∀ m ∈ r.macs, (s.mac c m).st = .armed ∧ (s.mac c m).holdsPass = false := fun m member =>
        ⟨(armed m member).1, Bool.eq_false_iff.2 fun holds => (armed m member).2 ((s.mac c m).holdsPass_iff.1 holds)⟩
      refine ⟨_, exec_passRelease_go entry staged free (Nat.le_of_not_lt fits), ?_, fun m member => ?_, ?_, ?_, fun d other => ?_⟩
      · rw [State.core_updCore_self, frame]
        rfl
      · exact State.passActive_passesStart s member
      · rw [frame]
        rfl
      · rw [frame]
        rfl
      · rw [State.core_updCore_ne _ _ other, frame]
        rfl
    · exact exec_passRelease_wait entry staged armed
        (waits.imp_left fun ⟨m, member, why⟩ => ⟨m, member, (s.mac c m).holdsPass_iff.2 why⟩)
    · intro ts s1
      have core1 : s1.core c = k.setTile (pcTile q.slot) { (k.tile (pcTile q.slot)) with tshift := ts } := State.core_setCore_self ..
      refine ⟨fun g staged => ?_, fun f failed idle fits => ?_⟩
      · refine ⟨_, _, exec_retryRestart_ok entry due rfl rfl staged, congrArg CoreState.pass (State.core_updCore_self ..), rfl, rfl, rfl, rfl, rfl, rfl, ?_,
          rfl, rfl⟩
        rw [State.core_updCore_self]
        have shifted := congrArg (fun x : CoreState => (x.tile (pcTile q.slot)).tshift) core1
        dsimp only at shifted
        rw [CoreState.tile_setTile_self] at shifted
        exact (congrArg Tile.tshift (CoreState.tile_withPass _ _ _)).trans shifted
      · have ran := exec_retryRestart_error entry due rfl rfl failed
        obtain ⟨macros, full, pass, lanes, ended⟩ := (s1.updCore c CoreState.passOver).passFail_effect c q r.wlog (r.attempt + 1) r.satAny f fits
        have over_ : (s1.updCore c CoreState.passOver).core c = (k.setTile (pcTile q.slot) { (k.tile (pcTile q.slot)) with tshift := ts }).passOver :=
          (State.core_updCore_self ..).trans (congrArg CoreState.passOver core1)
        obtain ⟨-, member, -⟩ := CoreState.passEntry_mem entry
        rw [over_] at pass ended
        generalize (s1.updCore c CoreState.passOver).passFail c q r.wlog (r.attempt + 1) r.satAny f = t at ran macros full pass lanes ended
        have cores := State.passesEnd_cores c r.macs t fun m listed => (congrArg MacroState.held (State.mac_congr (s := s) macros c m)).trans (idle m listed)
        have core := State.core_congr cores c
        refine ⟨_, ran, ?_, ?_, ?_, ?_⟩
        · rw [core]
          exact full
        · rw [core, pass]
          cases pcTile q.slot <;> rfl
        · rw [core]
          exact lanes
        · rw [core]
          refine ended ?_
          cases pcTile q.slot <;> exact List.mem_map_of_mem member

end

end Sys2Proof.Machine
